-- ==== Sys2Proof/Word.lean ====
section
/-! DEFINITION. The word types of the VM64 (00_scope R9, R12, R18) and their plainest arithmetic. -/

namespace Sys2Proof

/-- A byte. -/
abbrev Byte := BitVec 8
/-- A set-up register or an instruction word (R12, R243). -/
abbrev Word := BitVec 32
/-- A 64-bit register, fence value or handle (R50, R52, R243). -/
abbrev DWord := BitVec 64

end Sys2Proof
end

