-- ==== Sys2Proof/Config.lean ====
section
/-! DEFINITION. What an implementation or its surroundings fix and the spec leaves open: uninterpreted constants
(free values) without a body, each named in the assumption log: entry 7 where a comment names no entry, entry 12 for the
constants of boot and identity, entry 35 for the members' hall_id. -/

namespace Sys2Proof

/-- The n-th fresh 64-bit value the spec leaves open (DESIGN CHOICE, log entry 7). -/
opaque Config.freeDWord : Nat → DWord
/-- The n-th fresh natural number below a bound the spec gives (DESIGN CHOICE, log entry 7). -/
opaque Config.freeBelow (n bound : Nat) : Nat
/-- The detail of a fault code to which the spec gives none, at its n-th use (DESIGN CHOICE, log entry 7). -/
opaque Config.openDetail (code n : Nat) : Nat
/-- The sign of a NaN that an operation forms from no NaN operand, at its n-th use, for an element (IEEE 754 leaves it
open; DESIGN CHOICE, log entry 7). -/
opaque Config.nanSign (n element : Nat) : Bool
/-- Offset of a die's local timer against the shared base (R39: the timers are not set to a common value). -/
opaque Config.timerOffset : Nat → Nat
/-- Units of response buffer space of a requester: die and endpoint key (R482 gives no size). -/
opaque Config.responseSpace (die endpoint : Nat) : Nat
/-- Units that the synchroniser FIFO of a standard interface holds: die and endpoint key (R38, R40 give no size). -/
opaque Config.fifoUnits (die endpoint : Nat) : Nat
/-- Factory table of learned phase power: port, tag, point, in mW per engine (R404 gives no contents). -/
opaque Config.factoryPhat (portB : Bool) (tag point : Nat) : Nat
/-- The Tolaux firmware key digest in ROM (SHAKE256-256 of its public key) and the manufacturing public key (R425, R434; PRESUMED,
log entry 12). -/
opaque Config.firmwareKeyDigest : List Byte
opaque Config.manufacturingKey : List Byte
/-- The digests of the components in an image's payload (R424, R425 give no layout of the payload; PRESUMED, log entry 12). -/
opaque Config.componentDigests : List Byte → List (List Byte)
/-- The ROM's own digest M0 (R425). -/
opaque Config.romDigest : List Byte
/-- The identity seed in antifuse (R428) and the module serial number, 16 bytes (R429). -/
opaque Config.identitySeed : List Byte
opaque Config.serial : List Byte
/-- What a port's link partner leaves in Link Status and in Data Link Feature Status: negotiated speed and width, and the partner's
features (R500, R511). -/
opaque Config.linkStatus (portB : Bool) : Nat
opaque Config.partnerFeatures (portB : Bool) : Nat
/-- The serial number of a host die, of port A's or of port B's (R416). -/
opaque Config.dieSerial (portB : Bool) : List Byte
/-- The manufacturing key's signature over the certificate's bytes 0x000-0x697 (R429; PRESUMED, log entry 12). -/
opaque Config.certificateSignature : List Byte → List Byte
/-- Does a patrol or command read of an uncorrectable codeword go undetected (R326: probability below 2^-20)? Draw number
and unit. -/
opaque Config.miscorrected (draw unit : Nat) : Bool
/-- Which object of the module's areas a unit outside every map holds part of, if any (R330 gives no layout; DESIGN CHOICE, log
entry 33). -/
opaque Config.unitOwner (draw unit : Nat) : Nat
/-- Has a problem or graph (`graph`) pages on a stack; is a store block held by a failed flash die (R330, R338 give no
places; DESIGN CHOICE, log entry 33)? -/
opaque Config.onStack (graph : Bool) (index stack : Nat) : Bool
/-- Does the on-die ECC of a stack report an error in a read of a unit (R324)? -/
opaque Config.onDieReport (draw unit : Nat) : Bool
/-- Did a store write that was cut off program a block (R340)? -/
opaque Config.programmed (draw block : Nat) : Bool
/-- Bytes of the vendor-defined firmware trace section of a dump (R476 type 8). -/
opaque Config.firmwareTrace : Nat → List Byte

/-- The word an instruction store holds beyond its task's image: engine, pc (R248 gives none). -/
opaque Config.staleInstruction (engine pc : Nat) : Word
/-- The hall_id of a cascade member (R375, R382: no register gives it). -/
opaque Config.memberHall : Nat → Nat
/-- Does every word of a sealed region read back as zero after the n-th wipe (R262)? -/
opaque Config.wipeClean : Nat → Bool
/-- Does a task window fit beside the resident annealing data of an engine (R249 gives no sizes)? Engine, bytes, draw. -/
opaque Config.windowFits (engine bytes draw : Nat) : Bool

end Sys2Proof
end

