-- ==== Sys2Proof/Syntax.lean ====
section
/-! DEFINITION. The commands of the block: one constructor per row of spec/opcode_table.json, with the operands the
command brings. A descriptor's opcode takes the identifier `c` of the started command it executes (09 R282); a launch is
named by its command's identifier `l`; a task instruction takes its engine `e`; a mailbox request takes its port. -/

namespace Sys2Proof

/-- A port and its host die: A is H0, B is H1 (R5, R266). -/
inductive Port where
  | A
  | B
deriving DecidableEq, Repr

/-- The two channels of a bridge direction (R24). -/
inductive Channel where
  | request
  | response
deriving DecidableEq, Repr

/-- An endpoint on a die (R25): a part by number (on a compute die engines 0-15 and the die controller 16, DESIGN CHOICE, log entry
44; the masters of R260 on a host die and 8 to 10 its I3C, SMBus and SPI controllers), an HBM pseudo-channel of a stack, a flash
channel, a fibre pair by its position on its die. -/
inductive Endpoint where
  | unit (n : Nat)
  | pseudoChannel (stack pc : Nat)
  | flash (channel : Nat)
  | fibre (position : Nat)
deriving DecidableEq, Repr

/-- A mesh packet (R25, R33): its header's fields and its 0-4 data units of 64 bytes. `response` is how many units the whole
response to a request has, and of a response how many units follow in later packets (R482). The operation of a request for an HBM
pseudo-channel is twice the number of its unit, and one more where it writes (DESIGN CHOICE, log entry 44). -/
structure Packet where
  src : Nat
  srcEndpoint : Endpoint
  dst : Nat
  dstEndpoint : Endpoint
  channel : Channel
  operation : Nat
  data : List (BitVec 512)
  tag : Nat
  loss : Nat
  response : Nat
deriving DecidableEq, Repr

/-- The unit count: the header and the data units (R25). -/
def Packet.units (p : Packet) : Nat := 1 + p.data.length

/-- What a scratchpad request does to its word (R253, R254): `lane` is the byte offset of an atomic in the word. -/
inductive SpdOp where
  | read
  | write (mask : Nat) (data : Nat)
  | atomicAdd (lane : Nat) (wide : Bool) (value : Nat)
  | atomicSwap (lane : Nat) (wide : Bool) (value : Nat)
deriving DecidableEq, Repr

/-- One request to a scratchpad, of a command if any: its master, for a tile its row group (R35), and its loss count, which the
handshake it enters by sets (R33); `flips` counts wrong bits in a lane it reads (R252). -/
structure SpdReq where
  command : Option Nat
  master : Nat
  group : Nat
  word : Nat
  op : SpdOp
  loss : Nat
  flips : Nat
deriving DecidableEq, Repr

/-- What a full march of a scratchpad finds: rows and spare rows that fail (R259). -/
structure March where
  rows : List Nat
  spares : List Nat
deriving DecidableEq, Repr

/-- A scale slot that slipped in transit (R188): the engine that pairs it, operand, block, tag found, and whether a module
crossing did it. -/
structure TagSlip where
  engine : Nat
  operand : Nat
  block : Nat
  found : Nat
  moduleCrossing : Bool
deriving DecidableEq, Repr

/-- The tamper record as the flash reserved area gives it back: count, inputs, MAC (R435). -/
structure TamperRecord where
  count : Nat
  inputs : Nat
  mac : List Byte
deriving DecidableEq, Repr

/-- MSI-X Enable and Function Mask as a configuration write leaves them (R454, R456). -/
structure MsixControl where
  enable : Bool
  mask : Bool
deriving DecidableEq, Repr

/-- A read of EVC_COUNT_n: through a port's BAR0, or by a management core of the die; of one word or of an aligned pair (R443,
R489, R498). -/
structure CountRead where
  host : Option Port
  wide : Bool
deriving DecidableEq, Repr

/-- The answer to a page request group (R270). -/
inductive PrgCode where
  | success
  | invalidRequest
  | responseFailure
deriving DecidableEq, Repr

/-- What an HBM access does to its 128-byte unit (R326, R327). -/
inductive UnitAccess where
  | read
  | writeWhole (data : List Byte)
  | writePart (offset : Nat) (data : List Byte)
deriving DecidableEq, Repr

/-- How a flash page read ends (R339). -/
inductive FlashRead where
  | hard
  | soft
  | stripe
  | lost
deriving DecidableEq, Repr

/-- Why a lane of a link is taken to have failed (R385): corrected errors of 4 codewords, loss of light for so many ns,
errors beyond the code's reach, or the receiving end's request on the lane-control signal of the reverse LS. -/
inductive LaneFault where
  | errors
  | dark (ns : Nat)
  | beyond
  | asked
deriving DecidableEq, Repr

/-- Measured values a cap controller period works on (R405): fixed load in W, input power in W, and per compute die its
static power at each point in mW, and measured power per engine (0: none measured). -/
structure PowerSample where
  fixedW : Nat
  inputW : Nat
  staticMw : List (List Nat)
  learnMw : List Nat
deriving DecidableEq, Repr

/-- What failed in the conversion (R409). -/
inductive ConversionFailure where
  | pointOfLoad (die : Nat)
  | sixVoltBus
  | phaseGroup
deriving DecidableEq, Repr

/-- What a host die reads of the two image slots of the boot flash, from their first byte on (R424, R425). -/
structure FlashReading where
  slotA : List Byte
  slotB : List Byte
deriving DecidableEq, Repr

/-- A TLP from the host, as its checks see it (R471). -/
inductive Tlp where
  | malformed (tag : Option Nat)
  | completion (tag : Nat) (poisoned : Bool) (status : Nat)
  | bar0Poisoned
  | bar0Misaligned (isRead : Bool)
  | translationMalformed (pasid page : Nat)
  | invalidationMalformed (pasid : Nat)
  | strayPrgResponse
deriving DecidableEq, Repr

/-- A standard interface that may lose its clock or link (R38, R40). -/
inductive StdInterface where
  | hbm (stack : Nat)
  | onfi (channel : Nat)
  | serialiser (die pair : Nat)
  | pcie (p : Port)
  | i3c (p : Port)
  | smbus (p : Port)
  | spi (p : Port)
deriving DecidableEq, Repr

/-- The commands, one constructor per row of the operation table, in the table's order. -/
inductive Instr where
    /-- PACKET_FORWARD (R26): A router forwards a mesh packet once its credit count for the next hop and channel
  covers the packet's unit count; the packet may wait for credit first. -/
  | packetForward (die : Nat) (presented : List Packet)
    /-- CREDIT_TOGGLE (R28): A credit toggle seen at a router raises the credit count by 1 and re-compares any packet
  held back. -/
  | creditToggle (die out : Nat) (ch : Channel)
    /-- BRIDGE_HANDSHAKE_TIMEOUT (R29): Step 3 or step 5 of a bridge handshake does not complete within 2 µs; the
  bridge direction is retrained onto the spare lane group, or the bridge is fenced. -/
  | bridgeHandshakeTimeout (die out half : Nat) (ch : Channel) (retrainPasses : Bool)
    /-- DETOUR_TABLE_SWITCH (R32): Once the channel at the router has drained, firmware replaces the router's table
  with the detour table for the fenced bridge. -/
  | detourTableSwitch (die : Nat) (ch : Channel) (bridge table order : Nat)
  /-- NO_OP (R284): Opcode 0x00 completes at once. -/
  | noOp (c : Nat)
  /-- FENCE_WAIT (R284): Opcode 0x01 waits until the fence is at or past the given value under R52. -/
  | fenceWait (c : Nat)
    /-- FENCE_WAIT_SATISFIED (R286): A pending fence wait completes when its fence reaches the value, or faults when
  the fence is destroyed. -/
  | fenceWaitSatisfied (c : Nat)
    /-- FENCE_SIGNAL (R285): Opcode 0x02 sets or adds to a fence after every earlier command of its queue has
  completed, then writes the mirror and the completion record. -/
  | fenceSignal (c : Nat)
  /-- QUEUE_BARRIER (R284): Opcode 0x03 completes when every earlier command of the queue has completed. -/
  | queueBarrier (c : Nat)
  /-- RESUME (R287): Opcode 0x04 returns a halted queue to ready, and acts as a no-op in a ready queue. -/
  | resume (c : Nat)
    /-- COPY (R194): Opcode 0x10 moves element bytes, scale slots and side entries unchanged, rewriting tags for the
  destination. -/
  | copy (c : Nat) (slips : List TagSlip)
    /-- CONVERT (R194): Opcode 0x11 writes each source value into the destination format under R183 to R185,
  quantising or dequantising. -/
  | convert (c : Nat) (slips : List TagSlip)
    /-- MATRIX_MULTIPLY (R216): Opcode 0x20 claims its slot and accumulates A times B over k into the slot, then
  combines, commits and writes the destination. -/
  | matrixMultiply (c : Nat)
    /-- CONVOLVE (R217): Opcode 0x21 accumulates a strided, dilated and padded convolution of the input with the
  filter. -/
  | convolve (c : Nat)
    /-- WRITE_OUT (R219): Opcode 0x22 writes the queue's kept array through the fuse to the destination, and releases
  it unless keep is set. -/
  | writeOut (c : Nat) (slips : List TagSlip)
  /-- RELEASE (R219): Opcode 0x23 discards the array that the queue keeps in the slot. -/
  | release (c : Nat)
  /-- SUM (R222): Opcode 0x30 reduces dim0 of the source under the accumulation rules. -/
  | sum (c : Nat)
  /-- COMBINE_PARTIALS (R223): Opcode 0x31 adds 1 to 16 ACC64 tensors under R205 and R206 on the vector units. -/
  | combinePartials (c : Nat) (slips : List TagSlip)
  /-- TOP_K (R224): Opcode 0x32 writes the k top-ranked dim0 indices of each row, and optionally their values. -/
  | topK (c : Nat) (slips : List TagSlip)
  /-- ELEMENT_WISE (R237): Opcode 0x40 applies the selected element-wise operation. -/
  | elementWise (c : Nat) (slips : List TagSlip)
    /-- NORMALISE (R238): Opcode 0x41 applies layer or root-mean-square normalisation to each row by the reference
  algorithm. -/
  | normalise (c : Nat) (slips : List TagSlip)
  /-- SOFTMAX (R239): Opcode 0x42 computes the softmax of each row by the reference algorithm. -/
  | softmax (c : Nat) (slips : List TagSlip)
  /-- OPTIMISER_STEP (R240): Opcode 0x43 updates weights and moments in place by the adaptive or momentum rule. -/
  | optimiserStep (c : Nat) (slips : List TagSlip)
    /-- LOAD (R88): Opcode 0x50 checks a problem source, builds its stored form in the problem area and returns a
  problem handle. -/
  | load (c : Nat)
    /-- RESCALE (R90): Opcode 0x51 rebuilds an existing problem from a source under a new scale_bias, keeping the
  handle. -/
  | rescale (c : Nat)
    /-- REGISTER_NEURAL_TERM (R153): Opcode 0x52 quantises a network and attaches it to, or removes it from, a range
  of blocks. -/
  | registerNeuralTerm (c : Nat)
  /-- UPDATE (R90): Opcode 0x53 replaces the linear terms, initial state or constant of a problem. -/
  | update (c : Nat)
  /-- FREE (R91): Opcode 0x54 releases a problem's stored form and makes its handle stale. -/
  | free (c : Nat)
  /-- ENERGY (R93): Opcode 0x55 evaluates the energy of a state and writes the energy record. -/
  | energy (c : Nat)
  /-- ANNEAL_LAUNCH (R110): Opcode 0x60 checks and starts an anneal run, fresh or a continuation, over the schedule. -/
  | annealLaunch (c : Nat)
  /-- LADDER_SET (R127): Opcode 0x61 validates and stores a replica ladder with the problem, or removes the ladder. -/
  | ladderSet (c : Nat)
  /-- RESULT_READ (R138): Opcode 0x62 writes a snapshot of a running launch's result area. -/
  | resultRead (c : Nat)
  /-- GRAPH_CREATE (R307): Opcode 0x70 checks a graph source and creates a graph at version 1. -/
  | graphCreate (c : Nat)
  /-- GRAPH_LAUNCH (R308): Opcode 0x71 checks the lanes, pins the current version and makes the root nodes ready. -/
  | graphLaunch (c : Nat)
  /-- PATCH (R317): Opcode 0x72 reads and checks a patch list and asks for the graph at its mutual-exclusion element. -/
  | patch (c : Nat)
    /-- PATCH_COMMIT (R317): Once the patch holds the graph, the version checks run, the new version is built and made
  current, and the old one is retired. -/
  | patchCommit (c : Nat)
  /-- GRAPH_DESTROY (R320): Opcode 0x73 makes the graph handle stale and frees each version when nothing pins it. -/
  | graphDestroy (c : Nat)
    /-- GRAPH_NODE_START (R310): A ready node is handed to its lane's fetch engine and starts as a command of that
  lane's queue. -/
  | graphNodeStart (l node : Nat)
    /-- GRAPH_NODE_COMPLETE (R312): A node completes; its successors may become ready, or after a fault no further
  node starts. -/
  | graphNodeComplete (l node : Nat)
  /-- STORE_CREATE (R344): Opcode 0x80 reserves blocks and creates a store bound to the queue's port and PASID. -/
  | storeCreate (c : Nat)
  /-- STORE_READ (R345): Opcode 0x81 reads store blocks into a buffer. -/
  | storeRead (c : Nat)
  /-- STORE_WRITE (R340): Opcode 0x82 writes store blocks from a buffer, atomically per 4 KiB block. -/
  | storeWrite (c : Nat)
    /-- STORE_PROGRAM_COMPLETE (R340): The data and map update of a store write have been programmed in flash, so the
  write completes. -/
  | storeProgramComplete (c : Nat)
  /-- STORE_TRIM (R344): Opcode 0x83 frees the physical space of blocks but keeps their reservation. -/
  | storeTrim (c : Nat)
  /-- STORE_REPORT (R346): Opcode 0x84 writes the tier record and, when a store is named, a store record. -/
  | storeReport (c : Nat)
  /-- STORE_DESTROY (R344): Opcode 0x85 frees a store's blocks and its reservation. -/
  | storeDestroy (c : Nat)
  /-- ALL_REDUCE (R378): Opcode 0x90 sums every member's contribution exactly on every member of the cascade. -/
  | allReduce (c : Nat) (slips : List TagSlip)
  /-- ALL_GATHER (R379): Opcode 0x91 concatenates every member's contribution along dim3. -/
  | allGather (c : Nat) (slips : List TagSlip)
    /-- BOUNDARY_EXCHANGE (R381): Opcode 0x92 runs an anneal launch with its blocks and replicas partitioned among the
  cascade members. -/
  | boundaryExchange (c : Nat)
  /-- SEND (R379): Opcode 0x93 transmits one tensor on a flow. -/
  | send (c : Nat) (slips : List TagSlip)
  /-- RECEIVE (R379): Opcode 0x94 writes one tensor received on a flow from an origin member. -/
  | receive (c : Nat)
  /-- SCHEDULE_LOAD (R382): Opcode 0x95 writes a schedule image into the target member's pending banks. -/
  | scheduleLoad (c : Nat)
  /-- SCHEDULE_ARM (R365): Opcode 0x96 arms the pending banks of every member for a transom frame. -/
  | scheduleArm (c : Nat)
    /-- LAUNCH_TASK (R249): Opcode 0xA0 allocates a window, loads the image and starts a task in context 1 of a
  sequencer. -/
  | launchTask (c : Nat)
  /-- ENQUEUE (R251): Opcode 0xA1 places a descriptor into a device-fed queue. -/
  | enqueue (c : Nat)
  /-- DEVICE_FED_SPACE_AVAILABLE (R251): A waiting enqueue places its descriptor once its device-fed queue has room. -/
  | deviceFedSpaceAvailable (c : Nat)
  /-- STOP_TASK (R250): Opcode 0xA2 ends the task on the named engine. -/
  | stopTask (c : Nat)
  /-- HALT (R244): Task instruction 0x00 ends the task with status 0. -/
  | taskHalt (e : Nat)
  /-- ADD (R244): Task instruction 0x01 adds two registers. -/
  | taskAdd (e : Nat)
  /-- SUB (R244): Task instruction 0x02 subtracts two registers. -/
  | taskSub (e : Nat)
  /-- AND (R244): Task instruction 0x03 takes the bitwise and of two registers. -/
  | taskAnd (e : Nat)
  /-- OR (R244): Task instruction 0x04 takes the bitwise or of two registers. -/
  | taskOr (e : Nat)
  /-- XOR (R244): Task instruction 0x05 takes the bitwise xor of two registers. -/
  | taskXor (e : Nat)
  /-- SHL (R244): Task instruction 0x06 shifts a register left. -/
  | taskShl (e : Nat)
  /-- SHR (R244): Task instruction 0x07 shifts a register right arithmetically. -/
  | taskShr (e : Nat)
  /-- MUL (R244): Task instruction 0x08 takes the low 64 bits of a product. -/
  | taskMul (e : Nat)
  /-- ADDI (R244): Task instruction 0x10 adds a signed immediate. -/
  | taskAddi (e : Nat)
  /-- LDW (R244): Task instruction 0x11 loads a 64-bit constant from the next two instruction words. -/
  | taskLdw (e : Nat)
  /-- LD (R244): Task instruction 0x18 loads a 64-bit word from the task window. -/
  | taskLd (e : Nat)
  /-- ST (R244): Task instruction 0x19 stores a 64-bit word into the task window. -/
  | taskSt (e : Nat)
  /-- AADD (R254): Task instruction 0x1A performs an atomic add at the scratchpad bank. -/
  | taskAadd (e : Nat)
  /-- ASWP (R254): Task instruction 0x1B performs an atomic swap at the scratchpad bank. -/
  | taskAswp (e : Nat)
  /-- BEQ (R244): Task instruction 0x20 branches if two registers are equal. -/
  | taskBeq (e : Nat)
  /-- BNE (R244): Task instruction 0x21 branches if two registers differ. -/
  | taskBne (e : Nat)
  /-- BLT (R244): Task instruction 0x22 branches on signed less-than. -/
  | taskBlt (e : Nat)
  /-- BLTU (R244): Task instruction 0x23 branches on unsigned less-than. -/
  | taskBltu (e : Nat)
  /-- LOOP (R244): Task instruction 0x24 decrements a register and branches while it is nonzero. -/
  | taskLoop (e : Nat)
  /-- WAITQ (R245): Task instruction 0x28 waits for a descriptor of a task-served queue. -/
  | taskWaitq (e : Nat)
    /-- WAITQ_SATISFIED (R245): A descriptor becomes available to a waiting waitq and is copied to the task in ring
  order. -/
  | waitqSatisfied (e : Nat)
    /-- ENQ (R245): Task instruction 0x29 places a descriptor into a device-fed queue, or reports that the queue is
  full. -/
  | taskEnq (e : Nat)
  /-- WAITF (R244): Task instruction 0x2A waits until a fence is at or past a value. -/
  | taskWaitf (e : Nat)
  /-- WAITF_SATISFIED (R286): The fence of a waiting waitf reaches the value, and the task continues. -/
  | waitfSatisfied (e : Nat)
  /-- SIGF (R244): Task instruction 0x2B signals a fence as a fence-signal command does. -/
  | taskSigf (e : Nat)
    /-- DONE (R245): Task instruction 0x2C writes the completion record of a handed-out descriptor, holding its first
  bytes back until sequence order allows. -/
  | taskDone (e : Nat)
  /-- TIME (R244): Task instruction 0x2D reads the engine's local timer. -/
  | taskTime (e : Nat)
  /-- RESERVED_INSTRUCTION (R244): A reserved task instruction ends the task with fault 0x3051. -/
  | reservedInstruction (e : Nat)
    /-- TASK_RAN_WITHOUT_WAITING (R249): A task runs longer than the command time limit without a wait instruction and
  ends with 0x3053. -/
  | taskRanWithoutWaiting (e : Nat)
    /-- DOORBELL_POLL (R279): The poll interval of a doorbell page expires; the fetch engine reads the page, checks
  the tails and adjusts the interval. -/
  | doorbellPoll (e pasid page : Nat)
    /-- DESCRIPTOR_READ (R280): A descriptor read of up to 8 descriptors completes and its descriptors are held for
  start. -/
  | descriptorRead (q : Nat)
    /-- COMMAND_START (R282): A fetched command starts once the queue order, fence and scoreboard conditions hold;
  reserved opcodes and nonzero reserved header bits fault here. -/
  | commandStart (q : Nat)
    /-- HOST_ACCESS (R270): A host-memory access looks its page up in the translation cache and, on a miss, sends an
  ATS translation request. -/
  | hostAccess (c va len : Nat) (write : Bool)
    /-- ATS_TRANSLATION_COMPLETION (R270): A translation completion arrives; the access proceeds, or a page request is
  sent, or the command faults. -/
  | atsTranslationCompletion (p : Port) (pasid page : Nat) (readable writable : Bool)
  /-- PRG_RESPONSE (R270): A page request group response arrives; the access translates again once or faults. -/
  | prgResponse (p : Port) (pasid page : Nat) (code : PrgCode)
  /-- PAGE_REQUEST_TIMEOUT (R270): A page request has no response within 200 ms, and the command faults with 0x4042. -/
  | pageRequestTimeout (p : Port) (pasid page : Nat)
    /-- ATS_INVALIDATION_REQUEST (R271): An invalidation request stops new use of the matching cache entries and waits
  for the accesses that used them. -/
  | atsInvalidationRequest (p : Port) (pasid page pages : Nat)
    /-- INVALIDATION_DRAIN_END (R271): The accesses drain, or 50 µs pass and the rest are abandoned; the invalidation
  completion is returned. -/
  | invalidationDrainEnd (p : Port)
    /-- COMMAND_TIME_LIMIT (R292): A command's count reaches the time limit, and the fetch engine sends the shutter
  signal. -/
  | commandTimeLimit (c : Nat)
    /-- SHUTTER_DRAIN_TIMEOUT (R292): An engine's accesses have not drained 50 µs after the shutter, so the command is
  killed on that engine. -/
  | shutterDrainTimeout (c e : Nat)
    /-- SHUTTER_COMPLETE (R292): Every engine has acknowledged the shutter, and the record with fault 0x4020 is
  written. -/
  | shutterComplete (c : Nat)
    /-- REALTIME_PREEMPT (R290): A real-time descriptor is fetched and start requests go to its sill engines, which
  stop issuing normal work. -/
  | realtimePreempt (q : Nat)
    /-- CONTEXT_SAVE (R229): Once any commit and the running group sequence have finished, the engine writes its five
  accumulator images. -/
  | contextSave (e : Nat)
    /-- CONTEXT_RESTORE (R230): When no real-time command runs and R230 allows it, the images are reloaded and normal
  work resumes. -/
  | contextRestore (e : Nat)
  /-- SETUP_CREATE_QUEUE (R294): Set-up op 1 checks and creates a queue. -/
  | setupCreateQueue (p : Port)
    /-- SETUP_DESTROY_QUEUE (R296): Set-up op 2 marks the queue dead, discards unstarted commands and drains or kills
  its started commands. -/
  | setupDestroyQueue (p : Port)
    /-- QUEUE_TEARDOWN_COMPLETE (R296): Every engine has acknowledged; outstanding accesses are abandoned, cache
  entries invalidated, and the teardown report written. -/
  | queueTeardownComplete (p : Port)
  /-- SETUP_CREATE_FENCE (R295): Set-up op 3 creates a fence. -/
  | setupCreateFence (p : Port)
  /-- SETUP_DESTROY_FENCE (R295): Set-up op 4 destroys a fence, and its waiters complete with a fault. -/
  | setupDestroyFence (p : Port)
  /-- SETUP_REQUEST_INVALID (R294): A set-up request with an undefined op fails with 0x4050. -/
  | setupRequestInvalid (p : Port)
  /-- QFE_ENGINE_PORT_WRITE (R267): A port-A write assigns engines to ports, except engines that hold queue slots. -/
  | qfeEnginePortWrite (p : Port) (n value : Nat)
  /-- QFE_SILL_WRITE (R288): A port-A write changes a port's sill within the half-port limit. -/
  | qfeSillWrite (p : Port) (n value : Nat)
    /-- QFE_TIME_LIMIT_WRITE (R291): A port-A write sets the command time limit, clamped, for commands that start
  later. -/
  | qfeTimeLimitWrite (p : Port) (value : Nat)
  /-- QFE_POLL_WRITE (R279): A write sets the port's poll interval bounds, with clamping. -/
  | qfePollWrite (p : Port) (value : Nat)
  /-- GROUP_SEQUENCE (R202): A tile runs one group sequence over its reduction range into the shadow slot. -/
  | groupSequence (c e elem elems lo len : Nat) (slips : List TagSlip)
    /-- PARTIAL_COMBINE (R205): Once every group sequence is done, the vector units combine each element's partials at
  the coarsest scale, escalating on overflow. -/
  | partialCombine (c : Nat)
    /-- ACCUMULATOR_COMMIT (R209): Once every engine is ready, the elements are brought to the final scale, the slot
  is committed, the destination written and the slot released. -/
  | accumulatorCommit (c : Nat) (slips : List TagSlip)
  /-- START_UP_SEQUENCE (R211): At power-up firmware runs a known-answer sequence on every engine. -/
  | startUpSequence (e : Nat) (march : March) (passes : Bool)
    /-- TEST_SEQUENCE (R211): An engine has had no claimed slot for 1 ms, and firmware runs a known-answer test on it,
  at most once per 60 s. -/
  | testSequence (e : Nat) (passes : Bool)
    /-- SHADOW_SET_EXCHANGE (R212): After a group sequence completes and the other set has drained, the active and
  shadow sets exchange roles. -/
  | shadowSetExchange (e : Nat) (good : Bool)
  /-- SCRATCHPAD_HANDSHAKE (R253): The scratchpad arbiter grants up to two compatible requests in one handshake. -/
  | scratchpadHandshake (b : Nat) (requests : List SpdReq)
    /-- BACKGROUND_PASS_START (R259): interval_ms after the previous pass began, a background test pass over regions 0
  to 191 begins. -/
  | backgroundPassStart (b : Nat)
  /-- REGION_PHASE_END (R256): A region's copy, march or restore phase ends and the next phase or region begins. -/
  | regionPhaseEnd (b : Nat) (badRows : List Nat)
  /-- SPD_TEST_CTRL_WRITE (R497): A write changes the background test enable and interval from the next pass start. -/
  | spdTestCtrlWrite (p : Port) (die value : Nat)
    /-- ANNEAL_BATCH (R101): An engine evaluates up to 64 candidates of a block, defers or decides each, and commits
  the accepted moves. -/
  | annealBatch (l r b : Nat)
    /-- TABLE_REBUILD_COMPLETE (R117): The background acceptance table is complete; a block slot held at the step
  boundary swaps and begins the step. -/
  | tableRebuildComplete (l r b : Nat)
  /-- EPOCH_END (R124): A block's last sweep of the epoch ends; it snapshots its state and sends its boundary values. -/
  | epochEnd (l r b : Nat)
    /-- BOUNDARY_VALUES_RECEIVED (R125): A neighbour's epoch boundary values arrive in the inbound buffer of their
  parity. -/
  | boundaryValuesReceived (l r b source : Nat)
    /-- ENERGY_REDUCTION (R124): Once every block's contribution is held, the replica energy is summed and the best
  and trace are captured. -/
  | energyReduction (l r : Nat)
    /-- EPOCH_START (R124): Once its conditions hold, a block forms X_i from the neighbour values and begins the next
  epoch. -/
  | epochStart (l r b : Nat)
    /-- RUN_SEED_ARRIVAL (R122): A seed from the key-grade generator arrives for a non-reproducible launch, which may
  then begin sweeping. -/
  | runSeedArrival (l : Nat)
    /-- BLOCK_PAGE_IN_COMPLETE (R336): A streamed block pair finishes paging in from the problem area, and the engine
  can run it. -/
  | blockPageInComplete (l r b : Nat)
  /-- NEURAL_ENGINE_ELIGIBLE (R161): A streamed neural-term launch waiting at acceptance finds an eligible engine. -/
  | neuralEngineEligible (l : Nat)
  /-- LAUNCH_COMPLETE (R135): An anneal launch writes its result area and then its completion record. -/
  | launchComplete (l : Nat)
  /-- MAP (R333): Map request op 0x10 places pages of the device range for a port and PASID. -/
  | map (p : Port)
  /-- MAP_ZEROING_COMPLETE (R333): Every page of a map has been written to zero, so the map completes. -/
  | mapZeroingComplete (p : Port)
  /-- UNMAP (R335): Map request op 0x11 stops new translations of a range and waits for accesses already translated. -/
  | unmap (p : Port)
    /-- UNMAP_DRAIN_END (R335): The accesses to the range drain, or after 50 µs the rest are abandoned, and the pages
  return to the pool. -/
  | unmapDrainEnd (p : Port)
  /-- BIND_STORE (R343): Map request op 0x12 binds a store to the requesting port and PASID. -/
  | bindStore (p : Port)
  /-- LIST_STORES (R343): Map request op 0x13 writes the list of stores bound to the port or unbound. -/
  | listStores (p : Port)
  /-- READ_DUMP (R347): Map request op 0x14 copies a flash dump slot to a buffer. -/
  | readDump (p : Port)
  /-- MAP_REQUEST_INVALID (R332): A map request with an undefined op fails with 0x2040. -/
  | mapRequestInvalid (p : Port)
    /-- HBM_ACCESS (R326): A 128-byte unit is read or written with its group's check symbols and corrected where
  possible. -/
  | hbmAccess (unit : Nat) (access : UnitAccess) (errors : List Nat) (c : Nat)
  /-- PATROL_SCRUB (R328): Patrol scrub reads and corrects every unit once in each 24 hours. -/
  | patrolScrub (unit : Nat) (errors : List Nat)
    /-- UNIT_RETIREMENT (R328): A 1 MiB range is held, copied to a spare unit and redirected, or removed from service
  when no spare unit is free. -/
  | unitRetirement (stack range : Nat)
    /-- PIN_LANE_REPAIR (R329): A pin with frequent corrected errors is remapped to a spare lane within 40 µs, or the
  stack is degraded or fenced. -/
  | pinLaneRepair (stack pc pin : Nat) (trains : Bool)
    /-- MEM_PROBLEM_AREA_WRITE (R330): A port-A write resizes the problem area and places it again, when no problem
  exists. -/
  | memProblemAreaWrite (p : Port) (value : Nat)
    /-- FLASH_PAGE_READ (R339): A flash page is read with LDPC decoding, retries and stripe rebuild, or the block is
  marked lost. -/
  | flashPageRead (store block c : Nat) (outcome : FlashRead)
  /-- FLASH_DIE_REBUILD (R339): A failed flash die is rebuilt into spare blocks while its reads are served by parity. -/
  | flashDieRebuild (channel target : Nat)
    /-- FLASH_PROGRAM_FAIL (R341): A block that fails program or erase is retired, its data rewritten elsewhere, and
  0xA031 logged. -/
  | flashProgramFail (channel block : Nat)
    /-- WEAR_LEVEL_COPY (R341): Erase counts that differ by more than 200 cause the block of lowest count to be copied
  out and freed. -/
  | wearLevelCopy (memDie : Nat)
    /-- RETENTION_REFRESH (R341): An erase block whose data is 90 days old, or needs soft decoding, is copied to a new
  block. -/
  | retentionRefresh (memDie block : Nat)
  /-- READ_DISTURB_COPY (R341): An erase block read 50 000 times since its last erase is copied to a new block. -/
  | readDisturbCopy (memDie block : Nat)
    /-- DUMP_MIRROR (R347): Firmware mirrors the dump into the flash slot not marked latest, then marks that slot
  latest. -/
  | dumpMirror (taken : Bool)
    /-- FRAME_START (R357): A physical frame begins at its aligned instant, and the frame header is sent on every live
  link. -/
  | frameStart
    /-- FRAME_HEADER_RECEIVED (R371): A frame header is received; slip tokens, repeat requests, acknowledgements and
  peer identity are taken from it. -/
  | frameHeaderReceived (die pair : Nat) (lanes : List (List Nat))
    /-- CODEWORD_RECEIVED (R353): A Naem codeword is decoded; its occurrence is delivered, or it is counted as lost
  and a repeat requested. -/
  | codewordReceived (die pair position : Nat) (lanes : List (List Nat))
  /-- REPEAT_WINDOW_EXPIRED (R373): An occurrence not repeated within 8 frames, or lost three times, fences the pair. -/
  | repeatWindowExpired (die pair position : Nat)
  /-- OPEN_SLOT_MESSAGE (R366): A management message is received in the open slot and passed to its source. -/
  | openSlotMessage (die pair slot : Nat) (lanes : List (List Nat))
  /-- MARKER_RECEIVED (R359): A hall frame marker arrives and advances locking, relock or alignment. -/
  | markerReceived (x3 : Bool) (frame periodPs phasePs : Nat)
    /-- MARKER_MISSING (R359): No marker arrives within 100 ns of its expected instant; the module switches source or
  enters holdover. -/
  | markerMissing (x3 : Bool)
  /-- HOLDOVER_LIMIT (R359): The holdover limit is reached, and the module enters degraded and logs 0x1043. -/
  | holdoverLimit
  /-- CALIBRATION (R358): Calibration measures the internal timing paths through the optical loopback taps. -/
  | calibration (die tempC : Nat)
  /-- LANE_FAILURE (R385): A failed lane is moved onto LS within 40 µs and 0x1040 is logged. -/
  | laneFailure (die pair lane : Nat) (why : LaneFault) (both : Bool)
    /-- OPX_FRAME_WRITE (R354): A write sets the frame period and open slot size while the role is standalone and both
  banks are empty. -/
  | opxFrameWrite (p : Port) (value : Nat)
    /-- OPX_CASCADE_WRITE (R375): A port-A write sets the cascade role, member number and slip lead when no cascade
  command is in flight. -/
  | opxCascadeWrite (p : Port) (value : Nat)
  /-- OPX_PAIR_RETRAIN (R386): A port-A write of the retrain bit retrains a fenced pair. -/
  | opxPairRetrain (p : Port) (die pair value : Nat)
    /-- FAST_LOOP (R400): Once per µs a die's fast loop compares its mean power with its budget and closes or reopens
  louvres. -/
  | fastLoop (die meanCw bankMv droopMv : Nat)
    /-- COLLECTIVE_HOLD_TIMEOUT (R407): A die is still over budget 20 µs after throttling; its collective louvres
  close, hold is marked and an urgent request sent. -/
  | collectiveHoldTimeout (die : Nat)
    /-- CAP_CONTROLLER_PERIOD (R405): Every 1 ms the cap controller learns phase power and sets every operating point
  and die budget. -/
  | capControllerPeriod (sample : PowerSample)
  /-- URGENT_ALLOCATION (R407): An urgent request makes the cap controller run an allocation within 50 µs. -/
  | urgentAllocation (sample : PowerSample)
  /-- RAIL_RAMP_COMPLETE (R395): A core rail reaches the set point of its new operating point. -/
  | railRampComplete (die : Nat)
  /-- MARGIN_TRIM (R397): After every 168 hours of powered time the margin of each die is trimmed by at most 5 mV. -/
  | marginTrim (die ageingMv : Nat)
  /-- DROOP_TO_NOMINAL (R397): A droop that reaches the nominal voltage raises the margin by 5 mV and logs 0x7011. -/
  | droopToNominal (die : Nat)
  /-- HOLD_UP_BANK_LOW (R391): The hold-up bank falls below 50 V, and every louvre closes to 4/16. -/
  | holdUpBankLow
    /-- INPUT_VOLTAGE_CHANGE (R392): The input voltage crosses a range boundary, with a logged excursion or fatal
  0xF702. -/
  | inputVoltageChange (millivolts : Nat)
  /-- OVERVOLTAGE_TIMEOUT (R392): Input above 62 V for more than 100 ms is fatal 0xF702. -/
  | overvoltageTimeout
  /-- THERMAL_CHANGE (R408): A die or stack temperature crosses a limit, and the module warns, throttles or trips. -/
  | thermalChange (stack : Bool) (part tempC : Nat)
  /-- THERMAL_TRIP_TIMEOUT (R408): A die at 105 °C for 1 ms is fatal 0xF701. -/
  | thermalTripTimeout (die : Nat)
    /-- POINT_OF_LOAD_FAILURE (R409): A failed point-of-load stage unpowers its die, fences its engines and logs
  0x7040. -/
  | pointOfLoadFailure (failure : ConversionFailure)
  /-- CONTROLLER_TAKEOVER (R404): H1's power controller takes over the cap controller within 1 ms of H0's failure. -/
  | controllerTakeover
  /-- PWR_CAP_WRITE (R406): A port-A write sets the module power cap, clamped, from the next period. -/
  | pwrCapWrite (p : Port) (value : Nat)
  /-- PWR_CTRL_WRITE (R402): A port-A write enables or disables burst operation. -/
  | pwrCtrlWrite (p : Port) (value : Nat)
    /-- PWR_PHASE_WRITE (R404): A write of a phase-table entry sets its priority and preferred point and resets its
  learned power. -/
  | pwrPhaseWrite (p : Port) (n value : Nat)
  /-- SOURCE_START (R414): The entropy source releases its oscillators, discards samples and runs the start-up test. -/
  | sourceStart (h : Port) (samples : Vector Byte 128)
    /-- ENTROPY_BLOCK_READY (R415): 1024 samples are conditioned into an entropy block, which instantiates, reseeds or
  is kept in reserve. -/
  | entropyBlockReady (h : Port) (samples : Vector Byte 128)
    /-- HEALTH_TEST_FAILURE (R420): A health test fails; output stops, the generator is zeroed, the count rises and
  the source restarts. -/
  | healthTestFailure (h : Port) (proportion startUp : Bool)
  /-- FAILURE_COUNT_DECAY (R420): 2^24 samples without failure since the last restart reset the failure count to 0. -/
  | failureCountDecay (h : Port)
  /-- GENERATOR_GRANT (R418): The output selector grants the pending request of highest priority. -/
  | generatorGrant (h : Port)
  /-- ENTROPY_STALL_TIMEOUT (R421): A hardware request unserved 100 µs after a failure receives an error. -/
  | entropyStallTimeout (h : Port)
  /-- LINK_NONCE_RETRY (R421): 1 ms after an error a link cipher asks the generator again for its nonce. -/
  | linkNonceRetry (die pair : Nat)
  /-- ENT_RNG_READ (R423): A 64-bit read at ENT_RNG_LO takes 32 fresh random bits or returns a status. -/
  | entRngRead (p : Port) (wide servedInTime : Bool)
    /-- BOOT (R425): Each host die reads, verifies and measures a firmware image, then loads the dies and trains the
  links. -/
  | boot (byH0 byH1 : FlashReading)
    /-- TAMPER_EVENT (R435): An asserted tamper input wipes the secrets, updates the tamper record and stops the
  module with 0xF801. -/
  | tamperEvent (inputs : Nat)
  /-- ATTEST (R430): Security op 0x30 writes a signed attestation report for a nonce. -/
  | attest (p : Port)
  /-- READ_CERTIFICATE (R429): Security op 0x31 returns the identity certificate. -/
  | readCertificate (p : Port)
  /-- LOAD_HALL_KEY (R431): Security op 0x32 decapsulates and stores a hall key, moving PROVISIONED to DEPLOYED. -/
  | loadHallKey (p : Port)
  /-- WITHDRAW_HALL_KEY (R434): Security op 0x33 destroys the hall key and returns the module to PROVISIONED. -/
  | withdrawHallKey (p : Port)
  /-- RETURN (R434): Security op 0x34 moves the module to RETURNED, destroying stores and keys. -/
  | returnModule (p : Port)
  /-- SCRAP (R434): Security op 0x35 moves the module to SCRAPPED and destroys the identity seed. -/
  | scrap (p : Port)
  /-- VENDOR_AUTHORISATION (R434): Security op 0x36 performs a transition that a vendor signature authorises. -/
  | vendorAuthorisation (p : Port)
  /-- COMMIT_SVN (R427): Security op 0x37 raises the fuse svn to the running image's svn. -/
  | commitSvn (p : Port)
  /-- SECURITY_REQUEST_INVALID (R436): A security request with an undefined op fails with 0x8205. -/
  | securityRequestInvalid (p : Port)
    /-- EVENT_MESSAGE (R443): An event message fires its source at both event controllers, counting or pending it and
  setting any host cause. -/
  | eventMessage (source : Nat)
  /-- WIRE_SOURCE_CHANGE (R441): A wire source passes its filter or level sense, and fires or follows the wire. -/
  | wireSourceChange (source : Nat) (high : Bool) (samples : Nat)
  /-- EVENT_CLAIM (R448): A core claims the presented source, which becomes active, and jumps to its vector. -/
  | eventClaim (h : Port) (core : Nat) (fast : Bool)
  /-- EVENT_COMPLETE (R449): A write to EVC_COMPLETE ends the active handler of a source. -/
  | eventComplete (h : Port) (core source : Nat)
  /-- EVC_COUNT_READ (R443): A read of EVC_COUNT_n returns the count and clears it. -/
  | evcCountRead (h : Port) (source : Nat) (read : CountRead)
  /-- EVC_MASK_SET (R445): Writing 1 masks a source. -/
  | evcMaskSet (h : Port) (k bits : Nat)
  /-- EVC_MASK_CLR (R445): Writing 1 unmasks a source. -/
  | evcMaskClr (h : Port) (k bits : Nat)
  /-- EVC_PEND_SET (R445): Writing 1 fires a source once. -/
  | evcPendSet (h : Port) (k bits : Nat)
  /-- EVC_PEND_CLR (R445): Writing 1 clears a source's count or pending bit, possibly withdrawing its presentation. -/
  | evcPendClr (h : Port) (k bits : Nat)
    /-- COALESCE_INTERVAL_EXPIRY (R451): The coalescing interval of a core passes, and its held sources become
  eligible. -/
  | coalesceIntervalExpiry (h : Port) (core : Nat)
  /-- CORE_SLEEP (R452): A core sleeps and its sources' state is copied into retention registers. -/
  | coreSleep (h : Port) (core : Nat)
  /-- CORE_WAKE (R452): An unmasked latched source wakes the core; the state is restored and the latches applied. -/
  | coreWake (h : Port) (core : Nat)
  /-- EVC_HOST_CAUSE_CLEAR (R453): An RW1C write clears host cause bits. -/
  | evcHostCauseClear (p : Port) (k bits : Nat)
  /-- DIE_CAUSE_CLEAR (R442): Firmware clears EVC_DIE_CAUSE bits with RW1C writes. -/
  | dieCauseClear (die bits : Nat)
    /-- MSIX_COALESCE_EXPIRY (R455): The interval of a vector passes, and its MSI-X message is sent, or its pending
  bit set if masked. -/
  | msixCoalesceExpiry (p : Port) (vector : Nat)
  /-- MSIX_VECTOR_UNMASK (R456): Unmasking a vector whose pending bit is set sends one message and clears the bit. -/
  | msixVectorUnmask (p : Port) (vector : Nat)
  /-- ENGINE_STALL (R467): A part of an engine that holds work makes no handshake for 20 µs with nothing outstanding. -/
  | engineStall (e : Nat) (cellsReadable : Bool)
  /-- ENGINE_FENCE (R467): An engine is stopped, removed from the map, and its queues are migrated within 40 µs. -/
  | engineFence (e cause : Nat) (cellsReadable : Bool)
  /-- ENGINE_RETURN (R469): A port-A write returns a fenced engine after recovery and a full march. -/
  | engineReturn (p : Port) (e : Nat) (march : March) (passes : Bool)
  /-- FLT_LOG_READ_IDX_WRITE (R464): A write copies the numbered log entry into FLT_LOG_ENTRY_0–7. -/
  | fltLogReadIdxWrite (p : Port) (index : Nat)
  /-- PCIE_TLP_RECEIVED (R471): A TLP from the host is received and checked for partner violations. -/
  | pcieTlpReceived (p : Port) (tlp : Tlp)
    /-- PCIE_COMPLETION_TIMEOUT (R471): A module read has had no completion for 50 ms, and its command faults with
  0x9205. -/
  | pcieCompletionTimeout (p : Port) (tag : Nat)
  /-- POSTED_CREDITS_WITHHELD (R471): Posted-write credits withheld for 100 µs put every queue of the port in error. -/
  | postedCreditsWithheld (p : Port)
    /-- PORT_LINK_DOWN (R472): A port's link goes down or PERST# asserts; its queues enter error and their commands
  drain. -/
  | portLinkDown (p : Port)
    /-- HOST_DIE_LOST (R473): A host die has had no answer from the other over the private wires for 1 ms, which is
  fatal 0xF002. -/
  | hostDieLost (lost : Port)
  /-- MODULE_RESET_REQUEST (R477): A write of 0x7E5E to FLT_RESET.key starts a module reset and warns the other port. -/
  | moduleResetRequest (p : Port) (key : Nat)
  /-- RESET_ACK (R478): The other port writes ack, ending step 2 of the reset. -/
  | resetAck (p : Port)
  /-- RESET_GRACE_EXPIRY (R478): 2 ms pass without an ack, so the running commands are killed. -/
  | resetGraceExpiry
    /-- RESET_DIES (R478): After the host reads and any mirror end, every die is reset and both links go down; boot
  follows. -/
  | resetDies
  /-- D3HOT_TRANSITION (R502): The function enters D3hot and its port's queues are handled as at a link down. -/
  | d3hotTransition (p : Port)
    /-- BUS_MASTER_ENABLE_CHANGE (R502): Clearing Bus Master Enable halts the port's requests, and setting it resumes
  them in order. -/
  | busMasterEnableChange (p : Port) (on memory parity serr : Bool) (msix : MsixControl) (words : List (Nat × Nat))
    /-- POWER_ON (R505): Input reaches 53 V; the hold-up bank charges, the rails rise, and the entropy source and boot
  follow. -/
  | powerOn (recordsAgree : Bool) (record : Option TamperRecord) (lidOpen : Bool) (absent : List Nat) (marchA marchB : March)
  /-- INPUT_COLLAPSE (R505): Input below 40 V stops the first stage at once and abandons any dump. -/
  | inputCollapse
    /-- SPI_HOLDOFF_CHANGE (R510): SPI_HOLDOFF# falls, releasing the flash bus and abandoning any reading, or rises,
  restarting boot at step 1. -/
  | spiHoldoffChange (high : Bool)
  /-- CLEAR_FAULTS (R508): PMBus 0x03 clears the STATUS_ bits and releases SMBALERT#. -/
  | clearFaults
  /-- SMBALERT_MASK (R508): PMBus 0x1B reads or writes the alert mask. -/
  | smbalertMask (status : Nat) (write : Option Nat)
  /-- STATUS_WORD (R508): PMBus 0x79 returns the status word. -/
  | statusWord
  /-- STATUS_INPUT (R508): PMBus 0x7C returns the input status. -/
  | statusInput
  /-- STATUS_TEMPERATURE (R508): PMBus 0x7D returns the temperature status. -/
  | statusTemperature
  /-- READ_VIN (R508): PMBus 0x88 returns the input voltage. -/
  | readVin
  /-- READ_IIN (R508): PMBus 0x89 returns the input current. -/
  | readIin
  /-- READ_TEMPERATURE_1 (R508): PMBus 0x8D returns the hottest die temperature. -/
  | readTemperature1
  /-- READ_TEMPERATURE_2 (R508): PMBus 0x8E returns the hottest HBM stack temperature. -/
  | readTemperature2
  /-- READ_PIN (R508): PMBus 0x97 returns the input power. -/
  | readPin
  /-- MFR_ID (R508): PMBus 0x99 returns the manufacturer name. -/
  | mfrId
  /-- MFR_MODEL (R508): PMBus 0x9A returns the model. -/
  | mfrModel
  /-- MFR_SERIAL (R508): PMBus 0x9E returns the serial number. -/
  | mfrSerial
  /-- MFR_MODULE_RESET (R509): PMBus 0xD0 with 0x7E5E requests a module reset from the board controller. -/
  | mfrModuleReset (value : Nat)
  /-- MFR_LIFECYCLE (R508): PMBus 0xD1 returns the life-cycle word. -/
  | mfrLifecycle
  /-- STATISTIC_CLEAR (R458): A write of zero to an RS count, or of 1 to its saturated flag, clears the counter. -/
  | statisticClear (p : Port) (offset value : Nat)
  /-- REGISTER_WRITE (R13): A write to any other register acts on its fields by their types. -/
  | registerWrite (p : Port) (byCore : Bool) (offset value : Nat) (wide : Bool)
    /-- STANDARD_INTERFACE_LOSS (R40): An HBM3E, ONFI or optical serialiser interface loses its clock or link; the
  fabric side of its synchroniser stops accepting packets once its FIFO is full. -/
  | standardInterfaceLoss (interface : StdInterface)
    /-- HOLD_UP_BANK_RECOVERED (R391): The hold-up bank rises back above 54 V; bank_low clears with one event and the
  louvres may reopen. -/
  | holdUpBankRecovered
    /-- PORT_LINK_UP (R472): A port's link comes up again after a link down or PERST# deassertion, so the port's dump
  window and host recovery become usable. -/
  | portLinkUp (p : Port)
    /-- D3HOT_EXIT (R502): The function returns from D3hot to D0; BAR0 is reachable at once and the recovery of R472
  applies. -/
  | d3hotExit (p : Port)
    /-- FLASH_REBUILD_COMPLETE (R339): The rebuild of a failed flash die into spare blocks ends, and the channel
  leaves the rebuilding state with one event. -/
  | flashRebuildComplete (channel : Nat)
    /-- PCIE_TAG_WITHHOLD_EXPIRY (R471): 1 s after a module read timed out with 0x9205, its withheld tag is released
  if no completion has arrived. -/
  | pcieTagWithholdExpiry (p : Port) (tag : Nat)
    /-- LOCAL_TIMER_COMPARE (R440): A management core's local timer reaches its compare value and fires event source
  0x240 to 0x243. -/
  | localTimerCompare (h : Port) (core : Nat)
deriving DecidableEq, Repr

end Sys2Proof
end

