-- ==== Sys2Proof/Machine/Bytes.lean ====
section
/-! DEFINITION. Bits, lists, two's complement and little-endian bytes (R9, R18). -/

namespace Sys2Proof.Machine

/-- Bits `lo + n - 1 : lo` of a number. -/
def bits (v lo n : Nat) : Nat := v / 2 ^ lo % 2 ^ n

/-- Bit `k` of a number. -/
def bit (v k : Nat) : Bool := v / 2 ^ k % 2 == 1

/-- A truth value as a bit. -/
def bit01 (b : Bool) : Nat := if b then 1 else 0

/-- KiB, rounded up. -/
def kib (n : Nat) : Nat := (n + 1023) / 1024

/-- An element of a list, or the default. -/
def nth {α : Type} (dflt : α) (l : List α) (k : Nat) : α := (l[k]?).getD dflt

/-- The list with element k replaced. -/
def setNth {α : Type} (l : List α) (k : Nat) (x : α) : List α := l.set k x

/-- A number of the width's two's complement as an integer (R18). -/
def toSigned (w v : Nat) : Int := if v % 2 ^ w < 2 ^ (w - 1) then (v % 2 ^ w : Nat) else ((v % 2 ^ w : Nat) : Int) - 2 ^ w

/-- An integer wrapped to the width's two's complement (R18). -/
def ofSigned (w : Nat) (v : Int) : Nat := (v % (2 ^ w : Int)).toNat

/-- Is a at or past b among w-bit counts (R52, R272)? -/
def atOrPast (w a b : Nat) : Bool := decide ((a + 2 ^ w - b % 2 ^ w) % 2 ^ w < 2 ^ (w - 1))

/-! ### Little-endian bytes (R9) -/

/-- The number a list of bytes spells, the first least significant. -/
def leNat : List Byte → Nat
  | [] => 0
  | b :: t => b.toNat + 256 * leNat t

/-- The n bytes of a number, the least significant first. -/
def natLe : Nat → Nat → List Byte
  | 0, _ => []
  | n + 1, v => BitVec.ofNat 8 v :: natLe n (v / 256)

/-- n bytes of zero. -/
def zeros (n : Nat) : List Byte := List.replicate n 0

/-- The bytes of a text. -/
def textBytes (t : String) : List Byte := t.toList.map fun c => BitVec.ofNat 8 c.toNat

/-- Bytes `off` to `off + n - 1` of a structure as a number. -/
def fieldOf (b : List Byte) (off n : Nat) : Nat := leNat ((b.drop off).take n)

end Sys2Proof.Machine
end

