-- ==== Sys2Proof/Machine/Crypto.lean ====
section
/-! DEFINITION. The symmetric functions that chapters 12, 14 and 16 name by their public standards: SHA3-384 and SHAKE256 (FIPS
202), AES-256, the CTR_DRBG of R416 (SP 800-90A), and AES-256-GCM opening (SP 800-38D). Their text is PRESUMED from those
standards (log entry 12). -/

namespace Sys2Proof.Machine

/-- Exactly so many bytes: cut, or filled with zeros. -/
def exactly (n : Nat) (b : List Byte) : List Byte := (b ++ zeros n).take n

/-- Bytes, two of equal length, added without carry. -/
def xorBytes (a b : List Byte) : List Byte := (a.zip b).map fun e => e.1 ^^^ e.2

/-! ### SHA-3 and SHAKE256 -/

/-- Rotations of the lanes, lane x + 5y. -/
def keccakTurns : List Nat :=
  [0, 1, 62, 28, 27, 36, 44, 6, 55, 20, 3, 10, 43, 25, 39, 41, 45, 15, 21, 8, 18, 2, 61, 56, 14]

/-- Constants of the 24 rounds. -/
def keccakConstants : List Nat :=
  [0x0000000000000001, 0x0000000000008082, 0x800000000000808A, 0x8000000080008000, 0x000000000000808B, 0x0000000080000001,
   0x8000000080008081, 0x8000000000008009, 0x000000000000008A, 0x0000000000000088, 0x0000000080008009, 0x000000008000000A] ++
  [0x000000008000808B, 0x800000000000008B, 0x8000000000008089, 0x8000000000008003, 0x8000000000008002, 0x8000000000000080,
   0x000000000000800A, 0x800000008000000A, 0x8000000080008081, 0x8000000000008080, 0x0000000080000001, 0x8000000080008008]

/-- One round on 25 lanes. -/
def keccakRound (a : List DWord) (rc : Nat) : List DWord :=
  let lane := fun (l : List DWord) (x y : Nat) => nth 0 l (x % 5 + 5 * (y % 5))
  let c := (List.range 5).map fun x => lane a x 0 ^^^ lane a x 1 ^^^ lane a x 2 ^^^ lane a x 3 ^^^ lane a x 4
  let d := (List.range 5).map fun x => nth 0 c ((x + 4) % 5) ^^^ (nth 0 c ((x + 1) % 5)).rotateLeft 1
  let t := (List.range 25).map fun k => (nth 0 a k ^^^ nth 0 d (k % 5)).rotateLeft (nth 0 keccakTurns k)
  let b := (List.range 25).map fun k => lane t (k % 5 + 3 * (k / 5)) (k % 5)
  (List.range 25).map fun k =>
    let v := nth 0 b k ^^^ (~~~lane b (k % 5 + 1) (k / 5) &&& lane b (k % 5 + 2) (k / 5))
    if k == 0 then v ^^^ BitVec.ofNat 64 rc else v

def keccak (a : List DWord) : List DWord := keccakConstants.foldl keccakRound a

/-- The lanes of a block of bytes. -/
def lanesOf (b : List Byte) : List DWord := (List.range 25).map fun k => BitVec.ofNat 64 (leNat ((b.drop (8 * k)).take 8))

/-- The sponge: rate in bytes, the domain's byte, bytes out, message. -/
def sponge (rate domain out : Nat) (m : List Byte) : List Byte :=
  let n := m.length / rate + 1
  let padded := xorBytes (exactly (n * rate) (m ++ natLe 1 domain)) (zeros (n * rate - 1) ++ natLe 1 0x80)
  let s := (List.range n).foldl (fun a k =>
    keccak ((a.zip (lanesOf (exactly 200 ((padded.drop (rate * k)).take rate)))).map fun e => e.1 ^^^ e.2)) (List.replicate 25 0)
  let step := fun (p : List DWord × List Byte) (_ : Nat) => (keccak p.1, p.2 ++ (p.1.flatMap fun w => natLe 8 w.toNat).take rate)
  ((List.range (out / rate + 1)).foldl step (s, [])).2.take out

/-- SHAKE256 with so many bytes of output. -/
@[irreducible] def shake256 (out : Nat) (m : List Byte) : List Byte := sponge 136 0x1F out m

/-- SHA3-384 (R415). -/
@[irreducible] def sha3 (m : List Byte) : List Byte := sponge 104 0x06 48 m

/-! ### Identity keys (R428) -/

/-- The keys that a host die's key block derives from the identity seed: the seeds of the attestation and of the key-encapsulation
pair, the key that wraps the stored hall key, and the record MAC key (R428). -/
structure IdentityKeys where
  attest : List Byte
  kem : List Byte
  hallWrap : List Byte
  record : List Byte
deriving DecidableEq, Repr

/-- The keys of an identity seed (R428). -/
@[irreducible] def identityKeys (seed : List Byte) : IdentityKeys :=
  { attest := shake256 96 (seed ++ textBytes "ATTEST"), kem := shake256 64 (seed ++ textBytes "KEM"),
    hallWrap := shake256 32 (seed ++ textBytes "HALLWRAP"), record := shake256 32 (seed ++ textBytes "RECORD") }

/-! ### AES-256 -/

/-- Product of two bytes modulo x^8 + x^4 + x^3 + x + 1. -/
def gmul (a b : Byte) : Byte :=
  ((List.range 8).foldl (fun (p : Byte × Byte) k =>
    (if b.getLsbD k then p.1 ^^^ p.2 else p.1, (p.2 <<< 1) ^^^ (if p.2.getLsbD 7 then 0x1B else 0))) (0, a)).1

/-- The inverse, b^254; 0 of 0. -/
def ginv (b : Byte) : Byte :=
  ((List.range 7).foldl (fun (p : Byte × Byte) _ => let q := gmul p.2 p.2; (gmul p.1 q, q)) (1, b)).1

/-- The S-box. -/
def subByte (b : Byte) : Byte :=
  let v := ginv b
  v ^^^ v.rotateLeft 1 ^^^ v.rotateLeft 2 ^^^ v.rotateLeft 3 ^^^ v.rotateLeft 4 ^^^ 0x63

/-- The 60 words of the key schedule. -/
def expandKey (key : List Byte) : List (List Byte) :=
  let first := (List.range 8).map fun k => (key.drop (4 * k)).take 4
  (List.range 52).foldl (fun ws k =>
    let last := nth [] ws (k + 7)
    let t := if k % 8 == 0 then
        let r := ((last.drop 1) ++ last.take 1).map subByte
        xorBytes r (natLe 4 (2 ^ (k / 8)))
      else if k % 8 == 4 then last.map subByte
      else last
    ws ++ [xorBytes (nth [] ws k) t]) first

/-- A column mixed. -/
def mixColumn (c : List Byte) : List Byte :=
  (List.range 4).map fun k =>
    gmul 2 (nth 0 c k) ^^^ gmul 3 (nth 0 c ((k + 1) % 4)) ^^^ nth 0 c ((k + 2) % 4) ^^^ nth 0 c ((k + 3) % 4)

/-- AES-256 on one block of 16 bytes. -/
@[irreducible] def aes256 (key block : List Byte) : List Byte :=
  let ws := expandKey (exactly 32 key)
  let roundKey := fun (r : Nat) => ((ws.drop (4 * r)).take 4).flatten
  let shifted := fun (b : List Byte) => (List.range 16).map fun k => subByte (nth 0 b ((k + 4 * (k % 4)) % 16))
  let b := (List.range 13).foldl (fun b r =>
    let t := shifted b
    xorBytes ((List.range 4).flatMap fun c => mixColumn ((t.drop (4 * c)).take 4)) (roundKey (r + 1)))
    (xorBytes (exactly 16 block) (roundKey 0))
  xorBytes (shifted b) (roundKey 14)

/-- A number as so many bytes, most significant first. -/
def natBe (n v : Nat) : List Byte := (natLe n v).reverse
def beNat (b : List Byte) : Nat := leNat b.reverse

/-! ### CTR_DRBG (R416) -/

/-- Blocks of the counter mode from V + 1 on: a state is the key's 32 bytes, then V. -/
def drbgBlocks (state : List Byte) (n : Nat) : List Byte :=
  (List.range n).flatMap fun k => aes256 (state.take 32) (natBe 16 ((beNat ((state.drop 32).take 16) + 1 + k) % 2 ^ 128))

/-- The update with 48 bytes of data. -/
def drbgUpdate (state data : List Byte) : List Byte := xorBytes (drbgBlocks state 3) (exactly 48 data)

/-- The state after instantiation (from no state, with a personalisation string) or reseeding from an entropy block. -/
def drbgSeed (state entropy personal : List Byte) : List Byte :=
  drbgUpdate (exactly 48 state) (xorBytes (exactly 48 entropy) (exactly 48 personal))

/-- The 512 bits of a generate request. -/
def drbgOutput (state : List Byte) : List Byte := drbgBlocks (exactly 48 state) 4

/-- The state after a generate request. -/
def drbgNext (state : List Byte) : List Byte :=
  let st := exactly 48 state
  drbgUpdate (st.take 32 ++ natBe 16 ((beNat (st.drop 32) + 4) % 2 ^ 128)) []

/-! ### AES-256-GCM -/

/-- Product in the field of GHASH, bit 0 the most significant. -/
def ghashMul (x y : BitVec 128) : BitVec 128 :=
  ((List.range 128).foldl (fun (p : BitVec 128 × BitVec 128) k =>
    (if x.getMsbD k then p.1 ^^^ p.2 else p.1,
     (p.2 >>> 1) ^^^ (if p.2.getLsbD 0 then BitVec.ofNat 128 (0xE1 * 2 ^ 120) else 0))) (0, y)).1

/-- GHASH of whole blocks. -/
def ghash (h : BitVec 128) (m : List Byte) : BitVec 128 :=
  (List.range (m.length / 16)).foldl (fun y k => ghashMul (y ^^^ BitVec.ofNat 128 (beNat ((m.drop (16 * k)).take 16))) h) 0

/-- Bytes filled to whole blocks. -/
def wholeBlocks (b : List Byte) : List Byte := exactly ((b.length + 15) / 16 * 16) b

/-- The tag of a ciphertext with additional data, under a 12-byte IV. -/
def gcmTag (key iv aad cipher : List Byte) : List Byte :=
  let h := BitVec.ofNat 128 (beNat (aes256 key (zeros 16)))
  let g := ghash h (wholeBlocks aad ++ wholeBlocks cipher ++ natBe 8 (8 * aad.length) ++ natBe 8 (8 * cipher.length))
  xorBytes (natBe 16 g.toNat) (aes256 key (exactly 12 iv ++ natBe 4 1))

/-- The counter-mode stream over a text. -/
def gcmStream (key iv text : List Byte) : List Byte :=
  xorBytes text ((List.range ((text.length + 15) / 16)).flatMap fun k => aes256 key (exactly 12 iv ++ natBe 4 (k + 2)))

/-- A text sealed: its ciphertext and tag. -/
@[irreducible] def gcmSeal (key iv aad text : List Byte) : List Byte :=
  gcmStream key iv text ++ gcmTag key iv aad (gcmStream key iv text)

/-- The plaintext, when the tag authenticates. -/
@[irreducible] def gcmOpen (key iv aad cipher tag : List Byte) : Option (List Byte) :=
  if gcmTag key iv aad cipher == tag then some (gcmStream key iv cipher) else none

end Sys2Proof.Machine
end

