-- ==== Sys2Proof/Machine/Tables.lean ====
section
/-! DEFINITION. Tables: sparse maps from numbers as sorted lists in one canonical form, plain data. -/

namespace Sys2Proof.Machine

/-- A sparse map from numbers, keys strictly rising. -/
abbrev Tbl (α : Type) := List (Nat × α)

/-- The entry of a key, if the table lists one. -/
def tblFind {α : Type} : Tbl α → Nat → Option α
  | [], _ => none
  | (k, v) :: t, a => if k = a then some v else tblFind t a

/-- The entry of a key, or the value an unlisted key stands for. -/
def tblGet {α : Type} (dflt : α) (t : Tbl α) (a : Nat) : α := (tblFind t a).getD dflt

/-- Insert or replace an entry, keeping the keys rising. -/
def tblPut {α : Type} : Tbl α → Nat → α → Tbl α
  | [], a, x => [(a, x)]
  | (k, v) :: t, a, x =>
    if k = a then (k, x) :: t else if a < k then (a, x) :: (k, v) :: t else (k, v) :: tblPut t a x

/-- Remove an entry. -/
def tblDel {α : Type} (t : Tbl α) (a : Nat) : Tbl α := t.filter fun e => decide (e.1 ≠ a)

/-- Write a table whose unlisted keys stand for `dflt`: writing `dflt` unlists the key. -/
def tblSet {α : Type} [DecidableEq α] (dflt : α) (t : Tbl α) (a : Nat) (x : α) : Tbl α :=
  if x = dflt then tblDel t a else tblPut t a x

/-- Keys strictly rising. -/
def tblSorted {α : Type} : Tbl α → Bool
  | [] => true
  | [_] => true
  | (k, _) :: (k', v') :: t => decide (k < k') && tblSorted ((k', v') :: t)

/-- The canonical form of a table with a default: keys strictly rising, no entry equal to the default. -/
def tblWf {α : Type} [DecidableEq α] (dflt : α) (t : Tbl α) : Bool :=
  tblSorted t && t.all (fun e => decide (e.2 ≠ dflt))

/-- The smallest number not in a list of used numbers, tried below `n`. -/
def lowestFree (used : Nat → Bool) : Nat → Nat → Option Nat
  | 0, _ => none
  | n + 1, k => if used k then lowestFree used n (k + 1) else some k

end Sys2Proof.Machine
end

