-- ==== Sys2Proof/Machine/State.lean ====
section
/-! DEFINITION. Everything the spec gives the VM64, as plain data. A field's default is its value at reset; where the
spec gives none the log entry is named (entries 1 to 3, 5, 7, 8). Tables list only what differs from reset. -/

namespace Sys2Proof.Machine

/-- A 64-byte descriptor (R276), byte k at bits 8k+7:8k. -/
abbrev Desc := BitVec 512

/-- A statistics counter: a 31-bit RS count and its saturated flag (R13, R457, R458). -/
structure Stat where
  count : Nat := 0
  saturated : Bool := false
deriving DecidableEq, Repr

/-! ### Module, dies and mesh (01) -/

/-- One of each channel (R24). -/
structure PerChannel (α : Type) where
  request : α
  response : α
deriving DecidableEq, Repr

/-- The value of a channel, and the pair with it replaced. -/
def PerChannel.get {α : Type} (x : PerChannel α) : Channel → α
  | .request => x.request
  | .response => x.response
def PerChannel.put {α : Type} (x : PerChannel α) (ch : Channel) (v : α) : PerChannel α :=
  match ch with
  | .request => { x with request := v }
  | .response => { x with response := v }

/-- A packet in a buffer; `waited` once its wait for credit has been counted (R43). -/
structure Held where
  packet : Packet
  waited : Bool := false
deriving DecidableEq, Repr

/-- One bridge direction, kept with the router output that sends on it (R21, R24, R26-R29, R43). A bonded port has two halves.
`used` counts the credits deducted, `owed` the units that left the receive buffer whose toggles are not seen yet, `buf` is the
receive buffer at the far end, `wire` the packet that crosses; `next` is where each channel's round-robin starts (R34, DESIGN
CHOICE, log entry 3), `respTurn` whether the response channel's turn comes next: at reset the request channel's (DESIGN CHOICE, log
entry 3: R26 names no first turn). -/
structure OutPort where
  fencedHalves : List Nat := []
  spareHalves : List Nat := []
  used : PerChannel Nat := ⟨0, 0⟩
  owed : PerChannel Nat := ⟨0, 0⟩
  buf : PerChannel (List Held) := ⟨[], []⟩
  wire : Option Held := none
  next : PerChannel Nat := ⟨0, 0⟩
  respTurn : Bool := false
deriving DecidableEq, Repr

/-- What a die holds beside its bridges: packets at the injection arbiter, packets injected, the arbiter's round-robin, and
packets whose transfer failed, to be sent again first (R35, R466). -/
structure Router where
  waiting : PerChannel (List Held) := ⟨[], []⟩
  injected : PerChannel (List Held) := ⟨[], []⟩
  next : PerChannel Nat := ⟨0, 0⟩
  again : PerChannel (List Held) := ⟨[], []⟩
deriving DecidableEq, Repr

/-- A loaded detour table: the fenced bridge it is for; the output port of router d for destination t at bits
3 * (64 * d + t) + 2 : 3 * (64 * d + t) (R32, DESIGN CHOICE, log entry 44). -/
structure Detour where
  bridge : Nat
  table : Nat
deriving DecidableEq, Repr

/-- Response buffer space a requester holds (R482): its die, endpoint and tag, and units still to come. -/
structure Reserved where
  die : Nat
  endpoint : Endpoint
  tag : Nat
  units : Nat
deriving DecidableEq, Repr

/-- The die mesh: bridge directions keyed by die * 8 + port (0 n, 1 e, 2 s, 3 w, 4 h), routers by die, the detour table of
each router and channel by die * 2 + channel; the packets that wait for response space and the space reserved (R482); the
round-robin of each memory-die arbiter, and the packets in the synchroniser FIFO of a lost interface, by endpoint key (R35,
R40); the requests that have won the arbiters of a channel of a stack and are not yet executed, in order (R37). -/
structure Mesh where
  outs : Tbl OutPort := []
  routers : Tbl Router := []
  detours : Tbl Detour := []
  unissued : List Packet := []
  reserved : List Reserved := []
  ends : Tbl Nat := []
  fifos : Tbl (List Packet) := []
  won : Tbl (List Packet) := []
deriving DecidableEq, Repr

/-- Thermal marks of a die or stack: which limits of R408 it is over. -/
structure Thermal where
  warned : Bool := false
  capped : Bool := false
deriving DecidableEq, Repr

/-- A die and the registers of its window that are not an engine's (R42-R44, R259, R393-R410, R442). Measured values at
reset are DESIGN CHOICE, log entry 3. -/
structure Die where
  powered : Bool := true
  meshStall : Stat := {}
  lossTop : Stat := {}
  cause : BitVec 7 := 0
  testEnable : Bool := true
  testInterval : Nat := 0x03E8
  op : Nat := 2
  rampTo : Option Nat := none
  hold : Bool := false
  tempC : Nat := 60
  powerCw : Nat := 0
  budgetCw : Nat := 0xFFFF
  marginMv : Nat := 30
  droopMv : Nat := 0
  ageingMv : Nat := 0
  louvreTime : Stat := {}
  overBudget : Bool := false
  urgent : Bool := false
  thermal : Thermal := {}
  fecCorrected : Stat := {}
  handshakes : Tbl Nat := []
  workers : List Nat := []
  phase : Option Nat := none
  active : Nat := 0
  steady : Bool := true
deriving DecidableEq, Repr

/-! ### Engines, tasks, scratchpads (07, 08) -/

/-- State of one accumulator slot on one engine, with its owner queue (R225). -/
inductive SlotState where
  | free
  | claimed (queue : Nat)
  | kept (queue : Nat)
  | held (queue launch : Nat)
deriving DecidableEq, Repr

/-- One partial of a group sequence: element, first reduction index, length, value, depth (R202-R205). -/
structure Partial where
  elem : Nat
  lo : Nat
  len : Nat
  value : Int
  depth : Nat
deriving DecidableEq, Repr

/-- The value of an element: an exact real (with the sign of a zero), an infinity or a NaN (R167, R169, R170, R181). -/
inductive Val where
  | fin (v : Rat) (negZero : Bool)
  | inf (neg : Bool)
  | nan (neg : Bool)
deriving DecidableEq, Repr

/-- What a write counts (R195). -/
structure Tally where
  escapes : Nat := 0
  vanished : Nat := 0
  saturated : Nat := 0
  overflowed : Nat := 0
deriving DecidableEq, Repr

/-- Working values of a slot-naming command in its shadow slot (R209), with its tensor records as read at its start (R176);
a collective command keeps its records here with slot 4, which names none. `done` are the combined elements of the output pieces
written so far, `fuse` the fuse tensor's values as read before the first piece (R200, R218); `plan` what step 6 writes where, and
what it counts, fixed before step 5 (R210). -/
structure AccJob where
  records : List (List Byte)
  slot : Nat
  base : Int
  strict : Bool
  addTo : Bool
  keep : Bool
  noWrite : Bool
  dims : List Nat
  kLen : Nat
  group : Nat
  partials : List Partial := []
  replays : Nat := 0
  combined : Option (List (Int × Nat)) := none
  done : List (Int × Nat) := []
  fuse : Option (List (List Val)) := none
  plan : Option (List (Nat × List Byte) × Tally) := none
deriving DecidableEq, Repr

/-- A kept accumulator array (R199, R231). -/
structure AccArray where
  dims : List Nat
  base : Int
  depth : Nat
  values : List Int
  lost : Bool := false
deriving DecidableEq, Repr

/-- The image of a slot in a save area (R229): the array it holds, or of a slot a launch holds the layer-1 sums there, by pair
(R160). -/
structure SlotImage where
  array : Option AccArray := none
  sums : List (Nat × List Int) := []
deriving DecidableEq, Repr

/-- A saved engine context (R229): the slot states; the commands whose time-limit counts pause with it (R290, R291); the command
whose shadow slot was in use; the engine's save area: the images of A0-A3 and of that shadow slot, and whether they read back. -/
structure SavedContext where
  slots : List SlotState
  paused : List Nat := []
  command : Option Nat
  images : List SlotImage := []
  shadow : Option AccJob := none
  imagesGood : Bool := true
deriving DecidableEq, Repr

/-- What a task in context 1 waits for (R244): `page` for a page its instruction writes to, by PASID and number; `ending` for its
end record to be written, `mirror` for its fence's mirror, in a page or until the port may send (R250, R270, R502). -/
inductive TaskWait where
  | running
  | page (pasid pg : Nat)
  | queue (h addr reg : Nat)
  | fence (h : Nat) (value : DWord)
  | ending (fault : Nat) (place : Option (Nat × Nat))
  | mirror (value : Nat) (place : Option (Nat × Nat))
deriving DecidableEq, Repr

/-- A descriptor a waitq handed to the task and, once done, its record's fault (R245). -/
structure Handed where
  queue : Nat
  seq : Nat
  desc : Desc
deriving DecidableEq, Repr

/-- A software task in context 1 of a sequencer (R243-R250); unlisted registers hold 0. `windowBase` is where its window lies in
the engine's scratchpad (R249, R289). -/
structure Task where
  regs : Tbl DWord := []
  pc : Nat := 0
  code : List Word
  handles : List DWord
  windowBytes : Nat
  windowBase : Nat := 0
  queue : Nat
  endFence : DWord
  endValue : DWord
  endAddr : Nat
  wait : TaskWait := .running
  handed : List Handed := []
deriving DecidableEq, Repr

/-- An engine (R234): identity bits, louvre, slots, contexts, task, statistics. `setPRuns` says that set P of a firmware sequence
runs, `draining` that the other set holds a result still to be compared (R212); `turnBatch` that of an annealer batch and a group
sequence both ready the batch goes next (R162); `readTurn` is the queue slot the fetch engine serves from next (R280); `issues` tells of
the last 15 tile issue opportunities, the latest first, whether a group sequence or batch started (R399). -/
structure Engine where
  usable : Bool := true
  fenceCause : Nat := 0
  portB : Bool := false
  sill : Bool := false
  louvre : Nat := 16
  issues : List Bool := []
  slots : List SlotState := [.free, .free, .free, .free]
  queues : Tbl Nat := []
  preempting : Bool := false
  context : Option SavedContext := none
  task : Option Task := none
  streamTag : Stat := {}
  accReplay : Stat := {}
  batches : Stat := {}
  deferrals : Stat := {}
  groupRefusals : Stat := {}
  tableLate : Stat := {}
  epochWaits : Stat := {}
  turnBatch : Bool := true
  readTurn : Nat := 0
  setPRuns : Bool := true
  draining : Bool := false
  lastDoubleBit : Option Nat := none
deriving DecidableEq, Repr

/-- Phase of the background test of a scratchpad (R256). -/
inductive TestPhase where
  | idle
  | copy
  | march
  | restore
deriving DecidableEq, Repr

/-- A scratchpad (R252-R262): banks 0-767 the engines', 768 and 769 the host dies'. A word is a 256-byte number; an
unlisted word is 0 (DESIGN CHOICE, log entry 1). `bufferOf` is the region whose words fill the buffer where the test under way
has copied none. `repairs` maps a row to its spare, `badSpares` lists spares that failed the march. `pointer` is p and
`accesses` the test accesses made on the row under march; `ahead` the regions tested before `order`, the next one of the pass;
`handshakes` counts mod 16. `waiting` holds requests not yet at the scratchpad arbiter, `ports` the one that each master
presents there, `groups` where each tile's round-robin over its row groups starts (R34, R35); `arrived` holds the loss counts of
packets that the inbound transfer took from the mesh and has not presented yet (R33). `taken` holds words of fenced
engines that this engine took over (R258). -/
structure Bank where
  words : Tbl Nat := []
  buffer : Tbl Nat := []
  bufferOf : Option Nat := none
  repairs : Tbl Nat := []
  badSpares : List Nat := []
  waiting : List SpdReq := []
  ports : Tbl SpdReq := []
  arrived : List Nat := []
  groups : Tbl Nat := []
  taken : List (Nat × Tbl Nat) := []
  phase : TestPhase := .idle
  region : Nat := 0
  pointer : Nat := 0
  accesses : Nat := 0
  passRunning : Bool := false
  order : Nat := 0
  ahead : List Nat := []
  handshakes : Nat := 0
  lastMaster : Nat := 7
  conflicts : Tbl Stat := []
  ecc : Stat := {}
deriving DecidableEq, Repr

/-! ### Queues and commands (09) -/

/-- State of a live queue (R281). -/
inductive QState where
  | ready
  | halted
  | error
  | dead
deriving DecidableEq, Repr

/-- A completion record (R277). -/
structure Record where
  seq : Nat
  fault : Nat
  opcode : Nat
  status : Nat
  detail : Nat
  tag : Nat
  result : BitVec 128
  irq : Bool
deriving DecidableEq, Repr

/-- A queue (R264, R265, R272, R294). `held` holds records back for sequence order (R278), `silent` says it writes none
(R296, R472), `page` is a ring or doorbell page whose translation it waits for. -/
structure Queue where
  gen : Nat
  kind : Nat
  port : Port
  haltOnFault : Bool
  state : QState := .ready
  ringLog2 : Nat
  pasid : Nat
  ring : Nat
  cpl : Nat
  dbPage : Nat
  dbIndex : Nat
  vector : Nat
  engines : List Nat
  tail : Nat := 0
  fetched : Nat := 0
  started : Nat := 0
  completed : Nat := 0
  lastFault : Nat := 0
  faultSeq : Nat := 0
  waiting : List (Nat × Desc) := []
  held : Tbl Record := []
  silent : Bool := false
  waits : List (Nat × Bool) := []
deriving DecidableEq, Repr

/-- A fence (R49, R285, R295). -/
structure Fence where
  gen : Nat
  port : Port
  pasid : Nat
  value : DWord
  mirror : Nat
deriving DecidableEq, Repr

/-- Where a started command stands. `committing` is step 5 or later of R209. -/
inductive Stage where
  | started
  | waiting
  | running
  | committing
deriving DecidableEq, Repr

/-- The shutter of a command (R292): engines that have not acknowledged, engines killed. -/
structure Shutter where
  left : List Nat
  killed : List Nat := []
deriving DecidableEq, Repr

/-- A started command (R282, R290-R292, R310). `queue` is the queue, for a node its lane's; `page` the page it waits for,
by PASID and number, and whether to write; `dests` the address ranges it is writing (R68); `saved`
the value a fence signal still has to mirror (R285); `kept` the tensor records, by address, as read at its start (R176); `fuse` the
fuse values that a run before an engine fence read before it wrote its first output piece (R69, R218). -/
structure Cmd where
  queue : Nat
  seq : Nat
  node : Option (Nat × Nat) := none
  desc : Desc
  stage : Stage := .started
  page : Option (Nat × Nat × Bool) := none
  preempted : Bool := false
  migrated : Bool := false
  shutter : Option Shutter := none
  dests : List (Nat × Nat) := []
  saved : Nat := 0
  kept : List (Nat × List Byte) := []
  fuse : Option (List (List Val)) := none
deriving DecidableEq, Repr

/-- A doorbell page of one fetch engine (R279). -/
structure DoorbellPage where
  engine : Nat
  pasid : Nat
  page : Nat
  interval : Nat
  quiet : Nat := 0
deriving DecidableEq, Repr

/-- A queue teardown under way for a port's destroy request (R296, R297). -/
structure Teardown where
  queue : Nat
  handle : DWord
  discarded : Nat
  startedAt : Nat
  commands : List Nat
deriving DecidableEq, Repr

/-- The queue front end (09). Generations are those last carried by each index (R51). -/
structure Qfe where
  timeLimit : Nat := 0x003D0900
  queues : Tbl Queue := []
  queueGens : Tbl Nat := []
  fences : Tbl Fence := []
  fenceGens : Tbl Nat := []
  pages : List DoorbellPage := []
  setupOrder : List Port := []
  teardown : Option (Port × Teardown) := none
  nextCmd : Nat := 0
deriving DecidableEq, Repr

/-- An entry of the address translation cache (R269, R270): 4 KiB page. -/
structure AtcEntry where
  pasid : Nat
  page : Nat
  readable : Bool
  writable : Bool
deriving DecidableEq, Repr

/-- What waits for a page: a command, a queue to read its ring or doorbell or to write a record, the task of an engine (R270). -/
inductive PageUser where
  | command (c : Nat)
  | queue (q : Nat)
  | task (e : Nat)
deriving DecidableEq, Repr

/-- A translation or page request outstanding (R270), with the kinds of access that wait for it. `again` says that the first
translation was refused: the request is the page request or the one repeat of step 5, and `users` are the accesses it stands for,
each with whether it is to write; `withdrawn` marks one whose answer is to be discarded (R296). -/
structure PageWait where
  pasid : Nat
  page : Nat
  reads : Bool
  writes : Bool
  again : Bool := false
  users : List (PageUser × Bool) := []
  withdrawn : Bool := false
deriving DecidableEq, Repr

/-- An ATS invalidation waiting for its accesses: the tags of the reads that used the entries (R271). -/
structure Invalidation where
  pasid : Nat
  page : Nat
  users : List Nat
deriving DecidableEq, Repr

/-- An MSI-X table entry with its pending bit and coalescing state (R454-R456, 17 R487); address and data at reset are
DESIGN CHOICE, log entry 3. -/
structure MsixVector where
  addr : Nat := 0
  data : Nat := 0
  masked : Bool := true
  pending : Bool := false
  triggers : Nat := 0
  interval : Nat := 0
  count : Nat := 1
deriving DecidableEq, Repr

/-- A request mailbox: address register, busy and result (R293, R332, R436). -/
structure Mailbox where
  addr : Nat := 0
  busy : Bool := false
  result : Nat := 0
deriving DecidableEq, Repr

/-- A phase-table entry (R403, R404); `learned` lists P-hat per point where it differs from the factory table. -/
structure Phase where
  priority : Nat := 8
  prefOp : Nat := 7
  learned : Tbl Nat := []
deriving DecidableEq, Repr

/-- What the block has put on a bus (DESIGN CHOICE, log entry 8). -/
inductive OutMsg where
  | msix (p : Port) (vector addr data : Nat)
  | atsRequest (p : Port) (pasid page : Nat)
  | pageRequest (p : Port) (pasid page : Nat)
  | invalidationDone (p : Port) (pasid page : Nat)
  | unsupportedRequest (p : Port)
  | aer (p : Port) (code : Nat)
  | codeword (die pair position frame : Nat) (lanes : List (List Nat))
  | laneControl (die pair lane : Nat)
  | linkDown (p : Port)
  | spdData (bank master data : Nat)
  | delivered (packet : Packet)
deriving DecidableEq, Repr

/-- A module read outstanding at a port (R471), for the command that issued it, or for one `killed` in step 3 of R473 or R478. -/
structure HostRead where
  tag : Nat
  command : Nat
  pasid : Nat
  page : Nat
  killed : Bool := false
deriving DecidableEq, Repr

/-- What a port and its function hold: the banked registers, translation, MSI-X, configuration space bits. `config` lists the
configuration words that writes and error reports changed (R499, R500). -/
structure PortState where
  setup : Mailbox := {}
  map : Mailbox := {}
  sec : Mailbox := {}
  pollMaxUs : Nat := 0x0064
  pollMinNs : Nat := 0x03E8
  shutter : Stat := {}
  atc : List AtcEntry := []
  ats : List PageWait := []
  pageReqs : List PageWait := []
  pageReqsOff : Bool := false
  invalidations : List Invalidation := []
  invalidationBacklog : List (Nat × Nat × Nat) := []
  hostEnable : Tbl Nat := []
  hostCause : Tbl Nat := []
  hostVec : Nat := 0
  msix : Tbl MsixVector := []
  phases : Tbl Phase := []
  logIdx : Nat := 0
  logEntry : BitVec 256 := 0
  dumpAddr : Nat := 0
  dumpEnable : Bool := false
  dumpWindow : Nat := 0
  warnVec : Nat := 0
  warning : Bool := false
  requester : Nat := 0
  graceEnd : Nat := 0
  violations : Stat := {}
  reads : List HostRead := []
  withheld : List Nat := []
  linkUp : Bool := true
  creditsWithheld : Bool := false
  memEnable : Bool := false
  busMaster : Bool := false
  parityResponse : Bool := false
  serrEnable : Bool := false
  msixEnable : Bool := false
  funcMask : Bool := false
  d3hot : Bool := false
  heldRequests : List OutMsg := []
  config : Tbl Nat := []
deriving DecidableEq, Repr

/-! ### Spin fabric (03, 04, 05) -/

/-- One coupling as a block holds it: two indices (local and local, or local and global), the stored entry, signed, of 8 or 4
bits in the intra-block matrix and of 16 in the inter-block rows, and its contribution in problem units (R77, R78, R81). -/
structure Coupling where
  i : Nat
  j : Nat
  code : Int
  value : Int
deriving DecidableEq, Repr

/-- An escaped coupling in a side list: row, column, exact FP32 value (R78). -/
structure SideEntry where
  row : Nat
  col : Nat
  code : Nat
deriving DecidableEq, Repr

/-- A block of a stored problem with its report counts (R74-R82, R92). `intra` lists each pair once whose entry of the dense
symmetric matrix is not zero, `inter` the inter-block rows, `intraSide` and `interSide` their side lists. `groups` lists each
one-of-N group's global number and local indices. -/
structure Block where
  vars : List Nat
  eb : Option Int
  intra : List Coupling
  inter : List Coupling
  intraSide : List SideEntry := []
  interSide : List SideEntry := []
  groups : List (Nat × List Nat)
  neighbours : List Nat
  interCount : Nat
  intraEscapes : Nat
  interEscapes : Nat
  intraVanished : Nat
  interVanished : Nat
deriving DecidableEq, Repr

/-- A quantised network (R143-R148): `w1cols` has one column per input, `w2rows` one row per layer-2 output. -/
structure Net where
  nIn : Nat
  w1 : Nat
  e1 : Int
  e2 : Int
  e3 : Int
  ea1 : Int
  ea2 : Int
  outShift : Int
  nMax : Nat
  w1cols : List (List Int)
  b1 : List Int
  w2rows : List (List Int)
  b2 : List Int
  w3 : List Int
  b3 : Int
  vanished : Nat
deriving DecidableEq, Repr

/-- A loaded problem (R72-R93, R127, R153). -/
structure Problem where
  gen : Nat
  port : Port
  pasid : Nat
  n : Nat
  spin : Bool
  int4 : Bool
  mapped : Bool
  blockVars : Nat
  blockOf : List Nat
  blocks : List Block
  ex : Option Int
  eps : Int
  h : List Int
  constant : Nat
  init : List Bool
  placement : Nat
  vanishedCouplings : Nat
  escapedCouplings : Nat
  vanishedLinear : Nat
  storedBytes : Nat
  ladder : Option (List Nat) := none
  nets : Tbl Net := []
  blockNet : Tbl Nat := []
  lost : Bool := false
deriving DecidableEq, Repr

/-- Where one block of one replica stands in its epoch (R124): sweeping, snapshot taken, contribution sent. -/
inductive BlockPhase where
  | idle
  | sweeping
  | ended
  | contributed
deriving DecidableEq, Repr

/-- Boundary values held for a neighbour, with the epoch they belong to (R125). -/
structure Inbound where
  neighbour : Nat
  epoch : Nat
  values : List Bool
deriving DecidableEq, Repr

/-- Statistics of a block in an epoch: residue (R104), deferrals (R101), late swaps (R117), waits at its start (R125). -/
structure EpochTally where
  residue : Nat := 0
  deferrals : Nat := 0
  late : Nat := 0
  waits : Nat := 0
deriving DecidableEq, Repr

/-- One block of one replica in a launch (R97, R101, R117, R124, R154). `foreground` is the step whose table decides;
`snapshots`, `contributions`, `counts` (trials and acceptances per step) and `tallies` are by epoch. -/
structure BlockRun where
  engine : Nat
  bits : List Bool
  x : List Int := []
  energy : Int := 0
  epoch : Nat := 0
  sweep : Nat := 0
  next : Nat := 0
  pending : List Nat := []
  foreground : Nat := 0
  backgroundDone : Bool := false
  lateHeld : Bool := false
  waited : Bool := false
  phase : BlockPhase := .idle
  inbound : List Inbound := []
  snapshots : Tbl (List Bool) := []
  contributions : Tbl (Int × Int) := []
  counts : Tbl (Tbl (Nat × Nat)) := []
  tallies : Tbl EpochTally := []
  sums : List Int := []
  neural : Int := 0
  pagedIn : Bool := true
deriving DecidableEq, Repr

/-- One replica position's record (R132-R134). `bestEpoch` none is the initial state; `reduced` counts the epochs whose
energy reduction is done, the last with the reduced energies. -/
structure Replica where
  bestQuad : Int := 0
  bestNeural : Int := 0
  bestEpoch : Option Nat := none
  bestBits : List Bool := []
  finalQuad : Int := 0
  finalNeural : Int := 0
  finalBits : List Bool := []
  reduced : Nat := 0
  reducedQuad : Int := 0
  reducedNeural : Int := 0
  epochsDone : Nat := 0
  trials : Nat := 0
  acceptances : Nat := 0
  exchangesTried : Nat := 0
  exchangesAccepted : Nat := 0
  residue : Nat := 0
  deferrals : Nat := 0
  tableLate : Nat := 0
  epochWaits : Nat := 0
  ridge : Tbl (Nat × Nat) := []
  trace : List Int := []
deriving DecidableEq, Repr

/-- What another cascade member has sent of one epoch (R381): boundary bits by pair, then the sums of every position. -/
structure Remote where
  member : Nat
  epoch : Nat
  bits : Tbl (List Bool)
  sums : Option (List (Int × Int)) := none
deriving DecidableEq, Repr

/-- A launch in flight: its schedule as (FP32 temperature, sweeps) per step (R110-R114, R136, R160), the epochs it starts
and stops at, `seedSent` a seed on its way, `record` the sequence number of the completion record it still waits for;
for a boundary exchange its partition, flow, header digest, what arrived, and the members whose completion message has (R377,
R381). -/
structure Launch where
  queue : Nat
  problem : Nat
  resultAddr : Nat
  schedule : List (Nat × Nat)
  epochSweeps : Nat
  exchangeEpochs : Nat
  traceEpochs : Nat
  replicas : Nat
  concurrent : Bool
  heatBath : Bool
  headFlags : Nat
  start : Nat
  stop : Nat
  seed : Option DWord := none
  seedSent : Option DWord := none
  streamed : Bool := false
  waitingEngine : Bool := false
  engines : List Nat
  neuralEngines : List Nat := []
  multipliers : List Nat
  runs : Tbl BlockRun := []
  reps : List Replica := []
  record : Option Nat := none
  partition : Option (List Nat) := none
  flow : Nat := 0
  remotes : List Remote := []
  sent : Nat := 0
  swapped : Nat := 0
  merged : List Nat := []
  headers : List Nat := []
  digest : List Byte := []
deriving DecidableEq, Repr

/-- Problems and launches (03, 04). Launches are keyed by their command. -/
structure Spin where
  problems : Tbl Problem := []
  gens : Tbl Nat := []
  launches : Tbl Launch := []
deriving DecidableEq, Repr

/-! ### Stored graphs (10) -/

/-- A version of a graph: its node descriptors, entries its patch replaced, bytes charged (R303). -/
structure GraphVersion where
  nodes : List Desc
  charged : Nat
deriving DecidableEq, Repr

/-- A graph (R300-R303, R317, R320). `takenBy` is the patch that holds it, `waiters` the patches, launches and destroys
that wait at its element, in order. -/
structure Graph where
  gen : Nat
  port : Port
  pasid : Nat
  lanes : Nat
  edges : List (Nat × Nat)
  versions : Tbl GraphVersion
  current : Nat
  baseCharge : Nat
  takenBy : Option Nat := none
  waiters : List Nat := []
  stale : Bool := false
  lost : Bool := false
deriving DecidableEq, Repr

/-- How a node of a launch stands (R310-R313). -/
inductive NodeState where
  | waiting
  | running (c : Nat)
  | finished (fault detail status : Nat) (result : BitVec 128)
  | completed (fault detail status : Nat) (result : BitVec 128)
deriving DecidableEq, Repr

/-- A graph launch in flight, keyed by its command (R308-R314): the fault of its record array or of a lost graph (code, detail,
whether it is logged), and the sequence number of the completion record it still waits for. -/
structure GraphLaunch where
  queue : Nat
  graph : Nat
  version : Nat
  lanes : List (Option Nat)
  recordsAddr : Nat
  nodes : List NodeState
  ownFault : Option (Nat × Nat × Bool) := none
  record : Option Nat := none
deriving DecidableEq, Repr

/-- The graphs of the module; `patches` holds the entries a started patch has read (R317). -/
structure Graphs where
  graphs : Tbl Graph := []
  gens : Tbl Nat := []
  launches : Tbl GraphLaunch := []
  patches : Tbl (List (Nat × Desc)) := []
deriving DecidableEq, Repr

/-! ### HBM and flash (11) -/

/-- State of a stack (R329, MEM_STACK_n). -/
inductive StackState where
  | up
  | degraded
  | fenced
  | absent
deriving DecidableEq, Repr

/-- A stack (R324, R328, R329): `laneMap` maps pseudo-channel * 64 + pin to its spare lane, `badPins` lists pseudo-channel * 32 +
pin of the pins no spare was left for. `channelReads` counts unit reads by channel, `pinErrors` the reads of the last 1024 that
corrected an error on a pin (64 * channel + pin), `pinsDue` the pins to repair, `onDieReports` the error reports of the on-die ECC.
`granted` tells whether the last handshake of its memory die granted it a request (R408). -/
structure Stack where
  state : StackState := .up
  unitsRetired : Nat := 0
  lanesRepaired : Nat := 0
  laneMap : Tbl Nat := []
  badPins : List Nat := []
  channelReads : Tbl Nat := []
  pinErrors : Tbl (List Nat) := []
  pinsDue : List Nat := []
  onDieReports : Nat := 0
  removedPages : List Nat := []
  tempC : Nat := 60
  thermal : Thermal := {}
  granted : Bool := false
deriving DecidableEq, Repr

/-- A page of the device range (R331): stack, page of the stack, write access. -/
structure PageMap where
  stack : Nat
  page : Nat
  write : Bool
deriving DecidableEq, Repr

/-- The map request under way (R333, R335): its port, its page keys, for an unmap the accesses it waits for, and the result code of
one that has had its effect and waits until its port may write (R502). -/
structure MapJob where
  port : Port
  unmap : Bool
  keys : List (Nat × PageMap)
  accesses : List Nat := []
  due : Option Nat := none
deriving DecidableEq, Repr

/-- The HBM tier. `graphPages` and `problemPages` list a stack's share of the two areas where it differs from the share with
every stack up (R330). `pages` is keyed by pair and page number. `lastNear` lists, per memory die, the last near stack.
`poisoned` and `patrolMarks` list units, `retireDue` the 1 MiB ranges to be retired, `redirected` those on a spare, `lostSpares`
the spares retired themselves (R327, R328); a unit, range or spare is numbered over all stacks. -/
structure Hbm where
  stackTbl : Tbl Stack := []
  pages : Tbl PageMap := []
  problemGib : Nat := 0x40
  graphPages : Tbl Nat := []
  problemPages : Tbl Nat := []
  graphLast : Nat := 15
  lastSpread : Nat := 23
  lastNear : Tbl Nat := []
  poisoned : List Nat := []
  patrolMarks : List Nat := []
  retireDue : List Nat := []
  redirected : Tbl Nat := []
  lostSpares : List Nat := []
  corrected : Stat := {}
  uncorrected : Stat := {}
  mapOrder : List Port := []
  job : Option MapJob := none
deriving DecidableEq, Repr

/-- A store (R343): its generation, size, label, binding, in which erase block each written block
lies, and which blocks are lost; data in memory. -/
structure FlashStore where
  gen : Nat
  blocks : Nat
  label : Nat
  bound : Option (Port × Nat)
  written : Tbl Nat := []
  lost : List Nat := []
deriving DecidableEq, Repr

inductive ChannelState where
  | up
  | rebuilding
  | fenced
deriving DecidableEq, Repr

/-- A flash channel: of its 8 targets (R337) the failed ones. -/
structure FlashChannel where
  state : ChannelState := .up
  failed : List Nat := []
  grownBad : Nat := 0
deriving DecidableEq, Repr

/-- A dump slot: whether valid, the dump's bytes, its number (R347). -/
structure DumpSlot where
  valid : Bool := false
  bytes : Nat := 0
deriving DecidableEq, Repr

/-- An erase block (R341), by memory die * 2^32 + block: erase count, whether retired, 4 KiB blocks programmed and page reads since
its last erase, when its first was programmed, whether a read needed more than hard decoding, and whether its read at power-on
is due. -/
structure EraseBlock where
  erases : Nat := 0
  retired : Bool := false
  used : Nat := 0
  reads : Nat := 0
  born : Nat := 0
  soft : Bool := false
  unread : Bool := false
deriving DecidableEq, Repr

/-- The flash tier; `filling` is the erase block each memory die programs (R341). Kept across power cycles (R343, R480); stored
values at reset are DESIGN CHOICE, log entry 3. -/
structure Flash where
  stores : Tbl FlashStore := []
  gens : Tbl Nat := []
  channels : Tbl FlashChannel := []
  eraseBlocks : Tbl EraseBlock := []
  filling : Tbl Nat := []
  spareBlocks : Nat := 51711
  readOnly : Bool := false
  spareLow : Bool := false
  refreshed : Nat := 0
  grownBad : Nat := 0
  lifetimeUncorrectable : Nat := 0
  uncorrectable : Stat := {}
  dumps : List DumpSlot := [{}, {}]
  latestDump : Nat := 1
deriving DecidableEq, Repr

/-! ### Optical fabric (12) -/

/-- A schedule entry (R362). -/
structure SchedEntry where
  start : Nat
  len : Nat
  pair : Nat
  transmit : Bool
  cadence : Nat
  phase : Nat
  flow : Nat
  origin : Nat
deriving DecidableEq, Repr

/-- One bank over the six dies: its version (0 empty) and the entries of each die (R362). -/
structure SchedBank where
  version : Nat := 0
  entries : List (List SchedEntry) := [[], [], [], [], [], []]
deriving DecidableEq, Repr

/-- Timing state (R359). -/
inductive Timing where
  | unlocked
  | locking
  | aligned
  | holdover
  | degraded
deriving DecidableEq, Repr

/-- State of a fibre pair (OPX_PAIR_n). -/
inductive PairState where
  | up
  | spare
  | fenced
  | dark
deriving DecidableEq, Repr

/-- The keys of a pair's two directions in a key epoch, as its optical die holds them; `boot` says that they are boot keys
(R432). -/
structure LinkKey where
  epoch : Nat
  boot : Bool
  tx : List Byte
  rx : List Byte
deriving DecidableEq, Repr

/-- A receive occurrence that a receiver waits for, in its frame or after it was lost: start position, frame, times lost, its stream
and codewords, its turn among the occurrences of its frame, and whether a header has asked for it since it was last lost (R367,
R373). -/
structure LostSlot where
  position : Nat
  frame : Nat
  losses : Nat
  flow : Nat
  origin : Nat
  cws : Nat
  turn : Nat
  asked : Bool := false
deriving DecidableEq, Repr

/-- An occurrence sent: its start, its stream, and each codeword's kind and 640 bytes as they were sent (R356, R373). -/
structure SentSlot where
  position : Nat
  frame : Nat
  flow : Nat
  origin : Nat
  words : List (Nat × List Byte)
deriving DecidableEq, Repr

/-- A management message waiting for an open slot: type, sequence number, data, sends so far, loss count, and the frame and
slot it was last sent in while its acknowledgement is awaited (R366). -/
structure OpenWaiting where
  type : Nat
  seq : Nat
  data : List Byte
  sends : Nat := 0
  loss : Nat := 0
  sentIn : Option (Nat × Nat) := none
deriving DecidableEq, Repr

/-- What arrived so far of an occurrence: kind and bytes of each codeword, and whether one was lost (R353, R356). -/
structure Arriving where
  words : List (Nat × List Byte) := []
  bad : Bool := false
deriving DecidableEq, Repr

/-- A fibre pair with its peer registers, keys, lanes, open slot and repeats (R352, R353, R355, R356, R366, R371-R373,
R385-R387, R432). `laneAsk` is the request on the lane-control signal of the transmit fibre's LS, `errorRuns` counts per
carrier (L0-L7, then LS) the consecutive codewords with more than 8 corrected errors on it, `badWord` says that the last
codeword did not decode, and `undecoded` counts those. `openTurn` is the source served next, `openDue` says
that this frame's open slot waits for the peer's header, `openNext` and `openTaken` the
next sequence number per type to send and to deliver, `openHeld` messages ahead of their turn, `openAck` the messages of
this frame received intact, `image` the schedule image under way. `repeatNow` is a lost occurrence whose label has come, and
the label's position, `awaited` the receive occurrences of this frame that have not come yet. -/
structure Pair where
  state : PairState := .dark
  txSpare : Option Nat := none
  rxSpare : Option Nat := none
  laneAsk : Option Nat := none
  errorRuns : List Nat := [0, 0, 0, 0, 0, 0, 0, 0, 0]
  badWord : Bool := false
  undecoded : Nat := 0
  peerHall : Nat := 0xFFFF
  peerDie : Nat := 0
  peerPos : Nat := 0
  mismatch : Bool := false
  keys : List LinkKey := []
  ownNonce : Option (Nat × List Byte) := none
  peerNonce : Option (Nat × List Byte) := none
  nonceDue : Bool := false
  lost : List LostSlot := []
  awaited : List LostSlot := []
  sendRepeats : List (Nat × Nat) := []
  sentSlots : List SentSlot := []
  openQueue : List OpenWaiting := []
  openTurn : Nat := 0
  openDue : Bool := false
  openNext : Tbl Nat := []
  openTaken : Tbl Nat := []
  openHeld : List (Nat × Nat × List Byte) := []
  openAck : Nat := 0
  image : List Byte := []
  repeatNow : Option (LostSlot × Nat) := none
  arriving : Arriving := {}
deriving DecidableEq, Repr

/-- A byte stream of one flow and origin (R367): the bytes that wait to be sent or taken. Of a received stream `left` are the bytes
of the contribution under way still to come, `head` the part of a header that has come, `begun` the commands' contributions begun,
`dies` the optical dies whose stores hold the waiting bytes, in order with their counts (R369). Of a sent stream of the module's
own `owed` says that bytes are due that are not handed over yet (R369, R370). -/
structure Stream where
  bytes : List Byte := []
  owed : Bool := false
  left : Nat := 0
  head : List Byte := []
  begun : Nat := 0
  dies : List (Nat × Nat) := []
deriving DecidableEq, Repr

/-- A flow: the queue and command that claim it, how many commands have claimed it (R368); broken flows (R386). -/
structure Flow where
  queue : Option Nat := none
  command : Option Nat := none
  claims : Nat := 0
  broken : Bool := false
deriving DecidableEq, Repr

/-- An occurrence received whose stream waits for an earlier one (R367, R373): its frame and turn, the optical die that holds it, its
bytes. -/
structure HeldSlot where
  flow : Nat
  origin : Nat
  frame : Nat
  turn : Nat
  die : Nat
  bytes : List Byte
deriving DecidableEq, Repr

/-- The optical fabric. Received streams are keyed by flow * 64 + origin, sent ones by (peer hall_id * 2^16 + flow) * 64 +
origin, pairs by optical die * 24 + position. `missX0` and `missX3` say that a source's marker is not there, `switchTo` the source
to be taken at the next frame boundary (R360); `calibrated` lists the optical dies whose last calibration stands, `calTempC` their
temperatures then (R358). `slips` are the slip frames known that are not past, `checked` the last
schedule frame found ready (R370); `acked` the members that acknowledged the arm, `loaded` the version each member
acknowledged (R365, R382). -/
structure Optical where
  hallId : Nat := 0xFFFF
  periodNs : Nat := 0x2710
  openCw : Nat := 4
  markX0 : Nat := 0
  markX3 : Nat := 0
  launchNs : Nat := 0x7D0
  holdoverLimit : Nat := 0
  role : Nat := 0
  member : Nat := 0
  members : Nat := 0
  slipLead : Nat := 3
  leadHall : Nat := 0xFFFF
  timing : Timing := .unlocked
  sourceX3 : Bool := false
  holdoverLeft : Nat := 0
  goodX0 : Nat := 0
  goodX3 : Nat := 0
  missX0 : Bool := true
  missX3 : Bool := true
  switchTo : Option Bool := none
  calibrated : List Nat := []
  calTempC : Tbl Nat := []
  phasePs : Nat := 0
  relockFrame : Option Nat := none
  frame : Nat := 0
  schedFrame : Nat := 0
  slips : List Nat := []
  checked : Nat := 0
  active : SchedBank := {}
  pendingBank : SchedBank := {}
  armed : Bool := false
  transom : Nat := 0
  acked : List Nat := []
  loaded : Tbl Nat := []
  slipCount : Stat := {}
  repeatCount : Stat := {}
  violations : Stat := {}
  pairs : Tbl Pair := []
  tx : Tbl Stream := []
  rx : Tbl Stream := []
  held : List HeldSlot := []
  flows : Tbl Flow := []
  stopped : Bool := false
deriving DecidableEq, Repr

/-! ### Power (13) -/

/-- The power block's registers and the hold-up bank; live values at reset are DESIGN CHOICE, log entry 3. -/
structure Power where
  capW : Nat := 0x1068
  capInForceW : Nat := 0x1068
  burstEnable : Bool := false
  capLimiting : Bool := false
  burstActive : Bool := false
  bankLow : Bool := false
  controllerH1 : Bool := false
  inputMv : Nat := 60000
  inputW : Nat := 0
  energyMj : Nat := 0
  capLimited : Stat := {}
  uvExcursion : Bool := false
  ovExcursion : Bool := false
  bankMv : Nat := 60000
  history : List (Nat × Nat × Bool × Nat) := []
deriving DecidableEq, Repr

/-! ### Entropy, keys, life cycle (14) -/

/-- State of an entropy source (ENT_STATE). -/
inductive EntState where
  | starting
  | ready
  | restarting
  | permanentFault
deriving DecidableEq, Repr

/-- A consumer's request that waits at a generator (R417). -/
inductive EntRequest where
  | keyBlock (p : Port)
  | linkNonce (die pair : Nat)
  | runSeed (launch : Nat)
deriving DecidableEq, Repr

/-- The entropy source and generator of a host die (R412-R423): the generator's state and its generate requests since seeding, the
block in reserve, what is left of a generate request made for software, and whether conditioning runs. `begun` tells that the
generator has been instantiated since the source started (R419); `lastSample` and `sampleRun` are the last raw sample and how many
equal ones it ends (R413). -/
structure Entropy where
  state : EntState := .starting
  failures : Nat := 0
  healthFail : Stat := {}
  consumerErr : Stat := {}
  instantiated : Bool := false
  begun : Bool := false
  drbg : List Byte := []
  requests : Nat := 0
  reserve : Option (List Byte) := none
  reseedDue : Bool := false
  waiting : List EntRequest := []
  softBits : List Byte := []
  conditioning : Bool := false
  lastSample : Option Bool := none
  sampleRun : Nat := 0
deriving DecidableEq, Repr

/-- Security and life cycle (R424-R436); stored values at reset are DESIGN CHOICE, log entry 3. `drawnSeed` is an identity seed
drawn in BLANK (R434); `hallKeyNext` lists keys and their effective epochs, `hallStored` the stored copies of the key in use and of
those to come, IV, ciphertext and tag (R431); `tamperMac` is the MAC of the tamper record, once an event has been recorded (R435). -/
structure Security where
  lifecycle : Nat := 2
  transitionsLeft : Nat := 30
  tamperCount : Nat := 0
  tamperInputs : Nat := 0
  tamperMac : Option (List Byte) := none
  meshTampered : Bool := false
  bootFailed : Bool := false
  slotB : Bool := false
  imageSvn : Nat := 0
  fuseSvn : Nat := 0
  fwVersion : Nat := 0
  measureA : List (List Byte) := []
  measureB : List (List Byte) := []
  hallKey : Option (List Byte) := none
  hallKeyNext : List (List Byte × Nat) := []
  hallStored : List (List Byte) := []
  drawnSeed : Option (List Byte) := none
  seedErased : Bool := false
  keyBlockRefuses : Bool := false
  secOrder : List Port := []
deriving DecidableEq, Repr

/-! ### Events (15) -/

/-- An event source at one controller (R441-R452). -/
structure Source where
  compat : Bool := false
  fast : Bool := false
  core : Nat := 0
  coalesce : Bool := false
  level : Bool := false
  filter : Nat := 1
  priority : Nat := 0
  count : Nat := 0
  masked : Bool := true
  pending : Bool := false
  active : Bool := false
  wire : Bool := false
  filtered : Bool := false
  held : Bool := false
  latch : Bool := false
deriving DecidableEq, Repr

/-- A management core's side of the controller (R447-R452); vector bases at reset are DESIGN CHOICE, log entry 2. `spurious` marks a
withdrawn presentation and whether it was fast; the source of each class active on the core is the one `claimed` (R448, R449), and
`fastBank` tells which register bank the core uses. -/
structure Core where
  vbaseN : Nat := 0
  vbaseF : Nat := 0
  claimedFast : Nat := 0x3FF
  claimedNormal : Nat := 0x3FF
  coalInterval : Nat := 0
  coalCount : Nat := 1
  coalFires : Nat := 0
  spuriousNormal : Bool := false
  spuriousFast : Bool := false
  asleep : Bool := false
  pc : Nat := 0
  fastBank : Bool := false
deriving DecidableEq, Repr

/-- What a host die holds: its entropy source, event controller, cores, and the identity keys in its sealed region, derived at each
boot (R428). -/
structure HostDie where
  keys : Option IdentityKeys := some (identityKeys (exactly 64 Config.identitySeed))
  ent : Entropy := {}
  sources : Tbl Source := []
  cores : Tbl Core := []
deriving DecidableEq, Repr

/-! ### Faults, reset, management (16, 18) -/

/-- A fault log entry (R462). -/
structure LogEntry where
  time : Nat
  code : Nat
  repeats : Nat
  detail : Nat
  die : Nat
  flags : Nat
  engine : Nat
  queue : Nat
  pasid : Nat
  sequence : Nat
deriving DecidableEq, Repr

/-- The fault log, the fatal stop, and the module reset (R463, R473, R478). `resetStep` is the step of R478 the module is
in, 0 outside a reset; `dumpKept` that it was requested after a fatal error (R495); `lostCopies` lists the stacks whose copy of the
log is lost (R470). -/
structure Faults where
  head : Nat := 0
  entries : List LogEntry := []
  stopped : Bool := false
  code : Nat := 0
  detail : Nat := 0
  fatalTime : Nat := 0
  dumpByH1 : Bool := false
  mirror : Nat := 0
  dumpNumber : Nat := 0
  dumpLen : Nat := 0
  resetStep : Nat := 0
  dumpKept : Bool := false
  requester : Nat := 0
  acks : List Port := []
  bootStep : Nat := 0
  peerLost : Bool := false
  lostCopies : List Nat := []
deriving DecidableEq, Repr

/-- PMBus status (R508), the alert mask of each STATUS_ command, the pins of the management connector (R505, R507, R510), the SMBus
address straps (R508; DESIGN CHOICE, log entry 3), and the standard interfaces lost (R40). `powerGood` says that the first stage
runs, `busFailed` that the 6 V bus or a phase group has failed (R409). -/
structure Management where
  vinUv : Bool := false
  vinOv : Bool := false
  uvWarning : Bool := false
  ovWarning : Bool := false
  otWarning : Bool := false
  otFault : Bool := false
  alertMask : Tbl Nat := []
  powerGood : Bool := true
  busFailed : Bool := false
  holdoffHigh : Bool := true
  addr0 : Bool := false
  addr1 : Bool := false
  lostInterfaces : List StdInterface := []
deriving DecidableEq, Repr

/-- The whole block. `mem` is the byte memory of every address space (Machine/Ops.lean gives the keys); `pending` is the
queue of commands, first in first out. -/
structure State where
  pending : List Instr := []
  time : Nat := 0
  draws : Nat := 0
  reply : Nat := 0
  sent : List OutMsg := []
  mem : List Host.Cell := []
  mesh : Mesh := {}
  dies : Tbl Die := []
  engines : Tbl Engine := []
  banks : Tbl Bank := []
  cmds : Tbl Cmd := []
  jobs : Tbl AccJob := []
  arrays : Tbl AccArray := []
  qfe : Qfe := {}
  portA : PortState := {}
  portB : PortState := {}
  spin : Spin := {}
  grf : Graphs := {}
  hbm : Hbm := {}
  fls : Flash := {}
  opx : Optical := {}
  pwr : Power := {}
  hostA : HostDie := {}
  hostB : HostDie := {}
  sec : Security := {}
  flt : Faults := {}
  mgmt : Management := {}
deriving DecidableEq, Repr

/-- Why a command stops the model. -/
inductive Fault where
  /-- Raised by a command whose operand names a part the module does not have (R5-R7: an engine above 767, a die above
  63, a stack above 23, a vector above 2047 ...). Safe: no such part exists to act on. -/
  | noSuchPart
deriving DecidableEq, Repr

/-- Why a command has no meaning. -/
inductive Refusal where
  /-- Raised by the arm of a command that has no meaning yet. Safe: nothing is claimed of it. -/
  | notModelled (mnemonic : String)
deriving DecidableEq, Repr

/-- The block right after a module reset and boot (R478, R494): every register at the value its table gives. -/
def State.reset : State := {}

end Sys2Proof.Machine
end

