-- ==== Sys2Proof/WellFormed.lean ====
section
/-! DEFINITION. Well-formed commands: every operand that names a part names one the module has (R5-R7, R35, R265,
R440, R454, R487). Identifiers of commands, queues, launches and problems are not checked here: one that names nothing
live makes its command do nothing. -/

namespace Sys2Proof

/-- A global die index (R5). -/
def isDie (d : Nat) : Bool := d < 64
/-- A global engine index (R6). -/
def isEngine (e : Nat) : Bool := e < 768
/-- A scratchpad: of an engine, or of a host die (R252, R260). -/
def isBank (b : Nat) : Bool := b < 770
/-- A router output: n, e, s, w or h (R43). -/
def isOutput (o : Nat) : Bool := o < 5
/-- An optical die and a fibre pair position on it (R7). -/
def isPair (d n : Nat) : Bool := d < 6 && n < 24
/-- A PASID (R268). -/
def isPasid (p : Nat) : Bool := p < 2 ^ 20
/-- The value of a 32-bit register (R12). -/
def isWord (v : Nat) : Bool := v < 2 ^ 32
/-- A management core (R5). -/
def isCore (c : Nat) : Bool := c < 4
/-- An HBM stack (R7). -/
def isStack (n : Nat) : Bool := n < 24
/-- A flash channel (R7). -/
def isFlashChannel (n : Nat) : Bool := n < 16
/-- A word of 32 sources (R445). -/
def isWordOf32 (k : Nat) : Bool := k < 32

/-- An endpoint that a die has (R6, R7, R35). -/
def Endpoint.wf (d : Nat) : Endpoint → Bool
  | .unit n => if d < 48 then n < 17 else n < 1024
  | .pseudoChannel st pc => 48 ≤ d && d < 56 && st / 3 == d - 48 && pc < 32
  | .flash ch => 48 ≤ d && d < 56 && ch / 2 == d - 48
  | .fibre n => 56 ≤ d && d < 62 && n < 24

/-- A packet a mesh header can spell (R25, R33). -/
def Packet.wf (p : Packet) : Bool :=
  isDie p.src && isDie p.dst && p.srcEndpoint.wf p.src && p.dstEndpoint.wf p.dst && p.data.length ≤ 4 && p.tag < 4096 &&
    p.loss < 16

/-- A scratchpad request (R252-R254, R35). -/
def SpdReq.wf (r : SpdReq) : Bool :=
  r.master < 8 && r.group < 8 && r.word < 49152 && r.loss < 16 &&
  match r.op with
  | .read => true
  | .write mask data => mask < 2 ^ 256 && data < 2 ^ 2048
  | .atomicAdd lane wide value => lane % (if wide then 8 else 4) == 0 && lane < 256 && value < 2 ^ 64
  | .atomicSwap lane wide value => lane % (if wide then 8 else 4) == 0 && lane < 256 && value < 2 ^ 64

/-- A standard interface of the module (R38). -/
def StdInterface.wf : StdInterface → Bool
  | .hbm n => isStack n
  | .onfi n => isFlashChannel n
  | .serialiser d n => isPair d n
  | .pcie _ | .i3c _ | .smbus _ | .spi _ => true

/-- The link symbols on the nine wavelengths of a fibre (R350, R351). -/
def lanesWf (l : List (List Nat)) : Bool := l.length == 9 && l.all fun w => w.all (· < 1024)

/-- A command whose operands name parts of the module. -/
def Instr.wf : Instr → Bool
  | .packetForward d ps => isDie d && ps.all fun p => p.wf && p.src == d
  | .creditToggle d o _ => isDie d && isOutput o
  | .bridgeHandshakeTimeout d o h _ _ => isDie d && isOutput o && h < 2
  | .detourTableSwitch d _ b _ _ => isDie d && b < 512
  | .taskHalt e | .taskAdd e | .taskSub e | .taskAnd e | .taskOr e | .taskXor e | .taskShl e | .taskShr e
  | .taskMul e | .taskAddi e | .taskLdw e | .taskLd e | .taskSt e | .taskAadd e | .taskAswp e | .taskBeq e
  | .taskBne e | .taskBlt e | .taskBltu e | .taskLoop e | .taskWaitq e | .waitqSatisfied e | .taskEnq e
  | .taskWaitf e | .waitfSatisfied e | .taskSigf e | .taskDone e | .taskTime e | .reservedInstruction e
  | .taskRanWithoutWaiting e | .contextSave e | .contextRestore e | .startUpSequence e _ _ | .testSequence e _
  | .shadowSetExchange e _ | .engineStall e _ | .engineFence e _ _ | .engineReturn _ e _ _
  | .shutterDrainTimeout _ e | .groupSequence _ e _ _ _ _ _ => isEngine e
  | .doorbellPoll e pasid _ => isEngine e && isPasid pasid
  | .atsTranslationCompletion _ pasid _ _ _ | .prgResponse _ pasid _ _ | .pageRequestTimeout _ pasid _
  | .atsInvalidationRequest _ pasid _ _ => isPasid pasid
  | .qfeEnginePortWrite _ n v | .qfeSillWrite _ n v => n < 24 && isWord v
  | .qfeTimeLimitWrite _ v | .qfePollWrite _ v | .memProblemAreaWrite _ v | .opxFrameWrite _ v
  | .opxCascadeWrite _ v | .pwrCapWrite _ v | .pwrCtrlWrite _ v | .fltLogReadIdxWrite _ v => isWord v
  | .pwrPhaseWrite _ n v => n < 256 && isWord v
  | .scratchpadHandshake b rs => isBank b && rs.all SpdReq.wf && (b < 768 || rs.all fun r => r.word < 16384)
  | .backgroundPassStart b | .regionPhaseEnd b _ => isBank b
  | .spdTestCtrlWrite _ d v => isDie d && isWord v
  | .hbmAccess u _ es _ | .patrolScrub u es => u < 24 * 301989888 && es.all (· < 68)
  | .unitRetirement n r => isStack n && r < 36864
  | .flashDieRebuild n t => isFlashChannel n && t < 8
  | .powerOn _ _ _ l _ _ => l.all isStack
  | .pinLaneRepair n pc pin _ => isStack n && pc < 32 && pin < 32
  | .flashProgramFail n _ | .flashRebuildComplete n => isFlashChannel n
  | .wearLevelCopy m | .retentionRefresh m _ | .readDisturbCopy m _ => m < 8
  | .frameHeaderReceived d n l => isPair d n && lanesWf l
  | .codewordReceived d n _ l => isPair d n && lanesWf l
  | .openSlotMessage d n k l => isPair d n && k < 16 && lanesWf l
  | .repeatWindowExpired d n _ | .linkNonceRetry d n => isPair d n
  | .laneFailure d n l _ _ => isPair d n && l < 9
  | .opxPairRetrain _ d n v => isPair d n && isWord v
  | .calibration d _ => d < 6
  | .fastLoop d _ _ _ | .collectiveHoldTimeout d | .railRampComplete d | .marginTrim d _ | .droopToNominal d
  | .thermalTripTimeout d | .dieCauseClear d _ => isDie d
  | .thermalChange st n _ => if st then isStack n else isDie n
  | .pointOfLoadFailure (.pointOfLoad d) => isDie d
  | .tamperEvent b => b < 16
  | .eventMessage n | .wireSourceChange n _ _ => n < 1024
  | .eventClaim _ c _ | .coalesceIntervalExpiry _ c | .coreSleep _ c | .coreWake _ c | .localTimerCompare _ c => isCore c
  | .eventComplete _ c n => isCore c && n < 1024
  | .evcCountRead _ n r => n < 1024 && (!r.wide || n % 2 == 0)
  | .evcMaskSet _ k b | .evcMaskClr _ k b | .evcPendSet _ k b | .evcPendClr _ k b | .evcHostCauseClear _ k b =>
    isWordOf32 k && isWord b
  | .msixCoalesceExpiry _ v | .msixVectorUnmask _ v => v < 2048
  | .statisticClear _ o v => o < 2 ^ 26 && isWord v
  | .registerWrite _ _ o v w => o < 2 ^ 26 && (if w then v < 2 ^ 64 else isWord v)
  | .smbalertMask c w => c < 256 && w.all (· < 256)
  | .mfrModuleReset v => v < 2 ^ 16
  | .standardInterfaceLoss i => i.wf
  | _ => true

end Sys2Proof
end

