-- ==== Sys2Proof/Machine/Ops.lean ====
section
/-! DEFINITION. Shared operations: the byte memory of every address space, the parts of the state by number, handles,
free values, and the shell every meaning runs in. -/

namespace Sys2Proof.Machine

/-- What a command's meaning answers. -/
abbrev Out := Host.Outcome State Fault Refusal

/-! ### Numbers of parts -/

/-- Port A is 0, port B is 1 (R41). -/
def portIdx : Port → Nat
  | .A => 0
  | .B => 1

/-- The global index of a port's host die (R5). -/
def hostDieIdx (p : Port) : Nat := 62 + portIdx p

/-- The other port. -/
def otherPort : Port → Port
  | .A => .B
  | .B => .A

/-! ### Memory -/

/-- The address spaces of the block: a port's untranslated host memory and a PASID's (R268), an HBM page (R331), a
store (R340), a task window (R249), a dump slot (R347). -/
inductive Space where
  | untranslated (p : Port)
  | virt (p : Port) (pasid : Nat)
  | page (stack page : Nat)
  | store (index : Nat)
  | window (engine : Nat)
  | dump (slot : Nat)
deriving DecidableEq, Repr

/-- The number of an address space in the keys of the memory. -/
def spaceNum : Space → Nat
  | .untranslated p => portIdx p
  | .dump k => 2 + k
  | .window e => 0x10000 + e
  | .virt p pasid => 0x200000 + 0x100000 * portIdx p + pasid
  | .page st pg => 0x400000 + 0x100000 * st + pg
  | .store n => 0x4000000 + n

/-- The memory key of an address of a space. -/
def memKey (sp : Space) (a : Nat) : Nat := spaceNum sp * 2 ^ 64 + a

/-- One byte; an unlisted one is 0 (DESIGN CHOICE, log entry 1). -/
def memGet (m : List Host.Cell) (k : Nat) : Byte := tblGet 0 m k

/-- Write one byte, keeping the canonical form. -/
def memPut (m : List Host.Cell) (k : Nat) (b : Byte) : List Host.Cell := tblSet 0 m k b

/-- Read n bytes from a key on. -/
def memRead (m : List Host.Cell) (k : Nat) : Nat → List Byte
  | 0 => []
  | n + 1 => memGet m k :: memRead m (k + 1) n

/-- Write bytes from a key on. -/
def memWrite (m : List Host.Cell) (k : Nat) : List Byte → List Host.Cell
  | [] => m
  | b :: t => memWrite (memPut m k b) (k + 1) t

/-- The canonical form of the memory: keys strictly rising, no byte listed that an unlisted one reads as. -/
def memWf (m : List Host.Cell) : Bool := tblWf (0 : Byte) m

/-- Read n bytes of a space. -/
def State.read (s : State) (sp : Space) (a n : Nat) : List Byte := memRead s.mem (memKey sp a) n

/-- Write bytes of a space. -/
def State.write (s : State) (sp : Space) (a : Nat) (b : List Byte) : State :=
  { s with mem := memWrite s.mem (memKey sp a) b }

/-- Write a whole space to zero. -/
def State.clear (s : State) (sp : Space) : State :=
  { s with mem := s.mem.filter fun c => !(memKey sp 0 ≤ c.1 && c.1 < memKey sp (2 ^ 64)) }

/-- A little-endian number of a space. -/
def State.readNat (s : State) (sp : Space) (a n : Nat) : Nat := leNat (s.read sp a n)

/-- Add an element to a list that holds each once. -/
def addOnce {α : Type} [BEq α] (n : α) (l : List α) : List α := if l.contains n then l else l ++ [n]

/-! ### Parts by number -/

def State.eng (s : State) (e : Nat) : Engine := tblGet {} s.engines e
def State.setEng (s : State) (e : Nat) (x : Engine) : State := { s with engines := tblSet {} s.engines e x }
def State.modEng (s : State) (e : Nat) (f : Engine → Engine) : State := s.setEng e (f (s.eng e))

/-- The operating point a die stands at after reset: OP2 on compute dies, 3 reads on others (R494, R496). -/
def dieReset (d : Nat) : Die := if d < 48 then {} else { op := 3 }
def State.die (s : State) (d : Nat) : Die := tblGet (dieReset d) s.dies d
def State.setDie (s : State) (d : Nat) (x : Die) : State := { s with dies := tblSet (dieReset d) s.dies d x }
def State.modDie (s : State) (d : Nat) (f : Die → Die) : State := s.setDie d (f (s.die d))

def State.bank (s : State) (b : Nat) : Bank := tblGet {} s.banks b
def State.setBank (s : State) (b : Nat) (x : Bank) : State := { s with banks := tblSet {} s.banks b x }
def State.modBank (s : State) (b : Nat) (f : Bank → Bank) : State := s.setBank b (f (s.bank b))

def State.port (s : State) : Port → PortState
  | .A => s.portA
  | .B => s.portB
def State.setPort (s : State) (p : Port) (x : PortState) : State :=
  match p with
  | .A => { s with portA := x }
  | .B => { s with portB := x }
def State.modPort (s : State) (p : Port) (f : PortState → PortState) : State := s.setPort p (f (s.port p))

def State.host (s : State) : Port → HostDie
  | .A => s.hostA
  | .B => s.hostB
def State.setHost (s : State) (p : Port) (x : HostDie) : State :=
  match p with
  | .A => { s with hostA := x }
  | .B => { s with hostB := x }
def State.modHost (s : State) (p : Port) (f : HostDie → HostDie) : State := s.setHost p (f (s.host p))

def State.queue? (s : State) (q : Nat) : Option Queue := tblFind s.qfe.queues q
def State.setQueue (s : State) (q : Nat) (x : Queue) : State :=
  { s with qfe := { s.qfe with queues := tblPut s.qfe.queues q x } }
def State.modQueue (s : State) (q : Nat) (f : Queue → Queue) : State :=
  match s.queue? q with
  | some x => s.setQueue q (f x)
  | none => s

def State.cmd? (s : State) (c : Nat) : Option Cmd := tblFind s.cmds c
def State.setCmd (s : State) (c : Nat) (x : Cmd) : State := { s with cmds := tblPut s.cmds c x }
def State.dropCmd (s : State) (c : Nat) : State := { s with cmds := tblDel s.cmds c }
def State.modCmd (s : State) (c : Nat) (f : Cmd → Cmd) : State :=
  match s.cmd? c with
  | some x => s.setCmd c (f x)
  | none => s

def State.fence? (s : State) (n : Nat) : Option Fence := tblFind s.qfe.fences n
def State.setFence (s : State) (n : Nat) (x : Fence) : State :=
  { s with qfe := { s.qfe with fences := tblPut s.qfe.fences n x } }

def State.stack (s : State) (n : Nat) : Stack := tblGet {} s.hbm.stackTbl n
def State.setStack (s : State) (n : Nat) (x : Stack) : State :=
  { s with hbm := { s.hbm with stackTbl := tblSet {} s.hbm.stackTbl n x } }

def State.channel (s : State) (n : Nat) : FlashChannel := tblGet {} s.fls.channels n
def State.setChannel (s : State) (n : Nat) (x : FlashChannel) : State :=
  { s with fls := { s.fls with channels := tblSet {} s.fls.channels n x } }

/-- The key of a fibre pair: optical die * 24 + position (R7). -/
def pairKey (d n : Nat) : Nat := d * 24 + n
def State.pair (s : State) (k : Nat) : Pair := tblGet {} s.opx.pairs k
def State.setPair (s : State) (k : Nat) (x : Pair) : State :=
  { s with opx := { s.opx with pairs := tblSet {} s.opx.pairs k x } }
def State.modPair (s : State) (k : Nat) (f : Pair → Pair) : State := s.setPair k (f (s.pair k))

def State.flow (s : State) (f : Nat) : Flow := tblGet {} s.opx.flows f
def State.setFlow (s : State) (f : Nat) (x : Flow) : State :=
  { s with opx := { s.opx with flows := tblSet {} s.opx.flows f x } }

/-- The compute die of an engine (R6). -/
def engineDie (e : Nat) : Nat := e / 16

/-- Is an engine in the usable-engine map and on a powered die (R41, R409)? -/
def State.engineUsable (s : State) (e : Nat) : Bool := (s.eng e).usable && (s.die (engineDie e)).powered

/-- The usable engines, in index order. -/
def State.usableEngines (s : State) : List Nat := (List.range 768).filter fun e => (s.eng e).usable

/-! ### Free values -/

/-- The next free 64-bit value, and the state after it is taken (DESIGN CHOICE, log entry 7). -/
def State.draw (s : State) : DWord × State := (Config.freeDWord s.draws, { s with draws := s.draws + 1 })

/-- n free bytes. -/
def freeBytes (draw n : Nat) : List Byte :=
  (List.range n).map fun i => (Config.freeDWord (draw + i)).setWidth 8

/-! ### Handles (R50, R51) -/

/-- The handle of a kind, generation and index. -/
def mkHandle (kind gen index : Nat) : Nat := kind * 2 ^ 60 + gen * 2 ^ 32 + index

/-- The index a handle names when its kind and generation match the live object (R51). -/
def handleIndex (kind : Nat) (liveGen : Nat → Option Nat) (h : Nat) : Option Nat :=
  let i := h % 2 ^ 32
  match liveGen i with
  | some g => if h = mkHandle kind g i then some i else none
  | none => none

/-- The lowest free index below `n`, and its new generation (R51): neither live nor retired. That a kind's indices stay below the
number of its objects, so that a retired index lowers that number, is a choice (DESIGN CHOICE, log entry 49). -/
def newIndex (n : Nat) (live : Nat → Bool) (gens : Tbl Nat) : Option (Nat × Nat) :=
  match lowestFree (fun i => live i || tblGet 0 gens i == 0xFFFFFF) n 0 with
  | some i => some (i, tblGet 0 gens i + 1)
  | none => none

/-! ### Messages on a bus -/

/-- Put a message on a bus. -/
def State.send (s : State) (m : OutMsg) : State := { s with sent := s.sent ++ [m] }

/-- May a port put a request on its link: not while the host withholds credits (R471, R472, R484, R502)? -/
def PortState.mayRequest (x : PortState) : Bool := x.busMaster && x.linkUp && !x.d3hot && !x.creditsWithheld

/-- A port's request: sent, or held in order while Bus Master Enable is 0, the function is in D3hot (R502) or the host withholds
credits (R471, R484); on a link that is down it is lost. -/
def State.request (s : State) (p : Port) (m : OutMsg) : State :=
  if (s.port p).mayRequest then s.send m
  else if (s.port p).linkUp then s.modPort p fun x => { x with heldRequests := x.heldRequests ++ [m] }
  else s

/-! ### The shell of a meaning -/

/-- Does the module run work: powered and booted, not boot-failed, BLANK or SCRAPPED (R426, R433, R493), not stopped by a
fatal error (R473)? -/
def State.works (s : State) : Bool :=
  !s.flt.stopped && s.flt.resetStep < 4 && s.flt.bootStep == 0 && !s.sec.bootFailed &&
    s.sec.lifecycle != 0 && s.sec.lifecycle != 4

/-- The shell of every meaning: operands that name no part of the module stop the model (`ok` is false); a module that runs
no work does nothing (R426, R433, R473, R493); and a meaning never touches the queue of waiting commands. -/
def act (ok : Bool) (s : State) (f : State → State) : Out :=
  if ok then
    if s.works then .next { f s with pending := s.pending } else .next s
  else .fault .noSuchPart

/-- The shell of the commands that act on a module that runs no work, too: boot, power, reset, the SEC window, event
controllers, PMBus, partner checks, tamper (R426, R433, R435, R473, R477, R493, R505, R508, R510). -/
def actAlways (ok : Bool) (s : State) (f : State → State) : Out :=
  if ok then .next { f s with pending := s.pending } else .fault .noSuchPart

/-- Do BAR0 accesses through a port reach the module: link up, Memory Space Enable set, function in D0 (R472, R502)? -/
def State.barReached (s : State) (p : Port) : Bool :=
  (s.port p).linkUp && (s.port p).memEnable && !(s.port p).d3hot

/-- A BAR0 access that reaches the function but not BAR0 is answered Unsupported Request (R502). -/
def overBar (p : Port) (f : State → State) (s : State) : State :=
  if s.barReached p then f s else if (s.port p).linkUp then s.send (.unsupportedRequest p) else s

end Sys2Proof.Machine
end

