-- ==== Sys2Proof/Machine/Numbers.lean ====
section
/-! DEFINITION. Exact element values and their rounding: the reals of R18 and R181 as rationals, round to nearest even and
stochastic rounding (R182), the floating formats (R169, R170, R183), mix64 (R119). -/

namespace Sys2Proof.Machine

/-! ### Powers and integer rounding -/

/-- 2^e. -/
def pow2 (e : Int) : Rat := if 0 ≤ e then ((2 ^ e.toNat : Nat) : Rat) else mkRat 1 (2 ^ (-e).toNat)

/-- The largest e with 2^e at most v, for v above 0. -/
def flog2 (v : Rat) : Int :=
  let k : Int := (Nat.log2 v.num.natAbs : Int) - (Nat.log2 v.den : Int)
  if pow2 k ≤ v then (if pow2 (k + 1) ≤ v then k + 1 else k) else k - 1

/-- Round to the nearest integer, ties to even. -/
def rne (v : Rat) : Int :=
  let f := v.floor
  let d := v - f
  if d < 1 / 2 then f else if 1 / 2 < d then f + 1 else if f % 2 == 0 then f else f + 1

/-- Is a rational an integer? -/
def isInt (v : Rat) : Bool := v.den == 1

/-- Magnitude. -/
def mag (v : Rat) : Rat := if v < 0 then -v else v

/-! ### The mixing function and the rounding draw -/

/-- mix64 (R119). -/
def mix64 (x0 : DWord) : DWord :=
  let x1 := x0 ^^^ (x0 >>> 29)
  let x2 := x1 * 0x9F4A7C15B36E2D8B#64
  let x3 := x2 ^^^ (x2 >>> 32)
  let x4 := x3 * 0xC2E68B3D5A17F4E9#64
  x4 ^^^ (x4 >>> 31)

/-- A 64-bit word of a number. -/
def dw (n : Nat) : DWord := BitVec.ofNat 64 n

/-- The stochastic rounding draw (R58, R182): a 16-bit value. -/
def srDraw (seed base step index : Nat) : Nat :=
  let key := mix64 (dw seed ^^^ mix64 (dw base + 0x51E3B7A92C06D48F#64))
  let z := mix64 (dw index ^^^ key)
  ((mix64 (z + mix64 (dw step ^^^ key))) >>> 48).toNat

/-- Round among integers: nearest even, or stochastic by the draw u; an integer stays (R182). -/
def roundInt (stochastic : Bool) (u : Nat) (v : Rat) : Int :=
  if isInt v then v.floor
  else if stochastic then (if (u : Int) < ((65536 : Rat) * (v - v.floor)).floor then v.floor + 1 else v.floor)
  else rne v

/-! ### Values -/

/-- An exact real value. -/
def Val.real (v : Rat) : Val := .fin v false

/-- The exact real of a finite value. -/
def Val.rat : Val → Option Rat
  | .fin v _ => some v
  | _ => none

def Val.isFinite : Val → Bool
  | .fin _ _ => true
  | _ => false

/-- The sign bit of a value. -/
def Val.isNeg : Val → Bool
  | .fin v z => v < 0 || z
  | .inf n => n
  | .nan n => n

/-- What a write counts (R195). -/
inductive Count where
  | none
  | vanished
  | saturated
  | overflowed
deriving DecidableEq, Repr

/-! ### Floating formats (R169, R170) -/

/-- A floating format: exponent and mantissa bits, bias, whether it has infinities, and its largest finite code. -/
structure FloatFmt where
  expBits : Nat
  manBits : Nat
  bias : Nat
  hasInf : Bool
  maxCode : Nat
  nanCode : Nat

def fmtE4M3 : FloatFmt := { expBits := 4, manBits := 3, bias := 7, hasInf := false, maxCode := 0x7E, nanCode := 0x7F }
def fmtE5M2 : FloatFmt := { expBits := 5, manBits := 2, bias := 15, hasInf := true, maxCode := 0x7B, nanCode := 0x7E }
def fmtBF16 : FloatFmt := { expBits := 8, manBits := 7, bias := 127, hasInf := true, maxCode := 0x7F7F, nanCode := 0x7FC0 }
def fmtFP32 : FloatFmt :=
  { expBits := 8, manBits := 23, bias := 127, hasInf := true, maxCode := 0x7F7FFFFF, nanCode := 0x7FC00000 }

/-- The magnitude a finite code spells. -/
def floatMag (f : FloatFmt) (code : Nat) : Rat :=
  let e := code / 2 ^ f.manBits
  let m := code % 2 ^ f.manBits
  if e == 0 then (m : Rat) * pow2 (1 - f.bias - f.manBits)
  else ((2 ^ f.manBits + m : Nat) : Rat) * pow2 ((e : Int) - f.bias - f.manBits)

/-- The value of a code; negative zero reads as zero (R170; DEDUCED, log entry 43). -/
def floatDecode (f : FloatFmt) (code : Nat) : Val :=
  let neg := bit code (f.expBits + f.manBits)
  let c := code % 2 ^ (f.expBits + f.manBits)
  if c ≤ f.maxCode then
    let v := floatMag f c
    .fin (if neg then -v else v) false
  else if f.hasInf && c == f.maxCode + 1 then .inf neg
  else .nan neg

/-- The sign bit of a format as a code. -/
def signCode (f : FloatFmt) (neg : Bool) : Nat := if neg then 2 ^ (f.expBits + f.manBits) else 0

/-- The unit in the last place at the top binade. -/
def topUnit (f : FloatFmt) : Rat := floatMag f f.maxCode - floatMag f (f.maxCode - 1)

/-- A finite magnitude beyond the largest finite one, under each rounding (R183). -/
def pastTop (f : FloatFmt) (stochastic : Bool) (a : Rat) : Bool :=
  if stochastic then floatMag f f.maxCode < a else floatMag f f.maxCode + topUnit f / 2 ≤ a

/-- What is written for a finite value beyond the top (R183). -/
def writePast (f : FloatFmt) (noSat : Bool) (neg : Bool) : Nat × Count :=
  let s := signCode f neg
  if f.expBits + f.manBits == 7 && !noSat then (s + f.maxCode, .saturated)
  else if f.hasInf then (s + f.maxCode + 1, .overflowed)
  else (s + f.nanCode, .overflowed)

/-- What is written for an infinity (R183). -/
def writeInf (f : FloatFmt) (noSat : Bool) (neg : Bool) : Nat × Count :=
  let s := signCode f neg
  if f.expBits + f.manBits == 7 && !noSat then (s + f.maxCode, .saturated)
  else if f.hasInf then (s + f.maxCode + 1, .none)
  else (s + f.nanCode, .overflowed)

/-- A finite nonzero value within range, rounded among the finite values (R182, R183). -/
def floatRound (f : FloatFmt) (stochastic : Bool) (u : Nat) (v : Rat) : Nat :=
  let emin : Int := 1 - f.bias
  let e := max (flog2 (mag v)) emin
  let m := roundInt stochastic u (v / pow2 (e - f.manBits))
  let code := (e - emin).toNat * 2 ^ f.manBits + m.natAbs
  if m == 0 then 0 else signCode f (v < 0) + code

/-- Write a value into a floating format (R170, R183). -/
def floatEncode (f : FloatFmt) (stochastic noSat : Bool) (u : Nat) : Val → Nat × Count
  | .nan n => (signCode f n + f.nanCode, .none)
  | .inf n => writeInf f noSat n
  | .fin v z =>
    if v == 0 then (signCode f z, .none)
    else if pastTop f stochastic (mag v) then writePast f noSat (v < 0)
    else
      let c := floatRound f stochastic u v
      (c, if c == 0 then .vanished else .none)

/-- The value of an FP32 code. -/
def fp32 (code : Nat) : Val := floatDecode fmtFP32 code

/-- RNE32: the FP32 value nearest to an exact real (section of R236). -/
def rne32 (v : Rat) : Val := floatDecode fmtFP32 (floatEncode fmtFP32 false false 0 (.real v)).1

/-- The FP32 code nearest to a value. -/
def fp32Code (v : Val) : Nat := (floatEncode fmtFP32 false false 0 v).1

/-! ### IEEE 754 operations on values, exact (R237) -/

/-- The NaN of an operation: a NaN operand keeps its sign; a NaN formed anew has a free sign. -/
def nanOf (free : Bool) : Val → Val → Val
  | .nan n, _ => .nan n
  | _, .nan n => .nan n
  | _, _ => .nan free

/-- Sum; a zero sum is negative only when both operands are negative zeros. -/
def vAdd (free : Bool) (a b : Val) : Val :=
  match a, b with
  | .fin x zx, .fin y zy => .fin (x + y) (x + y == 0 && zx && zy && x == 0 && y == 0)
  | .inf n, .fin _ _ => .inf n
  | .fin _ _, .inf n => .inf n
  | .inf m, .inf n => if m == n then .inf m else .nan free
  | a, b => nanOf free a b

/-- Negation: the sign changes. -/
def vNeg : Val → Val
  | .fin v z => .fin (-v) (v == 0 && !z)
  | .inf n => .inf (!n)
  | .nan n => .nan (!n)

/-- Magnitude: the sign is cleared. -/
def vAbs : Val → Val
  | .fin v _ => .fin (mag v) false
  | .inf _ => .inf false
  | .nan _ => .nan false

def vSub (free : Bool) (a b : Val) : Val :=
  match a, b with
  | .nan n, _ => .nan n
  | _, .nan n => .nan n
  | a, b => vAdd free a (vNeg b)

/-- Product; a zero product has the sign of the operands' signs. -/
def vMul (free : Bool) (a b : Val) : Val :=
  match a, b with
  | .fin x _, .fin y _ => .fin (x * y) (x * y == 0 && a.isNeg != b.isNeg)
  | .inf n, .fin y _ => if y == 0 then .nan free else .inf (n != decide (y < 0))
  | .fin x _, .inf n => if x == 0 then .nan free else .inf (n != decide (x < 0))
  | .inf m, .inf n => .inf (m != n)
  | a, b => nanOf free a b

/-- Is a at most b, infinities by value, zeros equal; false with a NaN? -/
def vLe (a b : Val) : Bool :=
  match a, b with
  | .fin x _, .fin y _ => x ≤ y
  | .inf n, .fin _ _ => n
  | .fin _ _, .inf n => !n
  | .inf m, .inf n => m || !n
  | _, _ => false

/-- max and min; a NaN operand gives NaN (R237). Of two zeros the positive one is the larger (IEEE 754). -/
def vMax (a b : Val) : Val :=
  match a, b with
  | .nan n, _ => .nan n
  | _, .nan n => .nan n
  | a, b => if vLe a b then (if vLe b a then (if a.isNeg then b else a) else b) else a

def vMin (a b : Val) : Val :=
  match a, b with
  | .nan n, _ => .nan n
  | _, .nan n => .nan n
  | a, b => if vLe a b then (if vLe b a then (if a.isNeg then a else b) else a) else b

end Sys2Proof.Machine
end

