-- ==== Sys2Proof/Machine/Functions.lean ====
section
/-! DEFINITION. The functions of the vector unit, correctly rounded to FP32 (R61, R236, R237): each is enclosed between two
rationals at a precision, doubled until both round alike (DEDUCED, log entry 24). -/

namespace Sys2Proof.Machine

/-- An enclosure: a lower and an upper bound. -/
abbrev Iv := Rat × Rat

/-- RNE32 of a value enclosed at every precision; the enclosures of the model never stay apart (DEDUCED, log entry 24). -/
def zivCode (f : Nat → Iv) : Nat → Nat → Nat
  | 0, p => fp32Code (.real (f p).1) + Config.freeBelow p 2 % 2
  | fuel + 1, p =>
    let (lo, hi) := f p
    let a := fp32Code (.real lo)
    if a == fp32Code (.real hi) then a else zivCode f fuel (2 * p)

/-- RNE32 of an enclosed real. -/
def ziv (f : Nat → Iv) : Val := fp32 (zivCode f 12 64)

/-- A rational at a fixed point of p bits, rounded down and up. -/
def fixDown (p : Nat) (v : Rat) : Int := (v * (2 ^ p : Nat)).floor
def fixUp (p : Nat) (v : Rat) : Int := -((-(v * (2 ^ p : Nat))).floor)

/-- A fixed-point number as a rational. -/
def unfix (p : Nat) (v : Int) : Rat := mkRat v (2 ^ p)

/-- A product of fixed-point numbers, not negative, rounded down and up. -/
def mulDown (p a b : Nat) : Nat := a * b / 2 ^ p
def mulUp (p a b : Nat) : Nat := (a * b + (2 ^ p - 1)) / 2 ^ p

/-- Sum of y^i / i! over n terms from i on, lower and upper, with the last upper term. -/
def expSum (p ylo yhi : Nat) : Nat → Nat → Nat → Nat → Nat × Nat × Nat
  | 0, _, _, thi => (0, 0, thi)
  | n + 1, i, tlo, thi =>
    let (a, b, r) := expSum p ylo yhi n (i + 1) (mulDown p tlo ylo / (i + 1)) ((mulUp p thi yhi + i) / (i + 1))
    (tlo + a, thi + b, r)

/-- Square m times. -/
def squareDown (p : Nat) : Nat → Nat → Nat
  | 0, a => a
  | m + 1, a => squareDown p m (mulDown p a a)

def squareUp (p : Nat) : Nat → Nat → Nat
  | 0, a => a
  | m + 1, a => squareUp p m (mulUp p a a)

/-- e^x for 0 ≤ x: the series at x / 2^m below 1/2, squared m times. -/
def expPos (x : Rat) (p : Nat) : Iv :=
  if x == 0 then (1, 1)
  else
    let m := (flog2 x + 2).toNat
    let y := x / (2 ^ m : Nat)
    let ylo := (fixDown p y).toNat
    let yhi := (fixUp p y).toNat
    let one := 2 ^ p
    let (a, b, r) := expSum p ylo yhi (p / 4 + 8) 0 one one
    (unfix p (squareDown p m a : Nat), unfix p (squareUp p m (b + 2 * r) : Nat))

/-- e^x, enclosed; beyond 200 a bound far outside FP32 stands for it. -/
def expIv (x : Rat) (p : Nat) : Iv :=
  if 200 < x then (pow2 200, pow2 201)
  else if x < -200 then (0, pow2 (-200))
  else if 0 ≤ x then expPos x p
  else
    let (a, b) := expPos (-x) p
    (1 / b, 1 / a)

/-- Sum of z^(2i+1) / (2i+1) over n terms, lower and upper, with the last upper power. -/
def artanhSum (p z2lo z2hi : Nat) : Nat → Nat → Nat → Nat → Nat × Nat × Nat
  | 0, _, _, phi => (0, 0, phi)
  | n + 1, k, plo, phi =>
    let (a, b, r) := artanhSum p z2lo z2hi n (k + 2) (mulDown p plo z2lo) (mulUp p phi z2hi)
    (plo / k + a, (phi + k - 1) / k + b, r)

/-- artanh z for 0 ≤ z ≤ 1/3. -/
def artanhIv (z : Rat) (p : Nat) : Iv :=
  let lo := (fixDown p z).toNat
  let hi := (fixUp p z).toNat
  let (a, b, r) := artanhSum p (mulDown p lo lo) (mulUp p hi hi) (p / 3 + 2) 1 lo hi
  (unfix p (a : Nat), unfix p (b + 2 * r : Nat))

/-- ln a for a above 0: a = m * 2^k with m from 3/4 to 3/2. -/
def lnIv (a : Rat) (p : Nat) : Iv :=
  let k0 := flog2 a
  let m0 := a / pow2 k0
  let k := if 3 / 2 ≤ m0 then k0 + 1 else k0
  let m := if 3 / 2 ≤ m0 then m0 / 2 else m0
  let z := (m - 1) / (m + 1)
  let (tlo, thi) := artanhIv (mag z) p
  let (llo, lhi) := artanhIv (1 / 3) p
  let (mlo, mhi) := if z < 0 then (-2 * thi, -2 * tlo) else (2 * tlo, 2 * thi)
  if 0 ≤ k then (mlo + 2 * k * llo, mhi + 2 * k * lhi) else (mlo + 2 * k * lhi, mhi + 2 * k * llo)

/-- √v for v above 0. -/
def sqrtIv (v : Rat) (p : Nat) : Iv :=
  let shift := p + (if flog2 v < 0 then (-(flog2 v)).toNat else 0)
  let r := Nat.sqrt (v * (2 ^ (2 * shift) : Nat)).floor.toNat
  (mkRat (r : Nat) (2 ^ shift), mkRat ((r + 1 : Nat) : Int) (2 ^ shift))

/-- 1 / √v for v above 0. -/
def rsqrtIv (v : Rat) (p : Nat) : Iv := sqrtIv (1 / v) p

/-- tanh a for a above 0. -/
def tanhIv (a : Rat) (p : Nat) : Iv :=
  if 200 < a then (1 - pow2 (-200), 1)
  else
    let (lo, hi) := expPos (2 * a) p
    ((lo - 1) / (lo + 1), (hi - 1) / (hi + 1))

/-- 1 / (1 + e^-a). -/
def logisticIv (a : Rat) (p : Nat) : Iv :=
  if 200 < a then (1 - pow2 (-200), 1)
  else if a < -200 then (0, pow2 (-200))
  else
    let (lo, hi) := expIv (-a) p
    (1 / (1 + hi), 1 / (1 + lo))

/-- The alternating sum of 1 / ((2i+1) x^(2i+1)) at p bits, each term rounded down: within n units. -/
def artanRecip (p x : Nat) : Nat → Nat → Nat → Int
  | 0, _, _ => 0
  | n + 1, k, pw => (pw / k : Nat) - artanRecip p x n (k + 2) (pw / (x * x))

/-- π, from 16 artan 1/5 - 4 artan 1/239. -/
def piIv (p : Nat) : Iv :=
  let n := p / 4 + 4
  let v := 16 * artanRecip p 5 n 1 (2 ^ p / 5) - 4 * artanRecip p 239 n 1 (2 ^ p / 239)
  let err : Int := 64 * (n + 2)
  (unfix p (v - err), unfix p (v + err))

/-- Sum of x^(2i+1) / (2i+1)!! over n terms, lower and upper, with the last upper term. -/
def erfSum (p x2lo x2hi : Nat) : Nat → Nat → Nat → Nat → Nat × Nat × Nat
  | 0, _, _, thi => (0, 0, thi)
  | n + 1, k, tlo, thi =>
    let (a, b, r) := erfSum p x2lo x2hi n (k + 2) (mulDown p tlo x2lo / (k + 2)) ((mulUp p thi x2hi + k + 1) / (k + 2))
    (tlo + a, thi + b, r)

/-- Φ(x) - 1/2 for 0 ≤ x ≤ 16: the density times the series. -/
def phiHalf (x : Rat) (p : Nat) : Iv :=
  let lo := (fixDown p x).toNat
  let hi := (fixUp p x).toNat
  let (a, b, r) := erfSum p (mulDown p lo lo) (mulUp p hi hi) (p + 400) 1 lo hi
  let (elo, ehi) := expIv (-(x * x / 2)) p
  let (plo, phi) := piIv p
  let (slo, _) := sqrtIv (2 * plo) p
  let (_, shi) := sqrtIv (2 * phi) p
  (unfix p (a : Nat) * elo / shi, unfix p (b + 2 * r : Nat) * ehi / slo)

/-- a · Φ(a). -/
def geluIv (a : Rat) (p : Nat) : Iv :=
  if 16 < a then (a * (1 - pow2 (-150)), a)
  else if a < -16 then (-(pow2 (-170)), 0)
  else
    let (lo, hi) := phiHalf (mag a) p
    if 0 ≤ a then (a * (1 / 2 + lo), a * (1 / 2 + hi)) else (a * (1 / 2 - lo), a * (1 / 2 - hi))

/-! ### On values, with IEEE 754 at the edges (R237) -/

/-- RNE32 of a value. -/
def rneVal : Val → Val
  | .fin v z => if v == 0 then .fin 0 z else rne32 v
  | v => v

/-- e^a. -/
def vExp : Val → Val
  | .fin v _ => if v == 0 then .real 1 else ziv (expIv v)
  | .inf n => if n then .real 0 else .inf false
  | v => v

/-- ln a: of a zero -infinity, of a negative number a NaN. -/
def vLn (free : Bool) : Val → Val
  | .fin v _ => if v == 0 then .inf true else if v < 0 then .nan free else if v == 1 then .real 0 else ziv (lnIv v)
  | .inf n => if n then .nan free else .inf false
  | v => v

/-- 1 / √a: of a zero an infinity of its sign. -/
def vRsqrt (free : Bool) : Val → Val
  | .fin v z => if v == 0 then .inf z else if v < 0 then .nan free else ziv (rsqrtIv v)
  | .inf n => if n then .nan free else .real 0
  | v => v

/-- √a. -/
def vSqrt (free : Bool) : Val → Val
  | .fin v z => if v == 0 then .fin 0 z else if v < 0 then .nan free else ziv (sqrtIv v)
  | .inf n => if n then .nan free else .inf false
  | v => v

/-- a / b, exact. -/
def vDiv (free : Bool) (a b : Val) : Val :=
  match a, b with
  | .fin x _, .fin y _ =>
    if y == 0 then (if x == 0 then .nan free else .inf (a.isNeg != b.isNeg))
    else .fin (x / y) (x == 0 && a.isNeg != b.isNeg)
  | .inf n, .fin _ _ => .inf (n != b.isNeg)
  | .fin _ _, .inf n => .fin 0 (a.isNeg != n)
  | .inf _, .inf _ => .nan free
  | a, b => nanOf free a b

/-- tanh a. -/
def vTanh : Val → Val
  | .fin v z =>
    if v == 0 then .fin 0 z
    else if v < 0 then vNeg (ziv (tanhIv (-v))) else ziv (tanhIv v)
  | .inf n => .real (if n then -1 else 1)
  | v => v

/-- 1 / (1 + e^-a). -/
def vLogistic : Val → Val
  | .fin v _ => if v == 0 then .real (1 / 2) else ziv (logisticIv v)
  | .inf n => .real (if n then 0 else 1)
  | v => v

/-- a · Φ(a): at -infinity the product of an infinity and a zero (DEDUCED, log entry 25). -/
def vGelu (free : Bool) : Val → Val
  | .fin v z => if v == 0 then .fin 0 z else ziv (geluIv v)
  | .inf n => if n then .nan free else .inf false
  | v => v

end Sys2Proof.Machine
end

