-- ==== Sys2Proof/Machine/Floor.lean ====
section
/-! DEFINITION. The floor plan of the module: which die stands at the other end of each bridge port (R19-R21, R43), the
default routes (R30), and the HBM pages of each stack (R325, R330). -/

namespace Sys2Proof.Machine

/-- Router outputs by number (R43). -/
def outN : Nat := 0
def outE : Nat := 1
def outS : Nat := 2
def outW : Nat := 3
def outH : Nat := 4

/-- The kind of a die: 0 compute, 1 memory, 2 optical, 3 host (MOD_DIE_INFO). -/
def dieKind (d : Nat) : Nat := if d < 48 then 0 else if d < 56 then 1 else if d < 62 then 2 else 3

/-- The grid column and row of a compute die (R19). -/
def dieCol (d : Nat) : Nat := d % 8
def dieRow (d : Nat) : Nat := d / 8

/-- The die at the other end of a port, for a compute die (R43). -/
def computePeer (d o : Nat) : Option Nat :=
  if o == outN then some (if dieRow d == 0 then 48 + dieCol d / 2 else d - 8)
  else if o == outE then some (if dieCol d == 7 then 59 + dieRow d / 2 else d + 1)
  else if o == outS then some (if dieRow d == 5 then 52 + dieCol d / 2 else d + 8)
  else if o == outW then some (if dieCol d == 0 then 56 + dieRow d / 2 else d - 1)
  else if o == outH && d == 0 then some 62
  else if o == outH && d == 47 then some 63
  else none

/-- The die at the other end of a port (R20, R43). -/
def bridgePeer (d o : Nat) : Option Nat :=
  if d < 48 then computePeer d o
  else if d < 52 then
    if o == outE then some (2 * (d - 48) + 1)
    else if o == outW then some (2 * (d - 48))
    else if o == outH && d == 48 then some 62
    else none
  else if d < 56 then
    if o == outE then some (2 * (d - 48) + 33)
    else if o == outW then some (2 * (d - 48) + 32)
    else if o == outH && d == 55 then some 63
    else none
  else if d < 59 then
    if o == outN then some (16 * (d - 56)) else if o == outS then some (16 * (d - 56) + 8) else none
  else if d < 62 then
    if o == outN then some (16 * (d - 56) - 41) else if o == outS then some (16 * (d - 56) - 33) else none
  else if d == 62 then
    if o == outE then some 48 else if o == outH then some 0 else none
  else if d == 63 then
    if o == outW then some 55 else if o == outH then some 47 else none
  else none

/-- The port of a die that leads to another die. -/
def portTo (d x : Nat) : Option Nat := (List.range 5).find? fun o => bridgePeer d o == some x

/-- Is a port a bonded pair: memory die to compute die (R21)? -/
def bonded (d o : Nat) : Bool :=
  match bridgePeer d o with
  | some x => (dieKind d == 1 && dieKind x == 0) || (dieKind d == 0 && dieKind x == 1)
  | none => false

/-- Bridges behind a port. -/
def halvesOf (d o : Nat) : Nat := if bonded d o then 2 else 1

/-- The number of a bridge port. -/
def outKey (d o : Nat) : Nat := d * 8 + o

/-! ### Default routes (R30) -/

/-- The compute dies attached to an edge die that a route may use (R20, R30): host dies enter the grid at C00 or C47. -/
def attached (d : Nat) : List Nat :=
  if d < 48 then [d]
  else if d < 52 then [2 * (d - 48), 2 * (d - 48) + 1]
  else if d < 56 then [2 * (d - 48) + 32, 2 * (d - 48) + 33]
  else if d < 59 then [16 * (d - 56), 16 * (d - 56) + 8]
  else if d < 62 then [16 * (d - 56) - 41, 16 * (d - 56) - 33]
  else if d == 62 then [0] else [47]

/-- The column or row an endpoint counts at for nearness: a compute die's own, an edge die's grid side (R30). -/
def nearCol (d : Nat) : Nat :=
  if d < 48 then dieCol d
  else if d < 56 then 2 * ((d - 48) % 4)
  else if d < 59 then 0 else if d < 62 then 7 else if d == 62 then 0 else 7

def nearRow (d : Nat) : Nat :=
  if d < 48 then dieRow d
  else if d < 52 then 0 else if d < 56 then 5
  else if d < 62 then 2 * ((d - 56) % 3)
  else if d == 62 then 0 else 5

/-- Distance of two numbers. -/
def dist (a b : Nat) : Nat := (a - b) + (b - a)

/-- The attached compute die of an edge die nearest to the other endpoint: in columns for memory dies, in rows for optical
dies, a tie to the lower index (R30). -/
def gridDoor (edge other : Nat) : Nat :=
  match attached edge with
  | [a] => a
  | [a, b] =>
    let da := if dieKind edge == 1 then dist (dieCol a) (nearCol other) else dist (dieRow a) (nearRow other)
    let db := if dieKind edge == 1 then dist (dieCol b) (nearCol other) else dist (dieRow b) (nearRow other)
    if db < da then b else a
  | _ => 0

/-- One hop on the grid from compute die d to compute die t: requests row first, responses column first (R30). -/
def gridHop (response : Bool) (d t : Nat) : Nat :=
  let alongRow := if dieCol d < dieCol t then outE else outW
  let alongCol := if dieRow d < dieRow t then outS else outN
  if response then (if dieRow d != dieRow t then alongCol else alongRow)
  else (if dieCol d != dieCol t then alongRow else alongCol)

/-- The default output of the router of die d for a packet from src to dst (R30); none at the destination. -/
def defaultOut (response : Bool) (d src dst : Nat) : Option Nat :=
  if d == dst then none
  else if (d == 62 && dst == 48) || (d == 63 && dst == 55) then portTo d dst
  else if (d == 48 && dst == 62) || (d == 55 && dst == 63) then portTo d dst
  else if 48 ≤ d then portTo d (gridDoor d dst)
  else
    let door := if dst < 48 then dst else gridDoor dst src
    if d == door then portTo d dst else some (gridHop response d door)

/-! ### HBM pages (R325, R330) -/

/-- Visible pages of 2 MiB of a stack: 33.5 GiB (R325). -/
def stackPages : Nat := 17152

/-- Does a stack serve requests (R329)? -/
def State.stackUp (s : State) (n : Nat) : Bool := (s.stack n).state == .up || (s.stack n).state == .degraded

/-- A stack's share of the graph area and of the problem area (R330). -/
def State.graphShare (s : State) (n : Nat) : Nat := tblGet (if n < 16 then 43 else 42) s.hbm.graphPages n
def State.problemShare (s : State) (n : Nat) : Nat := tblGet (if n < 16 then 1365 else 1366) s.hbm.problemPages n

/-- Pages of a stack that a map holds, or the map request under way (R333, R335). -/
def State.mappedOn (s : State) (n : Nat) : Nat :=
  (s.hbm.pages.filter fun e => e.2.stack == n).length +
    match s.hbm.job with
    | some j => (j.keys.filter fun e => e.2.stack == n).length
    | none => 0

/-- The pages of a stack that no area can take: out of service, held by a map, or by the map request under way. -/
def State.pagesTaken (s : State) (n : Nat) : List Nat :=
  let on := fun (l : List (Nat × PageMap)) => (l.filter fun e => e.2.stack == n).map fun e => e.2.page
  ((s.stack n).removedPages ++ on s.hbm.pages ++ match s.hbm.job with
    | some j => on j.keys
    | none => []).dedup

/-- Does a page of a stack lie in one of the two areas? They take the lowest pages of a stack that are in service and that no map
holds (R330; DESIGN CHOICE, log entry 33). -/
def State.inAreas (s : State) (n page : Nat) : Bool :=
  let taken := s.pagesTaken n
  !taken.contains page && page - (taken.filter (· < page)).length < s.graphShare n + s.problemShare n

/-- Pages of a stack outside the areas that no map holds (R330, R334). -/
def State.freePages (s : State) (n : Nat) : Nat :=
  if s.stackUp n then
    stackPages - (s.stack n).removedPages.length - s.graphShare n - s.problemShare n - s.mappedOn n
  else 0

/-- Sum of a function over the stacks. -/
def overStacks (f : Nat → Nat) : Nat := ((List.range 24).map f).sum

/-- MOD_HBM_VISIBLE (R41, R328, R329). -/
def State.hbmVisible (s : State) : Nat :=
  overStacks (fun n => if s.stackUp n then stackPages - (s.stack n).removedPages.length else 0) * 2 ^ 21

/-- MEM_POOL_FREE (registers of 11). -/
def State.poolFree (s : State) : Nat := overStacks s.freePages * 2 ^ 21

end Sys2Proof.Machine
end

