-- ==== Sys2Proof/Machine/Flags.lean ====
section
/-! DEFINITION. Flags and signals every family raises: statistics counters (R13, R457, R458), event sources and their
controllers (R439-R453), MSI-X triggers (R454-R456), the fault log (R461-R463). -/

namespace Sys2Proof.Machine

/-! ### Statistics counters -/

/-- The top of a statistics counter (R457). -/
def statTop : Nat := 0x7FFFFFFF

/-- Count n: held at the top; the increment that reaches it with the flag 0 sets the flag and raises one event (R458). -/
def statUp (c : Stat) (n : Nat) : Stat × Bool :=
  let k := min statTop (c.count + n)
  let ev := c.count < statTop && k == statTop && !c.saturated
  ({ count := k, saturated := c.saturated || ev }, ev)

/-- A write to a statistics register: zero in the count clears it, 1 in bit 31 clears the flag (R13, R458). -/
def statWrite (c : Stat) (v : Nat) : Stat :=
  { count := if bits v 0 31 == 0 then 0 else c.count, saturated := c.saturated && !bit v 31 }

/-- A statistics register as it reads (R14). -/
def statRead (c : Stat) : Nat := 2 ^ 31 * bit01 c.saturated + c.count

/-! ### Sources at a controller -/

/-- The wire sources (R440). -/
def isWireSource (n : Nat) : Bool := n == 0x100 || n == 0x101 || n == 0x102 || n == 0x103 || n == 0x104 || n == 0x110 || n == 0x111

/-- The source numbers that fire (R440). -/
def isSource (n : Nat) : Bool :=
  n ≤ 0x04B || (0x080 ≤ n && n ≤ 0x085) || isWireSource n || (0x200 ≤ n && n ≤ 0x243)

/-- Is a source pending: its count above 0 (R443), its pending bit (R444), or its level wire high (R441)? -/
def srcPending (n : Nat) (x : Source) : Bool :=
  if isWireSource n && x.level then x.wire else if x.compat then x.pending else x.count != 0

/-- EVC_COAL's count: 0 is treated as 1 (registers of 15). -/
def coalCountOf (c : Core) : Nat := if c.coalCount == 0 then 1 else c.coalCount

def getSrc (h : HostDie) (n : Nat) : Source := tblGet {} h.sources n
def setSrc (h : HostDie) (n : Nat) (x : Source) : HostDie := { h with sources := tblSet {} h.sources n x }
def getCore (h : HostDie) (c : Nat) : Core := tblGet {} h.cores c
def setCore (h : HostDie) (c : Nat) (x : Core) : HostDie := { h with cores := tblSet {} h.cores c x }

/-- Make every source of a core that coalescing holds back eligible, and start both measures again (R451). -/
def releaseHeld (h : HostDie) (c : Nat) : HostDie :=
  let h' := setCore h c { getCore h c with coalFires := 0 }
  h'.sources.foldl (fun a e => if e.2.core == c && e.2.held then setSrc a e.1 { e.2 with held := false } else a) h'

/-- Once the core's count of fires has arrived, or coalescing is disabled, nothing stays held back (R451). -/
def releaseDue (h : HostDie) (c : Nat) : HostDie :=
  let k := getCore h c
  if coalCountOf k == 1 || coalCountOf k ≤ k.coalFires then releaseHeld h c else h

/-- Account a fire of a coalescing normal source: hold it back, or release all at the count (R451). -/
def coalesceFire (h : HostDie) (n : Nat) (wasPending : Bool) : HostDie :=
  let x := getSrc h n
  let c := getCore h x.core
  if !x.coalesce || x.fast || coalCountOf c == 1 then h
  else
    let h1 := if wasPending && !x.held then h else setSrc h n { x with held := true }
    if coalCountOf c ≤ c.coalFires + 1 then releaseHeld h1 x.core
    else setCore h1 x.core { c with coalFires := c.coalFires + 1 }

/-- One fire of a source with its core awake (R443, R444). -/
def fireAwake (h : HostDie) (n : Nat) : HostDie :=
  let x := getSrc h n
  let was := srcPending n x
  let x' := if x.compat then { x with pending := true } else { x with count := min 0xFFFF (x.count + 1) }
  coalesceFire (setSrc h n x') n was

/-- One fire of a source at one controller: latched while its core sleeps (R452). -/
def fireSource (h : HostDie) (n : Nat) : HostDie :=
  let x := getSrc h n
  if (getCore h x.core).asleep then setSrc h n { x with latch := true } else fireAwake h n

/-- Does a beat b in the order of R447: class, priority, lower number? -/
def winsOver (a b : Nat × Source) : Bool :=
  if a.2.fast != b.2.fast then a.2.fast
  else if a.2.priority != b.2.priority then b.2.priority < a.2.priority
  else a.1 < b.1

/-- What is presented to a core: a source number, and whether in the fast class (R447, R450). -/
def presented (h : HostDie) (c : Nat) : Option (Nat × Bool) :=
  let k := getCore h c
  if k.asleep then none
  else if k.spuriousFast then some (0x3FF, true)
  else if k.spuriousNormal then some (0x3FF, false)
  else
    let mine := h.sources.filter fun e => e.2.core == c
    let fastOn := k.claimedFast != 0x3FF
    let anyOn := fastOn || k.claimedNormal != 0x3FF
    let ready := mine.filter fun e =>
      srcPending e.1 e.2 && !e.2.masked && !e.2.active && !(e.2.held && e.2.coalesce && !e.2.fast) &&
        (if e.2.fast then !fastOn else !anyOn)
    match ready.foldl (fun (a : Option (Nat × Source)) e =>
        match a with
        | none => some e
        | some b => if winsOver e b then some e else some b) none with
    | some e => some (e.1, e.2.fast)
    | none => none

/-- The withdrawal of R450 on one core: the source presented before that is no longer pending leaves the spurious number. -/
def withdrawCore (before after : HostDie) (c : Nat) : HostDie :=
  match presented before c with
  | some (n, fast) =>
    let x := getSrc after n
    if n == 0x3FF || srcPending n x || x.active then after
    else if fast then setCore after c { getCore after c with spuriousFast := true }
    else setCore after c { getCore after c with spuriousNormal := true }
  | none => after

/-- The withdrawal of R450 on the four cores of a controller. -/
def withdraw (before after : HostDie) : HostDie :=
  (List.range 4).foldl (fun h c => withdrawCore before h c) after

/-! ### MSI-X -/

/-- Send a vector's message, or set its pending bit while it is masked or may not be sent (R456, R502); on a link that is down it
is lost. -/
def msixSend (s : State) (p : Port) (v : Nat) : State :=
  let x := s.port p
  let m := tblGet {} x.msix v
  if m.masked || x.funcMask || (x.linkUp && !x.mayRequest) then
    s.setPort p { x with msix := tblSet {} x.msix v { m with pending := true, triggers := 0 } }
  else if !x.linkUp then s.setPort p { x with msix := tblSet {} x.msix v { m with triggers := 0 } }
  else (s.setPort p { x with msix := tblSet {} x.msix v { m with triggers := 0 } }).send (.msix p v m.addr m.data)

/-- One trigger of a vector: counted towards its message (R455), discarded with MSI-X Enable 0 (R456). -/
def msixTrigger (s : State) (p : Port) (v : Nat) : State :=
  let x := s.port p
  let m := tblGet {} x.msix v
  if !x.msixEnable then s
  else if m.interval == 0 || m.count ≤ 1 || m.count ≤ m.triggers + 1 then msixSend s p v
  else s.setPort p { x with msix := tblSet {} x.msix v { m with triggers := m.triggers + 1 } }

/-! ### Events -/

/-- Forward a fire to a port that enabled its source: set the cause bit, and trigger the vector if it was 0 (R453). -/
def hostForward (s : State) (p : Port) (n : Nat) : State :=
  let x := s.port p
  let cause := tblGet 0 x.hostCause (n / 32)
  if !bit (tblGet 0 x.hostEnable (n / 32)) (n % 32) || bit cause (n % 32) then s
  else msixTrigger (s.setPort p { x with hostCause := tblSet 0 x.hostCause (n / 32) (cause + 2 ^ (n % 32)) }) p x.hostVec

/-- One fire of a source, at both controllers and to the hosts (R439, R453). -/
def State.fire (s : State) (n : Nat) : State :=
  if isSource n then
    let s := { s with hostA := fireSource s.hostA n, hostB := fireSource s.hostB n }
    hostForward (hostForward s .A n) .B n
  else s

/-- An event of a die-window register: the block's bit in EVC_DIE_CAUSE, and the die's source (R442). -/
def dieEvent (s : State) (d b : Nat) : State :=
  (s.modDie d fun x => { x with cause := x.cause ||| BitVec.ofNat 7 (2 ^ b) }).fire d

/-- Bits of EVC_DIE_CAUSE (registers of 15). -/
def causeMesh : Nat := 0
def causeAnl : Nat := 1
def causeEng : Nat := 2
def causeSpd : Nat := 3
def causePwr : Nat := 4
def causeOpx : Nat := 5
def causeFence : Nat := 6

/-- Count in a statistic of a die window; its saturation raises one event (R44, R458). -/
def countDie (s : State) (d : Nat) (get : Die → Stat) (put : Die → Stat → Die) (cause n : Nat) : State :=
  if n == 0 then s
  else
    let r := statUp (get (s.die d)) n
    let s := s.modDie d fun x => put x r.1
    if r.2 then dieEvent s d cause else s

/-- Count in a statistic of an engine; its saturation raises one event (R196, R232, R107, R140). -/
def countEngine (s : State) (e : Nat) (get : Engine → Stat) (put : Engine → Stat → Engine) (cause n : Nat) : State :=
  if n == 0 then s
  else
    let r := statUp (get (s.eng e)) n
    let s := s.modEng e fun x => put x r.1
    if r.2 then dieEvent s (engineDie e) cause else s

/-- Count in a banked statistic of a port; its saturation fires a source (R298, R437, R485). -/
def countPort (s : State) (p : Port) (get : PortState → Stat) (put : PortState → Stat → PortState) (source n : Nat) : State :=
  let r := statUp (get (s.port p)) n
  let s := s.modPort p fun x => put x r.1
  if r.2 then s.fire source else s

/-- Count in a global statistic; its saturation fires a source (R348, R388, R410). -/
def countGlobal (s : State) (get : State → Stat) (put : State → Stat → State) (source n : Nat) : State :=
  let r := statUp (get s) n
  let s := put s r.1
  if r.2 then s.fire source else s

/-- A hardware request answered with an error is counted (R422, R437). -/
def consumerError (s : State) (h : Port) : State :=
  let r := statUp (s.host h).ent.consumerErr 1
  let s := s.modHost h fun x => { x with ent := { x.ent with consumerErr := r.1 } }
  if r.2 then s.fire (0x044 + portIdx h) else s

/-! ### The fault log -/

/-- The local timer of a die (R39): the shared base and the die's own offset. -/
def timerOf (s : State) (d : Nat) : Nat := (s.time + Config.timerOffset d) % 2 ^ 64

/-- The host die that keeps the log: H0, or H1 while it holds the cap controller (R463). -/
def logDie (s : State) : Nat := if s.pwr.controllerH1 then 63 else 62

/-- Merge an occurrence into the latest entry with its code (R463): the entries newest first. -/
def logMerge (code detail die now : Nat) : List LogEntry → Option (List LogEntry)
  | [] => none
  | x :: t =>
    if x.code == code then
      if x.detail == detail && x.die == die && now ≤ x.time + 1000000 then
        some ({ x with repeats := min 0xFFFF (x.repeats + 1) } :: t)
      else none
    else (logMerge code detail die now t).map (x :: ·)

/-- Log a fault: merge it, or write a new entry and fire source 0x04B (R462, R463). `who` is queue, pasid, sequence. -/
def logFault (s : State) (code detail die engine : Nat) (portB : Bool) (who : Option (Nat × Nat × Nat)) : State :=
  let now := timerOf s (logDie s)
  match logMerge code detail die now s.flt.entries with
  | some es => { s with flt := { s.flt with entries := es } }
  | none =>
    let e : LogEntry :=
      { time := now, code := code, repeats := 0, detail := detail, die := die,
        flags := bit01 s.pwr.controllerH1 + 2 * bit01 portB + 4 * bit01 who.isSome, engine := engine,
        queue := (who.map (·.1)).getD 0, pasid := (who.map (·.2.1)).getD 0, sequence := (who.map (·.2.2)).getD 0 }
    { s with flt := { s.flt with head := (s.flt.head + 1) % 2 ^ 32, entries := (e :: s.flt.entries).take 65536 } }.fire 0x04B

/-- The detail of a log entry to which the spec gives none (DESIGN CHOICE, log entry 7). -/
def noDetail (code : Nat) : Nat := Config.openDetail code 0 % 2 ^ 32

/-- Log a fault of no die, engine or queue. -/
def logPlain (s : State) (code detail : Nat) : State := logFault s code detail 0xFF 0xFFFF false none

/-- Log a fault of a die. -/
def logOnDie (s : State) (code detail die : Nat) : State := logFault s code detail die 0xFFFF false none

/-- Log a fault of an engine. -/
def logOnEngine (s : State) (code detail e : Nat) : State := logFault s code detail (engineDie e) e false none

/-- Log a fault of a port (R471, R472): detail is the port. -/
def logOnPort (s : State) (code : Nat) (p : Port) : State :=
  logFault s code (portIdx p) (hostDieIdx p) 0xFFFF (p == .B) none

/-- Log a fault of a queue. -/
def logOnQueue (s : State) (code detail q : Nat) (x : Queue) (seq : Nat) : State :=
  logFault s code detail 0xFF 0xFFFF (x.port == .B) (some (q, x.pasid, seq))

/-- The code of a fault log entry, and its bytes (R462). -/
def logBytes (e : LogEntry) : List Byte :=
  natLe 8 e.time ++ natLe 2 e.code ++ natLe 2 e.repeats ++ natLe 4 e.detail ++ natLe 1 e.die ++ natLe 1 e.flags ++
    natLe 2 e.engine ++ natLe 2 e.queue ++ zeros 2 ++ natLe 4 e.pasid ++ natLe 4 e.sequence

/-- The logged command faults: those whose cause lies in hardware or in a partner (R461). A 0x6001 in transit is logged
where it is raised (R188). -/
def isHardwareFault (code : Nat) : Bool :=
  code == 0x1904 || code == 0x1905 || code == 0x1906 || code == 0x2010 || code == 0x2011 || code == 0x2012 ||
  code == 0x2014 || code == 0x2C02 || code == 0x2051 || code == 0x3042 || code == 0x4020 || code == 0x4040 ||
  code == 0x4041 || code == 0x4042 ||
  code == 0x9203 || code == 0x9205 || code == 0x9206 || code == 0xA010 || code == 0xA011

end Sys2Proof.Machine
end

