-- ==== Sys2Proof/Machine/Access.lean ====
section
/-! DEFINITION. Virtual addresses: the two ranges of R268, the device range (R327, R331), host memory through the
translation cache (R270), and accesses to either. -/

namespace Sys2Proof.Machine

/-- Why a command cannot go on: a fault with its detail and whether it is logged (R461), a fault to whose detail the
spec gives no value (a free value, DESIGN CHOICE, log entry 7), a fault whose record carries a result (R190), a page whose
translation it waits for (R270), or a condition it waits for. -/
inductive Stop where
  | fault (code detail : Nat) (logged : Bool)
  | faultOpen (code : Nat)
  | record (code detail : Nat) (result : BitVec 128)
  | page (pasid page : Nat) (write : Bool)
  | hold
deriving DecidableEq, Repr

/-- A pure part of a command's meaning. -/
abbrev Try (α : Type) := Except Stop α

/-- A fault, logged when R461 says so. -/
def flt {α : Type} (code detail : Nat) : Try α := .error (.fault code detail (isHardwareFault code))

/-- Go on when a condition holds, else fault. -/
def need (ok : Bool) (code detail : Nat) : Try Unit := if ok then .ok () else flt code detail

/-- A fault to whose detail the spec gives no value. -/
def fltOpen {α : Type} (code : Nat) : Try α := .error (.faultOpen code)

/-- Go on when a condition holds, else fault with no detail given. -/
def needOpen (ok : Bool) (code : Nat) : Try Unit := if ok then .ok () else fltOpen code

/-- The first address of the device range (R268). -/
def deviceBase : Nat := 0xFFFF800000000000

/-- Bits 43:12 of a virtual address: the detail of R299. -/
def vaDetail (va : Nat) : Nat := bits va 12 32

/-- The key of a device-range page of a pair (R331). -/
def deviceKey (p : Port) (pasid page : Nat) : Nat := (portIdx p * 2 ^ 20 + pasid) * 2 ^ 26 + page

/-- A device-range page number (R331). -/
def devicePage (va : Nat) : Nat := (va - deviceBase) / 2 ^ 21

/-- Does an access lie wholly in one range (R268)? -/
def inOneRange (va len : Nat) : Bool :=
  va < 2 ^ 64 && va + len ≤ 2 ^ 64 && (deviceBase ≤ va || va + len ≤ deviceBase)

/-- The page numbers an access touches. -/
def pagesOf (size va len : Nat) : List Nat :=
  if len == 0 then [] else (List.range ((va + len - 1) / size - va / size + 1)).map (va / size + ·)

/-- The pieces of an access, one per page: address and length. -/
def piecesOf (size va len : Nat) : List (Nat × Nat) :=
  (pagesOf size va len).map fun k =>
    let lo := max va (k * size)
    (lo, min (va + len) ((k + 1) * size) - lo)

/-- The global number of a 128-byte unit: 36 GiB of units per stack (R325, R326). -/
def unitNum (stack byte : Nat) : Nat := stack * 301989888 + byte / 128

/-- The units a byte range of a stack touches. -/
def unitsOf (stack byte len : Nat) : List Nat := (pagesOf 128 byte len).map (stack * 301989888 + ·)

/-- The units a byte range covers only in part. -/
def partUnits (stack byte len : Nat) : List Nat :=
  ((piecesOf 128 byte len).filter fun e => e.2 != 128).map fun e => unitNum stack e.1

/-- The cache grants an access to a page (R270). -/
def atcGrants (x : PortState) (pasid page : Nat) (write : Bool) : Bool :=
  x.atc.any fun a => a.pasid == pasid && a.page == page && (if write then a.writable else a.readable)

/-- Check one piece of a device-range access (R327, R329, R331). -/
def checkDevice (s : State) (p : Port) (pasid va len : Nat) (write : Bool) : Try Unit :=
  let pg := devicePage va
  match tblFind s.hbm.pages (deviceKey p pasid pg) with
  | none => flt 0x2001 pg
  | some m =>
    if (s.stack m.stack).state == .fenced || (s.stack m.stack).state == .absent then flt 0x2012 m.stack
    else if write && !m.write then flt 0x2002 pg
    else
      let byte := m.page * 2 ^ 21 + (va - deviceBase) % 2 ^ 21
      let touched := if write then partUnits m.stack byte len else unitsOf m.stack byte len
      if touched.any fun u => s.hbm.poisoned.contains u then flt 0x2011 pg else .ok ()

/-- Check one piece of a host-memory access: the cache grants it, or the command waits for a translation (R270), or for
Bus Master Enable (R502). -/
def checkHost (s : State) (p : Port) (pasid va : Nat) (write : Bool) : Try Unit :=
  if !atcGrants (s.port p) pasid (va / 4096) write then .error (.page pasid (va / 4096) write)
  else if !(s.port p).mayRequest then .error .hold
  else .ok ()

/-- Check every piece of an access in address order. -/
def checkPieces (f : Nat × Nat → Try Unit) : List (Nat × Nat) → Try Unit
  | [] => .ok ()
  | e :: t => match f e with
    | .ok _ => checkPieces f t
    | .error x => .error x

/-- Check a virtual access (R268, R270, R331). -/
def checkVa (s : State) (p : Port) (pasid va len : Nat) (write : Bool) : Try Unit :=
  if len == 0 then .ok ()
  else if !inOneRange va len then .error (.fault 0x4040 (vaDetail va) false)
  else if deviceBase ≤ va then
    checkPieces (fun e => checkDevice s p pasid e.1 e.2 write) (piecesOf (2 ^ 21) va len)
  else checkPieces (fun e => checkHost s p pasid e.1 write) (piecesOf 4096 va len)

/-- Where a piece of a virtual range lies in the memory. -/
def vaKey (s : State) (p : Port) (pasid va : Nat) : Nat :=
  if deviceBase ≤ va then
    match tblFind s.hbm.pages (deviceKey p pasid (devicePage va)) with
    | some m => memKey (.page m.stack m.page) ((va - deviceBase) % 2 ^ 21)
    | none => memKey (.virt p pasid) va
  else memKey (.virt p pasid) va

/-- The bytes of a virtual range, without its checks. -/
def peekVa (s : State) (p : Port) (pasid va len : Nat) : List Byte :=
  if deviceBase ≤ va then
    (piecesOf (2 ^ 21) va len).flatMap fun e => memRead s.mem (vaKey s p pasid e.1) e.2
  else memRead s.mem (memKey (.virt p pasid) va) len

/-- Clear the poison of the units a device-range write covers whole (R327). -/
def unpoison (s : State) (p : Port) (pasid va len : Nat) : State :=
  if deviceBase ≤ va && !s.hbm.poisoned.isEmpty then
    let whole := (piecesOf (2 ^ 21) va len).flatMap fun e =>
      match tblFind s.hbm.pages (deviceKey p pasid (devicePage e.1)) with
      | some m =>
        let byte := m.page * 2 ^ 21 + (e.1 - deviceBase) % 2 ^ 21
        (unitsOf m.stack byte e.2).filter fun u => !(partUnits m.stack byte e.2).contains u
      | none => []
    { s with hbm := { s.hbm with poisoned := s.hbm.poisoned.filter fun u => !whole.contains u } }
  else s

/-- Write pieces of bytes at keys. -/
def pokePieces (m : List Host.Cell) (key : Nat → Nat) : List (Nat × Nat) → List Byte → List Host.Cell
  | [], _ => m
  | e :: t, b => pokePieces (memWrite m (key e.1) (b.take e.2)) key t (b.drop e.2)

/-- Write a virtual range, without its checks. -/
def pokeVa (s : State) (p : Port) (pasid va : Nat) (b : List Byte) : State :=
  unpoison { s with mem := pokePieces s.mem (vaKey s p pasid) (piecesOf (2 ^ 21) va b.length) b } p pasid va b.length

/-- Read a virtual range. -/
def readVa (s : State) (p : Port) (pasid va len : Nat) : Try (List Byte) :=
  match checkVa s p pasid va len false with
  | .ok _ => .ok (peekVa s p pasid va len)
  | .error x => .error x

/-- Write a virtual range. -/
def writeVa (s : State) (p : Port) (pasid va : Nat) (b : List Byte) : Try State :=
  match checkVa s p pasid va b.length true with
  | .ok _ => .ok (pokeVa s p pasid va b)
  | .error x => .error x

/-- Memory that a faulted or killed command was writing takes free values, where it may be written (R68). -/
def scrambleVa (s : State) (p : Port) (pasid va len : Nat) : State :=
  (piecesOf 4096 va len).foldl (fun s e =>
    match checkVa s p pasid e.1 e.2 true with
    | .ok _ => { pokeVa s p pasid e.1 (freeBytes s.draws e.2) with draws := s.draws + e.2 }
    | .error _ => s) s

/-- A translation request's first attempt takes another kind of access to its page along. -/
def PageWait.widen (w : PageWait) (write : Bool) : PageWait :=
  { w with reads := w.reads || !write, writes := w.writes || write }

/-- Ask for a page's translation (R270 step 2); a first attempt outstanding takes the access along. -/
def askPage (s : State) (p : Port) (pasid page : Nat) (write : Bool) : State :=
  let x := s.port p
  let first := fun (w : PageWait) => w.pasid == pasid && w.page == page && !w.withdrawn && !w.again
  if x.ats.any first then
    s.setPort p { x with ats := x.ats.map fun w => if first w then w.widen write else w }
  else (s.setPort p { x with ats := x.ats ++ [{ pasid := pasid, page := page, reads := !write, writes := write }] }).request p
    (.atsRequest p pasid page)

end Sys2Proof.Machine
end

