-- ==== Sys2Proof/Machine/Medium.lean ====
section
/-! DEFINITION. The flash medium: where the blocks of a store lie, erase blocks, their wear, age and reads (R337, R338, R341). -/

namespace Sys2Proof.Machine

/-- Erase blocks of the tier: 16 TB in blocks of 1152 pages of 16 KiB (R337, R338), of a memory die, and of one flash die. -/
def rawBlocks : Nat := 847710
def dieBlocks : Nat := 105963
def targetBlocks : Nat := 6622

/-- Store blocks of 4 KiB that an erase block holds (R337). -/
def eraseSize : Nat := 4608

/-- The channel of a store's block: units of 64 KiB in turn over F0-F15 (R338; DESIGN CHOICE, log entry 33: from F0 on). -/
def blockChannel (n : Nat) : Nat := n / 16 % 16

/-- The key of an erase block, by the memory die of its channel. -/
def eraseKey (memDie block : Nat) : Nat := memDie * 2 ^ 32 + block
def eraseBlock (s : State) (k : Nat) : EraseBlock := tblGet {} s.fls.eraseBlocks k
def setEraseBlock (s : State) (k : Nat) (e : EraseBlock) : State :=
  { s with fls := { s.fls with eraseBlocks := tblSet {} s.fls.eraseBlocks k e } }

/-- The blocks of stores that an erase block holds: store, block. -/
def dataIn (s : State) (k : Nat) : List (Nat × Nat) :=
  s.fls.stores.flatMap fun f => (f.2.written.filter fun e => e.2 == k).map fun e => (f.1, e.1)

/-- Is an erase block free to be programmed (R341)? -/
def eraseFree (s : State) (m k : Nat) : Bool :=
  !(eraseBlock s k).retired && tblFind s.fls.filling m != some k && (dataIn s k).isEmpty

/-- The erase blocks of a memory die that are listed; an unlisted one is free, never erased. -/
def listedBlocks (s : State) (m : Nat) : Tbl EraseBlock := s.fls.eraseBlocks.filter fun e => e.1 / 2 ^ 32 == m

/-- The free erase block of lowest erase count of a memory die, the lowest numbered of several (R341; DEDUCED, log entry 33). -/
def freeErase (s : State) (m : Nat) : Option Nat :=
  let fresh := fun (b : Nat) => (eraseBlock s (eraseKey m b)).erases == 0 && eraseFree s m (eraseKey m b)
  match lowestFree (fun b => !fresh b) dieBlocks 0 with
  | some b => some (eraseKey m b)
  | none =>
    let l := (listedBlocks s m).filter fun e => eraseFree s m e.1
    (l.foldl (fun (a : Option (Nat × Nat)) e => match a with
      | some (k, n) => if e.2.erases < n then some (e.1, e.2.erases) else some (k, n)
      | none => some (e.1, e.2.erases)) none).map (·.1)

/-- An erase block is erased. -/
def erase (s : State) (k : Nat) : State :=
  setEraseBlock s k { eraseBlock s k with erases := (eraseBlock s k).erases + 1, used := 0, reads := 0, soft := false, unread := false }

/-- A place for 4 KiB on a memory die: the erase block being filled, else the free one of lowest count, erased when it holds old
data (R341). -/
def placeData (s : State) (m : Nat) : State × Nat :=
  let put := fun (s : State) (k : Nat) => (setEraseBlock s k { eraseBlock s k with used := (eraseBlock s k).used + 1 }, k)
  let fresh : State × Nat := match freeErase s m with
    | some k =>
      let s := if (eraseBlock s k).used == 0 then s else erase s k
      let s := setEraseBlock s k { eraseBlock s k with born := s.time }
      put { s with fls := { s.fls with filling := tblPut s.fls.filling m k } } k
    | none => (s, (tblFind s.fls.filling m).getD (eraseKey m 0))
  match tblFind s.fls.filling m with
  | some k => if (eraseBlock s k).used < eraseSize then put s k else fresh
  | none => fresh

/-- A store's block lies in an erase block. -/
def putPlace (s : State) (i n k : Nat) : State :=
  match tblFind s.fls.stores i with
  | some f => { s with fls := { s.fls with stores := tblPut s.fls.stores i { f with written := tblPut f.written n k } } }
  | none => s

/-- The data of an erase block is rewritten elsewhere on its memory die (R341). -/
def moveData (s : State) (m k : Nat) : State :=
  let l := dataIn s k
  let s := { s with fls := { s.fls with
    filling := if tblFind s.fls.filling m == some k then tblDel s.fls.filling m else s.fls.filling } }
  l.foldl (fun s e => let (s, j) := placeData s m; putPlace s e.1 e.2 j) s

/-- The age of an erase block's data in days (R341). -/
def ageDays (s : State) (e : EraseBlock) : Nat := (s.time - e.born) / 86400000000000

/-- The age of the oldest data (R346). -/
def oldestDays (s : State) : Nat :=
  (s.fls.eraseBlocks.filter fun e => !(dataIn s e.1).isEmpty).foldl (fun a e => max a (ageDays s e.2)) 0

end Sys2Proof.Machine
end

