-- ==== Sys2Proof/Machine/Complete.lean ====
section
/-! DEFINITION. Descriptors, completion records and the end of a command (R276-R278, R281, R287, R310, R520). -/

namespace Sys2Proof.Machine

/-! ### Descriptors -/

/-- The field of n bytes at an offset of a descriptor (R276). -/
def dField (d : Desc) (off n : Nat) : Nat := d.toNat / 2 ^ (8 * off) % 2 ^ (8 * n)

/-- The opcode (R276). -/
def dOpcode (d : Desc) : Nat := dField d 0 1

/-- A descriptor from its 64 bytes. -/
def descOf (b : List Byte) : Desc := BitVec.ofNat 512 (leNat b)

/-- The 64 bytes of a descriptor. -/
def descBytes (d : Desc) : List Byte := natLe 64 d.toNat

/-- The lowest reserved byte of 0x10-0x3F that is nonzero, given the named byte ranges (R520). -/
def reservedByte (d : Desc) (named : List (Nat × Nat)) : Option Nat :=
  ((List.range 48).map (0x10 + ·)).find? fun o =>
    !(named.any fun r => r.1 ≤ o && o < r.1 + r.2) && dField d o 1 != 0

/-- The same over the first bytes of a structure in memory. -/
def reservedIn (b : List Byte) (named : List (Nat × Nat)) : Option Nat :=
  (List.range b.length).find? fun o =>
    !(named.any fun r => r.1 ≤ o && o < r.1 + r.2) && fieldOf b o 1 != 0

/-- The slot a matrix or reduction command names (R208, R215, R221), and the opcodes that name one (R199, R219). -/
def dSlot (d : Desc) : Nat := dField d 0x32 1
def namesSlot (opcode : Nat) : Bool :=
  opcode == 0x20 || opcode == 0x21 || opcode == 0x22 || opcode == 0x23 || opcode == 0x30

/-! ### Completion records -/

/-- Completion slot of a sequence number (R272). -/
def cplAddr (q : Queue) (seq : Nat) : Nat := q.cpl + 32 * (seq % 2 ^ q.ringLog2)

/-- The phase bit (R277). -/
def phaseBit (q : Queue) (seq : Nat) : Nat := 1 - seq / 2 ^ q.ringLog2 % 2

/-- The first and the second half of a record as it is written (R277, R278). -/
def recordLow (r : Record) : List Byte := natLe 4 r.seq ++ natLe 2 r.fault ++ natLe 1 r.opcode ++ natLe 1 r.status
def recordHigh (r : Record) : List Byte := natLe 4 r.detail ++ natLe 4 r.tag ++ natLe 16 r.result.toNat

/-- A completion record brings its page's poll interval back to p_min (R279). -/
def pollReset (s : State) (q : Queue) : State :=
  let pmin := (s.port q.port).pollMinNs
  let pages := s.qfe.pages.map fun d =>
    if some d.engine == q.engines.head? && d.pasid == q.pasid && d.page == q.dbPage && q.kind != 3 then
      { d with interval := pmin, quiet := 0 }
    else d
  { s with qfe := { s.qfe with pages := pages } }

/-- Give back the slots a launch holds on an engine (R160), in a saved context, too. -/
def freeHeld (l : Nat) (g : Engine) : Engine :=
  let f := fun (x : List SlotState) => x.map fun k => match k with
    | .held q m => if m == l then .free else .held q m
    | k => k
  { g with slots := f g.slots, context := g.context.map fun k => { k with slots := f k.slots } }

/-- Give back every slot a launch holds (R160, R468). -/
def freeSlots (s : State) (l : Nat) : State :=
  match tblFind s.spin.launches l with
  | some x => x.neuralEngines.foldl (fun s e => s.modEng e (freeHeld l)) s
  | none => s

/-- A launch whose record is written, or will never be, is over (R110, R138, R160). -/
def dropLaunch (s : State) (l : Nat) : State :=
  let s := freeSlots s l
  { s with spin := { s.spin with launches := tblDel s.spin.launches l } }

/-! ### Pins and patches of graphs (R303, R309, R317, R320) -/

/-- Is a version of a graph pinned by a launch in flight (R309)? -/
def pinned (s : State) (g v : Nat) : Bool := s.grf.launches.any fun l => l.2.graph == g && l.2.version == v

/-- Free the versions of a graph that are neither current nor pinned, and the graph when it was destroyed and none is left
(R303, R320). -/
def freeVersions (s : State) (g : Nat) : State :=
  match tblFind s.grf.graphs g with
  | none => s
  | some x =>
    let vs := x.versions.filter fun v => (v.1 == x.current && !x.stale) || pinned s g v.1
    if vs.isEmpty then { s with grf := { s.grf with graphs := tblDel s.grf.graphs g } }
    else { s with grf := { s.grf with graphs := tblPut s.grf.graphs g { x with versions := vs } } }

/-- A graph launch is over: its pin is released (R309). -/
def dropGraphLaunch (s : State) (c : Nat) : State :=
  match tblFind s.grf.launches c with
  | some l => freeVersions { s with grf := { s.grf with launches := tblDel s.grf.launches c } } l.graph
  | none => s

/-- Is a command at a graph's element a patch, not a launch or destroy? -/
def isPatch (s : State) (c : Nat) : Bool := (tblFind s.grf.patches c).isSome

/-- A free graph goes to the patch at the front of those that wait at its element; a launch or destroy there goes first
(R317). -/
def nextAtElement (s : State) (x : Graph) : Graph :=
  match x.takenBy, x.waiters with
  | none, c :: rest => if isPatch s c then { x with takenBy := some c, waiters := rest } else x
  | _, _ => x

/-- A command that holds or waits for a graph gives it up, and the next in order goes on (R317). -/
def releaseGraph (s : State) (c : Nat) : State :=
  let f := fun (x : Graph) => nextAtElement s
    { x with takenBy := if x.takenBy == some c then none else x.takenBy, waiters := x.waiters.filter (· != c) }
  { s with grf := { s.grf with graphs := s.grf.graphs.map (fun e => (e.1, f e.2)), patches := tblDel s.grf.patches c } }

/-- The launch whose completion record has just been written is over (R138, R309). -/
def launchWritten (s : State) (q seq : Nat) : State :=
  let s := match s.spin.launches.find? fun e => e.2.queue == q && e.2.record == some seq with
    | some e => dropLaunch s e.1
    | none => s
  match s.grf.launches.find? fun e => e.2.queue == q && e.2.record == some seq with
  | some e => dropGraphLaunch s e.1
  | none => s

/-- Will a command of the queue have its record written? -/
def writesNone (s : State) (q : Nat) : Bool :=
  match s.queue? q with
  | some q => q.state == .dead || q.silent
  | none => true

/-- The command of a launch ends: the launch waits for its record; a fault gives back its slots at once (R110, R160). -/
def endLaunch (s : State) (c : Nat) (x : Cmd) (code : Nat) : State :=
  match tblFind s.spin.launches c with
  | none => s
  | some l =>
    if writesNone s x.queue || x.node.isSome then dropLaunch s c
    else
      let s := if code == 0 then s else freeSlots s c
      { s with spin := { s.spin with launches := tblPut s.spin.launches c { l with record := some x.seq } } }

/-- The command of a graph launch ends: the pin stays until its record is written (R309). -/
def endGraphLaunch (s : State) (c : Nat) (x : Cmd) : State :=
  match tblFind s.grf.launches c with
  | none => s
  | some l =>
    if writesNone s x.queue then dropGraphLaunch s c
    else { s with grf := { s.grf with launches := tblPut s.grf.launches c { l with record := some x.seq } } }

/-- A queue waits for a page, to read its doorbell or ring or to write a record (R270). -/
def Queue.waitFor (x : Queue) (pg : Nat) (write : Bool) : Queue := { x with waits := addOnce (pg, write) x.waits }

/-- Enter halted or error, which only destruction leaves: last_fault, and the queue's vector (R281). -/
def queueStop (s : State) (q : Nat) (st : QState) (fault seq : Nat) : State :=
  match s.queue? q with
  | none => s
  | some x =>
    if x.state == .error || x.state == .dead then s
    else msixTrigger (s.setQueue q { x with state := st, lastFault := fault, faultSeq := seq }) x.port x.vector

/-- Put a queue in error with a code the queue logs, unless it is there already (R275, R280, R281). -/
def queueError (s : State) (q code : Nat) : State :=
  match s.queue? q with
  | none => s
  | some x =>
    if x.state == .error || x.state == .dead then s
    else logOnQueue (queueStop s q .error code x.fetched) code (noDetail code) q x x.fetched

/-- Write the records that sequence order allows, each before the MSI-X its irq asks for (R278). A record page whose
translation is missing is asked for. -/
def flushRecords : Nat → State → Nat → State
  | 0, s, _ => s
  | fuel + 1, s, q =>
    match s.queue? q with
    | none => s
    | some x =>
      match tblFind x.held x.completed with
      | none => s
      | some r =>
        match writeVa s x.port x.pasid (cplAddr x r.seq + 8) (recordHigh r) with
        | .ok s1 =>
          let s2 := pokeVa s1 x.port x.pasid (cplAddr x r.seq) (recordLow r)
          let x' := { x with held := tblDel x.held x.completed, completed := (x.completed + 1) % 2 ^ 32 }
          let s3 := launchWritten (pollReset (s2.setQueue q x') x') q r.seq
          flushRecords fuel (if r.irq then msixTrigger s3 x.port x.vector else s3) q
        | .error (.page pasid pg w) => (askPage s x.port pasid pg w).setQueue q (x.waitFor pg w)
        | .error .hold => s
        | .error _ => queueError s q 0x4044

/-- A fault other than 0x4003 halts a ready queue with halt_on_fault (R287). -/
def haltFor (s : State) (q fault seq : Nat) : State :=
  match s.queue? q with
  | some x => if x.haltOnFault && x.state == .ready && fault != 0 && fault != 0x4003 then queueStop s q .halted fault seq else s
  | none => s

/-- Hold a record for sequence order and write what order allows; a dead or silent queue writes none (R278, R296, R472). -/
def putRecord (s : State) (q : Nat) (r : Record) : State :=
  match s.queue? q with
  | none => s
  | some x =>
    if x.state == .dead || x.silent then s
    else flushRecords (x.held.length + 1) (haltFor (s.setQueue q { x with held := tblPut x.held r.seq r }) q r.fault r.seq) q

/-! ### Slot claims (R209, R225, R228) -/

/-- The key of a kept array. -/
def arrayKey (q slot : Nat) : Nat := q * 4 + slot

/-- Give back one engine's claim of a slot: kept again when the queue has an array there. -/
def unclaim (s : State) (q slot : Nat) (l : List SlotState) : List SlotState :=
  if nth .free l slot == .claimed q then
    setNth l slot (if (tblFind s.arrays (arrayKey q slot)).isSome then .kept q else .free)
  else l

/-- Release the claims of a command and its working values (R228). -/
def releaseClaims (s : State) (c : Nat) : State :=
  match tblFind s.jobs c, s.cmd? c with
  | some j, some x =>
    match s.queue? x.queue with
    | some q =>
      let s' := q.engines.foldl (fun s e => s.modEng e fun g =>
        { g with slots := unclaim s x.queue j.slot g.slots,
                 context := g.context.map fun k => { k with slots := unclaim s x.queue j.slot k.slots } }) s
      { s' with jobs := tblDel s'.jobs c }
    | none => { s with jobs := tblDel s.jobs c }
  | _, _ => s

/-! ### Blocks of a store write (R340, R345) -/

/-- The index of the store a store command names, its first block and count (R342). -/
def dStore (d : Desc) : Nat := dField d 0x20 8 % 2 ^ 32
def dFirst (d : Desc) : Nat := dField d 0x18 8
def dCount (d : Desc) : Nat := dField d 0x28 4

/-- The state as accesses see it that were translated before an unmap in progress (R335 step 2). -/
def State.translated (s : State) : State :=
  match s.hbm.job with
  | some j => if j.unmap then { s with hbm := { s.hbm with pages := j.keys ++ s.hbm.pages } } else s
  | none => s

/-- Program one block of a store write: its new contents whole, in the erase block being filled (R340, R341). -/
def programBlock (q : Queue) (d : Desc) (s : State) (k : Nat) : State :=
  match tblFind s.fls.stores (dStore d) with
  | none => s
  | some f =>
    let n := dFirst d + k
    let s := s.write (.store (dStore d)) (4096 * n) (peekVa s.translated q.port q.pasid (dField d 0x10 8 + 4096 * k) 4096)
    let (s, place) := placeData s (blockChannel n / 2)
    let f := { f with written := tblPut f.written n place, lost := f.lost.filter (· != n) }
    { s with fls := { s.fls with stores := tblPut s.fls.stores (dStore d) f } }

/-- A store write cut off leaves each block old or new, whole (R340, R345; a free choice, DESIGN CHOICE, log entry 7). -/
def cutOffStore (s : State) (x : Cmd) : State :=
  match s.queue? x.queue with
  | some q =>
    if dOpcode x.desc == 0x82 && x.stage == .running then
      let ks := (List.range (dCount x.desc)).filter fun k => Config.programmed s.draws k
      ks.foldl (programBlock q x.desc) { s with draws := s.draws + 1 }
    else s
  | none => s

/-! ### Flows (R367, R368) -/

/-- The key of a received stream: flow and origin member (R367). -/
def streamKey (flow origin : Nat) : Nat := flow * 64 + origin

/-- The flow a stream key names. -/
def keyFlow (k : Nat) : Nat := k / 64 % 65536

/-- Give back the flows a command claims (R368). What waits on the flow of a command that failed is discarded (log entry
35). -/
def releaseFlows (s : State) (c : Nat) (failed : Bool) : State :=
  let mine := (s.opx.flows.filter fun f => f.2.command == some c).map (·.1)
  let s := mine.foldl (fun s f => s.setFlow f { s.flow f with queue := none, command := none }) s
  if failed then
    let stay := fun (k : Nat) => !mine.contains (keyFlow k)
    let s := mine.foldl (fun s f => s.setFlow f { s.flow f with claims := 0 }) s
    { s with opx := { s.opx with tx := s.opx.tx.filter (fun e => stay e.1), rx := s.opx.rx.filter (fun e => stay e.1) } }
  else s

/-! ### The end of a command -/

/-- Status bits of a record (R277). -/
def statusOf (x : Cmd) (shuttered : Bool) : Nat := 2 * bit01 shuttered + 4 * bit01 x.preempted + 8 * bit01 x.migrated

/-- Note a node's end for its launch (R312). -/
def nodeFinish (s : State) (l n fault detail status : Nat) (result : BitVec 128) : State :=
  match tblFind s.grf.launches l with
  | some g =>
    let g' := { g with nodes := setNth g.nodes n (.finished fault detail status result) }
    { s with grf := { s.grf with launches := tblPut s.grf.launches l g' } }
  | none => s

/-- A command ends: its claims are released, a hardware fault is logged (R461), and its record is written in order, or
its node's end is noted (R278, R310). -/
def finishCmd (s : State) (c code detail : Nat) (result : BitVec 128) (logged shuttered : Bool) : State :=
  match s.cmd? c with
  | none => s
  | some x =>
    let s := if code == 0 then s else cutOffStore s x
    let s := (releaseClaims (releaseGraph (endGraphLaunch (endLaunch s c x code) c x) c) c).dropCmd c
    let s := releaseFlows s c (code != 0)
    let s := match logged, s.queue? x.queue with
      | true, some q => logOnQueue s code detail x.queue q x.seq
      | _, _ => s
    match x.node with
    | some (l, n) => nodeFinish s l n code detail (statusOf x shuttered + 1) result
    | none =>
      match s.queue? x.queue with
      | none => s
      | some q => putRecord s x.queue
          { seq := x.seq, fault := code, opcode := dOpcode x.desc, status := statusOf x shuttered + phaseBit q x.seq,
            detail := detail, tag := dField x.desc 4 4, result := result, irq := bit (dField x.desc 1 1) 1 }

/-- What a command was writing is undefined (R68). -/
def scrambleDests (s : State) (x : Cmd) : State :=
  match s.queue? x.queue with
  | some q => x.dests.foldl (fun s r => scrambleVa s q.port q.pasid r.1 r.2) s
  | none => s

/-- A command faults, `logged` or not: what it was writing is undefined (R68). A graph launch whose record array faults ends once no
node of it runs (R312, R313); a shuttered command ends with 0x4020 whatever comes (R292 step 5), and one at step 5 of R209 or later
completes (R210). -/
def faultAs (s : State) (c code detail : Nat) (logged : Bool) : State :=
  match s.cmd? c with
  | none => s
  | some x =>
    if x.shutter.isSome || x.stage == .committing then s
    else match s.queue? x.queue, tblFind s.grf.launches c with
    | none, _ => s
    | some _, some l =>
      let l := { l with ownFault := some (code, detail, logged) }
      { s with grf := { s.grf with launches := tblPut s.grf.launches c l } }.modCmd c fun y => { y with page := none }
    | some _, none => finishCmd (scrambleDests s x) c code detail 0 logged false

/-- A command faults, logged when R461 says so. -/
def faultCmd (s : State) (c code detail : Nat) : State := faultAs s c code detail (isHardwareFault code)

/-- A command faults with a code to whose detail the spec gives no value. -/
def faultCmdOpen (s : State) (c code : Nat) : State :=
  faultCmd { s with draws := s.draws + 1 } c code (Config.openDetail code s.draws % 2 ^ 32)

/-! ### Running a command -/

/-- What a run of a command's body answers: complete, faulted with its effect so far, still running (or committing), stopped
before any effect, or stopped after an effect that stays. -/
inductive Done where
  | ok (s : State) (result : BitVec 128)
  | bad (s : State) (code detail : Nat) (result : BitVec 128) (logged : Bool)
  | run (s : State)
  | stop (x : Stop)
  | held (s : State) (x : Stop)

/-- Take a pure part of a body further. -/
def within {α : Type} (x : Try α) (k : α → Done) : Done :=
  match x with
  | .ok a => k a
  | .error e => .stop e

/-- Where a descriptor names tensor records, by opcode. -/
def recordFields (opcode : Nat) : List Nat :=
  match opcode with
  | 0x10 | 0x11 | 0x42 | 0x90 | 0x91 => [0x10, 0x18]
  | 0x20 | 0x21 | 0x41 | 0x43 => [0x10, 0x18, 0x20, 0x28]
  | 0x22 | 0x31 => [0x20, 0x28]
  | 0x30 => [0x10, 0x20, 0x28]
  | 0x32 | 0x40 => [0x10, 0x18, 0x20]
  | 0x93 | 0x94 => [0x10]
  | _ => []

/-- Keep a part of a command's input as read, once (R176). -/
def keepPart (s : State) (q : Queue) (n : Nat) (l : List (Nat × List Byte)) (a : Nat) : List (Nat × List Byte) :=
  if a == 0 || l.any (fun e => e.1 == a) then l
  else match readVa s q.port q.pasid a n with
    | .ok b => l ++ [(a, b)]
    | .error _ => l

/-- The tensor records, and the combine list, of a command that waits: what can be read is read once and kept (R176, R223). -/
def keptParts (s : State) (q : Queue) (x : Cmd) : List (Nat × List Byte) :=
  let o := dOpcode x.desc
  let l := (recordFields o).foldl (fun l f => keepPart s q 96 l (dField x.desc f 8)) x.kept
  if o != 0x31 then l
  else
    let l := keepPart s q 136 l (dField x.desc 0x10 8)
    match l.find? fun e => e.1 == dField x.desc 0x10 8 with
    | some e => ((List.range (min 16 (fieldOf e.2 0 4))).map fun i => fieldOf e.2 (8 + 8 * i) 8).foldl (keepPart s q 96) l
    | none => l

/-- Read a part of a command's input: as kept, or now. -/
def readPart (s : State) (q : Queue) (kept : List (Nat × List Byte)) (a n : Nat) : Try (List Byte) :=
  match kept.find? fun e => e.1 == a with
  | some e => if n ≤ e.2.length then .ok (e.2.take n) else readVa s q.port q.pasid a n
  | none => readVa s q.port q.pasid a n

/-- A stop keeps what a body did before it. -/
def keeping (s : State) : Done → Done
  | .stop x => .held s x
  | d => d

/-- A command ends with a fault, and what it had begun to write is undefined (R68). -/
def failCmd (s : State) (c code detail : Nat) (result : BitVec 128) (logged : Bool) : State :=
  finishCmd (match s.cmd? c with
    | some x => scrambleDests s x
    | none => s) c code detail result logged false

/-- Bring a stop about: a fault ends the command, a missing translation is asked for. -/
def stopped (s : State) (c : Nat) (q : Queue) : Stop → State
  | .fault code detail logged => failCmd s c code detail 0 logged
  | .faultOpen code =>
    failCmd { s with draws := s.draws + 1 } c code (Config.openDetail code s.draws % 2 ^ 32) 0 (isHardwareFault code)
  | .record code detail r => failCmd s c code detail r (isHardwareFault code)
  | .page pasid pg w =>
    (askPage s q.port pasid pg w).modCmd c fun x => { x with stage := .waiting, page := some (pasid, pg, w), kept := keptParts s q x }
  | .hold => s

/-- Bring a body's answer about. -/
def settle (s : State) (c : Nat) (q : Queue) : Done → State
  | .ok s' r => finishCmd s' c 0 0 r false false
  | .bad s' code detail r logged => finishCmd s' c code detail r logged false
  | .run s' => s'.modCmd c fun x => if x.stage == .committing then x else { x with stage := .running }
  | .stop x => stopped s c q x
  | .held s' x => stopped s' c q x

/-- Is the command's engine work saved out, or about to be, for a real-time queue (R229, R290)? -/
def savedOut (s : State) (q : Queue) : Bool :=
  q.kind != 1 && q.engines.any fun e => (s.eng e).preempting || (s.eng e).context.isSome

/-- Is a real-time queue bound to an engine (R289)? -/
def realTimeBound (s : State) (e : Nat) : Bool :=
  s.qfe.queues.any fun q => q.2.kind == 1 && q.2.state != .dead && q.2.engines.contains e

/-- Has a command a host read outstanding (R471)? -/
def readsOutstanding (s : State) (p : Port) (c : Nat) : Bool := (s.port p).reads.any fun r => r.command == c

/-- The families whose commands run on engines (R229, R286, R304). -/
def usesEngines (opcode : Nat) : Bool := (0x10 ≤ opcode && opcode < 0x70) || (0x90 ≤ opcode && opcode < 0xA0)

/-- Does an earlier real-time command still run on an engine of a real-time queue (R290)? -/
def behindRealTime (s : State) (c : Nat) (q : Queue) : Bool :=
  q.kind == 1 && s.cmds.any fun e => e.1 < c && usesEngines (dOpcode e.2.desc) &&
    match s.queue? e.2.queue with
    | some k => k.kind == 1 && k.engines.any q.engines.contains
    | none => false

/-- May the command's body run now: not shuttered, its page and its reads there, its engines not saved out nor with an earlier
real-time command? A commit that has begun goes on (R210, R290 step 2). -/
def mayRun (s : State) (c : Nat) (x : Cmd) (q : Queue) : Bool :=
  x.shutter.isNone && x.page.isNone && !readsOutstanding s q.port c &&
    (x.stage == .committing || !(usesEngines (dOpcode x.desc) && (savedOut s q || behindRealTime s c q)))

/-! ### Output pieces (R200) -/

/-- Elements of a shape. -/
def elemCount (dims : List Nat) : Nat := dims.foldl (· * ·) 1

/-- Elements that an output piece may have (R200). -/
def pieceLimit (q : Queue) : Nat := 0x4000 * q.engines.length

/-- End of the output piece that starts at an element: what the limit admits, ending with a block of a row (R172, R200; DESIGN
CHOICE, log entry 45). -/
def pieceEnd (dims : List Nat) (limit lo : Nat) : Nat :=
  if elemCount dims ≤ lo + limit then elemCount dims else lo + limit - (lo + limit) % nth 1 dims 0 % 32

/-- The elements of a command's output piece (R200). -/
def pieceElems (j : AccJob) (limit : Nat) : List Nat :=
  (List.range (pieceEnd j.dims limit j.done.length)).drop j.done.length

/-- Is every reduction index of every element of the piece covered? -/
def covered (j : AccJob) (limit : Nat) : Bool :=
  (pieceElems j limit).all fun el => ((j.partials.filter fun p => p.elem == el).map (·.len)).sum == j.kLen

/-- Is a running matrix or sum command ready for its next group sequence on an engine (R162, R202)? -/
def sequenceReady (s : State) (e : Nat) : Bool :=
  (s.eng e).louvre != 0 && s.cmds.any fun x => match tblFind s.jobs x.1, s.queue? x.2.queue with
    | some j, some q =>
      let o := dOpcode x.2.desc
      (o == 0x20 || o == 0x21 || o == 0x30) && x.2.stage == .running && x.2.page.isNone && q.engines.contains e &&
        mayRun s x.1 x.2 q && j.combined.isNone && !covered j (pieceLimit q)
    | _, _ => false

/-- Is this issue opportunity of an engine's tiles one of the n of every 16 that its louvre opening of n/16 leaves (R399)? Each
group sequence or batch that could otherwise start is one opportunity (DESIGN CHOICE, log entry 36). -/
def mayIssue (s : State) (e : Nat) : Bool := decide (((s.eng e).issues.filter id).length < (s.eng e).louvre)

/-- An issue opportunity of an engine passes, taken or not (R399). -/
def issued (s : State) (e : Nat) (taken : Bool) : State :=
  s.modEng e fun g => { g with issues := (taken :: g.issues).take 15 }

/-- A group sequence or batch of a command on an engine: it takes an issue opportunity (R399), and there are tile handshakes of its
phase on the die, a free number above zero (R403; DESIGN CHOICE, log entry 36). -/
def tileWork (s : State) (e c : Nat) : State :=
  match (s.cmd? c).bind fun x => (s.queue? x.queue).map fun q => 256 * portIdx q.port + dField x.desc 2 1 with
  | some key =>
    let n := Config.freeBelow s.draws (2 ^ 16) % 2 ^ 16 + 1
    { (issued s e true).modDie (engineDie e) fun d =>
        { d with handshakes := tblPut d.handshakes key (tblGet 0 d.handshakes key + n), workers := addOnce e d.workers } with
      draws := s.draws + 1 }
  | none => s

/-- Run a body for the command that carries the opcode and stands at one of the stages. -/
def takeCmd (s : State) (c opcode : Nat) (stages : List Stage) (body : State → Cmd → Queue → Done) : State :=
  match s.cmd? c with
  | none => s
  | some x =>
    match s.queue? x.queue with
    | none => s
    | some q =>
      if dOpcode x.desc == opcode && stages.contains x.stage && mayRun s c x q then
        settle s c q (body s x q)
      else s

/-- Run the body of a command that has started, or that waits for a page. -/
def runCmd (s : State) (c opcode : Nat) (body : State → Cmd → Queue → Done) : State :=
  takeCmd s c opcode [.started, .waiting] body

/-- Take a running command further. -/
def goOn (s : State) (c opcode : Nat) (body : State → Cmd → Queue → Done) : State :=
  takeCmd s c opcode [.running] body

/-- Refuse a nonzero reserved byte of a descriptor under its family's code (R520). -/
def needReserved (d : Desc) (named : List (Nat × Nat)) (code : Nat) : Try Unit :=
  match reservedByte d named with
  | some o => flt code o
  | none => .ok ()

end Sys2Proof.Machine
end

