-- ==== Sys2Proof/Machine/Operands.lean ====
section
/-! DEFINITION. Operands: the bytes a descriptor names (R276, R520), tensor records and what they name (R167-R180), their
checks (R186, R187, R197), and the exact value of every element (R181). -/

namespace Sys2Proof.Machine

/-! ### The bytes a descriptor names (R520) -/

/-- The named bytes 0x10-0x3F of each opcode's table: offset and size; none for an opcode that no family defines. -/
def namedBytes (opcode : Nat) : Option (List (Nat × Nat)) :=
  match opcode with
  | 0x00 | 0x03 | 0x04 => some []
  | 0x01 => some [(0x10, 16)]
  | 0x02 => some [(0x10, 17)]
  | 0x10 | 0x11 => some [(0x10, 16)]
  | 0x20 => some [(0x10, 37)]
  | 0x21 => some [(0x10, 45)]
  | 0x22 => some [(0x20, 16), (0x32, 3)]
  | 0x23 => some [(0x32, 1)]
  | 0x30 => some [(0x10, 8), (0x20, 21)]
  | 0x31 => some [(0x10, 8), (0x20, 16), (0x33, 2)]
  | 0x32 => some [(0x10, 24), (0x30, 2)]
  | 0x40 => some [(0x10, 29)]
  | 0x41 => some [(0x10, 41)]
  | 0x42 => some [(0x10, 16)]
  | 0x43 => some [(0x10, 40)]
  | 0x50 => some [(0x10, 10)]
  | 0x51 => some [(0x10, 10), (0x20, 8)]
  | 0x52 => some [(0x10, 24)]
  | 0x53 => some [(0x10, 29)]
  | 0x54 => some [(0x20, 8)]
  | 0x55 => some [(0x10, 24)]
  | 0x60 => some [(0x10, 24)]
  | 0x61 => some [(0x10, 8), (0x20, 8)]
  | 0x62 => some [(0x10, 32)]
  | 0x70 => some [(0x10, 8)]
  | 0x71 => some [(0x18, 40)]
  | 0x72 => some [(0x10, 12), (0x20, 8)]
  | 0x73 => some [(0x20, 8)]
  | 0x80 => some [(0x10, 16)]
  | 0x81 | 0x82 => some [(0x10, 28)]
  | 0x83 => some [(0x18, 20)]
  | 0x84 => some [(0x10, 8), (0x20, 8)]
  | 0x85 => some [(0x20, 8)]
  | 0x90 => some [(0x10, 16), (0x30, 5)]
  | 0x91 => some [(0x10, 16), (0x30, 2)]
  | 0x92 => some [(0x10, 34)]
  | 0x93 => some [(0x10, 8), (0x30, 2)]
  | 0x94 => some [(0x10, 8), (0x30, 3)]
  | 0x95 => some [(0x10, 13)]
  | 0x96 => some [(0x10, 4), (0x18, 8)]
  | 0xA0 => some [(0x10, 46)]
  | 0xA1 => some [(0x10, 8), (0x20, 8)]
  | 0xA2 => some [(0x3C, 2)]
  | _ => none

/-- The code of a nonzero reserved byte 0x10-0x3F (R520). -/
def reservedCode (opcode : Nat) : Nat :=
  if opcode == 0x52 then 0x6C20
  else if 0x20 ≤ opcode && opcode < 0x40 then 0x3033
  else if 0x40 ≤ opcode && opcode < 0x50 then 0x303A
  else if 0x50 ≤ opcode && opcode < 0x60 then 0x6C01
  else if 0x80 ≤ opcode && opcode < 0x90 then 0xA001
  else if 0x90 ≤ opcode && opcode < 0xA0 then 0x1901
  else 0x4004

/-- The lowest nonzero reserved byte of the common header (R276): flags 7:2, 0x03, 0x08-0x0F. -/
def headerBad (d : Desc) : Option Nat :=
  if 4 ≤ dField d 1 1 then some 1
  else if dField d 3 1 != 0 then some 3
  else ((List.range 8).map (8 + ·)).find? fun o => dField d o 1 != 0

/-- The check of a command that starts (R71, R276, R520): the opcode, the header, and the reserved bytes of the families
that have no code of their own. -/
def startCheck (d : Desc) : Try Unit :=
  match namedBytes (dOpcode d) with
  | none => fltOpen 0x4010
  | some named =>
    match headerBad d with
    | some o => flt 0x4004 o
    | none => if reservedCode (dOpcode d) == 0x4004 then needReserved d named 0x4004 else .ok ()

/-- The lowest nonzero reserved byte of a command's own part, for a family with a code of its own. -/
def descReserved (d : Desc) : Option Nat := reservedByte d ((namedBytes (dOpcode d)).getD [])

/-- The lowest offset of those found at fault. -/
def lowestBad (l : List (Nat × Bool)) : Option Nat :=
  l.foldl (fun a e => if e.2 then (match a with | none => some e.1 | some o => some (min o e.1)) else a) none

/-- Refuse the lowest of the fields at fault. -/
def needFields (code : Nat) (l : List (Nat × Bool)) : Try Unit :=
  match lowestBad l with
  | some o => flt code o
  | none => .ok ()

/-- The fields of a descriptor at fault with its reserved bytes: the lowest offset is named. -/
def needDesc (d : Desc) (code : Nat) (l : List (Nat × Bool)) : Try Unit :=
  needFields code (match descReserved d with | some o => (o, true) :: l | none => l)

/-! ### Tensor records (R176) -/

/-- The storage of a tensor (R179). -/
inductive Storage where
  | int4
  | int8
  | uint8z
  | e4m3
  | e5m2
  | bf16
  | fp32
  | vb8
  | vb4
  | int32
  | acc64
deriving DecidableEq, Repr

/-- A tensor record (R176), with its bytes. -/
structure Tensor where
  raw : List Byte
  base : Nat
  scaleAddr : Nat
  sideAddr : Nat
  sideCap : Nat
  format : Nat
  role : Nat
  transport : Nat
  rounding : Nat
  dims : List Nat
  strides : List Nat
  zeroPoint : Nat
  texp : Int
  budget : Nat
  flags : Nat
  seed : Nat
  step : Nat
deriving DecidableEq, Repr

/-- A record from its 96 bytes. -/
def tensorOf (b : List Byte) : Tensor :=
  { raw := b, base := fieldOf b 0x00 8, scaleAddr := fieldOf b 0x08 8, sideAddr := fieldOf b 0x10 8,
    sideCap := fieldOf b 0x18 4, format := fieldOf b 0x1C 1, role := fieldOf b 0x1D 1, transport := fieldOf b 0x1E 1,
    rounding := fieldOf b 0x1F 1, dims := (List.range 4).map fun i => fieldOf b (0x20 + 4 * i) 4,
    strides := (List.range 3).map fun i => fieldOf b (0x30 + 4 * i) 4, zeroPoint := fieldOf b 0x3C 1,
    texp := toSigned 8 (fieldOf b 0x3D 1), budget := fieldOf b 0x3E 1, flags := fieldOf b 0x3F 1,
    seed := fieldOf b 0x40 8, step := fieldOf b 0x48 4 }

/-- Dimension i, and the stride between indices of dimension i (1 to 3). -/
def Tensor.dim (t : Tensor) (i : Nat) : Nat := nth 1 t.dims i
def Tensor.stride (t : Tensor) (i : Nat) : Nat := nth 0 t.strides (i - 1)

/-- The storage of a format and transport (R167, R179). -/
def Tensor.storage (t : Tensor) : Storage :=
  match t.format with
  | 0x01 => .int4
  | 0x02 => .int8
  | 0x03 => .uint8z
  | 0x04 => .e4m3
  | 0x05 => .e5m2
  | 0x06 => if t.transport == 0 then .vb8 else .bf16
  | 0x07 => if t.transport == 0 then .vb8 else .fp32
  | 0x08 => .vb8
  | 0x09 => .vb4
  | 0x0A => .int32
  | 0x0B => .acc64
  | _ => .int8

def Storage.isVb (x : Storage) : Bool := x == .vb8 || x == .vb4

/-- Blocks of 32 in a row (R172). -/
def Tensor.rowBlocks (t : Tensor) : Nat := (t.dim 0 + 31) / 32

/-- Bytes of a row (R177). -/
def Tensor.rowBytes (t : Tensor) : Nat :=
  match t.storage with
  | .int4 => (t.dim 0 + 1) / 2
  | .int8 | .uint8z | .e4m3 | .e5m2 => t.dim 0
  | .bf16 => 2 * t.dim 0
  | .fp32 | .int32 => 4 * t.dim 0
  | .acc64 => 8 * t.dim 0
  | .vb8 => 32 * t.rowBlocks
  | .vb4 => 16 * t.rowBlocks

/-- The alignment of the base and of every stride in use (R177). -/
def Tensor.align (t : Tensor) : Nat :=
  match t.storage with
  | .vb8 => 32
  | .vb4 => 16
  | .fp32 | .int32 | .acc64 => 4
  | .bf16 => 2
  | _ => 1

/-- Rows, blocks and elements of a tensor (R177). -/
def Tensor.rows (t : Tensor) : Nat := t.dim 1 * t.dim 2 * t.dim 3
def Tensor.blocks (t : Tensor) : Nat := t.rows * t.rowBlocks
def Tensor.elems (t : Tensor) : Nat := t.rows * t.dim 0

/-- The address of a row: the index of a dimension of size 1 is 0, so its stride enters no address (R177). -/
def Tensor.rowAddr (t : Tensor) (r : Nat) : Nat :=
  t.base + r % t.dim 1 * t.stride 1 + r / t.dim 1 % t.dim 2 * t.stride 2 + r / (t.dim 1 * t.dim 2) * t.stride 3

/-- reach_k (R177). -/
def Tensor.reach (t : Tensor) : Nat → Nat
  | 0 => t.rowBytes
  | k + 1 => if 1 < t.dim (k + 1) then t.dim (k + 1) * t.stride (k + 1) else t.reach k

/-- Does a stride break R177? -/
def Tensor.strideBad (t : Tensor) (k : Nat) : Bool :=
  1 < t.dim k && (t.stride k < t.reach (k - 1) || t.stride k % t.align != 0)

/-- The tag of a block (R174). -/
def blockTag (k : Nat) : Nat := k % 15 + 1

/-- The lowest offset of a record at fault under R176, R177, R178, R180 (check 1 of R197). -/
def Tensor.bad (t : Tensor) : Option Nat :=
  let st := t.storage
  let intFmt := st == .int4 || st == .int8 || st == .uint8z || st == .int32
  lowestBad ([(0x00, t.base % t.align != 0),
    (0x08, (st.isVb && t.scaleAddr % 2 != 0) || (st == .acc64 && t.scaleAddr % 8 != 0)),
    (0x10, st.isVb && t.sideAddr % 8 != 0),
    (0x1C, t.format == 0 || 0x0C ≤ t.format), (0x1D, 4 < t.role), (0x1E, 1 < t.transport),
    (0x1F, 1 < t.rounding || ((t.role == 2 || t.role == 3) && t.rounding == 0)),
    (0x20, t.dim 0 == 0), (0x24, t.dim 1 == 0), (0x28, t.dim 2 == 0), (0x2C, t.dim 3 == 0),
    (0x30, t.strideBad 1), (0x34, t.strideBad 2), (0x38, t.strideBad 3),
    (0x3C, t.zeroPoint != 0 && st != .uint8z),
    (0x3D, if intFmt then t.texp < -64 || 63 < t.texp else t.texp != 0),
    (0x3E, 4 < t.budget), (0x3F, 1 < t.flags)] ++
    ((List.range 20).map fun i => (0x4C + i, fieldOf t.raw (0x4C + i) 1 != 0)))

/-! ### The operands of a command -/

/-- A tensor of a command: its number (R190), its record, whether it is read and written. -/
structure Operand where
  num : Nat
  t : Tensor
  reads : Bool
  writes : Bool
deriving DecidableEq, Repr

/-- Read a record, once (R176). -/
def readRecord (s : State) (q : Queue) (kept : List (Nat × List Byte)) (addr : Nat) : Try Tensor :=
  match readPart s q kept addr 96 with
  | .ok b => .ok (tensorOf b)
  | .error e => .error e

/-- Read the records of a command in descriptor order: number, address, read, written. -/
def readOperands (s : State) (q : Queue) (kept : List (Nat × List Byte)) : List (Nat × Nat × Bool × Bool) → Try (List Operand)
  | [] => .ok []
  | (n, a, r, w) :: rest =>
    match readRecord s q kept a with
    | .error e => .error e
    | .ok t =>
      match readOperands s q kept rest with
      | .error e => .error e
      | .ok l => .ok ({ num := n, t := t, reads := r, writes := w } :: l)

/-- Check 1 of R197: every record in order. -/
def check1 : List Operand → Try Unit
  | [] => .ok ()
  | o :: rest =>
    match o.t.bad with
    | some off => flt 0x6008 (o.num * 2 ^ 24 + off)
    | none => check1 rest

/-- Role 2 and 3 must have VB8 storage (R180). -/
def Operand.narrowBad (o : Operand) : Bool := (o.t.role == 2 || o.t.role == 3) && o.t.storage != .vb8

/-- Check 2 of R197: R180 and the operands a family does not permit. -/
def check2 (notPermitted : List Nat) : List Operand → Try Unit
  | [] => .ok ()
  | o :: rest =>
    if o.narrowBad || notPermitted.contains o.num then flt 0x6009 o.num else check2 notPermitted rest

/-- Check 3 of R197: a zero point on activations only (R178). -/
def check3 : List Operand → Try Unit
  | [] => .ok ()
  | o :: rest => if o.t.format == 0x03 && o.t.role != 0 then flt 0x6007 o.num else check3 rest

/-- The side list's count as its header holds it; 0 without a side list (R175, R186). -/
def sideCount (s : State) (q : Queue) (t : Tensor) : Try Nat :=
  if t.sideAddr == 0 then .ok 0
  else match readVa s q.port q.pasid t.sideAddr 4 with
    | .ok b => .ok (leNat b)
    | .error e => .error e

/-- The address ranges of a tensor's element bytes, one per row. -/
def Tensor.rowRanges (t : Tensor) : List (Nat × Nat) := (List.range t.rows).map fun r => (t.rowAddr r, t.rowBytes)

/-- The extent of a tensor, given the entries its side list extends over (R194). -/
def Tensor.extent (t : Tensor) (entries : Nat) : List (Nat × Nat) :=
  t.rowRanges ++
    (if t.storage.isVb then
      (t.scaleAddr, 2 * t.blocks) :: (if t.sideAddr == 0 then [] else [(t.sideAddr, 8 + 4 * entries)])
    else if t.storage == .acc64 then [(t.scaleAddr, 8)] else [])

/-- The extent of a tensor the command writes. -/
def Tensor.destExtent (t : Tensor) : List (Nat × Nat) := t.extent t.sideCap

/-- The extent of a tensor the command only reads. -/
def sourceExtent (s : State) (q : Queue) (t : Tensor) : Try (List (Nat × Nat)) :=
  if t.storage.isVb then
    match sideCount s q t with
    | .ok n => .ok (t.extent n)
    | .error e => .error e
  else .ok (t.extent 0)

/-- Do two sets of ranges share a byte? -/
def rangesMeet (a b : List (Nat × Nat)) : Bool :=
  a.any fun x => b.any fun y => x.1 < y.1 + y.2 && y.1 < x.1 + x.2

/-- The extent of an operand. -/
def operandExtent (s : State) (q : Queue) (o : Operand) : Try (List (Nat × Nat)) :=
  if o.writes then .ok o.t.destExtent else sourceExtent s q o.t

/-- The parts of an image (R200): bytes of a row before an element, blocks before an element. -/
def Tensor.byteOf (t : Tensor) (i : Nat) : Nat :=
  if t.dim 0 ≤ i then t.rowBytes
  else match t.storage with
    | .int4 | .vb4 => i / 2
    | .bf16 => 2 * i
    | .fp32 | .int32 => 4 * i
    | .acc64 => 8 * i
    | _ => i
def Tensor.blockOf (t : Tensor) (el : Nat) : Nat := el / t.dim 0 * t.rowBlocks + (el % t.dim 0 + 31) / 32

/-- Check 4 of R197 for one destination against its sources. -/
def overlapWith (s : State) (q : Queue) (dst : Tensor) : List Operand → Try Unit
  | [] => .ok ()
  | o :: rest =>
    match operandExtent s q o with
    | .error e => .error e
    | .ok x => if rangesMeet dst.destExtent x then fltOpen 0x600A else overlapWith s q dst rest

/-! ### Scale streams (R173, R187) -/

/-- A tensor being read: its slots, its side entries, its ACC64 scale; `exact` says that escapes enter products with their exact
FP32 values (R171, R201), where other readers see them rounded to a declared BF16 (R179). -/
structure Loaded where
  t : Tensor
  num : Nat
  slots : List Nat
  side : List Nat
  scale : Int
  depth : Nat
  exact : Bool := false
deriving DecidableEq, Repr

/-- A slot's fields (R173). -/
def slotEscapes (x : Nat) : Nat := bits x 12 4
def slotExp (x : Nat) : Nat := bits x 4 8
def slotTag (x : Nat) : Nat := bits x 0 4

/-- Numbers of w bytes from a run of bytes. -/
def wordsOf (w : Nat) : Nat → List Byte → List Nat
  | 0, _ => []
  | n + 1, b => leNat (b.take w) :: wordsOf w n (b.drop w)

/-- The record of a tag mismatch (R190). -/
def tagRecord (block operand place found : Nat) : BitVec 128 :=
  BitVec.ofNat 128 (block % 2 ^ 64 + operand * 2 ^ 64 + place * 2 ^ 72 + blockTag block * 2 ^ 80 + found * 2 ^ 88)

/-- Check a tensor's slots in block order (R187). -/
def checkSlots (num : Nat) : Nat → List Nat → Try Unit
  | _, [] => .ok ()
  | k, x :: rest =>
    if slotTag x != blockTag k then .error (.record 0x6001 (k % 2 ^ 32) (tagRecord k num 0 (slotTag x)))
    else if 247 < slotExp x then flt 0x6002 (k % 2 ^ 32)
    else checkSlots num (k + 1) rest

/-- An ACC64 scale word: the scale and depth it holds, if valid (R214). -/
def scaleWord (w : Nat) : Option (Int × Nat) :=
  let t := toSigned 16 (bits w 0 16)
  let d := bits w 16 8
  if -320 ≤ t && t ≤ 352 && d ≤ 2 && bits w 24 40 == 0 then some (t, d) else none

/-- Read and check the stream of one operand that is read (R187, R214). -/
def loadStream (s : State) (q : Queue) (o : Operand) : Try Loaded :=
  if o.t.storage.isVb then
    match readVa s q.port q.pasid o.t.scaleAddr (2 * o.t.blocks) with
    | .error e => .error e
    | .ok b =>
      let slots := wordsOf 2 o.t.blocks b
      match checkSlots o.num 0 slots with
      | .error e => .error e
      | .ok _ => .ok { t := o.t, num := o.num, slots := slots, side := [], scale := 0, depth := 0 }
  else if o.t.storage == .acc64 then
    match readVa s q.port q.pasid o.t.scaleAddr 8 with
    | .error e => .error e
    | .ok b =>
      match scaleWord (leNat b) with
      | none => flt 0x6002 o.num
      | some (t, d) => .ok { t := o.t, num := o.num, slots := [], side := [], scale := t, depth := d }
  else .ok { t := o.t, num := o.num, slots := [], side := [], scale := 0, depth := 0 }

/-- Check the side list of a tensor against its slots, and read its entries (R186). -/
def loadSide (s : State) (q : Queue) (l : Loaded) : Try Loaded :=
  if !l.t.storage.isVb then .ok l
  else
    let total := (l.slots.map slotEscapes).sum
    match sideCount s q l.t with
    | .error e => .error e
    | .ok n =>
      if n != total then flt 0x6003 l.num
      else match readVa s q.port q.pasid (l.t.sideAddr + 8) (4 * n) with
        | .error e => .error e
        | .ok b => .ok { l with side := wordsOf 4 n b }

/-- Map in order, to the first fault. -/
def tryMap {α β : Type} (f : α → Try β) : List α → Try (List β)
  | [] => .ok []
  | a :: t =>
    match f a with
    | .error e => .error e
    | .ok b =>
      match tryMap f t with
      | .error e => .error e
      | .ok l => .ok (b :: l)

/-- Checks 5 to 7 of R197 that come before the first product: every stream in record order, then every side list. -/
def loadOperands (s : State) (q : Queue) (os : List Operand) : Try (List Loaded) :=
  match tryMap (loadStream s q) (os.filter (·.reads)) with
  | .error e => .error e
  | .ok l => tryMap (loadSide s q) l

/-- The loaded operand of a number. -/
def loadedOf (l : List Loaded) (num : Nat) : Option Loaded := l.find? fun x => x.num == num

/-! ### Element values (R167-R172, R181) -/

/-- The codes of n elements of w bits from bytes, the lower bits first (R168). -/
def codesOf (st : Storage) (n : Nat) (b : List Byte) : List Nat :=
  match st with
  | .int4 | .vb4 => ((b.flatMap fun x => [x.toNat % 16, x.toNat / 16])).take n
  | .bf16 => wordsOf 2 n b
  | .fp32 | .int32 => wordsOf 4 n b
  | .acc64 => wordsOf 8 n b
  | _ => (b.take n).map (·.toNat)

/-- The value of an element that is not in VB storage (R167). -/
def codeVal (l : Loaded) (code : Nat) : Val :=
  match l.t.storage with
  | .int4 => .real ((toSigned 4 code : Rat) * pow2 l.t.texp)
  | .int8 => .real ((toSigned 8 code : Rat) * pow2 l.t.texp)
  | .uint8z => .real ((((code : Int) - (l.t.zeroPoint : Int) : Int) : Rat) * pow2 l.t.texp)
  | .int32 => .real ((toSigned 32 code : Rat) * pow2 l.t.texp)
  | .e4m3 => floatDecode fmtE4M3 code
  | .e5m2 => floatDecode fmtE5M2 code
  | .bf16 => floatDecode fmtBF16 code
  | .fp32 => floatDecode fmtFP32 code
  | .acc64 => .real ((toSigned 64 code : Rat) * pow2 l.scale)
  | _ => .real 0

/-- An escaped value as readers see it: FP32, exact in products, else rounded to BF16 for a BF16 tensor (R171, R172, R179,
R201). -/
def escapeVal (exact : Bool) (t : Tensor) (code : Nat) : Val :=
  let v := floatDecode fmtFP32 code
  if t.format == 0x06 && !exact then floatDecode fmtBF16 (floatEncode fmtBF16 false false 0 v).1 else v

/-- The escape code and the element width of a VB storage (R172). -/
def escapeCode (st : Storage) : Nat := if st == .vb4 then 0x8 else 0x80
def vbBits (st : Storage) : Nat := if st == .vb4 then 4 else 8

/-- The values of a block's elements, taking escapes from the side list in turn. -/
def blockVals (exact : Bool) (t : Tensor) (x : Nat) : List Nat → List Nat → List Val
  | [], _ => []
  | c :: cs, side =>
    if c == escapeCode t.storage then escapeVal exact t (side.head?.getD 0) :: blockVals exact t x cs side.tail
    else .real ((toSigned (vbBits t.storage) c : Rat) * pow2 ((x : Int) - 127)) :: blockVals exact t x cs side

/-- One block as it is paired (R186): more than 4 escape codes, or a number other than its slot's, faults. -/
def pairBlock (l : Loaded) (k : Nat) (codes : List Nat) : Try (List Val) :=
  let slot := nth 0 l.slots k
  let n := (codes.filter fun c => c == escapeCode l.t.storage).length
  if 4 < n || n != slotEscapes slot then flt 0x6003 (k % 2 ^ 32)
  else .ok (blockVals l.exact l.t (slotExp slot) codes (l.side.drop ((l.slots.take k).map slotEscapes).sum))

/-- The blocks of a row's codes. -/
def chunks32 : Nat → List Nat → List (List Nat)
  | 0, _ => []
  | n + 1, l => l.take 32 :: chunks32 n (l.drop 32)

/-- The values of a row's elements from its bytes. -/
def rowVals (l : Loaded) (r : Nat) (b : List Byte) : Try (List Val) :=
  let codes := codesOf l.t.storage (l.t.dim 0) b
  if l.t.storage.isVb then
    let cs := chunks32 l.t.rowBlocks codes
    match tryMap (fun e => pairBlock l (r * l.t.rowBlocks + e.2) e.1) (cs.zip (List.range l.t.rowBlocks)) with
    | .error e => .error e
    | .ok vs => .ok vs.flatten
  else .ok (codes.map (codeVal l))

/-- The values of a tensor, row by row. -/
def readValues (s : State) (q : Queue) (l : Loaded) : Try (List (List Val)) :=
  tryMap (fun r =>
    match readVa s q.port q.pasid (l.t.rowAddr r) l.t.rowBytes with
    | .error e => .error e
    | .ok b => rowVals l r b) (List.range l.t.rows)

/-- The integers of an ACC64 tensor in linear order. -/
def readInts (s : State) (q : Queue) (l : Loaded) : Try (List Int) :=
  match tryMap (fun r =>
      match readVa s q.port q.pasid (l.t.rowAddr r) l.t.rowBytes with
      | .error e => .error e
      | .ok b => .ok ((codesOf .acc64 (l.t.dim 0) b).map (toSigned 64))) (List.range l.t.rows) with
  | .error e => .error e
  | .ok rows => .ok rows.flatten

/-- The value at an element and row index. -/
def valAt (v : List (List Val)) (i r : Nat) : Val := nth (.real 0) (nth [] v r) i

/-- The linear row index of (i1, i2, i3) (R177). -/
def Tensor.rowOf (t : Tensor) (i1 i2 i3 : Nat) : Nat := i1 + t.dim 1 * (i2 + t.dim 2 * i3)

/-- Do all elements of a list have a property; the lowest index where not? -/
def firstWhere {α : Type} (f : α → Bool) (l : List α) : Option Nat := l.findIdx? f

/-- Dims as a list of four. -/
def Tensor.dims4 (t : Tensor) : List Nat := [t.dim 0, t.dim 1, t.dim 2, t.dim 3]

/-- The operand of a number. -/
def operandOf (os : List Operand) (n : Nat) : Option Tensor := (os.find? fun o => o.num == n).map (·.t)

/-- The real of a matrix operand's element; a NaN or infinity faults (R171, R222). -/
def finiteElem (num index : Nat) (v : Val) : Try Rat :=
  match v with
  | .fin x _ => .ok x
  | _ => flt 0x6006 (num % 16 * 2 ^ 28 + index % 2 ^ 28)

/-- Is an integer outside int64? -/
def outside64 (v : Int) : Bool := v < -2 ^ 63 || 2 ^ 63 ≤ v

end Sys2Proof.Machine
end

