-- ==== Sys2Proof/Machine/Writes.lean ====
section
/-! DEFINITION. Writing tensors: rounding into every format (R182-R184), block quantisation (R185), side lists (R175), and
the ACC64 scale word (R214). -/

namespace Sys2Proof.Machine

def Tally.add (a b : Tally) : Tally :=
  { escapes := a.escapes + b.escapes, vanished := a.vanished + b.vanished, saturated := a.saturated + b.saturated,
    overflowed := a.overflowed + b.overflowed }

def Tally.count (a : Tally) : Count → Tally
  | .none => a
  | .vanished => { a with vanished := a.vanished + 1 }
  | .saturated => { a with saturated := a.saturated + 1 }
  | .overflowed => { a with overflowed := a.overflowed + 1 }

/-- A count field of 32 bits that saturates (R195, R220). -/
def sat32 (n : Nat) : Nat := min n 0xFFFFFFFF

/-- The result field of copy, convert and the vector family (R195, R241). -/
def Tally.result (a : Tally) : BitVec 128 :=
  BitVec.ofNat 128 (sat32 a.escapes + 2 ^ 32 * sat32 a.vanished + 2 ^ 64 * sat32 a.saturated + 2 ^ 96 * sat32 a.overflowed)

/-! ### Elements (R182-R184) -/

/-- Does a tensor round stochastically (R176)? -/
def Tensor.stochastic (t : Tensor) : Bool := t.rounding == 1

/-- The draw of an element (R182). -/
def Tensor.draw (t : Tensor) (index : Nat) : Nat :=
  if t.stochastic then srDraw t.seed t.base t.step index else 0

/-- An integer format's greatest magnitude (R184). -/
def intTop (st : Storage) : Int := if st == .int4 then 7 else if st == .int8 then 127 else 2147483647

/-- The element width of an integer format. -/
def intBits (st : Storage) : Nat := if st == .int4 then 4 else if st == .int8 then 8 else 32

/-- A finite value into a signed integer format (R184). -/
def encodeSigned (t : Tensor) (index : Nat) (v : Rat) : Nat × Count :=
  let w := v * pow2 (-t.texp)
  let top := intTop t.storage
  let n := intBits t.storage
  if (top : Rat) < w then (ofSigned n top, .saturated)
  else if w < -(top : Rat) then (ofSigned n (-top), .saturated)
  else
    let k := roundInt t.stochastic (t.draw index) w
    (ofSigned n k, if v != 0 && k == 0 then .vanished else .none)

/-- A finite value into uint8z (R184). -/
def encodeUnsigned (t : Tensor) (index : Nat) (v : Rat) : Nat × Count :=
  let w := v * pow2 (-t.texp) + (t.zeroPoint : Rat)
  if 255 < w then (255, .saturated)
  else if w < 0 then (0, .saturated)
  else
    let k := (roundInt t.stochastic (t.draw index) w).toNat
    (k, if v != 0 && k == t.zeroPoint then .vanished else .none)

/-- The floating format of a storage. -/
def floatOf (st : Storage) : Option FloatFmt :=
  match st with
  | .e4m3 => some fmtE4M3
  | .e5m2 => some fmtE5M2
  | .bf16 => some fmtBF16
  | .fp32 => some fmtFP32
  | _ => none

/-- One element into a format that is not VB or ACC64: its code and what it counts (R183, R184). -/
def encodeElem (t : Tensor) (index : Nat) (v : Val) : Try (Nat × Count) :=
  match floatOf t.storage with
  | some f => .ok (floatEncode f t.stochastic (bit t.flags 0) (t.draw index) v)
  | none =>
    match v with
    | .fin x _ => .ok (if t.storage == .uint8z then encodeUnsigned t index x else encodeSigned t index x)
    | _ => flt 0x6005 (index % 2 ^ 32)

/-! ### Blocks (R185) -/

/-- The greatest element of a VB storage. -/
def vbTop (st : Storage) : Int := if st == .vb4 then 7 else 127

/-- fits(a, e) (R185). -/
def vbFits (t : Tensor) (v : Rat) (e : Int) : Bool :=
  let a := mag v * pow2 (-e)
  if t.stochastic then a ≤ (vbTop t.storage : Rat) else a < (vbTop t.storage : Rat) + 1 / 2

/-- The smallest e that fits a nonzero value. -/
def vbLeast (t : Tensor) (v : Rat) : Int :=
  if t.stochastic then
    let q := mag v / (vbTop t.storage : Rat)
    let k := flog2 q
    if q ≤ pow2 k then k else k + 1
  else flog2 (mag v / ((vbTop t.storage : Rat) + 1 / 2)) + 1

/-- Insert into a list sorted largest first. -/
def insertDown (x : Int) : List Int → List Int
  | [] => [x]
  | y :: t => if y ≤ x then x :: y :: t else y :: insertDown x t

/-- The block's exponent (R185). -/
def vbExp (t : Tensor) (vals : List Rat) : Int :=
  let budget := if t.sideAddr == 0 then 0 else t.budget
  let f := ((vals.filter (· != 0)).map (vbLeast t)).foldl (fun l x => insertDown x l) []
  match f with
  | [] => -127
  | top :: _ =>
    let e := if budget < f.length then nth top f budget else top
    max (-127) (min e 120)

/-- The elements of a block: codes, side entries, what they count (R185). -/
def vbElems (t : Tensor) (e : Int) (budget : Nat) : Nat → List Rat → List Nat × List Nat × Tally
  | _, [] => ([], [], {})
  | index, v :: rest =>
    let n := vbBits t.storage
    if v == 0 then
      let (c, s, a) := vbElems t e budget (index + 1) rest
      (0 :: c, s, a)
    else if vbFits t v e then
      let k := roundInt t.stochastic (t.draw index) (v * pow2 (-e))
      let (c, s, a) := vbElems t e budget (index + 1) rest
      (ofSigned n k :: c, s, if k == 0 then a.count .vanished else a)
    else if 0 < budget then
      let (c, s, a) := vbElems t e (budget - 1) (index + 1) rest
      (escapeCode t.storage :: c, fp32Code (.real v) :: s, { a with escapes := a.escapes + 1 })
    else
      let (c, s, a) := vbElems t e budget (index + 1) rest
      (ofSigned n (if 0 < v then vbTop t.storage else -(vbTop t.storage)) :: c, s, a.count .saturated)

/-- A quantised block: codes, slot, side entries, counts. -/
structure VbBlock where
  codes : List Nat
  slot : Nat
  side : List Nat
  tally : Tally

/-- Quantise block k, whose first element has a linear index (R185). -/
def quantise (t : Tensor) (k index : Nat) (vals : List Val) : Try VbBlock :=
  match firstWhere (fun v => !v.isFinite) vals with
  | some i => flt 0x6005 ((index + i) % 2 ^ 32)
  | none =>
    let rs := vals.map fun v => v.rat.getD 0
    let e := vbExp t rs
    let (c, s, a) := vbElems t e (if t.sideAddr == 0 then 0 else t.budget) index rs
    .ok { codes := c, slot := s.length * 2 ^ 12 + (e + 127).toNat * 2 ^ 4 + blockTag k, side := s, tally := a }

/-! ### Rows as bytes -/

/-- Pack nibbles, the first in the low bits; a last odd one is completed by `pad`. -/
def packNibbles (pad : Nat) : List Nat → List Byte
  | [] => []
  | [a] => [BitVec.ofNat 8 (a + 16 * pad)]
  | a :: b :: t => BitVec.ofNat 8 (a + 16 * b) :: packNibbles pad t

/-- The bytes of a row's codes. The unused nibble of an odd int4 row is free (DESIGN CHOICE, log entry 7). -/
def rowBytesOf (st : Storage) (pad : Nat) (codes : List Nat) : List Byte :=
  match st with
  | .int4 | .vb4 => packNibbles pad codes
  | .bf16 => codes.flatMap (natLe 2)
  | .fp32 | .int32 => codes.flatMap (natLe 4)
  | .acc64 => codes.flatMap (natLe 8)
  | _ => codes.map (BitVec.ofNat 8)

/-- The unused nibble of a row. -/
def padNibble (draw r : Nat) : Nat := (Config.freeDWord (draw + r)).toNat % 16

/-- What a write of a tensor puts where: the bytes of its rows, its slots, its side entries, its counts. -/
structure Image where
  rows : List (List Byte)
  slots : List Nat
  side : List Nat
  tally : Tally

/-- Encode a row that is not in VB storage. -/
def encodeRow (t : Tensor) (pad : Nat) (index : Nat) (vals : List Val) : Try (List Byte × Tally) :=
  match tryMap (fun e => encodeElem t (index + e.2) e.1) (vals.zip (List.range vals.length)) with
  | .error e => .error e
  | .ok l => .ok (rowBytesOf t.storage pad (l.map (·.1)), l.foldl (fun a e => a.count e.2) {})

/-- The blocks of a row's values, each with its number in the row. -/
def valChunks : Nat → Nat → List Val → List (Nat × List Val)
  | 0, _, _ => []
  | n + 1, j, l => (j, l.take 32) :: valChunks n (j + 1) (l.drop 32)

/-- Fill a block's codes to 32 with padding, zero (R172). -/
def padBlock (codes : List Nat) : List Nat := codes ++ List.replicate (32 - codes.length) 0

/-- Quantise the blocks of row r in order, with n side entries before them; an escape past the capacity faults with the
entries needed (R185, R197). -/
def quantiseBlocks (t : Tensor) (r : Nat) : Nat → List (Nat × List Val) → Try (List VbBlock)
  | _, [] => .ok []
  | n, (j, vals) :: rest =>
    match quantise t (r * t.rowBlocks + j) (r * t.dim 0 + 32 * j) vals with
    | .error e => .error e
    | .ok b =>
      if t.sideAddr != 0 && t.sideCap < n + b.side.length then flt 0x6004 (t.sideCap + 1)
      else match quantiseBlocks t r (n + b.side.length) rest with
        | .error e => .error e
        | .ok l => .ok (b :: l)

/-- Quantise rows in order. -/
def quantiseRows (t : Tensor) : Nat → Nat → List (List Val) → Try (List (List VbBlock))
  | _, _, [] => .ok []
  | r, n, vals :: rest =>
    match quantiseBlocks t r n (valChunks t.rowBlocks 0 vals) with
    | .error e => .error e
    | .ok bs =>
      match quantiseRows t (r + 1) (n + (bs.map fun b => b.side.length).sum) rest with
      | .error e => .error e
      | .ok l => .ok (bs :: l)

/-- The image of a tensor's values. -/
def encodeImage (t : Tensor) (draw : Nat) (vals : List (List Val)) : Try Image :=
  if t.storage.isVb then
    match quantiseRows t 0 0 vals with
    | .error e => .error e
    | .ok rows =>
      let bs := rows.flatten
      .ok { rows := rows.map fun l => rowBytesOf t.storage 0 (l.flatMap fun b => padBlock b.codes), slots := bs.map (·.slot),
            side := bs.flatMap (·.side), tally := bs.foldl (fun a b => a.add b.tally) {} }
  else
    match tryMap (fun e => encodeRow t (padNibble draw e.2) (e.2 * t.dim 0) e.1) (vals.zip (List.range vals.length)) with
    | .error e => .error e
    | .ok l => .ok { rows := l.map (·.1), slots := [], side := [], tally := l.foldl (fun a e => a.add e.2) {} }

/-! ### Bringing an image to memory -/

/-- The writes of an image in order: rows, slots, side entries, and the side list's count last (R185). -/
def imageWrites (t : Tensor) (im : Image) : List (Nat × List Byte) :=
  ((im.rows.zip (List.range im.rows.length)).map fun e => (t.rowAddr e.2, e.1)) ++
    (if t.storage.isVb then
      [(t.scaleAddr, im.slots.flatMap (natLe 2))] ++
        (if t.sideAddr == 0 then []
         else [(t.sideAddr + 8, im.side.flatMap (natLe 4)), (t.sideAddr, natLe 4 im.side.length ++ zeros 4)])
    else [])

/-- Write byte runs in order, to the first stop. -/
def writeRuns (s : State) (q : Queue) : List (Nat × List Byte) → Try State
  | [] => .ok s
  | (a, b) :: rest =>
    match writeVa s q.port q.pasid a b with
    | .error e => .error e
    | .ok s' => writeRuns s' q rest

/-- The byte runs that a command is about to write, in order, and what they count. -/
abbrev WritePlan := List (Nat × List Byte) × Tally

/-- Bring a plan to memory: the state after and what was counted. -/
def writePlan (s : State) (q : Queue) (x : WritePlan) : Try (State × Tally) :=
  match writeRuns s q x.1 with
  | .error e => .error e
  | .ok s' => .ok (s', x.2)

/-- Write a tensor's values (R181-R185): the state after and what was counted. -/
def writeTensor (s : State) (q : Queue) (t : Tensor) (vals : List (List Val)) : Try (State × Tally) :=
  match encodeImage t s.draws vals with
  | .error e => .error e
  | .ok im => writePlan { s with draws := s.draws + t.rows } q (imageWrites t im, im.tally)

/-- The writes of one output piece of an image, elements lo to hi - 1: their bytes of each row, their slots, their side entries;
the side list's count last of all (R185, R200, R209). -/
def pieceWrites (t : Tensor) (im : Image) (lo hi : Nat) : List (Nat × List Byte) :=
  let d := t.dim 0
  let row := fun (e : List Byte × Nat) =>
    let a := t.byteOf (lo - e.2 * d)
    let b := if hi ≤ e.2 * d then 0 else t.byteOf (hi - e.2 * d)
    (t.rowAddr e.2 + a, (e.1.take b).drop a)
  let before := fun (el : Nat) => ((im.slots.take (t.blockOf el)).map slotEscapes).sum
  ((im.rows.zip (List.range im.rows.length)).map row) ++
    (if t.storage.isVb then
      (t.scaleAddr + 2 * t.blockOf lo, ((im.slots.take (t.blockOf hi)).drop (t.blockOf lo)).flatMap (natLe 2)) ::
        (if t.sideAddr == 0 then []
         else (t.sideAddr + 8 + 4 * before lo, ((im.side.take (before hi)).drop (before lo)).flatMap (natLe 4)) ::
           (if hi == t.elems then [(t.sideAddr, natLe 4 im.side.length ++ zeros 4)] else []))
    else [])

/-- Cut a list into rows of n. -/
def rowsOf {α : Type} (n : Nat) : Nat → List α → List (List α)
  | 0, _ => []
  | r + 1, l => l.take n :: rowsOf n r (l.drop n)

/-- The writes of an ACC64 tensor: its integers in linear order, then, after the last element, its scale word (R214). -/
def accWrites (t : Tensor) (ints : List Int) (scale : Int) (depth : Nat) : List (Nat × List Byte) :=
  let rows := (rowsOf (t.dim 0) t.rows ints).map fun l => l.flatMap fun v => natLe 8 (ofSigned 64 v)
  ((rows.zip (List.range rows.length)).map fun e => (t.rowAddr e.2, e.1)) ++
    (if ints.length < t.elems then [] else [(t.scaleAddr, natLe 8 (ofSigned 16 scale + depth * 2 ^ 16))])

/-- A fault met while a command writes: what it was writing is undefined (R68, R189, R197). -/
def badWriting (s : State) (q : Queue) (dests : List (Nat × Nat)) : Stop → Done
  | .fault code detail logged => .bad (dests.foldl (fun s r => scrambleVa s q.port q.pasid r.1 r.2) s) code detail 0 logged
  | .faultOpen code =>
    let s := { s with draws := s.draws + 1 }
    .bad (dests.foldl (fun s r => scrambleVa s q.port q.pasid r.1 r.2) s) code
      (Config.openDetail code (s.draws - 1) % 2 ^ 32) 0 (isHardwareFault code)
  | .record code detail r =>
    .bad (dests.foldl (fun s r => scrambleVa s q.port q.pasid r.1 r.2) s) code detail r (isHardwareFault code)
  | e => .stop e

/-- Take a running part of a body further; a fault in it leaves the destinations undefined. -/
def writing {α : Type} (s : State) (q : Queue) (dests : List (Nat × Nat)) (x : Try α) (k : α → Done) : Done :=
  match x with
  | .ok a => k a
  | .error e => badWriting s q dests e

/-! ### Pairing (R188, R190, R196) -/

/-- The slip that is reported of those found: of the lowest operand, within it of the lowest block (R190). -/
def lowestSlip : List TagSlip → Option TagSlip
  | [] => none
  | l :: rest => match lowestSlip rest with
    | some y => if y.operand < l.operand || (y.operand == l.operand && y.block < l.block) then some y else some l
    | none => some l

/-- An engine counts and logs a slip it finds (R188). -/
def noteSlip (x : Cmd) (q : Queue) (s : State) (l : TagSlip) : State :=
  let s := countEngine s l.engine (·.streamTag) (fun g v => { g with streamTag := v }) causeEng 1
  logFault s 0x6001 (l.block % 2 ^ 32) (engineDie l.engine) l.engine (q.port == .B) (some (x.queue, q.pasid, x.seq))

/-- Go on when pairing found no slip; else each is counted and logged, and the command faults with the lowest (R188-R190). -/
def unslipped (s : State) (x : Cmd) (q : Queue) (dests : List (Nat × Nat)) (ls : List TagSlip) (k : Unit → Done) : Done :=
  match lowestSlip ls with
  | none => k ()
  | some l =>
    let s := dests.foldl (fun s r => scrambleVa s q.port q.pasid r.1 r.2) (ls.foldl (noteSlip x q) s)
    .bad s 0x6001 (l.block % 2 ^ 32) (tagRecord l.block l.operand (if l.moduleCrossing then 2 else 1) l.found) false

/-- Can pairing find a slip: an operand read in VB storage, one of its blocks, a wrong tag, on an engine of the queue? -/
def slipReal (q : Queue) (os : List Operand) (l : TagSlip) : Bool :=
  q.engines.contains l.engine && l.found < 16 && l.found != blockTag l.block &&
    os.any fun o => o.num == l.operand && o.reads && o.t.storage.isVb && l.block < o.t.blocks

/-- Pair the blocks of the operands read with their slots: slips in transit fault the command (R188). -/
def paired (s : State) (x : Cmd) (q : Queue) (slips : List TagSlip) (os : List Operand) (dests : List (Nat × Nat))
    (k : Unit → Done) : Done :=
  unslipped s x q dests (slips.filter (slipReal q os)) k

end Sys2Proof.Machine
end

