-- ==== Sys2Proof/Machine/Spin.lean ====
section
/-! DEFINITION. Shared operations of the spin fabric: exponents (R78, R79), states and groups (R86, R91, R98), energies
and fields (R72, R73, R105), quantised networks (R144-R148), the problem area (R153, R330, R521), problem handles. -/

namespace Sys2Proof.Machine

/-! ### Scaling (R78, R79) -/

/-- Does a value fit a list of range Q at an exponent (R78)? -/
def fitsAt (range : Nat) (v : Rat) (e : Int) : Bool := mag v * pow2 (-e) < (range : Rat) + 1 / 2

/-- e_fit: the smallest exponent at which a nonzero value fits (R79). -/
def fitExp (range : Nat) (v : Rat) : Int := flog2 (mag v / ((range : Rat) + 1 / 2)) + 1

/-- The exponents of the nonzero values, largest first. -/
def fitList (range : Nat) (values : List Rat) : List Int :=
  ((values.filter (· != 0)).map (fitExp range)).foldl (fun l x => insertDown x l) []

/-- list_exponent with a given budget (R79). -/
def exponentWith (budget range : Nat) (values : List Rat) : Option Int := (fitList range values)[budget]?

/-- list_exponent: the budget is a 64th of the nonzero values (R79). -/
def listExponent (range : Nat) (values : List Rat) : Option Int :=
  exponentWith ((values.filter (· != 0)).length / 64) range values

/-- RNE(v * 2^-e). -/
def scaled (v : Rat) (e : Int) : Int := rne (v * pow2 (-e))

/-- The real an FP32 code spells; a NaN or infinity has none. -/
def fpRat (code : Nat) : Option Rat := (fp32 code).rat

/-- A signed exponent in one byte; outside its range the spec gives none (DESIGN CHOICE, log entry 7). -/
def expByte (draw : Nat) (e : Int) : Nat :=
  if -128 ≤ e && e ≤ 127 then ofSigned 8 e else (Config.freeDWord draw).toNat % 256

/-! ### States (R72, R86, R91) -/

/-- The value of a variable: 0 or 1, or -1 or +1 (R72). -/
def spinVal (spin b : Bool) : Int := if b then 1 else if spin then -1 else 0

/-- The members of the groups, in global indices, by group number (R86). -/
def Problem.groupsOf (p : Problem) : List (Nat × List Nat) :=
  let all := p.blocks.flatMap fun b => b.groups.map fun g => (g.1, g.2.map fun k => nth 0 b.vars k)
  (List.range all.length).map fun g => (g, ((all.find? fun e => e.1 == g).map (·.2)).getD [])

/-- The first group that has other than one hot member (R98). -/
def badGroup (groups : List (Nat × List Nat)) (bits : List Bool) : Option Nat :=
  (groups.find? fun g => (g.2.filter fun i => nth false bits i).length != 1).map (·.1)

/-- The default state: every variable off, the lowest-indexed member of each group hot (R91). -/
def defaultState (n : Nat) (groups : List (Nat × List Nat)) : List Bool :=
  groups.foldl (fun l g => match g.2 with
    | [] => l
    | m :: rest => setNth l (rest.foldl min m) true) (List.replicate n false)

/-- Bytes of a state, and a state as bytes (R86). -/
def stateBits (n : Nat) (b : List Byte) : List Bool := (List.range n).map fun i => bit (nth 0 b (i / 8)).toNat (i % 8)
def bitsNat : List Bool → Nat
  | [] => 0
  | b :: t => bit01 b + 2 * bitsNat t
def bytesOfBits (l : List Bool) : List Byte := natLe ((l.length + 7) / 8) (bitsNat l)

/-- An empty block, for numbers past the list. -/
def noBlock : Block :=
  { vars := [], eb := none, intra := [], inter := [], groups := [], neighbours := [], interCount := 0, intraEscapes := 0,
    interEscapes := 0, intraVanished := 0, interVanished := 0 }

/-- The local bits of a block. -/
def Block.local (b : Block) (bits : List Bool) : List Bool := b.vars.map fun i => nth false bits i

/-! ### Energies (R72, R105) -/

/-- I_b + L_b of a block's local bits (R105). -/
def blockOwn (p : Problem) (b : Block) (loc : List Bool) : Int :=
  (b.intra.map fun c => c.value * spinVal p.spin (nth false loc c.i) * spinVal p.spin (nth false loc c.j)).sum +
    ((b.vars.zip loc).map fun e => nth 0 p.h e.1 * spinVal p.spin e.2).sum

/-- X_i of every variable of a block, from the values of other blocks' variables (R97). -/
def blockInterWith (p : Problem) (b : Block) (look : Nat → Bool) : List Int :=
  (List.range b.vars.length).map fun k =>
    ((b.inter.filter fun c => c.i == k).map fun c => c.value * spinVal p.spin (look c.j)).sum

/-- X_i from a global state. -/
def blockInter (p : Problem) (b : Block) (bits : List Bool) : List Int := blockInterWith p b fun j => nth false bits j

/-- P_b from the local bits and X (R105). -/
def blockP (p : Problem) (loc : List Bool) (x : List Int) : Int :=
  ((loc.zip x).map fun e => spinVal p.spin e.1 * e.2).sum

/-- F_i of a block variable (R72, R97). -/
def fieldAt (p : Problem) (b : Block) (loc : List Bool) (x : List Int) (k : Nat) : Int :=
  nth 0 p.h (nth 0 b.vars k) + nth 0 x k +
    (b.intra.map fun c =>
      if c.i == k then c.value * spinVal p.spin (nth false loc c.j)
      else if c.j == k then c.value * spinVal p.spin (nth false loc c.i) else 0).sum

/-- The entry of the dense symmetric matrix at a row and column of a block (R77). -/
def Block.entryAt (b : Block) (x y : Nat) : Int :=
  ((b.intra.find? fun c => (c.i == x && c.j == y) || (c.i == y && c.j == x)).map (·.code)).getD 0

/-- The inter-block row of a local variable: columns and coefficients (R77). -/
def Block.rowAt (b : Block) (x : Nat) : List (Nat × Int) := (b.inter.filter fun c => c.i == x).map fun c => (c.j, c.code)

/-- J of two local variables (R77). -/
def couplingAt (b : Block) (x y : Nat) : Int :=
  (b.intra.map fun c => if (c.i == x && c.j == y) || (c.i == y && c.j == x) then c.value else 0).sum

/-! ### Networks (R144-R148) -/

/-- rs(v, d) (R144). -/
def rshift (v : Int) (d : Int) : Int :=
  if d ≤ 0 then v * 2 ^ (-d).toNat
  else
    let m : Int := 2 ^ d.toNat
    let q := v / m
    let r := v - q * m
    if m < 2 * r || (2 * r == m && q % 2 == 1) then q + 1 else q

/-- A rectified, requantised activation (R144). -/
def act8 (v d : Int) : Int := max 0 (min 255 (rshift v d))

/-- layer1 (R144). -/
def layer1 (t : Net) (x : List Int) : List Int :=
  (t.w1cols.zip x).foldl (fun a e => (a.zip e.1).map fun u => u.1 + u.2 * e.2) t.b1

/-- upper (R144). -/
def upper (t : Net) (a : List Int) : Int :=
  let h := a.map fun v => act8 v (t.ea1 - t.e1)
  let g := (t.w2rows.zip t.b2).map fun r => act8 (r.2 + ((r.1.zip h).map fun u => u.1 * u.2).sum) (t.ea2 - t.e2 - t.ea1)
  rshift (t.b3 + ((t.w3.zip g).map fun u => u.1 * u.2).sum) (-t.outShift)

/-- Output shift and bound of a network for a problem unit (R148); none when a bound fails. -/
def bindNet (t : Net) (eps : Int) : Option Net :=
  let sh := t.e3 + t.ea2 - eps
  let top := rshift (t.b3.natAbs + 255 * (t.w3.map fun w => (w.natAbs : Int)).sum) (-sh)
  let inByte := fun (e : Int) => -128 ≤ e && e ≤ 127
  if top ≤ 2147483647 && [t.e1, t.e2, t.e3, t.ea1, t.ea2, sh].all inByte then
    some { t with outShift := sh, nMax := top.toNat }
  else none

/-- The network of a block. -/
def Problem.netOf (p : Problem) (b : Nat) : Option Net :=
  match tblFind p.blockNet b with
  | some k => tblFind p.nets k
  | none => none

/-- N_b of a block's local bits; 0 without a term (R142). -/
def blockNeural (p : Problem) (b : Nat) (loc : List Bool) : Int :=
  match p.netOf b with
  | some t => upper t (layer1 t (loc.map (spinVal p.spin)))
  | none => 0

/-- The energy of a state: quadratic and linear part, neural part (R93, R105). -/
def energyOf (p : Problem) (bits : List Bool) : Int × Int :=
  let parts := (p.blocks.zip (List.range p.blocks.length)).map fun e =>
    let loc := e.1.local bits
    (2 * blockOwn p e.1 loc + blockP p loc (blockInter p e.1 bits), blockNeural p e.2 loc)
  ((parts.map (·.1)).sum / 2, (parts.map (·.2)).sum)

/-! ### The problem area (R153, R330, R521) -/

/-- Round up to a multiple. -/
def roundUp (k n : Nat) : Nat := (n + k - 1) / k * k

/-- Bytes of a stored network (R153). -/
def Net.bytes (t : Net) : Nat := roundUp 4096 (64 + t.nIn * t.w1 + 64 * t.w1 + 64 + 4 * (t.w1 + 65))

/-- Bytes of the problem area on stacks that serve requests (R330). -/
def State.areaBytes (s : State) : Nat := overStacks (fun n => if s.stackUp n then s.problemShare n else 0) * 2 ^ 21

/-- Bytes of a problem with its networks. -/
def Problem.bytes (p : Problem) : Nat := p.storedBytes + (p.nets.map fun e => e.2.bytes).sum

/-- Free bytes of the problem area. -/
def State.areaFree (s : State) : Nat := s.areaBytes - (s.spin.problems.map fun e => e.2.bytes).sum

/-- Mebibytes, rounded up: the detail of 0x2C01. -/
def mib (n : Nat) : Nat := (n + 1048575) / 1048576

/-! ### Handles and problems -/

/-- The problem a handle names (R50, R51). -/
def problemIndex (s : State) (h : Nat) : Option Nat :=
  handleIndex 2 (fun i => (tblFind s.spin.problems i).map (·.gen)) h

/-- A problem handle of a command at offset 0x20: stale, another port's, or lost (R51, R266, R470). -/
def needProblem (s : State) (p : Port) (h : Nat) (free : Bool) : Try (Nat × Problem) :=
  match problemIndex s h with
  | none => fltOpen 0x4011
  | some i => match tblFind s.spin.problems i with
    | none => fltOpen 0x4011
    | some x => if x.port != p then flt 0x4012 0x20 else if x.lost && !free then fltOpen 0x2C02 else .ok (i, x)

/-- Is a launch on a problem in flight (R91, R110)? -/
def problemBusy (s : State) (i : Nat) : Bool := s.spin.launches.any fun l => l.2.problem == i

/-- A problem no launch is using: else 0x4C20 (R91, R127, R153). -/
def needIdle (s : State) (p : Port) (h : Nat) (free : Bool) : Try (Nat × Problem) :=
  match needProblem s p h free with
  | .error e => .error e
  | .ok x => if problemBusy s x.1 then fltOpen 0x4C20 else .ok x

def State.setProblem (s : State) (i : Nat) (p : Problem) : State :=
  { s with spin := { s.spin with problems := tblPut s.spin.problems i p } }

/-- Read n numbers of w bytes of an array. -/
def readArray (s : State) (q : Queue) (va w n : Nat) : Try (List Nat) :=
  match readVa s q.port q.pasid va (w * n) with
  | .ok b => .ok (wordsOf w n b)
  | .error e => .error e

end Sys2Proof.Machine
end

