-- ==== Sys2Proof/Machine/Naem.lean ====
section
/-! DEFINITION. Naem codewords, how they travel on the wavelengths of a fibre, link keys and the messages under them (R350-R353,
R355, R356, R366, R432). Bit and byte orders that the spec leaves open are the model's (DESIGN
CHOICE, log entry 34). -/

namespace Sys2Proof.Machine

/-! ### The field and the code (R353) -/

/-- Product in GF(2^10) modulo x^10 + x^3 + 1. -/
def rsMul (a b : Nat) : Nat :=
  if a == 0 || b == 0 then 0
  else (List.range 10).foldl (fun r k =>
    let r := if 512 ≤ r then (2 * r) ^^^ 0x409 else 2 * r
    if bit a (9 - k) then r ^^^ b else r) 0

/-- alpha^n. -/
def rsAlpha (n : Nat) : Nat := (List.range n).foldl (fun x _ => rsMul 2 x) 1

/-- a^(2^10 - 2), the inverse: 2^10 - 2 is the sum of 2^1 to 2^9. -/
def rsInv (a : Nat) : Nat :=
  ((List.range 9).foldl (fun (p : Nat × Nat) _ => let q := rsMul p.1 p.1; (q, rsMul p.2 q)) (a, 1)).2

/-- Sums of two polynomials, lowest degree first. -/
def rsAdd : List Nat → List Nat → List Nat
  | [], b => b
  | a, [] => a
  | x :: a, y :: b => (x ^^^ y) :: rsAdd a b

/-- A polynomial, lowest degree first, at a point. -/
def rsEval (p : List Nat) (x : Nat) : Nat := p.foldr (fun c a => c ^^^ rsMul x a) 0

/-- The generator polynomial, highest degree first, with roots alpha^0 to alpha^29. -/
def rsGenerator : List Nat :=
  (List.range 30).foldl (fun g i => rsAdd (g ++ [0]) (0 :: g.map (rsMul (rsAlpha i)))) [1]

/-- The 30 check symbols of data symbols. -/
def rsParity (data : List Nat) : List Nat :=
  let g := rsGenerator.drop 1
  data.foldl (fun p d => let f := d ^^^ nth 0 p 0; rsAdd (p.drop 1 ++ [0]) (g.map (rsMul f))) (List.replicate 30 0)

/-- The syndromes of a word, its first symbol of the highest degree. -/
def rsSyndromes (w : List Nat) : List Nat :=
  (List.range 30).map fun i => let x := rsAlpha i; w.foldl (fun a c => c ^^^ rsMul x a) 0

/-- What the search for the error locator keeps: locator, the one before, length, steps since, last discrepancy. -/
structure RsSearch where
  loc : List Nat := [1]
  prev : List Nat := [1]
  len : Nat := 0
  gap : Nat := 1
  last : Nat := 1

/-- One step of the search for the shortest recurrence of the syndromes. -/
def rsStep (syn : List Nat) (x : RsSearch) (n : Nat) : RsSearch :=
  let d := (List.range (x.len + 1)).foldl (fun a i => a ^^^ rsMul (nth 0 x.loc i) (if i ≤ n then nth 0 syn (n - i) else 0)) 0
  if d == 0 then { x with gap := x.gap + 1 }
  else
    let c := rsMul d (rsInv x.last)
    let loc := rsAdd x.loc (List.replicate x.gap 0 ++ x.prev.map (rsMul c))
    if 2 * x.len ≤ n then { loc := loc, prev := x.loc, len := n + 1 - x.len, gap := 1, last := d }
    else { x with loc := loc, gap := x.gap + 1 }

/-- The value of the error at a degree, from locator and syndromes. -/
def rsMagnitude (syn loc : List Nat) (deg : Nat) : Nat :=
  let x := rsAlpha deg
  let y := rsInv x
  let omega := (List.range 30).map fun n => (List.range (n + 1)).foldl (fun a i => a ^^^ rsMul (nth 0 loc i) (nth 0 syn (n - i))) 0
  let slope := (List.range loc.length).map fun i => if i % 2 == 0 then nth 0 loc (i + 1) else 0
  rsMul x (rsMul (rsEval omega y) (rsInv (rsEval slope y)))

/-- Decode a word of 544 symbols: the codeword within 15 symbol errors and where those stood, or none. -/
def rsDecode (w : List Nat) : Option (List Nat × List Nat) :=
  let syn := rsSyndromes w
  if syn.all (· == 0) then some (w, [])
  else
    let x := (List.range 30).foldl (rsStep syn) {}
    if 15 < x.len then none
    else
      let errs := (List.range 544).filter fun j => rsEval x.loc (rsInv (rsAlpha (543 - j))) == 0
      let fixed := (w.zip (List.range 544)).map fun e =>
        if errs.contains e.2 then e.1 ^^^ rsMagnitude syn x.loc (543 - e.2) else e.1
      if errs.length == x.len && (rsSyndromes fixed).all (· == 0) then some (fixed, errs) else none

/-! ### Codewords (R353) -/

/-- A Naem codeword's contents: kind, index, 640 payload bytes. -/
structure Codeword where
  kind : Nat
  index : Nat
  payload : List Byte
deriving DecidableEq, Repr

/-- A number as symbols of 10 bits, the least significant first; and back. -/
def toSymbols (n v : Nat) : List Nat := (List.range n).map fun i => v / 2 ^ (10 * i) % 1024
def ofSymbols (l : List Nat) : Nat := l.foldr (fun x a => x + 1024 * a) 0

/-- The 544 symbols of a codeword: the 20-bit header, the payload, the check symbols. -/
def encodeWord (c : Codeword) : List Nat :=
  let data := toSymbols 2 (c.kind * 2 ^ 16 + c.index) ++ toSymbols 512 (leNat (exactly 640 c.payload))
  data ++ rsParity data

/-- The contents of the data symbols; a codeword whose reserved header bits are not zero has no kind of the table. -/
def readWord (data : List Nat) : Codeword :=
  let h := ofSymbols (data.take 2)
  { kind := if bits h 13 3 == 0 then h / 2 ^ 16 else 16, index := h % 2 ^ 13,
    payload := natLe 640 (ofSymbols ((data.drop 2).take 512)) }

/-! ### Wavelengths (R350, R351) -/

/-- The wavelength of symbol j of a codeword: lane j mod 8, or LS (8) where that stands in for the lane. A codeword is 68 times 8
symbols, so it begins on L0. -/
def laneOf (spare : Option Nat) (j : Nat) : Nat := if spare == some (j % 8) then 8 else j % 8

/-- The symbols on each of the nine wavelengths. -/
def stripe (spare : Option Nat) (w : List Nat) : List (List Nat) :=
  (List.range 9).map fun k => ((w.zip (List.range w.length)).filter fun e => laneOf spare e.2 == k).map (·.1)

/-- The 544 symbols received on nine wavelengths; a missing one reads as 0. -/
def unstripe (spare : Option Nat) (lanes : List (List Nat)) : List Nat :=
  (List.range 544).map fun j => nth 0 (nth [] lanes (laneOf spare j)) (j / 8) % 1024

/-! ### Link keys (R432) -/

def asciiBytes (l : List Char) : List Byte := l.map fun c => BitVec.ofNat 8 c.toNat

/-- The identity of an end of a pair: hall_id, die, position. -/
def linkId (hall die pos : Nat) : List Byte := natLe 2 hall ++ natLe 1 die ++ natLe 1 pos

/-- The boot key of a direction in an epoch. -/
def bootKeyOf (hall tx rx : List Byte) (e : Nat) : List Byte :=
  shake256 32 (asciiBytes ['L', 'I', 'N', 'K', 'B', 'O', 'O', 'T'] ++ hall ++ tx ++ rx ++ natLe 8 e)

/-- The key of a direction in an epoch from both ends' nonces. -/
def linkKeyOf (hall tx rx : List Byte) (e : Nat) (ntx nrx : List Byte) : List Byte :=
  shake256 32 (asciiBytes ['L', 'I', 'N', 'K'] ++ hall ++ tx ++ rx ++ natLe 8 e ++ ntx ++ nrx)

/-! ### Messages (R356) -/

/-- The IV of a message: starting codeword position, frame number. -/
def messageIv (position frame : Nat) : List Byte := natLe 4 position ++ natLe 8 frame

/-- The additional data of a message: the sender's hall_id, pair and frame number, as they stand in a frame header (R355). -/
def messageData (hall die pos frame : Nat) : List Byte := natLe 2 hall ++ natLe 1 (die * 32 + pos) ++ natLe 8 frame

/-- A message of so many codewords under its key: ciphertext of 640 L - 16 bytes and tag, in parts of 640 bytes. -/
def sealMessage (key iv aad : List Byte) (cws : Nat) (text : List Byte) : List (List Byte) :=
  let cipher := gcmStream key iv (exactly (640 * cws - 16) text)
  let all := cipher ++ gcmTag key iv aad cipher
  (List.range cws).map fun i => (all.drop (640 * i)).take 640

/-- The text of a message, when its tag authenticates it. -/
def openSealed (key iv aad b : List Byte) : Option (List Byte) :=
  gcmOpen key iv aad (b.take (b.length - 16)) (b.drop (b.length - 16))

/-- The 16 bytes of a frame header's tag: over the header, with no ciphertext (R355; DEDUCED, log entry 34). -/
def headerTag (key iv aad header : List Byte) : List Byte := gcmTag key iv (aad ++ header) []

/-! ### Frame headers (R355) -/

/-- A frame header's fields. -/
structure FrameHeader where
  hallId : Nat
  die : Nat
  position : Nat
  timing : Nat
  version : Nat
  frame : Nat
  slipMask : Nat
  openAck : Nat
  laneMap : Nat
  repeats : List (Nat × Nat)
deriving DecidableEq, Repr

/-- A repeat request: start position of the lost occurrence, frames back less 1 (R355). -/
def repeatWord (r : Nat × Nat) : Nat := r.1 * 8 + (r.2 - 1) % 8

/-- The 624 bytes of a header before its tag. -/
def headerBytes (h : FrameHeader) : List Byte :=
  exactly 624 (natLe 2 h.hallId ++ natLe 1 (h.die * 32 + h.position) ++ natLe 1 h.timing ++ natLe 4 h.version ++ natLe 8 h.frame ++
    natLe 2 h.slipMask ++ natLe 2 h.openAck ++ natLe 1 (h.laneMap * 16) ++ natLe 1 h.repeats.length ++ zeros 2 ++
    h.repeats.flatMap fun r => natLe 2 (repeatWord r))

/-- The fields of a header. -/
def headerFrom (b : List Byte) : FrameHeader :=
  { hallId := fieldOf b 0 2, die := fieldOf b 2 1 / 32, position := fieldOf b 2 1 % 32, timing := fieldOf b 3 1,
    version := fieldOf b 4 4, frame := fieldOf b 8 8, slipMask := fieldOf b 0x10 2, openAck := fieldOf b 0x12 2,
    laneMap := fieldOf b 0x14 1 / 16,
    repeats := (List.range (min 8 (fieldOf b 0x15 1))).map fun i =>
      let w := fieldOf b (0x18 + 2 * i) 2
      (w / 8, w % 8 + 1) }

/-! ### Management messages (R366) -/

/-- A management message of the open slot. -/
inductive OpenMessage where
  | nonce (epoch : Nat) (value : List Byte)
  | imagePart (data : List Byte)
  | arm (version frame : Nat)
  | disarm
  | armed (member version : Nat)
  | loaded (member version code detail : Nat)
  | replaceLane (lane : Nat)
  | undefinedType (type : Nat)
deriving DecidableEq, Repr

/-- A message's type and data (DESIGN CHOICE, log entry 34: the spec gives neither numbers nor layouts). -/
def OpenMessage.wire : OpenMessage → Nat × List Byte
  | .nonce e v => (1, natLe 8 e ++ v)
  | .imagePart b => (2, b)
  | .arm v f => (3, natLe 4 v ++ natLe 8 f)
  | .disarm => (4, [])
  | .armed m v => (5, natLe 1 m ++ natLe 4 v)
  | .loaded m v c d => (6, natLe 1 m ++ natLe 4 v ++ natLe 2 c ++ natLe 4 d)
  | .replaceLane l => (7, natLe 1 l)
  | .undefinedType t => (t, [])

/-- The message of a type and data. -/
def openMessageOf (type : Nat) (b : List Byte) : OpenMessage :=
  match type with
  | 1 => .nonce (fieldOf b 0 8) (b.drop 8)
  | 2 => .imagePart b
  | 3 => .arm (fieldOf b 0 4) (fieldOf b 4 8)
  | 4 => .disarm
  | 5 => .armed (fieldOf b 0 1) (fieldOf b 1 4)
  | 6 => .loaded (fieldOf b 0 1) (fieldOf b 1 4) (fieldOf b 5 2) (fieldOf b 7 4)
  | 7 => .replaceLane (fieldOf b 0 1)
  | t => .undefinedType t

/-- The source of a type: the key block, cascade control, the lane-control fallback (R366). -/
def openSource (type : Nat) : Nat := if type == 1 then 0 else if type == 7 then 2 else 1

/-- The 624 bytes of a message: the 16-byte header (type, length, sequence), and 608 bytes of data. -/
def openText (type seq : Nat) (data : List Byte) : List Byte :=
  exactly 16 (natLe 2 type ++ natLe 2 data.length ++ natLe 4 seq) ++ exactly 608 data

/-- Type, sequence number and data of a message's text. -/
def openFields (b : List Byte) : Nat × Nat × List Byte :=
  (fieldOf b 0 2, fieldOf b 4 4, ((b.drop 16).take (min 608 (fieldOf b 2 2))))

/-! ### Contribution headers (R367, R377) -/

/-- The 64-byte header of a contribution (DESIGN CHOICE, log entry 31: the spec gives no layout). `further` marks a further
message of a boundary exchange; `body` is the dims of a tensor, or the seed member 0 drew (R381). -/
def commandHeader (opcode format transport flags scale : Nat) (further : Bool) (length : Nat) (body digest : List Byte) : List Byte :=
  natLe 1 opcode ++ natLe 1 format ++ natLe 1 transport ++ natLe 1 flags ++ natLe 2 scale ++ natLe 1 (bit01 further) ++ zeros 1 ++
    natLe 8 length ++ exactly 16 body ++ exactly 32 digest

/-- The length of the contribution that a header begins, whether it is a further message, and the seed in it. -/
def headerLength (h : List Byte) : Nat := fieldOf h 8 8
def headerFurther (h : List Byte) : Bool := fieldOf h 6 1 != 0
def headerSeed (h : List Byte) : DWord := BitVec.ofNat 64 (fieldOf h 16 8)

/-- Do two headers agree (R377): opcode, format, storage, flags, scale, digest, and a tensor's dims? -/
def headersAgree (a b : List Byte) : Bool :=
  a.take 6 == b.take 6 && a.drop 32 == b.drop 32 && (fieldOf a 0 1 == 0x92 || (a.drop 16).take 16 == (b.drop 16).take 16)

/-- Does a sender's header agree with a receive in format, storage and dims (R377)? -/
def tensorsAgree (a b : List Byte) : Bool := (a.drop 1).take 2 == (b.drop 1).take 2 && (a.drop 16).take 16 == (b.drop 16).take 16

end Sys2Proof.Machine
end

