-- ==== Sys2Proof/Machine/Streams.lean ====
section
/-! DEFINITION. Schedules and the byte streams of flows between a module's commands and its optical links (R354, R362-R364,
R367-R369). -/

namespace Sys2Proof.Machine

/-! ### Frames and schedules (R354, R362, R364) -/

/-- Frame length in symbols, codeword positions, and the first position of the open slot (R354). -/
def frameSyms (o : Optical) : Nat := o.periodNs * 256 / 5
def codewordCount (o : Optical) : Nat := (frameSyms o - 256) / 544
def openStart (o : Optical) : Nat := codewordCount o - o.openCw

/-- D must be at least the larger marker delay plus 600 ns (R357). -/
def offsetWrong (o : Optical) : Bool := o.launchNs * 1000 < max o.markX0 o.markX3 + 600000

/-- Start position, codewords, and payload bytes of an occurrence (R356). -/
def SchedEntry.pos (e : SchedEntry) : Nat := e.start / 544
def SchedEntry.cws (e : SchedEntry) : Nat := e.len / 544
def SchedEntry.cap (e : SchedEntry) : Nat := 640 * e.cws - 16

/-- Does an entry occur in a schedule frame (R364)? -/
def SchedEntry.occurs (e : SchedEntry) (f : Nat) : Bool := f % 2 ^ e.cadence == e.phase

/-- The entries of a bank with their dies. -/
def SchedBank.all (b : SchedBank) : List (Nat × SchedEntry) :=
  ((List.range 6).zip b.entries).flatMap fun x => x.2.map fun e => (x.1, e)

/-- Where an occurrence stands in the occurrence order of its frame, the same at both ends: occurrences stand as they end on the wire,
those that end together by the sender's optical die and pair (R367; DESIGN CHOICE, log entry 34). -/
def occTurn (e : SchedEntry) (die pair : Nat) : Nat := ((e.pos + e.cws) * 8 + die) * 32 + pair

/-- The turn of an occurrence as one sent: by its own die and pair. -/
def sentTurn (x : Nat × SchedEntry) : Nat := occTurn x.2 x.1 x.2.pair

/-- Insert an occurrence in the order of the turns. -/
def insertOcc (x : Nat × SchedEntry) : List (Nat × SchedEntry) → List (Nat × SchedEntry)
  | [] => [x]
  | y :: t => if sentTurn x < sentTurn y then x :: y :: t else y :: insertOcc x t

/-- The occurrences of a schedule frame, in occurrence order (R364; DESIGN CHOICE, log entry 34). -/
def occurrences (b : SchedBank) (f : Nat) : List (Nat × SchedEntry) :=
  (b.all.filter fun x => x.2.occurs f).foldl (fun l x => insertOcc x l) []

/-- The pair of an entry. -/
def entryPair (x : Nat × SchedEntry) : Nat := pairKey x.1 x.2.pair

/-- Is a pair sending: neither fenced nor dark? -/
def Pair.live (x : Pair) : Bool := x.state == .up || x.state == .spare

/-- The entries of a flow in the active schedule. -/
def flowEntries (s : State) (flow : Nat) : List (Nat × SchedEntry) := s.opx.active.all.filter fun x => x.2.flow == flow

/-- Is a flow broken (R386, R387)? -/
def flowBroken (s : State) (flow : Nat) : Bool :=
  (s.flow flow).broken || (flowEntries s flow).any fun x => (s.pair (entryPair x)).mismatch

/-! ### Streams (R367) -/

/-- The key of a sent stream: each peer gets every byte (DESIGN CHOICE, log entry 34). -/
def txKey (peer flow origin : Nat) : Nat := peer * 2 ^ 22 + streamKey flow origin

/-- The peers that a flow's transmit entries of an origin lead to. -/
def txPeers (s : State) (flow origin : Nat) : List Nat :=
  ((flowEntries s flow).filter fun x => x.2.transmit && x.2.origin == origin).foldl (fun l x =>
    let h := (s.pair (entryPair x)).peerHall
    if l.contains h then l else l ++ [h]) []

def State.tx (s : State) (k : Nat) : Stream := tblGet {} s.opx.tx k
def State.setTx (s : State) (k : Nat) (x : Stream) : State := { s with opx := { s.opx with tx := tblSet {} s.opx.tx k x } }
def State.rx (s : State) (k : Nat) : Stream := tblGet {} s.opx.rx k
def State.setRx (s : State) (k : Nat) (x : Stream) : State := { s with opx := { s.opx with rx := tblSet {} s.opx.rx k x } }

/-- Hand bytes over to every link that carries a stream; with no transmit entry they wait (R367, R369). -/
def handOverFrom (s : State) (flow origin : Nat) (b : List Byte) : State :=
  let ps := txPeers s flow origin
  (if ps.isEmpty then [0xFFFF] else ps).foldl (fun s p =>
    let k := txKey p flow origin
    s.setTx k { s.tx k with bytes := (s.tx k).bytes ++ b, owed := false }) s

/-- Hand a whole contribution of the module's own over. -/
def handOver (s : State) (flow : Nat) (b : List Byte) : State := handOverFrom s flow s.opx.member b

/-- The module's next contribution on a flow is due and not handed over yet (R369, R370). -/
def oweFlow (s : State) (flow : Nat) : State :=
  (txPeers s flow s.opx.member).foldl (fun s p =>
    let k := txKey p flow s.opx.member
    s.setTx k { s.tx k with owed := true }) s

/-- Has every byte of the module's own contribution been transmitted? -/
def ownSent (s : State) (flow : Nat) : Bool :=
  s.opx.tx.all fun e => e.1 % 2 ^ 22 != streamKey flow s.opx.member || e.2.bytes.isEmpty

/-- Drop the dies of the first n bytes. -/
def dropDies : Nat → List (Nat × Nat) → List (Nat × Nat)
  | _, [] => []
  | n, (d, k) :: t => if n < k then (d, k - n) :: t else dropDies (n - k) t

/-- Take n bytes of a received stream, once they are there. -/
def takeRx (s : State) (flow origin n : Nat) : Option (List Byte × State) :=
  let k := streamKey flow origin
  let x := s.rx k
  if x.bytes.length < n then none
  else some (x.bytes.take n, s.setRx k { x with bytes := x.bytes.drop n, dies := dropDies n x.dies })

/-- Where a received stream stands between its contributions: bytes left of the one under way, the part of a header that has
come, commands' contributions begun. -/
structure Boundary where
  left : Nat
  head : List Byte
  begun : Nat

/-- The bytes of a stream in what occurrences carried. Padding is zero and stands only where a contribution would begin; a
contribution begins with its opcode, which is not zero (R367, R369; DESIGN CHOICE, log entry 34). -/
def unpad : Nat → Boundary → List Byte → List Byte × Boundary
  | 0, x, _ => ([], x)
  | fuel + 1, x, b =>
    if b.isEmpty then ([], x)
    else if 0 < x.left then
      let r := unpad fuel { x with left := x.left - b.length } (b.drop x.left)
      (b.take x.left ++ r.1, r.2)
    else if x.head.isEmpty && b.head? == some 0 then unpad fuel x (b.dropWhile (· == 0))
    else
      let n := 64 - x.head.length
      let h := x.head ++ b.take n
      if h.length < 64 then (b, { x with head := h })
      else
        let r := unpad fuel { left := headerLength h, head := [], begun := x.begun + bit01 (!headerFurther h) } (b.drop n)
        (b.take n ++ r.1, r.2)

/-- Is a received stream between two contributions? -/
def Stream.whole (x : Stream) : Bool := x.left == 0 && x.head.isEmpty

/-! ### Claims (R368) -/

/-- The flow a collective command names. -/
def dFlow (d : Desc) : Nat := dField d 0x30 2

/-- The opcodes of cascade commands on a flow. -/
def onFlow (opcode : Nat) : Bool := 0x90 ≤ opcode && opcode ≤ 0x94

/-- Does an earlier command of the same queue name the flow (R368)? -/
def flowBehind (s : State) (c : Nat) (x : Cmd) : Bool :=
  s.cmds.any fun e => e.1 < c && e.2.queue == x.queue && onFlow (dOpcode e.2.desc) && dFlow e.2.desc == dFlow x.desc

/-- Orders 5 and 6 of R384, with a broken flow between them (R386; DEDUCED, log entry 35). -/
def needFlow (s : State) (c : Nat) (x : Cmd) : Try Unit :=
  let f := dFlow x.desc
  if (flowEntries s f).isEmpty then flt 0x1902 f
  else if flowBroken s f then flt 0x1905 f
  else if (s.flow f).command == some c then .ok ()
  else match (s.flow f).queue with
    | some q => if q == x.queue then .error .hold else flt 0x190A f
    | none => if flowBehind s c x then .error .hold else .ok ()

/-- Does a command send a contribution of the module's own? -/
def sendsOwn (opcode : Nat) : Bool := opcode != 0x94

/-- Claim a flow; what the command is to send is due from then on (R368, R369). -/
def claimFlow (s : State) (c : Nat) (x : Cmd) : State :=
  let f := dFlow x.desc
  let s := s.setFlow f { s.flow f with queue := some x.queue, command := some c, claims := (s.flow f).claims + 1 }
  if sendsOwn (dOpcode x.desc) then oweFlow s f else s

/-- A collective command claims its flow when it starts, whatever it has to wait for (R368). -/
def claimAtStart (s : State) (c : Nat) (x : Cmd) : State :=
  match needFlow s c x with
  | .ok _ => if (s.flow (dFlow x.desc)).command == some c then s else claimFlow s c x
  | .error _ => s

/-! ### Readiness (R369) -/

/-- Is a contribution of another member due on a flow: the command that claims it takes one of that origin, and fewer have begun
than commands have claimed the flow (R368)? -/
def forwardDue (s : State) (flow origin : Nat) : Bool :=
  match (s.flow flow).command.bind s.cmd? with
  | none => false
  | some x =>
    let o := dOpcode x.desc
    (o == 0x90 || o == 0x91 || o == 0x92 || (o == 0x94 && dField x.desc 0x32 1 == origin)) &&
      (s.rx (streamKey flow origin)).begun < (s.flow flow).claims

/-- The stream of a transmit occurrence. -/
def occStream (s : State) (x : Nat × SchedEntry) : Nat := txKey (s.pair (entryPair x)).peerHall x.2.flow x.2.origin

/-- Can a transmit occurrence be filled, padded or sent empty, given the bytes its stream's earlier occurrences take (R369)? -/
def txFilled (s : State) (before : Nat) (x : Nat × SchedEntry) : Bool :=
  let t := s.tx (occStream s x)
  let own := x.2.origin == s.opx.member
  let held := (s.flow x.2.flow).command.isSome
  let whole := own || (s.rx (streamKey x.2.flow x.2.origin)).whole
  let due := if own then held && t.owed else forwardDue s x.2.flow x.2.origin
  before + x.2.cap ≤ t.bytes.length || (before < t.bytes.length && whole) ||
    (t.bytes.length ≤ before && ((whole && !due) || !held))

/-- Bytes that wait in the receive store of an optical die (R369), those held for an earlier occurrence included. -/
def storeBytes (s : State) (d : Nat) : Nat :=
  ((s.opx.rx.flatMap fun e => e.2.dies.filter fun r => r.1 == d).map (·.2)).sum +
    ((s.opx.held.filter fun x => x.die == d).map fun x => x.bytes.length).sum

/-! ### A transom moves what waits (R365) -/

/-- The sent streams of a flow and origin, by peer. -/
def sentTo (s : State) (flow origin : Nat) : List Nat :=
  (s.opx.tx.filter fun e => e.1 % 2 ^ 22 == streamKey flow origin).map fun e => e.1 / 2 ^ 22

/-- What waits for peers to which the new bank sends no more goes to the peers that take their place, in order; a further new
peer gets a copy of the first's (DESIGN CHOICE, log entry 34). -/
def moveStream (s : State) (flow origin : Nat) : State :=
  let old := sentTo s flow origin
  let now := (let l := txPeers s flow origin; if l.isEmpty then [0xFFFF] else l)
  let gone := old.filter fun p => !now.contains p
  let add := now.filter fun p => !old.contains p
  let at_ := fun (p : Nat) => s.tx (txKey p flow origin)
  let s1 := (add.zip (List.range add.length)).foldl (fun t e =>
    match gone[e.2]?.or gone.head? with
    | some g => t.setTx (txKey e.1 flow origin) (at_ g)
    | none => t) s
  gone.foldl (fun t p => t.setTx (txKey p flow origin) {}) s1

/-- The flows and origins of the sent streams. -/
def sentStreams (s : State) : List Nat :=
  s.opx.tx.foldl (fun l e => if l.contains (e.1 % 2 ^ 22) then l else l ++ [e.1 % 2 ^ 22]) []

/-- Every sent stream goes on with the entries of the bank now active. -/
def moveStreams (s : State) : State := (sentStreams s).foldl (fun s k => moveStream s (keyFlow k) (k % 64)) s

end Sys2Proof.Machine
end

