-- ==== Sys2Proof/Machine/Anneal.lean ====
section
/-! DEFINITION. Anneal runs: temperatures and tables (R112-R117), noise (R120), visits and batches (R94-R104), epochs
(R123-R125), replicas and exchange (R127-R129), placement and held slots (R106, R160-R163, R336). -/

namespace Sys2Proof.Machine

/-! ### Temperatures and the acceptance table (R113-R116) -/

/-- The multiplier and shift of an FP32 temperature (R115); none when it is out of range. -/
def tempScale (eps : Int) (code : Nat) : Option (Nat × Nat) :=
  let e := bits code 23 8
  let tm := 2 ^ 23 + bits code 0 23
  let k : Int := 48 - eps + ((e : Int) - 150)
  if bit code 31 || e == 0 || e == 255 || k < 0 || 95 < k then none else some ((2 ^ 55 - 1) / tm, k.toNat)

/-- The table index of an energy change (R95). -/
def tableIndex (mk : Nat × Nat) (dE : Int) : Nat :=
  (2048 + max (-2048) (min 2047 (dE * mk.1 / 2 ^ mk.2))).toNat

/-- RNE of a real enclosed at every precision (DEDUCED, log entry 24). -/
def zivInt (f : Nat → Iv) : Nat → Nat → Int
  | 0, p => rne (f p).1
  | fuel + 1, p =>
    let (lo, hi) := f p
    if rne lo == rne hi then rne lo else zivInt f fuel (2 * p)

/-- RNE(65536 * e^-x) for x above 0; beyond 20 it is 0. -/
def expWeight (x : Rat) : Int :=
  if 20 < x then 0 else zivInt (fun p => let (lo, hi) := expIv (-x) p; (65536 * lo, 65536 * hi)) 12 64

/-- RNE(65536 / (1 + e^x)). -/
def bathWeight (x : Rat) : Int :=
  if x == 0 then 32768 else if 20 < x then 0 else if x < -20 then 65536
  else zivInt (fun p => let (lo, hi) := expIv x p; (65536 / (1 + hi), 65536 / (1 + lo))) 12 64

/-- D_j: the smallest energy change of a bin from 1 up, if it is reached (R116). -/
def binLeast (mk : Nat × Nat) (j : Nat) : Option Int :=
  let d : Int := -((-((j : Int) - 2048) * 2 ^ mk.2) / mk.1)
  if tableIndex mk d == j then some d else none

/-- The entry of a bin (R116): `tpu` is the temperature in problem units. -/
def tableEntry (mk : Nat × Nat) (tpu : Rat) (heatBath : Bool) : Nat → Nat
  | 0 => 0xFFFF
  | j + 1 =>
    match binLeast mk (j + 1) with
    | some d =>
      let x := (d : Rat) / tpu
      if heatBath then (min (bathWeight x) 0xFFFF).toNat
      else if x ≤ 0 then 0xFFFF else (min (expWeight x) 0xFFFF).toNat
    | none => tableEntry mk tpu heatBath j

/-- The temperature of a position at a step: FP32 code of RNE32(T_s * lambda_r) (R113). -/
def tempAt (schedule : List (Nat × Nat)) (multipliers : List Nat) (step r : Nat) : Nat :=
  fp32Code (vMul false (fp32 (nth (0, 0) schedule step).1) (fp32 (nth 0x3F800000 multipliers r)))

/-- A temperature in problem units. -/
def tempUnits (eps : Int) (code : Nat) : Rat := ((fp32 code).rat.getD 0) * pow2 (-eps)

/-- The step of a sweep (R114). -/
def stepOf : List (Nat × Nat) → Nat → Nat
  | [], _ => 0
  | [_], _ => 0
  | (_, n) :: rest, w => if w < n then 0 else 1 + stepOf rest (w - n)

/-! ### Noise (R119-R121) -/

/-- A draw's top 16 bits (R120, R121). -/
def noise (seed : DWord) (r b w i d : Nat) : Nat :=
  let rb := r * 2 ^ 28 + b
  let key := mix64 (seed ^^^ mix64 (dw rb + 0x7A3C91E40B6D5F28#64))
  let z := mix64 (dw (w * 2 ^ 16 + i * 2 ^ 5 + d) ^^^ key)
  ((mix64 (z + key)) >>> 48).toNat

/-! ### A launch's parts -/

def Launch.totalSweeps (l : Launch) : Nat := (l.schedule.map (·.2)).sum
def Launch.totalEpochs (l : Launch) : Nat := (l.totalSweeps + l.epochSweeps - 1) / l.epochSweeps

/-- The sweep after the last of an epoch (R123). -/
def Launch.epochEnd (l : Launch) (e : Nat) : Nat := min ((e + 1) * l.epochSweeps) l.totalSweeps

/-- Blocks of a problem. -/
def Problem.nb (p : Problem) : Nat := p.blocks.length

def Problem.block (p : Problem) (b : Nat) : Block := nth noBlock p.blocks b

/-- Does this module run the pair of a position and block (R380, R381)? -/
def Launch.own (l : Launch) (s : State) (p : Problem) (r b : Nat) : Bool :=
  match l.partition with
  | none => true
  | some m => nth 0 m (r * p.nb + b) == s.opx.member

/-- The run of a pair; none of a block that the problem does not have. -/
def Launch.run? (l : Launch) (p : Problem) (r b : Nat) : Option BlockRun :=
  if b < p.nb then tblFind l.runs (r * p.nb + b) else none
def Launch.setRun (l : Launch) (p : Problem) (r b : Nat) (x : BlockRun) : Launch :=
  { l with runs := tblPut l.runs (r * p.nb + b) x }
def Launch.rep (l : Launch) (r : Nat) : Replica := nth {} l.reps r
def Launch.setRep (l : Launch) (r : Nat) (x : Replica) : Launch := { l with reps := setNth l.reps r x }

def State.setLaunch (s : State) (c : Nat) (l : Launch) : State :=
  { s with spin := { s.spin with launches := tblPut s.spin.launches c l } }

/-- Act on a launch that runs: its command runs, is not shuttered, and its record is not due. -/
def withLaunch (s : State) (c : Nat) (f : Launch → Problem → Queue → State) : State :=
  match tblFind s.spin.launches c, s.cmd? c with
  | some l, some x =>
    match tblFind s.spin.problems l.problem, s.queue? x.queue with
    | some p, some q => if l.record.isNone && x.stage == .running && x.shutter.isNone then f l p q else s
    | _, _ => s
  | _, _ => s

/-- Is normal work saved out of an engine (R229)? -/
def engineSaved (s : State) (q : Queue) (e : Nat) : Bool := q.kind != 1 && (s.eng e).context.isSome

/-- Is normal work stopped on an engine for a real-time queue (R229, R290)? -/
def engineTaken (s : State) (q : Queue) (e : Nat) : Bool :=
  q.kind != 1 && ((s.eng e).preempting || (s.eng e).context.isSome)

/-! ### Visits (R94-R100, R157) -/

/-- The group a local index belongs to. -/
def groupAt (b : Block) (i : Nat) : Option (List Nat) := (b.groups.find? fun g => g.2.contains i).map (·.2)

/-- The hot member of a group. -/
def hotOf (bits : List Bool) (g : List Nat) : Nat := (g.find? fun k => nth false bits k).getD 0

/-- The variables a visit would change: none for a null visit (R94). -/
def moveOf (b : Block) (bits : List Bool) (i : Nat) : List Nat :=
  match groupAt b i with
  | none => [i]
  | some g => if nth false bits i then [] else [hotOf bits g, i]

/-- The bits after a move. -/
def applyMove (bits : List Bool) (move : List Nat) : List Bool :=
  move.foldl (fun l k => setNth l k !(nth false l k)) bits

/-- The change of a variable by its flip. -/
def deltaOf (p : Problem) (bits : List Bool) (k : Nat) : Int :=
  spinVal p.spin (!(nth false bits k)) - spinVal p.spin (nth false bits k)

/-- The quadratic and linear energy change of a move (R73). -/
def moveEnergy (p : Problem) (b : Block) (bits : List Bool) (x : List Int) (move : List Nat) : Int :=
  match move with
  | [] => 0
  | [i] => deltaOf p bits i * fieldAt p b bits x i
  | h :: i :: _ =>
    deltaOf p bits h * fieldAt p b bits x h + deltaOf p bits i * fieldAt p b bits x i +
      couplingAt b h i * deltaOf p bits h * deltaOf p bits i

/-- The energy change of a move with its neural part (R99, R157). -/
def moveTotal (p : Problem) (bn : Nat) (run : BlockRun) (move : List Nat) : Int :=
  moveEnergy p (p.block bn) run.bits run.x move +
    (if move.isEmpty then 0 else
      match p.netOf bn with
      | some _ => blockNeural p bn (applyMove run.bits move) - run.neural
      | none => 0)

/-- Is a visit accepted on the block's state (R95, R96)? A null visit never is. -/
def accepts (l : Launch) (p : Problem) (seed : DWord) (r bn : Nat) (run : BlockRun) (i : Nat) : Bool :=
  let move := moveOf (p.block bn) run.bits i
  let t := tempAt l.schedule l.multipliers run.foreground r
  match tempScale p.eps t with
  | none => false
  | some mk =>
    let w := tableEntry mk (tempUnits p.eps t) l.heatBath (tableIndex mk (moveTotal p bn run move))
    !move.isEmpty && (w == 0xFFFF || noise seed r bn run.sweep i 0 < w)

/-- The variable set of a candidate (R100). -/
def candidateVars (b : Block) (i : Nat) : List Nat := (groupAt b i).getD [i]

/-- Do two candidates interact (R100)? -/
def interacts (p : Problem) (bn i j : Nat) : Bool :=
  let b := p.block bn
  (p.netOf bn).isSome ||
    (candidateVars b i).any fun x => (candidateVars b j).any fun y => x == y || couplingAt b x y != 0

/-! ### Batches (R101, R103) -/

/-- What a batch decides: accepted candidates, decided ones, deferred ones, group refusals. -/
structure Decided where
  accepted : List Nat := []
  decided : Nat := 0
  deferred : List Nat := []
  refused : Nat := 0

/-- A sequential-equivalent batch (R101): `hot` lists the earlier candidates accepted or deferred. -/
def decideSeq (p : Problem) (bn : Nat) (ok : Nat → Bool) : List Nat → List Nat → Decided
  | _, [] => {}
  | hot, i :: rest =>
    if hot.any (interacts p bn i) then
      let d := decideSeq p bn ok (i :: hot) rest
      { d with deferred := i :: d.deferred }
    else
      let yes := ok i
      let d := decideSeq p bn ok (if yes then i :: hot else hot) rest
      { d with accepted := if yes then i :: d.accepted else d.accepted, decided := d.decided + 1 }

/-- A concurrent batch (R103): of the accepted visits to one group the first stands. -/
def decideConc (b : Block) (ok : Nat → Bool) : List (List Nat) → List Nat → Decided
  | _, [] => {}
  | taken, i :: rest =>
    let yes := ok i
    let g := groupAt b i
    let clash := match g with
      | some g => taken.contains g
      | none => false
    let d := decideConc b ok (match yes, g with | true, some g => g :: taken | _, _ => taken) rest
    { d with accepted := if yes && !clash then i :: d.accepted else d.accepted, decided := d.decided + 1,
             refused := d.refused + bit01 (yes && clash) }

/-- Rising local indices from `next`, as many as a batch has room for. -/
def fetchVisits (next nVars room : Nat) : List Nat := (List.range (min room (nVars - next))).map (next + ·)

/-- The layer-1 sums and the neural term of a committed state (R154-R156). -/
def withSums (p : Problem) (bn : Nat) (run : BlockRun) : BlockRun :=
  match p.netOf bn with
  | some t =>
    let a := layer1 t (run.bits.map (spinVal p.spin))
    { run with sums := a, neural := upper t a }
  | none => run

/-- The energy of a block against its neighbour values, exactly (R104). -/
def exactEnergy (p : Problem) (bn : Nat) (run : BlockRun) : Int :=
  blockOwn p (p.block bn) run.bits + blockP p run.bits run.x + run.neural

/-- Count trials and acceptances of a step in an epoch. -/
def countVisits (t : Tbl (Tbl (Nat × Nat))) (epoch step trials accepted : Nat) : Tbl (Tbl (Nat × Nat)) :=
  let row := tblGet [] t epoch
  let old := tblGet (0, 0) row step
  tblPut t epoch (tblPut row step (old.1 + trials, old.2 + accepted))

/-- Commit a batch's decisions (R97, R102, R155). -/
def commitBatch (p : Problem) (bn : Nat) (run : BlockRun) (d : Decided) (next : Nat) : BlockRun :=
  let moves := d.accepted.map (moveOf (p.block bn) run.bits)
  let gain := (moves.map (moveTotal p bn run)).sum
  withSums p bn { run with bits := moves.foldl applyMove run.bits, energy := run.energy + gain, next := next,
                           pending := d.deferred,
                           counts := countVisits run.counts run.epoch run.foreground d.decided d.accepted.length }

/-- Swap in the next step's table at a sweep boundary, or hold for it (R117): the run, and whether it is late anew. A swap due at
the boundary at which max_epochs ends the launch counts like any other (DESIGN CHOICE, log entry 47). -/
def stepTable (l : Launch) (run : BlockRun) : BlockRun × Bool :=
  if l.totalSweeps ≤ run.sweep || stepOf l.schedule run.sweep == run.foreground then (run, false)
  else if run.backgroundDone then
    ({ run with foreground := run.foreground + 1, backgroundDone := false, lateHeld := false }, false)
  else ({ run with lateHeld := true }, !run.lateHeld)

/-- The end of a sweep: exact energy in concurrent mode, with its residue (R104), then the table of the next sweep. -/
def endSweep (l : Launch) (p : Problem) (bn : Nat) (run : BlockRun) : BlockRun × Nat × Bool :=
  let exact := if l.concurrent then exactEnergy p bn run else run.energy
  let (run', late) := stepTable l { run with energy := exact, sweep := run.sweep + 1, next := 0, pending := [] }
  (run', (run.energy - exact).natAbs, late)

/-- Add to a block's statistics of an epoch. -/
def BlockRun.tally (run : BlockRun) (e : Nat) (f : EpochTally → EpochTally) : BlockRun :=
  { run with tallies := tblPut run.tallies e (f (tblGet {} run.tallies e)) }

/-! ### Streamed pairs (R336) -/

/-- The epoch a pair is to run next, and its place in the order of its engine. -/
def pairTurn (k : Nat) (x : BlockRun) : Nat × Nat := (if x.phase == .sweeping then x.epoch else x.epoch + 1, k)

/-- How many pairs of the engine come before a pair. -/
def pairRank (l : Launch) (k : Nat) (x : BlockRun) : Nat :=
  (l.runs.filter fun y => y.2.engine == x.engine && y.1 != k &&
    let a := pairTurn y.1 y.2
    let b := pairTurn k x
    (a.1 < b.1 || (a.1 == b.1 && a.2 < b.2))).length

/-- Pairs of an engine. -/
def pairsOn (l : Launch) (e : Nat) : Nat := (l.runs.filter fun y => y.2.engine == e).length

/-- Is a pair on its engine, and its turn come (R336)? -/
def pairReady (l : Launch) (k : Nat) (x : BlockRun) : Bool :=
  !l.streamed || pairsOn l x.engine ≤ 1 || (x.pagedIn && pairRank l k x == 0)

/-! ### ANNEAL_BATCH -/

/-- May a block's next batch run: its launch has seed and engines, it stands within its epoch on its engine, with no late table,
and the engine is not taken nor its louvre shut (R117, R122, R161, R290, R336, R399)? -/
def batchMay (s : State) (q : Queue) (l : Launch) (k : Nat) (run : BlockRun) : Bool :=
  l.seed.isSome && !l.waitingEngine && run.phase == .sweeping && run.sweep < l.epochEnd run.epoch && !run.lateHeld &&
    pairReady l k run && !engineTaken s q run.engine && (s.eng run.engine).louvre != 0

/-- Is a batch of some launch ready on an engine (R162)? -/
def batchReady (s : State) (e : Nat) : Bool :=
  s.spin.launches.any fun x => match s.cmd? x.1 with
    | some y => match s.queue? y.queue with
      | some q => x.2.record.isNone && y.stage == .running && y.shutter.isNone &&
          x.2.runs.any fun r => r.2.engine == e && batchMay s q x.2 r.1 r.2
      | none => false
    | none => false

/-- Does a launch hold slots of an engine (R160)? -/
def slotsHeld (s : State) (e : Nat) : Bool := (s.eng e).slots.any fun k => match k with
  | .held _ _ => true
  | _ => false

/-- On a held engine an annealer batch and a group sequence alternate where both are ready (R162): may a batch, or a sequence, go
now? -/
def batchTurn (s : State) (e : Nat) : Bool := !slotsHeld s e || (s.eng e).turnBatch || !sequenceReady s e
def sequenceTurn (s : State) (e : Nat) : Bool := !slotsHeld s e || !(s.eng e).turnBatch || !batchReady s e

/-- Hand the turn of a held engine on (R162). -/
def passTurn (s : State) (e : Nat) (batch : Bool) : State :=
  if slotsHeld s e then s.modEng e fun g => { g with turnBatch := batch } else s

/-- One batch of a block (R101, R103). -/
def annealBatch (s : State) (c r bn : Nat) : State :=
  withLaunch s c fun l p q =>
    match l.run? p r bn, l.seed with
    | some run, some seed =>
      let b := p.block bn
      let n := b.vars.length
      if !batchMay s q l (r * p.nb + bn) run || !batchTurn s run.engine then s
      else if !mayIssue s run.engine then issued s run.engine false
      else
        let fresh := fetchVisits run.next n (64 - run.pending.length)
        let ok := accepts l p seed r bn run
        let d := if l.concurrent then decideConc b ok [] fresh else decideSeq p bn ok [] (run.pending ++ fresh)
        let next := run.next + fresh.length
        let run1 := commitBatch p bn run d next
        let (run2, residue, late) := if n ≤ next && d.deferred.isEmpty then endSweep l p bn run1 else (run1, 0, false)
        let run3 := run2.tally run.epoch fun t => { t with
          residue := t.residue + residue, deferrals := t.deferrals + d.deferred.length, late := t.late + bit01 late }
        let e := run.engine
        let s := tileWork (passTurn (s.setLaunch c (l.setRun p r bn run3)) e false) e c
        let s := countEngine s e (·.batches) (fun g k => { g with batches := k }) causeAnl 1
        let s := if d.deferred.isEmpty then s
          else countEngine s e (·.deferrals) (fun g k => { g with deferrals := k }) causeAnl d.deferred.length
        let s := if d.refused == 0 then s
          else countEngine s e (·.groupRefusals) (fun g k => { g with groupRefusals := k }) causeAnl d.refused
        if late then countEngine s e (·.tableLate) (fun g k => { g with tableLate := k }) causeAnl 1 else s
    | _, _ => s

/-- ANNEAL_BATCH (R101, R103). -/
def execAnnealBatch (l r b : Nat) (s : State) : Out := act true s fun s => annealBatch s l r b

/-- TABLE_REBUILD_COMPLETE: the background table of the next step is complete; a block held for it swaps (R117). No rebuild of a
block that is saved out goes on (R118). -/
def execTableRebuildComplete (l r b : Nat) (s : State) : Out :=
  act true s fun s => withLaunch s l fun x p q =>
    match x.run? p r b with
    | some run =>
      if run.backgroundDone || x.schedule.length ≤ run.foreground + 1 || engineSaved s q run.engine then s
      else
        let run := { run with backgroundDone := true }
        s.setLaunch l (x.setRun p r b (if run.lateHeld then (stepTable x run).1 else run))
    | none => s

/-! ### Epoch boundaries (R124, R125) -/

/-- The values a block holds of a neighbour at an epoch. -/
def inboundOf (run : BlockRun) (neighbour epoch : Nat) : Option (List Bool) :=
  (run.inbound.find? fun i => i.neighbour == neighbour && i.epoch == epoch).map (·.values)

/-- The neighbour values of an epoch, by global index. -/
def lookInbound (p : Problem) (run : BlockRun) (epoch j : Nat) : Bool :=
  let nbr := nth 0 p.blockOf j
  nth false ((inboundOf run nbr epoch).getD []) ((p.block nbr).vars.idxOf j)

/-- Does a block hold every neighbour's values of an epoch? -/
def holdsAll (p : Problem) (bn : Nat) (run : BlockRun) (epoch : Nat) : Bool :=
  (p.block bn).neighbours.all fun k => (inboundOf run k epoch).isSome

/-- Step 3 of R124: the contribution, once every neighbour's values are held. -/
def contribute (p : Problem) (bn : Nat) (run : BlockRun) : BlockRun :=
  if run.phase == .ended && holdsAll p bn run run.epoch then
    let b := p.block bn
    let x := blockInterWith p b (lookInbound p run run.epoch)
    { run with phase := .contributed,
               contributions := tblPut run.contributions run.epoch
                 (2 * blockOwn p b run.bits + blockP p run.bits x, run.neural) }
  else run

/-- EPOCH_END: the snapshot is taken and the boundary values are sent (R124 steps 1 and 2); a streamed pair is paged out. -/
def epochEnd (s : State) (c r bn : Nat) : State :=
  withLaunch s c fun l p _ =>
    match l.run? p r bn with
    | some run =>
      if run.phase == .sweeping && run.sweep == l.epochEnd run.epoch then
        let keep := run.snapshots.filter fun e => run.epoch ≤ e.1 + 1 || (l.rep r).epochsDone ≤ e.1
        let run := { run with phase := .ended, snapshots := tblPut keep run.epoch run.bits,
                              pagedIn := !(l.streamed && 1 < pairsOn l run.engine) }
        s.setLaunch c (l.setRun p r bn (contribute p bn run))
      else s
    | none => s

/-- The epoch of a neighbour's values that a block can take next: its own epoch's, or the next one's (R125). -/
def nextInbound (run : BlockRun) (source : Nat) : Nat :=
  if (inboundOf run source run.epoch).isSome then run.epoch + 1 else run.epoch

/-- Put a neighbour's values into the inbound buffer of their parity (R125). -/
def receiveValues (p : Problem) (bn : Nat) (run : BlockRun) (source epoch : Nat) (values : List Bool) : BlockRun :=
  contribute p bn { run with inbound := run.inbound ++ [{ neighbour := source, epoch := epoch, values := values }] }

/-! ### Energy reduction, best capture and exchange (R124 steps 4 and 5, R128, R129, R133, R134) -/

/-- The runs of a position, by block. -/
def runsOf (l : Launch) (p : Problem) (r : Nat) : List (Nat × BlockRun) :=
  (l.runs.filter fun e => e.1 / p.nb == r).map fun e => (e.1 % p.nb, e.2)

/-- A position's whole state at the end of an epoch, from the snapshots; the old final bits where another module runs the
block. -/
def stateAt (l : Launch) (p : Problem) (r e : Nat) : List Bool :=
  (runsOf l p r).foldl (fun bits x =>
    match tblFind x.2.snapshots e with
    | some loc => ((p.block x.1).vars.zip loc).foldl (fun a v => setNth a v.1 v.2) bits
    | none => bits) (l.rep r).finalBits

/-- Is an exchange due at the end of an epoch, and the partner of a position in it (R128)? -/
def exchangePartner (l : Launch) (e r : Nat) : Option Nat :=
  if l.exchangeEpochs == 0 || (e + 1) % l.exchangeEpochs != 0 || e + 1 == l.totalEpochs then none
  else
    let odd := (e + 1) / l.exchangeEpochs % 2 == 1
    let low := if odd then r / 2 * 2 else (r + 1) / 2 * 2 - 1
    if !odd && r == 0 then none
    else if l.replicas ≤ low + 1 then none
    else some (if r == low then low + 1 else low)

/-- Add a table of trials and acceptances per step to another. -/
def addRidge (a b : Tbl (Nat × Nat)) : Tbl (Nat × Nat) :=
  b.foldl (fun t e => let o := tblGet (0, 0) t e.1; tblPut t e.1 (o.1 + e.2.1, o.2 + e.2.2)) a

/-- Best capture, trace point and counts of a position at the end of an epoch (step 4 of R124; R133, R134). -/
def capture (l : Launch) (p : Problem) (r e : Nat) : Launch :=
  let x := l.rep r
  let bits := stateAt l p r e
  let sum := x.reducedQuad + x.reducedNeural
  let better := sum < x.bestQuad + x.bestNeural
  let x := if better then
      { x with bestQuad := x.reducedQuad, bestNeural := x.reducedNeural, bestEpoch := some e, bestBits := bits }
    else x
  let x := if l.traceEpochs != 0 && (e + 1) % l.traceEpochs == 0 then { x with trace := x.trace ++ [sum] } else x
  let delta := (runsOf l p r).foldl (fun t y => addRidge t (tblGet [] y.2.counts e)) ([] : Tbl (Nat × Nat))
  let ts := (runsOf l p r).map fun y => tblGet {} y.2.tallies e
  let x := { x with ridge := addRidge x.ridge delta, trials := x.trials + (delta.map (·.2.1)).sum,
                    acceptances := x.acceptances + (delta.map (·.2.2)).sum,
                    residue := x.residue + (ts.map (·.residue)).sum, deferrals := x.deferrals + (ts.map (·.deferrals)).sum,
                    tableLate := sat32 (x.tableLate + (ts.map (·.late)).sum),
                    epochWaits := sat32 (x.epochWaits + (ts.map (·.waits)).sum) }
  let runs := l.runs.map fun y =>
    if y.1 / p.nb == r then (y.1, { y.2 with counts := tblDel y.2.counts e, tallies := tblDel y.2.tallies e }) else y
  { l with runs := runs }.setRep r x

/-- A position has passed step 5: its final values (R132). -/
def completeEpoch (l : Launch) (r e : Nat) (quad neural : Int) (bits : List Bool) : Launch :=
  l.setRep r { l.rep r with epochsDone := e + 1, finalQuad := quad, finalNeural := neural, finalBits := bits }

/-- The decision of an exchange between positions r and r + 1 at the end of an epoch (R129). -/
def exchangeAccepted (l : Launch) (p : Problem) (r e : Nat) : Bool :=
  let w := l.epochEnd e - 1
  let st := stepOf l.schedule w
  let t0 := tempUnits p.eps (tempAt l.schedule l.multipliers st r)
  let t1 := tempUnits p.eps (tempAt l.schedule l.multipliers st (r + 1))
  let a := l.rep r
  let b := l.rep (r + 1)
  let d := (1 / t0 - 1 / t1) * ((a.reducedQuad + a.reducedNeural - b.reducedQuad - b.reducedNeural : Int) : Rat)
  if 0 ≤ d then true
  else match l.seed with
    | some seed => (noise seed r 0 w 0 16 : Int) < min (expWeight (-d)) 0xFFFF
    | none => false

/-- The state a run takes over from another at an exchange; its table, engine and counts stay (R129, R156). -/
def takeState (own other : BlockRun) : BlockRun :=
  { own with bits := other.bits, x := other.x, energy := other.energy, inbound := other.inbound,
             snapshots := other.snapshots, sums := other.sums, neural := other.neural }

/-- Trade the states of two positions (R129). -/
def swapStates (l : Launch) (p : Problem) (r : Nat) : Launch :=
  (List.range p.nb).foldl (fun l b =>
    match l.run? p r b, l.run? p (r + 1) b with
    | some u, some v => (l.setRun p r b (takeState u v)).setRun p (r + 1) b (takeState v u)
    | _, _ => l) l

/-- The exchange of positions r and r + 1 once both are reduced (step 5). -/
def exchange (l : Launch) (p : Problem) (r e : Nat) : Launch :=
  let yes := exchangeAccepted l p r e
  let l := capture (capture l p r e) p (r + 1) e
  let a := l.rep r
  let b := l.rep (r + 1)
  let sa := stateAt l p r e
  let sb := stateAt l p (r + 1) e
  let l := l.setRep r { a with exchangesTried := a.exchangesTried + 1, exchangesAccepted := a.exchangesAccepted + bit01 yes }
  if yes then
    completeEpoch (completeEpoch (swapStates l p r) r e b.reducedQuad b.reducedNeural sb) (r + 1) e a.reducedQuad
      a.reducedNeural sa
  else completeEpoch (completeEpoch l r e a.reducedQuad a.reducedNeural sa) (r + 1) e b.reducedQuad b.reducedNeural sb

/-- After a reduction: complete the epoch, or exchange when the partner is reduced too. -/
def afterReduction (l : Launch) (p : Problem) (r e : Nat) : Launch :=
  match exchangePartner l e r with
  | none => let l := capture l p r e; completeEpoch l r e (l.rep r).reducedQuad (l.rep r).reducedNeural (stateAt l p r e)
  | some k => if (l.rep k).reduced == e + 1 then exchange l p (min r k) e else l

/-- The sums of a position's own contributions at an epoch, once every own block's is held. -/
def ownSums (l : Launch) (p : Problem) (r e : Nat) : Option (Int × Int) :=
  (runsOf l p r).foldl (fun a x =>
    match a, tblFind x.2.contributions e with
    | some (u, v), some (m, n) => some (u + m, v + n)
    | _, _ => none) (some (0, 0))

/-- Put a reduction's sums down (step 4 of R124). -/
def reduceWith (l : Launch) (p : Problem) (r e : Nat) (twice neural : Int) : Launch :=
  let runs := l.runs.map fun y => if y.1 / p.nb == r then (y.1, { y.2 with contributions := tblDel y.2.contributions e }) else y
  { l with runs := runs }.setRep r { l.rep r with reduced := e + 1, reducedQuad := twice / 2, reducedNeural := neural }

/-- May a position's next epoch be reduced: its last one is complete, and it is in this launch? -/
def reducible (l : Launch) (r : Nat) : Bool := r < l.reps.length && (l.rep r).reduced == (l.rep r).epochsDone

/-! ### EPOCH_START (R124 steps 6 and 7) -/

/-- Begin an epoch: X from the neighbour values of the epoch before, the table of its first sweep in force. -/
def beginEpoch (l : Launch) (p : Problem) (bn e : Nat) (look : Nat → Bool) (run : BlockRun) : BlockRun :=
  let run := { run with x := blockInterWith p (p.block bn) look, epoch := e, sweep := e * l.epochSweeps, next := 0,
                        pending := [], waited := false, phase := .sweeping }
  { run with energy := exactEnergy p bn run, inbound := run.inbound.filter fun i => e ≤ i.epoch }

/-- Has the engine ended the epoch of all its pairs (R336)? -/
def engineEnded (l : Launch) (x : BlockRun) : Bool :=
  !l.streamed || l.runs.all fun y => y.2.engine != x.engine || x.epoch < y.2.epoch ||
    (y.2.epoch == x.epoch && y.2.phase != .sweeping)

/-- Has step 5 passed, where an exchange was due (R124)? -/
def exchangePassed (l : Launch) (r e : Nat) : Bool := (exchangePartner l e r).isNone || e < (l.rep r).epochsDone

def epochStart (s : State) (c r bn : Nat) : State :=
  withLaunch s c fun l p q =>
    match l.run? p r bn with
    | some run =>
      if run.phase == .ended then
        if run.waited || l.stop ≤ run.epoch + 1 then s
        else
          let run := { run with waited := true }.tally (run.epoch + 1) fun t => { t with waits := t.waits + 1 }
          countEngine (s.setLaunch c (l.setRun p r bn run)) run.engine (·.epochWaits) (fun g k => { g with epochWaits := k }) causeAnl 1
      else if run.phase == .contributed && run.epoch + 1 < l.stop && !run.lateHeld && exchangePassed l r run.epoch &&
          engineEnded l run && !engineTaken s q run.engine then
        let l := l.setRun p r bn (beginEpoch l p bn (run.epoch + 1) (lookInbound p run run.epoch) run)
        let all := l.runs.all fun y => y.2.epoch == run.epoch + 1
        s.setLaunch c l |> fun s => if l.partition.isSome && all then oweFlow s l.flow else s
      else s
    | none => s

/-- EPOCH_START (R124, R125). The epoch message of a boundary exchange is due once every pair of the module is in the epoch (log
entry 31). -/
def execEpochStart (l r b : Nat) (s : State) : Out := act true s fun s => epochStart s l r b

/-- BLOCK_PAGE_IN_COMPLETE: the pair that runs, or the one after it, is on its engine (R336). -/
def execBlockPageInComplete (l r b : Nat) (s : State) : Out :=
  act true s fun s => withLaunch s l fun x p _ =>
    match x.run? p r b with
    | some run =>
      if x.streamed && !run.pagedIn && pairRank x (r * p.nb + b) run ≤ 1 then
        s.setLaunch l (x.setRun p r b { run with pagedIn := true })
      else s
    | none => s

/-! ### Placement (R106, R161, R163, R289, R336; DEDUCED, log entry 30) -/

/-- The states of slots A2 and A3 of an engine, not free; for a normal queue those saved out, too (R161, R229). -/
def upperSlots (s : State) (rt : Bool) (e : Nat) : List SlotState :=
  let g := s.eng e
  let saved := if rt then [] else (g.context.map (·.slots)).getD []
  (g.slots.drop 2 ++ saved.drop 2).filter (· != .free)

/-- The queues with a started command that names A2 or A3 on an engine and is not saved out for a real-time queue (R161, R229). -/
def upperQueues (s : State) (rt : Bool) (e : Nat) : List Nat :=
  (s.cmds.filter fun x => namesSlot (dOpcode x.2.desc) && 2 ≤ dSlot x.2.desc && match s.queue? x.2.queue with
    | some q => q.engines.contains e && !(rt && engineSaved s q e)
    | none => false).map (·.2.queue)

/-- May a launch take an engine for neural-term blocks: no command in flight names A2 or A3 on it, and no queue keeps an array in
either (R161)? -/
def eligible (s : State) (rt : Bool) (e : Nat) : Bool := (upperSlots s rt e).isEmpty && (upperQueues s rt e).isEmpty

/-- Is A2 or A3 of an engine with a command or array of the queue itself (R161)? -/
def ownsUpper (s : State) (rt : Bool) (queue e : Nat) : Bool :=
  (upperQueues s rt e).contains queue || (upperSlots s rt e).any fun k => match k with
    | .free => false
    | .claimed q => q == queue
    | .kept q => q == queue
    | .held q _ => q == queue

/-- What placement answers: streamed or resident, the engine of each pair, the engines held for neural-term blocks, and whether
the launch waits for one. -/
structure Placement where
  streamed : Bool
  engines : List (Nat × Nat)
  neural : List Nat
  waits : Bool
deriving DecidableEq, Repr

/-- Has a pair of a launch a neural term? -/
def isNeural (p : Problem) (k : Nat) : Bool := (p.netOf (k % p.nb)).isSome

/-- The first engine of a ring, from a place on, that a test admits. -/
def firstFrom (engines : List Nat) (start : Nat) (ok : Nat → Bool) : Option Nat :=
  let n := engines.length
  ((engines.drop (start % n)) ++ engines.take (start % n)).find? ok

/-- Slots of an engine that pairs placed so far take, at a cost per neural-term pair. -/
def slotsTaken (p : Problem) (cost : Nat) (a : List (Nat × Nat)) (e : Nat) : Nat :=
  ((a.filter fun y => y.2 == e).map fun y => if isNeural p y.1 then cost else 1).sum

/-- Put pairs into block slots, each on the next engine of a ring that has room (R106, R163; DESIGN CHOICE, log entry 30). -/
def fillSlots (p : Problem) (per cost : Nat) (ring : List Nat) (a : List (Nat × Nat)) (keys : List Nat) : List (Nat × Nat) :=
  (keys.zip (List.range keys.length)).foldl (fun a k =>
    let c := if isNeural p k.1 then cost else 1
    match firstFrom ring k.2 fun e => slotsTaken p cost a e + c ≤ per with
    | some e => a ++ [(k.1, e)]
    | none => a) a

/-- Engines of a resident launch's pairs: those with a neural term first, on eligible engines. -/
def residentEngines (p : Problem) (per cost : Nat) (offer able keys : List Nat) : List (Nat × Nat) :=
  fillSlots p per cost offer (fillSlots p per cost able [] (keys.filter (isNeural p))) (keys.filter fun k => !isNeural p k)

/-- Engines of a streamed launch's pairs: pair j on the j mod E-th engine; one with a neural term on the next eligible one from
there on (R161, R336; DEDUCED, log entry 30). -/
def streamedEngines (p : Problem) (engines able keys : List Nat) : List (Nat × Nat) :=
  (keys.zip (List.range keys.length)).map fun k =>
    let own := nth 0 engines (k.2 % engines.length)
    (k.1, if isNeural p k.1 then (firstFrom engines k.2 able.contains).getD own else own)

/-- The engines that carry neural-term pairs. -/
def neuralOf (p : Problem) (a : List (Nat × Nat)) : List Nat := ((a.filter fun y => isNeural p y.1).map (·.2)).dedup

/-- Place a launch's pairs, or 0x3C01 with the slots needed (R106, R161, R163); with an engine bound to a real-time queue in its set
it runs streamed under auto placement (R289). A launch whose neural-term pairs wait for an
engine has them on none yet. -/
def placeLaunch (s : State) (queue : Nat) (rt : Bool) (engines : List Nat) (p : Problem) (keys : List Nat) : Try Placement :=
  let per := if p.int4 then 4 else 2
  let cost := if p.int4 then 2 else 1
  let nn := (keys.filter (isNeural p)).length
  let offer := engines.filter fun e => !realTimeBound s e
  let need := nn * cost + (keys.length - nn)
  let fits := nn * cost ≤ per * (offer.filter (eligible s rt)).length && need ≤ per * offer.length
  if p.placement == 1 && !fits then flt 0x3C01 need
  else if fits && p.placement != 2 && !(p.placement == 0 && engines.any (realTimeBound s)) then
    let a := residentEngines p per cost offer (offer.filter (eligible s rt)) keys
    .ok { streamed := false, engines := a, neural := neuralOf p a, waits := false }
  else
    let able := engines.filter (eligible s rt)
    let a := streamedEngines p engines able keys
    if nn != 0 && able.isEmpty then
      if engines.all (ownsUpper s rt queue) then flt 0x3C01 need
      else .ok { streamed := true, engines := a, neural := [], waits := true }
    else .ok { streamed := true, engines := a, neural := neuralOf p a, waits := false }

/-- Hold slots A2 and A3 of an engine; for a normal queue, while normal work is saved out there, among the slots saved (R160, R229,
R230). -/
def holdOn (rt : Bool) (queue c : Nat) (g : Engine) : Engine :=
  let f := fun (l : List SlotState) => setNth (setNth l 2 (.held queue c)) 3 (.held queue c)
  match rt, g.context with
  | false, some k => { g with context := some { k with slots := f k.slots } }
  | _, _ => { g with slots := f g.slots }

/-- Hold slots A2 and A3 on the launch's neural engines (R160). -/
def holdSlots (s : State) (c queue : Nat) (l : Launch) : State :=
  let rt := (s.queue? queue).any fun q => q.kind == 1
  l.neuralEngines.foldl (fun s e => s.modEng e (holdOn rt queue c)) s

/-- The queue and launch that hold slots A2 and A3 of an engine, live or saved out (R160, R163). -/
def heldBy (g : Engine) : Option (Nat × Nat) :=
  (g.slots ++ (g.context.map (·.slots)).getD []).findSome? fun k => match k with
    | .held q l => some (q, l)
    | _ => none

/-- The neural-term pairs that stand on an engine (R163, R336). -/
def neuralOn (s : State) (e : Nat) : Nat :=
  match (heldBy (s.eng e)).bind fun h => tblFind s.spin.launches h.2 with
  | none => 0
  | some l => match tblFind s.spin.problems l.problem with
    | none => 0
    | some p => min 2 (l.runs.filter fun y => y.2.engine == e && y.2.pagedIn && isNeural p y.1).length

/-- Put pairs on their engines. -/
def withEngines (l : Launch) (a : List (Nat × Nat)) : Tbl BlockRun :=
  l.runs.map fun y => (y.1, { y.2 with engine := tblGet 0 a y.1 })

/-- Which pairs are on their engine at once: all of a resident launch, and an engine's only pair (R336). -/
def withPaging (l : Launch) : Tbl BlockRun :=
  l.runs.map fun y => (y.1, { y.2 with pagedIn := !l.streamed || pairsOn l y.2.engine ≤ 1 })

/-- Put a placement into a launch: its engines, and which pairs are on them at once. -/
def placed (l : Launch) (engines : List Nat) (x : Placement) : Launch :=
  let l := { l with engines := engines, streamed := x.streamed, neuralEngines := x.neural, waitingEngine := x.waits }
  let l := { l with runs := withEngines l x.engines }
  { l with runs := withPaging l }

/-- The pairs of a launch. -/
def Launch.keys (l : Launch) : List Nat := l.runs.map (·.1)

/-- Is a queue real-time? -/
def realTime (q : Queue) : Bool := q.kind == 1

/-- NEURAL_ENGINE_ELIGIBLE: a launch waiting at acceptance takes the eligible engines (R161). -/
def execNeuralEngineEligible (l : Nat) (s : State) : Out :=
  act true s fun s => withLaunch s l fun x p q =>
    match placeLaunch s x.queue (realTime q) x.engines { p with placement := 2 } x.keys with
    | .ok y =>
      if x.waitingEngine && !y.waits then
        let x' := placed x x.engines y
        holdSlots (s.setLaunch l x') l x.queue x'
      else s
    | .error _ => s

end Sys2Proof.Machine
end

