-- ==== Sys2Proof/Machine/Links.lean ====
section
/-! DEFINITION. Fibre pairs and their open slots, schedule banks, and the ways cascade work breaks (R355, R362, R363, R366,
R372, R375, R385-R388, R431-R433). -/

namespace Sys2Proof.Machine

/-! ### Events, logs and violations (R387-R389) -/

/-- The detail of 0x1040, 0x1041, 0x1045 and the optical violations: optical die and position (R389). -/
def pairDetail (k : Nat) : Nat := k / 24 * 256 + k % 24

/-- Log a code of a pair. -/
def logOnPair (s : State) (code k : Nat) : State := logOnDie s code (pairDetail k) (56 + k / 24)

/-- A change of a pair's state raises one event (R388). -/
def setPairState (s : State) (k : Nat) (st : PairState) : State :=
  if (s.pair k).state == st then s
  else dieEvent (s.modPair k fun x => { x with state := st }) (56 + k / 24) causeOpx

/-- A change of timing state raises one event (R388). -/
def setTiming (s : State) (t : Timing) : State :=
  if s.opx.timing == t then s else { s with opx := { s.opx with timing := t } }.fire 0x049

def countSlip (s : State) : State :=
  countGlobal s (·.opx.slipCount) (fun s v => { s with opx := { s.opx with slipCount := v } }) 0x04A 1
def countRepeat (s : State) : State :=
  countGlobal s (·.opx.repeatCount) (fun s v => { s with opx := { s.opx with repeatCount := v } }) 0x04A 1

/-- A violation by an optical peer: counted and logged (R387). -/
def violation (s : State) (code k : Nat) : State :=
  logOnPair (countGlobal s (·.opx.violations) (fun s v => { s with opx := { s.opx with violations := v } }) 0x04A 1) code k

/-! ### Broken flows and cascades (R360, R372, R386, R387) -/

/-- The command that claims a flow faults with 0x1905. -/
def breakFlow (s : State) (f : Nat) : State :=
  match (s.flow f).command with
  | some c => faultCmd s c 0x1905 f
  | none => s

/-- The flows with entries on a pair. -/
def flowsOn (s : State) (k : Nat) : List Nat :=
  (s.opx.active.all.filter fun x => entryPair x == k).foldl (fun l x => if l.contains x.2.flow then l else l ++ [x.2.flow]) []

/-- Cascade commands in flight: those of the collective family (R375, R376; DEDUCED, log entry 35). -/
def cascadeCommands (s : State) : List Nat :=
  (s.cmds.filter fun e => 0x90 ≤ dOpcode e.2.desc && dOpcode e.2.desc ≤ 0x96).map (·.1)

/-- Every cascade command in flight faults with 0x1906 (R360, R372). -/
def breakCascade (s : State) : State := (cascadeCommands s).foldl (fun s c => faultCmdOpen s c 0x1906) s

/-- A pair with nothing under way on it: no occurrences, repeats, messages or lane requests. -/
def Pair.quiet (x : Pair) : Pair :=
  { x with lost := [], awaited := [], sendRepeats := [], sentSlots := [], openQueue := [], openTurn := 0, openDue := false,
           openNext := [], openTaken := [],
           openHeld := [], openAck := 0, image := [], repeatNow := none, arriving := {}, laneAsk := none,
           errorRuns := List.replicate 9 0, badWord := false }

/-- PAIR_FENCE: a live pair is fenced, its flows broken (R386). `noKey` logs 0x1045, too. -/
def fencePair (s : State) (k : Nat) (noKey : Bool) : State :=
  if !(s.pair k).live then s
  else
    let s := if noKey then logOnPair s 0x1045 k else s
    let s := logOnPair (setPairState s k .fenced) 0x1041 k
    let s := s.modPair k Pair.quiet
    (flowsOn s k).foldl (fun s f => breakFlow (s.setFlow f { s.flow f with broken := true }) f) s

/-! ### Pairs come up and go dark (R387, R431-R433, registers of 12) -/

/-- May a pair be live: both ends named, and a hall key in a DEPLOYED module? -/
def pairAllowed (s : State) (k : Nat) : Bool :=
  (s.pair k).peerHall != 0xFFFF && s.opx.hallId != 0xFFFF && s.sec.lifecycle == 2 && s.sec.hallKey.isSome

/-- The identities of a pair's own and far end (R432). -/
def ownId (s : State) (k : Nat) : List Byte := linkId s.opx.hallId (k / 24) (k % 24)
def peerId (s : State) (k : Nat) : List Byte := linkId (s.pair k).peerHall (s.pair k).peerDie (s.pair k).peerPos

/-- The hall key in use. -/
def hallKeyBytes (s : State) : List Byte := s.sec.hallKey.getD []

/-- The boot keys of a pair in an epoch, and its keys from both nonces (R432). -/
def bootKeys (s : State) (k e : Nat) : LinkKey :=
  { epoch := e, boot := true, tx := bootKeyOf (hallKeyBytes s) (ownId s k) (peerId s k) e,
    rx := bootKeyOf (hallKeyBytes s) (peerId s k) (ownId s k) e }
def linkKeys (s : State) (k e : Nat) (own peer : List Byte) : LinkKey :=
  { epoch := e, boot := false, tx := linkKeyOf (hallKeyBytes s) (ownId s k) (peerId s k) e own peer,
    rx := linkKeyOf (hallKeyBytes s) (peerId s k) (ownId s k) e peer own }

/-- The epoch a pair's newest keys are of. -/
def Pair.keyEpoch (x : Pair) : Option Nat := x.keys.head?.map (·.epoch)

/-- New keys; those of the epoch before stay for repeats of its last frames (R356). -/
def Pair.takeKeys (n : LinkKey) (x : Pair) : Pair :=
  { x with keys := n :: (x.keys.filter fun o => o.epoch + 1 == n.epoch), ownNonce := none, peerNonce := none, nonceDue := false }

/-- The keys of the epoch that a frame lies in. -/
def Pair.keyOf (x : Pair) (frame : Nat) : Option LinkKey := x.keys.find? fun n => n.epoch == frame / 2 ^ 19

/-- A pair comes up with the boot key of the epoch (R432). -/
def bringUp (s : State) (k : Nat) : State :=
  let x := s.pair k
  let st := if x.txSpare.isSome || x.rxSpare.isSome then PairState.spare else PairState.up
  let n := bootKeys s k (s.opx.frame / 2 ^ 19)
  setPairState (s.modPair k fun x => { (x.quiet.takeKeys n) with keys := [n], mismatch := false }) k st

/-- A pair follows what allows it: it goes dark, or a dark one comes up. -/
def refreshPair (s : State) (k : Nat) : State :=
  let x := s.pair k
  if pairAllowed s k then (if x.state == .dark && !s.sec.keyBlockRefuses then bringUp s k else s)
  else if x.state == .dark then s
  else
    setPairState (s.modPair k fun x =>
      { x.quiet with keys := [], ownNonce := none, peerNonce := none, nonceDue := false, mismatch := false }) k .dark

/-- Every pair of the module. -/
def allPairs : List Nat := List.range 144
def refreshPairs (s : State) : State := allPairs.foldl refreshPair s

/-! ### The open slot (R366) -/

/-- Queue a management message for a pair's open slot, with the next sequence number of its type. -/
def openSend (s : State) (k : Nat) (m : OpenMessage) : State :=
  if (s.pair k).live then
    s.modPair k fun x =>
      let (type, data) := m.wire
      let n := tblGet 0 x.openNext type
      { x with openQueue := x.openQueue ++ [{ type := type, seq := n, data := data }],
               openNext := tblPut x.openNext type ((n + 1) % 2 ^ 32) }
  else s

/-- The lowest-numbered live pair that leads to a hall_id (R375). -/
def pairTo (s : State) (hall : Nat) : Option Nat := allPairs.find? fun k => (s.pair k).peerHall == hall && (s.pair k).live

/-- Send a management message to a hall_id. -/
def openTo (s : State) (hall : Nat) (m : OpenMessage) : State :=
  match pairTo s hall with
  | some k => openSend s k m
  | none => s

/-- Send a schedule image in messages of 608 bytes (R366, R382). -/
def imageTo (s : State) (hall : Nat) (img : List Byte) : State :=
  (List.range ((img.length + 607) / 608)).foldl (fun s i => openTo s hall (.imagePart ((img.drop (608 * i)).take 608))) s

/-! ### Nonces (R417, R421, R432) -/

/-- The generator that serves an optical die (R417). -/
def nonceHost (k : Nat) : Port := if k / 24 < 3 then .A else .B

/-- A link cipher asks for its nonce; a source in permanent fault answers with an error at once (R422). -/
def askNonce (s : State) (k : Nat) : State :=
  let h := nonceHost k
  let r : EntRequest := .linkNonce (k / 24) (k % 24)
  if (s.host h).ent.state == .permanentFault then
    (consumerError s h).modPair k fun x => { x with nonceDue := true }
  else if (s.host h).ent.waiting.contains r then s
  else s.modHost h fun x => { x with ent := { x.ent with waiting := x.ent.waiting ++ [r] } }

/-- The epoch a nonce is asked for (R432). -/
def nextEpoch (s : State) : Nat := s.opx.frame / 2 ^ 19 + 1

/-- A nonce is there: it is kept and sent in an open-slot message (R432). -/
def giveNonce (s : State) (k : Nat) (v : List Byte) : State :=
  if (s.pair k).live then
    openSend (s.modPair k fun x => { x with ownNonce := some (nextEpoch s, v), nonceDue := false }) k (.nonce (nextEpoch s) v)
  else s

/-! ### Schedule banks (R362, R363, R382) -/

/-- A schedule entry from its 16 bytes, and whether its fields are in the ranges that do not depend on P and O. -/
def entryOf (b : List Byte) : SchedEntry :=
  { start := fieldOf b 0 4, len := fieldOf b 4 4, pair := fieldOf b 8 1, transmit := fieldOf b 9 1 == 0,
    cadence := fieldOf b 0xA 1, phase := fieldOf b 0xB 1, flow := fieldOf b 0xC 2, origin := fieldOf b 0xE 1 }

/-- Does an entry break the ranges of R362? -/
def entryBad (o : Optical) (b : List Byte) : Bool :=
  let e := entryOf b
  e.start % 544 != 0 || e.start < 544 || 544 * (openStart o - 1) < e.start || e.len % 544 != 0 || e.len < 544 ||
  544 * openStart o < e.start + e.len || 23 < e.pair || 1 < fieldOf b 9 1 || 6 < e.cadence || 2 ^ e.cadence ≤ e.phase ||
  e.flow == 0 || 63 < e.origin || fieldOf b 0xF 1 != 0

/-- Do two entries of one die overlap (R363)? -/
def entriesMeet (a b : SchedEntry) : Bool :=
  a.pair == b.pair && a.transmit == b.transmit && a.start < b.start + b.len && b.start < a.start + a.len &&
    a.phase % 2 ^ min a.cadence b.cadence == b.phase % 2 ^ min a.cadence b.cadence

/-- The parts of a schedule image: its version and the 16 bytes of each die's entries (R382). -/
def imageEntries (img : List Byte) : List (List (List Byte)) :=
  let counts := (List.range 6).map fun d => fieldOf img (8 + 2 * d) 2
  (List.range 6).map fun d =>
    let first := (counts.take d).sum
    (List.range (nth 0 counts d)).map fun i => (img.drop (32 + 16 * (first + i))).take 16

def imageBank (img : List Byte) : SchedBank :=
  { version := fieldOf img 0 4, entries := (imageEntries img).map fun l => l.map entryOf }

/-- Is the i-th entry of a die invalid, beside its own ranges (R363)? -/
def entryRefused (s : State) (b : SchedBank) (d i : Nat) (e : SchedEntry) : Bool :=
  !(s.pair (pairKey d e.pair)).live ||
  (e.transmit && e.origin != s.opx.member && !(b.all.any fun x => !x.2.transmit && x.2.flow == e.flow && x.2.origin == e.origin)) ||
  ((nth [] b.entries d).take i).any fun x => entriesMeet x e

/-- The first entry that breaks R363: die in bits 15:12, entry number in bits 11:0 (DEDUCED, log entry 35). -/
def bankBad (s : State) (b : SchedBank) (rangeBad : Nat → Nat → Bool) : Option Nat :=
  (List.range 6).findSome? fun d =>
    let l := nth [] b.entries d
    ((l.zip (List.range l.length)).find? fun e => rangeBad d e.2 || entryRefused s b d e.2 e.1).map fun e => d * 4096 + e.2

/-- The first invalid entry of an image. -/
def imageBad (s : State) (img : List Byte) : Option Nat :=
  let es := imageEntries img
  bankBad s (imageBank img) fun d i => entryBad s.opx (nth [] (nth [] es d) i)

/-- Put an image into the pending banks (R365 step 1). -/
def loadPending (s : State) (img : List Byte) : State := { s with opx := { s.opx with pendingBank := imageBank img } }

/-- Disarm the pending banks. -/
def disarm (s : State) : State := { s with opx := { s.opx with armed := false, transom := 0, acked := [] } }

/-- Arm the pending banks for a transom frame (R365 step 2). -/
def arm (s : State) (frame : Nat) : State := { s with opx := { s.opx with armed := true, transom := frame, acked := [] } }

/-- The other members of the cascade. -/
def otherMembers (s : State) : List Nat := (List.range s.opx.members).filter (· != s.opx.member)

/-- Send every other member a message; the lead reaches each through its lowest-numbered pair (R375). -/
def tellMembers (s : State) (m : OpenMessage) : State :=
  (otherMembers s).foldl (fun s k => openTo s (Config.memberHall k) m) s

end Sys2Proof.Machine
end

