-- ==== Sys2Proof/Machine/Launch.lean ====
section
/-! DEFINITION. The anneal family: launch and its checks, continuation, result area, ladder, result read (R109-R141), and
what a boundary exchange adds to a run (R381). -/

namespace Sys2Proof.Machine

/-! ### Launch records and schedules (R110-R115) -/

/-- Fields of a launch record. -/
structure Ask where
  head : List Byte
deriving DecidableEq, Repr

def Ask.u (a : Ask) (off n : Nat) : Nat := fieldOf a.head off n
def Ask.replicas (a : Ask) : Nat := a.u 0x2C 1
def Ask.epochSweeps (a : Ask) : Nat := a.u 0x20 4
def Ask.reproducible (a : Ask) : Bool := bit (a.u 0x2F 1) 0

/-- The launch record's fields at fault (order 1 of R141): in a reserved field the lowest nonzero byte, as in the schedule header
(DESIGN CHOICE, log entry 47). -/
def askFields (a : Ask) : List (Nat × Bool) :=
  [(0x20, a.epochSweeps == 0 || 4096 < a.epochSweeps), (0x2C, a.replicas == 0 || 64 < a.replicas),
   (0x2D, decide (1 < a.u 0x2D 1)), (0x2E, decide (1 < a.u 0x2E 1)), (0x2F, decide (1 < a.u 0x2F 1))] ++
    ((List.range 8).map fun i => (0x38 + i, a.u (0x38 + i) 1 != 0))

/-- Temperatures of forms 0 and 1 from step s on, the last one given (R113). -/
def temperatures (form t0 param : Nat) : Nat → Nat → Nat → List Nat
  | 0, _, _ => []
  | n + 1, s, last =>
    let t := if s == 0 then t0
      else if form == 0 then fp32Code (vMul false (fp32 last) (fp32 param))
      else fp32Code (vAdd false (fp32 t0) (vMul false (.real s) (fp32 param)))
    t :: temperatures form t0 param n (s + 1) t

/-- The schedule header's fields at fault (order 2 of R141). -/
def scheduleFields (h : List Byte) : List (Nat × Bool) :=
  [(0x00, decide (2 < fieldOf h 0 1)), (0x01, fieldOf h 1 1 != 0), (0x02, fieldOf h 2 2 == 0 || 1024 < fieldOf h 2 2),
   (0x04, fieldOf h 0 1 < 2 && fieldOf h 4 4 == 0)] ++ ((List.range 8).map fun i => (0x18 + i, fieldOf h (0x18 + i) 1 != 0))

/-- Read the schedule: (temperature, sweeps) per step (R112, R113). -/
def readSchedule (s : State) (q : Queue) (addr : Nat) : Try (List (Nat × Nat)) :=
  match readVa s q.port q.pasid addr 32 with
  | .error e => .error e
  | .ok h =>
    match needFields 0x6C11 (scheduleFields h) with
    | .error e => .error e
    | .ok _ =>
      let n := fieldOf h 2 2
      if fieldOf h 0 1 == 2 then
        match readArray s q (fieldOf h 0x10 8) 8 n with
        | .error e => .error e
        | .ok l =>
          let es := l.map fun e => (bits e 0 32, bits e 32 32)
          match firstWhere (fun e => e.2 == 0) es with
          | some k => flt 0x6C11 (2 ^ 31 + k)
          | none => .ok es
      else .ok ((temperatures (fieldOf h 0 1) (fieldOf h 8 4) (fieldOf h 0xC 4) n 0 0).map fun t => (t, fieldOf h 4 4))

/-- The ladder of a launch: multipliers as FP32 codes (R127). -/
def ladderOf (p : Problem) (replicas : Nat) : Try (List Nat) :=
  match p.ladder with
  | none => .ok (List.replicate replicas 0x3F800000)
  | some l =>
    if replicas ≤ 1 then .ok [0x3F800000]
    else if l.length == replicas then .ok l else flt 0x6C13 (min l.length replicas)

/-- Order 4: the lowest step, then position, whose temperature is out of range. -/
def checkTemps (p : Problem) (sched : List (Nat × Nat)) (mult : List Nat) : Try Unit :=
  match (List.range (sched.length * mult.length)).find? fun k =>
      (tempScale p.eps (tempAt sched mult (k / mult.length) (k % mult.length))).isNone with
  | some k => flt 0x6C12 (k / mult.length + k % mult.length * 2 ^ 16)
  | none => .ok ()

/-! ### The result area (R130-R134) -/

def Launch.steps (l : Launch) : Nat := l.schedule.length
def stateBytes (n : Nat) : Nat := roundUp 64 ((n + 7) / 8)
def Launch.tracePoints (l : Launch) : Nat := if l.traceEpochs == 0 then 0 else l.totalEpochs / l.traceEpochs
def Launch.offBest (l : Launch) : Nat := 0x80 + 128 * l.replicas
def Launch.offFinal (l : Launch) (p : Problem) : Nat := l.offBest + l.replicas * stateBytes p.n
def Launch.offRidge (l : Launch) (p : Problem) : Nat := l.offFinal p + l.replicas * stateBytes p.n
def Launch.offTrace (l : Launch) (p : Problem) : Nat := l.offRidge p + 16 * l.replicas * l.steps
def Launch.areaSize (l : Launch) (p : Problem) : Nat := l.offTrace p + 8 * l.replicas * l.tracePoints

/-- The epochs every position has completed. -/
def Launch.epochsDone (l : Launch) : Nat := (l.reps.map (·.epochsDone)).foldl min l.stop

/-- The result header (R131). A snapshot before the seed has come holds 0 in seed_used, and trace_points of 2^32 or more leaves its
low 32 bits (DESIGN CHOICE, log entry 47). -/
def resultHeader (draw : Nat) (l : Launch) (p : Problem) (complete : Bool) : List Byte :=
  let done := l.epochsDone
  natLe 8 ((l.seed.getD 0).toNat) ++ natLe 8 l.totalSweeps ++ natLe 8 (min (done * l.epochSweeps) l.totalSweeps) ++
    natLe 8 l.totalEpochs ++ natLe 8 done ++ natLe 8 p.vanishedCouplings ++ natLe 8 p.escapedCouplings ++
    natLe 4 (stateBytes p.n) ++ natLe 4 l.tracePoints ++ natLe 8 l.offBest ++ natLe 8 (l.offFinal p) ++
    natLe 8 (l.offRidge p) ++ natLe 8 (l.offTrace p) ++ natLe 2 l.steps ++ natLe 1 l.replicas ++
    natLe 1 (expByte draw p.eps) ++ natLe 1 (bit01 l.concurrent) ++ natLe 1 (bit01 l.heatBath) ++
    natLe 1 (l.headFlags + 4 * bit01 complete) ++ zeros 1 ++ natLe 4 p.constant ++ natLe 4 l.epochSweeps ++
    natLe 4 l.exchangeEpochs ++ natLe 4 l.traceEpochs ++ zeros 8

/-- A replica record (R132). -/
def replicaRecord (x : Replica) : List Byte :=
  natLe 8 (ofSigned 64 x.bestQuad) ++ natLe 8 (ofSigned 64 x.bestNeural) ++
    natLe 8 (x.bestEpoch.getD 0xFFFFFFFFFFFFFFFF) ++ natLe 8 (ofSigned 64 x.finalQuad) ++
    natLe 8 (ofSigned 64 x.finalNeural) ++ natLe 8 x.epochsDone ++ natLe 8 x.trials ++ natLe 8 x.acceptances ++
    natLe 8 x.exchangesTried ++ natLe 8 x.exchangesAccepted ++ natLe 8 x.residue ++ natLe 8 x.deferrals ++
    natLe 4 (min 0xFFFFFFFF x.tableLate) ++ natLe 4 (min 0xFFFFFFFF x.epochWaits) ++ zeros 24

/-- A state in the result area (R130). -/
def areaState (n : Nat) (bits : List Bool) : List Byte :=
  let b := bytesOfBits bits
  b ++ zeros (stateBytes n - b.length)

/-- The whole area (R130, R134). -/
def resultArea (draw : Nat) (l : Launch) (p : Problem) (complete : Bool) : List Byte :=
  resultHeader draw l p complete ++ l.reps.flatMap replicaRecord ++ (l.reps.flatMap fun x => areaState p.n x.bestBits) ++
    (l.reps.flatMap fun x => areaState p.n x.finalBits) ++
    (l.reps.flatMap fun x => (List.range l.steps).flatMap fun k =>
      let t := tblGet (0, 0) x.ridge k
      natLe 8 t.1 ++ natLe 8 t.2) ++
    (l.reps.flatMap fun x => (List.range l.tracePoints).flatMap fun k => natLe 8 (ofSigned 64 (nth 0 x.trace k)))

/-! ### Continuation (R136) -/

/-- The prior header's fields that differ from this launch. An eps that no byte holds is not compared (DESIGN CHOICE, log entry
47). -/
def priorFields (h : List Byte) (l : Launch) (p : Problem) (reproducible : Bool) (seed : Nat) : List (Nat × Bool) :=
  [(0x00, reproducible && seed != 0 && seed != fieldOf h 0 8), (0x08, fieldOf h 0x08 8 != l.totalSweeps),
   (0x28, fieldOf h 0x28 8 != p.vanishedCouplings), (0x30, fieldOf h 0x30 8 != p.escapedCouplings),
   (0x60, fieldOf h 0x60 2 != l.steps), (0x62, fieldOf h 0x62 1 != l.replicas),
   (0x63, toSigned 8 (fieldOf h 0x63 1) != p.eps && -128 ≤ p.eps && p.eps ≤ 127),
   (0x64, fieldOf h 0x64 1 != bit01 l.concurrent), (0x65, fieldOf h 0x65 1 != bit01 l.heatBath),
   (0x66, bit (fieldOf h 0x66 1) 2), (0x68, fieldOf h 0x68 4 != p.constant),
   (0x6C, fieldOf h 0x6C 4 != l.epochSweeps), (0x70, fieldOf h 0x70 4 != l.exchangeEpochs),
   (0x74, fieldOf h 0x74 4 != l.traceEpochs)]

/-- A position's record taken up from a prior area; `counts` false leaves its trials to another member (R381). -/
def resumeReplica (area : List Byte) (l : Launch) (p : Problem) (done : Nat) (counts : Bool) (r : Nat) : Replica :=
  let rec8 := fun (o : Nat) => fieldOf area (0x80 + 128 * r + o) 8
  let int8 := fun (o : Nat) => toSigned 64 (rec8 o)
  let st := fun (off : Nat) => stateBits p.n (area.drop (off + r * stateBytes p.n))
  let be := rec8 0x10
  let npts := if l.traceEpochs == 0 then 0 else min l.tracePoints (done / l.traceEpochs)
  { bestQuad := int8 0, bestNeural := int8 8, bestEpoch := if be == 0xFFFFFFFFFFFFFFFF then none else some be,
    bestBits := st l.offBest, finalQuad := int8 0x18, finalNeural := int8 0x20, finalBits := st (l.offFinal p),
    reduced := done, epochsDone := done, trials := if counts then rec8 0x30 else 0,
    acceptances := if counts then rec8 0x38 else 0, exchangesTried := rec8 0x40, exchangesAccepted := rec8 0x48,
    residue := rec8 0x50, deferrals := rec8 0x58, tableLate := fieldOf area (0x80 + 128 * r + 0x60) 4,
    epochWaits := fieldOf area (0x80 + 128 * r + 0x64) 4,
    ridge := if counts then (List.range l.steps).map fun k =>
        let o := l.offRidge p + 16 * (r * l.steps + k)
        (k, (fieldOf area o 8, fieldOf area (o + 8) 8))
      else [],
    trace := (List.range npts).map fun k => toSigned 64 (fieldOf area (l.offTrace p + 8 * (r * l.tracePoints + k)) 8) }

/-- A position of a fresh run (R133). -/
def freshReplica (p : Problem) : Replica :=
  let e := energyOf p p.init
  { bestQuad := e.1, bestNeural := e.2, bestBits := p.init, finalQuad := e.1, finalNeural := e.2, finalBits := p.init }

/-! ### Acceptance (R141) -/

/-- The run of a pair at the start of a launch (R97, R156). -/
def firstRun (l : Launch) (p : Problem) (r b e : Nat) : BlockRun :=
  let bits := (l.rep r).finalBits
  let w := e * l.epochSweeps
  let run : BlockRun := { engine := 0, bits := (p.block b).local bits, foreground := stepOf l.schedule w }
  if e < l.totalEpochs then beginEpoch l p b e (fun j => nth false bits j) (withSums p b run) else withSums p b run

/-- The pairs a launch runs here, by position, then block (R336, R381). -/
def ownKeys (s : State) (p : Problem) (replicas : Nat) (partition : Option (List Nat)) : List Nat :=
  (List.range (replicas * p.nb)).filter fun k => match partition with
    | none => true
    | some m => nth 0 m k == s.opx.member

/-- Read the prior area and check it (orders 5 and 6): the header's seed and flags, the epochs done, the positions. -/
def readPrior (s : State) (q : Queue) (a : Ask) (seed : Nat) (l : Launch) (p : Problem) :
    Try (Option (Nat × Nat × Nat × List Replica)) :=
  let addr := a.u 0x18 8
  if addr == 0 then .ok none
  else match readVa s q.port q.pasid addr 128 with
    | .error e => .error e
    | .ok h =>
      match needFields 0x6C15 (priorFields h l p a.reproducible seed) with
      | .error e => .error e
      | .ok _ =>
        match readVa s q.port q.pasid addr (l.areaSize p) with
        | .error e => .error e
        | .ok area =>
          let done := fieldOf h 0x20 8
          let counts := l.partition.isNone || s.opx.member == 0
          let reps := (List.range l.replicas).map (resumeReplica area l p done counts)
          match reps.findSome? fun x => badGroup p.groupsOf x.finalBits with
          | some g => flt 0x6C09 g
          | none => .ok (some (fieldOf h 0 8, bit01 (bit (fieldOf h 0x66 1) 0), done, reps))

/-- Check a launch and form it (R141); its engines are placed. The KiB that the detail of 0x6C14 gives are cut to its 32 bits (R130;
DESIGN CHOICE, log entry 47). -/
def acceptLaunch (s : State) (x : Cmd) (q : Queue) (partition : Option (List Nat)) (flow : Nat) :
    Try (Launch × Problem × Placement) :=
  let d := x.desc
  match needProblem s q.port (dField d 0x20 8) false with
  | .error e => .error e
  | .ok (pi, p) =>
    match readVa s q.port q.pasid (dField d 0x10 8) 64 with
    | .error e => .error e
    | .ok head =>
      let a : Ask := { head := head }
      let keys := ownKeys s p a.replicas partition
      match placeLaunch s x.queue (realTime q) q.engines p keys with
      | .error e => .error e
      | .ok place =>
        match needFields 0x6C10 (askFields a) with
        | .error e => .error e
        | .ok _ =>
          match readSchedule s q (a.u 0 8) with
          | .error e => .error e
          | .ok sched =>
            match ladderOf p a.replicas with
            | .error e => .error e
            | .ok mult =>
              match checkTemps p sched mult with
              | .error e => .error e
              | .ok _ =>
                let l : Launch :=
                  { queue := x.queue, problem := pi, resultAddr := a.u 8 8, schedule := sched,
                    epochSweeps := a.epochSweeps, exchangeEpochs := a.u 0x24 4, traceEpochs := a.u 0x28 4,
                    replicas := a.replicas, concurrent := a.u 0x2D 1 == 1, heatBath := a.u 0x2E 1 == 1,
                    headFlags := bit01 a.reproducible, start := 0, stop := 0, engines := q.engines,
                    multipliers := mult, partition := partition, flow := flow }
                match readPrior s q a (dField d 0x18 8) l p with
                | .error e => .error e
                | .ok prior =>
                  match need (l.areaSize p ≤ a.u 0x10 8) 0x6C14 (kib (l.areaSize p)) with
                  | .error e => .error e
                  | .ok _ =>
                    let from0 := (prior.map fun y => y.2.2.1).getD 0
                    let top := l.totalEpochs
                    let most := a.u 0x30 8
                    let l := { l with
                      start := from0, stop := if most == 0 then top else min (from0 + most) top,
                      headFlags := match prior with
                        | some y => y.2.1 + 2
                        | none => l.headFlags,
                      seed := match prior with
                        | some y => some (dw y.1)
                        | none => if a.reproducible then some (dw (dField d 0x18 8)) else none,
                      reps := match prior with
                        | some y => y.2.2.2
                        | none => List.replicate a.replicas (freshReplica p) }
                    .ok ({ l with runs := keys.map fun k => (k, firstRun l p (k / p.nb) (k % p.nb) from0) }, p, place)

/-- The result area as a range the launch is writing (R135): from the moment its seed is there (R122). -/
def resultDest (l : Launch) (p : Problem) : List (Nat × Nat) := [(l.resultAddr, l.areaSize p)]

/-- Ask the port's generator for a run seed (R122, R417). -/
def askSeed (s : State) (p : Port) (c : Nat) : State :=
  s.modHost p fun h => { h with ent := { h.ent with waiting := h.ent.waiting ++ [.runSeed c] } }

/-- Start an accepted launch: its runs placed, its slots held, its seed asked for when it has none (R110, R122, R160). -/
def startLaunch (c : Nat) (s : State) (x : Cmd) (q : Queue) (l : Launch) (p : Problem) (place : Placement)
    (asks : Bool) : Done :=
  if l.seed.isNone && asks && (s.host q.port).ent.state == .permanentFault then
    .bad (consumerError { s with draws := s.draws + 1 } q.port) 0x8E01 (Config.openDetail 0x8E01 s.draws % 2 ^ 32) 0 false
  else
    let l := placed l q.engines place
    let s := holdSlots (s.setLaunch c l) c x.queue l
    let s := if l.seed.isNone && asks then askSeed s q.port c else s
    .run (s.modCmd c fun y => { y with dests := if l.seed.isSome then resultDest l p else [] })

/-- ANNEAL_LAUNCH (R110, R141). -/
def annealLaunchBody (c : Nat) (s : State) (x : Cmd) (q : Queue) : Done :=
  within (acceptLaunch s x q none 0) fun (l, p, place) => startLaunch c s x q l p place true

def execAnnealLaunch (c : Nat) (s : State) : Out := act true s fun s => runCmd s c 0x60 (annealLaunchBody c)

/-! ### The header of a boundary exchange (R367, R377, R381; DESIGN CHOICE, log entry 31) -/

def signedBytes (v : Int) : List Byte := natLe 8 (ofSigned 64 v)
def expBytes : Option Int → List Byte
  | some e => natLe 1 1 ++ signedBytes e
  | none => natLe 1 0

/-- The stored form of a list of couplings and of its side list (R77, R78). -/
def couplingBytes (l : List Coupling) (side : List SideEntry) : List Byte :=
  natLe 8 l.length ++ (l.flatMap fun c => natLe 4 c.i ++ natLe 4 c.j ++ signedBytes c.code) ++
    natLe 8 side.length ++ side.flatMap fun e => natLe 4 e.row ++ natLe 4 e.col ++ natLe 4 e.code

/-- The stored form of a block. -/
def Block.formBytes (b : Block) : List Byte :=
  natLe 4 b.vars.length ++ b.vars.flatMap (natLe 4) ++ expBytes b.eb ++ couplingBytes b.intra b.intraSide ++
    couplingBytes b.inter b.interSide ++ natLe 4 b.groups.length ++
    b.groups.flatMap fun g => natLe 4 g.1 ++ natLe 4 g.2.length ++ g.2.flatMap (natLe 4)

/-- The stored form of a network (R153). -/
def Net.formBytes (t : Net) : List Byte :=
  natLe 4 t.nIn ++ natLe 4 t.w1 ++ [t.e1, t.e2, t.e3, t.ea1, t.ea2, t.outShift, t.b3].flatMap signedBytes ++ natLe 8 t.nMax ++
    (t.w1cols.flatten ++ t.b1 ++ t.w2rows.flatten ++ t.b2 ++ t.w3).flatMap signedBytes

/-- The stored form of a problem. -/
def Problem.formBytes (p : Problem) : List Byte :=
  natLe 4 p.n ++ natLe 1 (bit01 p.spin) ++ natLe 1 (bit01 p.int4) ++ natLe 8 p.storedBytes ++ signedBytes p.eps ++ expBytes p.ex ++
    p.blocks.flatMap Block.formBytes ++ p.h.flatMap signedBytes ++ natLe 4 p.constant ++ bytesOfBits p.init ++
    natLe 4 p.blockNet.length ++ p.blockNet.flatMap fun e => natLe 4 e.1 ++ ((tblFind p.nets e.2).map Net.formBytes).getD []

/-- The seed that a launch names itself: none in a non-reproducible run that is no continuation (R122, R136, R377). -/
def Launch.ownSeed (l : Launch) : List Byte := natLe 8 (if l.headFlags % 4 == 0 then 0 else (l.seed.getD 0).toNat)

/-- The digest of the launch record without result_addr, result_bytes and prior_addr, the seed, the stored form, and the partition
record (R377). -/
def launchDigest (head : List Byte) (l : Launch) (p : Problem) : List Byte :=
  shake256 32 (head.take 8 ++ head.drop 0x20 ++ l.ownSeed ++ p.formBytes ++ natLe 4 p.nb ++ natLe 1 l.replicas ++
    (l.partition.getD []).map (BitVec.ofNat 8))

/-- The header of a contribution of a length; the first one's gives the run seed (R381). -/
def launchHeader (l : Launch) (further : Bool) (length : Nat) : List Byte :=
  commandHeader 0x92 0 0 0 0 further length (natLe 8 (l.seed.getD 0).toNat) l.digest

/-- Hand a further message of a boundary exchange over. -/
def handPart (s : State) (l : Launch) (b : List Byte) : State := handOver s l.flow (launchHeader l true b.length ++ b)

/-- Begin the module's own contribution; the first epoch message is due from then on. -/
def beginStream (s : State) (l : Launch) : State :=
  let s := handOver s l.flow (launchHeader l false 0)
  if l.start < l.stop then oweFlow s l.flow else s

/-- RUN_SEED_ARRIVAL: the run's seed is there, and sweeping may begin (R122). -/
def execRunSeedArrival (l : Nat) (s : State) : Out :=
  act true s fun s => withLaunch s l fun x p _ =>
    match x.seed, x.seedSent with
    | none, some v =>
      let x' := { x with seed := some v, seedSent := none }
      let s := (s.setLaunch l x').modCmd l fun y => { y with dests := resultDest x p }
      if x.partition.isSome then beginStream s x' else s
    | _, _ => s

/-! ### Ladder set and result read (R127, R138) -/

/-- Is a multiplier not positive, finite and normal, or below the one before it (R127)? -/
def badMultiplier (l : List Nat) (k : Nat) : Bool :=
  let c := nth 0 l k
  let e := bits c 23 8
  bit c 31 || e == 0 || e == 255 || (0 < k && c < nth 0 l (k - 1))

/-- LADDER_SET (R127). -/
def ladderSetBody (s : State) (x : Cmd) (q : Queue) : Done :=
  let d := x.desc
  let addr := dField d 0x10 8
  within (needIdle s q.port (dField d 0x20 8) false) fun (i, p) =>
    if addr == 0 then .ok (s.setProblem i { p with ladder := none }) 0
    else
      within (readArray s q addr 4 1) fun n =>
        let n := nth 0 n 0
        within (need (n != 0 && n ≤ 64) 0x6C13 0xFFFFFFFF) fun _ =>
          within (readArray s q (addr + 4) 4 n) fun l =>
            match (List.range n).find? (badMultiplier l) with
            | some k => .stop (.fault 0x6C13 k false)
            | none => .ok (s.setProblem i { p with ladder := some l }) 0

def execLadderSet (c : Nat) (s : State) : Out := act true s fun s => runCmd s c 0x61 ladderSetBody

/-- Write a snapshot that is kept with its command. -/
def writeSnapshot (s : State) (x : Cmd) (q : Queue) (area : List Byte) : Done :=
  within (writeVa s q.port q.pasid (dField x.desc 0x18 8) area) fun s' => .ok s' 0

/-- RESULT_READ: the launch is read as it stood when the read was accepted, however long the write waits (R138).
Of two launches with one result_addr the lower numbered is read; the blocks of other members stand in the snapshot of a cascade
launch as they did at its start (DESIGN CHOICE, log entry 47). -/
def resultReadBody (c : Nat) (s : State) (x : Cmd) (q : Queue) : Done :=
  let d := x.desc
  match x.kept with
  | (_, area) :: _ => writeSnapshot s x q area
  | [] =>
    within (needProblem s q.port (dField d 0x20 8) false) fun (i, p) =>
      match s.spin.launches.find? fun e => e.2.problem == i && e.2.resultAddr == dField d 0x10 8 with
      | none => .stop (.faultOpen 0x4C21)
      | some (_, l) =>
        within (need (l.areaSize p ≤ dField d 0x28 8) 0x6C14 (kib (l.areaSize p))) fun _ =>
          let area := resultArea s.draws l p false
          let s := { s with draws := s.draws + 1 }.modCmd c fun y => { y with kept := [(0, area)] }
          keeping s (writeSnapshot s x q area)

def execResultRead (c : Nat) (s : State) : Out := act true s fun s => runCmd s c 0x62 (resultReadBody c)

/-! ### What a boundary exchange sends and takes (R381) -/

/-- The member of a pair. -/
def memberOf (l : Launch) (k : Nat) : Nat := match l.partition with
  | some m => nth 0 m k
  | none => 0

/-- The pairs of a member. -/
def keysOf (l : Launch) (p : Problem) (m : Nat) : List Nat :=
  (List.range (l.replicas * p.nb)).filter fun k => memberOf l k == m

/-- The local indices of the variables that carry inter-block couplings (R123). -/
def boundaryOf (b : Block) : List Nat := (List.range b.vars.length).filter fun k => b.inter.any fun c => c.i == k

/-- A block's boundary bits, padded to a byte. -/
def boundaryBytes (b : Block) (bits : List Bool) : List Byte := bytesOfBits ((boundaryOf b).map fun k => nth false bits k)
def bitBytes (n : Nat) : Nat := (n + 7) / 8

/-- The boundary bits of a member's pairs from its epoch message. -/
def parseBoundary (p : Problem) : List Nat → List Byte → Tbl (List Bool)
  | [], _ => []
  | k :: rest, bytes =>
    let b := p.block (k % p.nb)
    let idx := boundaryOf b
    let vals := stateBits idx.length bytes
    tblPut (parseBoundary p rest (bytes.drop (bitBytes idx.length))) k
      ((idx.zip vals).foldl (fun a e => setNth a e.1 e.2) (List.replicate b.vars.length false))

/-- Bytes of a member's boundary bits. -/
def boundaryLen (l : Launch) (p : Problem) (m : Nat) : Nat :=
  ((keysOf l p m).map fun k => bitBytes (boundaryOf (p.block (k % p.nb))).length).sum

/-- Send the next part of an epoch message that is ready: boundary bits, then the sums of every position. -/
def sendPart (s : State) (c : Nat) (l : Launch) (p : Problem) : State :=
  let e := l.start + l.sent / 2
  let next := { l with sent := l.sent + 1 }
  if l.sent % 2 == 0 then
    if l.runs.all fun y => (tblFind y.2.snapshots e).isSome then
      handPart (s.setLaunch c next) l
        (l.runs.flatMap fun y => boundaryBytes (p.block (y.1 % p.nb)) ((tblFind y.2.snapshots e).getD []))
    else s
  else
    let sums := (List.range l.replicas).map fun r => ownSums l p r e
    if sums.all (·.isSome) then
      handPart (s.setLaunch c next) l
        (sums.flatMap fun x => signedBytes (x.getD (0, 0)).1 ++ signedBytes (x.getD (0, 0)).2)
    else s

/-- Send every part that is ready, in a cascade. -/
def sendParts (s : State) (c : Nat) : State :=
  (List.range 2).foldl (fun s _ =>
    match tblFind s.spin.launches c with
    | some l => match tblFind s.spin.problems l.problem with
      | some p => if l.partition.isSome then sendPart s c l p else s
      | none => s
    | none => s) s

/-- The launch of a command while it goes on. -/
def going (s : State) (c : Nat) : Option Launch := (tblFind s.spin.launches c).filter fun l => l.record.isNone

/-- Take the first headers that have come: compare each with the module's own, and take a run seed from member 0's (R377, R381). -/
def meetHeaders (s : State) (c : Nat) (p : Problem) : State :=
  (otherMembers s).foldl (fun s m =>
    match going s c with
    | none => s
    | some l =>
      if l.headers.contains m then s
      else match takeRx s l.flow m 64 with
        | none => s
        | some (h, s') =>
          if !headersAgree (launchHeader l false 0) h || headerFurther h then faultCmd s' c 0x1904 m
          else
            let l' := { l with headers := m :: l.headers }
            if m == 0 && l.seed.isNone then
              (s'.setLaunch c { l' with seed := some (headerSeed h) }).modCmd c fun y => { y with dests := resultDest l p }
            else s'.setLaunch c l') s

/-- Take a further message of n bytes from a member, once it is there; a header that differs faults the command (R377). -/
def takePart (s : State) (c : Nat) (l : Launch) (m n : Nat) : Option (List Byte) × State :=
  match takeRx s l.flow m 64 with
  | none => (none, s)
  | some (h, _) =>
    if !headersAgree (launchHeader l true n) h || !headerFurther h || headerLength h != n then (none, faultCmd s c 0x1904 m)
    else match takeRx s l.flow m (64 + n) with
      | none => (none, s)
      | some (b, s') => (some (b.drop 64), s')

/-- Take the boundary bits a member has sent of an epoch, if they have come. -/
def pullBits (s : State) (c : Nat) (p : Problem) (m e : Nat) : State :=
  match going s c with
  | none => s
  | some l =>
    if !l.headers.contains m || l.remotes.any (fun x => x.member == m && x.epoch == e) then s
    else match takePart s c l m (boundaryLen l p m) with
      | (none, s') => s'
      | (some b, s') =>
        s'.setLaunch c { l with remotes := l.remotes ++ [{ member := m, epoch := e, bits := parseBoundary p (keysOf l p m) b }] }

/-- Take a member's sums of an epoch, if its bits have been taken and the sums have come. -/
def pullSums (s : State) (c : Nat) (m e : Nat) : State :=
  match going s c with
  | none => s
  | some l =>
    if !(l.remotes.any fun x => x.member == m && x.epoch == e && x.sums.isNone) then s
    else match takePart s c l m (16 * l.replicas) with
      | (none, s') => s'
      | (some b, s') =>
        let sums := (List.range l.replicas).map fun r =>
          (toSigned 64 (fieldOf b (16 * r) 8), toSigned 64 (fieldOf b (16 * r + 8) 8))
        s'.setLaunch c { l with remotes := l.remotes.map fun x =>
          if x.member == m && x.epoch == e then { x with sums := some sums } else x }

/-- BOUNDARY_VALUES_RECEIVED: a neighbour's values of an epoch reach a block (R125, R126, R381). -/
def boundaryReceived (s : State) (c r bn source : Nat) : State :=
  withLaunch s c fun l p _ =>
    match l.run? p r bn, s.cmd? c with
    | some run, some _ =>
      let e := nextInbound run source
      if !((p.block bn).neighbours.contains source) || (inboundOf run source e).isSome then s
      else if l.own s p r source then
        match (l.run? p r source).bind fun y => tblFind y.snapshots e with
        | some v => sendParts (s.setLaunch c (l.setRun p r bn (receiveValues p bn run source e v))) c
        | none => s
      else
        let m := memberOf l (r * p.nb + source)
        let s := pullBits (meetHeaders s c p) c p m e
        match going s c with
        | none => s
        | some l2 =>
            match (l2.remotes.find? fun y => y.member == m && y.epoch == e).bind fun y => tblFind y.bits (r * p.nb + source) with
            | some v => sendParts (s.setLaunch c (l2.setRun p r bn (receiveValues p bn run source e v))) c
            | none => s
    | _, _ => s

def execBoundaryValuesReceived (l r b source : Nat) (s : State) : Out :=
  act true s fun s => boundaryReceived s l r b source

/-- EPOCH_END (R124 steps 1 and 2), and what of the epoch message is then ready (R381). -/
def execEpochEnd (l r b : Nat) (s : State) : Out := act true s fun s => sendParts (epochEnd s l r b) l

/-- The sums every other member has sent of a position's epoch. -/
def remoteSums (s : State) (l : Launch) (r e : Nat) : Option (Int × Int) :=
  (otherMembers s).foldl (fun a m =>
    match a, (l.remotes.find? fun x => x.member == m && x.epoch == e).bind (·.sums) with
    | some (u, v), some sums => some (u + (nth (0, 0) sums r).1, v + (nth (0, 0) sums r).2)
    | _, _ => none) (some (0, 0))

/-- The pairs of positions an exchange is due for at an epoch, by their lower position. -/
def duePairs (l : Launch) (e : Nat) : List Nat :=
  (List.range l.replicas).filter fun r => exchangePartner l e r == some (r + 1)

/-- The pairs a member must send in an exchange message: those it runs whose counterpart another member runs. -/
def exchangeKeys (l : Launch) (p : Problem) (accepted : List Nat) (m : Nat) : List Nat :=
  accepted.flatMap fun r => (List.range p.nb).flatMap fun b =>
    let u := r * p.nb + b
    let v := (r + 1) * p.nb + b
    if memberOf l u == memberOf l v then [] else if memberOf l u == m then [u] else if memberOf l v == m then [v] else []

/-- Bits of blocks from an exchange or completion message. -/
def parseBlocks (p : Problem) : List Nat → List Byte → Tbl (List Bool)
  | [], _ => []
  | k :: rest, bytes =>
    let n := (p.block (k % p.nb)).vars.length
    tblPut (parseBlocks p rest (bytes.drop (bitBytes n))) k (stateBits n bytes)
def blocksLen (p : Problem) (keys : List Nat) : Nat := (keys.map fun k => bitBytes (p.block (k % p.nb)).vars.length).sum

/-- The pair of the other position. -/
def counterpart (p : Problem) (accepted : List Nat) (k : Nat) : Nat :=
  if accepted.contains (k / p.nb) then k + p.nb else k - p.nb

/-- Put bits received in an exchange into a run; its fields are formed afresh at the next epoch (R381). -/
def takeBits (p : Problem) (k e : Nat) (v : List Bool) (run : BlockRun) : BlockRun :=
  withSums p (k % p.nb) { run with bits := v, snapshots := tblPut run.snapshots e v }

/-- Take every other member's exchange message; none until all have come, when the state given keeps them all. -/
def pullExchange (s : State) (c : Nat) (l : Launch) (p : Problem) (accepted : List Nat) : Option (Tbl (List Bool)) × State :=
  (otherMembers s).foldl (fun (a : Option (Tbl (List Bool)) × State) m =>
    match a with
    | (none, s') => (none, s')
    | (some t, s') =>
      let keys := exchangeKeys l p accepted m
      match takePart s' c l m (blocksLen p keys) with
      | (none, s2) => (none, if (going s2 c).isSome then s else s2)
      | (some b, s2) => (some ((parseBlocks p keys b).foldl (fun t e => tblPut t e.1 e.2) t), s2)) (some [], s)

/-- The states traded in an exchange: local pairs by swapping, the others from the messages; inbound values move with the
state where both are here, and are formed from the neighbours' afresh elsewhere. -/
def tradeAll (l : Launch) (p : Problem) (accepted : List Nat) (e : Nat) (got : Tbl (List Bool)) : Launch :=
  let runs := l.runs.map fun y =>
    if !(accepted.contains (y.1 / p.nb) || (0 < y.1 / p.nb && accepted.contains (y.1 / p.nb - 1))) then y
    else
      let o := counterpart p accepted y.1
      match tblFind l.runs o, tblFind got o with
      | some v, _ => (y.1, takeState y.2 v)
      | none, some bits => (y.1, takeBits p y.1 e bits y.2)
      | none, none => y
  { l with runs := runs }

/-- The neighbour values a traded state brings: what the neighbours of its old position had at the end of the epoch, here
or as other members sent them (R129, R381). -/
def tradeInbound (old l : Launch) (p : Problem) (accepted : List Nat) (e : Nat) : Launch :=
  let runs := l.runs.map fun y =>
    if !(accepted.contains (y.1 / p.nb) || (0 < y.1 / p.nb && accepted.contains (y.1 / p.nb - 1))) then y
    else
      let o := counterpart p accepted y.1
      let inb := (p.block (y.1 % p.nb)).neighbours.filterMap fun nb =>
        let k := o / p.nb * p.nb + nb
        match tblFind old.runs k,
            (old.remotes.find? fun x => x.member == memberOf old k && x.epoch == e).bind fun x => tblFind x.bits k with
        | some v, _ => (tblFind v.snapshots e).map fun bits => { neighbour := nb, epoch := e, values := bits : Inbound }
        | none, some bits => some { neighbour := nb, epoch := e, values := bits : Inbound }
        | none, none => none
      (y.1, { y.2 with inbound := inb })
  { l with runs := runs }

/-- The exchange of a cascade at an epoch, once every position is reduced: send, wait for the others, trade (R381). -/
def cascadeExchange (s : State) (c : Nat) (l : Launch) (p : Problem) (e : Nat) : State :=
  let due := duePairs l e
  let accepted := due.filter fun r => exchangeAccepted l p r e
  let (s, l) := if l.swapped < 2 * e + 1 then
      let b := (exchangeKeys l p accepted s.opx.member).flatMap fun k =>
        bytesOfBits (((tblFind l.runs k).map (·.bits)).getD [])
      let l := { l with swapped := 2 * e + 1 }
      (handPart (s.setLaunch c l) l b, l)
    else (s, l)
  if l.swapped != 2 * e + 1 then s
  else match pullExchange s c l p accepted with
    | (none, s) => s
    | (some got, s) =>
      let l := (List.range l.replicas).foldl (fun l r => capture l p r e) l
      let old := l
      let l := tradeInbound l (tradeAll l p accepted e got) p accepted e
      let l := (List.range l.replicas).foldl (fun l r =>
        let from_ := if accepted.contains r then r + 1 else if 0 < r && accepted.contains (r - 1) then r - 1 else r
        let x := l.rep r
        let tried := due.contains r
        let l := l.setRep r { x with exchangesTried := x.exchangesTried + bit01 tried,
                                     exchangesAccepted := x.exchangesAccepted + bit01 (accepted.contains r) }
        completeEpoch l r e (old.rep from_).reducedQuad (old.rep from_).reducedNeural (stateAt l p r e)) l
      s.setLaunch c { l with swapped := 2 * e + 2 }

/-- ENERGY_REDUCTION (R124 steps 4 and 5). -/
def energyReduction (s : State) (c r : Nat) : State :=
  withLaunch s c fun l p _ =>
    if l.partition.isNone then
      if !reducible l r then s
      else
        let e := (l.rep r).reduced
        match ownSums l p r e with
        | some (u, v) => s.setLaunch c (afterReduction (reduceWith l p r e u v) p r e)
        | none => s
    else
        let e := (l.rep r).epochsDone
        let s := (otherMembers s).foldl (fun s m => pullSums (pullBits s c p m e) c m e) (meetHeaders s c p)
        match going s c with
        | none => s
        | some l =>
            let l := if !reducible l r then l
              else match ownSums l p r e, remoteSums s l r e with
                | some (u, v), some (m, n) => reduceWith l p r e (u + m) (v + n)
                | _, _ => l
            if (duePairs l e).isEmpty then
              if (l.rep r).reduced == e + 1 then
                let l := capture l p r e
                s.setLaunch c (completeEpoch l r e (l.rep r).reducedQuad (l.rep r).reducedNeural (stateAt l p r e))
              else s.setLaunch c l
            else if l.reps.all fun y => y.reduced == e + 1 then cascadeExchange (s.setLaunch c l) c l p e
            else s.setLaunch c l

def execEnergyReduction (l r : Nat) (s : State) : Out := act true s fun s => energyReduction s l r

/-! ### LAUNCH_COMPLETE (R135, R381) -/

/-- The module's completion message: best and final bits of its pairs, then the counts of every position. -/
def completionBytes (l : Launch) (p : Problem) : List Byte :=
  (l.runs.flatMap fun y =>
    let x := l.rep (y.1 / p.nb)
    bytesOfBits ((p.block (y.1 % p.nb)).local x.bestBits) ++ bytesOfBits ((p.block (y.1 % p.nb)).local x.finalBits)) ++
  l.reps.flatMap fun x => natLe 8 x.trials ++ natLe 8 x.acceptances ++ (List.range l.steps).flatMap fun k =>
    natLe 8 (tblGet (0, 0) x.ridge k).1 ++ natLe 8 (tblGet (0, 0) x.ridge k).2

/-- Put a block's bits into a state. -/
def putBlock (p : Problem) (k : Nat) (v bits : List Bool) : List Bool :=
  ((p.block (k % p.nb)).vars.zip v).foldl (fun a e => setNth a e.1 e.2) bits

/-- Merge the best and final bits of a member's pairs. -/
def mergePairs (p : Problem) : List Nat → List Byte → Launch → Launch
  | [], _, l => l
  | k :: rest, bytes, l =>
    let n := (p.block (k % p.nb)).vars.length
    let w := bitBytes n
    let x := l.rep (k / p.nb)
    let x := { x with bestBits := putBlock p k (stateBits n bytes) x.bestBits,
                      finalBits := putBlock p k (stateBits n (bytes.drop w)) x.finalBits }
    mergePairs p rest (bytes.drop (2 * w)) (l.setRep (k / p.nb) x)

/-- Merge a member's completion message. -/
def mergeMember (l : Launch) (p : Problem) (m : Nat) (b : List Byte) : Launch :=
  let keys := keysOf l p m
  let l1 := mergePairs p keys b l
  let tail := b.drop (2 * blocksLen p keys)
  let w := 16 + 16 * l.steps
  (List.range l.replicas).foldl (fun l r =>
    let x := l.rep r
    let t := tail.drop (w * r)
    l.setRep r { x with trials := x.trials + fieldOf t 0 8, acceptances := x.acceptances + fieldOf t 8 8,
                        ridge := addRidge x.ridge ((List.range l.steps).map fun k =>
                          (k, (fieldOf t (16 + 16 * k) 8, fieldOf t (24 + 16 * k) 8))) }) l1

/-- Exchange completion messages; the launch, and whether every member's has been merged. -/
def meetCompletion (s : State) (c : Nat) (l : Launch) (p : Problem) : State :=
  let me := s.opx.member
  let s := if l.merged.contains me then s
    else handPart (s.setLaunch c { l with merged := me :: l.merged }) l (completionBytes l p)
  (otherMembers s).foldl (fun s m =>
    match going s c with
    | none => s
    | some l =>
      if l.merged.contains m then s
      else match takePart s c l m (2 * blocksLen p (keysOf l p m) + l.replicas * (16 + 16 * l.steps)) with
        | (none, s') => s'
        | (some b, s') => s'.setLaunch c { mergeMember l p m b with merged := m :: l.merged }) s

/-- The result of a launch (R111). -/
def launchResult (l : Launch) : BitVec 128 := BitVec.ofNat 128 ((l.seed.getD 0).toNat + l.epochsDone * 2 ^ 64)

/-- Write the result area, then the record (R135). -/
def finishLaunch (s : State) (c : Nat) (q : Queue) (l : Launch) (p : Problem) : State :=
  match writeVa { s with draws := s.draws + 1 } q.port q.pasid l.resultAddr
      (resultArea s.draws l p (l.stop == l.totalEpochs)) with
  | .ok s' => finishCmd s' c 0 0 (launchResult l) false false
  | .error (.fault code detail logged) => faultAs s c code detail logged
  | .error (.page pasid pg w) => (askPage s q.port pasid pg w).modCmd c fun x => { x with page := some (pasid, pg, w) }
  | .error _ => s

def launchComplete (s : State) (c : Nat) : State :=
  withLaunch s c fun l p q =>
    if l.seed.isNone || l.epochsDone < l.stop then s
    else if l.partition.isNone then finishLaunch s c q l p
    else
      let s := meetCompletion s c l p
      match going s c with
      | some l => if l.merged.length == s.opx.members then finishLaunch s c q l p else s
      | none => s

/-- LAUNCH_COMPLETE (R135). -/
def execLaunchComplete (l : Nat) (s : State) : Out := act true s fun s => launchComplete s l

end Sys2Proof.Machine
end

