-- ==== Sys2Proof/Machine/Tensor.lean ====
section
/-! DEFINITION. The tensor family: copy and convert (R193-R195). -/

namespace Sys2Proof.Machine

/-- Do two tensors have equal dims? -/
def sameDims (a b : Tensor) : Bool := a.dims4 == b.dims4

/-- The two records of copy and convert, with checks 1 to 3 of R197; `refused` says what R194 does not permit. -/
def tensorPair (s : State) (x : Cmd) (q : Queue) (refused : Tensor → Tensor → Bool) : Try (Operand × Operand) :=
  match readOperands s q x.kept [(0, dField x.desc 0x10 8, true, false), (1, dField x.desc 0x18 8, false, true)] with
  | .error e => .error e
  | .ok [a, b] =>
    match check1 [a, b] with
    | .error e => .error e
    | .ok _ =>
      match check2 (if refused a.t b.t then [1] else []) [a, b] with
      | .error e => .error e
      | .ok _ =>
        match check3 [a, b] with
        | .error e => .error e
        | .ok _ => .ok (a, b)
  | .ok _ => .error .hold

/-- A copy's records must have the same format, storage, dims and, for VB storage, escape budget (R194). -/
def copyRefused (a b : Tensor) : Bool :=
  a.format != b.format || a.storage != b.storage || !sameDims a b || (a.storage.isVb && a.budget != b.budget)

/-- The slots of a copy: escapes and exponent as they are, tags for the destination's blocks (R194). -/
def retag (slots : List Nat) : List Nat :=
  (slots.zip (List.range slots.length)).map fun e => slotEscapes e.1 * 2 ^ 12 + slotExp e.1 * 2 ^ 4 + blockTag e.2

/-- The byte runs a copy writes: rows, slots, side entries and count, the ACC64 scale word last (R194, R214).
Row bytes are the source's, its padding and unused nibble among them (DESIGN CHOICE, log entry 48). -/
def copyWrites (s : State) (q : Queue) (l : Loaded) (dst : Tensor) : Try (List (Nat × List Byte)) :=
  match tryMap (fun r =>
      match readVa s q.port q.pasid (l.t.rowAddr r) l.t.rowBytes with
      | .error e => .error e
      | .ok b => match rowVals l r b with
        | .error e => .error e
        | .ok _ => .ok b) (List.range l.t.rows) with
  | .error e => .error e
  | .ok rows =>
    let im : Image := { rows := rows, slots := retag l.slots, side := l.side, tally := {} }
    .ok (imageWrites dst im ++
      (if dst.storage == .acc64 then [(dst.scaleAddr, natLe 8 (ofSigned 16 l.scale + l.depth * 2 ^ 16))] else []))

/-- COPY (R194). -/
def copyBody (slips : List TagSlip) (s : State) (x : Cmd) (q : Queue) : Done :=
  within (tensorPair s x q copyRefused) fun (a, b) =>
    let same := a.t.raw == b.t.raw
    within (if same then .ok () else overlapWith s q b.t [a]) fun _ =>
      within (loadOperands s q [a]) fun ls =>
        match ls with
        | [l] =>
          let cap := if b.t.sideAddr == 0 then 0 else b.t.sideCap
          within (if same || l.side.length ≤ cap then .ok () else flt 0x6004 (l.side.length % 2 ^ 32)) fun _ =>
            let dests := if same then [] else b.t.destExtent
            paired s x q slips [a] dests fun _ =>
              writing s q dests (copyWrites s q l b.t) fun ws =>
                if same then .ok s 0
                else writing s q dests (writeRuns s q ws) fun s' => .ok s' 0
        | _ => .stop .hold

def execCopy (c : Nat) (slips : List TagSlip) (s : State) : Out := act true s fun s => runCmd s c 0x10 (copyBody slips)

/-- A convert's dims must be equal, and its destination may not be ACC64 (R194). -/
def convertRefused (a b : Tensor) : Bool := !sameDims a b || b.storage == .acc64

/-- CONVERT (R194). -/
def convertBody (slips : List TagSlip) (s : State) (x : Cmd) (q : Queue) : Done :=
  within (tensorPair s x q convertRefused) fun (a, b) =>
    within (overlapWith s q b.t [a]) fun _ =>
      within (loadOperands s q [a]) fun ls =>
        match ls with
        | [l] =>
          paired s x q slips [a] b.t.destExtent fun _ =>
            writing s q b.t.destExtent (readValues s q l) fun vals =>
              writing s q b.t.destExtent (writeTensor s q b.t vals) fun (s', a) => .ok s' a.result
        | _ => .stop .hold

def execConvert (c : Nat) (slips : List TagSlip) (s : State) : Out :=
  act true s fun s => runCmd s c 0x11 (convertBody slips)

end Sys2Proof.Machine
end

