-- ==== Sys2Proof/Machine/Matrix.lean ====
section
/-! DEFINITION. The matrix and reduction families: slots, group sequences, combination, commit (R198-R210, R215-R227,
R233). -/

namespace Sys2Proof.Machine

/-! ### Fields of a slot-naming descriptor (R208, R215, R221) -/

def dScale (d : Desc) : Int := toSigned 16 (dField d 0x30 2)
def dAddTo (d : Desc) : Bool := bit (dField d 0x33 1) 0
def dKeep (d : Desc) : Bool := bit (dField d 0x33 1) 1
def dNoWrite (d : Desc) : Bool := bit (dField d 0x33 1) 2
def dStrict (d : Desc) : Bool := bit (dField d 0x33 1) 3
def dFuse (d : Desc) : Nat := dField d 0x34 1
def dFuseRec (d : Desc) : Nat := dField d 0x28 8

/-- fuse_op, and fuse_rec that must be nonzero exactly when fuse_op is (R218). -/
def fuseFields (d : Desc) : List (Nat × Bool) :=
  [(0x28, (dFuse d != 0) != (dFuseRec d != 0)), (0x34, 2 < dFuse d)]

/-- The fields of 0x20, 0x21 and 0x30 judged from the descriptor alone (order 1 of R233). -/
def slotFields (d : Desc) : List (Nat × Bool) :=
  (0x30, dScale d < -320 || 320 < dScale d) :: (0x32, decide (3 < dSlot d)) ::
  (0x33, 16 ≤ dField d 0x33 1 || (dNoWrite d && !dKeep d)) ::
  (if dNoWrite d then [(0x28, dFuseRec d != 0), (0x34, dFuse d != 0)] else fuseFields d)

/-- The parameters of a convolution at fault (R215). -/
def convFields (d : Desc) : List (Nat × Bool) :=
  ([0x35, 0x36, 0x37, 0x38].map fun o => (o, dField d o 1 == 0 || 16 < dField d o 1)) ++
  ([0x39, 0x3A].map fun o => (o, dField d o 1 == 0 || 8 < dField d o 1)) ++
  ([0x3B, 0x3C].map fun o => (o, decide (15 < dField d o 1)))

/-! ### Claims (R209 step 1, R225) -/

/-- May a queue claim a slot in this state; the launch of its own queue that holds it makes it wait (R225, R226)? -/
inductive Claim where
  | granted
  | waits
  | refused
deriving DecidableEq, Repr

def claimOf (queue : Nat) : SlotState → Claim
  | .free => .granted
  | .claimed q => if q == queue then .waits else .refused
  | .kept q => if q == queue then .granted else .refused
  | .held q _ => if q == queue then .waits else .refused

/-- The claims of a slot in ascending engine order: the first refusal faults with its engine (R225, R227); a claim waits out a
known-answer test (R211). -/
def claimCheck (s : State) (queue slot : Nat) : List Nat → Try Unit
  | [] => .ok ()
  | e :: rest =>
    match claimOf queue (nth .free (s.eng e).slots slot) with
    | .refused => flt 0x3032 e
    | .waits => match claimCheck s queue slot rest with
      | .error (.fault c d l) => .error (.fault c d l)
      | _ => .error .hold
    | .granted =>
      match claimCheck s queue slot rest with
      | .ok _ => if (s.eng e).draining then .error .hold else .ok ()
      | .error x => .error x

/-- Mark a slot on every engine of a queue. -/
def markSlots (s : State) (engines : List Nat) (slot : Nat) (x : SlotState) : State :=
  engines.foldl (fun s e => s.modEng e fun g => { g with slots := setNth g.slots slot x }) s

/-- Discard the array a queue keeps in a slot (R219, R228). -/
def discardArray (s : State) (queue slot : Nat) (engines : List Nat) : State :=
  { markSlots s engines slot .free with arrays := tblDel s.arrays (arrayKey queue slot) }

/-! ### Records and shapes -/

/-- Does a storage enter a matrix command (R171), or a sum (R222)? -/
def matrixStorage : Storage → Bool
  | .fp32 | .int32 | .acc64 => false
  | _ => true

/-- The group size of a storage (R171, R202). -/
def groupOf : Storage → Nat
  | .int4 | .vb4 => 16
  | .int8 | .uint8z | .vb8 | .e4m3 | .e5m2 => 8
  | _ => 4

/-- The records of a slot-naming command: its sources, then c_rec unless no_write, then fuse_rec if any (R190). -/
def slotOperands (d : Desc) (sources : List Nat) : List (Nat × Nat × Bool × Bool) :=
  let src := (sources.zip (List.range sources.length)).map fun e => (e.2, dField d e.1 8, true, false)
  let n := sources.length
  src ++ (if dNoWrite d && dOpcode d != 0x22 then []
    else (n, dField d 0x20 8, false, true) :: (if dFuseRec d == 0 then [] else [(n + 1, dFuseRec d, true, false)]))

/-- Destination and fuse against the destination's dims (order 3 of R233). -/
def destShape (os : List Operand) (n : Nat) (dims : List Nat) : Try Unit :=
  match operandOf os n with
  | none => .ok ()
  | some c =>
    if c.dims4 != dims then flt 0x3033 0x20
    else match operandOf os (n + 1) with
      | none => .ok ()
      | some f => need (f.dims4 == dims && c.storage != .acc64) 0x3033 0x28

/-- The overlaps of a destination: with each source, and with a fuse tensor that is not the same record (R194, R218). -/
def destOverlap (s : State) (q : Queue) (os : List Operand) (n : Nat) : Try Unit :=
  match operandOf os n with
  | none => .ok ()
  | some c => overlapWith s q c (os.filter fun o => o.num < n || (o.num == n + 1 && o.t.raw != c.raw))

/-- R197 checks 2 to 7 of a slot-naming command with n sources. -/
def slotStreams (s : State) (q : Queue) (os : List Operand) (n : Nat) (refused : List Nat) : Try (List Loaded) :=
  match check2 refused os with
  | .error e => .error e
  | .ok _ =>
    match check3 os with
    | .error e => .error e
    | .ok _ =>
      match destOverlap s q os n with
      | .error e => .error e
      | .ok _ => loadOperands s q os

/-- The shape of a command: destination dims, reduction length, group size. -/
structure Shape where
  dims : List Nat
  kLen : Nat
  group : Nat
deriving DecidableEq, Repr

/-- Width and height of a convolution's output (R217). -/
def convOut (n pad dil k stride : Nat) : Int := ((n : Int) + 2 * pad - dil * (k - 1 : Nat) - 1) / stride + 1

/-- The shape of matrix multiply (R216). -/
def matrixShape (a b : Tensor) : Try Shape :=
  if b.dim 0 == a.dim 0 && (b.dim 2 == a.dim 2 || b.dim 2 == 1) && (b.dim 3 == a.dim 3 || b.dim 3 == 1) then
    .ok { dims := [b.dim 1, a.dim 1, a.dim 2, a.dim 3], kLen := a.dim 0, group := min (groupOf a.storage) (groupOf b.storage) }
  else flt 0x3033 0x18

/-- The shape of convolve (R217). -/
def convShape (d : Desc) (a b : Tensor) : Try Shape :=
  let kw := dField d 0x35 1
  let kh := dField d 0x36 1
  let wo := convOut (a.dim 1) (dField d 0x3B 1) (dField d 0x39 1) kw (dField d 0x37 1)
  let ho := convOut (a.dim 2) (dField d 0x3C 1) (dField d 0x3A 1) kh (dField d 0x38 1)
  if b.dim 0 != a.dim 0 * kw * kh || b.dim 2 != 1 || b.dim 3 != 1 then flt 0x3033 0x18
  else if wo < 1 then flt 0x3033 0x35
  else if ho < 1 then flt 0x3033 0x36
  else .ok { dims := [b.dim 1, wo.toNat, ho.toNat, a.dim 3], kLen := a.dim 0 * kw * kh,
             group := min (groupOf a.storage) (groupOf b.storage) }

/-- The shape of sum (R222). -/
def sumShape (a : Tensor) : Shape :=
  { dims := [1, a.dim 1, a.dim 2, a.dim 3], kLen := a.dim 0, group := groupOf a.storage }

/-- The source records of a slot-naming opcode. -/
def sourcesOf (opcode : Nat) : List Nat := if opcode == 0x30 then [0x10] else if opcode == 0x22 then [] else [0x10, 0x18]

/-- The shape of a command from its operands. -/
def shapeOf (d : Desc) (os : List Operand) : Try Shape :=
  match operandOf os 0, operandOf os 1 with
  | some a, b =>
    if dOpcode d == 0x30 then .ok (sumShape a)
    else match b with
      | some b => if dOpcode d == 0x21 then convShape d a b else matrixShape a b
      | none => .error .hold
  | none, _ => .error .hold

/-- Sources whose storage the command does not admit (R171, R222). -/
def refusedSources (d : Desc) (os : List Operand) : List Nat :=
  (os.filter fun o => o.num < (sourcesOf (dOpcode d)).length &&
    !(matrixStorage o.t.storage || (dOpcode d == 0x30 && o.t.storage != .acc64))).map (·.num)

/-! ### Array checks (orders 6 to 8 of R233) -/

/-- Add-to against the array in the slot, the capacity of R200, and a lost array. -/
def arrayCheck (s : State) (x : Cmd) (q : Queue) (dims : List Nat) : Try Unit :=
  let d := x.desc
  let arr := tblFind s.arrays (arrayKey x.queue (dSlot d))
  let limit := 0x4000 * q.engines.length
  match (if dAddTo d then
      match arr with
      | none => needOpen false 0x3034
      | some a => needOpen (a.dims == dims && a.base == dScale d) 0x3034
    else .ok ()) with
  | .error e => .error e
  | .ok _ =>
    if (dKeep d || dAddTo d) && limit < elemCount dims then flt 0x3035 limit
    else match arr with
      | some a => needOpen (!(dAddTo d && a.lost)) 0x3037
      | none => .ok ()

/-- Start a slot-naming command: every check of R233, then step 1 of R209. -/
def startSlot (c : Nat) (s : State) (x : Cmd) (q : Queue) : Done :=
  let d := x.desc
  let srcs := sourcesOf (dOpcode d)
  let n := srcs.length
  within (needDesc d 0x3033 (slotFields d ++ (if dOpcode d == 0x21 then convFields d else []))) fun _ =>
    within (readOperands s q x.kept (slotOperands d srcs)) fun os =>
      within (check1 os) fun _ =>
        within (shapeOf d os) fun sh =>
          within (destShape os n sh.dims) fun _ =>
            within (slotStreams s q os n (refusedSources d os)) fun _ =>
              within (claimCheck s x.queue (dSlot d) q.engines) fun _ =>
                within (arrayCheck s x q sh.dims) fun _ =>
                  let job : AccJob :=
                    { records := os.map (·.t.raw), slot := dSlot d, base := dScale d, strict := dStrict d,
                      addTo := dAddTo d, keep := dKeep d, noWrite := dNoWrite d, dims := sh.dims, kLen := sh.kLen,
                      group := sh.group, fuse := x.fuse }
                  let dests := match operandOf os n with
                    | some t => if dKeep d || dAddTo d then [] else t.destExtent
                    | none => []
                  let s1 := markSlots s q.engines (dSlot d) (.claimed x.queue)
                  let kept := ((slotOperands d srcs).map (·.2.1)).zip job.records
                  .run ({ s1 with jobs := tblPut s1.jobs c job }.modCmd c fun y => { y with dests := dests, kept := kept })

/-- MATRIX_MULTIPLY (R216, R209 step 1). -/
def execMatrixMultiply (c : Nat) (s : State) : Out := act true s fun s => runCmd s c 0x20 (startSlot c)

/-- CONVOLVE (R217, R209 step 1). -/
def execConvolve (c : Nat) (s : State) : Out := act true s fun s => runCmd s c 0x21 (startSlot c)

/-- SUM (R222, R209 step 1). -/
def execSum (c : Nat) (s : State) : Out := act true s fun s => runCmd s c 0x30 (startSlot c)

/-! ### Group sequences (R202-R204) -/

/-- The operands of a running command, from its records. -/
def jobOperands (d : Desc) (j : AccJob) : List Operand :=
  let n := (sourcesOf (dOpcode d)).length
  (j.records.zip (List.range j.records.length)).map fun e =>
    { num := e.2, t := tensorOf e.1, reads := e.2 != n, writes := e.2 == n }

/-- A row's values. -/
def readRow (s : State) (q : Queue) (l : Loaded) (r : Nat) : Try (List Val) :=
  match readVa s q.port q.pasid (l.t.rowAddr r) l.t.rowBytes with
  | .error e => .error e
  | .ok b => rowVals l r b

/-- The element of a row at an index, with its number for a fault. -/
def elemAt (s : State) (q : Queue) (l : Loaded) (i r : Nat) : Try Rat :=
  match readRow s q l r with
  | .error e => .error e
  | .ok vs => finiteElem l.num (r * l.t.dim 0 + i) (nth (.real 0) vs i)

/-- Indices of an element of a shape. -/
def unflat (dims : List Nat) (el : Nat) : Nat × Nat × Nat × Nat :=
  let d0 := nth 1 dims 0
  let d1 := nth 1 dims 1
  let d2 := nth 1 dims 2
  (el % d0, el / d0 % d1, el / (d0 * d1) % d2, el / (d0 * d1 * d2))

/-- The product of matrix multiply at reduction index k (R216). -/
def matrixTerm (s : State) (q : Queue) (a b : Loaded) (dims : List Nat) (el k : Nat) : Try Rat :=
  let (n, m, p, tau) := unflat dims el
  let pb := if b.t.dim 2 == 1 then 0 else p
  let tb := if b.t.dim 3 == 1 then 0 else tau
  match elemAt s q a k (a.t.rowOf m p tau), elemAt s q b k (b.t.rowOf n pb tb) with
  | .ok u, .ok v => .ok (u * v)
  | .error e, _ => .error e
  | _, .error e => .error e

/-- The product of convolve at reduction index k; outside the input an exact zero (R217). -/
def convTerm (s : State) (q : Queue) (d : Desc) (a b : Loaded) (dims : List Nat) (el k : Nat) : Try Rat :=
  let (f, x, y, n) := unflat dims el
  let cc := a.t.dim 0
  let kw := dField d 0x35 1
  let ax : Int := x * dField d 0x37 1 + k / cc % kw * dField d 0x39 1 - (dField d 0x3B 1 : Int)
  let ay : Int := y * dField d 0x38 1 + k / (cc * kw) * dField d 0x3A 1 - (dField d 0x3C 1 : Int)
  if ax < 0 || (a.t.dim 1 : Int) ≤ ax || ay < 0 || (a.t.dim 2 : Int) ≤ ay then .ok 0
  else match elemAt s q a (k % cc) (a.t.rowOf ax.toNat ay.toNat n), elemAt s q b k f with
    | .ok u, .ok v => .ok (u * v)
    | .error e, _ => .error e
    | _, .error e => .error e

/-- The element of sum at reduction index k (R222). -/
def sumTerm (s : State) (q : Queue) (a : Loaded) (dims : List Nat) (el k : Nat) : Try Rat :=
  let (_, i1, i2, i3) := unflat dims el
  elemAt s q a k (a.t.rowOf i1 i2 i3)

/-- The term of a command at an element and reduction index, exact (R201). -/
def termOf (s : State) (q : Queue) (d : Desc) (ls : List Loaded) (dims : List Nat) (el k : Nat) : Try Rat :=
  match loadedOf ls 0, loadedOf ls 1 with
  | some a, b =>
    if dOpcode d == 0x30 then sumTerm s q a dims el k
    else match b with
      | some b => if dOpcode d == 0x21 then convTerm s q d a b dims el k else matrixTerm s q a b dims el k
      | none => .error .hold
  | none, _ => .error .hold

/-- What stopped terms, in order. -/
def termStops (terms : List (Try Rat)) : List Stop := terms.filterMap fun t => match t with
  | .error e => some e
  | .ok _ => none

/-- The stop reported of those found: the first one's code, with the lowest detail found for it (R197). -/
def reported : List Stop → Option Stop
  | [] => none
  | .fault code detail logged :: t => some (.fault code (t.foldl (fun a e => match e with
      | .fault c x _ => if c == code then min a x else a
      | _ => a) detail) logged)
  | e :: _ => some e

/-- Every term of a sequence, by element, or what stops it. -/
def gatherTerms (terms : List (List (Try Rat))) : Try (List (List Rat)) :=
  match reported (termStops terms.flatten) with
  | some e => .error e
  | none => .ok (terms.map fun l => l.filterMap fun t => match t with
      | .ok v => some v
      | .error _ => none)

/-- Add the aligned terms of one element group by group; none on overflow (R202, R203). -/
def addGroups (scale : Int) (g : Nat) : Nat → Int → List Rat → Option Int
  | 0, acc, _ => some acc
  | fuel + 1, acc, terms =>
    if terms.isEmpty then some acc
    else
      let al := (terms.take g).map fun p => rne (p * pow2 (-scale))
      let acc' := acc + al.sum
      if al.any outside64 || outside64 acc' then none else addGroups scale g fuel acc' (terms.drop g)

/-- Every element of a tile's piece at a depth; none when one overflows. -/
def addAll (scale : Int) (g : Nat) : List (List Rat) → Option (List Int)
  | [] => some []
  | t :: rest =>
    match addGroups scale g (t.length + 1) 0 t, addAll scale g rest with
    | some a, some l => some (a :: l)
    | _, _ => none

/-- run_sequence: the replays performed, and the partials of each element with the depth (R204). -/
def runSequence (j : AccJob) (terms : List (List Rat)) : Nat → Nat → Nat × Try (List Int × Nat)
  | 0, d => (d, fltOpen 0x3031)
  | fuel + 1, d =>
    match addAll (j.base + 16 * d) j.group terms with
    | some l => (d, .ok (l, d))
    | none => if j.strict then (d, fltOpen 0x3030) else if d == 2 then (d, fltOpen 0x3031) else runSequence j terms fuel (d + 1)

/-- A missing translation of a running command: it asks for the page and goes on when it comes (R270). -/
def pause (s : State) (c : Nat) (q : Queue) (dests : List (Nat × Nat)) : Stop → Done
  | .page pasid pg w => .run ((askPage s q.port pasid pg w).modCmd c fun x => { x with page := some (pasid, pg, w) })
  | e => badWriting s q dests e

/-- Take a running command's part further, pausing on a missing translation. -/
def pausing {α : Type} (s : State) (c : Nat) (q : Queue) (dests : List (Nat × Nat)) (x : Try α) (k : α → Done) : Done :=
  match x with
  | .ok a => k a
  | .error e => pause s c q dests e

/-- Does a range of elements and reduction indices lie in the command's piece, and does no sequence cover part of it yet? -/
def freshRange (j : AccJob) (limit elem elems lo len : Nat) : Bool :=
  0 < elems && j.done.length ≤ elem && elem + elems ≤ pieceEnd j.dims limit j.done.length && 0 < len && lo + len ≤ j.kLen &&
    len ≤ 2048 * j.group &&
    !(j.partials.any fun p => elem ≤ p.elem && p.elem < elem + elems && p.lo < lo + len && lo < p.lo + p.len)

/-- Count replays at an engine (R204, R205, R232). -/
def countReplays (s : State) (e n : Nat) : State :=
  countEngine s e (·.accReplay) (fun g v => { g with accReplay := v }) causeEng n

/-- One group sequence of a running command on an engine (R202, R204); none starts at an opportunity that the louvre takes away
(R399), nor where a batch has the turn (R162). Replays are counted even where the sequence then faults. -/
def sequenceBody (c e elem elems lo len : Nat) (slips : List TagSlip) (s : State) (x : Cmd) (q : Queue) : Done :=
  match tblFind s.jobs c with
  | none => .stop .hold
  | some j =>
    let os := (jobOperands x.desc j).filter fun o => o.num < (sourcesOf (dOpcode x.desc)).length
    if !(q.engines.contains e && s.engineUsable e && (s.eng e).louvre != 0 && freshRange j (pieceLimit q) elem elems lo len &&
        j.combined.isNone && sequenceTurn s e) then .stop .hold
    else if !mayIssue s e then .run (issued s e false)
    else paired s x q (slips.map fun l => { l with engine := e }) os x.dests fun _ =>
      pausing s c q x.dests (loadOperands s q os) fun ls =>
        let ls := ls.map fun l => { l with exact := true }
        pausing s c q x.dests (gatherTerms ((List.range elems).map fun i => (List.range len).map fun k =>
            termOf s q x.desc ls j.dims (elem + i) (lo + k))) fun terms =>
          let r := runSequence j terms 3 0
          let s := tileWork (passTurn (countReplays s e r.1) e true) e c
          pausing s c q x.dests r.2 fun (vals, depth) =>
            let ps := (vals.zip (List.range vals.length)).map fun v =>
              ({ elem := elem + v.2, lo := lo, len := len, value := v.1, depth := depth } : Partial)
            .run { s with jobs := tblPut s.jobs c { j with partials := j.partials ++ ps, replays := j.replays + depth } }

/-- Take a running slot-naming command further (opcodes 0x20, 0x21, 0x30). -/
def goOnSlot (s : State) (c : Nat) (stages : List Stage) (body : State → Cmd → Queue → Done) : State :=
  match s.cmd? c with
  | some x =>
    let o := dOpcode x.desc
    if o == 0x20 || o == 0x21 || o == 0x30 then takeCmd s c o stages body else s
  | none => s

/-- GROUP_SEQUENCE (R202). -/
def execGroupSequence (c e elem elems lo len : Nat) (slips : List TagSlip) (s : State) : Out :=
  act (isEngine e) s fun s => goOnSlot s c [.running] (sequenceBody c e elem elems lo len slips)

/-! ### Combination (R205) -/

/-- Combine partials (q, scale) at scale S, escalating: the escalations made, and the total with its scale (R205). -/
def combine (strict : Bool) (base : Int) (ps : List (Int × Int)) : Nat → Int → Nat → Nat × Try (Int × Int)
  | 0, _, n => (n, fltOpen 0x3031)
  | fuel + 1, sc, n =>
    let total := (ps.map fun p => rne ((p.1 : Rat) * pow2 (p.2 - sc))).sum
    if !outside64 total then (n, .ok (total, sc))
    else if strict then (n, fltOpen 0x3030)
    else if sc - base == 32 then (n, fltOpen 0x3031)
    else combine strict base ps fuel (sc + 16) (n + 1)

/-- Combine elements in order, to the first fault: the escalations made, and each total with its depth (R205). -/
def combineEach (strict : Bool) (base : Int) : List (List (Int × Int) × Int) → Nat × Try (List (Int × Nat))
  | [] => (0, .ok [])
  | (ps, start) :: rest =>
    let r := combine strict base ps 3 start 0
    match r.2 with
    | .error e => (r.1, .error e)
    | .ok v =>
      let t := combineEach strict base rest
      (r.1 + t.1, match t.2 with
        | .error e => .error e
        | .ok l => .ok ((v.1, ((v.2 - base) / 16).toNat) :: l))

/-- The coarsest scale. -/
def coarsest (base : Int) (ps : List (Int × Int)) : Int := ps.foldl (fun a p => max a p.2) base

/-- The partials of an element: its group sequences, and in add-to mode the array's committed value (R205). -/
def elemPartials (j : AccJob) (arr : Option AccArray) (el : Nat) : List (Int × Int) :=
  ((j.partials.filter fun p => p.elem == el).map fun p => (p.value, j.base + 16 * p.depth)) ++
    (match j.addTo, arr with
     | true, some a => [(nth 0 a.values el, a.base + 16 * a.depth)]
     | _, _ => [])

/-- Combine every element of the piece: the escalations, and totals with depths. -/
def combineAll (j : AccJob) (limit : Nat) (arr : Option AccArray) : Nat × Try (List (Int × Nat)) :=
  combineEach j.strict j.base ((pieceElems j limit).map fun el =>
    (elemPartials j arr el, coarsest j.base (elemPartials j arr el)))

/-- Step 3 of R209. Escalations are counted at the lowest engine of the queue (DEDUCED, log entry 21), even where the element
then faults. -/
def combineBody (c : Nat) (s : State) (x : Cmd) (q : Queue) : Done :=
  match tblFind s.jobs c with
  | none => .stop .hold
  | some j =>
    if !covered j (pieceLimit q) || j.combined.isSome then .stop .hold
    else
      let r := combineAll j (pieceLimit q) (tblFind s.arrays (arrayKey x.queue j.slot))
      let s := countReplays s (q.engines.head?.getD 0) r.1
      pausing s c q x.dests r.2 fun l =>
        .run { s with jobs := tblPut s.jobs c { j with combined := some l, replays := j.replays + r.1 } }

/-- PARTIAL_COMBINE (R205). -/
def execPartialCombine (c : Nat) (s : State) : Out := act true s fun s => goOnSlot s c [.running] (combineBody c)

/-! ### Fuse and commit (R206, R209 steps 4-7, R218) -/

/-- D: the largest depth (R206). -/
def topDepth (l : List (Int × Nat)) : Nat := (l.map (·.2)).foldl max 0

/-- An element brought to depth D (R206). -/
def toDepth (top : Nat) (e : Int × Nat) : Int := rne ((e.1 : Rat) * pow2 (-(16 * ((top - e.2 : Nat) : Int))))

/-- The fused value (R218). The sign of a NaN formed anew is free (DESIGN CHOICE, log entry 7). -/
def fuseVal (op : Nat) (free : Bool) (v f : Val) : Val :=
  if op == 1 then vAdd free v f else if op == 2 then vMul free v f else v

/-- The values a destination receives, as rows; the elements not combined yet are 0, fused with nothing (R200). -/
def fusedRows (draw op : Nat) (c : Tensor) (vals : List Rat) (f : List (List Val)) : List (List Val) :=
  let rows := rowsOf (c.dim 0) c.rows (vals.map Val.real ++ List.replicate (c.elems - vals.length) (.real 0))
  (rows.zip (List.range rows.length)).map fun r =>
    (r.1.zip (List.range r.1.length)).map fun e =>
      if r.2 * c.dim 0 + e.2 < vals.length then fuseVal op (Config.nanSign draw (r.2 * c.dim 0 + e.2)) e.1 (valAt f e.2 r.2)
      else e.1

/-- The values of the fuse operand of number n, if there is one. -/
def fuseValues (s : State) (q : Queue) (os : List Operand) (n : Nat) : Try (List (List Val)) :=
  match loadOperands s q (os.filter fun o => o.num == n) with
  | .error e => .error e
  | .ok [l] => readValues s q l
  | .ok _ => .ok []

/-- The record of a slot-naming command (R220). -/
def slotResult (scale : Int) (depth replays : Nat) (a : Tally) : BitVec 128 :=
  BitVec.ofNat 128 (ofSigned 16 scale + depth * 2 ^ 16 + sat32 replays * 2 ^ 32 + sat32 a.vanished * 2 ^ 64 +
    sat32 (a.saturated + a.overflowed) * 2 ^ 96)

/-- The values a destination receives: each element at its own scale, or uniform at depth D (R206). -/
def destVals (base : Int) (uniform : Bool) (l : List (Int × Nat)) : List Rat :=
  let top := topDepth l
  l.map fun e => if uniform then (toDepth top e : Rat) * pow2 (base + 16 * top) else (e.1 : Rat) * pow2 (base + 16 * e.2)

/-- The fuse operand's values: as read before, or now (R218). -/
def fuseFor (s : State) (q : Queue) (op : Nat) (os : List Operand) (n : Nat) (kept : Option (List (List Val))) :
    Try (List (List Val)) :=
  if op == 0 then .ok []
  else match kept with
    | some f => .ok f
    | none => fuseValues s q os (n + 1)

/-- What elements lo on of a destination receive from the values combined so far: of ACC64 all of them, for a piece may raise D
(R200, R206, R209). Also the fuse values read, and the number of free values taken. An element that R206 rounds to 0 in an ACC64
destination is not counted as vanished: R184 and R185 count only what their own formats round (DESIGN CHOICE, log entry 22). -/
def destPlan (s : State) (q : Queue) (op : Nat) (os : List Operand) (n : Nat) (base : Int) (uniform : Bool)
    (fuse : Option (List (List Val))) (lo : Nat) (l : List (Int × Nat)) : Try (WritePlan × Option (List (List Val)) × Nat) :=
  match operandOf os n with
  | none => .ok (([], {}), none, 0)
  | some t =>
    let top := topDepth l
    if t.storage == .acc64 then .ok ((accWrites t (l.map (toDepth top)) (base + 16 * top) top, {}), none, 0)
    else
      match fuseFor s q op os n fuse with
      | .error e => .error e
      | .ok f =>
        match encodeImage t (s.draws + 1) (fusedRows s.draws op t (destVals base uniform l) f) with
        | .error e => .error e
        | .ok im =>
          .ok ((if lo == 0 && l.length == t.elems then imageWrites t im else pieceWrites t im lo l.length, im.tally), some f,
            1 + t.rows)

/-- The write of a whole destination from combined values: uniform at depth D for a kept array, an ACC64 destination, or when asked;
else each element at its own scale (R206). -/
def writeDest (s : State) (q : Queue) (op : Nat) (os : List Operand) (n : Nat) (base : Int) (uniform : Bool)
    (l : List (Int × Nat)) : Try (State × Tally) :=
  match destPlan s q op os n base uniform none 0 l with
  | .error e => .error e
  | .ok (x, _, k) => writePlan { s with draws := s.draws + k } q x

/-- The state with the queue's port taken to send its requests: what a write needs besides is decided there. -/
def State.sending (s : State) (q : Queue) : State :=
  s.modPort q.port fun y => { y with busMaster := true, linkUp := true, d3hot := false, creditsWithheld := false }

/-- Step 5: the array kept or discarded (R208, R209). -/
def commitArray (s : State) (x : Cmd) (j : AccJob) (l : List (Int × Nat)) : State :=
  let key := arrayKey x.queue j.slot
  let a : AccArray := { dims := j.dims, base := j.base, depth := topDepth l, values := l.map (toDepth (topDepth l)) }
  if j.keep then { s with arrays := tblPut s.arrays key a }
  else { s with arrays := tblDel s.arrays key }

/-- Where a command's destination lies. -/
def destOf (os : List Operand) (n : Nat) : List (Nat × Nat) :=
  match operandOf os n with
  | some t => t.destExtent
  | none => []

/-- Can the runs of a plan be sent: none of them goes to host memory, or the port may send (R502)? -/
def sendable (s : State) (q : Queue) (x : WritePlan) : Bool :=
  (s.port q.port).mayRequest || x.1.all fun r => decide (deviceBase ≤ r.1)

/-- Steps 6 and 7: the plan, found writable before step 5, reaches memory whatever has become of its pages, and the command
completes; while it cannot be sent the command stays committing (R209, R210). -/
def carryOut (c : Nat) (s : State) (q : Queue) (j : AccJob) (x : WritePlan) (result : Tally → BitVec 128) (last : State → State) : Done :=
  if sendable s q x then .ok (last (x.1.foldl (fun s r => pokeVa s q.port q.pasid r.1 r.2) s)) (result x.2)
  else .run ({ s with jobs := tblPut s.jobs c { j with plan := some x } }.modCmd c fun y =>
    { y with stage := .committing, dests := x.1.map fun (r : Nat × List Byte) => (r.1, r.2.length) })

/-- Step 4: the destination's values take their formats and its pages are granted, so that nothing of step 6 can fault; then step 5
and the rest (R209, R210; DEDUCED, log entry 22). -/
def planned (c : Nat) (s : State) (q : Queue) (dests : List (Nat × Nat)) (x : Try (WritePlan × Option (List (List Val)) × Nat))
    (k : State → WritePlan → Done) : Done :=
  pausing s c q dests x fun (x, _, n) =>
    pausing s c q dests (writePlan (s.sending q) q x) fun _ => k { s with draws := s.draws + n } x

/-- One output piece but the last is written, and the next begins (R200, R209). -/
def pieceBody (c : Nat) (s : State) (x : Cmd) (q : Queue) (j : AccJob) (l : List (Int × Nat)) : Done :=
  let os := jobOperands x.desc j
  pausing s c q x.dests (destPlan s q (dFuse x.desc) os (sourcesOf (dOpcode x.desc)).length j.base false j.fuse j.done.length l)
    fun (y, f, n) =>
      pausing s c q x.dests (writePlan { s with draws := s.draws + n } q y) fun (s', _) =>
        .run { s' with jobs := tblPut s'.jobs c { j with done := l, partials := [], combined := none, fuse := f } }

/-- Steps 4 to 7. -/
def commitBody (c : Nat) (slips : List TagSlip) (s : State) (x : Cmd) (q : Queue) : Done :=
  match tblFind s.jobs c with
  | none => .stop .hold
  | some j =>
    match j.combined with
    | none => .stop .hold
    | some l0 =>
      let l := j.done ++ l0
      let os := jobOperands x.desc j
      let n := (sourcesOf (dOpcode x.desc)).length
      let result := fun a => slotResult (j.base + 16 * topDepth l) (topDepth l) j.replays a
      match j.plan with
      | some y => carryOut c s q j y result id
      | none =>
        paired s x q slips (os.filter fun o => n < o.num) x.dests fun _ =>
          if l.length < elemCount j.dims then pieceBody c s x q j l
          else planned c s q x.dests (destPlan s q (dFuse x.desc) os n j.base j.keep j.fuse j.done.length l) fun s y =>
            carryOut c (commitArray s x j l) q j y result id

/-- ACCUMULATOR_COMMIT: steps 4 to 7 of R209. -/
def execAccumulatorCommit (c : Nat) (slips : List TagSlip) (s : State) : Out :=
  act true s fun s => goOnSlot s c [.running, .committing] (commitBody c slips)

/-! ### Write out and release (R219) -/

/-- Order 1 of write out: slot, flags with only keep, fuse. -/
def writeOutFields (d : Desc) : List (Nat × Bool) :=
  (0x32, decide (3 < dSlot d)) :: (0x33, dField d 0x33 1 != 0 && dField d 0x33 1 != 2) :: fuseFields d

/-- The job of a write-out: the array's dims and base scale, its records, whether it keeps the array. -/
def writeOutJob (d : Desc) (os : List Operand) (a : AccArray) : AccJob :=
  { records := os.map (·.t.raw), slot := dSlot d, base := a.base, strict := false, addTo := false, keep := dKeep d,
    noWrite := false, dims := a.dims, kLen := 0, group := 1 }

/-- The rest of a write-out that has claimed its slot: as of a commit, step 4 finds the destination writable (R209, R210). -/
def writeOutWrite (c : Nat) (slips : List TagSlip) (s : State) (x : Cmd) (q : Queue) (j : AccJob) : Done :=
  let d := x.desc
  let os := jobOperands d j
  match tblFind s.arrays (arrayKey x.queue j.slot) with
  | none => .stop .hold
  | some a =>
    let result := slotResult (a.base + 16 * a.depth) a.depth 0
    let last := fun (s : State) => if j.keep then s else { s with arrays := tblDel s.arrays (arrayKey x.queue j.slot) }
    match j.plan with
    | some y => carryOut c s q j y result last
    | none =>
      paired s x q slips (os.filter fun o => 0 < o.num) (destOf os 0) fun _ =>
        planned c s q (destOf os 0) (destPlan s q (dFuse d) os 0 a.base true none 0 (a.values.map fun v => (v, a.depth))) fun s y =>
          carryOut c s q j y result last

/-- WRITE_OUT: checks and step 1, then the write (R209, R219). -/
def writeOutBody (c : Nat) (slips : List TagSlip) (s : State) (x : Cmd) (q : Queue) : Done :=
  let d := x.desc
  match tblFind s.jobs c with
  | some j => writeOutWrite c slips s x q j
  | none =>
    within (needDesc d 0x3033 (writeOutFields d)) fun _ =>
      within (readOperands s q x.kept (slotOperands d [])) fun os =>
        within (check1 os) fun _ =>
          within (destShape os 0 ((operandOf os 0).map (·.dims4) |>.getD [])) fun _ =>
            within (slotStreams s q os 0 []) fun _ =>
              within (claimCheck s x.queue (dSlot d) q.engines) fun _ =>
                match tblFind s.arrays (arrayKey x.queue (dSlot d)), operandOf os 0 with
                | some a, some t =>
                  within (needOpen (a.dims == t.dims4) 0x3034) fun _ =>
                    within (needOpen (!a.lost) 0x3037) fun _ =>
                      let j := writeOutJob d os a
                      let s1 := markSlots s q.engines (dSlot d) (.claimed x.queue)
                      let kept := ((slotOperands d []).map (·.2.1)).zip j.records
                      writeOutWrite c slips ({ s1 with jobs := tblPut s1.jobs c j }.modCmd c fun y => { y with kept := kept }) x q j
                | _, _ => .stop (.faultOpen 0x3034)

/-- WRITE_OUT (R219). -/
def execWriteOut (c : Nat) (slips : List TagSlip) (s : State) : Out :=
  act true s fun s => takeCmd s c 0x22 [.started, .waiting, .running, .committing] (writeOutBody c slips)

/-- RELEASE (R219). -/
def execRelease (c : Nat) (s : State) : Out :=
  act true s fun s => runCmd s c 0x23 fun s x q =>
    within (needDesc x.desc 0x3033 [(0x32, 3 < dSlot x.desc)]) fun _ =>
      within (claimCheck s x.queue (dSlot x.desc) q.engines) fun _ =>
        .ok (discardArray s x.queue (dSlot x.desc) q.engines) 0

/-! ### Combine partials (R223) -/

/-- The header of a combine list at fault: offsets in the list, with bit 31 set (R223, R233). -/
def combineHeader (h : List Byte) : List (Nat × Bool) :=
  (2 ^ 31, fieldOf h 0 4 == 0 || 16 < fieldOf h 0 4) ::
    (List.range 4).map fun i => (2 ^ 31 + 4 + i, fieldOf h (4 + i) 1 != 0)

/-- The combine list: count and record addresses. -/
def combineList (s : State) (q : Queue) (kept : List (Nat × List Byte)) (addr : Nat) : Try (List Nat) :=
  match readPart s q kept addr 8 with
  | .error e => .error e
  | .ok h =>
    match needFields 0x3033 (combineHeader h) with
    | .error e => .error e
    | .ok _ =>
      let n := fieldOf h 0 4
      match readPart s q kept addr (8 + 8 * n) with
      | .error e => .error e
      | .ok b => .ok (wordsOf 8 n (b.drop 8))

/-- The shapes of combine partials (order 3 of R233): each source against the first, then destination and fuse. -/
def combineShape (os : List Operand) (n : Nat) : Try Unit :=
  match operandOf os 0 with
  | none => .error .hold
  | some a =>
    match (List.range n).find? fun i => (operandOf os i).any fun t => t.dims4 != a.dims4 with
    | some i => flt 0x3033 (2 ^ 31 + 8 + 8 * i)
    | none => destShape os n a.dims4

/-- The records of combine partials in the order of R190. -/
def combineRecords (d : Desc) (addrs : List Nat) : List (Nat × Nat × Bool × Bool) :=
  ((addrs.zip (List.range addrs.length)).map fun e => (e.2, e.1, true, false)) ++
    ((addrs.length, dField d 0x20 8, false, true) ::
      (if dFuseRec d == 0 then [] else [(addrs.length + 1, dFuseRec d, true, false)]))

/-- The base scale of combine partials: the coarsest source scale (R223). -/
def combineBase (ls : List (Int × List Int)) : Int := (ls.map (·.1)).foldl max ((ls.head?.map (·.1)).getD 0)

/-- Combine the elements of the sources, all at the final scale: the escalations, and totals with depths (R205, R206, R223;
DEDUCED, log entry 23). -/
def combineSources (strict : Bool) (ls : List (Int × List Int)) (count : Nat) : Nat × Try (List (Int × Nat)) :=
  combineEach strict (combineBase ls) ((List.range count).map fun el => (ls.map fun l => (nth 0 l.2 el, l.1), combineBase ls))

def combinePartialsBody (slips : List TagSlip) (s : State) (x : Cmd) (q : Queue) : Done :=
  let d := x.desc
  within (needDesc d 0x3033 ((0x33, dField d 0x33 1 != 0 && dField d 0x33 1 != 8) :: fuseFields d)) fun _ =>
    within (combineList s q x.kept (dField d 0x10 8)) fun addrs =>
      let n := addrs.length
      within (readOperands s q x.kept (combineRecords d addrs)) fun os =>
        within (check1 os) fun _ =>
          within (combineShape os n) fun _ =>
            let refused := (os.filter fun o => o.num < n && o.t.storage != .acc64).map (·.num)
            within (slotStreams s q os n refused) fun ls =>
              within (tryMap (fun l => match readInts s q l with
                  | .ok v => .ok (l.scale, v)
                  | .error e => .error e) (ls.filter fun l => l.num < n)) fun srcs =>
                match operandOf os n with
                | none => .stop .hold
                | some t => paired s x q slips os t.destExtent fun _ =>
                  let r := combineSources (dStrict d) srcs t.elems
                  let base := combineBase srcs
                  let s := countReplays s (q.engines.head?.getD 0) r.1
                  writing s q t.destExtent r.2 fun l =>
                    writing s q t.destExtent (writeDest s q (dFuse d) os n base true l) fun (s', a) =>
                      .ok s' (slotResult (base + 16 * topDepth l) (topDepth l) r.1 a)

/-- COMBINE_PARTIALS (R223). -/
def execCombinePartials (c : Nat) (slips : List TagSlip) (s : State) : Out :=
  act true s fun s => runCmd s c 0x31 (combinePartialsBody slips)

/-! ### Top-k (R224) -/

/-- Does a rank before b: by value, then by lower index (R224)? -/
def ranksBefore (smallest : Bool) (a b : Val × Nat) : Bool :=
  if vLe a.1 b.1 && vLe b.1 a.1 then a.2 < b.2 else if smallest then vLe a.1 b.1 else vLe b.1 a.1

/-- Insert in rank order. -/
def insertRank (smallest : Bool) (x : Val × Nat) : List (Val × Nat) → List (Val × Nat)
  | [] => [x]
  | y :: t => if ranksBefore smallest x y then x :: y :: t else y :: insertRank smallest x t

/-- The k top-ranked elements of a row. -/
def topOf (smallest : Bool) (k : Nat) (row : List Val) : List (Val × Nat) :=
  ((row.zip (List.range row.length)).foldl (fun l x => insertRank smallest x l) []).take k

def isNan : Val → Bool
  | .nan _ => true
  | _ => false

/-- The first NaN of a tensor, by linear index. -/
def firstNan (rows : List (List Val)) : Option Nat := firstWhere isNan rows.flatten

/-- Shapes of top-k (order 3 of R233). -/
def topKShape (d : Desc) (os : List Operand) : Try Unit :=
  match operandOf os 0, operandOf os 1 with
  | some a, some i =>
    let k := dField d 0x30 1
    let dims := [k, a.dim 1, a.dim 2, a.dim 3]
    needFields 0x3033 [(0x10, 2 ^ 31 < a.dim 0), (0x30, a.dim 0 < k),
      (0x18, i.format != 0x0A || i.texp != 0 || i.dims4 != dims),
      (0x20, (operandOf os 2).any fun v => v.dims4 != dims)]
  | _, _ => .error .hold

def topKBody (slips : List TagSlip) (s : State) (x : Cmd) (q : Queue) : Done :=
  let d := x.desc
  let k := dField d 0x30 1
  within (needDesc d 0x3033 [(0x30, k == 0 || 16 < k), (0x31, 1 < dField d 0x31 1)]) fun _ =>
    within (readOperands s q x.kept ([(0, dField d 0x10 8, true, false), (1, dField d 0x18 8, false, true)] ++
        (if dField d 0x20 8 == 0 then [] else [(2, dField d 0x20 8, false, true)]))) fun os =>
      within (check1 os) fun _ =>
        within (topKShape d os) fun _ =>
          within (check2 ((os.filter fun o => o.num == 2 && o.t.storage == .acc64).map (·.num)) os) fun _ =>
            within (check3 os) fun _ =>
              match os with
              | src :: dsts =>
                within (tryMap (fun o => overlapWith s q o.t [src]) dsts) fun _ =>
                  within (loadOperands s q [src]) fun ls =>
                    match ls with
                    | [l] =>
                      let dests := dsts.flatMap fun o => o.t.destExtent
                      paired s x q slips [src] dests fun _ => writing s q dests (readValues s q l) fun rows =>
                        match firstNan rows with
                        | some i => badWriting s q dests (.fault 0x3036 (i % 2 ^ 32) false)
                        | none =>
                          let tops := rows.map (topOf (dField d 0x31 1 == 1) k)
                          let idx := tops.map fun r => r.map fun e => Val.real (e.2 : Rat)
                          let vals := tops.map fun r => r.map (·.1)
                          match dsts with
                          | i :: rest =>
                            writing s q dests (writeTensor s q i.t idx) fun (s1, _) =>
                              match rest with
                              | v :: _ => writing s q dests (writeTensor s1 q v.t vals) fun (s2, _) => .ok s2 0
                              | [] => .ok s1 0
                          | [] => .stop .hold
                    | _ => .stop .hold
              | [] => .stop .hold

/-- TOP_K (R224). -/
def execTopK (c : Nat) (slips : List TagSlip) (s : State) : Out := act true s fun s => runCmd s c 0x32 (topKBody slips)

end Sys2Proof.Machine
end

