-- ==== Sys2Proof/Machine/Collective.lean ====
section
/-! DEFINITION. The collective family: all-reduce, all-gather, boundary exchange, send, receive, schedule load and arm (R361,
R365, R368, R375-R384). A command that runs is taken further by its own row once what it waits for has come. -/

namespace Sys2Proof.Machine

/-! ### Checks (R384) -/

/-- Is the timing state past locking (R361)? -/
def timed (s : State) : Bool := s.opx.timing != .unlocked && s.opx.timing != .locking

/-- A timing state past locking on a DEPLOYED module, and scheduled transmission not stopped (R361, R372, R433): a command that
comes after the stop ends as those in flight did (DEDUCED, log entry 35). -/
def timingReady (s : State) : Try Unit :=
  match needOpen (timed s && s.sec.lifecycle == 2) 0x1903 with
  | .error e => .error e
  | .ok _ => needOpen (!s.opx.stopped) 0x1906

/-- Order 2: a role in a cascade, and a module that is ready for cascade commands (R361). -/
def fabricReady (s : State) : Try Unit :=
  match needOpen (s.opx.role == 1 || s.opx.role == 2) 0x1903 with
  | .error e => .error e
  | .ok _ => timingReady s

/-- Orders 1 and 2 for a command that moves tensors. -/
def flowFirst (s : State) (x : Cmd) (fields : List (Nat × Bool)) : Try Unit :=
  match needDesc x.desc 0x1901 ((0x30, dFlow x.desc == 0) :: fields) with
  | .error e => .error e
  | .ok _ => fabricReady s

/-- Orders 1, 2, 5 and 6; the flow is claimed, and what follows keeps the claim (R368, R384). -/
def onFlowOf (s : State) (c : Nat) (x : Cmd) (fields : List (Nat × Bool)) (k : State → Done) : Done :=
  within (flowFirst s x fields) fun _ => within (needFlow s c x) fun _ => keeping (claimAtStart s c x) (k (claimAtStart s c x))

/-- Start or go on with a collective command. -/
def collective (s : State) (c opcode : Nat) (start further : State → Cmd → Queue → Done) : State :=
  match s.cmd? c with
  | some x => if x.stage == .running then goOn s c opcode further else runCmd s c opcode start
  | none => s

/-! ### Contributions as stored (R59, R174, R377-R379) -/

/-- The rows of a loaded tensor, with what pairing finds in them. -/
def wireRows (s : State) (q : Queue) (l : Loaded) : Try (List (List Byte)) :=
  tryMap (fun r =>
    match readVa s q.port q.pasid (l.t.rowAddr r) l.t.rowBytes with
    | .error e => .error e
    | .ok b => match rowVals l r b with
      | .error e => .error e
      | .ok _ => .ok b) (List.range l.t.rows)

/-- A tensor that came or goes over the fabric: what is loaded of it, its rows, each data block's tag. -/
structure Contribution where
  l : Loaded
  rows : List (List Byte)
  tags : List Nat := []

/-- A tensor as it travels: rows, block tags, slots, side entries, the ACC64 scale word (R174; DESIGN CHOICE, log entry 31). -/
def wireBytes (x : Contribution) : List Byte :=
  x.rows.flatten ++
    (if x.l.t.storage.isVb then x.tags.flatMap (natLe 1) ++ x.l.slots.flatMap (natLe 2) ++ x.l.side.flatMap (natLe 4)
     else if x.l.t.storage == .acc64 then natLe 8 (ofSigned 16 x.l.scale + x.l.depth * 2 ^ 16) else [])

/-- Bytes before the side entries. -/
def wireFixed (t : Tensor) : Nat :=
  t.rows * t.rowBytes + (if t.storage.isVb then 3 * t.blocks else if t.storage == .acc64 then 8 else 0)

/-- A tensor from the bytes it travelled as. -/
def unwire (t : Tensor) (num : Nat) (b : List Byte) : Contribution :=
  let rows := rowsOf t.rowBytes t.rows b
  let rest := b.drop (t.rows * t.rowBytes)
  if t.storage.isVb then
    let side := b.drop (wireFixed t)
    { l := { t := t, num := num, slots := wordsOf 2 t.blocks (rest.drop t.blocks), side := wordsOf 4 (side.length / 4) side,
             scale := 0, depth := 0 }, rows := rows, tags := wordsOf 1 t.blocks rest }
  else if t.storage == .acc64 then
    let w := (scaleWord (fieldOf rest 0 8)).getD (0, 0)
    { l := { t := t, num := num, slots := [], side := [], scale := w.1, depth := w.2 }, rows := rows }
  else { l := { t := t, num := num, slots := [], side := [], scale := 0, depth := 0 }, rows := rows }

/-- The first block whose tag differs from its slot's after the crossing (R188). -/
def crossingSlip (e : Nat) (x : Contribution) : Option TagSlip :=
  ((List.range x.tags.length).find? fun k => nth 0 x.tags k != slotTag (nth 0 x.l.slots k)).map fun k =>
    { block := k, operand := 0, found := slotTag (nth 0 x.l.slots k), moduleCrossing := true, engine := e }

/-- The slips in what came over the fabric. R188 names no engine for them: the first of the command's queue finds them, logs and
counts them (DESIGN CHOICE, log entry 31). -/
def wireSlips (q : Queue) (xs : List Contribution) : List TagSlip := xs.filterMap (crossingSlip (q.engines.head?.getD 0))

/-- Pair what came over the fabric (R188, R190). -/
def pairedWire (s : State) (x : Cmd) (q : Queue) (xs : List Contribution) (dests : List (Nat × Nat)) (k : Unit → Done) : Done :=
  unslipped s x q dests (wireSlips q xs) k

/-- The storage of a tensor, which only BF16 and FP32 take from their transport: 0 narrow, 1 the declared format (R179, R377). -/
def storedAs (t : Tensor) : Nat := if (t.format == 0x06 || t.format == 0x07) && t.transport == 0 then 0 else 1

/-- The header of a tensor's contribution (R377). -/
def tensorHeader (d : Desc) (t : Tensor) (length : Nat) : List Byte :=
  let sum := dOpcode d == 0x90
  commandHeader (dOpcode d) t.format (storedAs t) (if sum then dField d 0x34 1 else 0) (if sum then dField d 0x32 2 else 0) false
    length (t.dims4.flatMap (natLe 4)) []

/-- Hand a contribution over, and keep the module's own copy of it with what the other members send. -/
def offer (s : State) (flow : Nat) (b : List Byte) : State :=
  let k := streamKey flow s.opx.member
  let s := handOver s flow b
  s.setRx k { s.rx k with bytes := (s.rx k).bytes ++ b }

/-- The lowest member among those whose header has come that disagrees, by a test of a header (R377). -/
def disagrees (s : State) (flow : Nat) (ok : List Byte → Bool) (members : List Nat) : Option Nat :=
  members.find? fun m =>
    let b := (s.rx (streamKey flow m)).bytes
    64 ≤ b.length && !ok (b.take 64)

/-- Does a header agree with the module's own for a tensor, with a length that holds it? -/
def headerFits (d : Desc) (t : Tensor) (h : List Byte) : Bool :=
  (if dOpcode d == 0x94 then tensorsAgree (tensorHeader d t 0) h else headersAgree (tensorHeader d t 0) h) &&
    wireFixed t ≤ headerLength h

/-- Take the whole contribution of a member, of the length its header gives (R367). -/
def takeContribution (s : State) (flow m num : Nat) (t : Tensor) : Option (Contribution × State) :=
  match takeRx s flow m 64 with
  | none => none
  | some (h, _) => match takeRx s flow m (64 + headerLength h) with
    | none => none
    | some (x, s') => some (unwire t num (x.drop 64), s')

/-- Take the contributions of members in order, when all have come. -/
def takeAll (flow : Nat) (t : Tensor) : State → List Nat → Option (List Contribution × State)
  | s, [] => some ([], s)
  | s, m :: rest =>
    match takeContribution s flow m 0 t with
    | none => none
    | some (x, s1) => match takeAll flow t s1 rest with
      | none => none
      | some (l, s2) => some (x :: l, s2)

/-- Every member of the cascade. -/
def allMembers (s : State) : List Nat := List.range s.opx.members

/-- Keep the records a collective command read at its start (R176). -/
def keepRecords (s : State) (c : Nat) (os : List Operand) : State :=
  let j : AccJob := { records := os.map (·.t.raw), slot := 4, base := 0, strict := false, addTo := false, keep := false,
                      noWrite := false, dims := [], kLen := 0, group := 0 }
  { s with jobs := tblPut s.jobs c j }

/-- The records kept. -/
def keptTensors (s : State) (c : Nat) : List Tensor := ((tblFind s.jobs c).map (·.records)).getD [] |>.map tensorOf

/-- A loaded tensor's contribution with its header. -/
def contributionOf (d : Desc) (l : Loaded) (rows : List (List Byte)) : List Byte :=
  let b := wireBytes { l := l, rows := rows, tags := (List.range l.slots.length).map blockTag }
  tensorHeader d l.t b.length ++ b

/-- Read the source and give its contribution; its blocks are paired on the way to the fabric (R188). -/
def sourced (slips : List TagSlip) (s : State) (x : Cmd) (q : Queue) (a : Operand) (k : List Byte → Done) : Done :=
  within (loadOperands s q [a]) fun ls =>
    match ls with
    | [l] => paired s x q slips [a] [] fun _ => within (wireRows s q l) fun rows => k (contributionOf x.desc l rows)
    | _ => .stop .hold

/-! ### ALL_REDUCE (R378) -/

/-- Align one element at the command's scale, one depth coarser while it overflows: the replays made, and the value with its
depth (R201, R204). -/
def alignOne (strict : Bool) (base : Int) (v : Rat) : Nat → Nat → Nat × Try (Int × Nat)
  | 0, d => (d, fltOpen 0x3031)
  | fuel + 1, d =>
    let a := rne (v * pow2 (-(base + 16 * d)))
    if !outside64 a then (d, .ok (a, d)) else if strict then (d, fltOpen 0x3030) else if d == 2 then (d, fltOpen 0x3031)
    else alignOne strict base v fuel (d + 1)

/-- Align values in order, to the first fault. -/
def alignEach (strict : Bool) (base : Int) : List Rat → Nat × Try (List (Int × Nat))
  | [] => (0, .ok [])
  | v :: rest =>
    let r := alignOne strict base v 3 0
    match r.2 with
    | .error e => (r.1, .error e)
    | .ok y =>
      let t := alignEach strict base rest
      (r.1 + t.1, match t.2 with
        | .error e => .error e
        | .ok l => .ok (y :: l))

/-- The elements of a contribution, exact (R171, R201). -/
def elementsOf (x : Contribution) : Try (List Rat) :=
  match tryMap (fun e => rowVals { x.l with exact := true } e.2 e.1) (x.rows.zip (List.range x.rows.length)) with
  | .error e => .error e
  | .ok rows => tryMap (fun e => finiteElem 0 e.2 e.1) (rows.flatten.zip (List.range rows.flatten.length))

/-- The sum of every member's contribution: replays and escalations made, and totals with depths (R205, R378). -/
def reduceAll (strict : Bool) (base : Int) (xs : List Contribution) (count : Nat) : Nat × Try (List (Int × Nat)) :=
  match tryMap elementsOf xs with
  | .error e => (0, .error e)
  | .ok vals =>
    let parts := vals.map (alignEach strict base)
    let n := (parts.map (·.1)).sum
    match tryMap (·.2) parts with
    | .error e => (n, .error e)
    | .ok ls =>
      let r := combineEach strict base ((List.range count).map fun el =>
        let ps : List (Int × Int) := ls.map fun (l : List (Int × Nat)) => ((nth (0, 0) l el).1, base + 16 * ((nth (0, 0) l el).2 : Int))
        (ps, coarsest base ps))
      (n + r.1, r.2)

def allReduceStart (c : Nat) (slips : List TagSlip) (s : State) (x : Cmd) (q : Queue) : Done :=
  let d := x.desc
  onFlowOf s c x [(0x32, dScale0 d < -320 || 320 < dScale0 d), (0x34, dField d 0x34 1 != 0 && dField d 0x34 1 != 8)] fun s =>
    within (readOperands s q x.kept [(0, dField d 0x10 8, true, false), (1, dField d 0x18 8, false, true)]) fun os =>
      within (check1 os) fun _ =>
        match operandOf os 0, operandOf os 1 with
        | some a, some b =>
          within (need (sameDims a b) 0x3033 0x18) fun _ =>
            within (check2 [] os) fun _ =>
              within (check3 os) fun _ =>
                within (overlapWith s q b (os.filter (·.reads))) fun _ =>
                  sourced slips s x q { num := 0, t := a, reads := true, writes := false } fun b =>
                    .run (offer (keepRecords s c os) (dFlow d) b)
        | _, _ => .stop .hold
where
  dScale0 (d : Desc) : Int := toSigned 16 (dField d 0x32 2)

def allReduceFurther (c : Nat) (slips : List TagSlip) (s : State) (x : Cmd) (q : Queue) : Done :=
  let d := x.desc
  let flow := dFlow d
  let base := toSigned 16 (dField d 0x32 2)
  let strict := bit (dField d 0x34 1) 3
  match keptTensors s c with
  | [a, b] =>
    match disagrees s flow (headerFits d a) (otherMembers s) with
    | some m => badWriting s q [] (.fault 0x1904 m true)
    | none => match takeAll flow a s (allMembers s) with
      | none => .stop .hold
      | some (xs, s1) =>
        let os : List Operand := [{ num := 1, t := b, reads := false, writes := true }]
        let own := slips.filter (slipReal q [{ num := 0, t := a, reads := true, writes := false }])
        unslipped s1 x q b.destExtent (own ++ wireSlips q xs) fun _ =>
          let r := reduceAll strict base xs a.elems
          let s2 := countReplays s1 (q.engines.head?.getD 0) r.1
          match r.2 with
          | .error y => badWriting s2 q b.destExtent y
          | .ok l =>
            match writeDest s2 q 0 os 1 base false l with
            | .ok (s3, tally) => .ok s3 (slotResult (base + 16 * topDepth l) (topDepth l) r.1 tally)
            | .error (.page a b w) => pause s c q [] (.page a b w)
            | .error y => badWriting s2 q b.destExtent y
  | _ => .stop .hold

/-- ALL_REDUCE (R378). -/
def execAllReduce (c : Nat) (slips : List TagSlip) (s : State) : Out :=
  act true s fun s => collective s c 0x90 (allReduceStart c slips) (allReduceFurther c slips)

/-! ### ALL_GATHER, SEND, RECEIVE (R379) -/

/-- What an all-gather's destination may not differ in. -/
def gatherRefused (s : State) (a b : Tensor) : Bool :=
  a.format != b.format || a.storage != b.storage || (a.storage.isVb && a.budget != b.budget) ||
    b.dims4 != [a.dim 0, a.dim 1, a.dim 2, s.opx.members * a.dim 3]

def allGatherStart (c : Nat) (slips : List TagSlip) (s : State) (x : Cmd) (q : Queue) : Done :=
  onFlowOf s c x [] fun s =>
    within (tensorPair s x q (gatherRefused s)) fun (a, b) =>
      within (overlapWith s q b.t [a]) fun _ =>
        sourced slips s x q a fun y => .run (offer (keepRecords s c [a, b]) (dFlow x.desc) y)

/-- Write tensors that arrived, one after the other along dim3, as copy moves them (R194, R379). The scale word of ACC64
contributions whose scale words differ is a free value (DEDUCED, log entry 35). -/
def writeParts (s : State) (q : Queue) (dst : Tensor) (xs : List Contribution) : Try State :=
  let side := xs.flatMap (·.l.side)
  let cap := if dst.sideAddr == 0 then 0 else dst.sideCap
  let im : Image := { rows := xs.flatMap (·.rows), slots := retag (xs.flatMap (·.l.slots)), side := side, tally := {} }
  let word := fun (l : Loaded) => ofSigned 16 l.scale + l.depth * 2 ^ 16
  let first := (xs.head?.map fun x => word x.l).getD 0
  let w := if xs.all fun x => word x.l == first then first else (Config.freeDWord s.draws).toNat
  if dst.storage.isVb && cap < side.length then flt 0x6004 (side.length % 2 ^ 32)
  else writeRuns { s with draws := s.draws + 1 } q
    (imageWrites dst im ++ (if dst.storage == .acc64 then [(dst.scaleAddr, natLe 8 w)] else []))

def allGatherFurther (c : Nat) (s : State) (x : Cmd) (q : Queue) : Done :=
  let flow := dFlow x.desc
  match keptTensors s c with
  | [a, b] =>
    match disagrees s flow (headerFits x.desc a) (otherMembers s) with
    | some m => badWriting s q [] (.fault 0x1904 m true)
    | none => match takeAll flow a s (allMembers s) with
      | none => .stop .hold
      | some (xs, s1) => pairedWire s1 x q xs b.destExtent fun _ =>
        pausing s c q b.destExtent (writeParts s1 q b xs) fun s2 => .ok s2 0
  | _ => .stop .hold

/-- ALL_GATHER (R379). -/
def execAllGather (c : Nat) (slips : List TagSlip) (s : State) : Out :=
  act true s fun s => collective s c 0x91 (allGatherStart c slips) (allGatherFurther c)

/-- Claim the flow and hand the tensor over (R379); a send keeps no copy. -/
def sendStart (c : Nat) (slips : List TagSlip) (s : State) (x : Cmd) (q : Queue) : Done :=
  onFlowOf s c x [] fun s =>
    within (readOperands s q x.kept [(0, dField x.desc 0x10 8, true, false)]) fun os =>
      within (check1 os) fun _ =>
        within (check2 [] os) fun _ =>
          within (check3 os) fun _ =>
            match os with
            | [a] => sourced slips s x q a fun y => .run (handOver s (dFlow x.desc) y)
            | _ => .stop .hold

/-- A send completes when its last byte has been transmitted (R379). -/
def sendFurther (s : State) (x : Cmd) (_ : Queue) : Done :=
  if ownSent s (dFlow x.desc) then .ok s 0 else .stop .hold

/-- SEND (R379). -/
def execSend (c : Nat) (slips : List TagSlip) (s : State) : Out :=
  act true s fun s => collective s c 0x93 (sendStart c slips) sendFurther

/-- An origin beyond the cascade (DEDUCED, log entry 35). -/
def originBad (s : State) (o : Nat) : Bool := 63 < o || (s.opx.role != 0 && s.opx.members ≤ o)

def receiveStart (c : Nat) (s : State) (x : Cmd) (q : Queue) : Done :=
  onFlowOf s c x [(0x32, originBad s (dField x.desc 0x32 1))] fun s =>
    within (readOperands s q x.kept [(0, dField x.desc 0x10 8, false, true)]) fun os =>
      within (check1 os) fun _ =>
        within (check2 [] os) fun _ =>
          within (check3 os) fun _ => .run (keepRecords s c os)

/-- A receive completes when its last byte has been written (R379). -/
def receiveFurther (c : Nat) (s : State) (x : Cmd) (q : Queue) : Done :=
  let flow := dFlow x.desc
  let o := dField x.desc 0x32 1
  match keptTensors s c with
  | [t] =>
    match disagrees s flow (headerFits x.desc t) [o] with
    | some m => badWriting s q [] (.fault 0x1904 m true)
    | none => match takeContribution s flow o 0 t with
      | none => .stop .hold
      | some (y, s1) => pairedWire s1 x q [y] t.destExtent fun _ =>
        pausing s c q t.destExtent (writeParts s1 q t [y]) fun s2 => .ok s2 0
  | _ => .stop .hold

/-- RECEIVE (R379). -/
def execReceive (c : Nat) (s : State) : Out :=
  act true s fun s => collective s c 0x94 (receiveStart c) (receiveFurther c)

/-! ### BOUNDARY_EXCHANGE (R380, R381) -/

/-- The partition record's fields at fault (R380). -/
def partitionFields (h m : List Byte) (nb : Option Nat) (replicas members : Nat) : List (Nat × Bool) :=
  [(0, (nb.map fun n => fieldOf h 0 4 != n).getD false), (4, fieldOf h 4 1 != replicas),
   (5, fieldOf h 5 1 != members || !((List.range members).all fun k => m.any fun b => b.toNat == k))] ++
  ((List.range 10).map fun i => (6 + i, fieldOf h (6 + i) 1 != 0)) ++
  ((m.zip (List.range m.length)).filter fun e => members ≤ e.1.toNat).map fun e => (16 + e.2, true)

/-- Read and check the partition record (order 3). Without a live problem only what does not rest on it is checked; the handle's own
fault comes with the checks of R141 (R51, R384). -/
def readPartition (s : State) (q : Queue) (d : Desc) : Try (List Nat) :=
  let addr := dField d 0x28 8
  match readVa s q.port q.pasid (dField d 0x10 8) 64 with
  | .error e => .error e
  | .ok head =>
    match readVa s q.port q.pasid addr 16 with
    | .error e => .error e
    | .ok h =>
      let nb := match needProblem s q.port (dField d 0x20 8) false with
        | .ok (_, p) => some p.nb
        | .error _ => none
      let replicas := fieldOf head 0x2C 1
      let fixed := (partitionFields h [] nb replicas s.opx.members).filter fun f => f.1 != 5
      match needFields 0x1909 ((5, fieldOf h 5 1 != s.opx.members) :: fixed) with
      | .error e => .error e
      | .ok _ =>
        match nb with
        | none => .ok []
        | some n =>
          match readVa s q.port q.pasid (addr + 16) (replicas * n) with
          | .error e => .error e
          | .ok m =>
            match needFields 0x1909 (partitionFields h m nb replicas s.opx.members) with
            | .error e => .error e
            | .ok _ => .ok (m.map (·.toNat))

def boundaryStart (c : Nat) (s : State) (x : Cmd) (q : Queue) : Done :=
  within (flowFirst s x []) fun _ =>
    let s := claimAtStart s c x
    keeping s <|
      within (readPartition s q x.desc) fun m =>
        within (needFlow s c x) fun _ =>
          within (acceptLaunch s x q (some m) (dFlow x.desc)) fun (l, p, place) =>
            let l := { l with digest := launchDigest (peekVa s q.port q.pasid (dField x.desc 0x10 8) 64) l p }
            match startLaunch c s x q l p place (s.opx.member == 0) with
            | .run s1 =>
              if l.seed.isNone && s.opx.member == 0 then .run s1 else .run (beginStream s1 l)
            | y => y

/-- BOUNDARY_EXCHANGE (R381). -/
def execBoundaryExchange (c : Nat) (s : State) : Out := act true s fun s => runCmd s c 0x92 (boundaryStart c)

/-! ### SCHEDULE_LOAD and SCHEDULE_ARM (R365, R375, R382) -/

/-- The image's header fields at fault (order 1; DEDUCED, log entry 35). -/
def imageFields (h : List Byte) : List (Nat × Bool) :=
  [(0, fieldOf h 0 4 == 0)] ++ ((List.range 4).map fun i => (4 + i, fieldOf h (4 + i) 1 != 0)) ++
    ((List.range 6).map fun d => (8 + 2 * d, decide (4096 < fieldOf h (8 + 2 * d) 2))) ++
    ((List.range 12).map fun i => (0x14 + i, fieldOf h (0x14 + i) 1 != 0))

/-- May the module load a target's banks: its own while it is no member under a lead, or as the lead another member's (R375)? -/
def targetBad (s : State) (t : Nat) : Bool :=
  s.opx.role == 2 || (t != s.opx.member && (s.opx.role != 1 || s.opx.members ≤ t))

def scheduleLoadBody (c : Nat) (s : State) (x : Cmd) (q : Queue) : Done :=
  let d := x.desc
  let target := dField d 0x1C 1
  let size := dField d 0x18 4
  within (needDesc d 0x1901 [(0x18, decide (size < 32)), (0x1C, targetBad s target)]) fun _ =>
    within (readVa s q.port q.pasid (dField d 0x10 8) 32) fun h =>
      within (needFields 0x1901 (imageFields h)) fun _ =>
        let entries := ((List.range 6).map fun k => fieldOf h (8 + 2 * k) 2).sum
        within (need (size == 32 + 16 * entries) 0x1901 0x18) fun _ =>
          within (timingReady s) fun _ =>
            within (readVa s q.port q.pasid (dField d 0x10 8) size) fun img =>
              if target == s.opx.member then
                match imageBad s img with
                | some e => .stop (.fault 0x1907 e false)
                | none => within (needOpen (!s.opx.armed) 0x1908) fun _ => .ok (loadPending s img) 0
              else .run ((imageTo s (Config.memberHall target) img).modCmd c fun y => { y with saved := fieldOf img 0 4 })

/-- SCHEDULE_LOAD (R382). -/
def execScheduleLoad (c : Nat) (s : State) : Out := act true s fun s => runCmd s c 0x95 (scheduleLoadBody c)

/-- Does every member hold pending banks of the version (R382)? -/
def allLoaded (s : State) (v : Nat) : Bool :=
  v != 0 && s.opx.pendingBank.version == v &&
    (s.opx.role == 0 || (otherMembers s).all fun m => tblFind s.opx.loaded m == some v)

def scheduleArmBody (c : Nat) (s : State) (x : Cmd) (_ : Queue) : Done :=
  let v := dField x.desc 0x10 4
  let t := dField x.desc 0x18 8
  within (needDesc x.desc 0x1901 []) fun _ =>
    within (timingReady s) fun _ =>
      match bankBad s s.opx.pendingBank (fun _ _ => false) with
      | some e => .stop (.fault 0x1907 e false)
      | none =>
        within (needOpen (s.opx.role < 2 && s.opx.frame + 16 ≤ t && allLoaded s v) 0x1908) fun _ =>
          let s := arm s t
          if s.opx.role == 0 then .ok s 0
          else .run ((tellMembers s (.arm v t)).modCmd c fun y => { y with saved := v })

/-- SCHEDULE_ARM (R365 step 2). -/
def execScheduleArm (c : Nat) (s : State) : Out := act true s fun s => runCmd s c 0x96 (scheduleArmBody c)

end Sys2Proof.Machine
end

