-- ==== Sys2Proof/Machine/Control.lean ====
section
/-! DEFINITION. Fences and the control family (R51, R52, R266, R284-R287). -/

namespace Sys2Proof.Machine

/-- The fence a handle names (R50, R51). -/
def fenceIndex (s : State) (h : Nat) : Option Nat := handleIndex 5 (fun i => (s.fence? i).map (·.gen)) h

/-- The queue a handle names; from the start of its teardown the handle is stale (R51, R296). -/
def queueIndex (s : State) (h : Nat) : Option Nat :=
  handleIndex 6 (fun i => match s.queue? i with
    | some q => if q.state == .dead then none else some q.gen
    | none => none) h

/-- A fence handle of a command: stale faults with 0x4011, another port's with 0x4012 (R51, R266). -/
def needFence (s : State) (p : Port) (h off : Nat) : Try (Nat × Fence) :=
  match fenceIndex s h with
  | none => fltOpen 0x4011
  | some i => match s.fence? i with
    | none => fltOpen 0x4011
    | some f => if f.port == p then .ok (i, f) else flt 0x4012 off

/-- The value a fence takes from a signal (R285): set only forward, or add mod 2^64. -/
def fenceNext (cur value mode : Nat) : Nat :=
  if mode == 0 then (if atOrPast 64 value cur then value else cur) else (cur + value) % 2 ^ 64

/-- Is an earlier command of the queue still incomplete (R284, R285)? -/
def earlierRunning (s : State) (x : Cmd) : Bool :=
  x.node.isNone && s.cmds.any fun e => e.2.queue == x.queue && e.2.node.isNone && e.2.seq != x.seq && atOrPast 32 x.seq e.2.seq

def execNoOp (c : Nat) (s : State) : Out :=
  act true s fun s => runCmd s c 0x00 fun s _ _ => .ok s 0

/-- A fence wait as it stands: complete at or past the value, else waiting (R52, R284, R286). -/
def fenceWaitBody (s : State) (x : Cmd) (q : Queue) : Done :=
  within (needFence s q.port (dField x.desc 0x10 8) 0x10) fun f =>
    if atOrPast 64 f.2.value.toNat (dField x.desc 0x18 8) then .ok s 0 else .run s

def execFenceWait (c : Nat) (s : State) : Out :=
  act true s fun s => runCmd s c 0x01 fenceWaitBody

/-- FENCE_WAIT_SATISFIED: the fence has reached the value, or has been destroyed (R286). -/
def execFenceWaitSatisfied (c : Nat) (s : State) : Out :=
  act true s fun s => goOn s c 0x01 fenceWaitBody

/-- Write a fence's mirror, when it has one (R285). -/
def writeMirror (s : State) (f : Fence) (v : Nat) : Try State :=
  if f.mirror == 0 then .ok s else writeVa s f.port f.pasid f.mirror (natLe 8 v)

/-- The second half of a fence signal: the mirror, then the record with the value after the signal. A fault on the mirror
leaves the fence changed; a missing translation makes the command wait with the fence changed (R285). -/
def signalMirror (s : State) (c : Nat) (q : Queue) (f : Fence) (v : Nat) : Done :=
  match writeMirror s f v with
  | .ok s' => .ok s' (BitVec.ofNat 128 v)
  | .error (.fault code detail logged) => .bad s code detail 0 logged
  | .error (.page pasid pg w) =>
    .run ((askPage s q.port pasid pg w).modCmd c fun x => { x with page := some (pasid, pg, w), saved := v })
  | .error .hold => .run (s.modCmd c fun x => { x with saved := v })
  | .error e => .stop e

/-- A fence signal acts once every earlier command of its queue has completed; a node's acts when it starts (R285, R310). -/
def fenceSignalBody (c : Nat) (s : State) (x : Cmd) (q : Queue) : Done :=
  if earlierRunning s x then .stop .hold
  else
    within (needFence s q.port (dField x.desc 0x10 8) 0x10) fun f =>
      if x.stage == .running then signalMirror s c q f.2 x.saved
      else within (need (dField x.desc 0x20 1 ≤ 1) 0x4004 0x20) fun _ =>
        let v := fenceNext f.2.value.toNat (dField x.desc 0x18 8) (dField x.desc 0x20 1)
        signalMirror (s.setFence f.1 { f.2 with value := BitVec.ofNat 64 v }) c q f.2 v

/-- FENCE_SIGNAL (R285). -/
def execFenceSignal (c : Nat) (s : State) : Out :=
  act true s fun s => takeCmd s c 0x02 [.started, .waiting, .running] (fenceSignalBody c)

/-- QUEUE_BARRIER: completes when every earlier command of the queue has (R284). -/
def execQueueBarrier (c : Nat) (s : State) : Out :=
  act true s fun s => runCmd s c 0x03 fun s x _ => if earlierRunning s x then .stop .hold else .ok s 0

/-- RESUME: a halted queue is ready again; in a ready queue a no-op (R287). -/
def execResume (c : Nat) (s : State) : Out :=
  act true s fun s => runCmd s c 0x04 fun s x q =>
    .ok (if q.state == .halted then s.setQueue x.queue { q with state := .ready } else s) 0

end Sys2Proof.Machine
end

