-- ==== Sys2Proof/Machine/Registers.lean ====
section
/-! DEFINITION. What every set-up register reads (R12-R14, R487-R498), window by window. Reads with a side effect
(EVC_COUNT_n, ENT_RNG) have their value here and their effect in the commands of their own. -/

namespace Sys2Proof.Machine

/-- The low or high word of a 64-bit register pair. -/
def wordOf (v : Nat) (high : Bool) : Nat := if high then v / 2 ^ 32 % 2 ^ 32 else v % 2 ^ 32

/-- A value when a register array holds the offset: `base + step * i` for i below n. -/
def inArray (off base step n : Nat) : Option Nat :=
  if base ≤ off && (off - base) % step == 0 && (off - base) / step < n then some ((off - base) / step) else none

/-! ### MOD (01) -/

/-- 32 bits, one per engine from 32n on. -/
def engineBits (n : Nat) (f : Nat → Bool) : Nat := ((List.range 32).map fun b => 2 ^ b * bit01 (f (32 * n + b))).sum

def readMod (s : State) (p : Port) (off : Nat) : Nat :=
  if off == 0x00 then 0x0764A100
  else if off == 0x04 then 0x01000100
  else if off == 0x08 then 0x30080602
  else if off == 0x0C then 0x0300 * 2 ^ 16 + s.usableEngines.length
  else if off == 0x10 then 0x00C00000
  else if off == 0x14 then 0x00004000
  else if off == 0x18 then wordOf s.hbmVisible false
  else if off == 0x1C then wordOf s.hbmVisible true
  else if off == 0x20 then 0x18080200 + portIdx p
  else match inArray off 0x40 4 24 with
    | some n => engineBits n fun e => (s.eng e).usable
    | none => 0

/-! ### QFE (09) -/

/-- The state code of a queue (QFE_Q_STATE). -/
def qStateCode : QState → Nat
  | .ready => 1
  | .halted => 2
  | .error => 3
  | .dead => 4

/-- QFE_Q_STATE_n word w (registers of 09). -/
def readQState (q : Queue) (w : Nat) : Nat :=
  if w == 0 then
    2 ^ 29 * qStateCode q.state + 2 ^ 27 * q.kind + 2 ^ 26 * portIdx q.port + 2 ^ 25 * bit01 q.haltOnFault +
      q.engines.head?.getD 0
  else if w == 1 then q.fetched
  else if w == 2 then q.completed
  else q.lastFault

/-- A mailbox status register. -/
def mailboxStatus (m : Mailbox) : Nat := 2 ^ 31 * bit01 m.busy + m.result

def readQfe (s : State) (p : Port) (off : Nat) : Nat :=
  let x := s.port p
  if off == 0x00 then wordOf x.setup.addr false
  else if off == 0x04 then wordOf x.setup.addr true
  else if off == 0x0C then mailboxStatus x.setup
  else if off == 0x10 then s.qfe.timeLimit
  else if off == 0x14 then x.pollMaxUs * 2 ^ 16 + x.pollMinNs
  else if off == 0x18 then statRead x.shutter
  else match inArray off 0x40 4 24 with
    | some n => engineBits n fun e => (s.eng e).portB
    | none =>
      match inArray off 0xC0 4 24 with
      | some n => engineBits n fun e => (s.eng e).sill
      | none =>
        match inArray off 0x10000 4 (12288 * 4) with
        | some k =>
          match s.queue? (k / 4) with
          | some q => if q.port == p then readQState q (k % 4) else 0
          | none => 0
        | none => 0

/-! ### EVC host side (15) -/

def readEvcHost (s : State) (p : Port) (off : Nat) : Nat :=
  let x := s.port p
  match inArray off 0 4 32 with
  | some k => tblGet 0 x.hostEnable k
  | none =>
    match inArray off 0x80 4 32 with
    | some k => tblGet 0 x.hostCause k
    | none =>
      if off == 0x100 then x.hostVec
      else match inArray off 0x1000 4 2048 with
        | some n => (tblGet {} x.msix n).interval * 2 ^ 16 + (tblGet {} x.msix n).count
        | none => 0

/-! ### PWR (13) -/

/-- Learned power of a phase at a point, in mW per engine (R404). -/
def phat (s : State) (p : Port) (tag point : Nat) : Nat :=
  tblGet (Config.factoryPhat (p == .B) tag point) (tblGet {} (s.port p).phases tag).learned point

/-- The point a phase prefers: OP2 when its entry says none; 6 is treated as 7 (R405, registers of 13). -/
def preferredOp (x : Phase) : Nat := if x.prefOp < 6 then x.prefOp else 2

/-- Does OP5 plus the margin exceed 0.85 V (R393, R398)? -/
def op5Short (d : Die) : Bool := 850 < 820 + d.marginMv

def readPwr (s : State) (p : Port) (off : Nat) : Nat :=
  if off == 0x00 then s.pwr.capW
  else if off == 0x04 then bit01 s.pwr.burstEnable
  else if off == 0x08 then
    2 ^ 31 * bit01 s.pwr.capLimiting + 2 ^ 30 * bit01 s.pwr.burstActive + 2 ^ 29 * bit01 s.pwr.bankLow +
      2 ^ 28 * bit01 ((List.range 48).any fun d => op5Short (s.die d)) + 2 ^ 27 * bit01 s.pwr.controllerH1
  else if off == 0x0C then (s.pwr.inputMv % 2 ^ 16) * 2 ^ 16 + s.pwr.inputW % 2 ^ 16
  else if off == 0x10 then wordOf s.pwr.energyMj false
  else if off == 0x14 then wordOf s.pwr.energyMj true
  else if off == 0x18 then statRead s.pwr.capLimited
  else match inArray off 0x400 4 256 with
    | some n =>
      let x := tblGet {} (s.port p).phases n
      (phat s p n (preferredOp x) % 2 ^ 16) * 2 ^ 16 + x.priority * 16 + x.prefOp
    | none => 0

/-! ### ENT and SEC (14) -/

def entStateCode : EntState → Nat
  | .starting => 1
  | .ready => 2
  | .restarting => 3
  | .permanentFault => 4

/-- The status of ENT_RNG before a read is served (R419, R421, R422): starting not-ready, stopped no-data. -/
def rngStatus (x : Entropy) : Nat :=
  if x.state == .permanentFault then 3 else if x.instantiated then 0 else if x.begun then 2 else 1

/-- ENT; a 32-bit read of ENT_RNG returns zero (R423). -/
def readEnt (s : State) (p : Port) (off : Nat) : Nat :=
  let x := (s.host p).ent
  if off == 0x00 then entStateCode x.state * 2 ^ 29 + x.failures * 2 ^ 24
  else if off == 0x10 then statRead x.healthFail
  else if off == 0x14 then statRead x.consumerErr
  else 0

def readSec (s : State) (p : Port) (off : Nat) : Nat :=
  let x := s.port p
  if off == 0x00 then s.sec.lifecycle * 2 ^ 29 + s.sec.transitionsLeft * 2 ^ 16 + s.sec.tamperCount
  else if off == 0x04 then
    2 ^ 31 * bit01 s.sec.bootFailed + 2 ^ 30 * bit01 s.sec.slotB + s.sec.imageSvn * 2 ^ 8 + s.sec.fuseSvn
  else if off == 0x08 then s.sec.fwVersion
  else if off == 0x0C then s.sec.tamperInputs
  else if off == 0x10 then wordOf x.sec.addr false
  else if off == 0x14 then wordOf x.sec.addr true
  else if off == 0x1C then mailboxStatus x.sec
  else 0

/-! ### MEM and FLS (11) -/

def stackCode : StackState → Nat
  | .up => 0
  | .degraded => 1
  | .fenced => 2
  | .absent => 3

def readMem (s : State) (p : Port) (off : Nat) : Nat :=
  let x := s.port p
  if off == 0x00 then wordOf x.map.addr false
  else if off == 0x04 then wordOf x.map.addr true
  else if off == 0x0C then mailboxStatus x.map
  else if off == 0x10 then s.hbm.problemGib
  else if off == 0x18 then wordOf s.poolFree false
  else if off == 0x1C then wordOf s.poolFree true
  else if off == 0x20 then statRead s.hbm.corrected
  else if off == 0x24 then statRead s.hbm.uncorrected
  else match inArray off 0x40 4 24 with
    | some n =>
      let k := s.stack n
      stackCode k.state * 2 ^ 30 + min 0xFF k.unitsRetired * 2 ^ 16 + min 0xFF k.lanesRepaired
    | none => 0

def channelCode : ChannelState → Nat
  | .up => 0
  | .rebuilding => 1
  | .fenced => 2

/-- Store capacity in bytes (R338, R344), and what no store reserves (FLS_FREE). -/
def storeCapacity : Nat := 14000000000000
def State.storeFree (s : State) : Nat := storeCapacity - (s.fls.stores.map fun e => e.2.blocks * 4096).sum

/-- spare_permille and the two wear figures of R341, R346. -/
def sparePermille (f : Flash) : Nat := f.spareBlocks * 1000 / rawBlocks
def wearPermille (f : Flash) : Nat := (f.eraseBlocks.map (·.2.erases)).sum * 1000 / (3000 * rawBlocks)
def wearMax (f : Flash) : Nat := (f.eraseBlocks.map (·.2.erases)).foldl max 0 * 1000 / 3000

def readFls (s : State) (off : Nat) : Nat :=
  if off == 0x00 then wordOf storeCapacity false
  else if off == 0x04 then wordOf storeCapacity true
  else if off == 0x08 then wordOf s.storeFree false
  else if off == 0x0C then wordOf s.storeFree true
  else if off == 0x10 then
    2 ^ 31 * bit01 s.fls.readOnly + 2 ^ 30 * bit01 s.fls.spareLow + min 1023 (sparePermille s.fls) * 2 ^ 10 +
      min 1023 (wearPermille s.fls)
  else if off == 0x14 then statRead s.fls.uncorrectable
  else match inArray off 0x40 4 16 with
    | some n =>
      let c := s.channel n
      channelCode c.state * 2 ^ 30 + c.failed.length % 16 * 2 ^ 16 + min 0xFFFF c.grownBad
    | none => 0

/-! ### OPX (12) -/

def timingCode : Timing → Nat
  | .unlocked => 0
  | .locking => 1
  | .aligned => 2
  | .holdover => 3
  | .degraded => 4

def pairCode : PairState → Nat
  | .up => 0
  | .spare => 1
  | .fenced => 2
  | .dark => 3

def readOpx (s : State) (off : Nat) : Nat :=
  let x := s.opx
  if off == 0x00 then x.hallId
  else if off == 0x04 then x.periodNs * 2 ^ 16 + x.openCw * 2 ^ 8
  else if off == 0x08 then
    timingCode x.timing * 2 ^ 29 + 2 ^ 28 * bit01 x.sourceX3 + 2 ^ 27 * bit01 (offsetWrong x) + x.holdoverLeft % 2 ^ 16
  else if off == 0x0C then x.markX0
  else if off == 0x10 then x.markX3
  else if off == 0x14 then x.launchNs
  else if off == 0x18 then x.holdoverLimit
  else if off == 0x20 then x.role * 2 ^ 30 + x.member * 2 ^ 24 + x.members * 2 ^ 16 + x.slipLead * 2 ^ 8
  else if off == 0x24 then x.leadHall
  else if off == 0x28 then x.active.version
  else if off == 0x2C then x.pendingBank.version
  else if off == 0x30 then 2 ^ 31 * bit01 x.armed
  else if off == 0x38 then wordOf (if x.armed then x.transom else 0) false
  else if off == 0x3C then wordOf (if x.armed then x.transom else 0) true
  else if off == 0x40 then wordOf x.frame false
  else if off == 0x44 then wordOf x.frame true
  else if off == 0x48 then statRead x.slipCount
  else if off == 0x4C then statRead x.repeatCount
  else if off == 0x50 then statRead x.violations
  else 0

/-! ### FLT (16) and GRF (10) -/

def readFlt (s : State) (p : Port) (off : Nat) : Nat :=
  let x := s.port p
  if off == 0x00 then s.flt.head
  else if off == 0x04 then x.logIdx
  else if off == 0x40 then wordOf x.dumpAddr false
  else if off == 0x44 then wordOf x.dumpAddr true
  else if off == 0x48 then bit01 x.dumpEnable
  else if off == 0x4C then x.dumpWindow * 2 ^ 30 + s.flt.mirror * 2 ^ 28
  else if off == 0x84 then
    2 ^ 31 * bit01 x.warning + x.requester * 2 ^ 29 + (x.graceEnd - s.time) / 1000 % 2 ^ 12
  else if off == 0x88 then x.warnVec
  else if off == 0x90 then 2 ^ 31 * bit01 s.flt.stopped + s.flt.code
  else if off == 0xB0 then statRead x.violations
  else match inArray off 0x10 4 8 with
    | some n => x.logEntry.toNat / 2 ^ (32 * n) % 2 ^ 32
    | none => 0

/-- Graph-area bytes in use (R303). -/
def State.graphUsed (s : State) : Nat :=
  (s.grf.graphs.map fun e => e.2.baseCharge + (e.2.versions.map fun v => v.2.charged).sum).sum

/-- The graph area (R302). -/
def graphArea : Nat := 2 ^ 31

def readGrf (s : State) (p : Port) (off : Nat) : Nat :=
  let mine := s.grf.graphs.filter fun e => e.2.port == p
  if off == 0x00 then mine.length * 2 ^ 16 + (mine.map fun e => e.2.versions.length).sum % 2 ^ 16
  else if off == 0x08 then wordOf graphArea false
  else if off == 0x0C then wordOf graphArea true
  else if off == 0x10 then wordOf s.graphUsed false
  else if off == 0x14 then wordOf s.graphUsed true
  else 0

/-! ### Die windows (17) -/

/-- The 2-bit field of a bridge port: up, degraded, fenced, none (R43). -/
def bridgeState (s : State) (d o : Nat) : Nat :=
  match bridgePeer d o with
  | none => 3
  | some x =>
    let a := tblGet ({} : OutPort) s.mesh.outs (outKey d o)
    let b := match portTo x d with
      | some r => tblGet ({} : OutPort) s.mesh.outs (outKey x r)
      | none => a
    let fenced := (List.range (halvesOf d o)).filter fun h => a.fencedHalves.contains h || b.fencedHalves.contains h
    if fenced.length == halvesOf d o then 2
    else if !fenced.isEmpty || !a.spareHalves.isEmpty || !b.spareHalves.isEmpty then 1
    else 0

/-- The engine queue slot of a queue. -/
def queueSlot (g : Engine) (q : Nat) : Nat := ((g.queues.find? fun e => e.2 == q).map (·.1)).getD 0

/-- A byte of ENG_ACC_OWNER (registers of 07). -/
def ownerByte (g : Engine) : SlotState → Nat
  | .free => 0
  | .claimed q => 0x40 + queueSlot g q
  | .kept q => 0x80 + queueSlot g q
  | .held q _ => 0xC0 + queueSlot g q

/-- ENG_ACC_OWNER. -/
def accOwner (g : Engine) : Nat :=
  ((List.range 4).map fun n => 2 ^ (8 * n) * ownerByte g (nth .free g.slots n)).sum

/-- ENG_TASK (registers of 08). -/
def taskReg (g : Engine) : Nat :=
  match g.task with
  | none => 0
  | some t =>
    let st := match t.wait with
      | .running => 1
      | .ending _ _ => 3
      | .mirror _ _ => 3
      | _ => 2
    st * 2 ^ 30 + queueSlot g t.queue * 2 ^ 12 + t.pc % 2 ^ 12

def phaseCode : TestPhase → Nat
  | .idle => 0
  | .copy => 1
  | .march => 2
  | .restore => 3

/-- SPD_TEST_STATUS (registers of 08). -/
def testStatus (b : Bank) : Nat :=
  phaseCode b.phase * 2 ^ 30 + b.region * 2 ^ 16 + min 0xFF b.pointer * 2 ^ 8 + b.repairs.length

/-- The scratchpad whose registers a die window shows at an engine's place (R260). -/
def bankOf (d e : Nat) : Nat := if d < 48 then 16 * d + e else 768 + (d - 62)

/-- A register of one engine's annealer block. -/
def readAnl (s : State) (e k : Nat) : Nat :=
  let g := s.eng e
  if k == 0x00 then statRead g.batches
  else if k == 0x04 then statRead g.deferrals
  else if k == 0x08 then statRead g.groupRefusals
  else if k == 0x0C then statRead g.tableLate
  else if k == 0x10 then statRead g.epochWaits
  else if k == 0x14 then
    match heldBy g with
    | some (q, _) => neuralOn s e * 2 ^ 16 + queueSlot g q * 2 ^ 8 + 1
    | none => 0
  else 0

/-- A register of one scratchpad. -/
def readSpd (s : State) (d e k : Nat) : Nat :=
  let b := s.bank (bankOf d e)
  if k < 0x20 then statRead (tblGet {} b.conflicts (k / 4))
  else if k == 0x20 then testStatus b
  else if k == 0x28 then statRead b.ecc
  else 0

/-- 32 sources' bits of a controller. -/
def sourceBits (h : HostDie) (k : Nat) (f : Nat → Source → Bool) : Nat :=
  ((List.range 32).map fun b => 2 ^ b * bit01 (f (32 * k + b) (getSrc h (32 * k + b)))).sum

/-- EVC_SRC_CFG_n (registers of 15). -/
def srcCfg (x : Source) : Nat :=
  2 ^ 31 * bit01 x.compat + 2 ^ 30 * bit01 x.fast + 2 ^ 28 * x.core + 2 ^ 27 * bit01 x.coalesce +
    2 ^ 26 * bit01 x.level + 2 ^ 16 * x.filter + 2 ^ 12 * x.priority

/-- The event controller's registers in a host die's window. -/
def readEvcCore (h : HostDie) (off : Nat) : Nat :=
  match inArray off 0x50000 4 1024 with
  | some n => srcCfg (getSrc h n)
  | none =>
    match inArray off 0x51000 4 1024 with
    | some n => if (getSrc h n).compat then 0 else (getSrc h n).count
    | none =>
      match inArray off 0x52000 4 (5 * 32) with
      | some k =>
        if k < 64 then sourceBits h (k % 32) fun _ x => x.masked
        else if k < 128 then sourceBits h (k % 32) fun n x => srcPending n x
        else sourceBits h (k % 32) fun _ x => x.active
      | none =>
        match inArray off 0x53000 4 64 with
        | some k =>
          let c := getCore h (k / 16)
          if k % 16 == 0 then c.vbaseN * 2 ^ 16
          else if k % 16 == 1 then c.vbaseF * 2 ^ 16
          else if k % 16 == 3 then c.claimedFast * 2 ^ 16 + c.claimedNormal
          else if k % 16 == 4 then c.coalInterval * 2 ^ 16 + c.coalCount
          else 0
        | none => 0

/-- A register of an optical die's window. -/
def readOpxDie (s : State) (d off : Nat) : Nat :=
  match inArray off 0x10000 4 24 with
  | some n =>
    let x := s.pair (pairKey (d - 56) n)
    pairCode x.state * 2 ^ 30 + x.txSpare.getD 15 * 2 ^ 20 + x.rxSpare.getD 15 * 2 ^ 16
  | none =>
    match inArray off 0x10080 4 24 with
    | some n =>
      let x := s.pair (pairKey (d - 56) n)
      x.peerHall * 2 ^ 16 + x.peerDie * 2 ^ 8 + x.peerPos
    | none => if off == 0x10100 then statRead (s.die d).fecCorrected else 0

/-- Registers of a compute die that belong to its engines, and of the scratchpads of host dies. -/
def readEngineRegs (s : State) (d off : Nat) : Nat :=
  let host := dieKind d == 3
  match inArray off 0x400 4 64 with
  | some k =>
    let g := s.eng (16 * d + k % 16)
    if host then 0
    else if k < 16 then statRead g.streamTag
    else if k < 32 then statRead g.accReplay
    else if k < 48 then accOwner g
    else taskReg g
  | none =>
    match inArray off 0x20000 4 256 with
    | some k => if host then 0 else readAnl s (16 * d + k / 16) (4 * (k % 16))
    | none =>
      match inArray off 0x30000 4 256 with
      | some k => if host && k / 16 != 0 then 0 else readSpd s d (k / 16) (4 * (k % 16))
      | none =>
        if off == 0x30400 then 2 ^ 31 * bit01 (s.die d).testEnable + (s.die d).testInterval
        else match inArray off 0x40010 4 4 with
          | some n =>
            if host then 0
            else ((List.range 4).map fun i => 2 ^ (8 * i) * (s.eng (16 * d + 4 * n + i)).louvre).sum
          | none => if off == 0x40020 && !host then statRead (s.die d).louvreTime else 0

/-- A register of a die window (R491, R496). -/
def readDie (s : State) (d off : Nat) : Nat :=
  let x := s.die d
  if !x.powered then 0xFFFFFFFF
  else if off == 0x00 then
    dieKind d * 2 ^ 24 + d * 2 ^ 16 + (if d < 48 then dieCol d * 2 ^ 8 + dieRow d else 0xFFFF)
  else if off == 0x10 then ((List.range 5).map fun o => 4 ^ o * bridgeState s d o).sum
  else if off == 0x14 then statRead x.meshStall
  else if off == 0x18 then statRead x.lossTop
  else if off == 0x20 then x.cause.toNat
  else if off == 0x40000 then x.op * 2 ^ 29 + 2 ^ 28 * bit01 x.hold + x.tempC % 2 ^ 8 * 2 ^ 16 + x.powerCw % 2 ^ 16
  else if off == 0x40004 then x.budgetCw
  else if off == 0x40008 then 2 ^ 31 * bit01 (d < 48 && op5Short x) + x.marginMv * 2 ^ 16 + x.droopMv * 2 ^ 8 + x.ageingMv
  else if dieKind d == 0 then readEngineRegs s d off
  else if dieKind d == 2 then readOpxDie s d off
  else if dieKind d == 3 then
    if off < 0x50000 then readEngineRegs s d off else readEvcCore (s.host (if d == 62 then .A else .B)) off
  else 0

/-! ### BAR0 -/

/-- Reads the module answers while boot-failed, BLANK or SCRAPPED (R493). -/
def readAllowed (s : State) (off : Nat) : Bool :=
  (!s.sec.bootFailed && s.sec.lifecycle != 0 && s.sec.lifecycle != 4) || off == 0 || off == 4 ||
    (0x408000 ≤ off && off < 0x408020)

/-- An MSI-X table word or a word of the pending bit array (R454, R487). -/
def readMsix (x : PortState) (off : Nat) : Nat :=
  if off < 0x3008000 then
    let m := tblGet {} x.msix ((off - 0x3000000) / 16)
    let k := (off - 0x3000000) % 16 / 4
    if k == 0 then wordOf m.addr false else if k == 1 then wordOf m.addr true else if k == 2 then m.data
    else bit01 m.masked
  else
    ((List.range 32).map fun b => 2 ^ b * bit01 (tblGet {} x.msix ((off - 0x3008000) * 8 + b)).pending).sum

/-- The value of a 32-bit BAR0 read through a port (R487-R491). -/
def readReg (s : State) (p : Port) (off : Nat) : Nat :=
  if !readAllowed s off then 0
  else if off < 0x100000 then readMod s p off
  else if off < 0x200000 then readQfe s p (off - 0x100000)
  else if off < 0x300000 then readEvcHost s p (off - 0x200000)
  else if off < 0x400000 then readPwr s p (off - 0x300000)
  else if off < 0x408000 then readEnt s p (off - 0x400000)
  else if off < 0x500000 then readSec s p (off - 0x408000)
  else if off < 0x600000 then readMem s p (off - 0x500000)
  else if off < 0x700000 then readFls s (off - 0x600000)
  else if off < 0x800000 then readOpx s (off - 0x700000)
  else if off < 0x900000 then readFlt s p (off - 0x800000)
  else if off < 0xA00000 then readGrf s p (off - 0x900000)
  else if off < 0x1000000 then 0
  else if off < 0x3000000 then readDie s ((off - 0x1000000) / 0x80000) ((off - 0x1000000) % 0x80000)
  else if off < 0x3008100 then readMsix (s.port p) off
  else 0

/-- The value of an aligned 64-bit BAR0 read: both words from one state (R12, R298, R410, R489). -/
def readReg64 (s : State) (p : Port) (off : Nat) : Nat := readReg s p off + 2 ^ 32 * readReg s p (off + 4)

end Sys2Proof.Machine
end

