-- ==== Sys2Proof/Machine/Fatal.lean ====
section
/-! DEFINITION. Fatal errors and the dump (R473-R476). -/

namespace Sys2Proof.Machine

/-- `n` register offsets from `base` on. -/
def span (base n : Nat) : List Nat := (List.range n).map fun i => base + 4 * i

/-- The registers of the global windows with one copy (R487, R492). -/
def singleRegs : List Nat :=
  span 0x000000 9 ++ span 0x000040 24 ++ [0x100010] ++ span 0x100040 24 ++ span 0x1000C0 24 ++ span 0x110000 49152 ++
  span 0x300000 7 ++ span 0x408000 4 ++ [0x500010, 0x500018, 0x50001C, 0x500020, 0x500024] ++ span 0x500040 24 ++
  span 0x600000 6 ++ span 0x600040 16 ++ span 0x700000 7 ++ span 0x700020 5 ++ span 0x700038 7 ++
  [0x800000, 0x800090, 0x8000A0] ++ span 0x900008 4

/-- The banked registers of the global windows (R492). -/
def bankedRegs : List Nat :=
  span 0x100000 4 ++ [0x100014, 0x100018] ++ span 0x200000 65 ++ span 0x201000 2048 ++ span 0x300400 256 ++
  [0x400000, 0x400008, 0x40000C, 0x400010, 0x400014] ++ span 0x408010 4 ++ span 0x500000 4 ++
  [0x800004] ++ span 0x800010 8 ++ span 0x800040 4 ++ span 0x800080 3 ++ [0x8000B0, 0x900000]

/-- The registers of a die window (R496). -/
def dieRegs (d : Nat) : List Nat :=
  [0x00, 0x10, 0x14, 0x18, 0x20, 0x40000, 0x40004, 0x40008] ++
  (if dieKind d == 0 then
    span 0x400 64 ++ ((List.range 16).flatMap fun e => span (0x20000 + 0x40 * e) 6) ++
    ((List.range 16).flatMap fun e => span (0x30000 + 0x40 * e) 9 ++ [0x30028 + 0x40 * e]) ++ [0x30400] ++
    span 0x40010 5
  else if dieKind d == 2 then span 0x10000 24 ++ span 0x10080 24 ++ [0x10100]
  else if dieKind d == 3 then
    span 0x30000 9 ++ [0x30028, 0x30400] ++ span 0x50000 1024 ++ span 0x51000 1024 ++ span 0x52000 160 ++
    ((List.range 4).flatMap fun c => span (0x53000 + 0x40 * c) 5)
  else [])

/-- Offset and value pairs (R476). -/
def regPairs (f : Nat → Nat) (l : List Nat) : List Byte := l.flatMap fun o => natLe 4 o ++ natLe 4 (f o)

/-- The oldest running command of a queue. -/
def oldestRunning (s : State) (q : Nat) : Nat :=
  ((s.cmds.filter fun e => e.2.queue == q && e.2.node.isNone).head?.map fun e => e.2.seq).getD 0

/-- The queue section: 64 bytes a queue (R476). -/
def dumpQueues (s : State) : List Byte := s.qfe.queues.flatMap fun e =>
  natLe 4 (readQState e.2 0) ++ natLe 4 (readQState e.2 1) ++ natLe 4 (readQState e.2 2) ++ natLe 4 (readQState e.2 3) ++
    natLe 8 e.2.pasid ++ natLe 8 e.2.ring ++ natLe 8 e.2.cpl ++ natLe 8 (oldestRunning s e.1) ++ zeros 16

/-- The step of R209 an engine's slot-naming command is at: 0 none, 2 running, 3 combined, 5 committing. -/
def stepOf209 (s : State) (c : Nat) : Nat :=
  match tblFind s.jobs c, s.cmd? c with
  | some j, some x => if 4 ≤ j.slot then 0 else if x.stage == .committing then 5 else if j.combined.isSome then 3 else 2
  | _, _ => 0

/-- The engine section: 32 bytes an engine; up to ten running commands (R476; DESIGN CHOICE, log entry 20). -/
def dumpEngine (s : State) (e : Nat) : List Byte :=
  let g := s.eng e
  let run := s.cmds.filter fun c => match s.queue? c.2.queue with
    | some q => q.engines.contains e
    | none => false
  let ops := ((run.take 10).flatMap fun c => natLe 1 (dOpcode c.2.desc) ++ natLe 1 (queueSlot g c.2.queue))
  natLe 4 (accOwner g) ++ natLe 4 (taskReg g) ++ natLe 1 g.louvre ++ natLe 1 (s.die (engineDie e)).op ++
    (ops ++ zeros 20).take 20 ++ natLe 1 ((run.map fun c => stepOf209 s c.1).foldl max 0) ++ zeros 1

/-- The power history: input power, cap, cap_limiting, hottest die, 16 bytes each (R476). -/
def dumpPower (s : State) : List Byte := s.pwr.history.reverse.flatMap fun h =>
  natLe 4 h.1 ++ natLe 4 h.2.1 ++ natLe 4 (bit01 h.2.2.1) ++ natLe 4 h.2.2.2

/-- The timing section (R476). -/
def dumpTiming (s : State) : List Byte :=
  regPairs (readReg s .A) (span 0x700000 7 ++ span 0x700020 5 ++ span 0x700038 7) ++
    ((List.range 6).flatMap fun d => regPairs (readReg s .A) (span (0x1000000 + (56 + d) * 0x80000 + 0x10000) 24))

/-- The sections of a dump: type, instance, bytes (R476). -/
def dumpSections (s : State) : List (Nat × Nat × List Byte) :=
  [(1, 0, s.flt.entries.reverse.flatMap logBytes),
   (2, 0, regPairs (readReg s .A) (singleRegs ++ bankedRegs)),
   (2, 1, regPairs (readReg s .B) bankedRegs)] ++
  ((List.range 64).map fun d => (3, d, regPairs (readDie s d) (dieRegs d))) ++
  [(4, 0, dumpQueues s), (5, 0, (List.range 768).flatMap (dumpEngine s)), (6, 0, dumpPower s), (7, 0, dumpTiming s),
   (8, 0, Config.firmwareTrace s.flt.dumpNumber)]

/-- Round up to 4 KiB. -/
def up4k (n : Nat) : Nat := (n + 4095) / 4096 * 4096

/-- The directory, given the offset of the first section. -/
def dumpDirectory : Nat → List (Nat × Nat × List Byte) → List Byte
  | _, [] => []
  | off, (t, i, b) :: r =>
    natLe 2 t ++ natLe 2 i ++ zeros 4 ++ natLe 8 off ++ natLe 8 b.length ++ zeros 8 ++
      dumpDirectory (off + up4k b.length) r

/-- The whole dump (R476): the directory and sections, then the header with its complete bit. -/
def dumpBytes (s : State) (code detail : Nat) (byH1 : Bool) : List Byte :=
  let secs := dumpSections s
  let dir := dumpDirectory 0x1000 secs
  let body := secs.flatMap fun x => x.2.2 ++ zeros (up4k x.2.2.length - x.2.2.length)
  let tail := dir ++ zeros (0x1000 - 0x80 - dir.length) ++ body
  natLe 4 0x504D4456 ++ natLe 4 1 ++ natLe 8 (0x80 + tail.length) ++ natLe 2 code ++ zeros 2 ++ natLe 4 detail ++
    natLe 8 (timerOf s (if byH1 then 63 else 62)) ++ Config.serial.take 16 ++ zeros (16 - Config.serial.length) ++
    natLe 4 s.sec.fwVersion ++ natLe 1 s.sec.lifecycle ++ natLe 1 (1 + 2 * bit01 byH1 + 4 * bit01 (code == 0xF801)) ++
    natLe 2 secs.length ++ natLe 8 s.flt.dumpNumber ++ shake256 64 tail ++ tail

/-- Write the dump to one port's window when it is enabled and the link is up (R474, R475). -/
def dumpTo (s : State) (p : Port) (b : List Byte) : State :=
  let x := s.port p
  if x.dumpEnable && x.mayRequest then
    (s.write (.untranslated p) x.dumpAddr b).modPort p fun y => { y with dumpWindow := 2 }
  else if x.dumpEnable then s.modPort p fun y => { y with dumpWindow := 3 }
  else s

/-- The outstanding reads are of commands killed. -/
def PortState.killReads (x : PortState) : PortState := { x with reads := x.reads.map fun r => { r with killed := true } }

/-- Write the dump to every window, and keep it for the mirror of R347 (R475). -/
def writeDump (s : State) (code detail : Nat) (byH1 : Bool) : State :=
  let b := dumpBytes s code detail byH1
  let s := dumpTo (dumpTo s .A b) .B b
  let s := s.write (.dump 2) 0 b
  { s with flt := { s.flt with dumpNumber := s.flt.dumpNumber + 1, dumpLen := b.length, mirror := 1, dumpByH1 := byH1 } }

/-- Kill every running command without a record; what they were writing is undefined (R68). Their host reads stay outstanding until
they are answered or abandoned (R473, R478). -/
def killAll (s : State) : State :=
  let s := s.cmds.foldl (fun s e => releaseFlows (cutOffStore (scrambleDests s e.2) e.2) e.1 true) s
  { s with cmds := [], jobs := [], grf := { s.grf with launches := [], patches := [] }, spin := { s.spin with launches := [] },
           portA := s.portA.killReads, portB := s.portB.killReads }

/-- FLT_RESET_STATUS shows no warning any more (R478). -/
def endWarning (x : PortState) : PortState := { x with warning := false, graceEnd := 0 }

/-- A reset goes on at step 3 (R478, R479). -/
def stepThree (s : State) : State :=
  { s with flt := { s.flt with resetStep := 3 }, portA := endWarning s.portA, portB := endWarning s.portB }

/-- A fatal error (R473): logged, the module stopped, FLT_FATAL set, both warning vectors triggered, the dump written,
commands killed. During step 1 or 2 of a reset the reset goes on at step 3 (R479). A stopped module stays as it is. -/
def fatalOn (s : State) (code detail die : Nat) : State :=
  if s.flt.stopped then s
  else
    let byH1 := if code == 0xF002 then detail == 62 else s.pwr.controllerH1
    let s := logOnDie s code detail die
    let s := { s with flt := { s.flt with stopped := true, code := code, detail := detail, fatalTime := s.time } }
    let s := msixTrigger (msixTrigger s .A s.portA.warnVec) .B s.portB.warnVec
    let s := killAll (writeDump s code detail byH1)
    if s.flt.resetStep == 1 || s.flt.resetStep == 2 then stepThree s else s

/-- A fatal error of the module, or of a die its detail names (0xF002, 0xF101). -/
def fatal (s : State) (code detail : Nat) : State :=
  fatalOn s code detail (if code == 0xF002 || code == 0xF101 then detail else 0xFF)

end Sys2Proof.Machine
end

