-- ==== Sys2Proof/Machine/Task.lean ====
section
/-! DEFINITION. Software tasks in context 1 of a sequencer, and the task family (R242-R251). -/

namespace Sys2Proof.Machine

/-! ### Instructions (R243, R244) -/

/-- The word at a pc; beyond the image what the store held (DESIGN CHOICE, log entry 7). -/
def taskWord (e : Nat) (t : Task) (pc : Nat) : Nat := ((t.code[pc]?).getD (Config.staleInstruction e pc)).toNat

def opField (w : Nat) : Nat := bits w 26 6
def dReg (w : Nat) : Nat := bits w 20 6
def aReg (w : Nat) : Nat := bits w 14 6
def bReg (w : Nat) : Nat := bits w 8 6
def immField (w : Nat) : Int := toSigned 14 (bits w 0 14)

/-- Register r; s0 reads as zero (R243). -/
def getReg (t : Task) (r : Nat) : DWord := if r == 0 then 0 else tblGet 0 t.regs r

/-- Write register r; a write to s0 is ignored (R243). -/
def setReg (t : Task) (r : Nat) (v : DWord) : Task := if r == 0 then t else { t with regs := tblSet 0 t.regs r v }

/-- The next instruction; the pc has 12 bits. -/
def nextPc (t : Task) (n : Nat) : Task := { t with pc := (t.pc + n) % 4096 }

/-- The opcodes of R244. -/
def taskOps : List Nat :=
  [0x00, 0x01, 0x02, 0x03, 0x04, 0x05, 0x06, 0x07, 0x08, 0x10, 0x11, 0x18, 0x19, 0x1A, 0x1B, 0x20, 0x21, 0x22, 0x23, 0x24,
   0x28, 0x29, 0x2A, 0x2B, 0x2C, 0x2D]

def setTask (s : State) (e : Nat) (t : Task) : State := s.modEng e fun g => { g with task := some t }

/-! ### The end of a task (R250) -/

/-- Hand every descriptor never done its record with 0x3059, in sequence order (R245). -/
def undoneRecords (s : State) : List Handed → State
  | [] => s
  | h :: rest =>
    match s.queue? h.queue with
    | none => undoneRecords s rest
    | some q =>
      undoneRecords (putRecord s h.queue
        { seq := h.seq, fault := 0x3059, opcode := dOpcode h.desc, status := phaseBit q h.seq, detail := 0,
          tag := dField h.desc 4 4, result := 0, irq := bit (dField h.desc 1 1) 1 }) rest

/-- The end record (R250): fault, pc, the local timer. -/
def endRecord (s : State) (e : Nat) (t : Task) (fault : Nat) : List Byte :=
  natLe 2 fault ++ natLe 2 t.pc ++ zeros 4 ++ natLe 8 (timerOf s (engineDie e))

/-- The port of a task's queue. -/
def taskPort (s : State) (t : Task) : Port := ((s.queue? t.queue).map (·.port)).getD .A

/-- A task leaves its engine. -/
def dropTask (s : State) (e : Nat) : State := s.modEng e fun g => { g with task := none }

/-- A task's end waits for a page, or for its port to send; a write that cannot come to be is left out by `skip` (R250, R270,
R472, R502). -/
def endWaits (s : State) (e : Nat) (t : Task) (wait : Option (Nat × Nat) → TaskWait) (skip : State) : Stop → State
  | .page pasid pg w => askPage (setTask s e { t with wait := wait (some (pasid, pg)) }) (taskPort s t) pasid pg w
  | .hold => if (s.port (taskPort s t)).linkUp then setTask s e { t with wait := wait none } else skip
  | _ => skip

/-- The end fence is signalled: its mirror takes the value, and the task is gone (R250 step 4, R285). -/
def mirrorEnd (s : State) (e : Nat) (t : Task) (v : Nat) : State :=
  match (fenceIndex s t.endFence.toNat).bind s.fence? with
  | none => dropTask s e
  | some f =>
    match writeMirror s f v with
    | .ok s' => dropTask s' e
    | .error x => endWaits s e t (.mirror v) (dropTask s e) x

/-- Steps 3 and 4 of R250: the window is zero and free, what was never done gets its record (R245), the end fence is signalled
in mode 0. -/
def closeTask (s : State) (e : Nat) (t : Task) : State :=
  let s := undoneRecords (s.clear (.window e)) t.handed
  let t := { t with handed := [], windowBytes := 0 }
  match fenceIndex s t.endFence.toNat with
  | none => dropTask s e
  | some i => match s.fence? i with
    | none => dropTask s e
    | some f =>
      let v := fenceNext f.value.toNat t.endValue.toNat 0
      mirrorEnd (s.setFence i { f with value := BitVec.ofNat 64 v }) e t v

/-- Step 2 of R250: the end record, then the rest. -/
def recordEnd (s : State) (e : Nat) (t : Task) (fault : Nat) : State :=
  match s.queue? t.queue with
  | none => closeTask s e t
  | some q =>
    if t.endAddr == 0 then closeTask s e t
    else match writeVa s q.port q.pasid t.endAddr (endRecord s e t fault) with
      | .ok s' => closeTask s' e t
      | .error x => endWaits s e t (.ending fault) (closeTask s e t) x

/-- A task ends, or an end under way goes on with its first cause (R250). -/
def endTask (s : State) (e fault : Nat) : State :=
  match (s.eng e).task with
  | none => s
  | some t => match t.wait with
    | .ending f _ => recordEnd s e t f
    | .mirror v _ => mirrorEnd s e t v
    | _ => recordEnd s e t fault

/-- What a task's instruction that writes memory does when it cannot: it waits, or the task ends with the fault (R250, R268,
R270). -/
def taskStop (s : State) (e : Nat) (t : Task) : Stop → State
  | .page pasid pg w => askPage (setTask s e { t with wait := .page pasid pg }) (taskPort s t) pasid pg w
  | .hold => s
  | .fault code _ _ => endTask s e code
  | .faultOpen code => endTask s e code
  | .record code _ _ => endTask s e code

/-! ### Running an instruction -/

/-- Run the next instruction when the task runs and the instruction is of the row's opcode. -/
def runInstr (s : State) (e : Nat) (isOp : Nat → Bool) (f : State → Task → Nat → State) : State :=
  match (s.eng e).task with
  | none => s
  | some t =>
    let w := taskWord e t t.pc
    if t.wait == .running && isOp (opField w) then f s t w else s

/-- A register operation: s_d := f s_a s_b. -/
def regOp (s : State) (e op : Nat) (f : DWord → DWord → DWord) : State :=
  runInstr s e (· == op) fun s t w =>
    setTask s e (nextPc (setReg t (dReg w) (f (getReg t (aReg w)) (getReg t (bReg w)))) 1)

/-- Branch by imm from the instruction when the condition holds; a target outside 0-4095 ends the task (R244). -/
def branchTo (s : State) (e : Nat) (t : Task) (w : Nat) (taken : Bool) : State :=
  if !taken then setTask s e (nextPc t 1)
  else
    let target : Int := t.pc + immField w
    if target < 0 || 4095 < target then endTask s e 0x3051 else setTask s e { t with pc := target.toNat }

/-- A compare and branch. -/
def compareBranch (s : State) (e op : Nat) (f : DWord → DWord → Bool) : State :=
  runInstr s e (· == op) fun s t w => branchTo s e t w (f (getReg t (dReg w)) (getReg t (aReg w)))

/-- An address in the window: a multiple of 8 with its bytes inside (R244, 0x3052). -/
def windowOk (t : Task) (a : Int) (n : Nat) : Bool := 0 ≤ a && a % 8 == 0 && a + n ≤ t.windowBytes

/-- s_a + imm as an address. -/
def dispAddr (t : Task) (w : Nat) : Int := ((getReg t (aReg w)).toNat + immField w) % 2 ^ 64

/-- An atomic on the 64-bit word at s_a: s_d takes the old word (R244, R254). -/
def atomicOp (s : State) (e op : Nat) (f : DWord → DWord → DWord) : State :=
  runInstr s e (· == op) fun s t w =>
    let a := (getReg t (aReg w)).toNat
    if windowOk t a 8 then
      let old : DWord := BitVec.ofNat 64 (s.readNat (.window e) a 8)
      let s := s.write (.window e) a (natLe 8 (f old (getReg t (bReg w))).toNat)
      setTask s e (nextPc (setReg t (dReg w) old) 1)
    else endTask s e 0x3052

def execTaskHalt (e : Nat) (s : State) : Out :=
  act (isEngine e) s fun s => runInstr s e (· == 0x00) fun s _ _ => endTask s e 0

def execTaskAdd (e : Nat) (s : State) : Out := act (isEngine e) s fun s => regOp s e 0x01 (· + ·)
def execTaskSub (e : Nat) (s : State) : Out := act (isEngine e) s fun s => regOp s e 0x02 (· - ·)
def execTaskAnd (e : Nat) (s : State) : Out := act (isEngine e) s fun s => regOp s e 0x03 (· &&& ·)
def execTaskOr (e : Nat) (s : State) : Out := act (isEngine e) s fun s => regOp s e 0x04 (· ||| ·)
def execTaskXor (e : Nat) (s : State) : Out := act (isEngine e) s fun s => regOp s e 0x05 (· ^^^ ·)
def execTaskShl (e : Nat) (s : State) : Out :=
  act (isEngine e) s fun s => regOp s e 0x06 fun a b => a <<< (b.toNat % 64)
def execTaskShr (e : Nat) (s : State) : Out :=
  act (isEngine e) s fun s => regOp s e 0x07 fun a b => a.sshiftRight (b.toNat % 64)
def execTaskMul (e : Nat) (s : State) : Out := act (isEngine e) s fun s => regOp s e 0x08 (· * ·)

def execTaskAddi (e : Nat) (s : State) : Out :=
  act (isEngine e) s fun s => runInstr s e (· == 0x10) fun s t w =>
    setTask s e (nextPc (setReg t (dReg w) (getReg t (aReg w) + BitVec.ofInt 64 (immField w))) 1)

def execTaskLdw (e : Nat) (s : State) : Out :=
  act (isEngine e) s fun s => runInstr s e (· == 0x11) fun s t w =>
    let v := taskWord e t ((t.pc + 1) % 4096) + 2 ^ 32 * taskWord e t ((t.pc + 2) % 4096)
    setTask s e (nextPc (setReg t (dReg w) (BitVec.ofNat 64 v)) 3)

def execTaskLd (e : Nat) (s : State) : Out :=
  act (isEngine e) s fun s => runInstr s e (· == 0x18) fun s t w =>
    if windowOk t (dispAddr t w) 8 then
      setTask s e (nextPc (setReg t (dReg w) (BitVec.ofNat 64 (s.readNat (.window e) (dispAddr t w).toNat 8))) 1)
    else endTask s e 0x3052

def execTaskSt (e : Nat) (s : State) : Out :=
  act (isEngine e) s fun s => runInstr s e (· == 0x19) fun s t w =>
    if windowOk t (dispAddr t w) 8 then
      setTask (s.write (.window e) (dispAddr t w).toNat (natLe 8 (getReg t (dReg w)).toNat)) e (nextPc t 1)
    else endTask s e 0x3052

def execTaskAadd (e : Nat) (s : State) : Out := act (isEngine e) s fun s => atomicOp s e 0x1A (· + ·)
def execTaskAswp (e : Nat) (s : State) : Out := act (isEngine e) s fun s => atomicOp s e 0x1B fun _ v => v

def execTaskBeq (e : Nat) (s : State) : Out := act (isEngine e) s fun s => compareBranch s e 0x20 (· == ·)
def execTaskBne (e : Nat) (s : State) : Out := act (isEngine e) s fun s => compareBranch s e 0x21 (· != ·)
def execTaskBlt (e : Nat) (s : State) : Out :=
  act (isEngine e) s fun s => compareBranch s e 0x22 fun a b => decide (a.toInt < b.toInt)
def execTaskBltu (e : Nat) (s : State) : Out :=
  act (isEngine e) s fun s => compareBranch s e 0x23 fun a b => decide (a.toNat < b.toNat)

def execTaskLoop (e : Nat) (s : State) : Out :=
  act (isEngine e) s fun s => runInstr s e (· == 0x24) fun s t w =>
    let t' := setReg t (dReg w) (getReg t (dReg w) - 1)
    branchTo s e t' w (getReg t' (dReg w) != 0)

/-! ### Queues and fences (R244, R245) -/

/-- The handle of an entry of the handle table. -/
def tableHandle (t : Task) (w : Nat) : Option Nat :=
  if immField w < 0 then none else (t.handles[(immField w).toNat]?).map (·.toNat)

/-- The queue of an entry, of a kind. -/
def tableQueue (s : State) (t : Task) (w kind : Nat) : Option (Nat × Queue) :=
  match tableHandle t w with
  | none => none
  | some h => match queueIndex s h with
    | none => none
    | some i => match s.queue? i with
      | some q => if q.kind == kind then some (i, q) else none
      | none => none

/-- The task-served queue of an entry, bound to the engine (R245). -/
def servedQueue (s : State) (e : Nat) (t : Task) (w : Nat) : Option (Nat × Queue) :=
  match tableQueue s t w 2 with
  | some (i, q) => if q.engines == [e] then some (i, q) else none
  | none => none

/-- Hand the next descriptor of a queue to the task in ring order (R245). -/
def handOut (s : State) (e : Nat) (t : Task) (i : Nat) (q : Queue) (addr reg : Nat) : State :=
  match q.waiting with
  | (seq, d) :: rest =>
    if q.state == .ready then
      let s := s.setQueue i { q with waiting := rest, started := (q.started + 1) % 2 ^ 32 }
      let s := s.write (.window e) addr (descBytes d)
      let t := { setReg t reg (BitVec.ofNat 64 seq) with
        wait := .running, handed := t.handed ++ [{ queue := i, seq := seq, desc := d }] }
      setTask s e (nextPc t 1)
    else setTask s e { t with wait := .queue i addr reg }
  | [] => setTask s e { t with wait := .queue i addr reg }

/-- WAITQ (R244, R245). -/
def execTaskWaitq (e : Nat) (s : State) : Out :=
  act (isEngine e) s fun s => runInstr s e (· == 0x28) fun s t w =>
    match servedQueue s e t w with
    | none => endTask s e 0x3054
    | some (i, q) =>
      let a := (getReg t (aReg w)).toNat
      if windowOk t a 64 then handOut s e t i q a (dReg w) else endTask s e 0x3052

/-- WAITQ_SATISFIED (R245). -/
def execWaitqSatisfied (e : Nat) (s : State) : Out :=
  act (isEngine e) s fun s =>
    match (s.eng e).task with
    | some t => match t.wait with
      | .queue i addr reg => match s.queue? i with
        | some q => handOut s e t i q addr reg
        | none => s
      | _ => s
    | none => s

/-- What placing a descriptor into a device-fed queue answers. -/
inductive Placed where
  | placed (s : State)
  | full
  | cannot (x : Stop)

/-- Is a queue's ring full (R275)? -/
def ringFull (q : Queue) : Bool := 2 ^ q.ringLog2 ≤ (q.tail + 2 ^ 32 - q.completed) % 2 ^ 32

/-- Place a descriptor in a device-fed queue's ring and raise its tail (R245, R251, R275). -/
def placeDesc (s : State) (i : Nat) (q : Queue) (b : List Byte) : Placed :=
  if ringFull q then .full
  else match writeVa s q.port q.pasid (q.ring + 64 * (q.tail % 2 ^ q.ringLog2)) b with
    | .ok s' => .placed (s'.setQueue i { q with tail := (q.tail + 1) % 2 ^ 32 })
    | .error x => .cannot x

/-- ENQ (R244, R245). -/
def execTaskEnq (e : Nat) (s : State) : Out :=
  act (isEngine e) s fun s => runInstr s e (· == 0x29) fun s t w =>
    match tableQueue s t w 3 with
    | none => endTask s e 0x3054
    | some (i, q) =>
      let a := (getReg t (aReg w)).toNat
      if !windowOk t a 64 then endTask s e 0x3052
      else match placeDesc s i q (s.read (.window e) a 64) with
        | .placed s' => setTask s' e (nextPc (setReg t (dReg w) 0) 1)
        | .full => setTask s e (nextPc (setReg t (dReg w) 1) 1)
        | .cannot x => taskStop s e t x

/-- The fence of an entry (R245): an entry that is no fence's ends the task with 0x3054, a destroyed fence with 0x4011 (R286). -/
def tableFence (s : State) (t : Task) (w : Nat) : Except Nat (Nat × Fence) :=
  match tableHandle t w with
  | none => .error 0x3054
  | some h =>
    if h / 2 ^ 60 != 5 then .error 0x3054
    else match fenceIndex s h with
      | none => .error 0x4011
      | some i => match s.fence? i with
        | some f => .ok (i, f)
        | none => .error 0x4011

/-- WAITF (R244, R286). -/
def execTaskWaitf (e : Nat) (s : State) : Out :=
  act (isEngine e) s fun s => runInstr s e (· == 0x2A) fun s t w =>
    match tableFence s t w with
    | .error code => endTask s e code
    | .ok (_, f) =>
      let v := getReg t (aReg w)
      if atOrPast 64 f.value.toNat v.toNat then setTask s e (nextPc t 1)
      else setTask s e { t with wait := .fence ((tableHandle t w).getD 0) v }

/-- WAITF_SATISFIED (R286). -/
def execWaitfSatisfied (e : Nat) (s : State) : Out :=
  act (isEngine e) s fun s =>
    match (s.eng e).task with
    | some t => match t.wait with
      | .fence h v => match fenceIndex s h with
        | none => endTask s e 0x4011
        | some i => match s.fence? i with
          | none => endTask s e 0x4011
          | some f => if atOrPast 64 f.value.toNat v.toNat then setTask s e (nextPc { t with wait := .running } 1) else s
      | _ => s
    | none => s

/-- SIGF: as a fence signal in mode 0 (R244, R285; DEDUCED, log entry 27). -/
def execTaskSigf (e : Nat) (s : State) : Out :=
  act (isEngine e) s fun s => runInstr s e (· == 0x2B) fun s t w =>
    match tableFence s t w with
    | .error code => endTask s e code
    | .ok (i, f) =>
      let v := fenceNext f.value.toNat (getReg t (aReg w)).toNat 0
      let s := s.setFence i { f with value := BitVec.ofNat 64 v }
      match writeMirror s f v with
      | .ok s' => setTask s' e (nextPc t 1)
      | .error x => taskStop s e t x

/-- The record of a descriptor a task is done with (R245). -/
def doneRecord (q : Queue) (h : Handed) (fault : Nat) : Record :=
  { seq := h.seq, fault := fault % 2 ^ 16, opcode := dOpcode h.desc, status := phaseBit q h.seq, detail := 0,
    tag := dField h.desc 4 4, result := 0, irq := bit (dField h.desc 1 1) 1 }

/-- DONE: bytes 0x08-0x1F at once, bytes 0x00-0x07 in sequence order (R245). -/
def execTaskDone (e : Nat) (s : State) : Out :=
  act (isEngine e) s fun s => runInstr s e (· == 0x2C) fun s t w =>
    match servedQueue s e t w with
    | none => endTask s e 0x3054
    | some (i, q) =>
      let seq := (getReg t (dReg w)).toNat
      match t.handed.find? fun h => h.queue == i && h.seq == seq with
      | none => endTask s e 0x3057
      | some h =>
        let r := doneRecord q h (getReg t (aReg w)).toNat
        match writeVa s q.port q.pasid (cplAddr q seq + 8) (recordHigh r) with
        | .error x => taskStop s e t x
        | .ok s' =>
          putRecord (setTask s' e (nextPc { t with handed := t.handed.filter fun x => x != h } 1)) i r

/-- TIME (R244). -/
def execTaskTime (e : Nat) (s : State) : Out :=
  act (isEngine e) s fun s => runInstr s e (· == 0x2D) fun s t w =>
    setTask s e (nextPc (setReg t (dReg w) (BitVec.ofNat 64 (timerOf s (engineDie e)))) 1)

/-- RESERVED_INSTRUCTION (R244). -/
def execReservedInstruction (e : Nat) (s : State) : Out :=
  act (isEngine e) s fun s => runInstr s e (fun o => !taskOps.contains o) fun s _ _ => endTask s e 0x3051

/-- TASK_RAN_WITHOUT_WAITING (R249). -/
def execTaskRanWithoutWaiting (e : Nat) (s : State) : Out :=
  act (isEngine e) s fun s =>
    match (s.eng e).task with
    | some t => if t.wait == .running then endTask s e 0x3053 else s
    | none => s

/-! ### The task family (R247-R251) -/

/-- The engine of a task command must be in its queue's set (R249, R250). -/
def taskEngine (d : Desc) (q : Queue) : Try Nat :=
  let e := dField d 0x3C 2
  if q.engines.contains e then .ok e else fltOpen 0x3058

/-- Is an engine's window space taken up with annealing data? -/
def annealsOn (s : State) (e : Nat) : Bool := s.spin.launches.any fun l => !l.2.streamed && l.2.engines.contains e

/-- The offsets of an engine's scratchpad that a queue's work may use: first and end (R252, R289). -/
def workArea (s : State) (e kind : Nat) : Nat × Nat :=
  if !realTimeBound s e then (0, 0xC00000) else if kind == 1 then (0x800000, 0xC00000) else (0, 0x800000)

/-- Where a window is placed in the area open to its queue's work: a free multiple of 256 (R249; DESIGN CHOICE, log entry 7). -/
def windowPlace (s : State) (e kind bytes : Nat) : Nat :=
  let a := workArea s e kind
  a.1 + 256 * (Config.freeBelow s.draws ((a.2 - a.1 - bytes) / 256 + 1) % ((a.2 - a.1 - bytes) / 256 + 1))

/-- Window bytes: a multiple of 256 from 256 B to 4 MiB (R247), in free space of the scratchpad (R249). -/
def windowFree (s : State) (e bytes : Nat) : Bool :=
  bytes % 256 == 0 && 256 ≤ bytes && bytes ≤ 2 ^ 22 && (!annealsOn s e || Config.windowFits e bytes s.draws)

/-- The program image (R248). -/
def readImage (s : State) (q : Queue) (addr : Nat) : Try (List Word) :=
  match readVa s q.port q.pasid addr 8 with
  | .error e => .error e
  | .ok h =>
    let n := fieldOf h 0 4
    if n == 0 || 4096 < n then fltOpen 0x3051
    else match readVa s q.port q.pasid (addr + 8) (4 * n) with
      | .error e => .error e
      | .ok b => .ok ((wordsOf 4 n b).map (BitVec.ofNat 32))

/-- Does a handle name a live fence or queue of the launching queue's address space (R248)? -/
def tableEntryOk (s : State) (q : Queue) (h : Nat) : Bool :=
  match fenceIndex s h with
  | some i => (s.fence? i).any fun f => f.port == q.port && f.pasid == q.pasid
  | none => match queueIndex s h with
    | some i => (s.queue? i).any fun k => k.port == q.port && k.pasid == q.pasid
    | none => false

/-- The handle table (R248). -/
def readHandles (s : State) (q : Queue) (addr : Nat) : Try (List DWord) :=
  match readVa s q.port q.pasid addr 8 with
  | .error e => .error e
  | .ok h =>
    let n := fieldOf h 0 4
    if 16 < n then fltOpen 0x3054
    else match readVa s q.port q.pasid (addr + 8) (8 * n) with
      | .error e => .error e
      | .ok b =>
        let hs := wordsOf 8 n b
        if hs.all (tableEntryOk s q) then .ok (hs.map (BitVec.ofNat 64)) else fltOpen 0x3054

/-- LAUNCH_TASK (R249). -/
def launchTaskBody (s : State) (x : Cmd) (q : Queue) : Done :=
  let d := x.desc
  within (taskEngine d q) fun e =>
    within (needOpen (s.eng e).task.isNone 0x3050) fun _ =>
      let fence := dField d 0x20 8
      within (if fence == 0 then .ok () else match needFence s q.port fence 0x20 with
          | .ok _ => .ok ()
          | .error z => .error z) fun _ =>
        let bytes := dField d 0x38 4
        within (needOpen (windowFree s e bytes) 0x3055) fun _ =>
          within (readImage s q (dField d 0x10 8)) fun code =>
            within (readHandles s q (dField d 0x18 8)) fun hs =>
              let t : Task :=
                { regs := [(1, BitVec.ofNat 64 bytes)], pc := 0, code := code, handles := hs, windowBytes := bytes,
                  windowBase := windowPlace s e q.kind bytes, queue := x.queue, endFence := BitVec.ofNat 64 fence,
                  endValue := BitVec.ofNat 64 (dField d 0x28 8), endAddr := dField d 0x30 8 }
              .ok (setTask { s.clear (.window e) with draws := s.draws + 1 } e t) 0

def execLaunchTask (c : Nat) (s : State) : Out := act true s fun s => runCmd s c 0xA0 launchTaskBody

/-- The device-fed queue an enqueue names (R251, R266). -/
def fedQueue (s : State) (x : Cmd) (q : Queue) : Try (Nat × Queue) :=
  match queueIndex s (dField x.desc 0x20 8) with
  | none => fltOpen 0x4011
  | some i => match s.queue? i with
    | none => fltOpen 0x4011
    | some k => if k.port != q.port then flt 0x4012 0x20 else if k.kind == 3 then .ok (i, k) else fltOpen 0x4030

/-- ENQUEUE: placed when there is room, else waiting for it (R251). -/
def enqueueBody (s : State) (x : Cmd) (q : Queue) : Done :=
  within (fedQueue s x q) fun (i, k) =>
    within (readVa s q.port q.pasid (dField x.desc 0x10 8) 64) fun b =>
      match placeDesc s i k b with
      | .placed s' => .ok s' 0
      | .full => .run s
      | .cannot x => .stop x

def execEnqueue (c : Nat) (s : State) : Out := act true s fun s => runCmd s c 0xA1 enqueueBody

/-- DEVICE_FED_SPACE_AVAILABLE (R251). -/
def execDeviceFedSpaceAvailable (c : Nat) (s : State) : Out :=
  act true s fun s => takeCmd s c 0xA1 [.waiting, .running] enqueueBody

/-- STOP_TASK (R250): it completes once the task has ended. -/
def stopTaskBody (s : State) (x : Cmd) (q : Queue) : Done :=
  within (taskEngine x.desc q) fun e =>
    match (s.eng e).task with
    | none => .ok s 0
    | some t =>
      within (needOpen (t.queue == x.queue) 0x3054) fun _ =>
        let s' := endTask s e 0
        if (s'.eng e).task.isNone then .ok s' 0 else .run s'

def execStopTask (c : Nat) (s : State) : Out :=
  act true s fun s => takeCmd s c 0xA2 [.started, .waiting, .running] stopTaskBody

end Sys2Proof.Machine
end

