-- ==== Sys2Proof/Machine/Start.lean ====
section
/-! DEFINITION. Doorbells, descriptor reads, the start of commands, host accesses and their translation, and preemption by
real-time queues (R270, R271, R275, R279-R282, R287, R290, R229, R230). -/

namespace Sys2Proof.Machine

/-! ### Doorbells and descriptor reads (R273-R275, R279-R281) -/

/-- Does a queue fetch (R281)? -/
def fetches (q : Queue) : Bool := q.state == .ready || q.state == .halted

/-- Does a queue's doorbell lie in a page of a fetch engine (R279)? -/
def inPage (d : DoorbellPage) (q : Queue) : Bool :=
  q.kind != 3 && q.engines.head? == some d.engine && q.pasid == d.pasid && q.dbPage == d.page

/-- The live queues that a poll of a page serves. -/
def polled (s : State) (d : DoorbellPage) : List (Nat × Queue) :=
  s.qfe.queues.filter fun e => inPage d e.2 && fetches e.2

/-- Does a page hold the doorbell of a real-time queue? -/
def realTimePage (s : State) (d : DoorbellPage) : Bool :=
  s.qfe.queues.any fun e => inPage d e.2 && e.2.kind == 1 && e.2.state != .dead

/-- Take a queue's tail from the page as read: in the error state when it is not at or past the fetch count, or too far
ahead (R275). -/
def takeTail (b : List Byte) (s : State) (e : Nat × Queue) : State :=
  let tail := fieldOf b (8 * e.2.dbIndex) 4
  let ahead := (tail + 2 ^ 32 - e.2.fetched) % 2 ^ 32
  if !atOrPast 32 tail e.2.fetched || 2 ^ e.2.ringLog2 < ahead then queueError s e.1 0x4001
  else s.setQueue e.1 { e.2 with tail := tail }

/-- Did the page raise a queue's tail? -/
def raised (b : List Byte) (e : Nat × Queue) : Bool :=
  let tail := fieldOf b (8 * e.2.dbIndex) 4
  tail != e.2.tail && atOrPast 32 tail e.2.fetched && (tail + 2 ^ 32 - e.2.fetched) % 2 ^ 32 ≤ 2 ^ e.2.ringLog2

/-- The page's interval after a poll (R279). -/
def nextInterval (s : State) (p : Port) (d : DoorbellPage) (raise : Bool) : DoorbellPage :=
  let pmin := (s.port p).pollMinNs
  let pmax := (s.port p).pollMaxUs * 1000
  if raise || realTimePage s d then { d with interval := pmin, quiet := 0 }
  else if d.quiet + 1 == 16 then { d with interval := min (2 * d.interval) pmax, quiet := 0 }
  else { d with quiet := d.quiet + 1 }

def setPage (s : State) (d : DoorbellPage) : State :=
  { s with qfe := { s.qfe with pages := s.qfe.pages.map fun x =>
      if x.engine == d.engine && x.pasid == d.pasid && x.page == d.page then d else x } }

/-- Note that queues wait for a page's translation, to read it. -/
def waitPage (pg : Nat) (s : State) (e : Nat × Queue) : State := s.modQueue e.1 fun q => q.waitFor pg false

/-- DOORBELL_POLL: one read of the page serves every queue of the engine in it (R279). Fetch stops and no command starts
during a reset (R478 step 1). -/
def doorbellPoll (s : State) (e pasid page : Nat) : State :=
  match s.qfe.pages.find? fun d => d.engine == e && d.pasid == pasid && d.page == page with
  | none => s
  | some d =>
    let qs := polled s d
    match qs with
    | [] => s
    | (_, q) :: _ =>
      match readVa s q.port pasid page 512 with
      | .ok b => setPage (qs.foldl (takeTail b) s) (nextInterval s q.port d (qs.any (raised b)))
      | .error (.page pa pg w) => qs.foldl (waitPage pg) (askPage s q.port pa pg w)
      | .error .hold => s
      | .error _ => qs.foldl (fun s x => queueError s x.1 0x4044) s

def execDoorbellPoll (e pasid page : Nat) (s : State) : Out :=
  act (isEngine e && isPasid pasid) s fun s => if s.flt.resetStep == 0 then doorbellPoll s e pasid page else s

/-- How many descriptors the next read of a queue takes (R280). -/
def readCount (q : Queue) : Nat :=
  let left := (q.tail + 2 ^ 32 - q.fetched) % 2 ^ 32
  let slot := q.fetched % 2 ^ q.ringLog2
  min (min 8 left) (min (2 ^ q.ringLog2 - slot) (8 - q.waiting.length))

/-- The descriptors of a read, with their sequence numbers. -/
def numbered (first : Nat) (n : Nat) (b : List Byte) : List (Nat × Desc) :=
  (List.range n).map fun k => ((first + k) % 2 ^ 32, descOf ((b.drop (64 * k)).take 64))

/-- Where the next read of a queue starts. -/
def readFrom (q : Queue) : Nat := q.ring + 64 * (q.fetched % 2 ^ q.ringLog2)

/-- Does a queue need a read, and is none of its ring outstanding (R280)? -/
def needsRead (q : Queue) : Bool :=
  readCount q != 0 && fetches q &&
    !(pagesOf 4096 (readFrom q) (64 * readCount q)).any fun pg => q.waits.contains (pg, false)

/-- The queue slot a fetch engine serves next: real-time queues first, else in turn after the slot served last (R280; DESIGN
CHOICE, log entry 16: the turn holds among real-time queues, too, and starts at slot 0). -/
def nextRead (s : State) (e : Nat) : Option (Nat × Nat) :=
  let due := (s.eng e).queues.filter fun x => match s.queue? x.2 with
    | some q => q.engines.head? == some e && needsRead q
    | none => false
  let first := due.filter fun x => (s.queue? x.2).any fun q => q.kind == 1
  let pool := if first.isEmpty then due else first
  match pool.find? fun x => (s.eng e).readTurn ≤ x.1 with
  | some x => some x
  | none => pool.head?

/-- DESCRIPTOR_READ: the read of the queue its fetch engine serves next (R280). -/
def descriptorRead (s : State) (i : Nat) : State :=
  match s.queue? i with
  | none => s
  | some q =>
    let n := readCount q
    let e := q.engines.head?.getD 0
    match nextRead s e with
    | none => s
    | some (slot, k) =>
    if k != i then s
    else
    let s := s.modEng e fun g => { g with readTurn := slot + 1 }
    match readVa s q.port q.pasid (readFrom q) (64 * n) with
    | .ok b => s.setQueue i
        { q with fetched := (q.fetched + n) % 2 ^ 32, waiting := q.waiting ++ numbered q.fetched n b }
    | .error (.page pa pg w) => waitPage pg (askPage s q.port pa pg w) (i, q)
    | .error .hold => s
    | .error _ => queueError s i 0x4044

def execDescriptorRead (q : Nat) (s : State) : Out := act true s fun s => if s.flt.resetStep == 0 then descriptorRead s q else s

/-! ### The start of a command (R226, R276, R281, R282, R287) -/

/-- The opcodes later commands of the queue wait for: fence wait, fence signal, queue barrier, and a resume that is to
make the queue ready (R282, R287). -/
def blocksLater (opcode : Nat) : Bool := 1 ≤ opcode && opcode ≤ 4

/-- Is a started ring command of a queue of such an opcode still incomplete? -/
def blocked (s : State) (i : Nat) : Bool :=
  s.cmds.any fun e => e.2.queue == i && e.2.node.isNone && blocksLater (dOpcode e.2.desc)

/-- Is a started resume still incomplete (R287)? -/
def resuming (s : State) (i : Nat) : Bool :=
  s.cmds.any fun e => e.2.queue == i && e.2.node.isNone && dOpcode e.2.desc == 4

/-- Does the scoreboard admit a command to its slot: no command of the queue names it, no launch of the queue holds or may
yet hold it (R161, R226)? -/
def slotAdmits (s : State) (i : Nat) (q : Queue) (d : Desc) : Bool :=
  let n := dSlot d
  !(s.cmds.any fun e => e.2.queue == i && namesSlot (dOpcode e.2.desc) && dSlot e.2.desc == n) &&
  !(q.engines.any fun e => match nth .free (s.eng e).slots n with
    | .held k _ => k == i
    | _ => (s.eng e).draining) &&
  !(2 ≤ n && s.cmds.any fun e => e.2.queue == i && (dOpcode e.2.desc == 0x60 || dOpcode e.2.desc == 0x92) &&
      match tblFind s.spin.launches e.1 with
      | some l => l.waitingEngine
      | none => e.2.stage != .running)

/-- Have the engines of a real-time queue saved normal work out (R290 step 4)? -/
def enginesSaved (s : State) (q : Queue) (d : Desc) : Bool :=
  q.kind != 1 || !usesEngines (dOpcode d) || q.engines.all fun e => (s.eng e).context.isSome

/-- The conditions every started command meets, in a ring or in a graph (R226, R290). -/
def engineAdmits (s : State) (i : Nat) (q : Queue) (d : Desc) : Bool :=
  enginesSaved s q d && (!namesSlot (dOpcode d) || 3 < dSlot d || slotAdmits s i q d)

/-- Is the ring command before a sequence number still incomplete: a command is complete when it has ended, though its record may
wait for its turn (R278, R282; DEDUCED, log entry 16)? -/
def previousRuns (s : State) (i seq : Nat) : Bool :=
  s.cmds.any fun e => e.2.queue == i && e.2.node.isNone && (e.2.seq + 1) % 2 ^ 32 == seq

/-- The order conditions of R282 for the head of a queue. -/
def inOrder (s : State) (i : Nat) (seq : Nat) (d : Desc) : Bool :=
  !blocked s i && (!previousRuns s i seq || bit (dField d 1 1) 0)

/-- A command starts: it takes an identifier, and its opcode and header are judged (R71, R276, R520). -/
def startCmd (s : State) (i : Nat) (q : Queue) (x : Cmd) : State :=
  let c := s.qfe.nextCmd
  let s := { s with qfe := { s.qfe with nextCmd := c + 1 } }.setCmd c x
  match startCheck x.desc with
  | .ok _ => s
  | .error e => settle s c (((s.queue? i).getD q)) (.stop e)

/-- COMMAND_START: the head of a queue starts (R282), or is cancelled in a halted queue (R287). -/
def commandStart (s : State) (i : Nat) : State :=
  match s.queue? i with
  | none => s
  | some q =>
    match q.waiting with
    | [] => s
    | (seq, d) :: rest =>
      let q' := { q with waiting := rest, started := (q.started + 1) % 2 ^ 32 }
      let x : Cmd := { queue := i, seq := seq, desc := d }
      if q.state == .halted then
        if resuming s i then s
        else if dOpcode d == 4 then
          if inOrder s i seq d then startCmd (s.setQueue i q') i q' x else s
        else putRecord (s.setQueue i q') i
          { seq := seq, fault := 0x4003, opcode := dOpcode d, status := phaseBit q seq, detail := q.faultSeq,
            tag := dField d 4 4, result := 0, irq := bit (dField d 1 1) 1 }
      else if q.state == .ready && q.kind != 2 && inOrder s i seq d && engineAdmits s i q d then
        startCmd (s.setQueue i q') i q' x
      else s

def execCommandStart (q : Nat) (s : State) : Out := act true s fun s => if s.flt.resetStep == 0 then commandStart s q else s

/-! ### Partner violations (R471, R485) -/

/-- A violation of the PCIe partner: counted and logged (R471). -/
def pcieViolation (s : State) (p : Port) (code : Nat) : State :=
  logOnPort (countPort s p (·.violations) (fun x v => { x with violations := v }) 0x04B 1) code p

/-! ### Host accesses and translation (R269-R271) -/

/-- HOST_ACCESS: an access of a command looks its page up; a granted read is outstanding until its completion, a miss asks
for the translation (R270). -/
def hostAccess (s : State) (c va len : Nat) (write : Bool) : State :=
  match s.cmd? c with
  | none => s
  | some x =>
    match s.queue? x.queue with
    | none => s
    | some q =>
      if len == 0 || x.shutter.isSome || x.stage == .committing then s
      else if !inOneRange va len then settle s c q (badWriting s q x.dests (.fault 0x4040 (vaDetail va) false))
      else if deviceBase ≤ va then s
      else match checkVa s q.port q.pasid va len write with
        | .ok _ =>
          if write then s
          else
            let o := s.port q.port
            match lowestFree (fun t => (o.reads.any fun r => r.tag == t) || o.withheld.contains t) 16384 0 with
            | some t => s.setPort q.port
                { o with reads := o.reads ++ [{ tag := t, command := c, pasid := q.pasid, page := va / 4096 }] }
            | none => s
        | .error (.page pasid pg w) =>
          (askPage s q.port pasid pg w).modCmd c fun y =>
            { y with page := some (pasid, pg, w), stage := if y.stage == .started then .waiting else y.stage }
        | .error _ => s

def execHostAccess (c va len : Nat) (write : Bool) (s : State) : Out := act true s fun s => hostAccess s c va len write

/-- The commands of a port that wait for a page of a PASID, to write or to read. -/
def pageWaiters (s : State) (p : Port) (pasid page : Nat) (write : Bool) : List Nat :=
  (s.cmds.filter fun e => e.2.page == some (pasid, page, write) && (s.queue? e.2.queue).any fun q => q.port == p).map (·.1)

/-- The queues of a port and PASID that wait for a page, to write or to read. -/
def pageQueues (s : State) (p : Port) (pasid page : Nat) (write : Bool) : List Nat :=
  (s.qfe.queues.filter fun e => e.2.port == p && e.2.pasid == pasid && e.2.waits.contains (page, write)).map (·.1)

/-- Does a task wait for a page of a PASID to write to? -/
def Task.waitsFor (t : Task) (pasid page : Nat) : Bool :=
  match t.wait with
  | .page a b => a == pasid && b == page
  | .ending _ w => w == some (pasid, page)
  | .mirror _ w => w == some (pasid, page)
  | _ => false

/-- The engines whose task waits for a page: tasks only write. -/
def pageTasks (s : State) (p : Port) (pasid page : Nat) (write : Bool) : List Nat :=
  if write then (s.engines.filter fun e => e.2.task.any fun t => taskPort s t == p && t.waitsFor pasid page).map (·.1) else []

/-- The task of an engine meets a refusal: its instruction ends it with the fault, its end goes on without the write (R250,
R268, R270). -/
def taskRefused (code : Nat) (s : State) (e : Nat) : State :=
  match (s.eng e).task with
  | none => s
  | some t => match t.wait with
    | .ending _ _ => closeTask s e t
    | .mirror _ _ => dropTask s e
    | _ => endTask s e code

/-- What waits for a page to make one kind of access. -/
def waitersFor (s : State) (p : Port) (pasid page : Nat) (write : Bool) : List (PageUser × Bool) :=
  ((pageWaiters s p pasid page write).map PageUser.command ++ (pageQueues s p pasid page write).map PageUser.queue ++
    (pageTasks s p pasid page write).map PageUser.task).map fun u => (u, write)

/-- The accesses to a page whose first translation was refused already. -/
def refusedOnce (x : PortState) (pasid page : Nat) : List (PageUser × Bool) :=
  ((x.ats ++ x.pageReqs).filter fun w => w.pasid == pasid && w.page == page).flatMap (·.users)

/-- The accesses of a kind that a request stands for: those it was sent for, a first translation every other one that waits (R270). -/
def usersOf (s : State) (p : Port) (w : PageWait) (write : Bool) : List (PageUser × Bool) :=
  if w.again then w.users.filter fun u => u.2 == write
  else (waitersFor s p w.pasid w.page write).filter fun u => !(refusedOnce (s.port p) w.pasid w.page).contains u

/-- A command waits for a page no more. -/
def endWait (pasid page : Nat) (write : Bool) (s : State) (c : Nat) : State :=
  s.modCmd c fun y => if y.page == some (pasid, page, write) then { y with page := none } else y

/-- A refusal reaches an access (R270): its command faults, a queue whose ring or doorbell it is is in error (R280), a task as said
above. -/
def refuseUser (p : Port) (pasid page : Nat) (code : Bool → Nat) (s : State) (u : PageUser × Bool) : State :=
  match u.1 with
  | .command c => faultCmd (endWait pasid page u.2 s c) c (code u.2) (page % 2 ^ 32)
  | .queue i =>
    if (pageQueues s p pasid page u.2).contains i then
      queueError (s.modQueue i fun q => { q with waits := q.waits.filter (· != (page, u.2)) }) i 0x4044
    else s
  | .task e => if (pageTasks s p pasid page u.2).contains e then taskRefused (code u.2) s e else s

/-- A refusal of the accesses of a request (R270). -/
def refusePage (s : State) (p : Port) (pasid page : Nat) (code : Bool → Nat) (us : List (PageUser × Bool)) : State :=
  us.foldl (refuseUser p pasid page code) s

/-- Put a page in the cache of a port: 32 768 entries, the oldest given up (R269). -/
def cachePage (x : PortState) (a : AtcEntry) : PortState :=
  { x with atc := (a :: x.atc.filter fun b => !(b.pasid == a.pasid && b.page == a.page)).take 32768 }

/-- A queue reads or writes its page: records held back are written (R278). -/
def resumeQueue (page : Nat) (write : Bool) (s : State) (i : Nat) : State :=
  match s.queue? i with
  | some q =>
    let s := s.setQueue i { q with waits := q.waits.filter (· != (page, write)) }
    if write then flushRecords (q.held.length + 1) s i else s
  | none => s

/-- A task's instruction, or its end, goes on (R250, R270). -/
def resumeTask (s : State) (e : Nat) : State :=
  match (s.eng e).task with
  | none => s
  | some t => match t.wait with
    | .page _ _ => setTask s e { t with wait := .running }
    | _ => endTask s e 0

/-- A granted access goes on. -/
def resumeUser (p : Port) (pasid page : Nat) (s : State) (u : PageUser × Bool) : State :=
  match u.1 with
  | .command c => endWait pasid page u.2 s c
  | .queue i => if (pageQueues s p pasid page u.2).contains i then resumeQueue page u.2 s i else s
  | .task e => if (pageTasks s p pasid page u.2).contains e then resumeTask s e else s

/-- The page requests a port may have outstanding (R269). -/
def maxPageRequests : Nat := 512

/-- Send one page request, or hold it until fewer than 512 are outstanding; refused at once when the port sends none
any more (R269, R270). -/
def askRequest (s : State) (p : Port) (w : PageWait) : State :=
  let x := s.port p
  if x.pageReqsOff then refusePage s p w.pasid w.page (fun _ => 0x4040) w.users
  else
    let s := s.setPort p { x with pageReqs := x.pageReqs ++ [w] }
    if x.pageReqs.length < maxPageRequests then s.request p (.pageRequest p w.pasid w.page) else s

/-- An outstanding page request is answered: it leaves, and one held back is sent. -/
def dropRequest (s : State) (p : Port) (w : PageWait) : State :=
  let x := s.port p
  let s := s.setPort p { x with pageReqs := x.pageReqs.erase w }
  if maxPageRequests < x.pageReqs.length then
    match x.pageReqs[maxPageRequests]? with
    | some v => s.request p (.pageRequest p v.pasid v.page)
    | none => s
  else s

/-- ATS_TRANSLATION_COMPLETION, of the request sent first of several for a page (DESIGN CHOICE, log entry 16): the kinds of access
granted go on; for those refused one page request follows, and a second refusal faults (R270). -/
def atsCompletion (s : State) (p : Port) (pasid page : Nat) (readable writable : Bool) : State :=
  let x := s.port p
  match x.ats.find? fun w => w.pasid == pasid && w.page == page with
  | none => s
  | some w =>
    let s := s.setPort p { x with ats := x.ats.erase w }
    if w.withdrawn then s
    else
      let s := if !readable && !writable then s
        else s.modPort p fun y => cachePage y { pasid := pasid, page := page, readable := readable, writable := writable }
      let readers := usersOf s p w false
      let writers := usersOf s p w true
      let s := ((if readable then readers else []) ++ (if writable then writers else [])).foldl (resumeUser p pasid page) s
      let reads := w.reads && !readable
      let writes := w.writes && !writable
      let left := (if reads then readers else []) ++ (if writes then writers else [])
      if !reads && !writes then s
      else if w.again then refusePage s p pasid page (fun wr => if wr && readable then 0x4041 else 0x4040) left
      else askRequest s p { w with reads := reads, writes := writes, again := true, users := left }

def execAtsTranslationCompletion (p : Port) (pasid page : Nat) (readable writable : Bool) (s : State) : Out :=
  act (isPasid pasid) s fun s => atsCompletion s p pasid page readable writable

/-- The outstanding page request for a page. -/
def requestFor (s : State) (p : Port) (pasid page : Nat) : Option PageWait :=
  ((s.port p).pageReqs.take maxPageRequests).find? fun w => w.pasid == pasid && w.page == page

/-- PRG_RESPONSE (R270): success repeats the translation once; other answers fault; Response Failure ends page requests on
the port (0x920A); a response to nothing is a violation (0x9209, R471). -/
def prgResponse (s : State) (p : Port) (pasid page : Nat) (code : PrgCode) : State :=
  match requestFor s p pasid page with
  | none => pcieViolation s p 0x9209
  | some w =>
    let s := dropRequest s p w
    let refuse := fun (s : State) => if w.withdrawn then s else refusePage s p pasid page (fun _ => 0x4040) w.users
    match code with
    | .success =>
      if w.withdrawn then s
      else (s.modPort p fun x => { x with ats := x.ats ++ [w] }).request p (.atsRequest p pasid page)
    | .invalidRequest => refuse s
    | .responseFailure =>
      let s := pcieViolation (s.modPort p fun x => { x with pageReqsOff := true }) p 0x920A
      let unsent := (s.port p).pageReqs.drop maxPageRequests
      let s := s.modPort p fun x => { x with pageReqs := x.pageReqs.take maxPageRequests }
      unsent.foldl (fun s v => refusePage s p v.pasid v.page (fun _ => 0x4040) v.users) (refuse s)

def execPrgResponse (p : Port) (pasid page : Nat) (code : PrgCode) (s : State) : Out :=
  act (isPasid pasid) s fun s => prgResponse s p pasid page code

/-- PAGE_REQUEST_TIMEOUT (R270). -/
def execPageRequestTimeout (p : Port) (pasid page : Nat) (s : State) : Out :=
  act (isPasid pasid) s fun s =>
    match requestFor s p pasid page with
    | none => s
    | some w =>
      let s := dropRequest s p w
      if w.withdrawn then s else refusePage s p pasid page (fun _ => 0x4042) w.users

/-- The invalidations a port's queue holds (R269). -/
def maxInvalidations : Nat := 32

/-- The cache entries of a range leave; the invalidation waits for the reads that used them (R271). One past the queue's depth
waits at the port (R269; DESIGN CHOICE, log entry 16). -/
def invalidate (s : State) (p : Port) (pasid page pages : Nat) : State :=
  let x := s.port p
  if maxInvalidations ≤ x.invalidations.length then
    s.setPort p { x with invalidationBacklog := x.invalidationBacklog ++ [(pasid, page, pages)] }
  else
    let hit := fun (a b : Nat) => a == pasid && page ≤ b && b < page + pages
    let users := (x.reads.filter fun r => hit r.pasid r.page).map (·.tag)
    s.setPort p { x with atc := x.atc.filter (fun a => !hit a.pasid a.page),
                         invalidations := x.invalidations ++ [{ pasid := pasid, page := page, users := users }] }

/-- An invalidation that waits at the port enters the queue. -/
def nextInvalidation (s : State) (p : Port) : State :=
  match (s.port p).invalidationBacklog with
  | [] => s
  | (pasid, page, pages) :: rest => invalidate (s.modPort p fun x => { x with invalidationBacklog := rest }) p pasid page pages

def execAtsInvalidationRequest (p : Port) (pasid page pages : Nat) (s : State) : Out :=
  act (isPasid pasid) s fun s => invalidate s p pasid page pages

/-- A read leaves the outstanding ones, and the invalidations that wait for it. -/
def dropRead (x : PortState) (tag : Nat) : PortState :=
  { x with reads := x.reads.filter (fun r => r.tag != tag),
           invalidations := x.invalidations.map fun v => { v with users := v.users.filter (· != tag) } }

/-- INVALIDATION_DRAIN_END: the oldest invalidation completes; reads still outstanding are abandoned, and their commands
fault (R271). -/
def execInvalidationDrainEnd (p : Port) (s : State) : Out :=
  act true s fun s =>
    match (s.port p).invalidations with
    | [] => s
    | v :: rest =>
      let lost := (s.port p).reads.filter fun r => v.users.contains r.tag
      let s := s.modPort p fun x => { x with invalidations := rest }
      let s := lost.foldl (fun s r =>
        faultCmd (s.modPort p fun x => dropRead x r.tag) r.command 0x4040 (r.page % 2 ^ 32)) s
      nextInvalidation (s.request p (.invalidationDone p v.pasid v.page)) p

/-! ### Preemption (R229, R230, R290) -/

/-- The started commands of normal queues that use an engine. -/
def normalOn (s : State) (e : Nat) : List (Nat × Cmd) :=
  s.cmds.filter fun x => usesEngines (dOpcode x.2.desc) &&
    match s.queue? x.2.queue with
    | some q => q.kind != 1 && q.engines.contains e
    | none => false

/-- The committed layer-1 sums of a launch's pairs on an engine, which A3 holds there (R160). -/
def sumsOn (s : State) (e l : Nat) : List (Nat × List Int) :=
  match tblFind s.spin.launches l with
  | some x => (x.runs.filter fun r => r.2.engine == e && !r.2.sums.isEmpty).map fun r => (r.1, r.2.sums)
  | none => []

/-- The image of one slot of an engine: the array its queue has there, with a command in progress on it or not, or what a launch
holds there; of A2 that is nothing between batches (R160, R229). -/
def slotImage (s : State) (e : Nat) (x : SlotState × Nat) : SlotImage :=
  match x.1 with
  | .free => {}
  | .claimed q => { array := tblFind s.arrays (arrayKey q x.2) }
  | .kept q => { array := tblFind s.arrays (arrayKey q x.2) }
  | .held _ l => { sums := if x.2 == 3 then sumsOn s e l else [] }

/-- CONTEXT_SAVE: once no commit runs on the engine, the images of A0-A3 and of the shadow slot in use are written to its save
area, its slot states are kept, every slot is free, and normal work there counts as preempted (R229, R290 step 3). -/
def contextSave (s : State) (e : Nat) : State :=
  let g := s.eng e
  let mine := normalOn s e
  if !g.preempting || g.context.isSome || mine.any (fun x => x.2.stage == .committing) then s
  else
    let c := (mine.find? fun x => (tblFind s.jobs x.1).any fun j => j.slot < 4).map (·.1)
    let k : SavedContext :=
      { slots := g.slots, paused := mine.map (·.1), command := c, images := (g.slots.zip (List.range 4)).map (slotImage s e),
        shadow := c.bind (tblFind s.jobs) }
    let s := s.setEng e { g with context := some k, slots := [.free, .free, .free, .free], preempting := false }
    mine.foldl (fun s x => s.modCmd x.1 fun y => { y with preempted := true }) s

def execContextSave (e : Nat) (s : State) : Out := act (isEngine e) s fun s => contextSave s e

/-- Does a real-time command run on an engine? -/
def realTimeOn (s : State) (e : Nat) : Bool :=
  s.cmds.any fun x => usesEngines (dOpcode x.2.desc) &&
    match s.queue? x.2.queue with
    | some q => q.kind == 1 && q.engines.contains e
    | none => false

/-- The queue whose array a slot may hold. -/
def arrayOwner : SlotState → Option Nat
  | .claimed q => some q
  | .kept q => some q
  | _ => none

/-- Change the array that a slot of a state holds, if it holds one. -/
def changeArray (f : AccArray → AccArray) (s : State) (x : SlotState × Nat) : State :=
  match (arrayOwner x.1).bind fun q => (tblFind s.arrays (arrayKey q x.2)).map fun a => (arrayKey q x.2, a) with
  | some (k, a) => { s with arrays := tblPut s.arrays k (f a) }
  | none => s

/-- The arrays in the slots of an image are lost (R231, R470). -/
def loseKept (slots : List SlotState) (s : State) : State :=
  (slots.zip (List.range slots.length)).foldl (changeArray fun a => { a with lost := true }) s

/-- The commands that an image held work of: the one in a shadow slot, and launches with held slots. -/
def imageCommands (k : SavedContext) : List Nat :=
  (k.command.toList ++ k.slots.filterMap fun x => match x with
    | .held _ l => some l
    | _ => none).dedup

/-- Background tables of an engine's blocks start again (R118). -/
def restartTables (e : Nat) (s : State) : State :=
  { s with spin := { s.spin with launches := s.spin.launches.map fun l =>
      (l.1, { l.2 with runs := l.2.runs.map fun r =>
        (r.1, if r.2.engine == e then { r.2 with backgroundDone := false } else r.2) }) } }

/-- The sums in an image come back to the pairs of their launch that are still on the engine (R156, R230). -/
def reloadSums (e : Nat) (s : State) (x : SlotState) (im : SlotImage) : State :=
  match x with
  | .held _ l => match tblFind s.spin.launches l with
    | some y =>
      let put := fun (r : Nat × BlockRun) => match im.sums.find? fun u => u.1 == r.1 && r.2.engine == e with
        | some u => (r.1, { r.2 with sums := u.2 })
        | none => r
      { s with spin := { s.spin with launches := tblPut s.spin.launches l { y with runs := y.runs.map put } } }
    | none => s
  | _ => s

/-- The images are read back (R230). An array lost meanwhile stays lost (R231). -/
def reloadImages (e : Nat) (k : SavedContext) (s : State) : State :=
  (k.slots.zip ((List.range 4).zip k.images)).foldl (fun s x =>
    reloadSums e (match x.2.2.array with
      | some a => changeArray (fun b => { a with lost := a.lost || b.lost }) s (x.1, x.2.1)
      | none => s) x.1 x.2.2) s

/-- The shadow slot in use is read back (R230). -/
def reloadShadow (k : SavedContext) (s : State) : State :=
  match k.command, k.shadow with
  | some c, some j => if (tblFind s.jobs c).isSome then { s with jobs := tblPut s.jobs c j } else s
  | _, _ => s

/-- CONTEXT_RESTORE: when no real-time command runs on the engine and no real-time queue has a slot there, the images come
back (R230); a lost image faults its commands (R470). -/
def contextRestore (s : State) (e : Nat) : State :=
  let g := s.eng e
  match g.context with
  | none => s
  | some k =>
    if realTimeOn s e || g.preempting || g.slots.any (fun x => x != .free) then s
    else
      let s := restartTables e (s.setEng e { g with context := none, slots := k.slots })
      if k.imagesGood then reloadShadow k (reloadImages e k s)
      else (imageCommands k).foldl (fun s c => faultCmdOpen s c 0x2014) (loseKept k.slots s)

def execContextRestore (e : Nat) (s : State) : Out := act (isEngine e) s fun s => contextRestore s e

end Sys2Proof.Machine
end

