-- ==== Sys2Proof/Machine/Graph.lean ====
section
/-! DEFINITION. Stored graphs (R300-R323) and the start requests of real-time queues (R290, R310). -/

namespace Sys2Proof.Machine

/-! ### Handles and storage (R301-R303) -/

/-- The graph a handle names (R50, R51, R320). -/
def graphIndex (s : State) (h : Nat) : Option Nat :=
  handleIndex 4 (fun i => match tblFind s.grf.graphs i with
    | some g => if g.stale then none else some g.gen
    | none => none) h

/-- A graph handle of a command at 0x20 (R51, R301). -/
def needGraph (s : State) (q : Queue) (h : Nat) : Try (Nat × Graph) :=
  match graphIndex s h with
  | none => fltOpen 0x4011
  | some i => match tblFind s.grf.graphs i with
    | none => fltOpen 0x4011
    | some g =>
      if g.port != q.port then flt 0x4012 0x20
      else if g.pasid != q.pasid then fltOpen 0x5006
      else .ok (i, g)

def State.setGraph (s : State) (i : Nat) (g : Graph) : State :=
  { s with grf := { s.grf with graphs := tblPut s.grf.graphs i g } }

def State.setGraphLaunch (s : State) (c : Nat) (l : GraphLaunch) : State :=
  { s with grf := { s.grf with launches := tblPut s.grf.launches c l } }

/-- What creation and a version charge (R303): one allocation for the nodes and edges, one for a node table, one for the
nodes a patch replaced, each rounded up to 4 KiB. -/
def chargeBase (nodes edges : Nat) : Nat := up4k (64 * nodes + 4 * edges)
def chargeVersion (nodes replaced : Nat) : Nat := up4k (16 * nodes) + up4k (64 * replaced)

/-! ### Nodes (R305-R307) -/

/-- The lane of a node (R306). -/
def nodeLane (d : Desc) : Nat := dField d 3 1

/-- A node's descriptor as a command: the lane byte is not part of the common header (R306). -/
def withoutLane (d : Desc) : Desc := descOf ((descBytes d).set 3 0)

/-- Does a node break R306? -/
def nodeBad (lanes : Nat) (d : Desc) : Bool :=
  let o := dOpcode d
  dField d 1 1 != 0 || lanes ≤ nodeLane d || dField d 8 8 != 0 || (0x70 ≤ o && o < 0x80) || o == 3 || o == 4

/-- Check 2 of a create, node by node. -/
def checkNodes (lanes : Nat) : Nat → List Desc → Try Unit
  | _, [] => .ok ()
  | k, d :: t =>
    if (namedBytes (dOpcode d)).isNone then flt 0x4010 k
    else if nodeBad lanes d then flt 0x5003 k
    else checkNodes lanes (k + 1) t

/-- Check 3: an edge out of range or repeated. -/
def checkEdges (n : Nat) : Nat → List (Nat × Nat) → List (Nat × Nat) → Try Unit
  | _, _, [] => .ok ()
  | k, before, e :: t =>
    if n ≤ e.1 || n ≤ e.2 || before.contains e then flt 0x5001 (2 ^ 31 + k)
    else checkEdges n (k + 1) (e :: before) t

/-- One round of the cycle check: of the nodes left, those with an incoming edge from a node left. -/
def unordered (edges : List (Nat × Nat)) (left : List Nat) : List Nat :=
  left.filter fun v => edges.any fun e => e.2 == v && left.contains e.1

/-- The nodes that the cycle check never orders (R307). -/
def cycleLeft (edges : List (Nat × Nat)) : Nat → List Nat → List Nat
  | 0, left => left
  | fuel + 1, left =>
    let next := unordered edges left
    if next.length == left.length then left else cycleLeft edges fuel next

/-- The header of a graph source at fault (R305). -/
def sourceFields (h : List Byte) : List (Nat × Bool) :=
  let n := fieldOf h 0 4
  let m := fieldOf h 4 4
  [(0x00, n == 0 || 4096 < n), (0x04, decide (65536 < m)), (0x08, fieldOf h 8 8 % 64 != 0),
   (0x10, m != 0 && fieldOf h 0x10 8 % 4 != 0), (0x18, fieldOf h 0x18 1 == 0 || 4 < fieldOf h 0x18 1)] ++
    (match reservedIn h [(0, 0x19)] with | some o => [(o, true)] | none => [])

/-- An array of 32-bit words. -/
def readArray32 (s : State) (q : Queue) (va n : Nat) : Try (List Nat) :=
  match readVa s q.port q.pasid va (4 * n) with
  | .error e => .error e
  | .ok b => .ok (wordsOf 4 n b)

/-- GRAPH_CREATE (R307). -/
def graphCreateBody (s : State) (x : Cmd) (q : Queue) : Done :=
  within (readVa s q.port q.pasid (dField x.desc 0x10 8) 64) fun h =>
    within (needFields 0x5001 (sourceFields h)) fun _ =>
      let n := fieldOf h 0 4
      let m := fieldOf h 4 4
      let lanes := fieldOf h 0x18 1
      within (readVa s q.port q.pasid (fieldOf h 8 8) (64 * n)) fun nb =>
        let nodes := (numbered 0 n nb).map (·.2)
        within (checkNodes lanes 0 nodes) fun _ =>
          within (readArray32 s q (fieldOf h 0x10 8) m) fun es =>
            let edges := es.map fun e => (bits e 0 16, bits e 16 16)
            within (checkEdges n 0 [] edges) fun _ =>
              match cycleLeft edges n (List.range n) with
              | v :: _ => .stop (.fault 0x5002 v false)
              | [] =>
                match newIndex 4096 (fun i => (tblFind s.grf.graphs i).isSome) s.grf.gens with
                | none => .stop (.faultOpen 0x500A)
                | some (i, gen) =>
                  let base := chargeBase n m
                  let first := chargeVersion n 0
                  within (need (s.graphUsed + base + first ≤ graphArea) 0x2050 (kib (base + first))) fun _ =>
                    let g : Graph :=
                      { gen := gen, port := q.port, pasid := q.pasid, lanes := lanes, edges := edges,
                        versions := [(1, { nodes := nodes, charged := first })], current := 1, baseCharge := base }
                    let s := { s with grf := { s.grf with gens := tblPut s.grf.gens i gen } }.setGraph i g
                    .ok s (BitVec.ofNat 128 (mkHandle 4 gen i + n * 2 ^ 64 + 1 * 2 ^ 96))

def execGraphCreate (c : Nat) (s : State) : Out := act true s fun s => runCmd s c 0x70 graphCreateBody

/-! ### Launching (R308-R314) -/

/-- The nodes of the version a launch is pinned to. -/
def pinnedNodes (s : State) (l : GraphLaunch) : List Desc :=
  match tblFind s.grf.graphs l.graph with
  | some g => match tblFind g.versions l.version with
    | some v => v.nodes
    | none => []
  | none => []

/-- The queue of a lane handle (R308 check 2). -/
def laneQueue (s : State) (q : Queue) (h lane : Nat) : Try Nat :=
  match queueIndex s h with
  | none => flt 0x5005 lane
  | some i => match s.queue? i with
    | none => flt 0x5005 lane
    | some k =>
      if k.port != q.port then flt 0x4012 lane
      else if k.kind == 2 || k.pasid != q.pasid then flt 0x5005 lane
      else .ok i

/-- The queues of lanes 1 to 3 that some node names. -/
def laneQueues (s : State) (q : Queue) (d : Desc) (nodes : List Desc) : List Nat → Try (List (Option Nat))
  | [] => .ok []
  | lane :: t =>
    if nodes.any fun n => nodeLane n == lane then
      match laneQueue s q (dField d (0x20 + 8 * lane) 8) lane with
      | .error e => .error e
      | .ok i => match laneQueues s q d nodes t with
        | .error e => .error e
        | .ok r => .ok (some i :: r)
    else match laneQueues s q d nodes t with
      | .error e => .error e
      | .ok r => .ok (none :: r)

/-- Must a launch or destroy wait at a graph's element: a patch holds the graph or is ahead of it (R317)? -/
def waitsAt (s : State) (g : Graph) (c : Nat) : Bool :=
  g.takenBy.isSome || (g.waiters.takeWhile (· != c)).any (isPatch s)

/-- A launch or destroy waits at a graph's element in its turn. -/
def waitAt (s : State) (i : Nat) (g : Graph) (c : Nat) : Done :=
  .held (s.setGraph i { g with waiters := addOnce c g.waiters }) .hold

/-- A launch or destroy has had its turn at a graph's element. -/
def leaveElement (s : State) (i c : Nat) : State :=
  match tblFind s.grf.graphs i with
  | some g => s.setGraph i (nextAtElement s { g with waiters := g.waiters.filter (· != c) })
  | none => s

/-- GRAPH_LAUNCH: the check, the pin and the read of the current version, one step at the graph's element (R308). -/
def graphLaunchBody (c : Nat) (s : State) (x : Cmd) (q : Queue) : Done :=
  let d := x.desc
  within (needGraph s q (dField d 0x20 8)) fun (i, g) =>
    if waitsAt s g c then waitAt s i g c
    else
      within (needOpen (!g.lost) 0x2051) fun _ =>
        let nodes := ((tblFind g.versions g.current).map (·.nodes)).getD []
        within (laneQueues s q d nodes [1, 2, 3]) fun lanes =>
          .run ((leaveElement s i c).setGraphLaunch c
            { queue := x.queue, graph := i, version := g.current, lanes := some x.queue :: lanes,
              recordsAddr := dField d 0x18 8, nodes := List.replicate nodes.length .waiting })

def execGraphLaunch (c : Nat) (s : State) : Out := act true s fun s => runCmd s c 0x71 (graphLaunchBody c)

/-- Did a node complete with fault 0? -/
def nodeDone : NodeState → Bool
  | .completed 0 _ _ _ => true
  | _ => false

/-- The fault and detail of a node that completed with one. -/
def nodeFault : NodeState → Option (Nat × Nat)
  | .completed 0 _ _ _ => none
  | .completed f d _ _ => some (f, d)
  | _ => none

/-- Is a node at work: running, or ended and not yet noted? -/
def nodeBusy : NodeState → Bool
  | .running _ => true
  | .finished _ _ _ _ => true
  | _ => false

/-- Has a launch met a fault, so that no further node starts (R312)? -/
def launchFaulted (l : GraphLaunch) : Bool := l.ownFault.isSome || l.nodes.any fun n => (nodeFault n).isSome

/-- Is a node ready: waiting, with every node that has an edge into it complete with fault 0 (R310)? -/
def nodeReady (s : State) (l : GraphLaunch) (n : Nat) : Bool :=
  match tblFind s.grf.graphs l.graph with
  | some g =>
    n < l.nodes.length && nth (.completed 1 0 0 0) l.nodes n == .waiting && l.record.isNone && !launchFaulted l &&
      g.edges.all fun e => e.2 != n || nodeDone (nth .waiting l.nodes e.1)
  | none => false

/-- The lane queue of a node. -/
def nodeQueue (s : State) (l : GraphLaunch) (n : Nat) : Option Nat :=
  match (pinnedNodes s l)[n]? with
  | some d => (l.lanes[nodeLane d]?).join
  | none => none

/-- May a ready node start now: its lane is not dead and the engines admit it (R226, R290, R310)? -/
def nodeAdmitted (s : State) (l : GraphLaunch) (n : Nat) : Bool :=
  match nodeQueue s l n, (pinnedNodes s l)[n]? with
  | some i, some d => match s.queue? i with
    | some q => q.state != .dead && engineAdmits s i q (withoutLane d)
    | none => false
  | _, _ => false

/-- Does a lower ready node of the same lane go first (R310)? -/
def lowerFirst (s : State) (l : GraphLaunch) (n : Nat) : Bool :=
  (List.range n).any fun k => nodeQueue s l k == nodeQueue s l n && nodeReady s l k && nodeAdmitted s l k

/-- Does the launch's own command run? -/
def launchRuns (s : State) (c : Nat) : Bool :=
  match s.cmd? c with
  | some x => x.stage == .running && x.shutter.isNone
  | none => false

/-- The result of a launch (R314). -/
def graphResult (s : State) (l : GraphLaunch) (faulty : Option Nat) : BitVec 128 :=
  let done := l.nodes.countP nodeDone
  let lane := match faulty with
    | some n => ((pinnedNodes s l)[n]?).elim 0xFF nodeLane
    | none => 0xFF
  BitVec.ofNat 128 (l.version + done * 2 ^ 32 + faulty.getD 0xFFFFFFFF * 2 ^ 64 + lane * 2 ^ 96)
/-- The record of a node (R313). -/
def nodeRecord (s : State) (l : GraphLaunch) (n fault detail status : Nat) (result : BitVec 128) : List Byte :=
  let d := nth 0 (pinnedNodes s l) n
  let r : Record := { seq := n, fault := fault, opcode := dOpcode d, status := status, detail := detail,
                      tag := dField d 4 4, result := result, irq := false }
  recordLow r ++ recordHigh r
/-- The records of the nodes that never started (R312). -/
def notRun (s : State) (l : GraphLaunch) (first : Nat) : List (Nat × List Byte) :=
  ((List.range l.nodes.length).filter fun n => nth (.running 0) l.nodes n == .waiting).map fun n =>
    (l.recordsAddr + 32 * n, nodeRecord s l n 0x5010 first 1 0)
/-- Write records in order. -/
def writeAll (s : State) (q : Queue) : List (Nat × List Byte) → Try State
  | [] => .ok s
  | r :: t => match writeVa s q.port q.pasid r.1 r.2 with
    | .ok s' => writeAll s' q t
    | .error e => .error e
/-- Complete the launch once no node of it is at work and none can start (R312-R314). -/
def endIfIdle (s : State) (c : Nat) : State :=
  match tblFind s.grf.launches c, s.cmd? c with
  | some l, some x =>
    match s.queue? x.queue with
    | none => s
    | some q =>
      let faulty := (List.range l.nodes.length).find? fun n => (nodeFault (nth .waiting l.nodes n)).isSome
      if l.record.isSome || l.nodes.any nodeBusy || (!launchFaulted l && l.nodes.any (· == .waiting)) then s
      else match l.ownFault, faulty with
        | some (f, d, g), _ => finishCmd s c f d (graphResult s l none) g false
        | none, none => finishCmd s c 0 0 (graphResult s l none) false false
        | none, some n =>
          let fd := (nodeFault (nth .waiting l.nodes n)).getD (0, 0)
          match writeAll s q (if l.recordsAddr == 0 then [] else notRun s l n) with
          | .ok s' => finishCmd s' c fd.1 fd.2 (graphResult s l (some n)) false false
          | .error (.page pasid pg w) => (askPage s q.port pasid pg w).modCmd c fun y => { y with page := some (pasid, pg, w) }
          | .error (.fault f d g) => finishCmd s c f d (graphResult s l none) g false
          | .error _ => s
  | _, _ => s

/-- GRAPH_NODE_START: a ready node starts as a command of its lane's queue (R310); on a lost graph the launch faults
(R470); a node whose lane's queue is gone faults with 0x5011 (R312). -/
def graphNodeStart (s : State) (c n : Nat) : State :=
  match tblFind s.grf.launches c with
  | none => s
  | some l =>
    if !launchRuns s c || !nodeReady s l n || s.flt.resetStep != 0 then s
    else match tblFind s.grf.graphs l.graph, nodeQueue s l n, (pinnedNodes s l)[n]? with
      | _, none, some d =>
        s.setGraphLaunch c { l with nodes := setNth l.nodes n (.finished 0x5011 (nodeLane d) 1 0) }
      | some g, some i, some d =>
        if g.lost then
          let code := Config.openDetail 0x2051 s.draws % 2 ^ 32
          endIfIdle ({ s with draws := s.draws + 1 }.setGraphLaunch c { l with ownFault := some (0x2051, code, true) }) c
        else if !nodeAdmitted s l n || lowerFirst s l n then s
        else match s.queue? i with
          | none => s
          | some q =>
            let id := s.qfe.nextCmd
            let s := s.setGraphLaunch c { l with nodes := setNth l.nodes n (.running id) }
            startCmd s i q { queue := i, seq := 0, node := some (c, n), desc := withoutLane d }
      | _, _, _ => s

def execGraphNodeStart (l node : Nat) (s : State) : Out := act true s fun s => graphNodeStart s l node

/-- GRAPH_NODE_COMPLETE: the node's record is written, its successors may become ready, or after a fault none starts; the
last node completes the launch (R312-R314). -/
def graphNodeComplete (s : State) (c n : Nat) : State :=
  match tblFind s.grf.launches c, s.cmd? c with
  | some l, some x =>
    match s.queue? x.queue with
    | none => s
    | some q =>
      if !launchRuns s c || l.record.isSome then s
      else match nth .waiting l.nodes n with
        | .finished f d st r =>
          let done := fun (s : State) (own : Option (Nat × Nat × Bool)) =>
            endIfIdle (s.setGraphLaunch c
              { l with nodes := setNth l.nodes n (.completed f d st r), ownFault := own }) c
          if l.recordsAddr == 0 || l.ownFault.isSome then done s l.ownFault
          else match writeVa s q.port q.pasid (l.recordsAddr + 32 * n) (nodeRecord s l n f d st r) with
            | .ok s' => done s' l.ownFault
            | .error (.page pasid pg w) => (askPage s q.port pasid pg w).modCmd c fun y => { y with page := some (pasid, pg, w) }
            | .error (.fault f' d' g) => done s (some (f', d', g))
            | .error _ => s
        | .completed _ _ _ _ => endIfIdle s c
        | _ => s
  | _, _ => s

def execGraphNodeComplete (l node : Nat) (s : State) : Out := act true s fun s => graphNodeComplete s l node

/-! ### Patching (R316-R318) -/

/-- The entries of a patch list. -/
def patchEntries (n : Nat) (b : List Byte) : List (Nat × Desc) :=
  (List.range n).map fun k => (fieldOf b (72 * k) 4, descOf ((b.drop (72 * k + 8)).take 64))

/-- Check the entries in order: a node of the graph, not named before, same opcode and lane, permitted (R316). -/
def checkPatch (g : Graph) (nodes : List Desc) : Nat → List Nat → List (Nat × Desc) → Try Unit
  | _, _, [] => .ok ()
  | k, before, (n, d) :: t =>
    match nodes[n]? with
    | none => flt 0x5004 k
    | some o =>
      if before.contains n || dOpcode d != dOpcode o || nodeLane d != nodeLane o || nodeBad g.lanes d then flt 0x5004 k
      else checkPatch g nodes (k + 1) (n :: before) t

/-- The first entry with a nonzero reserved byte (R316). -/
def patchReserved (n : Nat) (b : List Byte) : Option Nat := (List.range n).find? fun k => fieldOf b (72 * k + 4) 4 != 0

/-- The checks of a patch list in order of its entries (R316). -/
def checkList (g : Graph) (nodes : List Desc) (n : Nat) (b : List Byte) : Try Unit :=
  match patchReserved n b with
  | none => checkPatch g nodes 0 [] (patchEntries n b)
  | some k => match checkPatch g nodes 0 [] (patchEntries k b) with
    | .ok _ => flt 0x5004 k
    | .error e => .error e

/-- PATCH: steps 1 and 2 of R317. -/
def patchBody (c : Nat) (s : State) (x : Cmd) (q : Queue) : Done :=
  let d := x.desc
  within (needGraph s q (dField d 0x20 8)) fun (i, g) =>
    within (needOpen (!g.lost) 0x2051) fun _ =>
      within (readVa s q.port q.pasid (dField d 0x10 8) 8) fun h =>
        let n := fieldOf h 0 4
        let nodes := ((tblFind g.versions g.current).map (·.nodes)).getD []
        within (needOpen (n != 0 && n ≤ nodes.length && fieldOf h 4 4 == 0) 0x5004) fun _ =>
          within (readVa s q.port q.pasid (dField d 0x10 8 + 8) (72 * n)) fun b =>
            within (checkList g nodes n b) fun _ =>
              let s := { s with grf := { s.grf with patches := tblPut s.grf.patches c (patchEntries n b) } }
              .run (s.setGraph i (nextAtElement s { g with waiters := g.waiters ++ [c] }))

def execPatch (c : Nat) (s : State) : Out := act true s fun s => runCmd s c 0x72 (patchBody c)

/-- PATCH_COMMIT: steps 3 to 6 of R317, once the patch holds the graph (R318); a graph destroyed meanwhile faults it (R320). -/
def patchCommitBody (c : Nat) (s : State) (x : Cmd) (_ : Queue) : Done :=
  match s.grf.graphs.find? fun g => g.2.takenBy == some c, tblFind s.grf.patches c with
  | some (i, g), some es =>
    let base := dField x.desc 0x18 4
    let nodes := ((tblFind g.versions g.current).map (·.nodes)).getD []
    let charge := chargeVersion nodes.length es.length
    within (needOpen (!g.stale) 0x4011) fun _ =>
    within (need (base == 0 || base == g.current) 0x5007 g.current) fun _ =>
      within (needOpen (!(pinned s i g.current && 16 ≤ g.versions.length)) 0x5008) fun _ =>
        within (needOpen (g.current != 0xFFFFFFFF) 0x5009) fun _ =>
          within (need (s.graphUsed + charge ≤ graphArea) 0x2050 (kib charge)) fun _ =>
            let v : GraphVersion := { nodes := es.foldl (fun l e => setNth l e.1 e.2) nodes, charged := charge }
            let s := freeVersions (s.setGraph i
              { g with versions := tblPut g.versions (g.current + 1) v, current := g.current + 1 }) i
            let live := ((tblFind s.grf.graphs i).map (·.versions.length)).getD 0
            .ok s (BitVec.ofNat 128 (g.current + 1 + es.length * 2 ^ 32 + live * 2 ^ 64))
  | none, some _ =>
    within (needOpen (s.grf.graphs.any fun g => g.2.waiters.contains c) 0x4011) fun _ => .stop .hold
  | _, none => .stop .hold

def execPatchCommit (c : Nat) (s : State) : Out := act true s fun s => goOn s c 0x72 (patchCommitBody c)

/-! ### Destroying (R320) -/

def graphDestroyBody (c : Nat) (s : State) (x : Cmd) (q : Queue) : Done :=
  within (needGraph s q (dField x.desc 0x20 8)) fun (i, g) =>
    if waitsAt s g c then waitAt s i g c
    else
      let left := (g.versions.filter fun v => pinned s i v.1).length
      .ok (freeVersions (s.setGraph i { g with stale := true }) i) (BitVec.ofNat 128 left)

def execGraphDestroy (c : Nat) (s : State) : Out := act true s fun s => runCmd s c 0x73 (graphDestroyBody c)

/-! ### Start requests of real-time queues (R290, R310) -/

/-- Has a real-time queue a fetched descriptor, or a ready node on a lane it serves? -/
def realTimeWork (s : State) (i : Nat) (q : Queue) : Bool :=
  (q.state == .ready && !q.waiting.isEmpty) ||
    s.grf.launches.any fun l => (List.range l.2.nodes.length).any fun n => nodeQueue s l.2 n == some i && nodeReady s l.2 n

/-- REALTIME_PREEMPT: steps 1 and 2 of R290. -/
def execRealtimePreempt (q : Nat) (s : State) : Out :=
  act true s fun s =>
    match s.queue? q with
    | some x =>
      if x.kind == 1 && realTimeWork s q x then
        x.engines.foldl (fun s e => s.modEng e fun g => { g with preempting := g.preempting || g.context.isNone }) s
      else s
    | none => s

end Sys2Proof.Machine
end

