-- ==== Sys2Proof/Machine/Setup.lean ====
section
/-! DEFINITION. The command time limit and the shutter (R291, R292), set-up requests and queue teardown (R293-R297, R312,
R321), and the registers of the queue front end that have a row of their own (R267, R279, R288, R291, R519). -/

namespace Sys2Proof.Machine

/-! ### The shutter (R292) -/

/-- Has a command an access outstanding: a page it waits for, or a read? -/
def outstanding (s : State) (c : Nat) (x : Cmd) : Bool :=
  x.page.isSome || match s.queue? x.queue with
    | some q => readsOutstanding s q.port c
    | none => false

/-- Steps 1 and 2: the shutter signal to every engine that runs the command, all of its queue's (R265). -/
def startShutter (s : State) (c : Nat) : State :=
  s.modCmd c fun x =>
    if x.shutter.isSome then x
    else { x with shutter := some { left := ((s.queue? x.queue).map (·.engines)).getD [] } }

/-- COMMAND_TIME_LIMIT: not for a slot-naming command at step 5 or later (R210), for a graph launch's own command (R311), or
while the command is saved out on an engine (R291). -/
def commandTimeLimit (s : State) (c : Nat) : State :=
  match s.cmd? c with
  | none => s
  | some x =>
    match s.queue? x.queue with
    | none => s
    | some q =>
      if x.stage == .committing || x.shutter.isSome || q.state == .dead || dOpcode x.desc == 0x71 ||
          (q.engines.any fun e => (s.eng e).context.any fun k => k.paused.contains c) then s
      else countPort (startShutter s c) q.port (·.shutter) (fun y v => { y with shutter := v }) (0x041 + portIdx q.port) 1

def execCommandTimeLimit (c : Nat) (s : State) : Out := act true s fun s => commandTimeLimit s c

/-- SHUTTER_DRAIN_TIMEOUT: accesses of a shuttered command have not drained on an engine, and it is killed there (step 3). -/
def execShutterDrainTimeout (c e : Nat) (s : State) : Out :=
  act (isEngine e) s fun s =>
    match s.cmd? c with
    | none => s
    | some x => match x.shutter with
      | some h =>
        if h.left.contains e && outstanding s c x then
          s.setCmd c { x with shutter := some { left := h.left.filter (· != e), killed := h.killed ++ [e] } }
        else s
      | none => s

/-- Have all engines acknowledged: they drained, or those whose accesses did not are killed? -/
def acknowledged (s : State) (c : Nat) (x : Cmd) : Bool :=
  match x.shutter with
  | some h => h.left.isEmpty || !h.killed.isEmpty || !outstanding s c x
  | none => false

/-- SHUTTER_COMPLETE: the record with 0x4020 (step 5); a silent queue writes and logs none (R472). -/
def shutterComplete (s : State) (c : Nat) : State :=
  match s.cmd? c with
  | none => s
  | some x =>
    match x.shutter, s.queue? x.queue with
    | some h, some q =>
      if q.state != .dead && acknowledged s c x then
        finishCmd (scrambleDests s x) c 0x4020 (bit01 (!h.killed.isEmpty)) 0 (!q.silent) true
      else s
    | _, _ => s

def execShutterComplete (c : Nat) (s : State) : Out := act true s fun s => shutterComplete s c

/-! ### Set-up requests (R293-R295) -/

/-- The request that a port's go has given, when it is the one processed: 128 bytes of untranslated memory (R293). -/
def setupRequest (s : State) (p : Port) : Option (List Byte) :=
  let x := s.port p
  if x.setup.busy && s.qfe.setupOrder.head? == some p && x.mayRequest && s.qfe.teardown.isNone then
    some (s.read (.untranslated p) x.setup.addr 128)
  else none

/-- End a set-up request: busy clears, the result is set, the event fires (R293, R440). -/
def setupDone (s : State) (p : Port) (code : Nat) : State :=
  let s := { s with qfe := { s.qfe with setupOrder := s.qfe.setupOrder.drop 1 } }
  (s.modPort p fun x => { x with setup := { x.setup with busy := false, result := code } }).fire (0x080 + portIdx p)

/-- Run a set-up request of an op: a fault code, or the new state with the result fields written. -/
def setupOp (s : State) (p : Port) (op : Nat) (f : State → List Byte → Except Nat State) : State :=
  match setupRequest s p with
  | none => s
  | some b =>
    if fieldOf b 0 1 != op then s
    else match f s b with
      | .ok s' => setupDone s' p 0
      | .error code => setupDone s p code

/-- Write a handle into the request (R294, R295). -/
def writeHandle (s : State) (p : Port) (h : Nat) : State := s.write (.untranslated p) ((s.port p).setup.addr + 0x70) (natLe 8 h)

/-- The engines of a map (R294). -/
def mapEngines (b : List Byte) : List Nat := (List.range 768).filter fun e => bit (nth 0 b (e / 8)).toNat (e % 8)

/-- Is a create queue request out of range (R294 order 1)? -/
def createBad (b : List Byte) (engines : List Nat) : Bool :=
  let kind := fieldOf b 1 1
  3 < kind || 1 < fieldOf b 2 1 || fieldOf b 3 1 < 6 || 16 < fieldOf b 3 1 || 2 ^ 20 ≤ fieldOf b 4 4 ||
  fieldOf b 8 8 % 4096 != 0 || fieldOf b 0x10 8 % 4096 != 0 || fieldOf b 0x18 8 % 512 != 0 || 63 < fieldOf b 0x20 1 ||
  (kind == 3 && (fieldOf b 0x18 8 != 0 || fieldOf b 0x20 1 != 0)) || fieldOf b 0x21 1 != 0 || 2047 < fieldOf b 0x22 2 ||
  fieldOf b 0x24 4 != 0 || fieldOf b 0x30 64 != 0 || fieldOf b 0x78 8 != 0 || engines.isEmpty ||
  (kind == 2 && engines.length != 1)

/-- The lowest free queue slot of an engine (R265). -/
def freeQueueSlot (g : Engine) : Option Nat := lowestFree (fun n => (tblFind g.queues n).isSome) 16 0

/-- Give a queue a slot on an engine. -/
def takeSlot (i : Nat) (s : State) (e : Nat) : State :=
  s.modEng e fun g => match freeQueueSlot g with
    | some n => { g with queues := tblPut g.queues n i }
    | none => g

/-- A queue's doorbell page is polled by its fetch engine: first used, or real-time, at p_min (R279). -/
def usePage (s : State) (q : Queue) : State :=
  match q.engines.head? with
  | none => s
  | some e =>
    let pmin := (s.port q.port).pollMinNs
    let d : DoorbellPage := { engine := e, pasid := q.pasid, page := q.dbPage, interval := pmin }
    if q.kind == 3 then s
    else if s.qfe.pages.any fun x => x.engine == e && x.pasid == q.pasid && x.page == q.dbPage then
      if q.kind == 1 then setPage s d else s
    else { s with qfe := { s.qfe with pages := s.qfe.pages ++ [d] } }

/-- The queue a create request describes. -/
def queueOf (p : Port) (gen : Nat) (b : List Byte) (engines : List Nat) : Queue :=
  { gen := gen, kind := fieldOf b 1 1, port := p, haltOnFault := fieldOf b 2 1 == 1, ringLog2 := fieldOf b 3 1,
    pasid := fieldOf b 4 4, ring := fieldOf b 8 8, cpl := fieldOf b 0x10 8, dbPage := fieldOf b 0x18 8,
    dbIndex := fieldOf b 0x20 1, vector := fieldOf b 0x22 2, engines := engines }

/-- A normal task's window lies below 0x80_0000 once a real-time queue is bound to its engine (R289). -/
def lowerWindow (s : State) (e : Nat) : State :=
  let plain := fun (t : Task) => !(s.queue? t.queue).any fun q => q.kind == 1
  let lower := fun (t : Task) => if plain t then { t with windowBase := min t.windowBase (0x800000 - t.windowBytes) } else t
  s.modEng e fun g => { g with task := g.task.map lower }

/-- SETUP_CREATE_QUEUE (R294). -/
def createQueue (s : State) (p : Port) (b : List Byte) : Except Nat State :=
  let engines := mapEngines (s.read (.untranslated p) (fieldOf b 0x28 8) 96)
  if createBad b engines then .error 0x4050
  else if engines.any fun e => !s.engineUsable e || (s.eng e).portB != (p == .B) then .error 0x4052
  else if fieldOf b 1 1 == 1 && engines.any fun e => !(s.eng e).sill then .error 0x4053
  else if engines.any fun e => (freeQueueSlot (s.eng e)).isNone then .error 0x4051
  else match newIndex 12288 (fun i => (s.queue? i).isSome) s.qfe.queueGens with
    | none => .error 0x4054
    | some (i, gen) =>
      let q := queueOf p gen b engines
      let s := { s with qfe := { s.qfe with queueGens := tblPut s.qfe.queueGens i gen } }.setQueue i q
      let s := if q.kind == 1 then engines.foldl lowerWindow s else s
      .ok (writeHandle (usePage (engines.foldl (takeSlot i) s) q) p (mkHandle 6 gen i))

def execSetupCreateQueue (p : Port) (s : State) : Out :=
  act true s fun s => setupOp s p 1 fun s b => createQueue s p b

/-- SETUP_CREATE_FENCE (R295). -/
def createFence (s : State) (p : Port) (b : List Byte) : Except Nat State :=
  if 2 ^ 20 ≤ fieldOf b 4 4 || fieldOf b 0x10 8 % 8 != 0 then .error 0x4050
  else match newIndex 16384 (fun i => (s.fence? i).isSome) s.qfe.fenceGens with
    | none => .error 0x4054
    | some (i, gen) =>
      let f : Fence := { gen := gen, port := p, pasid := fieldOf b 4 4, value := BitVec.ofNat 64 (fieldOf b 8 8),
                         mirror := fieldOf b 0x10 8 }
      let s := { s with qfe := { s.qfe with fenceGens := tblPut s.qfe.fenceGens i gen } }.setFence i f
      .ok (writeHandle s p (mkHandle 5 gen i))

def execSetupCreateFence (p : Port) (s : State) : Out :=
  act true s fun s => setupOp s p 3 fun s b => createFence s p b

/-- SETUP_DESTROY_FENCE: its waiters find it gone (R286, R295). -/
def destroyFence (s : State) (p : Port) (b : List Byte) : Except Nat State :=
  match fenceIndex s (fieldOf b 8 8) with
  | none => .error 0x4011
  | some i => match s.fence? i with
    | none => .error 0x4011
    | some f =>
      if f.port != p then .error 0x4055
      else .ok { s with qfe := { s.qfe with fences := tblDel s.qfe.fences i } }

def execSetupDestroyFence (p : Port) (s : State) : Out :=
  act true s fun s => setupOp s p 4 fun s b => destroyFence s p b

/-- SETUP_REQUEST_INVALID (R294). -/
def execSetupRequestInvalid (p : Port) (s : State) : Out :=
  act true s fun s => match setupRequest s p with
    | some b => if fieldOf b 0 1 == 0 || 4 < fieldOf b 0 1 then setupDone s p 0x4050 else s
    | none => s

/-! ### Queue teardown (R296, R297, R312, R321) -/

/-- The started commands a teardown ends: the queue's own, those of its lane, and the nodes of the launches it made. -/
def teardownCommands (s : State) (i : Nat) : List Nat :=
  (s.cmds.filter fun e => e.2.queue == i || match e.2.node with
    | some (l, _) => match tblFind s.grf.launches l with
      | some g => g.queue == i
      | none => false
    | none => false).map (·.1)

/-- The tasks a teardown ends: the queue's own, and those that hold it in their handle table. -/
def teardownTasks (s : State) (i : Nat) (h : DWord) : List Nat :=
  (s.engines.filter fun e => match e.2.task with
    | some t => t.queue == i || t.handles.contains h
    | none => false).map (·.1)

/-- SETUP_DESTROY_QUEUE: steps 1 and 2 of R296. -/
def destroyQueue (s : State) (p : Port) (b : List Byte) : State :=
  let h := fieldOf b 8 8
  match queueIndex s h with
  | none => setupDone s p 0x4011
  | some i => match s.queue? i with
    | none => setupDone s p 0x4011
    | some q =>
      if q.port != p then setupDone s p 0x4055
      else
        let cs := teardownCommands s i
        let t : Teardown := { queue := i, handle := BitVec.ofNat 64 h, discarded := q.waiting.length, startedAt := s.time,
                              commands := cs }
        let ts := teardownTasks s i (BitVec.ofNat 64 h)
        let s := { s with qfe := { s.qfe with teardown := some (p, t) } }.setQueue i
          { q with state := .dead, waiting := [], held := [], waits := [] }
        ts.foldl (fun s e => endTask s e 0x3056) (cs.foldl startShutter s)

def execSetupDestroyQueue (p : Port) (s : State) : Out :=
  act true s fun s => match setupRequest s p with
    | some b => if fieldOf b 0 1 == 2 then destroyQueue s p b else s
    | none => s

/-- Does a queue own a slot? -/
def ownedBy (i : Nat) : SlotState → Bool
  | .free => false
  | .claimed q => q == i
  | .kept q => q == i
  | .held q _ => q == i

/-- Step 3 on an engine: the queue's slots are freed, in a saved context, too, and its queue slot. -/
def freeOwned (i : Nat) (s : State) (e : Nat) : State :=
  let f := fun (l : List SlotState) => l.map fun x => if ownedBy i x then .free else x
  s.modEng e fun g =>
    { g with slots := f g.slots, context := g.context.map (fun k => { k with slots := f k.slots }),
             queues := g.queues.filter fun x => x.2 != i }

/-- End one command of a torn-down queue: a node another queue launched faults with 0x5011 and its lane (R312). -/
def endTorn (i : Nat) (s : State) (c : Nat) : State :=
  match s.cmd? c with
  | none => s
  | some x =>
    let lane := match x.node with
      | some (l, n) => match tblFind s.grf.launches l with
        | some g => if g.queue == i then 0 else ((pinnedNodes s g)[n]?).elim 0 nodeLane
        | none => 0
      | none => 0
    finishCmd (scrambleDests s x) c 0x5011 lane 0 false true

/-- Launches of a queue that wait for their records, and lanes bound to it, go (R296, R309, R312). -/
def dropQueueWork (s : State) (i : Nat) : State :=
  let s := (s.spin.launches.filter fun l => l.2.queue == i).foldl (fun s l => dropLaunch s l.1) s
  let s := (s.grf.launches.filter fun l => l.2.queue == i).foldl (fun s l => dropGraphLaunch s l.1) s
  let unbind := fun (l : GraphLaunch) => { l with lanes := l.lanes.map fun x => if x == some i then none else x }
  { s with grf := { s.grf with launches := s.grf.launches.map fun l => (l.1, unbind l.2) },
           arrays := s.arrays.filter fun a => a.1 / 4 != i }

/-- Is an access that a request stands for still wanted? -/
def userWaits (s : State) (p : Port) (w : PageWait) (u : PageUser × Bool) : Bool :=
  match u.1 with
  | .command c => (s.cmd? c).isSome
  | .queue i => (pageQueues s p w.pasid w.page u.2).contains i
  | .task e => (pageTasks s p w.pasid w.page u.2).contains e

/-- Mark the translations and page requests that nothing waits for any more, of whatever PASID (a fence's mirror may lie in another,
R295), and empty the cache of the queue's (step 4). -/
def withdrawPages (s : State) (p : Port) (pasid : Nat) : State :=
  let f := fun (w : PageWait) =>
    { w with withdrawn := w.withdrawn || !((usersOf s p w false ++ usersOf s p w true).any (userWaits s p w)) }
  s.modPort p fun x => { x with atc := x.atc.filter (fun a => a.pasid != pasid), ats := x.ats.map f, pageReqs := x.pageReqs.map f }

/-- The doorbell pages that still hold a doorbell of a queue (R279). -/
def prunePages (s : State) : State :=
  { s with qfe := { s.qfe with pages := s.qfe.pages.filter fun d => s.qfe.queues.any fun e => inPage d e.2 && e.2.state != .dead } }

/-- The teardown report (R297). -/
def teardownReport (s : State) (q : Queue) (t : Teardown) (killed : List Nat) : List Byte :=
  let n := q.engines.length
  let k := (q.engines.filter killed.contains).length
  natLe 2 n ++ natLe 2 (n - k) ++ natLe 2 k ++ natLe 2 (min 0xFFFF t.discarded) ++
    natLe 4 (min 0xFFFFFFFF (s.time - t.startedAt)) ++ zeros 4

/-- QUEUE_TEARDOWN_COMPLETE: steps 3 to 5 of R296, once every engine has drained or been killed and the tasks have ended; on a
link that is down the report is lost (R472). -/
def teardownComplete (s : State) (p : Port) : State :=
  match s.qfe.teardown with
  | none => s
  | some (o, t) =>
    let cs := t.commands.filterMap fun c => (s.cmd? c).map fun x => (c, x)
    match s.queue? t.queue with
    | none => s
    | some q =>
      if o != p || !(cs.all fun e => acknowledged s e.1 e.2) || !(teardownTasks s t.queue t.handle).isEmpty ||
          ((s.port p).linkUp && !(s.port p).mayRequest) then s
      else
        let i := t.queue
        let killed := cs.flatMap fun e => ((e.2.shutter.map (·.killed)).getD [])
        let own := cs.filter fun e => e.2.node.isNone
        let s := (cs.filter fun e => e.2.node.isSome).foldl (fun s e => endTorn i s e.1) s
        let s := own.foldl (fun s e => endTorn i s e.1) s
        let s := dropQueueWork ((List.range 768).foldl (fun s e =>
          if q.engines.contains e then freeOwned i s e else s) s) i
        let s := { s with qfe := { s.qfe with queues := tblDel s.qfe.queues i, teardown := none } }
        let s := prunePages (withdrawPages s q.port q.pasid)
        let s := if (s.port p).linkUp then s.write (.untranslated p) ((s.port p).setup.addr + 0x40) (teardownReport s q t killed)
          else s
        setupDone s p 0

def execQueueTeardownComplete (p : Port) (s : State) : Out := act true s fun s => teardownComplete s p

/-! ### Registers with rows of their own -/

/-- The engines a port may use (R266), and those in its sill (R288). -/
def portEngines (s : State) (b : Bool) : Nat := ((List.range 768).filter fun e => (s.eng e).portB == b).length
def sillEngines (s : State) (b : Bool) : Nat := ((List.range 768).filter fun e => (s.eng e).portB == b && (s.eng e).sill).length

/-- Does each port's sill hold at most half its engines (R288)? -/
def sillOk (s : State) : Bool := [false, true].all fun b => sillEngines s b ≤ portEngines s b / 2

/-- Change one bit of an engine: none for an engine that holds a queue slot, or against the limit of the sill (R267, R288). -/
def changeBit (put : Engine → Bool → Engine) (get : Engine → Bool) (n value : Nat) (s : State) (b : Nat) : State :=
  let e := 32 * n + b
  let g := s.eng e
  if get g == bit value b || !g.queues.isEmpty then s
  else
    let s' := s.setEng e (put g (bit value b))
    if sillOk s' then s' else s

/-- QFE_ENGINE_PORT_WRITE (R267). -/
def enginePortWrite (s : State) (p : Port) (n value : Nat) : State :=
  if p == .A then (List.range 32).foldl (changeBit (fun g v => { g with portB := v }) (·.portB) n value) s else s

def execQfeEnginePortWrite (p : Port) (n value : Nat) (s : State) : Out :=
  act (n < 24 && isWord value) s <| overBar p fun s => enginePortWrite s p n value

/-- QFE_SILL_WRITE (R288). -/
def sillWrite (s : State) (p : Port) (n value : Nat) : State :=
  if p == .A then (List.range 32).foldl (changeBit (fun g v => { g with sill := v }) (·.sill) n value) s else s

def execQfeSillWrite (p : Port) (n value : Nat) (s : State) : Out :=
  act (n < 24 && isWord value) s <| overBar p fun s => sillWrite s p n value

/-- QFE_TIME_LIMIT_WRITE (R291). -/
def timeLimitWrite (s : State) (p : Port) (value : Nat) : State :=
  if p == .A then { s with qfe := { s.qfe with timeLimit := max 1000 (min 60000000 value) } } else s

def execQfeTimeLimitWrite (p : Port) (value : Nat) (s : State) : Out :=
  act (isWord value) s <| overBar p fun s => timeLimitWrite s p value

/-- QFE_POLL_WRITE (R279, R519). -/
def pollWrite (s : State) (p : Port) (value : Nat) : State :=
  let pmin := max 250 (bits value 0 16)
  let pmax := max ((pmin + 999) / 1000) (min 10000 (bits value 16 16))
  s.modPort p fun x => { x with pollMinNs := pmin, pollMaxUs := pmax }

def execQfePollWrite (p : Port) (value : Nat) (s : State) : Out :=
  act (isWord value) s <| overBar p fun s => pollWrite s p value

end Sys2Proof.Machine
end

