-- ==== Sys2Proof/Machine/Fence.lean ====
section
/-! DEFINITION. Engines that fail: stall, fence, migration of queues, return to service, known-answer sequences (R211, R212,
R231, R467-R469). -/

namespace Sys2Proof.Machine

/-! ### The scratchpad of an engine (R252, R256, R258) -/

/-- The die whose window governs a bank's test. -/
def bankDie (b : Nat) : Nat := if b < 768 then engineDie b else b - 706

/-- Words of a bank: an engine's, or a host die's (R252, R260). -/
def bankWords (b : Nat) : Nat := if b < 768 then 49152 else 16384
/-- Regions of a bank. -/
def bankRegions (b : Nat) : Nat := bankWords b / 256
/-- Is a word in the sealed region (R261)? -/
def sealedWord (b w : Nat) : Bool := 768 ≤ b && 15360 ≤ w

/-- Is a word served by the save buffer (R256)? -/
def inBuffer (b : Bank) (w : Nat) : Bool :=
  b.phase != .idle && w / 256 == b.region &&
    match b.phase with
    | .idle => false
    | .copy => decide (w % 256 < b.pointer)
    | .march => true
    | .restore => decide (b.pointer ≤ w % 256)

/-- Read a word where it is served. -/
def spdGet (b : Bank) (w : Nat) : Nat := if inBuffer b w then tblGet 0 b.buffer (w % 256) else tblGet 0 b.words w
/-- Write a word where it is served. -/
def spdPut (b : Bank) (w v : Nat) : Bank :=
  if inBuffer b w then { b with buffer := tblSet 0 b.buffer (w % 256) v } else { b with words := tblSet 0 b.words w v }

/-- The next of 16 spare rows that is free and passed the march (R258, R259). -/
def freeSpare (x : Bank) : Option Nat :=
  (List.range 16).find? fun n => !x.badSpares.contains n && !x.repairs.any fun e => e.2 == n

/-- The words of the region under test that the save buffer serves. -/
def bufferedWords (x : Bank) : Tbl Nat :=
  (((List.range 256).map (256 * x.region + ·)).filter (inBuffer x)).filterMap fun w =>
    if spdGet x w == 0 then none else some (w, spdGet x w)

/-- The save buffer and the rows left unrepaired move with the engine's images to the engine that takes over (R231, R258). -/
def moveImages (s : State) (e : Nat) (heir : Option Nat) : State :=
  let x := s.bank e
  match heir with
  | some k =>
    if x.phase == .idle then s
    else (s.setBank e { x with phase := .idle, passRunning := false }).modBank k fun y =>
      { y with taken := y.taken ++ [(e, bufferedWords x)] }
  | none => s

/-! ### Migration (R468) -/

/-- A replacement for an empty set: the lowest usable engine of the die, else of the module, with a free queue slot, of the
port, and in the sill for a real-time queue. -/
def replacement (s : State) (q : Queue) (e : Nat) : Option Nat :=
  let ok := fun (k : Nat) => s.engineUsable k && (freeQueueSlot (s.eng k)).isSome && (s.eng k).portB == (q.port == .B) &&
    (q.kind != 1 || (s.eng k).sill)
  match ((List.range 16).map (16 * engineDie e + ·)).find? ok with
  | some k => some k
  | none => (List.range 768).find? ok

/-- The slots of normal work on an engine: those saved out, if any (R229). -/
def normalSlots (g : Engine) : List SlotState := (g.context.map (·.slots)).getD g.slots

/-- Put a slot of normal work. -/
def putNormal (n : Nat) (x : SlotState) (g : Engine) : Engine :=
  match g.context with
  | some k => { g with context := some { k with slots := setNth k.slots n x } }
  | none => { g with slots := setNth g.slots n x }

/-- Kept arrays of a queue on an engine that joins it (R231): kept in the same slot, or lost when another queue has it. -/
def moveKept (s : State) (i k : Nat) : State :=
  (List.range 4).foldl (fun s n =>
    match tblFind s.arrays (arrayKey i n) with
    | none => s
    | some a =>
      if nth .free (normalSlots (s.eng k)) n == .free then s.modEng k (putNormal n (.kept i))
      else { s with arrays := tblPut s.arrays (arrayKey i n) { a with lost := true } }) s

/-- An engine leaves a queue's set; a new fetch engine reads again what had not started; an empty set takes a replacement,
or the queue is in error (R468). -/
def leaveQueue (e : Nat) (s : State) (i : Nat) : State :=
  match s.queue? i with
  | none => s
  | some q =>
    let rest := q.engines.filter (· != e)
    let fetch := q.engines.head? == some e
    let q := { q with engines := rest }
    let q := if fetch then { q with fetched := q.started, waiting := [] } else q
    if !rest.isEmpty then
      let s := s.setQueue i q
      if fetch && q.kind != 3 then
        let d : DoorbellPage := { engine := rest.head?.getD 0, pasid := q.pasid, page := q.dbPage,
                                  interval := (s.port q.port).pollMinNs }
        setPage (usePage s q) d
      else s
    else if q.state == .dead then s.setQueue i q
    else match replacement s q e with
      | some k =>
        let q := { q with engines := [k] }
        usePage (moveKept (takeSlot i (s.setQueue i q) k) i k) q
      | none => logOnQueue (queueStop (s.setQueue i q) i .error 0x3061 q.fetched) 0x3061 e i q q.fetched

/-- The arrays of a queue are lost with the cells of an engine (R231). -/
def loseArrays (i : Nat) (s : State) : State :=
  { s with arrays := s.arrays.map fun a => if a.1 / 4 == i then (a.1, { a.2 with lost := true }) else a }

/-- A command that restarts waits for no page; the accesses it had under way are forgotten. -/
def forgetWaits (s : State) (c : Nat) : State :=
  let f := fun (w : PageWait) => { w with users := w.users.filter fun u => u.1 != .command c }
  let g := fun (x : PortState) => { x with ats := x.ats.map f, pageReqs := x.pageReqs.map f }
  { s with portA := g s.portA, portB := g s.portB }

/-- A command that ran on the fenced engine restarts from step 1 with status bit 3; what output pieces it has written it writes
again, fused with what it read before the first (R69, R218); an add-to command whose array is lost faults (R231, R467 step 4). -/
def restartCmd (readable : Bool) (s : State) (c : Nat) : State :=
  match s.cmd? c with
  | none => s
  | some x =>
    let lostAdd := !readable && match tblFind s.jobs c with
      | some j => j.addTo && j.combined.isNone
      | none => false
    if lostAdd then faultCmdOpen s c 0x3037
    else
      let again := namesSlot (dOpcode x.desc) && x.stage == .running
      let fuse := (tblFind s.jobs c).bind (·.fuse)
      let s := if again then forgetWaits (releaseClaims s c) c else s
      s.modCmd c fun y => { y with migrated := true, stage := if again then .started else y.stage,
                                   fuse := fuse.or y.fuse, page := if again then none else y.page }

/-- An anneal launch places its blocks again on the engines that are left, or faults with the slots needed (R106, R468). -/
def replaceLaunch (s : State) (c : Nat) : State :=
  match tblFind s.spin.launches c with
  | none => s
  | some l =>
    match tblFind s.spin.problems l.problem, s.queue? l.queue with
    | some p, some q =>
      if l.record.isSome then { s with spin := { s.spin with launches := tblPut s.spin.launches c { l with engines := q.engines } } }
      else
        let s := freeSlots s c
        let nn := (l.keys.filter (isNeural p)).length
        let need := nn * (if p.int4 then 2 else 1) + (l.keys.length - nn)
        if q.engines.isEmpty then faultCmd s c 0x3C01 need
        else match placeLaunch s l.queue (realTime q) q.engines p l.keys with
          | .ok y =>
            let l := placed l q.engines y
            let again := fun (k : Nat) (r : BlockRun) => { withSums p (k % p.nb) r with backgroundDone := false }
            let l := { l with runs := l.runs.map fun r => (r.1, again r.1 r.2) }
            holdSlots (s.setLaunch c l) c l.queue l
          | .error _ => faultCmd s c 0x3C01 need
    | _, _ => s

/-- The queues with an engine in their set, and the commands that run on it. -/
def queuesOn (s : State) (e : Nat) : List Nat := (s.qfe.queues.filter fun q => q.2.engines.contains e).map (·.1)
def commandsOn (s : State) (e : Nat) : List Nat :=
  (s.cmds.filter fun c => usesEngines (dOpcode c.2.desc) &&
    match s.queue? c.2.queue with
    | some q => q.engines.contains e
    | none => false).map (·.1)

/-- A fenced engine acknowledges no shutter any more. -/
def leaveShutters (s : State) (e : Nat) : State :=
  { s with cmds := s.cmds.map fun c =>
      (c.1, { c.2 with shutter := c.2.shutter.map fun h => { h with left := h.left.filter (· != e) } }) }

/-- ENGINE_FENCE (R467): louvre 0, out of the map, its queues migrated, its commands restarted, its task ended. -/
def fenceEngine (s : State) (e cause : Nat) (readable : Bool) : State :=
  if !(s.eng e).usable then s
  else
    let s := logOnEngine s 0x3060 (cause * 2 ^ 16 + e) e
    let s := s.modEng e fun g => { g with louvre := 0, usable := false, fenceCause := cause }
    let s := (dieEvent s (engineDie e) causeFence).fire 0x040
    let qs := queuesOn s e
    let cs := commandsOn s e
    let ls := (s.spin.launches.filter fun l => qs.contains l.2.queue).map (·.1)
    let s := endTask s e 0x3063
    let s := if readable then s else qs.foldl (fun s i => loseArrays i s) s
    let s := cs.foldl (restartCmd readable) s
    let s := s.modEng e fun g => { g with queues := [], slots := [.free, .free, .free, .free], context := none,
                                          preempting := false }
    let s := qs.foldl (leaveQueue e) (leaveShutters s e)
    let heir := qs.findSome? fun i => (s.queue? i).bind fun q => q.engines.head?
    let s := if readable then moveImages s e heir else s
    prunePages (ls.foldl replaceLaunch s)

/-- The causes of R467. -/
def fenceCauses : List Nat := [0x3038, 0x3041, 0x3042, 0x3062, 0x7040]

def execEngineFence (e cause : Nat) (cellsReadable : Bool) (s : State) : Out :=
  act (isEngine e) s fun s => if fenceCauses.contains cause then fenceEngine s e cause cellsReadable else s

/-- ENGINE_STALL: logged with 0x3062, and fenced (R467). -/
def execEngineStall (e : Nat) (cellsReadable : Bool) (s : State) : Out :=
  act (isEngine e) s fun s =>
    if (s.eng e).usable then fenceEngine (logOnEngine s 0x3062 e e) e 0x3062 cellsReadable else s

/-! ### The march and the known-answer sequences (R211, R212, R258, R259) -/

/-- ROW_REPAIR: a row that failed the march is mapped to a spare and logged; without a spare the engine is fenced (R258). -/
def repairRow (b : Nat) (s : State) (row : Nat) : State :=
  let x := s.bank b
  let d := bankDie b
  match freeSpare x with
  | some n =>
    let s := s.setBank b { x with repairs := tblPut x.repairs row n }
    dieEvent (if b < 768 then logOnEngine s 0x3040 (noDetail 0x3040) b else logOnDie s 0x3040 (noDetail 0x3040) d) d causeSpd
  | none =>
    if b < 768 then fenceEngine (logOnEngine s 0x3041 (noDetail 0x3041) b) b 0x3041 true
    else logOnDie s 0x3041 (noDetail 0x3041) d

/-- The full march of every row and spare row (R259): a row whose spare fails counts as failing, and rows already repaired by a
good spare stay. -/
def fullMarch (s : State) (b : Nat) (m : March) : State :=
  let s := s.modBank b fun x => { x with badSpares := m.spares, repairs := x.repairs.filter fun e => !m.spares.contains e.2 }
  let broken := ((s.bank b).repairs.map (·.1))
  ((m.rows.dedup.filter fun r => r < bankWords b && !broken.contains r)).foldl (repairRow b) s

/-- Does a march leave a row of an engine's scratchpad that failed without a good spare? -/
def rowLeft (s : State) (e : Nat) (m : March) : Bool :=
  (m.rows.dedup.filter fun r => r < bankWords e).any fun r => ((s.bank e).repairs.all fun x => x.1 != r)

/-- The opening of a louvre that closes for no budget: 4/16 while the bank is low, 8/16 on a die at its limit (R391, R408). -/
def louvreOpen (s : State) (e : Nat) : Nat :=
  if s.pwr.bankLow then 4 else if (s.die (engineDie e)).thermal.capped then 8 else 16

/-- ENGINE_RETURN: recovery and the full march decide (R259, R469); a wrong result of the recovery sequence raises 0x3038, on an
engine that is fenced already (R211). -/
def execEngineReturn (p : Port) (e : Nat) (march : March) (passes : Bool) (s : State) : Out :=
  act (isEngine e) s <| overBar p fun s =>
    let g := s.eng e
    if p != .A || g.usable || g.fenceCause == 0x3041 || g.fenceCause == 0x7040 then s
    else
      let s := fullMarch s e march
      if passes && !rowLeft s e march && (s.die (engineDie e)).powered then
        (dieEvent (s.setEng e { g with usable := true, fenceCause := 0, louvre := louvreOpen s e, setPRuns := true,
                                       draining := false, lastDoubleBit := none })
          (engineDie e) causeFence).fire 0x040
      else logOnEngine (if passes then s else logOnEngine s 0x3038 e e) 0x3064 e e

/-- May firmware run a sequence on an engine: all its slots are free? -/
def slotsFree (g : Engine) : Bool := g.slots.all fun x => x == .free

/-- The end of a sequence: both sets are clear and P runs; a wrong result raises 0x3038 and the engine is fenced (R211,
R212). -/
def endSequence (s : State) (e : Nat) (passes : Bool) : State :=
  let s := s.modEng e fun g => { g with setPRuns := true, draining := false }
  if passes then s else fenceEngine (logOnEngine s 0x3038 e e) e 0x3038 true

/-- START_UP_SEQUENCE: before any queue is enabled, the full march, then the sequence (R211, R259). -/
def execStartUpSequence (e : Nat) (march : March) (passes : Bool) (s : State) : Out :=
  act (isEngine e) s fun s =>
    if !slotsFree (s.eng e) || !(s.eng e).usable || !s.qfe.queues.isEmpty then s
    else
      let s := fullMarch s e march
      if (s.eng e).usable then endSequence s e passes else s

/-- TEST_SEQUENCE: on an engine without a claimed slot for 1 ms (R211). -/
def execTestSequence (e : Nat) (passes : Bool) (s : State) : Out :=
  act (isEngine e) s fun s =>
    if !slotsFree (s.eng e) || !(s.eng e).usable then s else endSequence s e passes

/-- SHADOW_SET_EXCHANGE: once the draining set has been compared with the known answer and cleared, the sets exchange roles; a
wrong answer ends the sequence (R211, R212). -/
def execShadowSetExchange (e : Nat) (good : Bool) (s : State) : Out :=
  act (isEngine e) s fun s =>
    if !slotsFree (s.eng e) || !(s.eng e).usable then s
    else if (s.eng e).draining && !good then endSequence s e false
    else s.modEng e fun g => { g with setPRuns := !g.setPRuns, draining := true }

end Sys2Proof.Machine
end

