-- ==== Sys2Proof/Machine/Power.lean ====
section
/-! DEFINITION. Power: the fast loop and the louvres, the cap controller, margins, the input, temperatures and conversion
failures (R390-R411; DESIGN CHOICE, log entry 36). -/

namespace Sys2Proof.Machine

/-! ### The louvres (R399-R402, R407) -/

/-- Is an opcode a collective's (R401)? -/
def isCollective (opcode : Nat) : Bool := 0x90 ≤ opcode && opcode ≤ 0x94

/-- The commands running on an engine: opcode, port, phase tag (R276, R403). -/
def runningOn (s : State) (e : Nat) : List (Nat × Port × Nat) := s.cmds.filterMap fun c =>
  match s.queue? c.2.queue with
  | some q => if q.engines.contains e && usesEngines (dOpcode c.2.desc) then
      some (dOpcode c.2.desc, q.port, dField c.2.desc 2 1) else none
  | none => none

/-- The priority of a phase (R403, R404). -/
def phasePriority (s : State) (p : Port) (tag : Nat) : Nat := (tblGet {} (s.port p).phases tag).priority

/-- Does an engine run a collective (R401)? -/
def collectiveEngine (s : State) (e : Nat) : Bool := (runningOn s e).any fun c => isCollective c.1

/-- The rank of an engine in the closing order, the smallest first: an idle engine 0, else one more than the highest
priority among its commands' phases; collectives after others (R401 items 1 and 2). -/
def closeRank (s : State) (e : Nat) : Nat :=
  2 * ((runningOn s e).map fun c => phasePriority s c.2.1 c.2.2 + 1).foldl max 0 + bit01 (collectiveEngine s e)

/-- The engines of a die whose louvres the loop moves. -/
def louvred (s : State) (d : Nat) : List Nat :=
  ((List.range 16).map fun i => 16 * d + i).filter s.engineUsable

/-- Insert an engine by rising rank, the higher number first (R401 item 3). -/
def insertClose (x : Nat × Nat) : List (Nat × Nat) → List (Nat × Nat)
  | [] => [x]
  | y :: t => if x.1 < y.1 || (x.1 == y.1 && y.2 < x.2) then x :: y :: t else y :: insertClose x t

/-- The closing order: rank and engine (R401). -/
def closeOrder (s : State) (es : List Nat) : List (Nat × Nat) :=
  es.foldl (fun l e => insertClose (closeRank s e, e) l) []

/-- Close up to 4/16 of each engine in order, as many sixteenths as the loop takes in this µs (R400). -/
def closeSome (s : State) : Nat → List Nat → State
  | _, [] => s
  | quota, e :: t =>
    let k := min quota (min 4 (s.eng e).louvre)
    closeSome (s.modEng e fun g => { g with louvre := g.louvre - k }) (quota - k) t

/-- How many sixteenths the loop closes in one µs: a free value above 0 (R400 says "up to"). -/
def closeQuota (s : State) (es : List Nat) : Nat := 1 + Config.freeBelow s.draws (4 * es.length) % max 1 (4 * es.length)

/-- Close louvres: engines without a collective first; collective engines only while the die is marked hold and every other
engine is at 0 (R401, R407). -/
def closeLouvres (s : State) (d : Nat) : State :=
  let es := louvred s d
  let others := es.filter fun e => !collectiveEngine s e && (s.eng e).louvre != 0
  let these := if !others.isEmpty then others
    else if (s.die d).hold then es.filter fun e => (s.eng e).louvre != 0 else []
  closeSome { s with draws := s.draws + 1 } (closeQuota s these) ((closeOrder s these).map (·.2))

/-- The opening a die's louvres are held to: 8/16 at 100 °C (R408). -/
def louvreLimit (x : Die) : Nat := if x.thermal.capped then 8 else 16

/-- The groups of the closing order, equal ranks together, the last to close first (R400, R407 step 6). -/
def reopenGroup (s : State) (d : Nat) : List Nat :=
  let es := louvred s d
  let first := if (s.die d).hold then es.filter (collectiveEngine s) else []
  let full := louvreLimit (s.die d)
  if first.any fun e => (s.eng e).louvre < full then first
  else
    let left := es.filter fun e => (s.eng e).louvre < full
    let top := (left.map (closeRank s)).foldl max 0
    left.filter fun e => closeRank s e == top

/-- Reopen the group that is due by 1/16 an engine, up to the limit; a die marked hold waits for its urgent allocation and
ramp (R400, R407), and no louvre reopens while the bank is low (R391). -/
def reopenLouvres (s : State) (d : Nat) : State :=
  let x := s.die d
  if s.pwr.bankLow || (x.hold && (x.urgent || x.rampTo.isSome)) then s
  else (reopenGroup s d).foldl (fun s e => s.modEng e fun g => { g with louvre := max g.louvre (min (louvreLimit x) (g.louvre + 1)) }) s

/-- Hold ends once every collective engine is at 16/16 (R407 step 6). -/
def clearHold (s : State) (d : Nat) : State :=
  if (s.die d).hold && !(s.die d).urgent && ((louvred s d).filter (collectiveEngine s)).all fun e => (s.eng e).louvre == 16 then
    s.modDie d fun x => { x with hold := false }
  else s

/-- Is some engine of the die below 16/16 (PWR_LOUVRE_TIME)? -/
def anyLouvred (s : State) (d : Nat) : Bool := (List.range 16).any fun i => (s.eng (16 * d + i)).louvre < 16

/-- The droop monitor of a die keeps the lowest voltage since the last trim, below the set point (R396). -/
def recordDroop (s : State) (d mv : Nat) : State := s.modDie d fun x => { x with droopMv := max x.droopMv (min 0xFF mv) }

/-- FAST_LOOP: one µs of a compute die's loop, with the mean of its power over 10 µs, the voltage of the bank, and the droop its
monitors see; of another die the droop only (R396, R400-R402, R407). -/
def execFastLoop (d meanCw bankMv droopMv : Nat) (s : State) : Out :=
  act (isDie d) s fun s =>
    let s := recordDroop s d droopMv
    if 48 ≤ d || !(s.die d).powered then s
    else
      let burst := s.pwr.burstEnable && s.pwr.inputMv < bankMv + 4000
      let isOver := !burst && (s.die d).budgetCw < meanCw
      let isUnder := burst || meanCw * 100 < (s.die d).budgetCw * 95
      let s := { s with pwr := { s.pwr with bankMv := bankMv, burstActive := burst } }
      let s := s.modDie d fun x => { x with powerCw := min 0xFFFF meanCw, overBudget := isOver }
      let s := if anyLouvred s d then
          countDie (s.modDie d fun x => { x with steady := false }) d Die.louvreTime (fun x c => { x with louvreTime := c }) causePwr 1
        else s
      if isOver then closeLouvres s d
      else clearHold (if isUnder then reopenLouvres s d else s) d

/-- COLLECTIVE_HOLD_TIMEOUT: with every other engine at 0 and the die still over budget, the collective engines begin to
close, the die is marked hold, and an urgent request is sent (R407 steps 2 and 3). -/
def execCollectiveHoldTimeout (d : Nat) (s : State) : Out :=
  act (isDie d) s fun s =>
    let es := louvred s d
    if 48 ≤ d || !(s.die d).overBudget || !es.any (collectiveEngine s) ||
        es.any (fun e => !collectiveEngine s e && (s.eng e).louvre != 0) then s
    else closeLouvres (s.modDie d fun x => { x with hold := true, urgent := true }) d

/-! ### The cap controller (R403-R406) -/

/-- The static power of a die at a point, in mW, as measured. -/
def staticMw (m : PowerSample) (d op : Nat) : Nat := nth 0 (nth [] m.staticMw d) op

/-- The phase with the most tile handshakes: of equals port A's, then the lower tag (R403). -/
def topPhase (h : Tbl Nat) : Option Nat :=
  (h.foldl (fun (a : Option (Nat × Nat)) e => match a with
    | some (k, n) => if n < e.2 then some e else some (k, n)
    | none => some e) none).map (·.1)

/-- The port and tag of a die's phase in the last period (R403). -/
def phaseOf (s : State) (d : Nat) : Option (Port × Nat) :=
  (s.die d).phase.map fun k => (if k < 256 then .A else .B, k % 256)

/-- A period of a die ends: its phase and its working engines are those of the tile work just done, and the next begins (R403,
R405). -/
def closePeriod (s : State) (d : Nat) : State :=
  let calm := (s.die d).rampTo.isNone && !anyLouvred s d
  s.modDie d fun x => { x with phase := topPhase x.handshakes, active := x.workers.length, handshakes := [], workers := [],
                               steady := calm }

/-- The need of a die at a point, in mW; without a phase its static power only (R403, R405). -/
def needMw (s : State) (m : PowerSample) (d op : Nat) : Nat :=
  match phaseOf s d with
  | some (p, tag) => staticMw m d op + (s.die d).active * phat s p tag op
  | none => staticMw m d op

/-- The point a die asks for (R405), at most OP2 at 100 °C (R408), and no rise while marked hold. -/
def wantedOp (s : State) (d : Nat) : Nat :=
  let x := s.die d
  let pref := match phaseOf s d with
    | some (p, tag) => preferredOp (tblGet {} (s.port p).phases tag)
    | none => 2
  let held := if x.hold then min pref (x.rampTo.getD x.op) else pref
  if x.thermal.capped then min held 2 else held

/-- The priority of a die's phase; a die without one is lowered before all others. -/
def diePriority (s : State) (d : Nat) : Nat :=
  match phaseOf s d with
  | some (p, tag) => phasePriority s p tag + 1
  | none => 0

/-- One die in the allocation: its index, point and need. -/
structure Plan where
  die : Nat
  op : Nat
  need : Nat
deriving DecidableEq, Repr

/-- Is a lowered before b: lower priority, not hold before hold, higher need, lower index (R405)? -/
def lowersBefore (s : State) (a b : Plan) : Bool :=
  let pa := diePriority s a.die
  let pb := diePriority s b.die
  let ha := bit01 (s.die a.die).hold
  let hb := bit01 (s.die b.die).hold
  if pa != pb then pa < pb else if ha != hb then ha < hb else if a.need != b.need then b.need < a.need else a.die < b.die

/-- The die to lower next: one above OP0. -/
def nextLowered (s : State) (l : List Plan) : Option Plan :=
  l.foldl (fun a b => if b.op == 0 then a else match a with
    | none => some b
    | some x => if lowersBefore s b x then some b else some x) none

def planSum (l : List Plan) : Nat := (l.map (·.need)).sum

/-- The while loop of R405; five lowerings a die are all there can be. -/
def lowerPlans (s : State) (m : PowerSample) (allow : Nat) : Nat → List Plan → List Plan
  | 0, l => l
  | fuel + 1, l =>
    if planSum l ≤ allow then l
    else match nextLowered s l with
      | none => l
      | some x => lowerPlans s m allow fuel (l.map fun y =>
          if y.die == x.die then { y with op := y.op - 1, need := needMw s m y.die (y.op - 1) } else y)

/-- Budget of a die in 0.01 W (R405): scaled to the allowance, or its need and an equal share of the rest. -/
def budgetOf (allow sum need : Nat) : Nat :=
  min 0xFFFF ((if allow < sum then need * allow / sum else need + (allow - sum) / 48) / 10)

/-- Set a point and a budget; the rail ramps when the point changes (R395, R405). -/
def applyPlan (allow sum : Nat) (s : State) (x : Plan) : State :=
  s.modDie x.die fun d => { d with budgetCw := budgetOf allow sum x.need, rampTo := if x.op == d.op then none else some x.op }

/-- Does PWR_STATUS.op5_short_any read 1 (R398)? -/
def op5Any (s : State) : Bool := (List.range 48).any fun d => op5Short (s.die d)

/-- Allocate budgets (R405): the state, and whether a point was lowered or budgets were scaled. -/
def allocate (s : State) (m : PowerSample) : State × Bool :=
  let allow := s.pwr.capInForceW * 1000 - m.fixedW * 1050
  let start := ((List.range 48).filter fun d => (s.die d).powered).map fun d =>
    ({ die := d, op := wantedOp s d, need := needMw s m d (wantedOp s d) } : Plan)
  let final := lowerPlans s m allow 240 start
  let sum := planSum final
  (final.foldl (applyPlan allow sum) s, decide (final ≠ start) || decide (allow < sum))

/-- Set or clear cap_limiting; each change raises one event (R410). -/
def setLimiting (s : State) (b : Bool) : State :=
  let s' := { s with pwr := { s.pwr with capLimiting := b } }
  if b == s.pwr.capLimiting then s' else s'.fire 0x043

/-- Count a limited period (R405). -/
def countLimited (s : State) : State :=
  countGlobal s (fun s => s.pwr.capLimited) (fun s c => { s with pwr := { s.pwr with capLimited := c } }) 0x043 1

/-- Learn the power of a die's phase at its point, when it ran one phase at one point with every engine fully open throughout
(R404). -/
def learnPhase (m : PowerSample) (s : State) (d : Nat) : State :=
  let x := s.die d
  let w := nth 0 m.learnMw d
  match x.handshakes with
  | [(k, _)] =>
    let p : Port := if k < 256 then .A else .B
    let tag := k % 256
    if w == 0 || !x.steady || x.rampTo.isSome || anyLouvred s d then s
    else
      let v := (15 * phat s p tag x.op + w) / 16
      s.modPort p fun y =>
        let e := tblGet {} y.phases tag
        { y with phases := tblSet {} y.phases tag { e with learned := tblPut e.learned x.op v } }
  | _ => s

/-- The hottest die, °C. -/
def hottestDie (s : State) : Nat := ((List.range 64).map fun d => (s.die d).tempC).foldl max 0

/-- CAP_CONTROLLER_PERIOD: learn, account the input, allocate, and keep the period in the history (R404, R405, R406, R476). -/
def execCapControllerPeriod (m : PowerSample) (s : State) : Out :=
  act true s fun s =>
    let s := (List.range 48).foldl (learnPhase m) s
    let s := (List.range 48).foldl closePeriod s
    let s := { s with pwr := { s.pwr with capInForceW := s.pwr.capW, inputW := m.inputW,
                                          energyMj := (s.pwr.energyMj + m.inputW) % 2 ^ 64 } }
    let r := allocate s m
    let s := setLimiting r.1 r.2
    let s := if r.2 then countLimited s else s
    { s with pwr := { s.pwr with history := ((m.inputW, s.pwr.capInForceW, r.2, hottestDie s) :: s.pwr.history).take 1024 } }

/-- URGENT_ALLOCATION: an allocation for the dies that asked for one (R405, R407 step 5). -/
def execUrgentAllocation (m : PowerSample) (s : State) : Out :=
  act true s fun s =>
    if !((List.range 48).any fun d => (s.die d).urgent) then s
    else
      let r := allocate s m
      let s := (List.range 48).foldl (fun s d => s.modDie d fun x => { x with urgent := false }) r.1
      if r.2 && !s.pwr.capLimiting then countLimited (setLimiting s true) else s

/-- RAIL_RAMP_COMPLETE: the new point is in force (R395). -/
def execRailRampComplete (d : Nat) (s : State) : Out :=
  act (isDie d) s fun s => s.modDie d fun x => { x with op := x.rampTo.getD x.op, rampTo := none, steady := x.steady && x.rampTo.isNone }

/-- CONTROLLER_TAKEOVER: H1's power controller runs the cap controller (R404). -/
def execControllerTakeover (s : State) : Out :=
  act true s fun s => { s with pwr := { s.pwr with controllerH1 := true } }

/-! ### Margin (R396-R398) -/

/-- Write a die's margin; op5_short_any raises an event when it changes, and a margin that reaches 60 mV is logged. -/
def setMargin (s : State) (d v : Nat) : State :=
  let was := op5Any s
  let old := (s.die d).marginMv
  let s := s.modDie d fun x => { x with marginMv := v }
  let s := if op5Any s == was then s else s.fire 0x043
  if v == 60 && old != 60 then logOnDie s 0x7012 d d else s

/-- The trim of R397. -/
def trimmed (margin droop ageing : Nat) : Nat :=
  let target := max 15 (min 60 ((droop + 5 + 4) / 5 * 5 + ageing))
  max (margin - 5) (min (margin + 5) target)

/-- MARGIN_TRIM, from the droop recorded since the last one and what the ageing monitor gives (R396, R397). -/
def execMarginTrim (d ageingMv : Nat) (s : State) : Out :=
  act (isDie d) s fun s =>
    let x := s.die d
    setMargin (s.modDie d fun x => { x with droopMv := 0, ageingMv := min 0xFF ageingMv }) d
      (trimmed x.marginMv x.droopMv ageingMv)

/-- DROOP_TO_NOMINAL: the margin rises by 5 mV up to 60; the droop reached is the old margin (R396, R397). -/
def execDroopToNominal (d : Nat) (s : State) : Out :=
  act (isDie d) s fun s =>
    let old := (s.die d).marginMv
    let s := s.modDie d fun x => { x with droopMv := max x.droopMv old }
    setMargin (logOnDie s 0x7011 d d) d (min 60 (old + 5))

/-! ### Input and bank (R391, R392) -/

/-- HOLD_UP_BANK_LOW: every louvre closes to 4/16 (R391). -/
def execHoldUpBankLow (s : State) : Out :=
  act true s fun s =>
    if s.pwr.bankLow then s
    else
      let s := (List.range 768).foldl (fun s e => s.modEng e fun g => { g with louvre := min 4 g.louvre }) s
      (logPlain { s with pwr := { s.pwr with bankLow := true } } 0x7010 (noDetail 0x7010)).fire 0x043

/-- HOLD_UP_BANK_RECOVERED (R391, R410). -/
def execHoldUpBankRecovered (s : State) : Out :=
  act true s fun s =>
    if s.pwr.bankLow then { s with pwr := { s.pwr with bankLow := false } }.fire 0x043 else s

/-- Log an input excursion once (R392), with its warning for PMBus (R508). -/
def excursion (s : State) (mv : Nat) : State :=
  let uv := decide (mv < 54000)
  let ov := decide (62000 < mv)
  let s1 := if uv && !s.pwr.uvExcursion then logPlain s 0x7001 (noDetail 0x7001) else s
  let s2 := if ov && !s.pwr.ovExcursion then logPlain s1 0x7002 (noDetail 0x7002) else s1
  { s2 with pwr := { s2.pwr with uvExcursion := uv, ovExcursion := ov },
            mgmt := { s2.mgmt with uvWarning := s2.mgmt.uvWarning || uv, ovWarning := s2.mgmt.ovWarning || ov } }

/-- The response to an input while the first stage runs (R392, R505, R518): an excursion, or fatal outside 50-64 V. A module stopped by a
fatal error logs nothing more. -/
def inputResponse (s : State) (mv : Nat) : State :=
  if s.flt.stopped then s
  else if mv < 50000 || 64000 < mv then
    let s := { s with mgmt := { s.mgmt with vinUv := s.mgmt.vinUv || mv < 50000, vinOv := s.mgmt.vinOv || 64000 < mv } }
    fatal (excursion s mv) 0xF702 (noDetail 0xF702)
  else excursion s mv

/-- OVERVOLTAGE_TIMEOUT: above 62 V for more than 100 ms (R392). -/
def execOvervoltageTimeout (s : State) : Out :=
  actAlways true s fun s =>
    if s.mgmt.powerGood && !s.flt.stopped && 62000 < s.pwr.inputMv then
      fatal { s with mgmt := { s.mgmt with vinOv := true } } 0xF702 (noDetail 0xF702)
    else s

/-! ### Temperatures (R408) -/

/-- A mark that a limit sets and that ends 5 °C below it. -/
def overMark (was : Bool) (tempC limit : Nat) : Bool := if was then limit - 5 < tempC else limit ≤ tempC

/-- An optical die's calibration is due again after a change of more than 10 °C (R358). -/
def recalibrate (s : State) (die tempC : Nat) : State :=
  match tblFind s.opx.calTempC die with
  | some t =>
    if t + 10 < tempC || tempC + 10 < t then { s with opx := { s.opx with calibrated := s.opx.calibrated.filter (· != die) } } else s
  | none => s

/-- A thermal trip, with its fault for PMBus (R408, R508). -/
def thermalTrip (s : State) (die : Nat) : State :=
  fatalOn { s with mgmt := { s.mgmt with otFault := true } } 0xF701 (noDetail 0xF701) die

/-- A die's temperature (R408): warning at 95 °C, louvres held to 8/16 at 100 °C, a trip at 110 °C. -/
def dieThermal (s : State) (d tempC : Nat) : State :=
  let x := s.die d
  let w := overMark x.thermal.warned tempC 95
  let c := overMark x.thermal.capped tempC 100
  let s := s.modDie d fun y => { y with tempC := tempC, thermal := { warned := w, capped := c } }
  let s := if w && !x.thermal.warned then
      dieEvent (logOnDie { s with mgmt := { s.mgmt with otWarning := true } } 0x7020 d d) d causePwr else s
  let s := if c && !x.thermal.capped then
      logOnDie { s with mgmt := { s.mgmt with otFault := true } } 0x7021 d d else s
  let s := if c && d < 48 then
      (List.range 16).foldl (fun s i => s.modEng (16 * d + i) fun g => { g with louvre := min 8 g.louvre }) s else s
  let s := if 56 ≤ d && d < 62 then recalibrate s (d - 56) tempC else s
  if 110 ≤ tempC then thermalTrip s d else s

/-- A stack's temperature (R324, R408): refresh doubled above 85 °C, half the grants at 92 °C, a trip at 100 °C. -/
def stackThermal (s : State) (n tempC : Nat) : State :=
  let x := s.stack n
  let c := overMark x.thermal.capped tempC 92
  let w := if x.thermal.warned then decide (80 < tempC) else decide (85 < tempC)
  let s := s.setStack n { x with tempC := tempC, thermal := { warned := w, capped := c } }
  let s := if c && !x.thermal.capped then logPlain s 0x7022 n else s
  if 100 ≤ tempC then thermalTrip s 0xFF else s

/-- A temperature as the sensors report it, whatever the module does with it (R408, R508). -/
def recordTemp (s : State) (stack : Bool) (n tempC : Nat) : State :=
  if stack then s.setStack n { s.stack n with tempC := tempC } else s.modDie n fun x => { x with tempC := tempC }

/-- THERMAL_CHANGE: the responses are those of a powered module that no fatal error has stopped (R408, R473, R518). -/
def execThermalChange (stack : Bool) (n tempC : Nat) (s : State) : Out :=
  actAlways (if stack then isStack n else isDie n) s fun s =>
    if !s.mgmt.powerGood || s.flt.stopped then recordTemp s stack n tempC
    else if stack then stackThermal s n tempC else dieThermal s n tempC

/-- THERMAL_TRIP_TIMEOUT: a die at 105 °C for 1 ms (R408). -/
def execThermalTripTimeout (d : Nat) (s : State) : Out :=
  actAlways (isDie d) s fun s =>
    if s.mgmt.powerGood && !s.flt.stopped && 105 ≤ (s.die d).tempC then thermalTrip s d else s

/-! ### Conversion failures (R409) -/

/-- A die without power: its engines are fenced (R409, R467). -/
def unpowerDie (s : State) (d : Nat) : State :=
  let s := logOnDie (s.modDie d fun x => { x with powered := false, rampTo := none, hold := false, urgent := false }) 0x7040 d d
  if d < 48 then (List.range 16).foldl (fun s i => fenceEngine s (16 * d + i) 0x7040 false) s else s

/-- The 6 V bus or a first-stage phase group fails (R409). -/
def busFailure (s : State) : State :=
  fatal { s with mgmt := { s.mgmt with busFailed := true } } 0xF703 (noDetail 0xF703)

/-- POINT_OF_LOAD_FAILURE of a powered module (R409); one that a fatal error has stopped logs nothing more and has no queue to
migrate. -/
def execPointOfLoadFailure (f : ConversionFailure) (s : State) : Out :=
  actAlways (match f with
    | .pointOfLoad d => isDie d
    | _ => true) s fun s =>
    if !s.mgmt.powerGood then s
    else match f with
      | .pointOfLoad d =>
        if !(s.die d).powered then s
        else if s.flt.stopped then s.modDie d fun x => { x with powered := false }
        else unpowerDie s d
      | .sixVoltBus => busFailure s
      | .phaseGroup => busFailure s

/-! ### Register writes -/

/-- PWR_CAP through port A, clamped (R406, R519); in force from the next period. -/
def capWrite (s : State) (p : Port) (v : Nat) : State :=
  if p == .A then { s with pwr := { s.pwr with capW := max 1500 (min 4200 (bits v 0 13)) } } else s

def execPwrCapWrite (p : Port) (v : Nat) (s : State) : Out :=
  act (isWord v) s <| overBar p fun s => capWrite s p v

/-- PWR_CTRL through port A (R402). -/
def powerCtrlWrite (s : State) (p : Port) (v : Nat) : State :=
  if p == .A then
    { s with pwr := { s.pwr with burstEnable := bit v 0, burstActive := s.pwr.burstActive && bit v 0 } }
  else s

def execPwrCtrlWrite (p : Port) (v : Nat) (s : State) : Out :=
  act (isWord v) s <| overBar p fun s => powerCtrlWrite s p v

/-- PWR_PHASE_n: priority and preferred point; learned power returns to the factory table (R404, R519). -/
def phaseWrite (s : State) (p : Port) (n v : Nat) : State :=
  let op := if bits v 0 3 == 6 then 7 else bits v 0 3
  s.modPort p fun y => { y with phases := tblSet {} y.phases n { priority := bits v 4 4, prefOp := op, learned := [] } }

def execPwrPhaseWrite (p : Port) (n v : Nat) (s : State) : Out :=
  act (decide (n < 256) && isWord v) s <| overBar p fun s => phaseWrite s p n v

end Sys2Proof.Machine
end

