-- ==== Sys2Proof/Machine/Entropy.lean ====
section
/-! DEFINITION. The entropy sources and the key-grade generators of the host dies (R412-R423; DEDUCED, log entry 37). -/

namespace Sys2Proof.Machine

def State.ent (s : State) (h : Port) : Entropy := (s.host h).ent
def State.setEnt (s : State) (h : Port) (x : Entropy) : State := s.modHost h fun y => { y with ent := x }

/-- The source of ENT's events (R440). -/
def entSource (h : Port) : Nat := 0x044 + portIdx h

/-- A change of ENT_STATE raises one event (R437). -/
def setEntState (s : State) (h : Port) (st : EntState) : State :=
  if (s.ent h).state == st then s else (s.setEnt h { s.ent h with state := st }).fire (entSource h)

/-- The personalisation string: 384 bits over the die's serial number and global index (R416; the joining is log entry 12). -/
def personalisation (h : Port) : List Byte := shake256 48 (Config.dieSerial (h == .B) ++ natLe 1 (hostDieIdx h))

/-! ### Health tests (R413) -/

/-- Raw samples packed in bytes, the first in bit 0 of byte 0 (R415). -/
def samplesOf (block : List Byte) : List Bool := block.flatMap fun b => (List.range 8).map fun k => b.getLsbD k

/-- What the continuous tests know (R413): the last sample and the run it ends, how often the first sample of the window has come, and
the test that has failed (true: the adaptive proportion). -/
structure Health where
  last : Option Bool
  run : Nat
  count : Nat := 0
  failed : Option Bool := none
deriving DecidableEq, Repr

/-- One more sample of a window whose first is given (R413; of two tests that fail at one sample the repetition count is named, DESIGN
CHOICE, log entry 37). -/
def Health.sample (first : Bool) (x : Health) (b : Bool) : Health :=
  let run := if x.last == some b then x.run + 1 else 1
  let count := x.count + bit01 (b == first)
  { last := some b, run := run, count := count,
    failed := if 41 ≤ run then some false else if 793 ≤ count then some true else none }

/-- The tests over the samples of a window whose first is given, up to one that fails. -/
def Health.over (first : Bool) : Health → List Bool → Health
  | x, [] => x
  | x, b :: l =>
    match x.failed with
    | some _ => x
    | none => Health.over first (Health.sample first x b) l

/-- The tests over a window of 1024 samples, which go on from the samples before it (R413). -/
def healthWindow (last : Option Bool) (run : Nat) (window : List Bool) : Health :=
  Health.over (nth false window 0) { last := last, run := run } window

/-- The tests of a host die's source over its next 1024 samples. -/
def sourceHealth (x : Entropy) (samples : Vector Byte 128) : Health :=
  healthWindow x.lastSample x.sampleRun (samplesOf samples.toList)

/-- The source after a window that passed. -/
def Entropy.tested (x : Entropy) (w : Health) : Entropy := { x with lastSample := w.last, sampleRun := w.run }

/-- An entropy block for the generator: it instantiates, reseeds, or is kept in reserve (R415, R416). -/
def takeBlock (x : Entropy) (h : Port) (block : List Byte) : Entropy :=
  if !x.instantiated then
    { x with instantiated := true, begun := true, drbg := drbgSeed [] block (personalisation h), requests := 0, reseedDue := false }
  else if x.reseedDue then { x with drbg := drbgSeed x.drbg block [], requests := 0, reseedDue := false }
  else if x.reserve.isNone then { x with reserve := some block }
  else x

/-! ### Output (R416-R418, R423) -/

/-- Can the generator serve a request now? -/
def canServe (x : Entropy) : Bool := x.instantiated && !x.reseedDue

/-- One generate request: 64 bytes, and the generator after it; after 2^16 it reseeds from the reserve, or waits (R416). -/
def generate (x : Entropy) : List Byte × Entropy :=
  let y := { x with drbg := drbgNext x.drbg, requests := x.requests + 1 }
  let z := if y.requests < 2 ^ 16 then y
    else match y.reserve with
      | some b => { y with drbg := drbgSeed y.drbg b [], requests := 0, reserve := none }
      | none => { y with reseedDue := true }
  (drbgOutput x.drbg, z)

/-- The priority of a request (R417). -/
def requestRank : EntRequest → Nat
  | .keyBlock _ => 1
  | .linkNonce _ _ => 2
  | .runSeed _ => 3

/-- The request granted next: highest priority, in arrival order (R418). -/
def nextRequest (l : List EntRequest) : Option EntRequest :=
  (l.find? fun r => requestRank r == 1) <|> (l.find? fun r => requestRank r == 2) <|> l.head?

/-- Does a request still stand: its launch or pair is there? -/
def requestStands (s : State) : EntRequest → Bool
  | .keyBlock _ => true
  | .linkNonce d n => (s.pair (pairKey d n)).live
  | .runSeed l => (tblFind s.spin.launches l).isSome

/-- The request of an item is taken off the list. -/
def takeRequest (s : State) (h : Port) (r : EntRequest) : State :=
  s.setEnt h { s.ent h with waiting := (s.ent h).waiting.erase r }

/-- Draw 64 bytes for a hardware consumer. -/
def drawBytes (s : State) (h : Port) : List Byte × State :=
  let r := generate (s.ent h)
  (r.1, s.setEnt h r.2)

/-- A read of ENT_RNG: of 64 bits it takes 32, or returns a status; software gets spare supply only (R418, R423). Where the module's
state lets no read of the ENT window through it takes nothing and reads zero (R493). -/
def rngRead (s : State) (p : Port) (wide inTime : Bool) : State :=
  let x := s.ent p
  let st := rngStatus x
  if !wide || !readAllowed s 0x400000 then { s with reply := 0 }
  else if st != 0 then { s with reply := st * 2 ^ 30 }
  else if !inTime || !canServe x || x.waiting.any (requestStands s) then { s with reply := 2 * 2 ^ 30 }
  else
    let r := if x.softBits.isEmpty then generate x else (x.softBits, x)
    { s.setEnt p { r.2 with softBits := r.1.drop 4 } with reply := leNat (r.1.take 4) * 2 ^ 32 }

/-- ENT_RNG_READ: a BAR0 read of a function that answers (R423, R502). The reply holds the 64-bit value read. -/
def execEntRngRead (p : Port) (wide inTime : Bool) (s : State) : Out :=
  actAlways true s <| overBar p fun s => rngRead s p wide inTime

/-- FAILURE_COUNT_DECAY: 2^24 samples since the last restart without a failure (R420). -/
def execFailureCountDecay (h : Port) (s : State) : Out :=
  actAlways true s fun s =>
    let x := s.ent h
    if x.state == .permanentFault || !x.conditioning then s else s.setEnt h { x with failures := 0 }

end Sys2Proof.Machine
end

