-- ==== Sys2Proof/Machine/Hbm.lean ====
section
/-! DEFINITION. The HBM tier: unit accesses, scrub, retirement, lane repair, areas, maps (R324-R335, R348, R470). -/

namespace Sys2Proof.Machine

/-! ### Areas of a unit (R325, R330, R470; DESIGN CHOICE, log entry 33) -/

/-- Units of a stack, of a page, of a retirement unit. -/
def stackUnits : Nat := 301989888
def pageUnits : Nat := 16384
def rangeUnits : Nat := 8192

/-- What a unit holds. -/
inductive UnitArea where
  | device (key : Nat)
  | problem (i : Nat)
  | graph (i : Nat)
  | context (e : Nat)
  | tables
  | mapCache
  | staging
  | faultLog
  | spare
  | checks
  | unused
deriving DecidableEq, Repr

/-- The reserved part of a stack above its visible pages, in the order of R325: context areas of 640 KiB, tables of 32 MiB, the
flash map cache and journal of 64 MiB, write staging of 64 MiB, the fault log and firmware data of 12 MiB, 64 spare units of 1 MiB,
check symbols and padding. -/
def reservedArea (stack byte : Nat) : UnitArea :=
  if byte < 20 * 2 ^ 20 then .context (32 * stack + byte / 655360)
  else if byte < 52 * 2 ^ 20 then .tables
  else if byte < 116 * 2 ^ 20 then .mapCache
  else if byte < 180 * 2 ^ 20 then .staging
  else if byte < 192 * 2 ^ 20 then .faultLog
  else if byte < 256 * 2 ^ 20 then .spare
  else .checks

/-- What a unit holds: a mapped page, part of the reserved space, or an object of the areas. -/
def unitArea (s : State) (unit : Nat) : UnitArea :=
  let stack := unit / stackUnits
  let page := unit % stackUnits / pageUnits
  match s.hbm.pages.find? fun e => e.2.stack == stack && e.2.page == page with
  | some e => .device e.1
  | none =>
    if stackPages ≤ page then reservedArea stack ((unit % stackUnits) * 128 - stackPages * 2 ^ 21)
    else if !s.inAreas stack page then .unused
    else
      let objs := s.spin.problems.map (fun e => UnitArea.problem e.1) ++ s.grf.graphs.map (fun e => UnitArea.graph e.1)
      (objs[Config.unitOwner s.draws unit % (objs.length + 1)]?).getD .unused

/-- Faults of every launch in flight on a problem (R470). -/
def faultLaunches (s : State) (i : Nat) : State :=
  (s.spin.launches.filter fun l => l.2.problem == i && l.2.record.isNone).foldl (fun s l => faultCmdOpen s l.1 0x2C02) s

/-- Is the copy of the fault log on a stack lost, or its stack not in service? -/
def logGone (s : State) (stack : Nat) : Bool := s.flt.lostCopies.contains stack || !s.stackUp stack

/-- A copy of the fault log is lost, on S00 or S21: it is served from the other, unless both are gone (R463, R470). -/
def loseLog (s : State) (stack : Nat) : State :=
  if stack != 0 && stack != 21 then s
  else
    let s := { s with flt := { s.flt with lostCopies := addOnce stack s.flt.lostCopies } }
    if logGone s 0 && logGone s 21 then fatal s 0xF201 stack else s

/-- The module has lost part of an area: a map cache page comes again from the journal, the fault log from its other copy
(R470). -/
def loseArea (s : State) (stack : Nat) : UnitArea → State
  | .problem i => match tblFind s.spin.problems i with
    | some p => faultLaunches { s with spin := { s.spin with problems := tblPut s.spin.problems i { p with lost := true } } } i
    | none => s
  | .graph i => match tblFind s.grf.graphs i with
    | some g => s.setGraph i { g with lost := true }
    | none => s
  | .context e => s.modEng e fun g => { g with context := g.context.map fun k => { k with imagesGood := false } }
  | .tables => fatal s 0xF201 stack
  | .faultLog => loseLog s stack
  | _ => s

/-! ### Unit accesses (R326, R327) -/

/-- The key in the memory of a unit's first byte. -/
def unitKey (unit : Nat) : Nat :=
  memKey (.page (unit / stackUnits) (unit % stackUnits / pageUnits)) (unit % pageUnits * 128)

/-- Count a corrected unit, or an uncorrectable one; saturation fires 0x047 (R326, R327, R348). -/
def countCorrected (s : State) : State :=
  countGlobal s (·.hbm.corrected) (fun s c => { s with hbm := { s.hbm with corrected := c } }) 0x047 1
def countUncorrected (s : State) : State :=
  countGlobal s (·.hbm.uncorrected) (fun s c => { s with hbm := { s.hbm with uncorrected := c } }) 0x047 1

/-- HBM_UNCORRECTABLE: the unit is poisoned and counted, and its 1 MiB range is to be retired (R327). -/
def poisonUnit (s : State) (unit : Nat) : State :=
  countUncorrected { s with hbm := { s.hbm with
    poisoned := addOnce unit s.hbm.poisoned, retireDue := addOnce (unit / rangeUnits) s.hbm.retireDue } }

/-- The pin of a unit's channel that carries a symbol: a data symbol's own, check symbol j of unit u of its group 4u + j (R326). -/
def symbolPin (unit symbol : Nat) : Nat :=
  if symbol < 64 then symbol else 4 * (unit % stackUnits / 16 % 16) + (symbol - 64)

/-- The channel of a unit within its stack (R334). -/
def unitChannel (unit : Nat) : Nat := unit % stackUnits % 16

/-- A corrected error on a pin, at the n-th read of its channel: the pin is due for repair after 16 in 1024 reads (R329). -/
def pinError (ch n : Nat) (k : Stack) (pin : Nat) : Stack :=
  let key := 64 * ch + pin
  let l := n :: (tblGet [] k.pinErrors key).filter (n < · + 1024)
  { k with pinErrors := tblPut k.pinErrors key l, pinsDue := if 16 ≤ l.length then addOnce key k.pinsDue else k.pinsDue }

/-- A read of a unit is counted at its channel, with the pins whose symbols it corrects, and a report of the on-die ECC (R324,
R326, R329). -/
def readUnit (s : State) (unit : Nat) (errors : List Nat) : State :=
  let n := unit / stackUnits
  let k := s.stack n
  let ch := unitChannel unit
  let count := tblGet 0 k.channelReads ch + 1
  let k := { k with channelReads := tblPut k.channelReads ch count,
                    onDieReports := k.onDieReports + bit01 (Config.onDieReport s.draws unit) }
  let pins := if errors.dedup.length ≤ 2 then (errors.map (symbolPin unit)).dedup else []
  { s.setStack n (pins.foldl (pinError ch count) k) with draws := s.draws + 1 }

/-- A decoder that corrects to a wrong value leaves values the spec does not give (R326). -/
def miscorrect (s : State) (unit : Nat) : State :=
  { s with mem := memWrite s.mem (unitKey unit) (freeBytes s.draws 128), draws := s.draws + 128 }

/-- The page of a unit that a command reaches: mapped for its pair (R331). -/
def reachedPage (s : State) (q : Queue) (unit : Nat) : Option (Nat × PageMap) :=
  s.hbm.pages.find? fun e =>
    e.2.stack == unit / stackUnits && e.2.page == unit % stackUnits / pageUnits && e.1 / 2 ^ 26 == portIdx q.port * 2 ^ 20 + q.pasid

/-- The outcome of decoding a unit's old contents: good, corrected, uncorrectable, or wrongly corrected (R326). -/
inductive Decoded where
  | good
  | corrected
  | lost
  | wrong
deriving DecidableEq, Repr

def decodeUnit (s : State) (unit : Nat) (errors : List Nat) : Decoded :=
  if errors.isEmpty then .good else if errors.dedup.length ≤ 2 then .corrected
  else if Config.miscorrected s.draws unit then .wrong else .lost

/-- Does an access decode the unit's old contents (R327)? -/
def decodesOld : UnitAccess → Bool
  | .read => true
  | .writeWhole _ => false
  | .writePart offset data => !(offset == 0 && 128 ≤ data.length)

/-- What an access does once the old contents are there. -/
def applyAccess (s : State) (unit : Nat) : UnitAccess → State
  | .read => { s with reply := leNat (memRead s.mem (unitKey unit) 128) }
  | .writeWhole data =>
    { s with mem := memWrite s.mem (unitKey unit) ((data ++ zeros 128).take 128),
             hbm := { s.hbm with poisoned := s.hbm.poisoned.filter (· != unit) } }
  | .writePart offset data => { s with mem := memWrite s.mem (unitKey unit + offset) (data.take (128 - offset)) }

/-- A write that covers all of a unit, as such. -/
def wholeAccess : UnitAccess → UnitAccess
  | .writePart _ data => .writeWhole data
  | a => a

/-- An access that decodes a unit's old contents: what it does, or what `lost` does (R326, R327). -/
def decodedAccess (s : State) (unit : Nat) (access : UnitAccess) (errors : List Nat) (lost : State → State) : State :=
  let d := decodeUnit s unit errors
  let s := readUnit s unit errors
  match d with
  | .good => applyAccess s unit access
  | .corrected => applyAccess (countCorrected s) unit access
  | .wrong => applyAccess (countCorrected (miscorrect s unit)) unit access
  | .lost => lost (poisonUnit s unit)

/-- An access of a command to a unit; `page` is the detail of R327. -/
def commandAccess (s : State) (unit : Nat) (access : UnitAccess) (errors : List Nat) (c page : Nat) (m : PageMap) : State :=
  let write := access != .read
  if !s.stackUp m.stack then faultCmd s c 0x2012 m.stack
  else if write && !m.write then faultCmd s c 0x2002 page
  else if s.hbm.poisoned.contains unit && decodesOld access then faultCmd s c 0x2011 page
  else if !decodesOld access then applyAccess s unit (wholeAccess access)
  else decodedAccess s unit access errors fun s => faultCmd s c 0x2010 page

/-- An access of the module to its own area (R327, R470). -/
def moduleAccess (s : State) (unit : Nat) (access : UnitAccess) (errors : List Nat) : State :=
  let area := unitArea s unit
  let stack := unit / stackUnits
  if !s.stackUp stack then s
  else match area with
    | .device _ => s
    | _ =>
      if !decodesOld access then applyAccess s unit (wholeAccess access)
      else if s.hbm.poisoned.contains unit then loseArea s stack area
      else decodedAccess s unit access errors fun s => loseArea s stack area

/-- Has a command a unit of the module's areas to itself: staged data, or what no object holds? Its access then faults with detail
0xFFFF_FFFF (R327); the loss of any other area falls under R470. -/
def commandOwns : UnitArea → Bool
  | .staging => true
  | .unused => true
  | _ => false

/-- The requests for a unit's channel that have won its arbiters and wait to be executed (R37). -/
def channelWon (s : State) (unit : Nat) : List Packet := tblGet [] s.mesh.won (16 * (unit / stackUnits) + unitChannel unit)

/-- The first request for a unit in the order in which they won: the access it is executed by is next (R37). -/
def unitNext (s : State) (unit : Nat) : Option Packet := (channelWon s unit).find? fun p => p.operation / 2 == unit

/-- Is an access the one that executes a request: a read or a write, as the request says; a whole write brings its data (R37)? -/
def executes (p : Packet) : UnitAccess → Bool
  | .read => p.operation % 2 == 0
  | .writeWhole data => p.operation % 2 == 1 && leNat data == leNat (p.data.flatMap fun d => natLe 64 d.toNat)
  | .writePart _ _ => p.operation % 2 == 1

/-- May an access to a unit be made now: no request for the unit waits, or it executes the one that won first (R37)? -/
def unitMay (s : State) (unit : Nat) (access : UnitAccess) : Bool := (unitNext s unit).all fun p => executes p access

/-- The request that an access executes has been executed. -/
def unitDone (s : State) (unit : Nat) : State :=
  match unitNext s unit with
  | some p =>
    let k := 16 * (unit / stackUnits) + unitChannel unit
    { s with mesh := { s.mesh with won := tblSet [] s.mesh.won k ((tblGet [] s.mesh.won k).erase p) } }
  | none => s

/-- HBM_ACCESS (R326, R327): of a started command, or of the module itself when `c` names none. Requests that came over the mesh to
one unit are executed in the order in which they won its arbiter (R37). -/
def execHbmAccess (unit : Nat) (access : UnitAccess) (errors : List Nat) (c : Nat) (s : State) : Out :=
  act (unit < 24 * stackUnits && errors.all (· < 68)) s fun s =>
    if !unitMay s unit access then s
    else
    let s := unitDone s unit
    match s.cmd? c with
    | some x => match s.queue? x.queue with
      | some q =>
        if x.shutter.isSome then s
        else match reachedPage s q unit with
          | some (key, m) => commandAccess s unit access errors c (key % 2 ^ 26) m
          | none =>
            if commandOwns (unitArea s unit) then
              commandAccess s unit access errors c 0xFFFFFFFF
                { stack := unit / stackUnits, page := unit % stackUnits / pageUnits, write := true }
            else moduleAccess s unit access errors
      | none => s
    | none => moduleAccess s unit access errors

/-- PATROL_SCRUB: what can be corrected is; a unit corrected on two successive reads has its range retired (R328). -/
def execPatrolScrub (unit : Nat) (errors : List Nat) (s : State) : Out :=
  act (unit < 24 * stackUnits && errors.all (· < 68)) s fun s =>
    if !s.stackUp (unit / stackUnits) || s.hbm.poisoned.contains unit then s
    else
      let unmark := fun (s : State) => { s with hbm := { s.hbm with patrolMarks := s.hbm.patrolMarks.filter (· != unit) } }
      let marked := fun (s : State) =>
        let s := countCorrected s
        if s.hbm.patrolMarks.contains unit then
          { unmark s with hbm := { (unmark s).hbm with retireDue := addOnce (unit / rangeUnits) s.hbm.retireDue } }
        else { s with hbm := { s.hbm with patrolMarks := addOnce unit s.hbm.patrolMarks } }
      let area := unitArea s unit
      let d := decodeUnit s unit errors
      let s := readUnit s unit errors
      match d with
      | .good => unmark s
      | .corrected => marked s
      | .wrong => marked (miscorrect s unit)
      | .lost => loseArea (poisonUnit (unmark s) unit) (unit / stackUnits) area

/-! ### Retirement and lane repair (R328, R329) -/

/-- The spare units of a stack that are not free: those that redirected ranges lie on, and those retired themselves. They stay so
across resets (R328, R480). -/
def sparesUsed (s : State) (stack : Nat) : Nat :=
  (s.hbm.redirected.filter fun e => e.1 / (stackUnits / rangeUnits) == stack).length +
    (s.hbm.lostSpares.filter fun k => k / 64 == stack).length

/-- A range goes to a spare of its stack: the lowest free one, numbered in the order of use; one that it lay on before is retired with
it (R328; DESIGN CHOICE, log entry 33). -/
def redirect (s : State) (stack n : Nat) : State :=
  { s with hbm := { s.hbm with
      redirected := tblPut s.hbm.redirected n (sparesUsed s stack),
      lostSpares := match tblFind s.hbm.redirected n with
        | some old => s.hbm.lostSpares ++ [64 * stack + old]
        | none => s.hbm.lostSpares } }

/-- The range leaves service: its device page is unmapped, one that a map request is zeroing leaves that request, and the pool and the
visible space fall by it (R328, R335; DEDUCED, log entry 33). -/
def removePage (s : State) (stack page : Nat) : State :=
  let k := s.stack stack
  let keep := fun (e : Nat × PageMap) => !(e.2.stack == stack && e.2.page == page)
  let s := { s with hbm := { s.hbm with
    pages := s.hbm.pages.filter keep,
    job := s.hbm.job.map fun (j : MapJob) => if j.unmap then j else { j with keys := j.keys.filter keep } } }
  logPlain (s.setStack stack { k with removedPages := addOnce page k.removedPages }) 0x2031 (noDetail 0x2031)

/-- UNIT_RETIREMENT: a range due is redirected to a spare unit, or, with the 64 spares used, removed; a range of the
module's areas is then a loss of that area (R328). -/
def unitRetirement (s : State) (stack range : Nat) : State :=
  let n := stack * (stackUnits / rangeUnits) + range
  if !s.hbm.retireDue.contains n || !s.stackUp stack then s
  else
    let k := s.stack stack
    let s := { s with hbm := { s.hbm with retireDue := s.hbm.retireDue.filter (· != n) } }
    let s := s.setStack stack { k with unitsRetired := k.unitsRetired + 1 }
    if sparesUsed s stack < 64 then redirect s stack n
    else match unitArea s (stack * stackUnits + range * rangeUnits) with
      | .device _ => removePage s stack (range / 2)
      | .unused =>
        if range / 2 < stackPages && !s.inAreas stack (range / 2) then removePage { s with draws := s.draws + 1 } stack (range / 2)
        else s
      | area => loseArea { s with draws := s.draws + 1 } stack area

def execUnitRetirement (stack range : Nat) (s : State) : Out :=
  act (isStack stack && range < 36864) s fun s => unitRetirement s stack range

/-- A stack's state changes: one event (R348). -/
def setStackState (s : State) (n : Nat) (st : StackState) : State :=
  if (s.stack n).state == st then s else (s.setStack n { s.stack n with state := st }).fire 0x047

/-- A stack is fenced: what the areas have on it is lost, and its context images (R329, R470; DESIGN CHOICE, log entry 33). -/
def fenceStack (s : State) (n : Nat) : State :=
  let s := logPlain (setStackState s n .fenced) 0x2021 (noDetail 0x2021)
  let ps := (s.spin.problems.map (·.1)).filter fun i => Config.onStack false i n
  let gs := (s.grf.graphs.map (·.1)).filter fun i => Config.onStack true i n
  let s := ps.foldl (fun s i => loseArea s n (.problem i)) s
  let s := gs.foldl (fun s i => loseArea s n (.graph i)) s
  loseLog (((List.range 32).map (32 * n + ·)).foldl (fun s e => loseArea s n (.context e)) s) n

/-- Spare lanes a pseudo-channel has used. -/
def lanesUsed (k : Stack) (pc : Nat) : Nat :=
  (k.laneMap.filter fun e => e.1 / 64 == pc).foldl (fun m e => max m (e.2 + 1)) 0

/-- The key of a pin of a pseudo-channel at its channel: PC(2c) carries the lower 32 data pins (R326; DESIGN CHOICE, log entry
33). -/
def pinKey (pc pin : Nat) : Nat := 64 * (pc / 2) + 32 * (pc % 2) + pin

/-- Pins of a pseudo-channel that no spare lane was left for. -/
def badPinsOf (k : Stack) (pc : Nat) : Nat := (k.badPins.filter fun p => p / 32 == pc).length

/-- PIN_LANE_REPAIR of a pin that is due (R329). -/
def pinRepair (s : State) (n pc pin : Nat) (trains : Bool) : State :=
  let key := pinKey pc pin
  if !s.stackUp n || !(s.stack n).pinsDue.contains key then s
  else
  let k := s.stack n
  let k := { k with pinsDue := k.pinsDue.filter (· != key), pinErrors := tblDel k.pinErrors key }
  if lanesUsed k pc < 2 then
    if trains then
      logPlain (s.setStack n { k with laneMap := tblPut k.laneMap (pc * 64 + pin) (lanesUsed k pc),
                                      lanesRepaired := k.lanesRepaired + 1 }) 0x2020 (noDetail 0x2020)
    else fenceStack s n
  else
    let k := { k with badPins := addOnce (32 * pc + pin) k.badPins }
    let s := s.setStack n k
    if 2 ≤ badPinsOf k pc then fenceStack s n else setStackState s n .degraded

def execPinLaneRepair (stack pc pin : Nat) (trains : Bool) (s : State) : Out :=
  act (isStack stack && pc < 32 && pin < 32) s fun s => pinRepair s stack pc pin trains

/-! ### The problem area (R330) -/

/-- Give a number of pages to stacks in turn, each at most its room: (stack, room, given), in the order of the turn. -/
def takeTurns : Nat → Nat → List (Nat × Nat × Nat) → List (Nat × Nat × Nat)
  | 0, _, l => l
  | fuel + 1, need, l =>
    let open_ := l.filter fun e => e.2.2 < e.2.1
    if need == 0 || open_.isEmpty then l
    else
      let least := open_.foldl (fun m e => min m (e.2.1 - e.2.2)) need
      let each := min least (need / open_.length)
      if each == 0 then
        let lucky := (open_.take need).map (·.1)
        l.map fun e => if lucky.contains e.1 then (e.1, e.2.1, e.2.2 + 1) else e
      else
        takeTurns fuel (need - each * open_.length)
          (l.map fun e => if e.2.2 < e.2.1 then (e.1, e.2.1, e.2.2 + each) else e)

/-- MEM_PROBLEM_AREA_WRITE: only by port A, while no problem exists, within the free pool (R330). -/
def problemAreaWrite (s : State) (p : Port) (value : Nat) : State :=
  let gib := min 768 (bits value 0 10)
  let need := gib * 512
  let room := fun (n : Nat) => if s.stackUp n then s.freePages n + s.problemShare n else 0
  if p != .A || !s.spin.problems.isEmpty || overStacks room < need then s
  else
    let order := (List.range 24).map fun k => (s.hbm.graphLast + 1 + k) % 24
    let shares := takeTurns 64 need (order.map fun n => (n, room n, 0))
    { s with hbm := { s.hbm with
        problemGib := gib,
        problemPages := shares.foldl (fun t e => tblSet (if e.1 < 16 then 1365 else 1366) t e.1 e.2.2) s.hbm.problemPages } }

def execMemProblemAreaWrite (p : Port) (value : Nat) (s : State) : Out :=
  act (isWord value) s <| overBar p fun s => problemAreaWrite s p value

/-! ### Map requests (R332-R335) -/

/-- The map request that a port's go has given, when it is the one processed (R293, R332). -/
def mapRequest (s : State) (p : Port) : Option (List Byte) :=
  let x := s.port p
  if x.map.busy && s.hbm.mapOrder.head? == some p && x.mayRequest && s.hbm.job.isNone then
    some (s.read (.untranslated p) x.map.addr 128)
  else none

/-- End a map request (R293, R440). -/
def mapDone (s : State) (p : Port) (code : Nat) : State :=
  let s := { s with hbm := { s.hbm with mapOrder := s.hbm.mapOrder.drop 1, job := none } }
  (s.modPort p fun x => { x with map := { x.map with busy := false, result := code } }).fire (0x082 + portIdx p)

/-- End it with success, the 64-bit result at 0x70 (R332); on a link that is down the result is lost (R472). -/
def mapOk (s : State) (p : Port) (result : Nat) : State :=
  mapDone (if (s.port p).linkUp then s.write (.untranslated p) ((s.port p).map.addr + 0x70) (natLe 8 result) else s) p 0

/-- A map request that took its time ends: at once, or when its port may write again (R502). -/
def mapEnd (s : State) (p : Port) (result : Nat) : State :=
  if (s.port p).linkUp && !(s.port p).mayRequest then
    { s with hbm := { s.hbm with job := s.hbm.job.map fun j => { j with keys := [], accesses := [], due := some result } } }
  else mapOk s p result

/-- A map request whose effect waits for its port to write ends (R502). -/
def finishDue (s : State) (p : Port) : State :=
  match s.hbm.job with
  | some j => match j.due with
    | some v => if j.port == p then mapOk s p v else s
    | none => s
  | none => s

/-- Is a reserved byte nonzero, given the named ones (R332)? The result field is the module's. -/
def mapReserved (b : List Byte) (named : List (Nat × Nat)) : Bool := (reservedIn b ((0, 1) :: (0x70, 8) :: named)).isSome

/-- The pages of a range (R331). -/
def rangePages (b : List Byte) : List Nat :=
  (List.range (fieldOf b 0x10 8 / 2 ^ 21)).map ((fieldOf b 8 8 - deviceBase) / 2 ^ 21 + ·)

/-- Order 1 of R333 for a range. -/
def rangeBad (b : List Byte) : Bool :=
  let va := fieldOf b 8 8
  let n := fieldOf b 0x10 8
  2 ^ 20 ≤ fieldOf b 4 4 || va < deviceBase || va % 2 ^ 21 != 0 || n == 0 || n % 2 ^ 21 != 0 || 2 ^ 64 < va + n

/-- Order 1 of R333 for a map. -/
def mapBad (b : List Byte) : Bool :=
  mapReserved b [(1, 3), (4, 4), (8, 16)] || 1 < fieldOf b 1 1 || 1 < fieldOf b 2 1 ||
    (if fieldOf b 2 1 == 1 then 7 < fieldOf b 3 1 else fieldOf b 3 1 != 0) || rangeBad b

/-- The next stack of a turn with a free page, given what this map has taken. -/
def nextStack (free : Nat → Nat) (order : List Nat) : Option Nat := order.find? fun n => 0 < free n

/-- A free page of a stack: the highest number that no map holds and no retirement removed (DESIGN CHOICE, log entry 33). -/
def freePageOf (s : State) (taken : List (Nat × PageMap)) (n : Nat) : Nat :=
  let used := fun (k : Nat) =>
    (s.stack n).removedPages.contains k || (s.hbm.pages.any fun e => e.2.stack == n && e.2.page == k) ||
      taken.any fun e => e.2.stack == n && e.2.page == k
  let room := stackPages
  match lowestFree (fun i => used (room - 1 - i)) room 0 with
  | some i => room - 1 - i
  | none => 0

/-- Place pages in ascending order (R334): spread after the last page of any map, near in the memory die's own turn. -/
def placePages (key : Nat → Nat) (write near : Bool) (m : Nat) : List Nat → State → List (Nat × PageMap) →
    Option (State × List (Nat × PageMap))
  | [], s, taken => some (s, taken)
  | pg :: rest, s, taken =>
    let free := fun n => s.freePages n - (taken.filter fun e => e.2.stack == n).length
    let order :=
      if near then (List.range 3).map fun k => 3 * m + (tblGet (3 * m + 2) s.hbm.lastNear m - 3 * m + 1 + k) % 3
      else (List.range 24).map fun k => (s.hbm.lastSpread + 1 + k) % 24
    match nextStack free order with
    | none => none
    | some n =>
      let e := (key pg, ({ stack := n, page := freePageOf s taken n, write := write } : PageMap))
      let h := { s.hbm with lastSpread := n, lastNear := if near then tblPut s.hbm.lastNear m n else s.hbm.lastNear }
      placePages key write near m rest { s with hbm := h } (taken ++ [e])

/-- MAP: checked and placed; the pages are usable once they are zero (R333, R334). -/
def mapPages (s : State) (p : Port) (b : List Byte) : State :=
  let key := deviceKey p (fieldOf b 4 4)
  let pages := rangePages b
  let near := fieldOf b 2 1 == 1
  let m := fieldOf b 3 1
  if mapBad b || pages.any fun k => (tblFind s.hbm.pages (key k)).isSome then mapDone s p 0x2040
  else
    let room := if near then s.freePages (3 * m) + s.freePages (3 * m + 1) + s.freePages (3 * m + 2) else overStacks s.freePages
    if room < pages.length then mapDone s p 0x2041
    else match placePages key (bit (fieldOf b 1 1) 0) near m pages s [] with
      | some (s', keys) => { s' with hbm := { s'.hbm with job := some { port := p, unmap := false, keys := keys } } }
      | none => mapDone s p 0x2041

/-- Run a map request of an op. -/
def mapOp (s : State) (p : Port) (op : Nat) (f : State → List Byte → State) : State :=
  match mapRequest s p with
  | some b => if fieldOf b 0 1 == op then f s b else s
  | none => s

def execMap (p : Port) (s : State) : Out := act true s fun s => mapOp s p 0x10 fun s b => mapPages s p b

/-- The request under way of a port. -/
def jobOf (s : State) (p : Port) (unmap : Bool) : Option MapJob :=
  match s.hbm.job with
  | some j => if j.port == p && j.unmap == unmap && j.due.isNone then some j else none
  | none => none

/-- MAP_ZEROING_COMPLETE: every page is zero and becomes usable (R333). -/
def zeroingComplete (s : State) (p : Port) (j : MapJob) : State :=
  let s := j.keys.foldl (fun s e => s.clear (.page e.2.stack e.2.page)) s
  let inPages := fun (u : Nat) => j.keys.any fun e => u / stackUnits == e.2.stack && u % stackUnits / pageUnits == e.2.page
  let s := { s with hbm := { s.hbm with
    pages := j.keys.foldl (fun t e => tblPut t e.1 e.2) s.hbm.pages,
    poisoned := s.hbm.poisoned.filter fun u => !inPages u } }
  mapEnd s p j.keys.length

def execMapZeroingComplete (p : Port) (s : State) : Out :=
  act true s fun s => match jobOf s p false with
    | some j => zeroingComplete s p j
    | none => s

/-- The accesses already translated to a page of a range: store writes that take their data from it (R335 step 2). -/
def translatedTo (s : State) (keys : List (Nat × PageMap)) : List Nat :=
  (s.cmds.filter fun e => dOpcode e.2.desc == 0x82 && e.2.stage == .running && (s.queue? e.2.queue).any fun q =>
    (pagesOf (2 ^ 21) (dField e.2.desc 0x10 8 - deviceBase) (4096 * dCount e.2.desc)).any fun pg =>
      deviceBase ≤ dField e.2.desc 0x10 8 && keys.any fun k => k.1 == deviceKey q.port q.pasid pg).map (·.1)

/-- The page of a device-range access in an unmapped range. -/
def unmappedPage (s : State) (j : MapJob) (c : Nat) : Nat :=
  match s.cmd? c with
  | some x =>
    let pages := pagesOf (2 ^ 21) (dField x.desc 0x10 8 - deviceBase) (4096 * dCount x.desc)
    (pages.find? fun pg => j.keys.any fun k => k.1 % 2 ^ 26 == pg).getD 0
  | none => 0

/-- UNMAP: new translations of the range stop (R335 step 1). -/
def unmapPages (s : State) (p : Port) (b : List Byte) : State :=
  let key := deviceKey p (fieldOf b 4 4)
  let found := (rangePages b).map fun k => (key k, tblFind s.hbm.pages (key k))
  if mapReserved b [(4, 4), (8, 16)] || rangeBad b || found.any fun e => e.2.isNone then mapDone s p 0x2040
  else
    let keys := found.filterMap fun e => e.2.map fun m => (e.1, m)
    { s with hbm := { s.hbm with pages := keys.foldl (fun t e => tblDel t e.1) s.hbm.pages,
                                 job := some { port := p, unmap := true, keys := keys, accesses := translatedTo s keys } } }

def execUnmap (p : Port) (s : State) : Out := act true s fun s => mapOp s p 0x11 fun s b => unmapPages s p b

/-- UNMAP_DRAIN_END: accesses that remain are abandoned, each faulting its command; the pages return to the pool (R335 steps 2 and
3). -/
def execUnmapDrainEnd (p : Port) (s : State) : Out :=
  act true s fun s => match jobOf s p true with
    | some j =>
      let s := j.accesses.foldl (fun s c => faultCmd s c 0x2001 (unmappedPage s j c)) s
      mapEnd s p j.keys.length
    | none => s

/-- MAP_REQUEST_INVALID (R332). -/
def execMapRequestInvalid (p : Port) (s : State) : Out :=
  act true s fun s => match mapRequest s p with
    | some b => if 0x10 ≤ fieldOf b 0 1 && fieldOf b 0 1 ≤ 0x14 then s else mapDone s p 0x2040
    | none => s

end Sys2Proof.Machine
end

