-- ==== Sys2Proof/Machine/Flash.lean ====
section
/-! DEFINITION. The flash tier: stores, their requests and commands, reads and upkeep of the medium, the dump mirror
(R337-R348). -/

namespace Sys2Proof.Machine

/-! ### Stores (R342-R346) -/

/-- The store a handle names (R50, R51, R343). -/
def storeIndex (s : State) (h : Nat) : Option Nat := handleIndex 3 (fun i => (tblFind s.fls.stores i).map (·.gen)) h

def State.setStore (s : State) (i : Nat) (f : FlashStore) : State :=
  { s with fls := { s.fls with stores := tblPut s.fls.stores i f } }

/-- A store handle of a command: bound to the queue's pair (R343). -/
def needStore (s : State) (q : Queue) (h : Nat) : Try (Nat × FlashStore) :=
  match storeIndex s h with
  | none => fltOpen 0x4011
  | some i => match tblFind s.fls.stores i with
    | none => fltOpen 0x4011
    | some f => if f.bound == some (q.port, q.pasid) then .ok (i, f) else fltOpen 0xA003

/-- The range of a command lies in its store (R344). -/
def needRange (d : Desc) (f : FlashStore) : Try Unit := needOpen (dFirst d + dCount d ≤ f.blocks) 0xA002

/-- Blocks that no store reserves (R344). -/
def freeBlocks (s : State) : Nat := s.storeFree / 4096

/-- STORE_CREATE (R344): reserved and bound to the queue's pair. -/
def storeCreateBody (s : State) (x : Cmd) (q : Queue) : Done :=
  let n := dField x.desc 0x10 8
  within (needDesc x.desc 0xA001 [(0x10, n == 0)]) fun _ =>
    within (need (n ≤ freeBlocks s) 0xA004 (min 0xFFFFFFFF (freeBlocks s))) fun _ =>
      match newIndex 65536 (fun i => (tblFind s.fls.stores i).isSome) s.fls.gens with
      | none => .stop (.fault 0xA004 (min 0xFFFFFFFF (freeBlocks s)) false)
      | some (i, gen) =>
        let f : FlashStore := { gen := gen, blocks := n, label := dField x.desc 0x18 8, bound := some (q.port, q.pasid) }
        let s := { s with fls := { s.fls with gens := tblPut s.fls.gens i gen } }.setStore i f
        .ok s (BitVec.ofNat 128 (mkHandle 3 gen i))

def execStoreCreate (c : Nat) (s : State) : Out := act true s fun s => runCmd s c 0x80 storeCreateBody

/-- buf_addr and count of a read or write (R342). -/
def transferFields (d : Desc) : List (Nat × Bool) :=
  [(0x10, dField d 0x10 8 % 256 != 0), (0x28, dCount d == 0 || 2 ^ 20 < dCount d)]

/-- The bytes of a store's blocks; a block never written or trimmed reads as zeros (R340). -/
def blockBytes4k (s : State) (i : Nat) (f : FlashStore) (n : Nat) : List Byte :=
  if (tblFind f.written n).isSome then s.read (.store i) (4096 * n) 4096 else zeros 4096

/-- The first lost block of a range. -/
def lostBlock (d : Desc) (f : FlashStore) : Option Nat :=
  ((List.range (dCount d)).map (dFirst d + ·)).find? fun n => f.lost.contains n

/-- STORE_READ (R345): a lost block faults with 0xA011 (R339). -/
def storeReadBody (s : State) (x : Cmd) (q : Queue) : Done :=
  let d := x.desc
  let va := dField d 0x10 8
  within (needDesc d 0xA001 (transferFields d)) fun _ =>
    within (needStore s q (dField d 0x20 8)) fun (i, f) =>
      within (needRange d f) fun _ =>
        within (checkVa s q.port q.pasid va (4096 * dCount d) true) fun _ =>
          match lostBlock d f with
          | some n => badWriting s q [(va, 4096 * dCount d)] (.fault 0xA011 (n % 2 ^ 32) true)
          | none =>
            let ks := List.range (dCount d)
            let b := ks.flatMap fun k => blockBytes4k s i f (dFirst d + k)
            let blank := (ks.filter fun k => (tblFind f.written (dFirst d + k)).isNone).length
            .ok (pokeVa s q.port q.pasid va b) (BitVec.ofNat 128 (dCount d + blank * 2 ^ 32))

def execStoreRead (c : Nat) (s : State) : Out := act true s fun s => runCmd s c 0x81 storeReadBody

/-- STORE_WRITE: checked; its blocks are being programmed (R340). -/
def storeWriteBody (s : State) (x : Cmd) (q : Queue) : Done :=
  let d := x.desc
  within (needDesc d 0xA001 (transferFields d)) fun _ =>
    within (needStore s q (dField d 0x20 8)) fun (_, f) =>
      within (needRange d f) fun _ =>
        within (needOpen (!s.fls.readOnly) 0xA020) fun _ =>
          within (checkVa s q.port q.pasid (dField d 0x10 8) (4096 * dCount d) false) fun _ => .run s

def execStoreWrite (c : Nat) (s : State) : Out := act true s fun s => runCmd s c 0x82 storeWriteBody

/-- STORE_PROGRAM_COMPLETE: data and map update are programmed (R340); a buffer lost meanwhile faults (R327-R329). -/
def storeProgramBody (s : State) (x : Cmd) (q : Queue) : Done :=
  writing s q [] (checkVa s.translated q.port q.pasid (dField x.desc 0x10 8) (4096 * dCount x.desc) false) fun _ =>
    .ok ((List.range (dCount x.desc)).foldl (programBlock q x.desc) s) (BitVec.ofNat 128 (dCount x.desc))

def execStoreProgramComplete (c : Nat) (s : State) : Out := act true s fun s => goOn s c 0x82 storeProgramBody

/-- Remove the bytes of a range of a space. -/
def State.wipe (s : State) (sp : Space) (a n : Nat) : State :=
  { s with mem := s.mem.filter fun c => !(memKey sp a ≤ c.1 && c.1 < memKey sp (a + n)) }

/-- STORE_TRIM: the physical space of the blocks is freed, not their reservation (R344). -/
def storeTrimBody (s : State) (x : Cmd) (q : Queue) : Done :=
  let d := x.desc
  within (needDesc d 0xA001 [(0x28, dCount d == 0)]) fun _ =>
    within (needStore s q (dField d 0x20 8)) fun (i, f) =>
      within (needRange d f) fun _ =>
        let out := fun (n : Nat) => n < dFirst d || dFirst d + dCount d ≤ n
        let f := { f with written := f.written.filter (fun e => out e.1), lost := f.lost.filter out }
        .ok ((s.setStore i f).wipe (.store i) (4096 * dFirst d) (4096 * dCount d)) (BitVec.ofNat 128 (dCount d))

def execStoreTrim (c : Nat) (s : State) : Out := act true s fun s => runCmd s c 0x83 storeTrimBody

/-- The tier record (R346). -/
def tierRecord (s : State) : List Byte :=
  let f := s.fls
  let fenced := (List.range 16).any fun n => (s.channel n).state == .fenced
  let building := (List.range 16).any fun n => (s.channel n).state == .rebuilding
  natLe 8 storeCapacity ++ natLe 8 (storeCapacity - s.storeFree) ++
    natLe 8 ((f.stores.map fun e => e.2.written.length).sum * 4096) ++ natLe 2 (sparePermille f) ++ natLe 2 (wearPermille f) ++
    natLe 2 (wearMax f) ++ zeros 2 ++ natLe 4 f.grownBad ++ natLe 4 f.lifetimeUncorrectable ++ natLe 8 f.refreshed ++
    natLe 4 (oldestDays s) ++
    natLe 1 (bit01 f.readOnly + 2 * bit01 f.spareLow + 4 * bit01 fenced + 8 * bit01 building) ++ zeros 11

/-- An entry of a store list, with 8 bytes of its own (R343, R346). -/
def storeEntry (i : Nat) (f : FlashStore) (own : Nat) : List Byte :=
  natLe 8 (mkHandle 3 f.gen i) ++ natLe 8 f.blocks ++ natLe 8 own ++
    natLe 4 (match f.bound with | some b => b.2 | none => 0xFFFFFFFF) ++ zeros 4

/-- STORE_REPORT (R346). -/
def storeReportBody (s : State) (x : Cmd) (q : Queue) : Done :=
  let d := x.desc
  let h := dField d 0x20 8
  within (needDesc d 0xA001 []) fun _ =>
    if h == 0 then
      within (writeVa s q.port q.pasid (dField d 0x10 8) (tierRecord s)) fun s' => .ok s' 0
    else
      within (needStore s q h) fun (i, f) =>
        within (writeVa s q.port q.pasid (dField d 0x10 8) (tierRecord s ++ storeEntry i f f.written.length)) fun s' => .ok s' 0

def execStoreReport (c : Nat) (s : State) : Out := act true s fun s => runCmd s c 0x84 storeReportBody

/-- Is a read, write or trim that names a store in flight (R344)? -/
def storeBusy (s : State) (i : Nat) : Bool :=
  s.cmds.any fun e => 0x81 ≤ dOpcode e.2.desc && dOpcode e.2.desc ≤ 0x83 && storeIndex s (dField e.2.desc 0x20 8) == some i

/-- A store and its data go; the generation of its index stays (R51, R343). -/
def dropStore (s : State) (i : Nat) : State :=
  { s with fls := { s.fls with stores := tblDel s.fls.stores i } }.clear (.store i)

/-- STORE_DESTROY (R344). -/
def storeDestroyBody (s : State) (x : Cmd) (q : Queue) : Done :=
  within (needDesc x.desc 0xA001 []) fun _ =>
    within (needStore s q (dField x.desc 0x20 8)) fun (i, _) =>
      within (needOpen (!storeBusy s i) 0xA005) fun _ => .ok (dropStore s i) 0

def execStoreDestroy (c : Nat) (s : State) : Out := act true s fun s => runCmd s c 0x85 storeDestroyBody

/-! ### Requests about stores and dumps (R343, R347) -/

/-- BIND_STORE (R332, R343). -/
def bindStore (s : State) (p : Port) (b : List Byte) : State :=
  if 2 ^ 20 ≤ fieldOf b 4 4 then mapDone s p 0x2040
  else match storeIndex s (fieldOf b 8 8) with
    | none => mapDone s p 0x4011
    | some i => match tblFind s.fls.stores i with
      | none => mapDone s p 0x4011
      | some f =>
        let other := match f.bound with
          | some (o, _) => o != p
          | none => false
        if other then mapDone s p 0xA006
        else
          let v := (Config.freeDWord s.draws).toNat
          mapOk ({ s with draws := s.draws + 1 }.setStore i { f with bound := some (p, fieldOf b 4 4) }) p v

def execBindStore (p : Port) (s : State) : Out := act true s fun s => mapOp s p 0x12 fun s b => bindStore s p b

/-- LIST_STORES: as many entries as fit; the result is the full count (R343). -/
def listStores (s : State) (p : Port) (b : List Byte) : State :=
  if fieldOf b 8 8 % 32 != 0 then mapDone s p 0x2040
  else
    let mine := s.fls.stores.filter fun e => match e.2.bound with
      | some (o, _) => o == p
      | none => true
    let bytes := (mine.take (fieldOf b 0x10 8 / 32)).flatMap fun e => storeEntry e.1 e.2 e.2.label
    mapOk (s.write (.untranslated p) (fieldOf b 8 8) bytes) p mine.length

def execListStores (p : Port) (s : State) : Out := act true s fun s => mapOp s p 0x13 fun s b => listStores s p b

/-- READ_DUMP (R347). -/
def readDump (s : State) (p : Port) (b : List Byte) : State :=
  if 1 < fieldOf b 1 1 || fieldOf b 8 8 % 4096 != 0 then mapDone s p 0x2040
  else
    let k := if fieldOf b 1 1 == 0 then s.fls.latestDump else 1 - s.fls.latestDump
    let slot := nth {} s.fls.dumps k
    if !slot.valid then mapDone s p 0xA051
    else if fieldOf b 0x10 8 < slot.bytes then mapDone s p 0x2040
    else mapOk (s.write (.untranslated p) (fieldOf b 8 8) (s.read (.dump k) 0 slot.bytes)) p slot.bytes

def execReadDump (p : Port) (s : State) : Out := act true s fun s => mapOp s p 0x14 fun s b => readDump s p b

/-! ### The medium (R339, R341) -/

/-- Mark blocks of a store lost. -/
def loseBlocks (f : FlashStore) (ns : List Nat) : FlashStore :=
  { f with lost := ns.foldl (fun l n => addOnce n l) f.lost }

/-- A page read counts at its erase block; one that needs more than hard decoding asks for a refresh (R341). -/
def countRead (s : State) (f : FlashStore) (n : Nat) (outcome : FlashRead) : State :=
  match tblFind f.written n with
  | some k =>
    let e := eraseBlock s k
    setEraseBlock s k { e with reads := e.reads + 1, soft := e.soft || outcome != .hard, unread := false }
  | none => s

/-- FLASH_PAGE_READ: what no layer recovers is lost, and the reading command faults with 0xA010 (R339). -/
def flashPageRead (s : State) (i n c : Nat) (outcome : FlashRead) : State :=
  match tblFind s.fls.stores i with
  | none => s
  | some f =>
    let s := countRead s f n outcome
    if outcome != .lost || (tblFind f.written n).isNone || f.lost.contains n then s
    else
      let s := s.setStore i (loseBlocks f [n])
      match s.cmd? c with
      | some x =>
        if dOpcode x.desc == 0x81 && dStore x.desc == i && dFirst x.desc ≤ n && n < dFirst x.desc + dCount x.desc then
          let s := { s with fls := { s.fls with lifetimeUncorrectable := s.fls.lifetimeUncorrectable + 1 } }
          let s := countGlobal s (·.fls.uncorrectable) (fun s v => { s with fls := { s.fls with uncorrectable := v } }) 0x048 1
          let s := match s.queue? x.queue with
            | some q => scrambleVa s q.port q.pasid (dField x.desc 0x10 8) (4096 * dCount x.desc)
            | none => s
          faultCmd s c 0xA010 (n % 2 ^ 32)
        else s
      | none => s

def execFlashPageRead (store block c : Nat) (outcome : FlashRead) (s : State) : Out :=
  act true s fun s => flashPageRead s store block c outcome

/-- A channel's state changes: one event (R348). -/
def setChannelState (s : State) (n : Nat) (st : ChannelState) : State :=
  if (s.channel n).state == st then s else (s.setChannel n { s.channel n with state := st }).fire 0x048

/-- A channel is fenced: the blocks held there are lost (R338, R339). -/
def fenceChannel (s : State) (n : Nat) : State :=
  if (s.channel n).state == .fenced then s
  else
  let s := logPlain (setChannelState s n .fenced) 0xA040 (noDetail 0xA040)
  { s with fls := { s.fls with stores := s.fls.stores.map fun e =>
      (e.1, loseBlocks e.2 ((e.2.written.map (·.1)).filter fun b => blockChannel b == n)) } }

/-- FLASH_DIE_REBUILD: a failed die is rebuilt; a second failure on the memory die meanwhile fences the channel (R339). -/
def flashDieRebuild (s : State) (n target : Nat) : State :=
  let c := s.channel n
  if c.state == .fenced || c.failed.contains target then s
  else if [2 * (n / 2), 2 * (n / 2) + 1].any fun k => (s.channel k).state == .rebuilding then fenceChannel s n
  else setChannelState (s.setChannel n { c with failed := c.failed ++ [target] }) n .rebuilding

def execFlashDieRebuild (channel target : Nat) (s : State) : Out :=
  act (isFlashChannel channel && target < 8) s fun s => flashDieRebuild s channel target

/-- STANDARD_INTERFACE_LOSS: the interface takes nothing more; the fabric side of its synchroniser accepts packets until its
FIFO is full, and the rest wait in the mesh (R40). A flash channel that is lost whole is fenced (R339). -/
def execStandardInterfaceLoss (interface : StdInterface) (s : State) : Out :=
  actAlways interface.wf s fun s =>
    let s := { s with mgmt := { s.mgmt with lostInterfaces := (interface :: s.mgmt.lostInterfaces).dedup } }
    match interface with
    | .onfi n => fenceChannel s n
    | _ => s

/-- Spare below 20 permille, below 10: each raises one event when it comes (R341, R348). -/
def spareFloor (s : State) : State :=
  let n := sparePermille s.fls
  let s := if n < 20 && !s.fls.spareLow then { s with fls := { s.fls with spareLow := true } }.fire 0x048 else s
  if n < 10 && !s.fls.readOnly then { s with fls := { s.fls with readOnly := true } }.fire 0x048 else s

/-- FLASH_REBUILD_COMPLETE: the rebuilt die's blocks have come out of the spare (R339, R341; DEDUCED, log entry 33). -/
def execFlashRebuildComplete (channel : Nat) (s : State) : Out :=
  act (isFlashChannel channel) s fun s =>
    if (s.channel channel).state == .rebuilding then
      spareFloor (setChannelState { s with fls := { s.fls with spareBlocks := s.fls.spareBlocks - targetBlocks } } channel .up)
    else s

/-- FLASH_PROGRAM_FAIL: the block is retired, its data rewritten elsewhere, and 0xA031 logged (R341). -/
def programFail (s : State) (n block : Nat) : State :=
  let k := eraseKey (n / 2) block
  let e := eraseBlock s k
  if e.retired || dieBlocks ≤ block then s
  else
    let s := moveData (setEraseBlock s k { e with retired := true }) (n / 2) k
    let s := s.setChannel n { s.channel n with grownBad := (s.channel n).grownBad + 1 }
    let s := { s with fls := { s.fls with grownBad := s.fls.grownBad + 1, spareBlocks := s.fls.spareBlocks - 1 } }
    spareFloor (logPlain s 0xA031 (noDetail 0xA031))

def execFlashProgramFail (channel block : Nat) (s : State) : Out :=
  act (isFlashChannel channel) s fun s => programFail s channel block

/-- An erase block is copied to a new one and freed (R341). -/
def copyBlock (s : State) (m k : Nat) : State := erase (moveData s m k) k

/-- The erase block of lowest count of a memory die, the lowest numbered of several: an unlisted one has count 0. -/
def leastWorn (s : State) (m : Nat) : Nat × Nat :=
  let fresh := fun (b : Nat) => !(eraseBlock s (eraseKey m b)).retired && (eraseBlock s (eraseKey m b)).erases == 0
  match lowestFree (fun b => !fresh b) dieBlocks 0 with
  | some b => (eraseKey m b, 0)
  | none =>
    let l := (listedBlocks s m).filter fun e => !e.2.retired
    l.foldl (fun a e => if e.2.erases < a.2 then (e.1, e.2.erases) else a)
      ((l.head?.map fun e => (e.1, e.2.erases)).getD (eraseKey m 0, 0))

/-- WEAR_LEVEL_COPY: counts that differ by more than 200 have the block of the lowest count copied out and freed (R341). -/
def execWearLevelCopy (memDie : Nat) (s : State) : Out :=
  act (memDie < 8) s fun s =>
    let low := leastWorn s memDie
    let high := ((listedBlocks s memDie).filter fun e => !e.2.retired).foldl (fun a e => max a e.2.erases) 0
    if low.2 + 200 < high then copyBlock s memDie low.1 else s

/-- A block copied for its age or its reads is counted (R346). -/
def refreshBlock (s : State) (m k : Nat) : State :=
  copyBlock { s with fls := { s.fls with refreshed := s.fls.refreshed + 1 } } m k

/-- Does an erase block hold data, and is it in use? -/
def holdsData (s : State) (k : Nat) : Bool := !(eraseBlock s k).retired && !(dataIn s k).isEmpty

/-- RETENTION_REFRESH: of data 90 days old, or whose reads need soft decoding; logs 0xA030 (R341). -/
def execRetentionRefresh (memDie block : Nat) (s : State) : Out :=
  act (memDie < 8) s fun s =>
    let k := eraseKey memDie block
    if holdsData s k && (90 ≤ ageDays s (eraseBlock s k) || (eraseBlock s k).soft) then
      logPlain (refreshBlock s memDie k) 0xA030 (noDetail 0xA030)
    else s

/-- READ_DISTURB_COPY: of a block read 50 000 times since its last erase (R341). -/
def execReadDisturbCopy (memDie block : Nat) (s : State) : Out :=
  act (memDie < 8) s fun s =>
    let k := eraseKey memDie block
    if holdsData s k && 50000 ≤ (eraseBlock s k).reads then refreshBlock s memDie k else s

/-- At power-on one page of every written erase block is to be read (R341). -/
def flashPowerOn (f : Flash) : Flash :=
  { f with eraseBlocks := f.eraseBlocks.map fun e => (e.1, if e.2.used == 0 then e.2 else { e.2 with unread := true }) }

/-! ### The dump mirror (R347) -/

/-- Put a slot of the dump area. -/
def setDump (s : State) (k : Nat) (d : DumpSlot) : State := { s with fls := { s.fls with dumps := setNth s.fls.dumps k d } }

/-- DUMP_MIRROR: the slot not marked latest takes the dump and becomes latest; a tier that cannot take it logs 0xA050. -/
def dumpMirror (s : State) (taken : Bool) : State :=
  if s.flt.mirror != 1 then s
  else if taken then
    let k := 1 - s.fls.latestDump
    let s := (s.clear (.dump k)).write (.dump k) 0 (s.read (.dump 2) 0 s.flt.dumpLen)
    let s := setDump s k { valid := true, bytes := s.flt.dumpLen }
    { s with fls := { s.fls with latestDump := k }, flt := { s.flt with mirror := 2 } }
  else logPlain { s with flt := { s.flt with mirror := 3 } } 0xA050 (noDetail 0xA050)

def execDumpMirror (taken : Bool) (s : State) : Out := actAlways true s fun s => dumpMirror s taken

end Sys2Proof.Machine
end

