-- ==== Sys2Proof/Machine/Kem.lean ====
section
/-! DEFINITION. ML-KEM-1024 (FIPS 203), as R428 and R431 use it: the key pair of its seeds, and decapsulation. Its text is
PRESUMED from the standard (log entry 12). A polynomial is a list of 256 numbers modulo 3329. -/

namespace Sys2Proof.Machine

def kemQ : Nat := 3329

/-! ### Polynomials -/

/-- The numbers 0 to 127 with their seven bits reversed. -/
def bitRev7 (i : Nat) : Nat := ((List.range 7).map fun k => i / 2 ^ k % 2 * 2 ^ (6 - k)).sum

/-- A power of the 256-th root of unity 17. -/
def kemRoot (e : Nat) : Nat := 17 ^ (e % 256) % kemQ

/-- The number-theoretic transform, by its definition: two interleaved sums. -/
def kemNtt (f : List Nat) : List Nat :=
  (List.range 256).map fun k =>
    ((List.range 128).foldl (fun a j => a + nth 0 f (2 * j + k % 2) * kemRoot ((2 * bitRev7 (k / 2) + 1) * j)) 0) % kemQ

/-- The inverse transform. -/
def kemInv (f : List Nat) : List Nat :=
  (List.range 256).map fun k =>
    3303 * ((List.range 128).foldl (fun a i => a + nth 0 f (2 * i + k % 2) * kemRoot (256 - (2 * bitRev7 i + 1) * (k / 2) % 256)) 0) % kemQ

/-- The product of two transformed polynomials. -/
def kemMul (f g : List Nat) : List Nat :=
  (List.range 256).map fun k =>
    let i := k / 2
    let a := fun (l : List Nat) (o : Nat) => nth 0 l (2 * i + o)
    if k % 2 == 0 then (a f 0 * a g 0 + a f 1 * a g 1 % kemQ * kemRoot (2 * bitRev7 i + 1)) % kemQ
    else (a f 0 * a g 1 + a f 1 * a g 0) % kemQ

def kemAdd (f g : List Nat) : List Nat := (f.zip g).map fun e => (e.1 + e.2) % kemQ
def kemSub (f g : List Nat) : List Nat := (f.zip g).map fun e => (e.1 + kemQ - e.2) % kemQ
def kemZero : List Nat := List.replicate 256 0

/-- The sum of products of two vectors of transformed polynomials. -/
def kemDot (u v : List (List Nat)) : List Nat := (u.zip v).foldl (fun a e => kemAdd a (kemMul e.1 e.2)) kemZero

/-! ### Coding and sampling -/

/-- 256 numbers of d bits as 32 d bytes, and back. -/
def kemEncode (d : Nat) (f : List Nat) : List Byte := natLe (32 * d) (f.foldr (fun v a => v % 2 ^ d + 2 ^ d * a) 0)
def kemDecode (d : Nat) (b : List Byte) : List Nat := (List.range 256).map fun k => leNat b / 2 ^ (d * k) % 2 ^ d

/-- Rounding to d bits, and back. -/
def kemCompress (d : Nat) (f : List Nat) : List Nat := f.map fun x => (2 ^ (d + 1) * x + kemQ) / (2 * kemQ) % 2 ^ d
def kemDecompress (d : Nat) (f : List Nat) : List Nat := f.map fun y => (2 * kemQ * y + 2 ^ d) / 2 ^ (d + 1)

/-- Parts of a vector of four. -/
def kemRows (n : Nat) (b : List Byte) : List (List Byte) := (List.range 4).map fun k => (b.drop (n * k)).take n

/-- A uniform polynomial from a SHAKE128 stream: candidates below q, the first 256; 896 candidates always suffice in practice. -/
def kemUniform (seed : List Byte) : List Nat :=
  let b := sponge 168 0x1F 1344 seed
  (((List.range 448).flatMap fun k =>
    let v := leNat ((b.drop (3 * k)).take 3)
    [v % 4096, v / 4096]).filter (· < kemQ)).take 256

/-- A polynomial of the centred binomial distribution with parameter 2, from a seed and a counter. -/
def kemNoise (seed : List Byte) (n : Nat) : List Nat :=
  let v := leNat (shake256 128 (seed ++ natLe 1 n))
  (List.range 256).map fun k =>
    let t := v / 2 ^ (4 * k)
    (t % 2 + t / 2 % 2 + kemQ - t / 4 % 2 - t / 8 % 2) % kemQ

/-- The public matrix: row i, column j. -/
def kemMatrix (rho : List Byte) : List (List (List Nat)) :=
  (List.range 4).map fun i => (List.range 4).map fun j => kemUniform (rho ++ natLe 1 j ++ natLe 1 i)

def transposed (a : List (List (List Nat))) : List (List (List Nat)) :=
  (List.range 4).map fun i => a.map fun row => nth [] row i

/-! ### The scheme -/

/-- Encryption and decryption keys of the inner scheme from 32 bytes. -/
def kemKeys (d : List Byte) : List Byte × List Byte :=
  let g := sponge 72 0x06 64 (d ++ natLe 1 4)
  let s := (List.range 4).map fun k => kemNtt (kemNoise (g.drop 32) k)
  let e := (List.range 4).map fun k => kemNtt (kemNoise (g.drop 32) (4 + k))
  let t := ((kemMatrix (g.take 32)).zip e).map fun r => kemAdd (kemDot r.1 s) r.2
  (t.flatMap (kemEncode 12) ++ g.take 32, s.flatMap (kemEncode 12))

/-- Encryption of 32 bytes under 32 random bytes. -/
def kemEncrypt (ek m r : List Byte) : List Byte :=
  let t := (kemRows 384 ek).map fun b => (kemDecode 12 b).map (· % kemQ)
  let y := (List.range 4).map fun k => kemNtt (kemNoise r k)
  let u := ((transposed (kemMatrix (ek.drop 1536))).zip (List.range 4)).map fun e =>
    kemAdd (kemInv (kemDot e.1 y)) (kemNoise r (4 + e.2))
  let v := kemAdd (kemAdd (kemInv (kemDot t y)) (kemNoise r 8)) (kemDecompress 1 (kemDecode 1 m))
  (u.flatMap fun f => kemEncode 11 (kemCompress 11 f)) ++ kemEncode 5 (kemCompress 5 v)

/-- Decryption. -/
def kemDecrypt (dk c : List Byte) : List Byte :=
  let u := (kemRows 352 c).map fun b => kemNtt (kemDecompress 11 (kemDecode 11 b))
  let v := kemDecompress 5 (kemDecode 5 (c.drop 1408))
  let s := (kemRows 384 dk).map (kemDecode 12)
  kemEncode 1 (kemCompress 1 (kemSub v (kemInv (kemDot s u))))

/-- The encapsulation key of the 64 bytes d and z. -/
@[irreducible] def kemPublic (dz : List Byte) : List Byte := (kemKeys (dz.take 32)).1

/-- The shared secret that a ciphertext of 1568 bytes gives under the key pair of d and z. -/
@[irreducible] def kemSecret (dz c : List Byte) : List Byte :=
  let keys := kemKeys (dz.take 32)
  let m := kemDecrypt keys.2 c
  let g := sponge 72 0x06 64 (m ++ sponge 136 0x06 32 keys.1)
  if kemEncrypt keys.1 m (g.drop 32) == c then g.take 32 else shake256 32 (dz.drop 32 ++ c)

end Sys2Proof.Machine
end

