-- ==== Sys2Proof/Machine/Mesh.lean ====
section
/-! DEFINITION. The die mesh: routers, credits, bridges, detours, arbiters, endpoints (R22-R37, R40, R43, R44, R466, R482). -/

namespace Sys2Proof.Machine

/-! ### Routes (R30, R32) -/

/-- The channel number of a detour table. -/
def chanIdx : Channel → Nat
  | .request => 0
  | .response => 1

def isResponse (ch : Channel) : Bool := ch == .response

/-- The output port a detour table names for router d and destination t (DESIGN CHOICE, log entry 44). -/
def detourEntry (table d t : Nat) : Nat := bits table (3 * (64 * d + t)) 3

/-- The output a router would use by its tables: the detour table in place of the default one once loaded (R30, R32). -/
def routeOut (s : State) (d : Nat) (p : Packet) : Option Nat :=
  if d == p.dst then none
  else match tblFind s.mesh.detours (d * 2 + chanIdx p.channel) with
    | some t => some (detourEntry t.table d p.dst)
    | none => defaultOut (isResponse p.channel) d p.src p.dst

/-! ### Bridge directions and credits (R24, R26, R27) -/

def State.out (s : State) (d o : Nat) : OutPort := tblGet {} s.mesh.outs (outKey d o)
def State.setOut (s : State) (d o : Nat) (x : OutPort) : State :=
  { s with mesh := { s.mesh with outs := tblSet {} s.mesh.outs (outKey d o) x } }
def State.modOut (s : State) (d o : Nat) (f : OutPort → OutPort) : State := s.setOut d o (f (s.out d o))

def State.router (s : State) (d : Nat) : Router := tblGet {} s.mesh.routers d
def State.setRouter (s : State) (d : Nat) (x : Router) : State :=
  { s with mesh := { s.mesh with routers := tblSet {} s.mesh.routers d x } }
def State.modRouter (s : State) (d : Nat) (f : Router → Router) : State := s.setRouter d (f (s.router d))

/-- Is the port's bridge fenced whole (R29, R43)? -/
def portFenced (s : State) (d o : Nat) : Bool := bridgeState s d o == 2

/-- The credit count of a channel at an output: 32 units a bridge that is not fenced, less those deducted (R24, R26). -/
def creditsOf (s : State) (d o : Nat) (ch : Channel) : Nat :=
  32 * (halvesOf d o - (s.out d o).fencedHalves.length) - (s.out d o).used.get ch

/-- The bridge direction that ends at a port of a die: its sender's die and port. -/
def feeder (d i : Nat) : Option (Nat × Nat) :=
  match bridgePeer d i with
  | some x => (portTo x d).map fun r => (x, r)
  | none => none

/-- The packets at input i of a router on a channel: the receive buffer behind port i, or for 5 those injected (R35). -/
def placeOf (s : State) (d i : Nat) (ch : Channel) : List Held :=
  if i == 5 then (s.router d).injected.get ch
  else match feeder d i with
    | some (x, r) => (s.out x r).buf.get ch
    | none => []

def setPlace (s : State) (d i : Nat) (ch : Channel) (l : List Held) : State :=
  if i == 5 then s.modRouter d fun y => { y with injected := y.injected.put ch l }
  else match feeder d i with
    | some (x, r) => s.modOut x r fun y => { y with buf := y.buf.put ch l }
    | none => s

/-- A packet leaves its buffer: the receiver owes one credit toggle a unit (R27 step 6). -/
def leavePlace (s : State) (d i : Nat) (ch : Channel) (h : Held) : State :=
  let s := setPlace s d i ch ((placeOf s d i ch).erase h)
  if i == 5 then s
  else match feeder d i with
    | some (x, r) => s.modOut x r fun y => { y with owed := y.owed.put ch (y.owed.get ch + h.packet.units) }
    | none => s

/-- The transfer on a bridge direction completes: its packet is stored at the receiver (R27 steps 2-5). -/
def settleOut (s : State) (d o : Nat) : State :=
  match (s.out d o).wire with
  | none => s
  | some h =>
    let ch := h.packet.channel
    s.modOut d o fun y => { y with wire := none, buf := y.buf.put ch (y.buf.get ch ++ [{ packet := h.packet }]) }

/-- The transfers that leave and enter a die complete. -/
def settleAround (s : State) (d : Nat) : State :=
  (List.range 5).foldl (fun s o =>
    let s := settleOut s d o
    match feeder d o with
    | some (x, r) => settleOut s x r
    | none => s) s

/-! ### Arbiters (R31, R33, R34) -/

/-- Are two packets of one channel from one source endpoint to one destination endpoint (R31)? -/
def samePair (a b : Packet) : Bool :=
  a.channel == b.channel && a.src == b.src && a.srcEndpoint == b.srcEndpoint && a.dst == b.dst && a.dstEndpoint == b.dstEndpoint

/-- The packets of a buffer that may be presented: the first of each pair, so none overtakes (R31). -/
def leaders : List Held → List Held
  | [] => []
  | h :: t => h :: (leaders t).filter fun x => !samePair h.packet x.packet

/-- Distance of an input position from the one round-robin starts at (R34). -/
def turnOf (next n input : Nat) : Nat := (input + n - next % n) % n

/-- Does bid a beat bid b at an arbiter with n inputs: the higher loss count, then the turn (R34)? -/
def beats (n next : Nat) (a b : Nat × Held) : Bool :=
  b.2.packet.loss < a.2.packet.loss ||
    (a.2.packet.loss == b.2.packet.loss && turnOf next n a.1 < turnOf next n b.1)

/-- The bid an arbiter with n inputs grants (R34): an input presents every packet of its buffer that may go, and of one input's
with equal counts the earliest goes first (DESIGN CHOICE, log entry 44: R34 does not say what an input with several presents). -/
def arbWinner (n next : Nat) : List (Nat × Held) → Option (Nat × Held)
  | [] => none
  | b :: t => match arbWinner n next t with
    | none => some b
    | some w => if beats n next w b then some w else some b

/-- A loss for a packet presented and not granted, up to 15 (R33). -/
def lose (h : Held) : Held := { h with packet := { h.packet with loss := min 15 (h.packet.loss + 1) } }

/-- The losers of a grant: every bid but the winner's (R33). -/
def losersOf (bids : List (Nat × Held)) (w : Nat × Held) : List (Nat × Held) := bids.erase w

/-- Count at a die the packets whose loss count reaches 15 (MOD_LOSS_TOP), of either channel (DESIGN CHOICE, log entry 44: the
register's meaning says "requests", R33 gives responses the same rules). -/
def countTops (s : State) (d : Nat) (losers : List (Nat × Held)) : State :=
  countDie s d (·.lossTop) (fun z c => { z with lossTop := c }) causeMesh (losers.filter fun b => b.2.packet.loss == 14).length

/-! ### Endpoints (R35, R40, R482) -/

/-- The number of an endpoint within its die, and its key over all dies. -/
def endNum : Endpoint → Nat
  | .unit n => n
  | .pseudoChannel st pc => 1024 + 32 * st + pc
  | .flash ch => 2048 + ch
  | .fibre n => 3072 + n
def endKey (d : Nat) (e : Endpoint) : Nat := d * 4096 + endNum e

/-- The port of a host die. -/
def hostPort (d : Nat) : Port := if d == 62 then .A else .B

/-- The standard interface an endpoint belongs to (R38); the PCIe controller of a host die stands behind its queue front end,
endpoint 5 (DESIGN CHOICE, log entry 44). -/
def endInterface (d : Nat) : Endpoint → Option StdInterface
  | .unit n => if 62 ≤ d then
      (match n with
      | 5 => some (.pcie (hostPort d))
      | 8 => some (.i3c (hostPort d))
      | 9 => some (.smbus (hostPort d))
      | 10 => some (.spi (hostPort d))
      | _ => none) else none
  | .pseudoChannel st _ => some (.hbm st)
  | .flash ch => some (.onfi ch)
  | .fibre n => some (.serialiser (d - 56) n)

/-- Does the host side of a port take nothing: its link is down, or the host withholds credits (R40, R471, R484)? -/
def portTakesNothing (s : State) (p : Port) : Bool := !(s.port p).linkUp || (s.port p).creditsWithheld

/-- Has an endpoint's interface lost its clock or link (R40)? -/
def endLost (s : State) (d : Nat) (e : Endpoint) : Bool :=
  match endInterface d e with
  | some i => s.mgmt.lostInterfaces.contains i || (match i with
      | .pcie p => portTakesNothing s p
      | _ => false)
  | none => false

/-- Units in the synchroniser FIFO of an endpoint. -/
def fifoUsed (s : State) (k : Nat) : Nat := ((tblGet [] s.mesh.fifos k).map Packet.units).sum

/-- Does an endpoint take a packet: always, but for a lost interface only while its FIFO has room (R40)? -/
def takes (s : State) (d : Nat) (p : Packet) : Bool :=
  !endLost s d p.dstEndpoint ||
    fifoUsed s (endKey d p.dstEndpoint) + p.units ≤ Config.fifoUnits d (endNum p.dstEndpoint)

/-- Response space a requester holds (R482). -/
def reservedUnits (s : State) (d : Nat) (e : Endpoint) : Nat :=
  ((s.mesh.reserved.filter fun r => r.die == d && r.endpoint == e).map (·.units)).sum

/-- A response frees the space reserved for it as it is taken: all but the units that follow it; its last packet frees what is
left, so a response shorter than the reservation leaves none (R482). -/
def freeSpace (p : Packet) : List Reserved → List Reserved
  | [] => []
  | r :: t =>
    if r.die == p.dst && r.endpoint == p.dstEndpoint && r.tag == p.tag then
      if p.response == 0 then t else { r with units := min r.units p.response } :: t
    else r :: freeSpace p t

/-- Is a request for an engine that is fenced (R467 step 1)? -/
def forFenced (s : State) (d : Nat) (p : Packet) : Bool :=
  match p.dstEndpoint with
  | .unit n => d < 48 && n < 16 && p.channel == .request && !(s.eng (16 * d + n)).usable
  | _ => false

/-- The response that carries 0x3060 (R467; its place in the packet is DESIGN CHOICE, log entry 44). -/
def fencedResponse (d : Nat) (p : Packet) : Packet :=
  { p with src := d, srcEndpoint := p.dstEndpoint, dst := p.src, dstEndpoint := p.srcEndpoint, channel := .response,
           data := [0x3060], loss := 0, response := 0 }

/-- The scratchpad whose inbound transfer an endpoint is: an engine's, a host die's endpoint 6 (R35, R260; DESIGN CHOICE, log
entry 44). -/
def inboundBank (d : Nat) : Endpoint → Option Nat
  | .unit n => if d < 48 && n < 16 then some (16 * d + n) else if 62 ≤ d && n == 6 then some (706 + d) else none
  | _ => none

/-- The key of the channel of a stack that an endpoint belongs to: both pseudo-channels carry its units (R326). -/
def channelKey (st channel : Nat) : Nat := 16 * st + channel

/-- What a taken packet leaves at its endpoint: its loss count for the scratchpad's arbiter (R33), its turn at a channel of a stack
(R37). -/
def noteTaken (s : State) (d : Nat) (p : Packet) : State :=
  match p.dstEndpoint with
  | .pseudoChannel st pc =>
    if p.channel == .request then
      let k := channelKey st (pc / 2)
      { s with mesh := { s.mesh with won := tblSet [] s.mesh.won k (tblGet [] s.mesh.won k ++ [p]) } }
    else s
  | e => match inboundBank d e with
    | some b => s.modBank b fun x => { x with arrived := x.arrived ++ [p.loss] }
    | none => s

/-- An endpoint takes a packet; a lost interface keeps it in its FIFO, the endpoint of a fenced engine answers with 0x3060
(R40, R467, R482). -/
def takePacket (s : State) (d : Nat) (p : Packet) : State :=
  if forFenced s d p then
    s.modRouter d fun y => { y with waiting := y.waiting.put .response (y.waiting.response ++ [{ packet := fencedResponse d p }]) }
  else if endLost s d p.dstEndpoint then
    let k := endKey d p.dstEndpoint
    { s with mesh := { s.mesh with fifos := tblSet [] s.mesh.fifos k (tblGet [] s.mesh.fifos k ++ [p]) } }
  else
    let s := if p.channel == .response then { s with mesh := { s.mesh with reserved := freeSpace p s.mesh.reserved } } else s
    (noteTaken s d p).send (.delivered p)

/-- Does an endpoint stand behind a memory-die arbiter: HBM pseudo-channels and flash channels (R35)? -/
def atMemory : Endpoint → Bool
  | .pseudoChannel _ _ => true
  | .flash _ => true
  | _ => false

/-- Raise the loss of packets at inputs of a router. -/
def raiseAt (s : State) (d : Nat) (ch : Channel) (place : Nat → Nat) (losers : List (Nat × Held)) : State :=
  losers.foldl (fun s b => setPlace s d (place b.1) ch ((placeOf s d (place b.1) ch).replace b.2 (lose b.2))) s

/-- The inputs of a memory-die arbiter: the ports e, w and h, and the die's own packets (R35). -/
def memPlace (pos : Nat) : Nat := nth 5 [1, 3, 4, 5] pos

/-- The packets for an endpoint that a memory-die arbiter sees. -/
def memBids (s : State) (d : Nat) (ch : Channel) (e : Endpoint) : List (Nat × Held) :=
  (List.range 4).flatMap fun pos =>
    ((leaders (placeOf s d (memPlace pos) ch)).filter fun h => h.packet.dst == d && h.packet.dstEndpoint == e).map
      fun h => (pos, h)

/-- One grant of a memory-die arbiter (R34, R35, R37). Each channel's packets are arbitrated by themselves, with one round-robin
an endpoint (DESIGN CHOICE, log entry 44: R35 says "per channel" of a router's output only). -/
def serveEnd (s : State) (d : Nat) (ch : Channel) (e : Endpoint) : State :=
  let bids := memBids s d ch e
  match arbWinner 4 (tblGet 0 s.mesh.ends (endKey d e)) bids with
  | none => s
  | some w =>
    if takes s d w.2.packet then
      let s := leavePlace s d (memPlace w.1) ch w.2
      let s := takePacket s d w.2.packet
      let s := countTops (raiseAt s d ch memPlace (losersOf bids w)) d (losersOf bids w)
      { s with mesh := { s.mesh with ends := tblSet 0 s.mesh.ends (endKey d e) ((w.1 + 1) % 4) } }
    else s

/-- The endpoints behind arbiters that packets of a channel at a die wait for. -/
def memEnds (s : State) (d : Nat) (ch : Channel) : List Endpoint :=
  (((List.range 6).flatMap fun i => placeOf s d i ch).filterMap fun h =>
    if h.packet.dst == d && atMemory h.packet.dstEndpoint then some h.packet.dstEndpoint else none).dedup

/-- The stack of an endpoint that a request of the channel may be granted to. -/
def requestStack (ch : Channel) : Endpoint → Option Nat
  | .pseudoChannel st _ => if ch == .request then some st else none
  | _ => none

/-- Does a stack at 92 °C or above sit out the handshake after one that granted it a request (R408)? -/
def restsHot (s : State) (ch : Channel) (e : Endpoint) : Bool :=
  (requestStack ch e).any fun st => (s.stack st).thermal.capped && (s.stack st).granted

/-- The packets for endpoints behind the arbiters of a memory die: one grant an endpoint a handshake, none for a hot stack that was
granted one in the handshake before (R35, R408). -/
def serveEnds (s : State) (d : Nat) (ch : Channel) : State :=
  let rests := (memEnds s d ch).filter (restsHot s ch)
  let s := if ch == .request && 48 ≤ d && d < 56 then
      (List.range 3).foldl (fun s i => s.setStack (3 * (d - 48) + i) { s.stack (3 * (d - 48) + i) with granted := false }) s
    else s
  ((memEnds s d ch).filter fun e => !rests.contains e).foldl (fun s e =>
    let s := match requestStack ch e with
      | some st => s.setStack st { s.stack st with granted := true }
      | none => s
    serveEnd s d ch e) s

/-- Packets whose destination is the router's die are taken: by an arbiter's grant on a memory die, else at once. -/
def deliverOn (s : State) (d : Nat) (ch : Channel) : State :=
  let s := serveEnds s d ch
  (List.range 6).foldl (fun s i =>
    ((leaders (placeOf s d i ch)).filter fun h => h.packet.dst == d && !atMemory h.packet.dstEndpoint).foldl (fun s h =>
      if takes s d h.packet then takePacket (leavePlace s d i ch h) d h.packet else s) s) s

/-! ### Issue and injection (R33, R35, R482) -/

/-- Does a requester hold buffer space for the whole response (R482)? -/
def hasSpace (s : State) (p : Packet) : Bool :=
  p.channel == .response || p.response == 0 ||
    reservedUnits s p.src p.srcEndpoint + p.response ≤ Config.responseSpace p.src (endNum p.srcEndpoint)

/-- A packet issued goes to its die's injection arbiter with loss count 0; a request reserves its response's space. -/
def issueOne (st : State × List Packet) (p : Packet) : State × List Packet :=
  let s := st.1
  if st.2.any (samePair p) || !hasSpace s p then (s, st.2 ++ [p])
  else
    let s := if p.channel == .request && p.response != 0 then
        { s with mesh := { s.mesh with reserved := s.mesh.reserved ++ [⟨p.src, p.srcEndpoint, p.tag, p.response⟩] } }
      else s
    (s.modRouter p.src fun y => { y with
      waiting := y.waiting.put p.channel (y.waiting.get p.channel ++ [{ packet := { p with loss := 0 } }]) }, st.2)

/-- The packets that waited for response space, then those presented, are issued in order where they may be (R31, R482). -/
def issue (s : State) (ps : List Packet) : State :=
  let r := (s.mesh.unissued ++ ps).foldl issueOne (s, [])
  { r.1 with mesh := { r.1.mesh with unissued := r.2 } }

/-- Inputs of a die's injection arbiter: 17 on a compute die (R35); on another die the endpoint numbers (DESIGN CHOICE, log entry
44). -/
def injectInputs (d : Nat) : Nat := if d < 48 then 17 else 4096

/-- What the endpoints of a die present to its injection arbiter. -/
def injectBids (s : State) (d : Nat) (ch : Channel) : List (Nat × Held) :=
  let l := (s.router d).waiting.get ch
  (leaders l).map fun h => (endNum h.packet.srcEndpoint, h)

/-- One grant of the injection arbiter on a channel, when no packet injected before waits but those of lost interfaces. Each
channel has a round-robin of its own (DESIGN CHOICE, log entry 44: R35 does not say so of injection). -/
def injectOn (s : State) (d : Nat) (ch : Channel) : State :=
  let bids := injectBids s d ch
  if ((s.router d).injected.get ch).any fun h => !endLost s h.packet.dst h.packet.dstEndpoint then s
  else match arbWinner (injectInputs d) ((s.router d).next.get ch) bids with
    | none => s
    | some w =>
      let lost := losersOf bids w
      let left := lost.foldl (fun l b => l.replace b.2 (lose b.2)) (((s.router d).waiting.get ch).erase w.2)
      countTops (s.modRouter d fun y => { y with
        waiting := y.waiting.put ch left, injected := y.injected.put ch (y.injected.get ch ++ [w.2]),
        next := y.next.put ch ((w.1 + 1) % injectInputs d) }) d lost

/-! ### Router outputs (R26, R34, R40, R43, R466) -/

/-- Position of an input at an output's arbiter of 5: the port's number; the injected packets stand at the output's own. -/
def outPlace (o pos : Nat) : Nat := if pos == o then 5 else pos

/-- Credits a packet must find: its unit count (R26); for a lost interface the room of one more packet too, so that its packets
never fill a buffer that other traffic needs (R40; DESIGN CHOICE, log entry 17). -/
def creditsFor (s : State) (h : Held) : Nat :=
  h.packet.units + if endLost s h.packet.dst h.packet.dstEndpoint then 5 else 0

/-- Is a packet for a lost interface held where it is for want of credit, out of the way of other traffic (R40)? -/
def heldLost (s : State) (d o : Nat) (ch : Channel) (h : Held) : Bool :=
  endLost s h.packet.dst h.packet.dstEndpoint && creditsOf s d o ch < creditsFor s h

/-- What waits at a router for an output on a channel, with its input, none for one whose transfer failed (R35, R466). -/
def outWaits (s : State) (d o : Nat) (ch : Channel) : List (Option Nat × Held) :=
  (((s.router d).again.get ch).filter fun h => routeOut s d h.packet == some o).map (fun h => (none, h)) ++
  (List.range 5).flatMap fun pos =>
    ((leaders (placeOf s d (outPlace o pos) ch)).filter fun h => routeOut s d h.packet == some o).map fun h => (some pos, h)

/-- What the inputs of a router present to an output on a channel (R35). -/
def outBids (s : State) (d o : Nat) (ch : Channel) : List (Nat × Held) :=
  (outWaits s d o ch).filterMap fun b => if heldLost s d o ch b.2 then none else b.1.map fun pos => (pos, b.2)

/-- The packet an output sends next on a channel: one whose transfer failed before any other (R466), else the arbiter's
winner with its position (R34). -/
def headOf (s : State) (d o : Nat) (ch : Channel) : Option (Option Nat × Held) :=
  match (outWaits s d o ch).find? fun b => b.1.isNone && !heldLost s d o ch b.2 with
  | some b => some b
  | none => (arbWinner 5 ((s.out d o).next.get ch) (outBids s d o ch)).map fun w => (some w.1, w.2)

/-- A packet is counted once as waiting (R27 step 1, R43). -/
def markOne (s : State) (d o : Nat) (ch : Channel) (b : Option Nat × Held) : State :=
  if b.2.waited then s
  else
    let w := { b.2 with waited := true }
    let s := match b.1 with
      | none => s.modRouter d fun y => { y with again := y.again.put ch ((y.again.get ch).replace b.2 w) }
      | some i => setPlace s d (outPlace o i) ch ((placeOf s d (outPlace o i) ch).replace b.2 w)
    countDie s d (·.meshStall) (fun z c => { z with meshStall := c }) causeMesh 1

/-- The packets that the comparison holds back: the head without credit, and those of lost interfaces (R27 step 1, R40). -/
def markWait (s : State) (d o : Nat) (ch : Channel) : State :=
  let short := (headOf s d o ch).toList.filter fun b => creditsOf s d o ch < creditsFor s b.2
  (short ++ (outWaits s d o ch).filter fun b => heldLost s d o ch b.2).foldl (fun s b => markOne s d o ch b) s

/-- A packet granted leaves its place; the other bids lose (R33, R34). -/
def takeHead (s : State) (d o : Nat) (ch : Channel) (pos : Option Nat) (h : Held) : State :=
  match pos with
  | none => s.modRouter d fun y => { y with again := y.again.put ch ((y.again.get ch).erase h) }
  | some i =>
    let lost := losersOf (outBids s d o ch) (i, h)
    let s := raiseAt (leavePlace s d (outPlace o i) ch h) d ch (outPlace o) lost
    countTops (s.modOut d o fun y => { y with next := y.next.put ch ((i + 1) % 5) }) d lost

/-- One grant on a channel of an output: the head goes when the credit covers it whole (R26). -/
def grantOn (s : State) (d o : Nat) (ch : Channel) : Option State :=
  match headOf s d o ch with
  | none => none
  | some (pos, h) =>
    if creditsFor s h ≤ creditsOf s d o ch then
      some ((takeHead s d o ch pos h).modOut d o fun y => { y with
        used := y.used.put ch (y.used.get ch + h.packet.units), wire := some h, respTurn := ch == .request })
    else none

/-- The output sends one packet when its wires are free: the channels take turns when both can go (R26). -/
def serveOut (s : State) (d o : Nat) : State :=
  if portFenced s d o || (s.out d o).wire.isSome then s
  else
    let s := markWait (markWait s d o .request) d o .response
    let first := if (s.out d o).respTurn then Channel.response else Channel.request
    let second := if (s.out d o).respTurn then Channel.request else Channel.response
    match grantOn s d o first with
    | some t => t
    | none => (grantOn s d o second).getD s

/-- Every output of a router is served. -/
def serveRouter (s : State) (d : Nat) : State := (List.range 5).foldl (fun s o => serveOut s d o) s

/-! ### The commands -/

/-- PACKET_FORWARD: one round at a die. Transfers under way complete, packets are issued and injected, those for the die are
taken, and each output sends one packet that has credit (R26, R27, R33-R37, R40, R482; DESIGN CHOICE, log entry 44). -/
def packetForward (s : State) (d : Nat) (ps : List Packet) : State :=
  let s := issue (settleAround s d) ps
  let s := injectOn (injectOn s d .request) d .response
  serveRouter (deliverOn (deliverOn s d .request) d .response) d

def execPacketForward (die : Nat) (presented : List Packet) (s : State) : Out :=
  act (isDie die && presented.all fun p => p.wf && p.src == die) s fun s => packetForward s die presented

/-- CREDIT_TOGGLE: a toggle the receiver made raises the count by 1, and held packets are compared again (R27, R28). -/
def creditToggle (s : State) (d o : Nat) (ch : Channel) : State :=
  if (s.out d o).owed.get ch == 0 then s
  else
    serveOut (s.modOut d o fun y => { y with
      owed := y.owed.put ch (y.owed.get ch - 1), used := y.used.put ch (y.used.get ch - 1) }) d o

def execCreditToggle (die out : Nat) (ch : Channel) (s : State) : Out :=
  act (isDie die && isOutput out) s fun s => creditToggle s die out ch

/-- The number of a bridge: the lower of the port numbers of its two ends. -/
def bridgeNum (d o : Nat) : Nat :=
  match feeder d o with
  | some (x, r) => min (outKey d o) (outKey x r)
  | none => outKey d o

/-- The bridges fenced whole, by number. -/
def fencedBridges (s : State) : List Nat :=
  ((List.range 512).filter fun k => k % 8 < 5 && portFenced s (k / 8) (k % 8) && bridgeNum (k / 8) (k % 8) == k)

/-- Does a table lead from every router to every destination over bridges that are not fenced? -/
def tableAvoids (s : State) (table : Nat) : Bool :=
  (List.range 64).all fun d =>
    let usable := fun (o : Nat) => (bridgePeer d o).isSome && !portFenced s d o
    let ports := (List.range 5).filter usable
    (List.range 64).all fun t => d == t || ports.contains (detourEntry table d t)

/-- Does `order`, 10 bits an output, rise along every dependency of the table's routes, so that its channel-dependency graph
has no cycle (R32)? -/
def tableAcyclic (table order : Nat) : Bool :=
  (List.range 64).all fun d => (List.range 64).all fun t =>
    let o := detourEntry table d t
    d == t || match bridgePeer d o with
      | none => false
      | some x => x == t || bits order (10 * outKey d o) 10 < bits order (10 * outKey x (detourEntry table x t)) 10

/-- Do the loaded detour tables of both channels cover every fenced bridge (R466)? -/
def detoursCover (s : State) : Bool :=
  [0, 1].all fun c => s.mesh.detours.any fun e => e.1 % 2 == c && tableAvoids s e.2.table

/-- The transfer under way on a bridge direction that was fenced whole failed: the receiver returns its credits, and the sender
keeps the packet to send it again first (R466). -/
def failTransfer (s : State) (d o : Nat) : State :=
  match (s.out d o).wire with
  | none => s
  | some h =>
    let ch := h.packet.channel
    let s := s.modOut d o fun y => { y with wire := none, used := y.used.put ch (y.used.get ch - h.packet.units) }
    s.modRouter d fun y => { y with again := y.again.put ch (y.again.get ch ++ [{ packet := h.packet }]) }

/-- Fence one bridge of a port at both ends, and log it (R29, R43); a second fenced bridge that no loaded table covers is fatal
(R466). -/
def fenceHalf (s : State) (d o h : Nat) : State :=
  let mark := fun (x : OutPort) => { x with fencedHalves := (h :: x.fencedHalves).dedup }
  let s := s.modOut d o mark
  let s := match feeder d o with
    | some (x, r) => s.modOut x r mark
    | none => s
  let whole := portFenced s d o
  let s := logOnDie s 0x1020 (noDetail 0x1020) d
  if whole then
    let s := failTransfer s d o
    let s := match feeder d o with
      | some (x, r) => failTransfer s x r
      | none => s
    if (fencedBridges s).all (· == bridgeNum d o) || detoursCover s then s else fatal s 0xF101 d
  else logOnDie s 0x1021 (noDetail 0x1021) d

/-- BRIDGE_HANDSHAKE_TIMEOUT: the direction is retrained with the spare lane group, or the bridge is fenced (R29). The packet
under way is sent again: over the bridge while the port has one, else over the detour (R466). -/
def bridgeTimeout (s : State) (d o h : Nat) (passes : Bool) : State :=
  let x := s.out d o
  if (bridgePeer d o).isNone || halvesOf d o ≤ h || x.fencedHalves.contains h then s
  else if passes && !x.spareHalves.contains h then s.setOut d o { x with spareHalves := h :: x.spareHalves }
  else fenceHalf s d o h

def execBridgeHandshakeTimeout (die out half : Nat) (_ch : Channel) (retrainPasses : Bool) (s : State) : Out :=
  act (isDie die && isOutput out && half < 2) s fun s => bridgeTimeout s die out half retrainPasses

/-- Has a channel drained at a router: every packet at it waits for a fenced bridge or is for the die itself (R32)? -/
def drained (s : State) (d : Nat) (ch : Channel) : Bool :=
  ((List.range 6).all fun i => (placeOf s d i ch).all fun h =>
    match routeOut s d h.packet with
    | some o => portFenced s d o
    | none => true) &&
  (List.range 5).all fun o => (s.out d o).wire.all fun h => h.packet.channel != ch

/-- DETOUR_TABLE_SWITCH: once the channel has drained, a detour table for a fenced bridge takes over, one that avoids every
fenced bridge and has no cycle (R32); the packets that waited go over it, those sent again first (R466). -/
def detourSwitch (s : State) (d : Nat) (ch : Channel) (bridge table order : Nat) : State :=
  if (fencedBridges s).contains bridge && drained s d ch && tableAvoids s table && tableAcyclic table order then
    serveRouter { s with mesh := { s.mesh with detours := tblPut s.mesh.detours (d * 2 + chanIdx ch) ⟨bridge, table⟩ } } d
  else s

def execDetourTableSwitch (die : Nat) (ch : Channel) (bridge table order : Nat) (s : State) : Out :=
  act (isDie die && bridge < 512) s fun s => detourSwitch s die ch bridge table order

end Sys2Proof.Machine
end

