-- ==== Sys2Proof/Machine/Scratchpad.lean ====
section
/-! DEFINITION. Scratchpads: the arbiter, the array and its save buffer, the background test, the sealed region (R252-R262). -/

namespace Sys2Proof.Machine

/-! ### The arbiter (R34, R253, R257) -/

/-- Does request a come before b: the higher loss count, then the turn of its master (R34)? -/
def spdBefore (last : Nat) (a b : SpdReq) : Bool :=
  b.loss < a.loss || (a.loss == b.loss && turnOf (last + 1) 8 a.master < turnOf (last + 1) 8 b.master)

/-- Insert a request in the order of R34. -/
def spdInsert (last : Nat) (x : SpdReq) : List SpdReq → List SpdReq
  | [] => [x]
  | y :: t => if spdBefore last x y then x :: y :: t else y :: spdInsert last x t

def spdIsRead : SpdOp → Bool
  | .read => true
  | _ => false

/-- May two requests share a handshake (R253)? -/
def compatible (a b : SpdReq) : Bool := a.word != b.word || spdIsRead a.op || spdIsRead b.op

/-- The requests granted in a handshake: at most two, at most `room` of them to the array (R253, R257). -/
def grantSpd (b : Bank) (room : Nat) : List SpdReq → List SpdReq → List SpdReq
  | granted, [] => granted
  | granted, x :: t =>
    if 2 ≤ granted.length then granted
    else
      let arrays := (granted.filter fun g => !inBuffer b g.word).length
      if (inBuffer b x.word || arrays < room) && granted.all (compatible x) then grantSpd b room (granted ++ [x]) t
      else grantSpd b room granted t

/-- Is the second array grant of this handshake reserved for the test: every 16th while a region is under test (R257)? -/
def reservedSlot (b : Bank) : Bool := b.phase != .idle && b.handshakes == 15

/-! ### One access (R252-R254, R256, R261) -/

/-- Replace the bytes a mask selects. -/
def maskBytes (old new mask : Nat) : Nat → Nat
  | 0 => 0
  | n + 1 => (if bit mask n then bits new (8 * n) 8 else bits old (8 * n) 8) * 2 ^ (8 * n) + maskBytes old new mask n

/-- The integer of a lane of a word, and the word with the lane replaced (R254). -/
def laneBits (wide : Bool) : Nat := if wide then 64 else 32
def laneGet (word lane : Nat) (wide : Bool) : Nat := bits word (8 * lane) (laneBits wide)
def lanePut (word lane : Nat) (wide : Bool) (v : Nat) : Nat :=
  word - laneGet word lane wide * 2 ^ (8 * lane) + v % 2 ^ laneBits wide * 2 ^ (8 * lane)

/-- What an access returns to its master, from the word before any write of the handshake. -/
def spdAnswer (word : Nat) : SpdOp → Option Nat
  | .read => some word
  | .write _ _ => none
  | .atomicAdd lane wide _ => some (laneGet word lane wide)
  | .atomicSwap lane wide _ => some (laneGet word lane wide)

/-- What an access writes. -/
def spdWrites (word : Nat) : SpdOp → Option Nat
  | .read => none
  | .write mask data => some (maskBytes word data mask 256)
  | .atomicAdd lane wide v => some (lanePut word lane wide (laneGet word lane wide + v))
  | .atomicSwap lane wide v => some (lanePut word lane wide v)

/-- Count in a statistic of a bank; its saturation raises one event (R255). -/
def countBank (s : State) (b : Nat) (get : Bank → Stat) (put : Bank → Stat → Bank) (n : Nat) : State :=
  let r := statUp (get (s.bank b)) n
  let s := s.modBank b fun x => put x r.1
  if r.2 then dieEvent s (bankDie b) causeSpd else s

/-- Does an access read data: a read or an atomic (R252, R254)? -/
def decodes : SpdOp → Bool
  | .write _ _ => false
  | _ => true

/-- Do the cores run measured firmware (R261, R425)? -/
def measured (s : State) : Bool := s.flt.bootStep == 0 && !s.sec.bootFailed

/-- May a master reach the sealed region: the key block, and cores while they run measured firmware (R261)? -/
def mayReach (s : State) (b : Nat) (r : SpdReq) : Bool :=
  !sealedWord b r.word || r.master == 4 || (r.master < 4 && measured s)

/-- A double-bit error: the reading command faults with 0x3042, the region is tested next, and a second one on the engine
within 1 s fences it (R252, R467). -/
def doubleBit (s : State) (b : Nat) (r : SpdReq) : State :=
  let s := s.modBank b fun x => { x with ahead := x.ahead ++ (if x.ahead.contains (r.word / 256) then [] else [r.word / 256]) }
  let s := match r.command.bind s.cmd? with
    | some _ => faultCmdOpen s (r.command.getD 0) 0x3042
    | none => logOnDie s 0x3042 (noDetail 0x3042) (bankDie b)
  if 768 ≤ b then s
  else
    let again : Bool := match (s.eng b).lastDoubleBit with
      | some t => decide (s.time ≤ t + 1000000000)
      | none => false
    let s := s.modEng b fun g => { g with lastDoubleBit := some s.time }
    if again then fenceEngine s b 0x3042 true else s

/-- The answers of the granted requests, from the words as they stand before the handshake. -/
def answerReq (before : Bank) (b : Nat) (s : State) (r : SpdReq) : State :=
  if !mayReach s b r then
    let s := logOnDie s 0x8030 (noDetail 0x8030) (b - 706)
    if decodes r.op then s.send (.spdData b r.master 0) else s
  else if decodes r.op && 2 ≤ r.flips then doubleBit s b r
  else
    let s := if decodes r.op && r.flips == 1 then countBank s b (·.ecc) (fun x v => { x with ecc := v }) 1 else s
    match spdAnswer (spdGet before r.word) r.op with
    | some v => s.send (.spdData b r.master v)
    | none => s

/-- The write of a granted request. -/
def writeReq (before : Bank) (b : Nat) (s : State) (r : SpdReq) : State :=
  if !mayReach s b r || (decodes r.op && 2 ≤ r.flips) then s
  else match spdWrites (spdGet before r.word) r.op with
    | some v => s.modBank b fun x => spdPut x r.word v
    | none => s

/-- One test access of the region under test; none moves a word that a granted write or atomic names (R256, R257). -/
def testAccess (granted : List SpdReq) (b : Bank) : Bank :=
  let w := 256 * b.region + b.pointer
  let named := granted.any fun g => g.word == w && !spdIsRead g.op
  if 256 ≤ b.pointer then b
  else match b.phase with
    | .idle => b
    | .copy => if named then b else
        { b with buffer := tblSet 0 b.buffer b.pointer (tblGet 0 b.words w), pointer := b.pointer + 1 }
    | .march => if b.accesses == 5 then { b with accesses := 0, pointer := b.pointer + 1 } else { b with accesses := b.accesses + 1 }
    | .restore => if named then b else
        { b with words := tblSet 0 b.words w (tblGet 0 b.buffer b.pointer), pointer := b.pointer + 1 }

/-! ### Requests that wait (R33-R35) -/

/-- The master whose requests come from the mesh with their loss count: the inbound transfer (R33, R35, R260). -/
def inboundMaster (b : Nat) : Nat := if b < 768 then 5 else 6

/-- Is a master a tile, whose row groups meet an arbiter of their own (R35)? -/
def tileMaster (b m : Nat) : Bool := b < 768 && m < 4

/-- A request as it enters: the inbound transfer's carries on the loss count of the next packet that came to it over the mesh,
every other starts at 0 (R33). -/
def enterReq (b : Nat) (x : Bank) (r : SpdReq) : Bank :=
  if r.master == inboundMaster b then
    { x with waiting := x.waiting ++ [{ r with loss := x.arrived.head?.getD 0 }], arrived := x.arrived.tail }
  else { x with waiting := x.waiting ++ [{ r with loss := 0 }] }

/-- A loss for a request presented and not granted, up to 15 (R33). -/
def loseReq (r : SpdReq) : SpdReq := { r with loss := min 15 (r.loss + 1) }

/-- Does row-group request a beat b at a tile's arbiter of 8 inputs (R34, R35)? -/
def groupBeats (next : Nat) (a b : SpdReq) : Bool :=
  b.loss < a.loss || (a.loss == b.loss && turnOf next 8 a.group < turnOf next 8 b.group)

/-- The request a tile's arbiter grants. -/
def groupWinner (next : Nat) : List SpdReq → Option SpdReq
  | [] => none
  | x :: t => match groupWinner next t with
    | none => some x
    | some w => if groupBeats next w x then some w else some x

/-- The requests a tile's row groups present: the earliest of each. -/
def groupBids (x : Bank) (m : Nat) : List SpdReq :=
  (List.range 8).filterMap fun g => x.waiting.find? fun r => r.master == m && r.group == g

/-- Count the requests whose loss count reaches 15 at a bank's die (MOD_LOSS_TOP). -/
def countReqTops (s : State) (b : Nat) (lost : List SpdReq) : State :=
  countDie s (bankDie b) (·.lossTop) (fun z c => { z with lossTop := c }) causeMesh (lost.filter fun r => r.loss == 14).length

/-- A master with nothing at the scratchpad arbiter presents its next request there: a tile the one its arbiter grants, another
master its earliest (R34, R35). -/
def present (b : Nat) (s : State) (m : Nat) : State :=
  let x := s.bank b
  if (tblFind x.ports m).isSome then s
  else if tileMaster b m then
    let bids := groupBids x m
    match groupWinner (tblGet 0 x.groups m) bids with
    | none => s
    | some w =>
      let lost := bids.filter fun r => r.group != w.group
      let left := lost.foldl (fun l r => l.replace r (loseReq r)) (x.waiting.erase w)
      countReqTops (s.setBank b { x with waiting := left, ports := tblPut x.ports m w,
                                         groups := tblSet 0 x.groups m ((w.group + 1) % 8) }) b lost
  else match x.waiting.find? fun r => r.master == m with
    | none => s
    | some w => s.setBank b { x with waiting := x.waiting.erase w, ports := tblPut x.ports m w }

/-- SCRATCHPAD_HANDSHAKE: new requests wait behind earlier ones; of those presented at most two are granted, and each other
keeps its place with a loss more (R33-R35, R253). -/
def handshake (s : State) (b : Nat) (rs : List SpdReq) : State :=
  let s := s.modBank b fun x => rs.foldl (enterReq b) x
  let s := (List.range 8).foldl (present b) s
  let before := s.bank b
  let order := before.ports.foldl (fun l e => spdInsert before.lastMaster e.2 l) []
  let granted := grantSpd before (if reservedSlot before then 1 else 2) [] order
  let lost := order.filter fun x => !granted.contains x
  let s := s.modBank b fun x => { x with ports := lost.foldl (fun t r => tblPut t r.master (loseReq r)) [] }
  let s := granted.foldl (answerReq before b) s
  let s := granted.foldl (writeReq before b) s
  let s := lost.foldl (fun s r =>
    countBank s b (fun x => tblGet {} x.conflicts r.master)
      (fun x v => { x with conflicts := tblSet {} x.conflicts r.master v }) 1) s
  let s := countReqTops s b lost
  let arrays := (granted.filter fun g => !inBuffer before g.word).length
  s.modBank b fun x =>
    let x := { x with handshakes := (x.handshakes + 1) % 16,
                      lastMaster := (granted.getLast?.map (·.master)).getD x.lastMaster }
    if arrays < 2 then testAccess granted x else x

def execScratchpadHandshake (b : Nat) (requests : List SpdReq) (s : State) : Out :=
  act (isBank b && requests.all SpdReq.wf && (b < 768 || requests.all fun r => r.word < 16384)) s
    fun s => handshake s b requests

/-! ### The background test (R256, R258, R259) -/

/-- Begin the next region: one raised by a double-bit error first, else the next of the pass; else the pass ends (R259). -/
def nextRegion (n : Nat) (x : Bank) : Bank :=
  let x := { x with pointer := 0, accesses := 0 }
  match x.ahead with
  | r :: t => { x with phase := .copy, region := r, ahead := t }
  | [] =>
    if x.passRunning && x.order < n then { x with phase := .copy, region := x.order, order := x.order + 1 }
    else { x with phase := .idle, passRunning := false }

/-- BACKGROUND_PASS_START: a pass over every region begins, unless one is running or the test is off (R259). -/
def execBackgroundPassStart (b : Nat) (s : State) : Out :=
  act (isBank b) s fun s =>
    let x := s.bank b
    if !(s.die (bankDie b)).testEnable || x.passRunning || (b < 768 && !(s.eng b).usable) then s
    else s.setBank b (if x.phase == .idle then nextRegion (bankRegions b) { x with passRunning := true, order := 0 }
      else { x with passRunning := true, order := 0 })

/-- REGION_PHASE_END: a phase whose pointer has reached 256 ends; a saved context holds the test there (R256, R259). -/
def execRegionPhaseEnd (b : Nat) (badRows : List Nat) (s : State) : Out :=
  act (isBank b) s fun s =>
    let x := s.bank b
    if x.pointer < 256 || (b < 768 && (s.eng b).context.isSome) then s
    else match x.phase with
      | .idle => s
      | .copy => s.setBank b { x with phase := .march, pointer := 0, accesses := 0 }
      | .march =>
        let s := (badRows.filter fun r => r / 256 == x.region).foldl (repairRow b) s
        s.modBank b fun y => { y with phase := .restore, pointer := 0, accesses := 0 }
      | .restore => s.setBank b (nextRegion (bankRegions b) { x with bufferOf := some x.region })

/-- SPD_TEST_CTRL_WRITE: compute dies and host dies have the register; an interval of 0 is treated as 1; through port A only
(R259, R260, R492). -/
def testCtrlWrite (s : State) (p : Port) (die value : Nat) : State :=
  if p == .A && (die < 48 || 62 ≤ die) && (s.die die).powered then
    s.modDie die fun x => { x with testEnable := bit value 31, testInterval := max 1 (bits value 0 16) }
  else s

def execSpdTestCtrlWrite (p : Port) (die value : Nat) (s : State) : Out :=
  act (isDie die && isWord value) s <| overBar p fun s => testCtrlWrite s p die value

/-! ### The sealed region (R262) -/

/-- SEALED_REGION_WIPE on one host die: every sealed word and every buffer position that holds one become zero, a sealed region
under test starts again from copy; a word that stays nonzero logs 0x8031 and the key block refuses service. -/
def wipeSealed (s : State) (p : Port) : State :=
  let b := 768 + portIdx p
  let x := s.bank b
  let under := x.phase != .idle && 60 ≤ x.region
  let old := x.bufferOf.any (60 ≤ ·)
  let buffer := if under then []
    else if old && x.phase == .idle then []
    else if old && x.phase == .copy then x.buffer.filter (fun e => e.1 < x.pointer)
    else x.buffer
  let y := { x with words := x.words.filter (fun e => e.1 < 15360), buffer := buffer,
                    bufferOf := if under || old then none else x.bufferOf,
                    phase := if under then .copy else x.phase, pointer := if under then 0 else x.pointer,
                    accesses := if under then 0 else x.accesses }
  let s := { (s.setBank b y).modHost p fun h => { h with keys := none } with draws := s.draws + 1 }
  if Config.wipeClean s.draws then s
  else
    let s := logOnDie s 0x8031 (noDetail 0x8031) (62 + portIdx p)
    { s with sec := { s.sec with keyBlockRefuses := true } }

end Sys2Proof.Machine
end

