-- ==== Sys2Proof/Machine/Signature.lean ====
section
/-! DEFINITION. SLH-DSA-SHAKE-256s and -256f (FIPS 205), as R424, R428, R430 and R434 use them: key pair from its seeds,
deterministic pure signature with an empty context, verification. Their text is PRESUMED from the standard (log entry 12). -/

namespace Sys2Proof.Machine

/-- A parameter set: layers, height of a layer's tree, height and number of the FORS trees; n is 32 and w 16. -/
structure SlhSet where
  layers : Nat
  height : Nat
  forsHeight : Nat
  forsTrees : Nat

def slh256s : SlhSet := { layers := 8, height := 8, forsHeight := 14, forsTrees := 22 }
def slh256f : SlhSet := { layers := 17, height := 4, forsHeight := 9, forsTrees := 35 }

/-- Where a hash stands in the hypertree: layer, tree, key pair. -/
structure SlhPlace where
  layer : Nat
  tree : Nat
  pair : Nat

/-- An address: the place's layer and tree, the type, three words. -/
def slhAddress (at' : SlhPlace) (type a b c : Nat) : List Byte :=
  natBe 4 at'.layer ++ natBe 12 at'.tree ++ natBe 4 type ++ natBe 4 a ++ natBe 4 b ++ natBe 4 c

/-- F, H, T and PRF: the public seed, an address, a message. -/
def slhHash (pkSeed address m : List Byte) : List Byte := shake256 32 (pkSeed ++ address ++ m)

/-- Digits of so many bits, most significant first. -/
def slhDigits (width count : Nat) (b : List Byte) : List Nat :=
  (List.range count).map fun k => beNat b / 2 ^ (8 * b.length - width * (k + 1)) % 2 ^ width

/-- A node of a tree over leaves, at a height and index. -/
def slhNode (leaf : Nat → List Byte) (join : Nat → Nat → List Byte → List Byte) : Nat → Nat → List Byte
  | 0, i => leaf i
  | z + 1, i => join (z + 1) i (slhNode leaf join z (2 * i) ++ slhNode leaf join z (2 * i + 1))

/-- The root that a leaf at an index and its authentication path give. -/
def slhClimb (join : Nat → Nat → List Byte → List Byte) (idx : Nat) (leaf : List Byte) (path : List (List Byte)) : List Byte :=
  (path.zip (List.range path.length)).foldl (fun node e =>
    join (e.2 + 1) (idx / 2 ^ (e.2 + 1)) (if idx / 2 ^ e.2 % 2 == 0 then node ++ e.1 else e.1 ++ node)) leaf

/-- A signature's bytes in parts of 32. -/
def slhParts (b : List Byte) (off count : Nat) : List (List Byte) :=
  (List.range count).map fun k => (b.drop (32 * (off + k))).take 32

/-! ### WOTS+ -/

/-- A chain from a step on. -/
def wotsChain (pkSeed : List Byte) (p : SlhPlace) (chain start steps : Nat) (x : List Byte) : List Byte :=
  (List.range steps).foldl (fun x j => slhHash pkSeed (slhAddress p 0 p.pair chain (start + j)) x) x

/-- The 67 digits of a message of 32 bytes with its checksum. -/
def wotsDigits (m : List Byte) : List Nat :=
  let d := slhDigits 4 64 m
  d ++ slhDigits 4 3 (natBe 2 ((d.map fun v => 15 - v).sum * 16))

def wotsSecret (skSeed pkSeed : List Byte) (p : SlhPlace) (chain : Nat) : List Byte :=
  slhHash pkSeed (slhAddress p 5 p.pair chain 0) skSeed

def wotsPublic (skSeed pkSeed : List Byte) (p : SlhPlace) : List Byte :=
  slhHash pkSeed (slhAddress p 1 p.pair 0 0)
    ((List.range 67).flatMap fun k => wotsChain pkSeed p k 0 15 (wotsSecret skSeed pkSeed p k))

def wotsSign (skSeed pkSeed : List Byte) (p : SlhPlace) (m : List Byte) : List Byte :=
  ((wotsDigits m).zip (List.range 67)).flatMap fun e => wotsChain pkSeed p e.2 0 e.1 (wotsSecret skSeed pkSeed p e.2)

def wotsFromSignature (pkSeed : List Byte) (p : SlhPlace) (m : List Byte) (sig : List (List Byte)) : List Byte :=
  slhHash pkSeed (slhAddress p 1 p.pair 0 0)
    (((wotsDigits m).zip (List.range 67)).flatMap fun e => wotsChain pkSeed p e.2 e.1 (15 - e.1) (nth [] sig e.2))

/-! ### Trees of a layer and the hypertree -/

def xmssJoin (pkSeed : List Byte) (p : SlhPlace) (z i : Nat) (m : List Byte) : List Byte :=
  slhHash pkSeed (slhAddress p 2 0 z i) m

def xmssNode (skSeed pkSeed : List Byte) (p : SlhPlace) (z i : Nat) : List Byte :=
  slhNode (fun k => wotsPublic skSeed pkSeed { p with pair := k }) (xmssJoin pkSeed p) z i

/-- Signature of a layer: WOTS+ and the authentication path; `p.pair` is the leaf. -/
def xmssSign (g : SlhSet) (skSeed pkSeed : List Byte) (p : SlhPlace) (m : List Byte) : List Byte :=
  wotsSign skSeed pkSeed p m ++
    (List.range g.height).flatMap fun j => xmssNode skSeed pkSeed p j ((p.pair / 2 ^ j) ^^^ 1)

def xmssFromSignature (g : SlhSet) (pkSeed : List Byte) (p : SlhPlace) (m : List Byte) (sig : List Byte) : List Byte :=
  slhClimb (xmssJoin pkSeed p) p.pair (wotsFromSignature pkSeed p m (slhParts sig 0 67)) (slhParts sig 67 g.height)

/-- The place of a layer, from the tree and leaf of layer 0. -/
def layerPlace (g : SlhSet) (tree leaf layer : Nat) : SlhPlace :=
  match layer with
  | 0 => { layer := 0, tree := tree, pair := leaf }
  | k + 1 => { layer := k + 1, tree := tree / 2 ^ (g.height * (k + 1)), pair := tree / 2 ^ (g.height * k) % 2 ^ g.height }

def hyperSign (g : SlhSet) (skSeed pkSeed : List Byte) (tree leaf : Nat) (m : List Byte) : List Byte :=
  ((List.range g.layers).foldl (fun (x : List Byte × List Byte) k =>
    let p := layerPlace g tree leaf k
    let sig := xmssSign g skSeed pkSeed p x.2
    (x.1 ++ sig, xmssFromSignature g pkSeed p x.2 sig)) ([], m)).1

def hyperRoot (g : SlhSet) (pkSeed : List Byte) (tree leaf : Nat) (m sig : List Byte) : List Byte :=
  (List.range g.layers).foldl (fun m k =>
    xmssFromSignature g pkSeed (layerPlace g tree leaf k) m
      ((sig.drop (32 * (67 + g.height) * k)).take (32 * (67 + g.height)))) m

/-! ### FORS -/

def forsSecret (skSeed pkSeed : List Byte) (p : SlhPlace) (i : Nat) : List Byte :=
  slhHash pkSeed (slhAddress p 6 p.pair 0 i) skSeed

def forsJoin (pkSeed : List Byte) (p : SlhPlace) (z i : Nat) (m : List Byte) : List Byte :=
  slhHash pkSeed (slhAddress p 3 p.pair z i) m

def forsSign (g : SlhSet) (skSeed pkSeed : List Byte) (p : SlhPlace) (md : List Byte) : List Byte :=
  ((slhDigits g.forsHeight g.forsTrees md).zip (List.range g.forsTrees)).flatMap fun e =>
    forsSecret skSeed pkSeed p (e.2 * 2 ^ g.forsHeight + e.1) ++
      (List.range g.forsHeight).flatMap fun j =>
        slhNode (fun k => forsJoin pkSeed p 0 k (forsSecret skSeed pkSeed p k)) (forsJoin pkSeed p) j
          (e.2 * 2 ^ (g.forsHeight - j) + ((e.1 / 2 ^ j) ^^^ 1))

def forsFromSignature (g : SlhSet) (pkSeed : List Byte) (p : SlhPlace) (md sig : List Byte) : List Byte :=
  slhHash pkSeed (slhAddress p 4 p.pair 0 0)
    (((slhDigits g.forsHeight g.forsTrees md).zip (List.range g.forsTrees)).flatMap fun e =>
      let i := e.2 * 2 ^ g.forsHeight + e.1
      slhClimb (forsJoin pkSeed p) i (forsJoin pkSeed p 0 i ((sig.drop (32 * (1 + g.forsHeight) * e.2)).take 32))
        (slhParts sig ((1 + g.forsHeight) * e.2 + 1) g.forsHeight))

/-! ### Signatures -/

/-- Message digest, tree and leaf of a message under a randomizer. -/
def slhDigest (g : SlhSet) (r pk m : List Byte) : List Byte × Nat × Nat :=
  let a := (g.forsTrees * g.forsHeight + 7) / 8
  let b := (g.height * (g.layers - 1) + 7) / 8
  let c := (g.height + 7) / 8
  let d := shake256 (a + b + c) (r ++ pk ++ m)
  (d.take a, beNat ((d.drop a).take b) % 2 ^ (g.height * (g.layers - 1)), beNat ((d.drop (a + b)).take c) % 2 ^ g.height)

/-- The public key of three 32-byte seeds: secret seed, secret PRF key, public seed. -/
@[irreducible] def slhPublic (g : SlhSet) (seeds : List Byte) : List Byte :=
  let pkSeed := (seeds.drop 64).take 32
  pkSeed ++ xmssNode (seeds.take 32) pkSeed { layer := g.layers - 1, tree := 0, pair := 0 } g.height 0

/-- The deterministic pure signature with an empty context. -/
@[irreducible] def slhSign (g : SlhSet) (seeds message : List Byte) : List Byte :=
  let m := zeros 2 ++ message
  let pkSeed := (seeds.drop 64).take 32
  let r := shake256 32 ((seeds.drop 32).take 32 ++ pkSeed ++ m)
  let (md, tree, leaf) := slhDigest g r (slhPublic g seeds) m
  let p : SlhPlace := { layer := 0, tree := tree, pair := leaf }
  let fors := forsSign g (seeds.take 32) pkSeed p md
  r ++ fors ++ hyperSign g (seeds.take 32) pkSeed tree leaf (forsFromSignature g pkSeed p md fors)

/-- Bytes of a signature. -/
def slhBytes (g : SlhSet) : Nat := 32 * (1 + g.forsTrees * (1 + g.forsHeight) + g.layers * (67 + g.height))

/-- Does a signature verify under a 64-byte public key? -/
@[irreducible] def slhVerify (g : SlhSet) (pk message sig : List Byte) : Bool :=
  let m := zeros 2 ++ message
  let (md, tree, leaf) := slhDigest g (sig.take 32) pk m
  let n := 32 * g.forsTrees * (1 + g.forsHeight)
  let fors := forsFromSignature g (pk.take 32) { layer := 0, tree := tree, pair := leaf } md ((sig.drop 32).take n)
  sig.length == slhBytes g && hyperRoot g (pk.take 32) tree leaf fors (sig.drop (32 + n)) == pk.drop 32

end Sys2Proof.Machine
end

