-- ==== Sys2Proof/Machine/Security.lean ====
section
/-! DEFINITION. Security requests, life cycle, tamper and boot (R261, R262, R424-R436), and the generator's grants and errors
(R417-R422; log entries 37, 38). -/

namespace Sys2Proof.Machine

/-! ### Life cycle (R262, R433, R434) -/

/-- SEALED_REGION_WIPE on both host dies (R262). -/
def wipeBoth (s : State) : State := wipeSealed (wipeSealed s .A) .B

/-- The identity seed: programmed in BLANK, or at the factory; all ones once scrapped (R428, R434). -/
def identitySeed (s : State) : List Byte :=
  if s.sec.seedErased then List.replicate 64 0xFF else s.sec.drawnSeed.getD (exactly 64 Config.identitySeed)

/-- States with an identity (R433). -/
def hasIdentity (s : State) : Bool := s.sec.lifecycle == 1 || s.sec.lifecycle == 2 || s.sec.lifecycle == 3

/-- The identity keys of the seed, which the sealed regions hold where there is an identity (R428, R433). -/
def seedKeys (s : State) : Option IdentityKeys := if hasIdentity s then some (identityKeys (identitySeed s)) else none

/-- Each key block derives its keys into its sealed region (R425 step 5, R428). -/
def deriveKeys (s : State) : State :=
  let k := seedKeys s
  (s.modHost .A fun h => { h with keys := k }).modHost .B fun h => { h with keys := k }

/-- A transition: the wipe, then the new state with one event (R434, R437); the keys that the wipe took are derived again (R428;
DESIGN CHOICE, log entry 38). -/
def moveTo (s : State) (st : Nat) : State :=
  let s := wipeBoth s
  refreshPairs (deriveKeys
    ({ s with sec := { s.sec with lifecycle := st, transitionsLeft := s.sec.transitionsLeft - 1 } }.fire 0x046))

/-- The hall key and its stored copy are destroyed; the pairs go dark (R431, R434). -/
def destroyHallKey (s : State) : State :=
  refreshPairs { s with sec := { s.sec with hallKey := none, hallKeyNext := [], hallStored := [] } }

/-- The identity certificate (R429). -/
def certificate (s : State) : List Byte :=
  let b := natLe 4 1 ++ natLe 2 0x0764 ++ natLe 1 0xA1 ++ zeros 1 ++ exactly 16 Config.serial ++
    exactly 64 (slhPublic slh256f (identityKeys (identitySeed s)).attest) ++
    exactly 1568 (kemPublic (identityKeys (identitySeed s)).kem) ++ shake256 32 Config.manufacturingKey
  b ++ exactly 29792 (Config.certificateSignature b)

/-- The hall key of a blob of 1616 bytes, if it decapsulates and authenticates (R431). -/
def openHallBlob (seeds blob : List Byte) : Option (List Byte) :=
  gcmOpen (kemSecret seeds (blob.take 1568)) (zeros 12) [] ((blob.drop 1568).take 32) ((blob.drop 1600).take 16)

/-! ### Requests (R293, R436) -/

/-- The request that a port's go has given, when it is the one processed: 128 bytes. -/
def secRequest (s : State) (p : Port) : Option (List Byte) :=
  let x := s.port p
  if x.sec.busy && s.sec.secOrder.head? == some p && x.mayRequest && !s.flt.stopped && s.flt.bootStep == 0 && s.flt.resetStep < 4 then
    some (s.read (.untranslated p) x.sec.addr 128)
  else none

/-- End a security request (R293, R440). -/
def secDone (s : State) (p : Port) (code : Nat) : State :=
  let s := { s with sec := { s.sec with secOrder := s.sec.secOrder.drop 1 } }
  (s.modPort p fun x => { x with sec := { x.sec with busy := false, result := code } }).fire (0x084 + portIdx p)

/-- What an op answers: a code, or its effect with the bytes it wrote, or that it needs a draw of the generator. -/
inductive SecRes where
  | fail (code : Nat)
  | done (s : State) (bytes : Nat)
  | draw

/-- Put a request's answer: the byte count at 0x70 on success. -/
def secAnswer (s : State) (p : Port) : SecRes → State
  | .fail code => secDone s p code
  | .done s' bytes => secDone (s'.write (.untranslated p) ((s'.port p).sec.addr + 0x70) (natLe 8 bytes)) p 0
  | .draw =>
    let x := s.ent p
    if x.state == .permanentFault then secDone (consumerError s p) p 0x8E02
    else s.setEnt p { x with waiting := x.waiting ++ [.keyBlock p] }

/-- Run an op on a request; one that waits for its draw stays as it is. -/
def secOp (s : State) (p : Port) (op : Nat) (f : State → List Byte → SecRes) : State :=
  match secRequest s p with
  | none => s
  | some b => if fieldOf b 0 1 != op || (s.ent p).waiting.contains (.keyBlock p) then s else secAnswer s p (f s b)

/-- Is a reserved byte nonzero, given the named ones? The byte count at 0x70 is the module's. -/
def secReserved (b : List Byte) (named : List (Nat × Nat)) : Bool := (reservedIn b ((0, 1) :: (0x70, 8) :: named)).isSome

/-- Does the key block serve (R262), in a module that booted (R426)? -/
def keyBlockServes (s : State) : Bool := !s.sec.keyBlockRefuses && !s.sec.bootFailed

/-- May any request but a scrap be made: the module has an identity, booted, and its record has a transition left (R434)? -/
def mayAsk (s : State) : Bool := hasIdentity s && !s.sec.bootFailed && 0 < s.sec.transitionsLeft

/-- The measurements M0-M7 of a host die (R425). -/
def measurements (s : State) (p : Port) : List (List Byte) := if p == .A then s.sec.measureA else s.sec.measureB

/-- The report that the attestation key signs (R430). -/
def report (s : State) (p : Port) (nonce : List Byte) : List Byte :=
  natLe 4 1 ++ natLe 1 s.sec.lifecycle ++ natLe 1 (portIdx p) ++ natLe 2 s.sec.tamperCount ++ exactly 16 Config.serial ++
    exactly 32 nonce ++ natLe 4 s.sec.fwVersion ++ natLe 1 s.sec.imageSvn ++ natLe 1 s.sec.fuseSvn ++ natLe 1 (bit01 s.sec.slotB) ++
    natLe 1 (entStateCode (s.ent p).state) ++ exactly 512 ((measurements s p).flatMap (exactly 64)) ++
    (match s.sec.hallKey with
      | some k => exactly 32 (shake256 32 k)
      | none => zeros 32) ++ zeros 16

/-- ATTEST (R430). -/
def attestOp (p : Port) (s : State) (b : List Byte) : SecRes :=
  if secReserved b [(8, 16), (0x20, 32)] || fieldOf b 8 8 % 4096 != 0 || fieldOf b 0x10 8 < 50480 then .fail 0x8205
  else if !mayAsk s || !keyBlockServes s then .fail 0x8201
  else match (s.host p).keys with
    | none => .fail 0x8201
    | some k =>
      let r := report s p ((b.drop 0x20).take 32)
      .done (s.write (.untranslated p) (fieldOf b 8 8) (r ++ exactly 49856 (slhSign slh256f k.attest r))) 50480

def execAttest (p : Port) (s : State) : Out := actAlways true s fun s => secOp s p 0x30 (attestOp p)

/-- READ_CERTIFICATE (R429). -/
def certificateOp (p : Port) (s : State) (b : List Byte) : SecRes :=
  if secReserved b [(8, 16)] || fieldOf b 0x10 8 < 31480 then .fail 0x8205
  else if !mayAsk s then .fail 0x8201
  else .done (s.write (.untranslated p) (fieldOf b 8 8) (certificate s)) 31480

def execReadCertificate (p : Port) (s : State) : Out := actAlways true s fun s => secOp s p 0x31 (certificateOp p)

/-- May the port make an op of 0x32-0x37, and has a record that the op moves a transition left (R434, R436)? -/
def mayMove (s : State) (p : Port) (states : List Nat) : Bool :=
  p == .A && states.contains s.sec.lifecycle && 0 < s.sec.transitionsLeft && !s.sec.bootFailed

/-- Store a hall key, encrypted under the wrap key with the initial vector drawn: in use from its effective epoch on, when every
earlier one is destroyed (R431). -/
def putHallKey (s : State) (wrap iv k : List Byte) (e : Nat) : State :=
  let copy := iv ++ gcmSeal wrap iv [] k
  if e ≤ s.opx.frame / 2 ^ 19 then { s with sec := { s.sec with hallKey := some k, hallKeyNext := [], hallStored := [copy] } }
  else
    let before := s.sec.hallKeyNext.filter fun n => n.2 < e
    let kept := s.sec.hallStored.length + before.length - s.sec.hallKeyNext.length
    { s with sec := { s.sec with hallKeyNext := before ++ [(k, e)], hallStored := s.sec.hallStored.take kept ++ [copy] } }

/-- LOAD_HALL_KEY (R431): checked, the initial vector drawn from the generator, and stored. -/
def loadKeyOp (drawn : Option (List Byte)) (p : Port) (s : State) (b : List Byte) : SecRes :=
  if secReserved b [(8, 16)] then .fail 0x8205
  else if p != .A || !mayAsk s || !keyBlockServes s || (s.sec.lifecycle != 1 && s.sec.lifecycle != 2) then .fail 0x8201
  else if s.sec.lifecycle == 1 && !s.qfe.queues.isEmpty then .fail 0x8202
  else match (s.host p).keys with
    | none => .fail 0x8201
    | some own => match openHallBlob own.kem (s.read (.untranslated p) (fieldOf b 8 8) 1616), drawn with
      | none, _ => .fail 0x8204
      | some _, none => .draw
      | some k, some v =>
        let s := if s.sec.lifecycle == 1 then moveTo s 2 else s
        .done (refreshPairs (putHallKey s own.hallWrap (v.take 12) (exactly 32 k) (fieldOf b 0x10 8))) 0

/-- WITHDRAW_HALL_KEY (R434). -/
def withdrawOp (p : Port) (s : State) (b : List Byte) : SecRes :=
  if secReserved b [] then .fail 0x8205
  else if !mayMove s p [2] then .fail 0x8201
  else if !s.qfe.queues.isEmpty then .fail 0x8202
  else .done (destroyHallKey (moveTo s 1)) 0

def execWithdrawHallKey (p : Port) (s : State) : Out := actAlways true s fun s => secOp s p 0x33 (withdrawOp p)

/-- Every store is destroyed with its data, and the dump slots are erased (R434). -/
def destroyStores (s : State) : State :=
  let s := (s.fls.stores.map (·.1)).foldl dropStore s
  let s := (s.clear (.dump 0)).clear (.dump 1)
  { s with fls := { s.fls with dumps := [{}, {}] } }

/-- RETURN (R434). -/
def returnOp (p : Port) (s : State) (b : List Byte) : SecRes :=
  if secReserved b [] then .fail 0x8205
  else if !mayMove s p [1, 2] then .fail 0x8201
  else if !s.qfe.queues.isEmpty then .fail 0x8202
  else .done (destroyStores (destroyHallKey (moveTo s 3))) 0

def execReturnModule (p : Port) (s : State) : Out := actAlways true s fun s => secOp s p 0x34 (returnOp p)

/-- SCRAP (R434): the confirm is bytes 0-7 of the serial; it needs no transition left in the record. -/
def scrapOp (p : Port) (s : State) (b : List Byte) : SecRes :=
  if secReserved b [(8, 8)] then .fail 0x8205
  else if p != .A || !hasIdentity s || s.sec.bootFailed then .fail 0x8201
  else if !s.qfe.queues.isEmpty then .fail 0x8202
  else if (b.drop 8).take 8 != (exactly 16 Config.serial).take 8 then .fail 0x8205
  else
    let s := destroyHallKey (moveTo s 4)
    .done { s with sec := { s.sec with seedErased := true, drawnSeed := none } } 0

def execScrap (p : Port) (s : State) : Out := actAlways true s fun s => secOp s p 0x35 (scrapOp p)

/-- VENDOR_AUTHORISATION (R434): to PROVISIONED, from BLANK with a fresh identity seed, or from RETURNED. -/
def authoriseOp (drawn : Option (List Byte)) (p : Port) (s : State) (b : List Byte) : SecRes :=
  let target := fieldOf b 0x10 1
  if secReserved b [(8, 9)] then .fail 0x8205
  else if !mayMove s p [0, 3] || target != 1 || (s.sec.lifecycle == 0 && s.sec.keyBlockRefuses) then .fail 0x8201
  else if !s.qfe.queues.isEmpty then .fail 0x8202
  else
    let message := exactly 16 Config.serial ++ natLe 1 s.sec.lifecycle ++ natLe 1 target
    if !slhVerify slh256s Config.manufacturingKey message (s.read (.untranslated p) (fieldOf b 8 8) 29792) then .fail 0x8203
    else if s.sec.lifecycle == 3 then .done (moveTo s 1) 0
    else match drawn with
      | none => .draw
      | some seed => .done (moveTo { s with sec := { s.sec with drawnSeed := some seed } } 1) 0

/-- COMMIT_SVN (R427). -/
def commitOp (p : Port) (s : State) (b : List Byte) : SecRes :=
  if secReserved b [] then .fail 0x8205
  else if p != .A || !mayAsk s then .fail 0x8201
  else if 64 ≤ s.sec.fuseSvn then .fail 0x8104
  else .done { s with sec := { s.sec with fuseSvn := max s.sec.fuseSvn s.sec.imageSvn } } 0

def execCommitSvn (p : Port) (s : State) : Out := actAlways true s fun s => secOp s p 0x37 (commitOp p)

/-- SECURITY_REQUEST_INVALID: an undefined op (R436). -/
def execSecurityRequestInvalid (p : Port) (s : State) : Out :=
  actAlways true s fun s =>
    match secRequest s p with
    | none => s
    | some b => if fieldOf b 0 1 < 0x30 || 0x37 < fieldOf b 0 1 then secDone s p 0x8205 else s

/-- A draw for the request under way: served at once when the generator can, else the request waits (R417-R419). -/
def drawFor (s : State) (p : Port) (op : Nat) (f : Option (List Byte) → State → List Byte → SecRes) : State :=
  secOp s p op fun s b => match f none s b with
    | .draw =>
      if canServe (s.ent p) then
        let r := drawBytes s p
        f (some r.1) r.2 b
      else .draw
    | r => r

def execLoadHallKey (p : Port) (s : State) : Out :=
  actAlways true s fun s => drawFor s p 0x32 fun d => loadKeyOp d p

def execVendorAuthorisation (p : Port) (s : State) : Out :=
  actAlways true s fun s => drawFor s p 0x36 fun d => authoriseOp d p

/-! ### Grants and errors (R417-R422) -/

/-- The op that waited for its draw goes on (R431, R434). -/
def keyBlockServed (s : State) (p : Port) (v : List Byte) : State :=
  match secRequest s p with
  | none => s
  | some b =>
    if fieldOf b 0 1 == 0x32 then secAnswer s p (loadKeyOp (some v) p s b)
    else if fieldOf b 0 1 == 0x36 then secAnswer s p (authoriseOp (some v) p s b)
    else s

/-- Serve a request with 64 drawn bytes: 512 bits, one nonce of 256, or one seed of 64 (R417). -/
def serveRequest (s : State) (v : List Byte) : EntRequest → State
  | .keyBlock p => keyBlockServed s p v
  | .linkNonce d n => giveNonce s (pairKey d n) (v.take 32)
  | .runSeed l => match tblFind s.spin.launches l with
    | some x => s.setLaunch l { x with seedSent := some (BitVec.ofNat 64 (leNat (v.take 8))) }
    | none => s

/-- GENERATOR_GRANT (R418): requests that no longer stand are dropped. -/
def execGeneratorGrant (h : Port) (s : State) : Out :=
  actAlways true s fun s =>
    let s := s.setEnt h { s.ent h with waiting := (s.ent h).waiting.filter (requestStands s) }
    match nextRequest (s.ent h).waiting with
    | none => s
    | some r =>
      if !canServe (s.ent h) || s.flt.stopped then s
      else
        let d := drawBytes (takeRequest s h r) h
        serveRequest d.2 d.1 r

/-- A hardware request receives its error (R421). -/
def requestError (h : Port) (s : State) (r : EntRequest) : State :=
  let s := consumerError (takeRequest s h r) h
  match r with
  | .keyBlock p => secDone s p 0x8E02
  | .linkNonce d n => s.modPair (pairKey d n) fun x => { x with nonceDue := true }
  | .runSeed l => faultCmdOpen s l 0x8E01

/-- ENTROPY_STALL_TIMEOUT: the request that has waited longest since a failure receives an error (R421), once the generator has been
instantiated (R419). -/
def execEntropyStallTimeout (h : Port) (s : State) : Out :=
  actAlways true s fun s =>
    let s := s.setEnt h { s.ent h with waiting := (s.ent h).waiting.filter (requestStands s) }
    match (s.ent h).waiting with
    | r :: _ => if (s.ent h).state == .restarting && (s.ent h).begun && !s.flt.stopped then requestError h s r else s
    | [] => s

/-- The generator's output stops and its state is zero (R420 steps 1 and 2, R435 step 2). -/
def zeroGenerator (s : State) (h : Port) : State :=
  s.setEnt h { s.ent h with instantiated := false, drbg := [], requests := 0, reserve := none, reseedDue := false, softBits := [] }

/-- Count a health-test failure (R437). -/
def countHealth (s : State) (h : Port) : State :=
  let r := statUp (s.ent h).healthFail 1
  let s := s.setEnt h { s.ent h with healthFail := r.1 }
  if r.2 then s.fire (entSource h) else s

/-- PERMANENT_FAULT (R422): logged, one event, every waiting request answered with its error. -/
def permanentFault (s : State) (h : Port) : State :=
  let s := setEntState (logOnDie s 0x8E10 (hostDieIdx h) (hostDieIdx h)) h .permanentFault
  ((s.ent h).waiting.filter (requestStands s)).foldl (requestError h) s

/-- A health test of a source that runs fails: the generator stops, and the source restarts or is in permanent fault (R420, R422). -/
def healthFailure (s : State) (h : Port) (proportion startUp : Bool) : State :=
  let x := s.ent h
  if x.state == .permanentFault || !s.mgmt.powerGood then s
  else
    let s := countHealth (zeroGenerator s h) h
    let s := s.setEnt h { s.ent h with conditioning := false, failures := x.failures + 1 }
    let s := logOnDie s 0x8E11 ((if proportion then 2 else 1) + 256 * bit01 startUp) (hostDieIdx h)
    if 3 ≤ x.failures + 1 then permanentFault s h else setEntState s h .restarting

/-- HEALTH_TEST_FAILURE: a test fails on samples that make up no start-up test or block (R420). -/
def execHealthTestFailure (h : Port) (proportion startUp : Bool) (s : State) : Out :=
  actAlways true s fun s => healthFailure s h proportion startUp

/-- SOURCE_START: both tests run on the 1024 samples of the start-up test; passed, conditioning begins with the sample after them
(R414). -/
def execSourceStart (h : Port) (samples : Vector Byte 128) (s : State) : Out :=
  actAlways true s fun s =>
    let x := s.ent h
    if x.conditioning || !s.mgmt.powerGood || (x.state != .starting && x.state != .restarting) then s
    else
      let w := sourceHealth { x with lastSample := none, sampleRun := 0 } samples
      match w.failed with
      | some proportion => healthFailure s h proportion true
      | none => s.setEnt h { x.tested w with conditioning := true }

/-- ENTROPY_BLOCK_READY: the next 1024 samples; once they have passed both tests they form a block (R413, R415). -/
def execEntropyBlockReady (h : Port) (samples : Vector Byte 128) (s : State) : Out :=
  actAlways true s fun s =>
    let x := s.ent h
    if !x.conditioning || x.state == .permanentFault || !s.mgmt.powerGood then s
    else
      let w := sourceHealth x samples
      match w.failed with
      | some proportion => healthFailure s h proportion false
      | none => setEntState (s.setEnt h (takeBlock (x.tested w) h (sha3 samples.toList))) h .ready

/-! ### Tamper (R435) -/

/-- The event codes of asserting inputs, each logged with all of them as detail. -/
def logTamper (s : State) (inputs : Nat) : State :=
  (List.range 4).foldl (fun s k => if bit inputs k then logPlain s (0x8301 + k) inputs else s) s

/-- A cipher's registers are zero. -/
def zeroCipher (s : State) (k : Nat) : State :=
  s.modPair k fun x => { x with keys := [], ownNonce := none, peerNonce := none }

/-- The MAC of a tamper record under the record MAC key of the seed (R435; its form and what it is over are DESIGN CHOICE, log entry
38). -/
def tamperMacOf (s : State) (count inputs : Nat) : List Byte :=
  shake256 32 ((identityKeys (identitySeed s)).record ++ natLe 2 count ++ natLe 1 inputs)

/-- Keep a tamper record with its MAC. -/
def keepTamper (s : State) (count inputs : Nat) : State :=
  { s with sec := { s.sec with tamperCount := count, tamperInputs := inputs, tamperMac := some (tamperMacOf s count inputs) } }

/-- The tamper record as power-on reads it from the flash reserved area: one whose MAC fails reads as count 0xFFFF (R435). -/
def readTamper (s : State) (found : Option TamperRecord) : State :=
  match s.sec.tamperMac, hasIdentity s with
  | some mac, true =>
    let r := found.getD { count := s.sec.tamperCount, inputs := s.sec.tamperInputs, mac := mac }
    { s with sec := { s.sec with tamperCount := if r.mac == tamperMacOf s r.count r.inputs then r.count else 0xFFFF,
                                 tamperInputs := r.inputs } }
  | _, _ => s

/-- TAMPER_EVENT: logged only in BLANK, ignored in SCRAPPED (R435). -/
def tamper (s : State) (inputs : Nat) : State :=
  if inputs % 16 == 0 || !s.mgmt.powerGood || s.sec.lifecycle == 4 then s
  else if s.sec.lifecycle == 0 then logTamper s inputs
  else
    let s := allPairs.foldl zeroCipher (zeroGenerator (zeroGenerator (wipeBoth s) .A) .B)
    let s := logTamper s inputs
    let count := if s.sec.tamperCount == 0xFFFF then 0xFFFF else min 0xFFFE (s.sec.tamperCount + 1)
    let mesh := bit inputs 0
    let s := keepTamper s count (inputs % 16)
    let s := if mesh then
        { s with sec := { s.sec with
            hallKey := none, hallKeyNext := [], hallStored := [],
            meshTampered := s.sec.meshTampered || s.sec.lifecycle == 2 } }
      else s
    fatal s 0xF801 (noDetail 0xF801)

def execTamperEvent (inputs : Nat) (s : State) : Out := actAlways (decide (inputs < 16)) s fun s => tamper s inputs

/-! ### Boot (R424-R426) -/

/-- The most payload bytes of an image: 16 MiB less its header and signature (R424). -/
def maxPayload : Nat := 2 ^ 24 - 256 - 29792

/-- The header and payload of the image in a slot, what its signature is over (R424). -/
def imageSigned (slot : List Byte) : List Byte := exactly (256 + fieldOf slot 0xC 4) slot
def imageVersion (slot : List Byte) : Nat := fieldOf slot 4 4
def imageSvn (slot : List Byte) : Nat := fieldOf slot 8 1

/-- Is a slot a candidate: its magic, and its svn at least the fuse svn (R424, R425 step 1)? -/
def candidate (s : State) (slot : List Byte) : Bool :=
  fieldOf slot 0 4 == 0x57464D56 && s.sec.fuseSvn ≤ imageSvn slot && imageSvn slot ≤ 64

/-- Does a candidate pass: the signer's digest and the signature over header and payload (R424, R425 step 2)? -/
def imagePasses (slot : List Byte) : Bool :=
  let pk := exactly 64 (slot.drop 0x10)
  fieldOf slot 0xC 4 ≤ maxPayload && shake256 32 pk == Config.firmwareKeyDigest &&
    slhVerify slh256s pk (imageSigned slot) (exactly 29792 (slot.drop (256 + fieldOf slot 0xC 4)))

/-- The candidates in the order they are tried: higher version first, slot A on a tie. -/
def bootOrder (s : State) (r : FlashReading) : List (Bool × List Byte) :=
  let l := if imageVersion r.slotA < imageVersion r.slotB then [(true, r.slotB), (false, r.slotA)]
    else [(false, r.slotA), (true, r.slotB)]
  l.filter fun e => candidate s e.2

/-- A host die tries the candidates; each slot it rejects is logged. -/
def tryImages (h : Nat) (s : State) : List (Bool × List Byte) → State × Option (Bool × List Byte)
  | [] => (s, none)
  | e :: t => if imagePasses e.2 then (s, some e) else tryImages h (logOnDie s 0x8103 (bit01 e.1) h) t

/-- The measurements of a boot: the ROM, the image, its components; the rest stay zero (R425). -/
def bootMeasures (slot : List Byte) : List (List Byte) :=
  [exactly 64 Config.romDigest, exactly 64 (shake256 64 (imageSigned slot)),
   (Config.componentDigests ((imageSigned slot).drop 256)).foldl (fun m d => exactly 64 (shake256 64 (m ++ d))) (zeros 64)] ++
    List.replicate 5 (zeros 64)

/-- The functions answer: both links come up unless PERST# holds one down, and boot is over. -/
def bootDone (s : State) : State :=
  let s := { s with flt := { s.flt with bootStep := 0, resetStep := 0 } }
  (s.modPort .A fun x => { x with linkUp := true }).modPort .B fun x => { x with linkUp := true }

/-- Boot-failed (R426). -/
def bootFail (s : State) : State :=
  bootDone (logPlain { s with sec := { s.sec with bootFailed := true }, hostA := { s.hostA with keys := none },
                              hostB := { s.hostB with keys := none } } 0x8101 (noDetail 0x8101))

/-- BOOT (R425), while a reset or power-on waits for it and the SPI bus is the module's (R510): each host die boots from its own
reading, and their images' digests must be equal. -/
def boot (s : State) (r0 r1 : FlashReading) : State :=
  if s.flt.bootStep == 0 || !s.mgmt.holdoffHigh || !s.mgmt.powerGood || s.flt.stopped then s
  else
    let a := tryImages 62 s (bootOrder s r0)
    let b := tryImages 63 a.1 (bootOrder s r1)
    let s := b.1
    match a.2, b.2 with
    | some x, some y =>
      if bootMeasures x.2 != bootMeasures y.2 then bootFail (logPlain s 0x8102 (noDetail 0x8102))
      else
        let s := deriveKeys (wipeBoth s)
        let s := { s with sec := { s.sec with bootFailed := false, slotB := x.1, imageSvn := imageSvn x.2,
                                              fwVersion := imageVersion x.2, measureA := bootMeasures x.2,
                                              measureB := bootMeasures y.2 } }
        refreshPairs (bootDone s)
    | _, _ => bootFail s

def execBoot (byH0 byH1 : FlashReading) (s : State) : Out := actAlways true s fun s => boot s byH0 byH1

end Sys2Proof.Machine
end

