-- ==== Sys2Proof/Machine/Events.lean ====
section
/-! DEFINITION. The event controllers of the host dies, host-facing causes and MSI-X vectors (R439-R456; DEDUCED, log entry 39). -/

namespace Sys2Proof.Machine

/-- Change one controller; a source presented before that is no longer pending leaves the spurious number (R450). -/
def onController (s : State) (h : Port) (f : HostDie → HostDie) : State :=
  s.modHost h fun x => withdraw x (f x)

/-- The source numbers 32k + b whose bit is set in a word. -/
def wordSources (k word : Nat) : List Nat := ((List.range 32).filter fun b => bit word b).map (32 * k + ·)

/-- EVENT_MESSAGE: a message source fires (R439, R441). -/
def execEventMessage (n : Nat) (s : State) : Out :=
  actAlways (decide (n < 1024)) s fun s => if isWireSource n then s else s.fire n

/-! ### Wires (R441) -/

/-- The samples a filter wants: 0 is treated as 1. -/
def filterOf (x : Source) : Nat := if x.filter == 0 then 1 else x.filter

/-- A level source whose wire rises: in native mode 1 is added to the count, in both modes pending follows the wire (R441); while its
core sleeps it is latched, and a further rise merges (R452). -/
def levelRise (h : HostDie) (n : Nat) : HostDie :=
  let x := getSrc h n
  if (getCore h x.core).asleep then setSrc h n { x with latch := true }
  else coalesceFire (if x.compat then h else setSrc h n { x with count := min 0xFFFF (x.count + 1) }) n false

/-- A wire seen at a level for a number of samples, at one controller; did the source fire? -/
def wireAt (n : Nat) (high : Bool) (samples : Nat) (h : HostDie) : HostDie × Bool :=
  let x := getSrc h n
  let rise := high && !x.wire
  let passed := decide (filterOf x ≤ samples)
  let y := { x with wire := high, filtered := if passed then high else x.filtered }
  let h1 := setSrc h n y
  if x.level then
    if rise then (levelRise h1 n, true) else (withdraw h h1, false)
  else if passed && high && !x.filtered then (fireSource h1 n, true)
  else (h1, false)

/-- WIRE_SOURCE_CHANGE: each controller senses the wire as it is configured, and the port of its die hears of a fire (R441,
R450, R453). -/
def execWireSourceChange (n : Nat) (high : Bool) (samples : Nat) (s : State) : Out :=
  actAlways (decide (n < 1024)) s fun s =>
    if !isWireSource n then s
    else
      let a := wireAt n high samples s.hostA
      let b := wireAt n high samples s.hostB
      let s := { s with hostA := a.1, hostB := b.1 }
      let s := if a.2 then hostForward s .A n else s
      if b.2 then hostForward s .B n else s

/-! ### Claim and completion (R443, R444, R448-R450) -/

/-- Where a source's handler lies: the class's base and 64 bytes a source (R448). -/
def vectorOf (c : Core) (fast : Bool) (n : Nat) : Nat := (if fast then c.vbaseF else c.vbaseN) * 2 ^ 16 + 64 * n

/-- The claim of a presentation: the source becomes active, the core jumps to its vector, for a fast one in its fast bank. -/
def claim (h : HostDie) (c n : Nat) (fast : Bool) : HostDie :=
  let k := getCore h c
  let k := { k with pc := vectorOf k fast n }
  let k := if fast then { k with claimedFast := n, fastBank := true } else { k with claimedNormal := n }
  let h := setCore h c k
  if n == 0x3FF then h
  else
    let x := getSrc h n
    setSrc h n { x with active := true, pending := if x.compat then false else x.pending }

/-- EVENT_CLAIM: a core claims what is presented to it in a class. -/
def execEventClaim (h : Port) (core : Nat) (fast : Bool) (s : State) : Out :=
  actAlways (isCore core) s fun s =>
    match presented (s.host h) core with
    | some (n, f) => if f == fast then s.modHost h fun x => claim x core n fast else s
    | none => s

/-- EVC_CLAIMED shows no claim of a source any more; a fast completion returns to the normal bank (R449). -/
def dropClaim (k : Core) (n : Nat) : Core :=
  if k.claimedFast == n then { k with claimedFast := 0x3FF, fastBank := false }
  else if k.claimedNormal == n then { k with claimedNormal := 0x3FF }
  else k

/-- A completion: of the spurious number, or of a source active on the core; any other is ignored (R449, R450). -/
def complete (h : HostDie) (c n : Nat) : HostDie :=
  let k := getCore h c
  if n == 0x3FF then
    if k.spuriousFast then setCore h c { k with spuriousFast := false, fastBank := false }
    else setCore h c { k with spuriousNormal := false }
  else
    let x := getSrc h n
    if k.claimedFast == n || k.claimedNormal == n then setCore (setSrc h n { x with active := false }) c (dropClaim k n) else h

def execEventComplete (h : Port) (core n : Nat) (s : State) : Out :=
  actAlways (isCore core && decide (n < 1024)) s fun s => s.modHost h fun x => complete x core n

/-! ### Counts, masks, pending (R443, R445) -/

/-- What a read of EVC_COUNT_n returns: a compatibility source reads 0 (R443, R444). -/
def countOf (x : Source) : Nat := if x.compat then 0 else x.count

/-- A read of EVC_COUNT_n clears the count (R443). -/
def clearCount (n : Nat) (h : HostDie) : HostDie :=
  if (getSrc h n).compat then h else setSrc h n { getSrc h n with count := 0 }

/-- The count is returned and cleared; an aligned 64-bit read returns and clears two counts at once (R14, R443, R489). -/
def takeCount (s : State) (h : Port) (n : Nat) (wide : Bool) : State :=
  let low := countOf (getSrc (s.host h) n)
  if wide then
    let high := countOf (getSrc (s.host h) (n + 1))
    { onController s h (fun y => clearCount (n + 1) (clearCount n y)) with reply := low + 2 ^ 32 * high }
  else { onController s h (clearCount n) with reply := low }

/-- A BAR0 read of a count: it reads zero and clears nothing where the module's state lets no read of the window through (R493), and
all ones on a die without power (R491). -/
def hostCountRead (s : State) (h : Port) (n : Nat) (wide : Bool) : State :=
  if !readAllowed s (0x1000000 + hostDieIdx h * 0x80000) then { s with reply := 0 }
  else if !(s.die (hostDieIdx h)).powered then { s with reply := if wide then 2 ^ 64 - 1 else 2 ^ 32 - 1 }
  else takeCount s h n wide

/-- EVC_COUNT_READ by a management core of the die, or through a port (R443, R498). -/
def execEvcCountRead (h : Port) (n : Nat) (read : CountRead) (s : State) : Out :=
  actAlways (decide (n < 1024) && (!read.wide || n % 2 == 0)) s fun s =>
    match read.host with
    | some p => overBar p (fun s => hostCountRead s h n read.wide) s
    | none => if (s.die (hostDieIdx h)).powered then takeCount s h n read.wide else s

/-- Mask or unmask the sources of a word (R445). -/
def maskWord (h : HostDie) (k word : Nat) (m : Bool) : HostDie :=
  (wordSources k word).foldl (fun y n => setSrc y n { getSrc y n with masked := m }) h

def execEvcMaskSet (h : Port) (k word : Nat) (s : State) : Out :=
  actAlways (isWordOf32 k && isWord word) s fun s => s.modHost h fun x => maskWord x k word true

def execEvcMaskClr (h : Port) (k word : Nat) (s : State) : Out :=
  actAlways (isWordOf32 k && isWord word) s fun s => s.modHost h fun x => maskWord x k word false

/-- Each source named fires once, as every source does at both controllers (R439, R445). -/
def pendSet (s : State) (k word : Nat) : State := (wordSources k word).foldl State.fire s

/-- EVC_PEND_SET (R445). -/
def execEvcPendSet (_h : Port) (k word : Nat) (s : State) : Out :=
  actAlways (isWordOf32 k && isWord word) s fun s => pendSet s k word

/-- A source's native count or compatibility pending bit is cleared (R445). -/
def pendClear (y : HostDie) (n : Nat) : HostDie :=
  let x := getSrc y n
  setSrc y n (if x.compat then { x with pending := false } else { x with count := 0 })

def execEvcPendClr (h : Port) (k word : Nat) (s : State) : Out :=
  actAlways (isWordOf32 k && isWord word) s fun s => onController s h fun x => (wordSources k word).foldl pendClear x

/-! ### Coalescing and sleep (R451, R452) -/

/-- COALESCE_INTERVAL_EXPIRY: an interval of 0 means no timer (registers of 15). -/
def execCoalesceIntervalExpiry (h : Port) (core : Nat) (s : State) : Out :=
  actAlways (isCore core) s fun s =>
    if (getCore (s.host h) core).coalInterval == 0 || !(s.host h).sources.any (fun e => e.2.core == core && e.2.held) then s
    else s.modHost h fun x => releaseHeld x core

/-- CORE_SLEEP: only with no source active on the core (R452). -/
def execCoreSleep (h : Port) (core : Nat) (s : State) : Out :=
  actAlways (isCore core) s fun s =>
    s.modHost h fun x =>
      let k := getCore x core
      if k.claimedFast != 0x3FF || k.claimedNormal != 0x3FF then x else setCore x core { k with asleep := true }

/-- Apply each latch of a core's sources as one fire (R452). -/
def applyLatches (h : HostDie) (c : Nat) : HostDie :=
  (h.sources.filter fun e => e.2.core == c && e.2.latch).foldl (fun y e =>
    let y := setSrc y e.1 { getSrc y e.1 with latch := false }
    if isWireSource e.1 && e.2.level then levelRise y e.1 else fireAwake y e.1) h

/-- CORE_WAKE: a latched source that is unmasked wakes the core (R452). -/
def execCoreWake (h : Port) (core : Nat) (s : State) : Out :=
  actAlways (isCore core) s fun s =>
    s.modHost h fun x =>
      if (getCore x core).asleep && x.sources.any fun e => e.2.core == core && e.2.latch && !e.2.masked then
        applyLatches (setCore x core { getCore x core with asleep := false }) core
      else x

/-- LOCAL_TIMER_COMPARE (R440). -/
def execLocalTimerCompare (_h : Port) (core : Nat) (s : State) : Out :=
  actAlways (isCore core) s fun s => s.fire (0x240 + core)

/-! ### Causes (R442, R453) -/

/-- EVC_HOST_CAUSE_CLEAR: RW1C (R453). -/
def hostCauseClear (s : State) (p : Port) (k word : Nat) : State :=
  s.modPort p fun x =>
    let v := tblGet 0 x.hostCause k
    { x with hostCause := tblSet 0 x.hostCause k (v - (v &&& word)) }

def execEvcHostCauseClear (p : Port) (k word : Nat) (s : State) : Out :=
  act (isWordOf32 k && isWord word) s <| overBar p fun s => hostCauseClear s p k word

/-- DIE_CAUSE_CLEAR: firmware's RW1C write (R442). -/
def execDieCauseClear (d word : Nat) (s : State) : Out :=
  actAlways (isDie d) s fun s => s.modDie d fun x => { x with cause := x.cause &&& ~~~(BitVec.ofNat 7 word) }

/-! ### MSI-X vectors (R455, R456) -/

/-- MSIX_COALESCE_EXPIRY: the message for the triggers that wait; with MSI-X Enable 0 they are discarded (R455, R456). -/
def execMsixCoalesceExpiry (p : Port) (v : Nat) (s : State) : Out :=
  actAlways (decide (v < 2048)) s fun s =>
    let x := s.port p
    let m := tblGet {} x.msix v
    if m.triggers == 0 then s
    else if x.msixEnable then msixSend s p v
    else s.setPort p { x with msix := tblSet {} x.msix v { m with triggers := 0 } }

/-- Set a vector's mask; unmasking one whose pending bit is set sends its message (R456). -/
def setVectorMask (s : State) (p : Port) (v : Nat) (m : Bool) : State :=
  let x := s.port p
  let y := tblGet {} x.msix v
  let go := !m && y.pending && x.msixEnable && !x.funcMask && x.mayRequest
  let s := s.setPort p { x with msix := tblSet {} x.msix v { y with masked := m, pending := y.pending && !go } }
  if go then msixSend s p v else s

/-- MSIX_VECTOR_UNMASK (R456). -/
def execMsixVectorUnmask (p : Port) (v : Nat) (s : State) : Out :=
  act (decide (v < 2048)) s <| overBar p fun s => setVectorMask s p v false

end Sys2Proof.Machine
end

