-- ==== Sys2Proof/Machine/Frames.lean ====
section
/-! DEFINITION. Frames, slips, links and hall timing (R351-R375, R385-R388, R407, R421, R432), and the OPX registers that
have a row of their own. -/

namespace Sys2Proof.Machine

/-! ### The frame boundary: number, source, keys, transom (R360, R365, R432) -/

/-- The frame number moves on; after a relock to another number it takes that and breaks the cascade (R359, R360). -/
def nextFrame (s : State) : State :=
  match s.opx.relockFrame with
  | none => { s with opx := { s.opx with frame := s.opx.frame + 1 } }
  | some n =>
    let behind := s.opx.frame - s.opx.schedFrame
    let s := { s with opx := { s.opx with frame := n, relockFrame := none, schedFrame := n - 1 - behind, checked := 0, slips := [] } }
    breakCascade (logPlain s 0x1046 (noDetail 0x1046))

/-- A change of the marker source is made at a frame boundary; taking X3 is logged (R360). -/
def switchSource (s : State) : State :=
  match s.opx.switchTo with
  | none => s
  | some x3 =>
    let s := { s with opx := { s.opx with sourceX3 := x3, switchTo := none } }
    if x3 then logPlain s 0x1044 (noDetail 0x1044) else s

/-- After four good markers the frame start moves by at most 2 ns a frame, until it is within 1 ns (R360). -/
def moveStart (s : State) : State :=
  let o := s.opx
  if (o.timing == .holdover || o.timing == .degraded) && (4 ≤ o.goodX0 || 4 ≤ o.goodX3) then
    let s := { s with opx := { o with phasePs := o.phasePs - 2000 } }
    if o.phasePs - 2000 ≤ 1000 then setTiming { s with opx := { s.opx with holdoverLeft := 0 } } .aligned else s
  else s

/-- One frame of holdover passes (R359). -/
def holdoverTick (s : State) : State :=
  if s.opx.timing == .holdover then { s with opx := { s.opx with holdoverLeft := s.opx.holdoverLeft - 1 } } else s

/-- Flows of the new bank: broken while they have entries on a fenced pair; a claimed flow without entries faults (R365,
R386). -/
def flowsAfterTransom (s : State) : State :=
  s.opx.flows.foldl (fun s e =>
    let es := flowEntries s e.1
    let bad := es.any fun x => (s.pair (entryPair x)).state == .fenced
    let s := s.setFlow e.1 { s.flow e.1 with broken := bad }
    if (es.isEmpty || bad) && e.2.command.isSome then breakFlow s e.1 else s) s

/-- The pending bank in force, with the streams that go on over it (R365 step 3). -/
def exchangeBanks (s : State) : State :=
  moveStreams { s with opx := { s.opx with active := s.opx.pendingBank, pendingBank := {}, armed := false, transom := 0,
                                           acked := [], loaded := [] } }

/-- TRANSOM: pending and active exchange before frame T; the old bank is cleared (R365 step 3). -/
def transom (s : State) : State :=
  if s.opx.armed && s.opx.transom ≤ s.opx.frame then flowsAfterTransom (exchangeBanks s) else s

/-- A running arm command of the lead. -/
def armCommand (s : State) : Option Nat :=
  (s.cmds.find? fun e => dOpcode e.2.desc == 0x96 && e.2.stage == .running).map (·.1)

/-- Every member must have acknowledged before frame T - 2, else the arm is taken back (R365 step 2; DEDUCED, log entry 35). -/
def armDeadline (s : State) : State :=
  match armCommand s with
  | some c =>
    if s.opx.armed && s.opx.transom ≤ s.opx.frame + 2 then faultCmdOpen (disarm (tellMembers s .disarm)) c 0x1908 else s
  | none => s

/-- The hall key of an epoch: the new one from its effective epoch on, when the old one is destroyed with its stored copy; pairs that
were dark for want of a key come up (R431, R432). -/
def hallKeyChange (s : State) : State :=
  match s.sec.hallKeyNext with
  | (k, e) :: t =>
    if e ≤ s.opx.frame / 2 ^ 19 then
      refreshPairs { s with sec := { s.sec with
        hallKey := some k, hallKeyNext := t, hallStored := s.sec.hallStored.drop (s.sec.hallStored.length - (t.length + 1)) } }
    else s
  | [] => s

/-- KEY_CHANGE of a pair: the keys of the new epoch when both nonces have arrived, else the pair is fenced (R432). A pair
whose epoch is new because the frame number was adopted starts with the boot keys (DESIGN CHOICE, log entry 34). A key block that
refuses service derives no key (R262). -/
def keyChange (s : State) (k : Nat) : State :=
  let x := s.pair k
  let e := s.opx.frame / 2 ^ 19
  if !x.live || x.keyEpoch == some e then s
  else if s.sec.keyBlockRefuses then fencePair s k true
  else
    let fresh := (x.keyEpoch.map (· + 1)) == some e && s.opx.frame % 2 ^ 19 == 0
    match x.ownNonce, x.peerNonce with
    | some (a, own), some (b, peer) =>
      if a == e && b == e then s.modPair k (Pair.takeKeys (linkKeys s k e own peer))
      else if fresh then fencePair s k true else s.modPair k (Pair.takeKeys (bootKeys s k e))
    | _, _ => if fresh then fencePair s k true else s.modPair k (Pair.takeKeys (bootKeys s k e))

/-- From 2^16 frames before the next epoch on, each end gets and sends its nonce (R432). -/
def nonceTime (s : State) (k : Nat) : State :=
  let x := s.pair k
  if x.live && (x.ownNonce.map (·.1)) != some (nextEpoch s) && !x.nonceDue && nextEpoch s * 2 ^ 19 ≤ s.opx.frame + 2 ^ 16 then
    askNonce s k
  else s

/-! ### Slips (R369, R370, R374, R407) -/

/-- Is this frame a slip frame? -/
def slipping (s : State) : Bool := s.opx.slips.contains s.opx.frame

/-- Past slip frames are forgotten; a slip frame carries no schedule frame (R374). -/
def takeSlip (s : State) : State :=
  let s := { s with opx := { s.opx with slips := s.opx.slips.filter fun f => s.opx.frame ≤ f } }
  if slipping s then countSlip s else { s with opx := { s.opx with schedFrame := s.opx.schedFrame + 1 } }

/-- Does the louvre of a collective engine on a die marked hold make a flow's slots not ready (R407 step 4)? -/
def louvreSlips (s : State) (flow : Nat) : Bool :=
  match (s.flow flow).command.bind s.cmd? with
  | some x => match s.queue? x.queue with
    | some q => q.engines.any fun e => (s.die (engineDie e)).hold &&
        ((List.range 16).any fun i => (s.eng (16 * engineDie e + i)).louvre < 16 &&
          s.cmds.any fun c => onFlow (dOpcode c.2.desc) && match s.queue? c.2.queue with
            | some k => k.engines.contains (16 * engineDie e + i)
            | none => false)
    | none => false
  | none => false

/-- The schedule frames that this and the coming physical frames carry, up to a frame, by the slips known (R364, R374). -/
def carried (s : State) (last : Nat) : List (Nat × Nat) :=
  ((List.range (last + 1 - s.opx.frame)).foldl (fun (a : Nat × List (Nat × Nat)) i =>
    let f := s.opx.frame + i
    if s.opx.slips.contains f then a
    else
      let t := if i == 0 then s.opx.schedFrame else a.1 + 1
      (t, a.2 ++ [(f, t)])) (s.opx.schedFrame, [])).2

/-- The module as it stands in a coming physical frame: after an armed transom that lies before it (R365). -/
def bankAt (s : State) (f : Nat) : State := if s.opx.armed && s.opx.transom ≤ f then exchangeBanks s else s

/-- The occurrences of coming physical frames, in order. -/
def coming (s : State) (l : List (Nat × Nat)) : List (Nat × SchedEntry) :=
  l.flatMap fun f => occurrences (bankAt s f.1).opx.active f.2

/-- Payload bytes that a stream's occurrences take. -/
def bytesBefore (s : State) (k : Nat) (before : List (Nat × SchedEntry)) : Nat :=
  ((before.filter fun x => x.2.transmit && occStream s x == k).map (·.2.cap)).sum

/-- Is a transmit occurrence ready (R369, R407)? A pair that is fenced or dark sends nothing. -/
def txReady (s : State) (before : List (Nat × SchedEntry)) (x : Nat × SchedEntry) : Bool :=
  !(s.pair (entryPair x)).live || (!louvreSlips s x.2.flow && txFilled s (bytesBefore s (occStream s x) before) x)

/-- Has the receive store of an occurrence's die room for it beside what comes before it (R369)? -/
def rxReady (s : State) (before : List (Nat × SchedEntry)) (x : Nat × SchedEntry) : Bool :=
  storeBytes s x.1 + ((before.filter fun y => !y.2.transmit && y.1 == x.1).map (·.2.cap)).sum + x.2.cap ≤ 16 * 2 ^ 20

/-- Is every occurrence ready, given those before it? -/
def allReady (s : State) : List (Nat × SchedEntry) → List (Nat × SchedEntry) → Bool
  | _, [] => true
  | before, x :: rest =>
    (if x.2.transmit then txReady s before x else rxReady s before x) && allReady s (before ++ [x]) rest

/-- SLIP_CHECK: the schedule frame that frame f + L carries by the slips known (R370). -/
def slipCheck (s : State) : State :=
  let last := s.opx.frame + s.opx.slipLead
  let l := carried s last
  match l.getLast? with
  | none => s
  | some (f, t) =>
    if f != last || t ≤ s.opx.checked then s
    else
      let at_ := bankAt s last
      if allReady at_ (coming s (l.dropLast)) (occurrences at_.opx.active t) then { s with opx := { s.opx with checked := t } }
      else { s with opx := { s.opx with slips := s.opx.slips ++ [last] } }

/-! ### Codewords and messages of a pair (R350-R353, R356) -/

/-- Send a codeword at a position of this frame, on the wavelengths of the pair. -/
def sendWord (s : State) (k pos : Nat) (w : Codeword) : State :=
  s.send (.codeword (k / 24) (k % 24) pos s.opx.frame (stripe (s.pair k).txSpare (encodeWord w)))

/-- Send the codewords of an occurrence from a position on. -/
def sendWords (s : State) (k pos : Nat) (words : List (Nat × List Byte)) : State :=
  (words.zip (List.range words.length)).foldl (fun s e => sendWord s k (pos + e.2) { kind := e.1.1, index := e.2, payload := e.1.2 }) s

/-- The additional data of messages sent and received on a pair in a frame (R356). -/
def ownData (s : State) (k f : Nat) : List Byte := messageData s.opx.hallId (k / 24) (k % 24) f
def peerData (s : State) (k f : Nat) : List Byte := messageData (s.pair k).peerHall (s.pair k).peerDie (s.pair k).peerPos f

/-- A message of this frame from a position on, under the key of its link. -/
def sealOn (s : State) (k pos cws : Nat) (text : List Byte) : Option (List (List Byte)) :=
  ((s.pair k).keyOf s.opx.frame).map fun n => sealMessage n.tx (messageIv pos s.opx.frame) (ownData s k s.opx.frame) cws text

/-- The text of a message received, when its tag authenticates it. -/
def openOn (s : State) (k pos f : Nat) (b : List Byte) : Option (List Byte) :=
  ((s.pair k).keyOf f).bind fun n => openSealed n.rx (messageIv pos f) (peerData s k f) b

/-- The codewords of an occurrence with n bytes of its stream: kind 2 while they last, then kind 5 (R369). -/
def occWords (n : Nat) (parts : List (List Byte)) : List (Nat × List Byte) :=
  (parts.zip (List.range parts.length)).map fun e => (if 640 * e.2 < n then 2 else 5, e.1)

/-! ### Sending (R355, R364, R366, R373) -/

/-- The lost occurrences the next header asks for: up to 8, each once after each loss, within 8 frames (R355, R373). -/
def toAsk (s : State) (x : Pair) : List LostSlot :=
  (x.lost.filter fun l => !l.asked && l.frame < s.opx.frame && s.opx.frame ≤ l.frame + 8).take 8

/-- The frame header of a pair (R355, R371). -/
def headerFor (s : State) (k : Nat) : FrameHeader :=
  let o := s.opx
  let x := s.pair k
  { hallId := o.hallId, die := k / 24, position := k % 24, timing := timingCode o.timing, version := o.active.version,
    frame := o.frame, slipMask := ((List.range 16).map fun i => 2 ^ i * bit01 (o.slips.contains (o.frame + 1 + i))).sum,
    openAck := x.openAck, laneMap := x.txSpare.getD 15,
    repeats := (toAsk s x).map fun l => (l.position, o.frame - l.frame) }

/-- Send the header of a live pair; the acknowledgements it carries start again (R355, R356). -/
def sendHeader (s : State) (k : Nat) : State :=
  match (s.pair k).live, (s.pair k).keyOf s.opx.frame with
  | true, some n =>
    let b := headerBytes (headerFor s k)
    let ask := toAsk s (s.pair k)
    (sendWord s k 0 { kind := 1, index := 0,
                      payload := b ++ headerTag n.tx (messageIv 0 s.opx.frame) (ownData s k s.opx.frame) b }).modPair k fun x =>
      { x with openAck := 0, lost := x.lost.map fun l => { l with asked := l.asked || ask.contains l } }
  | _, _ => s

/-- The message for the next position of a pair's open slot: one that its acknowledgement left out first, then that of the source
with the highest loss count, round robin among equals (R34, R366). -/
def pickOpen (x : Pair) (frame : Nat) : Option OpenWaiting :=
  let ready := x.openQueue.filter fun m => (m.sentIn.map (·.1)) != some frame
  match ready.find? fun m => m.sentIn.isSome with
  | some m => some m
  | none =>
    let heads := ((List.range 3).map fun i => (x.openTurn + i) % 3).filterMap fun n => ready.find? fun m => openSource m.type == n
    heads.foldl (fun (a : Option OpenWaiting) m => match a with
      | some y => if y.loss < m.loss then some m else a
      | none => some m) none

/-- The queue after a position was given to a message: it awaits its acknowledgement, and the first messages of the other sources
lost (R33, R366). -/
def gaveOpen (x : Pair) (frame slot : Nat) (m : OpenWaiting) : Pair :=
  let heads := (List.range 3).filterMap fun n => x.openQueue.find? fun y => y.sentIn.isNone && openSource y.type == n
  let fresh := m.sentIn.isNone
  { x with openTurn := if fresh then (openSource m.type + 1) % 3 else x.openTurn,
           openQueue := x.openQueue.map fun y =>
             if y == m then { y with sends := y.sends + 1, sentIn := some (frame, slot) }
             else if fresh && heads.contains y then { y with loss := min 15 (y.loss + 1) } else y }

/-- Send one position of the open slot. -/
def sendOpenAt (k : Nat) (s : State) (slot : Nat) : State :=
  match pickOpen (s.pair k) s.opx.frame with
  | none => s
  | some m =>
    match sealOn s k (openStart s.opx + slot) 1 (openText m.type m.seq m.data) with
    | some [b] =>
      (sendWord s k (openStart s.opx + slot) { kind := 3, index := 0, payload := b }).modPair k fun x => gaveOpen x s.opx.frame slot m
    | _ => s

/-- Send the open slot of a pair: one message a position; one unacknowledged after 64 sends fences the pair (R366). -/
def sendOpen (s : State) (k : Nat) : State :=
  let s := s.modPair k fun x => { x with openDue := false }
  if !(s.pair k).live then s
  else if (s.pair k).openQueue.any fun m => 64 ≤ m.sends then fencePair s k false
  else (List.range s.opx.openCw).foldl (sendOpenAt k) s

/-- The open slot of a frame waits for the peer's header while messages of the frame before await its acknowledgement (R366). -/
def openTime (s : State) (k : Nat) : State :=
  if (s.pair k).openQueue.any fun m => (m.sentIn.map (·.1)) == some (s.opx.frame - 1) then
    s.modPair k fun x => { x with openDue := true }
  else sendOpen s k

/-- Remember what was sent, for 8 frames (R373). -/
def remember (s : State) (k : Nat) (x : SentSlot) : State :=
  s.modPair k fun p => { p with sentSlots := x :: p.sentSlots.filter fun e => s.opx.frame ≤ e.frame + 8 }

/-- Send one transmit occurrence: its bytes, or empty on a pair whose peer does not match, on a module that has stopped, or when it
is not ready (R364, R369, R372, R387). -/
def sendOcc (s : State) (x : Nat × SchedEntry) : State :=
  let k := entryPair x
  let e := x.2
  if !e.transmit || !(s.pair k).live then s
  else
    let key := occStream s x
    let t := s.tx key
    let b := if (s.pair k).mismatch || s.opx.stopped || !txFilled s 0 x then [] else t.bytes.take e.cap
    match sealOn s k e.pos e.cws b with
    | none => s
    | some parts =>
      let words := occWords b.length parts
      let s := s.setTx key { t with bytes := t.bytes.drop b.length }
      remember (sendWords s k e.pos words) k
        { position := e.pos, frame := s.opx.frame, flow := e.flow, origin := e.origin, words := words }

/-- The payload of a label codeword: the request it answers, and the stream (R373, R387; DESIGN CHOICE, log entry 34). -/
def labelBytes (frame : Nat) (x : SentSlot) : List Byte :=
  natLe 2 (repeatWord (x.position, frame - x.frame)) ++ natLe 2 x.flow ++ natLe 1 x.origin

/-- The positions of a pair's transmit direction that no entry uses in this frame (R373, R374). -/
def freePositions (s : State) (k : Nat) : List Nat :=
  let used := if slipping s then []
    else (occurrences s.opx.active s.opx.schedFrame).filter fun x => x.2.transmit && entryPair x == k
  ((List.range (openStart s.opx)).drop 1).filter fun p => !(used.any fun x => x.2.pos ≤ p && p < x.2.pos + x.2.cws)

/-- The lowest run of n positions of a rising list. -/
def runOf (n : Nat) (l : List Nat) : Option Nat := l.find? fun p => (List.range n).all fun i => l.contains (p + i)

/-- Send one repeat in the lowest run of free positions that holds it and its label (R373). -/
def sendRepeat (k : Nat) (a : State × List Nat × List (Nat × Nat)) (r : Nat × Nat) : State × List Nat × List (Nat × Nat) :=
  let (s, free, left) := a
  match (s.pair k).sentSlots.find? fun e => e.position == r.1 && e.frame == r.2 with
  | none => a
  | some e =>
    let n := e.words.length
    match runOf (n + 1) free with
    | some p =>
      let s := sendWord s k p { kind := 4, index := 0, payload := exactly 640 (labelBytes s.opx.frame e) }
      (countRepeat (sendWords s k (p + 1) e.words), free.filter (fun f => f < p || p + n < f), left)
    | none => (s, free, left ++ [r])

/-- REPEAT_SEND: requested occurrences go in free positions, each behind its label, within 8 frames (R373); none on a module that
has stopped (R372). -/
def sendRepeats (s : State) (k : Nat) : State :=
  let x := s.pair k
  if !x.live || x.sendRepeats.isEmpty || s.opx.stopped then s
  else
    let due := x.sendRepeats.filter fun r => s.opx.frame ≤ r.2 + 8
    let r := due.foldl (sendRepeat k) (s, freePositions s k, [])
    r.1.modPair k fun x => { x with sendRepeats := r.2.2 }

/-- Two names of one occurrence: its start position and frame. -/
def sameSlot (a b : LostSlot) : Bool := a.position == b.position && a.frame == b.frame

/-- A lost occurrence: counted, and to be requested by the next header (R373). -/
def loseOccurrence (s : State) (k : Nat) (l : LostSlot) : State :=
  s.modPair k fun x =>
    let x := { x with awaited := x.awaited.filter fun y => !sameSlot y l }
    if x.lost.any (sameSlot l) then
      { x with lost := x.lost.map fun y => if sameSlot y l then { y with losses := y.losses + 1, asked := false } else y }
    else { x with lost := x.lost ++ [{ l with losses := 1, asked := false }] }

/-- What was under way at the end of a frame does not go on in the next: a label or an occurrence cut off. An occurrence of the frame
that has not come whole is lost, unless the pair's peer does not match (R373, R387). -/
def newFrame (s : State) (k : Nat) : State :=
  let x := s.pair k
  if x.live then
    let s := if x.mismatch then s else x.awaited.foldl (fun s l => loseOccurrence s k l) s
    s.modPair k fun x => { x with repeatNow := none, arriving := {}, awaited := [] }
  else s

/-- A receive occurrence of this frame, with its turn in the sender's order (R367). -/
def slotOf (s : State) (x : Nat × SchedEntry) : LostSlot :=
  let p := s.pair (entryPair x)
  { position := x.2.pos, frame := s.opx.frame, losses := 0, flow := x.2.flow, origin := x.2.origin, cws := x.2.cws,
    turn := occTurn x.2 p.peerDie p.peerPos }

/-- The receive occurrences of this frame are awaited on the pairs that are live (R364, R367). -/
def awaitFrame (s : State) : State :=
  if slipping s then s
  else (occurrences s.opx.active s.opx.schedFrame).foldl (fun s x =>
    if x.2.transmit || !(s.pair (entryPair x)).live then s
    else s.modPair (entryPair x) fun y => { y with awaited := y.awaited ++ [slotOf s x] }) s

/-- FRAME_START (R357, R360, R365, R370, R374, R432). -/
def frameStart (s : State) : State :=
  let s := holdoverTick (moveStart (switchSource (nextFrame s)))
  let s := transom (armDeadline s)
  let s := allPairs.foldl keyChange (hallKeyChange s)
  let s := allPairs.foldl nonceTime (allPairs.foldl newFrame s)
  let s := slipCheck (awaitFrame (takeSlip s))
  let s := allPairs.foldl sendHeader s
  let s := if slipping s then s else (occurrences s.opx.active s.opx.schedFrame).foldl sendOcc s
  allPairs.foldl (fun s k => openTime (sendRepeats s k) k) s

def execFrameStart (s : State) : Out := act true s frameStart

/-! ### Lanes (R385, R386) -/

/-- A carrier of a link has failed: LS takes its lane's place, or the pair is fenced (R385, R386). The receiver asks the transmitter
over the lane-control signal of the reverse fibre's LS, or through the open slot while that LS carries data (R352, R385). A lane
switch makes calibration due (R358). -/
def laneFails (s : State) (k lane : Nat) (transmit both : Bool) : State :=
  let x := s.pair k
  let spare := if transmit then x.txSpare else x.rxSpare
  if !x.live || spare == some lane then s
  else if both || spare.isSome then fencePair s k false
  else if 8 ≤ lane then s
  else
    let s := s.modPair k fun x => if transmit then { x with txSpare := some lane } else { x with rxSpare := some lane }
    let s := { s with opx := { s.opx with calibrated := s.opx.calibrated.filter (· != k / 24) } }
    let s := logOnPair (setPairState s k .spare) 0x1040 k
    if transmit then s
    else if x.txSpare.isSome then openSend s k (.replaceLane lane)
    else (s.modPair k fun x => { x with laneAsk := some lane }).send (.laneControl (k / 24) (k % 24) lane)

/-- Has a carrier failed for a reason (R385)? The request on the lane-control signal comes only while LS carries no data (R352). -/
def laneFailed (x : Pair) (lane : Nat) : LaneFault → Bool
  | .errors => 4 ≤ nth 0 x.errorRuns lane
  | .dark ns => 100 ≤ ns
  | .beyond => x.badWord
  | .asked => x.rxSpare.isNone

/-- LANE_FAILURE (R385). -/
def execLaneFailure (die pair lane : Nat) (why : LaneFault) (both : Bool) (s : State) : Out :=
  act (isPair die pair && lane < 9) s fun s =>
    let k := pairKey die pair
    if laneFailed (s.pair k) lane why then laneFails s k lane (why == .asked) both else s

/-! ### A codeword comes in (R353, R385) -/

/-- Count the corrected errors of a codeword per carrier: runs of codewords with more than 8 on one (R385). -/
def errorCounts (x : Pair) (errs : List Nat) : List Nat :=
  (List.range 9).map fun c =>
    if 8 < (errs.filter fun j => laneOf x.rxSpare j == c).length then nth 0 x.errorRuns c + 1 else 0

/-- Decode a received codeword; one that does not decode is discarded and counted (R353). -/
def wordIn (s : State) (k : Nat) (lanes : List (List Nat)) : Option Codeword × State :=
  let x := s.pair k
  match rsDecode (unstripe x.rxSpare lanes) with
  | none =>
    (none, s.modPair k fun x => { x with badWord := true, undecoded := x.undecoded + 1, errorRuns := List.replicate 9 0 })
  | some (w, errs) =>
    let s := if errs.isEmpty then s
      else countDie s (56 + k / 24) (·.fecCorrected) (fun d v => { d with fecCorrected := v }) causeOpx 1
    (some (readWord w), s.modPair k fun x => { x with badWord := false, errorRuns := errorCounts x errs })

/-! ### FRAME_HEADER_RECEIVED (R371, R372, R373, R387) -/

/-- Does a header come from the expected peer and frame; the code of the violation if not? -/
def headerFault (s : State) (k : Nat) (h : FrameHeader) : Option Nat :=
  let x := s.pair k
  if h.hallId != x.peerHall || h.die != x.peerDie || h.position != x.peerPos || h.frame != s.opx.frame then some 0x9104
  else if h.version != s.opx.active.version then some 0x9103
  else none

/-- LATE_SLIP_TOKEN (R372). -/
def lateToken (s : State) (k : Nat) : State :=
  let s := violation s 0x9105 k
  if s.opx.stopped then s else breakCascade { s with opx := { s.opx with stopped := true } }

/-- Take one slip token: known ones merge; one for a frame at or before the next header's is late (R371, R372). -/
def takeToken (k : Nat) (s : State) (f : Nat) : State :=
  if s.opx.slips.contains f then s
  else if f ≤ s.opx.frame + 1 then lateToken s k
  else { s with opx := { s.opx with slips := s.opx.slips ++ [f] } }

/-- The slip frames a header names. -/
def tokens (h : FrameHeader) : List Nat := ((List.range 16).filter fun i => bit h.slipMask i).map (h.frame + 1 + ·)

/-- Take the acknowledgements of the open slot before a header's frame: intact messages are done (R355, R366). -/
def takeAcks (h : FrameHeader) (x : Pair) : Pair :=
  { x with openQueue := x.openQueue.filter fun m => match m.sentIn with
      | some (f, i) => !(f + 1 == h.frame && bit h.openAck i)
      | none => true }

/-- Take the repeat requests of a header (R373). -/
def takeRequests (h : FrameHeader) (x : Pair) : Pair :=
  let rs := h.repeats.map fun r => (r.1, h.frame - r.2)
  { x with sendRepeats := x.sendRepeats ++ rs.filter fun r =>
      !x.sendRepeats.contains r && x.sentSlots.any fun e => e.position == r.1 && e.frame == r.2 }

/-- The lane for which LS stands in on the received link; the transmitter has answered a request for it (R355, R385). -/
def takeLane (s : State) (k lane : Nat) : State :=
  if 8 ≤ lane then s
  else
    let s := s.modPair k fun x => { x with laneAsk := x.laneAsk.filter (· != lane) }
    if (s.pair k).rxSpare == some lane then s
    else
      let s := { s with opx := { s.opx with calibrated := s.opx.calibrated.filter (· != k / 24) } }
      setPairState (s.modPair k fun x => { x with rxSpare := some lane }) k .spare

/-- What an authentic header says beside its sender's identity: acknowledgements, requests, lane, slip tokens. -/
def headerTaken (s : State) (k : Nat) (h : FrameHeader) : State :=
  let s := s.modPair k fun x => takeRequests h (takeAcks h x)
  let s := (tokens h).foldl (takeToken k) (takeLane s k h.laneMap)
  if (s.pair k).openDue then sendOpen s k else s

/-- Does a header's tag authenticate it, with the identity and frame it names as its additional data (R355, R356)? -/
def headerAuthentic (s : State) (k : Nat) (h : FrameHeader) (b : List Byte) : Bool :=
  match (s.pair k).keyOf h.frame with
  | some n =>
    headerTag n.rx (messageIv 0 h.frame) (messageData h.hallId h.die h.position h.frame) (b.take 624) == b.drop 624
  | none => false

/-- Take a frame header's 640 bytes. One whose tag fails is lost: counted, and its contents not used (R356, R387). What an authentic
one says counts whatever its sender's version or identity (R371). -/
def headerIn (s : State) (k : Nat) (b : List Byte) : State :=
  let h := headerFrom b
  if !headerAuthentic s k h b then violation s 0x9106 k
  else
    let s := match headerFault s k h with
      | some code =>
        let s := (violation s code k).modPair k fun x => { x with mismatch := true }
        (flowsOn s k).foldl breakFlow s
      | none => s.modPair k fun x => { x with mismatch := false }
    headerTaken s k h

/-- A codeword at position 0. -/
def headerReceived (s : State) (k : Nat) (lanes : List (List Nat)) : State :=
  if !(s.pair k).live then s
  else match wordIn s k lanes with
    | (some w, s) =>
      if w.kind == 1 then headerIn s k w.payload
      else if w.kind == 2 || w.kind == 4 || w.kind == 5 then violation s 0x9101 k else s
    | (none, s) => s

def execFrameHeaderReceived (die pair : Nat) (lanes : List (List Nat)) (s : State) : Out :=
  act (isPair die pair && lanesWf lanes) s fun s => headerReceived s (pairKey die pair) lanes

/-! ### CODEWORD_RECEIVED (R353, R356, R367, R373, R387) -/

/-- Deliver an occurrence's bytes to the module's commands, and to any forwarding (R367). -/
def deliver (s : State) (x : HeldSlot) : State :=
  if x.origin == s.opx.member then s
  else
    let k := streamKey x.flow x.origin
    let t := s.rx k
    let r := unpad (2 * x.bytes.length + 2) { left := t.left, head := t.head, begun := t.begun } x.bytes
    let s := s.setRx k { t with bytes := t.bytes ++ r.1, left := r.2.left, head := r.2.head, begun := r.2.begun,
                                dies := t.dies ++ [(x.die, r.1.length)] }
    if (txPeers s x.flow x.origin).isEmpty then s else handOverFrom s x.flow x.origin r.1

/-- Does an occurrence of the stream that is lost or has not come yet stand before this one (R367, R373)? -/
def missingBefore (s : State) (x : HeldSlot) : Bool :=
  s.opx.pairs.any fun e => (e.2.lost ++ e.2.awaited).any fun l =>
    l.flow == x.flow && l.origin == x.origin && (l.frame < x.frame || (l.frame == x.frame && l.turn < x.turn))

/-- Is a held occurrence the first of its stream? -/
def firstHeld (s : State) (x : HeldSlot) : Bool :=
  s.opx.held.all fun y => y.flow != x.flow || y.origin != x.origin || x.frame < y.frame ||
    (x.frame == y.frame && x.turn ≤ y.turn)

/-- Deliver held occurrences in the order of their streams, until a missing one stands before each (R367, R373). -/
def flushHeld : Nat → State → State
  | 0, s => s
  | fuel + 1, s =>
    match s.opx.held.find? fun x => firstHeld s x && !missingBefore s x with
    | none => s
    | some x => flushHeld fuel (deliver { s with opx := { s.opx with held := s.opx.held.erase x } } x)

/-- A boundary exchange meets the headers that have come (R377, R381). -/
def meetArrived (s : State) (flow : Nat) : State :=
  match (s.flow flow).command with
  | none => s
  | some c => withLaunch s c fun l p _ => if l.partition.isSome then meetHeaders s c p else s

/-- What waits in a flow's streams goes on as far as it can. -/
def flushFlow (s : State) (flow : Nat) : State := meetArrived (flushHeld s.opx.held.length s) flow

/-- An occurrence that came whole takes its turn in its stream. -/
def accept (s : State) (x : HeldSlot) : State := flushFlow { s with opx := { s.opx with held := s.opx.held ++ [x] } } x.flow

/-- The receive occurrence that a position belongs to in this frame. -/
def occurrenceAt (s : State) (k pos : Nat) : Option LostSlot :=
  if slipping s then none
  else ((occurrences s.opx.active s.opx.schedFrame).find? fun x =>
      !x.2.transmit && entryPair x == k && x.2.pos ≤ pos && pos < x.2.pos + x.2.cws).map (slotOf s)

/-- What stands at a position, and the codeword's index in it: an occurrence, or a repeat that a label announced. -/
def standing (s : State) (k pos : Nat) : Option (LostSlot × Nat) :=
  match (s.pair k).repeatNow with
  | some (l, at_) => if at_ < pos && pos ≤ at_ + l.cws then some (l, pos - at_ - 1)
    else (occurrenceAt s k pos).map fun x => (x, pos - x.position)
  | none => (occurrenceAt s k pos).map fun x => (x, pos - x.position)

/-- The bytes of an occurrence's stream: those that its codewords of kind 2 carry (R353, R369). -/
def streamBytes (words : List (Nat × List Byte)) (text : List Byte) : List Byte :=
  (words.zip (List.range words.length)).flatMap fun e => if e.1.1 == 2 then (text.drop (640 * e.2)).take 640 else []

/-- The last codeword of what stands: delivered, lost, or discarded while the peer does not match (R356, R373, R387). -/
def endOcc (s : State) (k : Nat) (l : LostSlot) : State :=
  let x := s.pair k
  let a := x.arriving
  let s := s.modPair k fun x => { x with arriving := {}, repeatNow := none }
  let ended := s.modPair k fun x => { x with awaited := x.awaited.filter fun y => !sameSlot y l }
  if x.mismatch then flushFlow ended l.flow
  else if a.bad then loseOccurrence s k l
  else match openOn s k l.position l.frame (a.words.flatMap (·.2)) with
    | none => loseOccurrence (violation s 0x9106 k) k l
    | some text =>
      let s := ended.modPair k fun x => { x with lost := x.lost.filter fun y => !sameSlot y l }
      accept s { flow := l.flow, origin := l.origin, frame := l.frame, turn := l.turn, die := k / 24,
                 bytes := streamBytes a.words text }

/-- A codeword of what stands at a position; one that did not decode, or is no codeword of an occurrence with its index, loses the
occurrence. -/
def takeCodeword (s : State) (k : Nat) (l : LostSlot) (i : Nat) (w : Option Codeword) : State :=
  let s := s.modPair k fun x =>
    let a : Arriving := if i == 0 then {} else x.arriving
    { x with arriving := match w with
        | some c => { words := a.words ++ [(c.kind, c.payload)],
                      bad := a.bad || a.words.length != i || !(c.kind == 2 || c.kind == 5) || c.index != i }
        | none => { words := a.words ++ [(5, zeros 640)], bad := true } }
  if i + 1 == l.cws then endOcc s k l else s

/-- The lost occurrence a label names (DESIGN CHOICE, log entry 34). -/
def labelled (s : State) (k : Nat) (b : List Byte) : Option LostSlot :=
  let r := fieldOf b 0 2
  (s.pair k).lost.find? fun l => l.position == r / 8 && l.frame + r % 8 + 1 == s.opx.frame

/-- Are a flow and origin in the receive entries of a pair (R387)? -/
def receives (s : State) (k flow origin : Nat) : Bool :=
  s.opx.active.all.any fun x => !x.2.transmit && entryPair x == k && x.2.flow == flow && x.2.origin == origin

/-- A label codeword: it announces the repeat behind it, or is discarded as a violation (R373, R387). -/
def labelIn (s : State) (k pos : Nat) (b : List Byte) : State :=
  if !receives s k (fieldOf b 2 2) (fieldOf b 4 1) then violation s 0x9102 k
  else match labelled s k b with
    | some l =>
      if l.flow == fieldOf b 2 2 && l.origin == fieldOf b 4 1 then
        countRepeat (s.modPair k fun x => { x with repeatNow := some (l, pos) })
      else violation s 0x9102 k
    | none => violation s 0x9101 k

/-- A codeword in the scheduled region. -/
def scheduledIn (s : State) (k pos : Nat) (w : Option Codeword) : State :=
  match standing s k pos, w with
  | some (l, i), w => takeCodeword s k l i w
  | none, some c =>
    if c.kind == 4 then labelIn s k pos c.payload else if c.kind == 2 || c.kind == 5 then violation s 0x9101 k else s
  | none, none => s

/-! ### OPEN_SLOT_MESSAGE (R365, R366, R375, R432) -/

/-- Does a pair lead to the module's lead (R375)? -/
def fromLead (s : State) (k : Nat) : Bool := s.opx.role == 2 && (s.pair k).peerHall == s.opx.leadHall

/-- The length that a schedule image's header gives it (R382). -/
def imageLength (b : List Byte) : Nat := 32 + 16 * ((List.range 6).map fun d => fieldOf b (8 + 2 * d) 2).sum

/-- A member takes a whole schedule image of the lead, when its banks are valid and not armed, and answers it (R363, R365, R382). -/
def takeImage (s : State) (k : Nat) (img : List Byte) : State :=
  let answer := fun (s : State) code detail => openSend s k (.loaded s.opx.member (fieldOf img 0 4) code detail)
  match imageBad s img with
  | some e => answer s 0x1907 e
  | none => if s.opx.armed then answer s 0x1908 0 else answer (loadPending s img) 0 0

/-- A part of an image from the lead; the last one completes it (R366, R375, R382). -/
def takeImagePart (s : State) (k : Nat) (b : List Byte) : State :=
  if !fromLead s k then s
  else
    let img := (s.pair k).image ++ b
    if 32 ≤ img.length && imageLength img ≤ img.length then takeImage (s.modPair k fun x => { x with image := [] }) k img
    else s.modPair k fun x => { x with image := img }

/-- A member marks its banks armed and acknowledges (R365 step 2). -/
def takeArm (s : State) (k v f : Nat) : State :=
  if fromLead s k && v != 0 && s.opx.pendingBank.version == v && (bankBad s s.opx.pendingBank fun _ _ => false).isNone &&
      s.opx.frame < f then
    openSend (arm s f) k (.armed s.opx.member v)
  else s

/-- The load command of a member's image and version completes, or faults as the member found (R382, R384). -/
def takeLoaded (s : State) (m v code detail : Nat) : State :=
  let s := if code == 0 then { s with opx := { s.opx with loaded := tblPut s.opx.loaded m v } } else s
  match s.cmds.find? fun e => dOpcode e.2.desc == 0x95 && e.2.stage == .running && dField e.2.desc 0x1C 1 == m && e.2.saved == v with
  | some (c, _) =>
    if code == 0 then finishCmd s c 0 0 0 false false
    else if code == 0x1907 then faultCmd s c 0x1907 detail else faultCmdOpen s c 0x1908
  | none => s

/-- The arm command completes once every member has acknowledged (R365 step 2, R382). -/
def takeArmed (s : State) (m v : Nat) : State :=
  if !s.opx.armed || s.opx.pendingBank.version != v then s
  else
    let s := { s with opx := { s.opx with acked := m :: s.opx.acked.filter (· != m) } }
    match armCommand s with
    | some c => if (otherMembers s).all s.opx.acked.contains then finishCmd s c 0 0 0 false false else s
    | none => s

/-- Does a message come from a member, at the lead (R375)? -/
def fromMember (s : State) (k m : Nat) : Bool := s.opx.role == 1 && (s.pair k).peerHall == Config.memberHall m

/-- Act on a message of the open slot. -/
def takeMessage (s : State) (k : Nat) : OpenMessage → State
  | .nonce e v => s.modPair k fun x => { x with peerNonce := some (e, v) }
  | .imagePart b => takeImagePart s k b
  | .arm v f => takeArm s k v f
  | .disarm => if fromLead s k then disarm s else s
  | .armed m v => if fromMember s k m then takeArmed s m v else s
  | .loaded m v code detail => if fromMember s k m then takeLoaded s m v code detail else s
  | .replaceLane l => laneFails s k l true false
  | .undefinedType _ => violation s 0x9102 k

/-- Deliver the messages of a type whose turn has come (R366). -/
def flushOpen (k type : Nat) : Nat → State → State
  | 0, s => s
  | fuel + 1, s =>
    let n := tblGet 0 (s.pair k).openTaken type
    match (s.pair k).openHeld.find? fun m => m.1 == type && m.2.1 == n with
    | none => s
    | some m =>
      let s := s.modPair k fun x => { x with openHeld := x.openHeld.erase m, openTaken := tblPut x.openTaken type ((n + 1) % 2 ^ 32) }
      flushOpen k type fuel (takeMessage s k (openMessageOf type m.2.2))

/-- A message received intact: acknowledged by the next header, delivered in its type's order; one delivered before is not delivered
again (R355, R366). -/
def messageIn (s : State) (k slot : Nat) (text : List Byte) : State :=
  let (type, n, data) := openFields text
  let x := s.pair k
  let next := tblGet 0 x.openTaken type
  let s := s.modPair k fun x => { x with openAck := if bit x.openAck slot then x.openAck else x.openAck + 2 ^ slot }
  if (n + 2 ^ 32 - next) % 2 ^ 32 < 2 ^ 31 && !(x.openHeld.any fun m => m.1 == type && m.2.1 == n) then
    let s := s.modPair k fun x => { x with openHeld := x.openHeld ++ [(type, n, data)] }
    flushOpen k type ((s.pair k).openHeld.length) s
  else s

/-- A codeword in the open slot; a message whose tag fails is lost and not acknowledged (R356, R387). -/
def openIn (s : State) (k slot : Nat) (w : Codeword) : State :=
  if w.kind == 3 then
    match openOn s k (openStart s.opx + slot) s.opx.frame w.payload with
    | some text => messageIn s k slot text
    | none => violation s 0x9106 k
  else if w.kind == 2 || w.kind == 4 || w.kind == 5 then violation s 0x9101 k else s

/-- A codeword at a position of the open slot. -/
def openReceived (s : State) (k slot : Nat) (lanes : List (List Nat)) : State :=
  if !(s.pair k).live || s.opx.openCw ≤ slot then s
  else match wordIn s k lanes with
    | (some w, s) => openIn s k slot w
    | (none, s) => s

def execOpenSlotMessage (die pair slot : Nat) (lanes : List (List Nat)) (s : State) : Out :=
  act (isPair die pair && slot < 16 && lanesWf lanes) s fun s => openReceived s (pairKey die pair) slot lanes

/-- A codeword at a position of the frame: the header's, one of the open slot's, or one of the scheduled region. -/
def codewordReceived (s : State) (k pos : Nat) (lanes : List (List Nat)) : State :=
  if pos == 0 then headerReceived s k lanes
  else if openStart s.opx ≤ pos then openReceived s k (pos - openStart s.opx) lanes
  else if !(s.pair k).live then s
  else match wordIn s k lanes with
    | (w, s) => scheduledIn s k pos w

def execCodewordReceived (die pair position : Nat) (lanes : List (List Nat)) (s : State) : Out :=
  act (isPair die pair && lanesWf lanes) s fun s => codewordReceived s (pairKey die pair) position lanes

/-- REPEAT_WINDOW_EXPIRED: lost three times, or not repeated within 8 frames (R373). -/
def execRepeatWindowExpired (die pair position : Nat) (s : State) : Out :=
  act (isPair die pair) s fun s =>
    let k := pairKey die pair
    if (s.pair k).lost.any fun l => l.position == position && (3 ≤ l.losses || l.frame + 8 < s.opx.frame) then fencePair s k false
    else s

/-! ### Hall timing (R357-R361) -/

/-- The period of a good marker is within 100 ppm of P (R359). -/
def goodMarker (o : Optical) (periodPs : Nat) : Bool :=
  periodPs * 10000 ≤ o.periodNs * 1000 * 10001 && o.periodNs * 1000 * 9999 ≤ periodPs * 10000

/-- Frames that begin between a marker and the frame it opens (R357). -/
def markerLag (o : Optical) (x3 : Bool) : Nat := (o.launchNs * 1000 - (if x3 then o.markX3 else o.markX0)) / (o.periodNs * 1000)

/-- The number the next frame takes from a marker (R359, R360). -/
def nextFromMarker (o : Optical) (x3 : Bool) (frame : Nat) : Nat := frame - markerLag o x3

/-- Are all six optical dies calibrated (R358)? -/
def allCalibrated (o : Optical) : Bool := (List.range 6).all o.calibrated.contains

/-- Lock is reached after 16 consecutive good markers, calibrated (R359). -/
def tryLock (s : State) (x3 : Bool) (frame : Nat) : State :=
  let o := s.opx
  if o.timing == .locking && 16 ≤ (if x3 then o.goodX3 else o.goodX0) && allCalibrated o && !offsetWrong o then
    let s := setTiming s .aligned
    { s with opx := { s.opx with sourceX3 := x3, switchTo := none, relockFrame := none, frame := nextFromMarker o x3 frame - 1,
                                 schedFrame := nextFromMarker o x3 frame - 1 - (o.frame - o.schedFrame), checked := 0, slips := [] } }
  else s

/-- Relock after four good markers of one source, the first to bring them (R360): the number is adopted at the next boundary when it
differs. -/
def tryRelock (s : State) (x3 : Bool) (frame phasePs : Nat) : State :=
  let o := s.opx
  if (o.timing == .holdover || o.timing == .degraded) && (if x3 then o.goodX3 else o.goodX0) == 4 &&
      (if x3 then o.goodX0 else o.goodX3) < 4 then
    let n := nextFromMarker o x3 frame
    { s with opx := { o with sourceX3 := x3, switchTo := none, phasePs := phasePs,
                             relockFrame := if n == o.frame + 1 then none else some n } }
  else s

/-- A marker of a source that is there: the run of good ones goes on, or starts again. -/
def markerSeen (o : Optical) (x3 good : Bool) : Optical :=
  if x3 then { o with missX3 := false, goodX3 := if good then o.goodX3 + 1 else 0 }
  else { o with missX0 := false, goodX0 := if good then o.goodX0 + 1 else 0 }

/-- Which source is to be taken at the next frame boundary (R360): X3, locked, once X0's marker is gone; X0 after 1024 consecutive
good markers. -/
def chooseSource (s : State) : State :=
  let o := s.opx
  if o.timing != .aligned then s
  else if !o.sourceX3 && o.missX0 && !o.missX3 && 16 ≤ o.goodX3 then { s with opx := { o with switchTo := some true } }
  else if o.sourceX3 && 1024 ≤ o.goodX0 then { s with opx := { o with switchTo := some false } }
  else { s with opx := { o with switchTo := none } }

/-- MARKER_RECEIVED (R359, R360). -/
def markerReceived (s : State) (x3 : Bool) (frame periodPs phasePs : Nat) : State :=
  let s := { s with opx := markerSeen s.opx x3 (goodMarker s.opx periodPs) }
  let s := if s.opx.timing == .unlocked then setTiming s .locking else s
  chooseSource (tryRelock (tryLock s x3 frame) x3 frame phasePs)

def execMarkerReceived (x3 : Bool) (frame periodPs phasePs : Nat) (s : State) : Out :=
  act true s fun s => markerReceived s x3 frame periodPs phasePs

/-- The holdover limit in frames (R359). -/
def holdoverFrames (o : Optical) : Nat :=
  let n := min 4096 (250000000 / o.periodNs)
  if o.holdoverLimit != 0 && o.holdoverLimit < n then o.holdoverLimit else n

/-- MARKER_MISSING: the other source is taken once its markers are locked; without a marker on either, holdover begins (R359,
R360). -/
def markerMissing (s : State) (x3 : Bool) : State :=
  let o := s.opx
  let s := { s with opx := if x3 then { o with missX3 := true, goodX3 := 0 } else { o with missX0 := true, goodX0 := 0 } }
  if s.opx.timing == .aligned && s.opx.missX0 && s.opx.missX3 then
    logPlain (setTiming { s with opx := { s.opx with holdoverLeft := holdoverFrames s.opx, switchTo := none } } .holdover) 0x1042
      (noDetail 0x1042)
  else chooseSource s

def execMarkerMissing (x3 : Bool) (s : State) : Out := act true s fun s => markerMissing s x3

/-- HOLDOVER_LIMIT (R359). -/
def execHoldoverLimit (s : State) : Out :=
  act true s fun s =>
    if s.opx.timing == .holdover && s.opx.holdoverLeft == 0 then logPlain (setTiming s .degraded) 0x1043 (noDetail 0x1043) else s

/-- CALIBRATION of an optical die (R358): frames go on at the last calibrated timing until it ends. -/
def execCalibration (die tempC : Nat) (s : State) : Out :=
  act (die < 6) s fun s =>
    { s with opx := { s.opx with calibrated := die :: s.opx.calibrated.filter (· != die),
                                 calTempC := tblPut s.opx.calTempC die tempC } }

/-! ### Registers with rows of their own (registers of 12) -/

/-- A number clamped to a range (R519). -/
def clamp (lo hi v : Nat) : Nat := max lo (min hi v)

/-- OPX_FRAME_WRITE: only while standalone with both banks empty (R354). -/
def frameWrite (s : State) (p : Port) (value : Nat) : State :=
  if p == .A && s.opx.role == 0 && s.opx.active.version == 0 && s.opx.pendingBank.version == 0 then
    { s with opx := { s.opx with periodNs := clamp 1000 64000 (bits value 16 16), openCw := clamp 2 16 (bits value 8 5) } }
  else s

def execOpxFrameWrite (p : Port) (value : Nat) (s : State) : Out :=
  act (isWord value) s <| overBar p fun s => frameWrite s p value

/-- OPX_CASCADE_WRITE: not while a cascade command is in flight; the lead's number is 0 (R375). -/
def cascadeWrite (s : State) (p : Port) (value : Nat) : State :=
  if p == .A && (cascadeCommands s).isEmpty then
    { s with opx := { s.opx with role := bits value 30 2, member := if bits value 30 2 == 1 then 0 else bits value 24 6,
                                 members := bits value 16 7, slipLead := bits value 8 5 } }
  else s

def execOpxCascadeWrite (p : Port) (value : Nat) (s : State) : Out :=
  act (isWord value) s <| overBar p fun s => cascadeWrite s p value

/-- OPX_PAIR_RETRAIN: a fenced pair is trained again, and comes up when it is allowed to (R386, R497); a write to a die without power is
dropped (R491). -/
def pairRetrain (s : State) (p : Port) (die pair value : Nat) : State :=
  let k := pairKey die pair
  if p == .A && (s.die (56 + die)).powered && bit value 29 && (s.pair k).state == .fenced then
    (if pairAllowed s k && !s.sec.keyBlockRefuses then bringUp s k else refreshPair s k)
  else s

def execOpxPairRetrain (p : Port) (die pair value : Nat) (s : State) : Out :=
  act (isPair die pair && isWord value) s <| overBar p fun s => pairRetrain s p die pair value

/-- LINK_NONCE_RETRY: 1 ms after an error the link cipher asks again (R421). -/
def execLinkNonceRetry (die pair : Nat) (s : State) : Out :=
  act (isPair die pair) s fun s =>
    let k := pairKey die pair
    if (s.pair k).live && (s.pair k).nonceDue then askNonce (s.modPair k fun x => { x with nonceDue := false }) k else s

end Sys2Proof.Machine
end

