-- ==== Sys2Proof/Machine/Problem.lean ====
section
/-! DEFINITION. The problem family: load, rescale, update, free, energy (R72-R93, R108, R521). -/

namespace Sys2Proof.Machine

/-! ### The problem source (R84-R86) -/

/-- A problem source as read: coupling entries (i, j, FP32), linear terms (FP32), the block of every variable under a map,
groups as member lists. -/
structure Source84 where
  head : List Byte
  n : Nat
  entries : List (Nat × Nat × Nat)
  linear : List Nat
  blockOf : List Nat
  groups : List (List Nat)
  countBad : List Bool
deriving DecidableEq, Repr

def hForm (h : List Byte) : Nat := fieldOf h 0x04 1
def hIntra (h : List Byte) : Nat := fieldOf h 0x05 1
def hPartition (h : List Byte) : Nat := fieldOf h 0x06 1
def hVars (h : List Byte) : Nat := fieldOf h 0x00 4

/-- The block size of a contiguous partition: 0 means 2048 (R84). -/
def hBlockVars (h : List Byte) : Nat := if fieldOf h 0x08 2 == 0 then 2048 else fieldOf h 0x08 2

/-- The header fields at fault (order 1 of R108). -/
def headerFields (h : List Byte) : List (Nat × Bool) :=
  [(0x00, hVars h == 0 || 2 ^ 28 < hVars h), (0x04, 1 < hForm h), (0x05, 1 < hIntra h), (0x06, 1 < hPartition h),
   (0x07, fieldOf h 0x07 1 != 0), (0x08, 2048 < fieldOf h 0x08 2), (0x0A, fieldOf h 0x0A 2 != 0),
   (0x4C, fieldOf h 0x4C 4 != 0), (0x58, fieldOf h 0x50 8 != 0 && fieldOf h 0x58 8 < 64), (0x60, fieldOf h 0x60 32 != 0)]

/-- What a rescale source must share with the problem, but for a map (R90): a block_vars of 0 is one of 2048 here too (R84; DESIGN
CHOICE, log entry 47). -/
def sameFields (old : Option Problem) (h : List Byte) : List (Nat × Bool) :=
  match old with
  | none => []
  | some p =>
    [(0x00, hVars h != p.n), (0x04, hForm h != bit01 p.spin), (0x06, hPartition h != bit01 p.mapped),
     (0x08, hPartition h == 0 && !p.mapped && hBlockVars h != p.blockVars)]

/-- placement and scale_bias (R80, R87). -/
def dPlacement (d : Desc) : Nat := dField d 0x18 1
def dBias (d : Desc) : Int := toSigned 8 (dField d 0x19 1)
def loadFields (d : Desc) : List (Nat × Bool) := [(0x18, 2 < dPlacement d), (0x19, dBias d < -16 || 16 < dBias d)]

/-- Read the map of a map partition; a rescale source whose map differs fails at 0x28 (R90). A header field below 0x28 is judged
before the map is read, one above it after (DESIGN CHOICE, log entry 47). -/
def readMap (s : State) (q : Queue) (h : List Byte) (old : Option Problem) (bad : List (Nat × Bool)) : Try (List Nat) :=
  if hPartition h != 1 || (lowestBad bad).any (· < 0x28) then
    match needFields 0x6C01 bad with
    | .error e => .error e
    | .ok _ => .ok ((List.range (hVars h)).map (· / hBlockVars h))
  else match readArray s q (fieldOf h 0x28 8) 4 (hVars h) with
    | .error e => .error e
    | .ok m =>
      let differs := match old with
        | some p => p.mapped && m != p.blockOf
        | none => false
      match needFields 0x6C01 ((0x28, differs) :: bad) with
      | .error e => .error e
      | .ok _ => .ok m

/-- Coupling entries from their words (R85). -/
def entriesOf : Nat → List Nat → List (Nat × Nat × Nat)
  | 0, _ => []
  | n + 1, l => (nth 0 l 0, nth 0 l 1, nth 0 l 2) :: entriesOf n (l.drop 3)

/-- A group's members; a record whose count is out of range reads none (R86). -/
def readGroup (s : State) (q : Queue) (h : List Byte) (rec64 : Nat) : Try (List Nat × Bool) :=
  let first := bits rec64 0 32
  let count := bits rec64 32 32
  if count < 2 || 64 < count then .ok ([], true)
  else match readArray s q (fieldOf h 0x38 8 + 4 * first) 4 count with
    | .ok l => .ok (l, false)
    | .error e => .error e

/-- Read a source, with order 1 of R108. Its arrays are read before orders 2 to 10, so a translation fault of one comes before them
(DESIGN CHOICE, log entry 47). -/
def readSource (s : State) (q : Queue) (d : Desc) (old : Option Problem) : Try Source84 :=
  match needDesc d 0x6C01 (loadFields d) with
  | .error e => .error e
  | .ok _ =>
    match readVa s q.port q.pasid (dField d 0x10 8) 128 with
    | .error e => .error e
    | .ok h =>
      match readMap s q h old (headerFields h ++ sameFields old h) with
      | .error e => .error e
      | .ok m =>
        let n := hVars h
        let nc := fieldOf h 0x10 8
        match readArray s q (fieldOf h 0x18 8) 4 (3 * nc),
            (if fieldOf h 0x20 8 == 0 then .ok (List.replicate n 0) else readArray s q (fieldOf h 0x20 8) 4 n),
            readArray s q (fieldOf h 0x30 8) 8 (fieldOf h 0x0C 4) with
        | .ok ws, .ok lin, .ok gs =>
          match tryMap (readGroup s q h) gs with
          | .error e => .error e
          | .ok groups => .ok { head := h, n := n, entries := entriesOf nc ws, linear := lin, blockOf := m,
                                groups := groups.map (·.1), countBad := groups.map (·.2) }
        | .error e, _, _ => .error e
        | _, .error e, _ => .error e
        | _, _, .error e => .error e

/-! ### Input checks (R89, R108) -/

/-- Order 2: non-finite values. -/
def checkFinite (x : Source84) : Try Unit :=
  match firstWhere (fun e => (fpRat e.2.2).isNone) x.entries with
  | some k => flt 0x6C0A (k % 2 ^ 32)
  | none => match firstWhere (fun c => (fpRat c).isNone) x.linear with
    | some k => flt 0x6C0A k
    | none => need (fpRat (fieldOf x.head 0x48 4)).isSome 0x6C0A 0xFFFFFFFF

/-- Order 3: indices and repeats. An entry number takes the 32 bits of the detail (DESIGN CHOICE, log entry 47). -/
def checkEntries (n : Nat) : Nat → List (Nat × Nat) → List (Nat × Nat × Nat) → Try Unit
  | _, _, [] => .ok ()
  | k, seen, (i, j, _) :: rest =>
    if j ≤ i || n ≤ j || seen.contains (i, j) then flt 0x6C02 (k % 2 ^ 32)
    else checkEntries n (k + 1) ((i, j) :: seen) rest

/-- The number of blocks. -/
def blockCount (x : Source84) : Nat := (x.blockOf.foldl max 0) + 1

/-- Order 4: an empty block or one above 2048 variables (R75). An empty block lies at n or below. -/
def checkPartition (x : Source84) : Try Unit :=
  match (List.range (min (blockCount x) (x.n + 1))).find? fun b =>
      let k := x.blockOf.count b
      k == 0 || 2048 < k with
  | some b => flt 0x6C03 b
  | none => .ok ()

/-- Is a group at fault, given those before it (order 5)? Of two that share a variable, and past the 256 of a block, it is the later
one (R89; DESIGN CHOICE, log entry 47). -/
def groupBad (x : Source84) (before : List (List Nat)) (g : List Nat) (countBad : Bool) : Bool :=
  let blk := nth 0 x.blockOf (g.head?.getD 0)
  countBad || g.any (x.n ≤ ·) || g.dedup.length != g.length || g.any (fun i => before.any (·.contains i)) ||
    g.any (fun i => nth 0 x.blockOf i != blk) ||
    256 ≤ (before.filter fun o => nth 0 x.blockOf (o.head?.getD 0) == blk).length

/-- Order 5. -/
def checkGroups (x : Source84) : Nat → List (List Nat) → List (List Nat × Bool) → Try Unit
  | _, _, [] => .ok ()
  | k, before, (g, cb) :: rest =>
    if groupBad x before g cb then flt 0x6C08 (k % 2 ^ 32) else checkGroups x (k + 1) (before ++ [g]) rest

/-- The nonzero couplings, by value (R77). -/
def nonzeroEntries (x : Source84) : List (Nat × Nat × Rat) :=
  (x.entries.map fun e => (e.1, e.2.1, (fpRat e.2.2).getD 0)).filter fun e => e.2.2 != 0

/-- The nonzero intra-block and inter-block couplings of a block. -/
def intraOf (x : Source84) (es : List (Nat × Nat × Rat)) (b : Nat) : List (Nat × Nat × Rat) :=
  es.filter fun e => nth 0 x.blockOf e.1 == b && nth 0 x.blockOf e.2.1 == b
def interOf (x : Source84) (es : List (Nat × Nat × Rat)) (b : Nat) : List (Nat × Nat × Rat) :=
  es.filter fun e => (nth 0 x.blockOf e.1 == b) != (nth 0 x.blockOf e.2.1 == b)

/-- The neighbour blocks of a block, rising (R76). -/
def neighboursOf (x : Source84) (inter : List (Nat × Nat × Rat)) (b : Nat) : List Nat :=
  let l := inter.map fun e => if nth 0 x.blockOf e.1 == b then nth 0 x.blockOf e.2.1 else nth 0 x.blockOf e.1
  (List.range (blockCount x)).filter l.contains

/-- Every check of orders 2 to 7. -/
def checkSource (x : Source84) : Try Unit :=
  match checkFinite x, checkEntries x.n 0 [] x.entries, checkPartition x,
      checkGroups x 0 [] (x.groups.zip x.countBad) with
  | .error e, _, _, _ => .error e
  | _, .error e, _, _ => .error e
  | _, _, .error e, _ => .error e
  | _, _, _, .error e => .error e
  | _, _, _, _ =>
    let es := nonzeroEntries x
    let bs := List.range (blockCount x)
    match bs.find? fun b => 64 < (neighboursOf x (interOf x es b) b).length with
    | some b => flt 0x6C04 b
    | none => match bs.find? fun b => 2 ^ 20 < (interOf x es b).length with
      | some b => flt 0x6C05 b
      | none => .ok ()

/-! ### The stored form (R77-R83, R521) -/

/-- Range of the intra-block list (R78). -/
def intraRange (h : List Byte) : Nat := if hIntra h == 0 then 127 else 7

/-- The exponents of a source (R79): per block, the inter-block list, the unit. -/
structure Exponents where
  eb : List (Option Int)
  ex : Option Int
  eps : Int
deriving DecidableEq, Repr

def exponentsOf (x : Source84) (bias : Int) : Exponents :=
  let es := nonzeroEntries x
  let bs := List.range (blockCount x)
  let eb := bs.map fun b => (listExponent (intraRange x.head) ((intraOf x es b).map (·.2.2))).map (· + bias)
  let xb := bs.filterMap fun b => listExponent 32767 ((interOf x es b).map (·.2.2))
  let ex := xb.max?.map (· + bias)
  let all := eb.filterMap id ++ ex.toList
  let eps := match all.min? with
    | some e => e
    | none => ((exponentWith 0 32767 (x.linear.map fun c => (fpRat c).getD 0)).map (· + bias)).getD 0
  { eb := eb, ex := ex, eps := eps }

/-- A coupling's contribution in problem units (R81). -/
def contribution (range : Nat) (e : Option Int) (eps : Int) (v : Rat) : Int :=
  let e := e.getD 0
  if fitsAt range v e then scaled v e * 2 ^ (e - eps).toNat else scaled v eps

/-- Escapes and vanished couplings of a list (R78, R82). -/
def escapesOf (range : Nat) (e : Option Int) (vs : List Rat) : Nat := (vs.filter fun v => !fitsAt range v (e.getD 0)).length
def vanishedOf (range : Nat) (e : Option Int) (vs : List Rat) : Nat :=
  (vs.filter fun v => fitsAt range v (e.getD 0) && scaled v (e.getD 0) == 0).length

/-- The local index of a variable among a block's (R74). -/
def localIdx (vars : List Nat) (i : Nat) : Nat := vars.idxOf i

/-- The entry stored for a coupling: its quantised value, or the escape code of its list (R78). -/
def storedCode (range : Nat) (e : Option Int) (v : Rat) : Int :=
  if fitsAt range v (e.getD 0) then scaled v (e.getD 0) else -(range + 1 : Int)

/-- Couplings in order of row, then column (R77, R78). -/
def insertCoupling (x : Coupling) : List Coupling → List Coupling
  | [] => [x]
  | y :: t => if x.i < y.i || (x.i == y.i && x.j < y.j) then x :: y :: t else y :: insertCoupling x t
def sortCouplings (l : List Coupling) : List Coupling := l.foldr insertCoupling []

/-- The side list of a list: its escaped entries by row, then column, each with its exact FP32 value (R78). -/
def sideOf (range : Nat) (l : List (Coupling × Rat)) : List SideEntry :=
  (sortCouplings ((l.map (·.1)).filter fun c => c.code == -(range + 1 : Int))).map fun c =>
    { row := c.i, col := c.j, code := ((l.find? fun e => e.1 == c).map fun e => fp32Code (.real e.2)).getD 0 }

/-- A coupling of a list of a range, at a local row and a column. -/
def couplingOf (range : Nat) (e : Option Int) (eps : Int) (i j : Nat) (v : Rat) : Coupling × Rat :=
  ({ i := i, j := j, code := storedCode range e v, value := contribution range e eps v }, v)

/-- A block of the stored form. -/
def buildBlock (x : Source84) (ex : Exponents) (es : List (Nat × Nat × Rat)) (b : Nat) : Block :=
  let vars := (List.range x.n).filter fun i => nth 0 x.blockOf i == b
  let intra := intraOf x es b
  let inter := interOf x es b
  let eb := nth none ex.eb b
  let r := intraRange x.head
  let vi := intra.map (·.2.2)
  let vx := inter.map (·.2.2)
  let near := intra.map fun e => couplingOf r eb ex.eps (localIdx vars e.1) (localIdx vars e.2.1) e.2.2
  let far := inter.map fun e =>
    let mine := nth 0 x.blockOf e.1 == b
    couplingOf 32767 ex.ex ex.eps (localIdx vars (if mine then e.1 else e.2.1)) (if mine then e.2.1 else e.1) e.2.2
  { vars := vars, eb := eb, intra := sortCouplings ((near.map (·.1)).filter fun c => c.code != 0),
    inter := sortCouplings (far.map (·.1)), intraSide := sideOf r near, interSide := sideOf 32767 far,
    groups := ((x.groups.zip (List.range x.groups.length)).filter fun g => vars.contains (g.1.head?.getD x.n)).map fun g =>
      (g.2, g.1.map (localIdx vars)),
    neighbours := neighboursOf x inter b, interCount := inter.length,
    intraEscapes := escapesOf r eb vi, interEscapes := escapesOf 32767 ex.ex vx,
    intraVanished := vanishedOf r eb vi, interVanished := vanishedOf 32767 ex.ex vx }

/-- Bytes of a block of the stored form (R521). -/
def blockBytes (int4 : Bool) (b : Block) : Nat :=
  let n := b.vars.length
  let members := (b.groups.map fun g => g.2.length).sum
  64 + roundUp 256 (if int4 then (n * n + 1) / 2 else n * n) + roundUp 256 (16 * n) +
    roundUp 256 (6 * b.interCount + 4 * (n + 1)) + roundUp 256 (8 * (b.intraEscapes + b.interEscapes)) +
    roundUp 256 (4 * (b.groups.length + members))

/-- Order 8: a list over its escape budget, under a bias (R80). -/
def checkEscapes (bias : Int) (intra inter : List Nat) : List (Block × Nat) → Try Unit
  | [] => .ok ()
  | (b, k) :: rest =>
    if bias != 0 && nth 0 intra k / 64 < b.intraEscapes then flt 0x6C06 k
    else if bias != 0 && nth 0 inter k / 64 < b.interEscapes then flt 0x6C06 (2 ^ 31 + k)
    else checkEscapes bias intra inter rest

/-- Order 9: the field range of R83. -/
def checkRange (blockOf : List Nat) (blocks : List Block) (h : List Int) : Try Unit :=
  match (List.range h.length).find? fun i =>
      let b := nth noBlock blocks (nth 0 blockOf i)
      let k := localIdx b.vars i
      let m := (nth 0 h i).natAbs + ((b.intra.filter fun c => c.i == k || c.j == k).map fun c => c.value.natAbs).sum +
        ((b.inter.filter fun c => c.i == k).map fun c => c.value.natAbs).sum
      2147483647 < m with
  | some i => flt 0x6C07 i
  | none => .ok ()

/-- Order 10: a state that leaves a group with other than one hot member. -/
def checkState (groups : List (Nat × List Nat)) (bits : List Bool) : Try Unit :=
  match badGroup groups bits with
  | some g => flt 0x6C09 g
  | none => .ok ()

/-- A state given by address; 0 means the default state (R87, R91). -/
def readState (s : State) (q : Queue) (va n : Nat) (groups : List (Nat × List Nat)) : Try (List Bool) :=
  if va == 0 then .ok (defaultState n groups)
  else match readVa s q.port q.pasid va ((n + 7) / 8) with
    | .ok b => .ok (stateBits n b)
    | .error e => .error e

/-- The linear terms in problem units, and how many vanish (R81, R82). -/
def linearOf (eps : Int) (codes : List Nat) : List Int × Nat :=
  let vs := codes.map fun c => (fpRat c).getD 0
  let h := vs.map fun v => scaled v eps
  (h, ((vs.zip h).filter fun e => e.1 != 0 && e.2 == 0).length)

/-- Orders 8 to 10, and the problem they leave. -/
def buildProblem (s : State) (q : Queue) (d : Desc) (x : Source84) : Try Problem :=
  match checkSource x with
  | .error e => .error e
  | .ok _ =>
    let es := nonzeroEntries x
    let ex := exponentsOf x (dBias d)
    let bs := List.range (blockCount x)
    let blocks := bs.map (buildBlock x ex es)
    let (h, lost) := linearOf ex.eps x.linear
    let groups := (List.range x.groups.length).zip x.groups
    match checkEscapes (dBias d) (bs.map fun b => (intraOf x es b).length) (bs.map fun b => (interOf x es b).length)
        (blocks.zip bs) with
    | .error e => .error e
    | .ok _ =>
      match checkRange x.blockOf blocks h with
      | .error e => .error e
      | .ok _ =>
        match readState s q (fieldOf x.head 0x40 8) x.n groups with
        | .error e => .error e
        | .ok init =>
          match checkState groups init with
          | .error e => .error e
          | .ok _ =>
            .ok { gen := 0, port := q.port, pasid := q.pasid, n := x.n, spin := hForm x.head == 1,
                  int4 := hIntra x.head == 1, mapped := hPartition x.head == 1, blockVars := hBlockVars x.head,
                  blockOf := x.blockOf, blocks := blocks, ex := ex.ex, eps := ex.eps, h := h,
                  constant := fieldOf x.head 0x48 4, init := init, placement := dPlacement d,
                  vanishedCouplings := (blocks.map (·.intraVanished)).sum + (blocks.map (·.interVanished)).sum / 2,
                  escapedCouplings := (blocks.map (·.intraEscapes)).sum + (blocks.map (·.interEscapes)).sum / 2,
                  vanishedLinear := lost,
                  storedBytes := roundUp 4096 (4096 + (blocks.map (blockBytes (hIntra x.head == 1))).sum) }

/-! ### The load report (R92) -/

/-- An exponent in a report; 0x80 when the list is empty. -/
def reportExp (draw : Nat) : Option Int → Nat
  | some e => expByte draw e
  | none => 0x80

/-- A block record. -/
def blockRecord (draw : Nat) (b : Block) : List Byte :=
  natLe 2 b.vars.length ++ natLe 1 b.neighbours.length ++ natLe 1 (reportExp draw b.eb) ++ natLe 2 b.groups.length ++
    zeros 2 ++ natLe 4 b.interCount ++ natLe 4 b.intraEscapes ++ natLe 4 b.interEscapes ++ natLe 4 b.intraVanished ++
    natLe 4 b.interVanished ++ natLe 4 (b.vars.head?.getD 0)

/-- The report of a problem, cut to whole records. -/
def loadReport (draw : Nat) (p : Problem) (room : Nat) : List Byte :=
  natLe 4 p.blocks.length ++ natLe 1 (expByte draw p.eps) ++ natLe 1 (reportExp (draw + 1) p.ex) ++
    natLe 1 (bit01 p.spin) ++ natLe 1 (bit01 p.int4) ++ natLe 8 p.vanishedCouplings ++ natLe 8 p.escapedCouplings ++
    natLe 4 p.vanishedLinear ++ natLe 4 p.constant ++ natLe 8 p.storedBytes ++ zeros 24 ++
    ((p.blocks.zip (List.range p.blocks.length)).take ((room - 64) / 32)).flatMap fun e => blockRecord (draw + 2 + e.2) e.1

/-- Write the report a source asks for. -/
def writeReport (s : State) (q : Queue) (x : Source84) (p : Problem) : Try State :=
  let s' := { s with draws := s.draws + 2 + p.blocks.length }
  if fieldOf x.head 0x50 8 == 0 then .ok s'
  else writeVa s' q.port q.pasid (fieldOf x.head 0x50 8) (loadReport s.draws p (fieldOf x.head 0x58 8))

/-! ### The commands -/

/-- LOAD (R88, R108); 0x2C03 once no index below 65 536 is free, retired ones counted (R51, R91; DESIGN CHOICE, log entry 49). -/
def loadBody (s : State) (x : Cmd) (q : Queue) : Done :=
  within (readSource s q x.desc none) fun src =>
    within (buildProblem s q x.desc src) fun p =>
      match newIndex 65536 (fun i => (tblFind s.spin.problems i).isSome) s.spin.gens with
      | none => .stop (.faultOpen 0x2C03)
      | some (i, g) =>
        within (need (p.storedBytes ≤ s.areaFree) 0x2C01 (mib p.storedBytes)) fun _ =>
          within (writeReport s q src p) fun s1 =>
            let s2 := s1.setProblem i { p with gen := g }
            .ok { s2 with spin := { s2.spin with gens := tblPut s2.spin.gens i g } }
              (BitVec.ofNat 128 (mkHandle 2 g i + p.blocks.length * 2 ^ 64 + expByte s.draws p.eps * 2 ^ 96))

def execLoad (c : Nat) (s : State) : Out := act true s fun s => runCmd s c 0x50 loadBody

/-- The networks of a problem bound to its new unit: the lowest block whose network fails faults (R149). -/
def rebind (old new : Problem) : Try (Tbl Net) :=
  match old.blockNet.find? fun e => (tblFind old.nets e.2).all fun t => (bindNet t new.eps).isNone with
  | some e => flt 0x6C24 e.1
  | none => .ok (old.nets.map fun e => (e.1, (bindNet e.2 new.eps).getD e.2))

/-- RESCALE (R90; DEDUCED, log entry 28). -/
def rescaleBody (s : State) (x : Cmd) (q : Queue) : Done :=
  within (needIdle s q.port (dField x.desc 0x20 8) false) fun (i, old) =>
    within (readSource s q x.desc (some old)) fun src =>
      within (buildProblem s q x.desc src) fun p =>
        within (rebind old p) fun nets =>
          within (need (p.storedBytes ≤ s.areaFree + old.storedBytes) 0x2C01 (mib p.storedBytes)) fun _ =>
            within (writeReport s q src p) fun s1 =>
              .ok (s1.setProblem i { p with gen := old.gen, port := old.port, pasid := old.pasid, ladder := old.ladder,
                                            nets := nets, blockNet := old.blockNet }) 0

def execRescale (c : Nat) (s : State) : Out := act true s fun s => runCmd s c 0x51 rescaleBody

/-- New linear terms of an update (R90). -/
def updateLinear (s : State) (q : Queue) (d : Desc) (p : Problem) : Try (List Int × Nat) :=
  if !bit (dField d 0x2C 1) 0 then .ok (p.h, p.vanishedLinear)
  else match (if dField d 0x10 8 == 0 then .ok (List.replicate p.n 0) else readArray s q (dField d 0x10 8) 4 p.n) with
    | .error e => .error e
    | .ok l => match firstWhere (fun c => (fpRat c).isNone) l with
      | some k => flt 0x6C0A k
      | none => .ok (linearOf p.eps l)

/-- UPDATE (R90). -/
def updateBody (s : State) (x : Cmd) (q : Queue) : Done :=
  let d := x.desc
  let what := dField d 0x2C 1
  within (needIdle s q.port (dField d 0x20 8) false) fun (i, p) =>
    within (needDesc d 0x6C01 [(0x2C, 8 ≤ what)]) fun _ =>
      within (updateLinear s q d p) fun (h, lost) =>
        within (need (!bit what 2 || (fpRat (dField d 0x28 4)).isSome) 0x6C0A 0xFFFFFFFF) fun _ =>
          within (checkRange p.blockOf p.blocks h) fun _ =>
            within (if bit what 1 then readState s q (dField d 0x18 8) p.n p.groupsOf else .ok p.init) fun init =>
              within (checkState p.groupsOf init) fun _ =>
                .ok (s.setProblem i { p with h := h, vanishedLinear := lost, init := init,
                                             constant := if bit what 2 then dField d 0x28 4 else p.constant }) 0

def execUpdate (c : Nat) (s : State) : Out := act true s fun s => runCmd s c 0x53 updateBody

/-- FREE (R91). -/
def freeBody (s : State) (x : Cmd) (q : Queue) : Done :=
  within (needIdle s q.port (dField x.desc 0x20 8) true) fun (i, _) =>
    within (needDesc x.desc 0x6C01 []) fun _ =>
      .ok { s with spin := { s.spin with problems := tblDel s.spin.problems i } } 0

def execFree (c : Nat) (s : State) : Out := act true s fun s => runCmd s c 0x54 freeBody

/-- The energy record (R93). -/
def energyRecord (draw : Nat) (p : Problem) (bits : List Bool) : List Byte :=
  let e := energyOf p bits
  natLe 8 (ofSigned 64 e.1) ++ natLe 8 (ofSigned 64 e.2) ++ natLe 1 (expByte draw p.eps) ++ zeros 3 ++
    natLe 4 p.constant ++ zeros 8

/-- ENERGY (R90, R93): the handle is judged before the reserved bytes, an order R108 does not give (DESIGN CHOICE, log entry 47). -/
def energyBody (s : State) (x : Cmd) (q : Queue) : Done :=
  let d := x.desc
  within (needProblem s q.port (dField d 0x20 8) false) fun (_, p) =>
    within (needDesc d 0x6C01 []) fun _ =>
      within (readState s q (dField d 0x10 8) p.n p.groupsOf) fun bits =>
        within (checkState p.groupsOf bits) fun _ =>
          within (writeVa { s with draws := s.draws + 1 } q.port q.pasid (dField d 0x18 8) (energyRecord s.draws p bits))
            fun s' => .ok s' 0

def execEnergy (c : Nat) (s : State) : Out := act true s fun s => runCmd s c 0x55 energyBody

end Sys2Proof.Machine
end

