-- ==== Sys2Proof/Machine/Neural.lean ====
section
/-! DEFINITION. Registering a neural term: its checks, quantisation and attachment (R142-R153, R166). -/

namespace Sys2Proof.Machine

/-- The descriptor's fields at fault (order 1 of R166); a removal is judged on its blocks alone. -/
def termFields (d : Desc) (nBlocks : Nat) : List (Nat × Bool) :=
  let first := dField d 0x18 4
  let count := dField d 0x1C 4
  [(0x18, decide (nBlocks ≤ first)), (0x1C, count == 0 || nBlocks < first + count)] ++
    (match descReserved d with
     | some o => [(o, dField d 0x10 8 != 0)]
     | none => [])

/-- An activation exponent outside its range (R147, R151). -/
def actBad (v : Nat) : Bool := v != 0x7F && (toSigned 8 v < -64 || 63 < toSigned 8 v)

/-- The network record's fields at fault. -/
def netFields (r : List Byte) : List (Nat × Bool) :=
  [(0x04, fieldOf r 0x04 2 == 0 || 512 < fieldOf r 0x04 2), (0x06, actBad (fieldOf r 0x06 1)),
   (0x07, actBad (fieldOf r 0x07 1))] ++ ((List.range 12).map fun i => (0x34 + i, fieldOf r (0x34 + i) 1 != 0))

/-- A layer as read: weights and biases, FP32. -/
structure Layer where
  weights : List Nat
  biases : List Nat

/-- Read the three layers (R151). -/
def readLayers (s : State) (q : Queue) (r : List Byte) : Try (List Layer) :=
  let n := fieldOf r 0 4
  let w := fieldOf r 4 2
  match readArray s q (fieldOf r 0x08 8) 4 (n * w), readArray s q (fieldOf r 0x10 8) 4 w,
      readArray s q (fieldOf r 0x18 8) 4 (64 * w), readArray s q (fieldOf r 0x20 8) 4 64,
      readArray s q (fieldOf r 0x28 8) 4 64 with
  | .ok a, .ok b, .ok c, .ok d, .ok e =>
    .ok [{ weights := a, biases := b }, { weights := c, biases := d }, { weights := e, biases := [fieldOf r 0x30 4] }]
  | .error e, _, _, _, _ => .error e
  | _, .error e, _, _, _ => .error e
  | _, _, .error e, _, _ => .error e
  | _, _, _, .error e, _ => .error e
  | _, _, _, _, .error e => .error e

/-- Order 3: the first non-finite value, layers in order, weights before biases. -/
def checkLayers : Nat → List Layer → Try Unit
  | _, [] => .ok ()
  | k, l :: rest =>
    match firstWhere (fun c => (fpRat c).isNone) l.weights with
    | some i => flt 0x6C22 (k * 2 ^ 30 + i % 2 ^ 29)
    | none => match firstWhere (fun c => (fpRat c).isNone) l.biases with
      | some i => flt 0x6C22 (k * 2 ^ 30 + 2 ^ 29 + i)
      | none => checkLayers (k + 1) rest

/-- A weight layer's exponent, its integers, and how many vanish (R145). -/
def quantLayer (l : Layer) : Int × List Int × Nat :=
  let vs := l.weights.map fun c => (fpRat c).getD 0
  let e := (exponentWith 0 127 vs).getD 0
  let q := vs.map fun v => scaled v e
  (e, q, ((vs.zip q).filter fun u => u.1 != 0 && u.2 == 0).length)

/-- The smallest d with rs(v, d) at most 255, for v above 0 (R147). -/
def leastShift (v : Int) : Nat → Int → Int
  | 0, d => d
  | fuel + 1, d => if rshift v d ≤ 255 then d else leastShift v fuel (d + 1)

/-- An activation exponent: as given, or automatic from its bound (R147). -/
def actExp (given : Nat) (unit bound : Int) : Int :=
  if given != 0x7F then toSigned 8 given
  else if bound ≤ 0 then unit else unit + leastShift bound 80 (-8)

/-- The greatest of a list. -/
def greatest (l : List Int) : Int := match l with
  | [] => 0
  | x :: t => t.foldl max x

/-- Quantise a network (R145-R147); its output shift is bound later. -/
def quantNet (spin : Bool) (r : List Byte) (ls : List Layer) : Net :=
  let n := fieldOf r 0 4
  let w := fieldOf r 4 2
  let l1 := nth { weights := [], biases := [] } ls 0
  let l2 := nth { weights := [], biases := [] } ls 1
  let l3 := nth { weights := [], biases := [] } ls 2
  let (e1, q1, v1) := quantLayer l1
  let (e2, q2, v2) := quantLayer l2
  let (e3, q3, v3) := quantLayer l3
  let bias := fun (l : Layer) (e : Int) => l.biases.map fun c => scaled ((fpRat c).getD 0) e
  let cols := rowsOf w n q1
  let rows := rowsOf w 64 q2
  let pos := fun (v : Int) => if spin then (v.natAbs : Int) else max v 0
  let b1 := bias l1 e1
  let u1 := greatest ((List.range w).map fun k => nth 0 b1 k + (cols.map fun c => pos (nth 0 c k)).sum)
  let ea1 := actExp (fieldOf r 6 1) e1 u1
  let b2 := bias l2 (e2 + ea1)
  let u2 := greatest ((b2.zip rows).map fun e => e.1 + 255 * (e.2.map fun v => max v 0).sum)
  let ea2 := actExp (fieldOf r 7 1) (e2 + ea1) u2
  { nIn := n, w1 := w, e1 := e1, e2 := e2, e3 := e3, ea1 := ea1, ea2 := ea2, outShift := 0, nMax := 0, w1cols := cols,
    b1 := b1, w2rows := rows, b2 := b2, w3 := q3, b3 := (bias l3 (e3 + ea2)).head?.getD 0, vanished := v1 + v2 + v3 }

/-- Order 4: the first stored bias outside int32. -/
def checkBiases : Nat → List (List Int) → Try Unit
  | _, [] => .ok ()
  | k, l :: rest =>
    match firstWhere (fun v => v < -2147483648 || 2147483647 < v) l with
    | some i => flt 0x6C23 (k * 2 ^ 30 + i)
    | none => checkBiases (k + 1) rest

/-- Drop the stored copies that no block holds (R153). -/
def dropNets (p : Problem) : Problem := { p with nets := p.nets.filter fun e => p.blockNet.any fun b => b.2 == e.1 }

/-- Attach a network to a range of blocks (R153). -/
def attachNet (p : Problem) (first count : Nat) (t : Net) : Problem :=
  let k := (lowestFree (fun i => (tblFind p.nets i).isSome) (p.nets.length + 1) 0).getD 0
  dropNets { p with nets := tblPut p.nets k t,
                    blockNet := (List.range count).foldl (fun a i => tblPut a (first + i) k) p.blockNet }

/-- Detach the term from a range of blocks (R153). -/
def detachNet (p : Problem) (first count : Nat) : Problem :=
  dropNets { p with blockNet := p.blockNet.filter fun e => !(first ≤ e.1 && e.1 < first + count) }

/-- The result field of a registration (R152). -/
def netResult (t : Net) : BitVec 128 :=
  BitVec.ofNat 128 (leNat ([t.e1, t.e2, t.e3, t.ea1, t.ea2, t.outShift].map fun e => BitVec.ofNat 8 (ofSigned 8 e)) +
    t.nMax * 2 ^ 64 + sat32 t.vanished * 2 ^ 96)

/-- REGISTER_NEURAL_TERM (R150-R153, R166). -/
def registerBody (s : State) (x : Cmd) (q : Queue) : Done :=
  let d := x.desc
  let first := dField d 0x18 4
  let count := dField d 0x1C 4
  within (needIdle s q.port (dField d 0x20 8) false) fun (i, p) =>
    within (needFields 0x6C20 (termFields d p.blocks.length)) fun _ =>
      if dField d 0x10 8 == 0 then .ok (s.setProblem i (detachNet p first count)) 0
      else
        within (readVa s q.port q.pasid (dField d 0x10 8) 64) fun r =>
          within (needFields 0x6C20 (netFields r)) fun _ =>
            within (match (List.range count).find? fun k =>
                ((p.blocks[first + k]?).map fun b => b.vars.length) != some (fieldOf r 0 4) with
              | some k => flt 0x6C21 (first + k)
              | none => .ok ()) fun _ =>
              within (readLayers s q r) fun ls =>
                within (checkLayers 1 ls) fun _ =>
                  let t := quantNet p.spin r ls
                  within (checkBiases 1 [t.b1, t.b2, [t.b3]]) fun _ =>
                    match bindNet t p.eps with
                    | none => .stop (.fault 0x6C24 first false)
                    | some t =>
                      within (need (t.bytes ≤ s.areaFree) 0x2C01 (mib t.bytes)) fun _ =>
                        .ok (s.setProblem i (attachNet p first count t)) (netResult t)

def execRegisterNeuralTerm (c : Nat) (s : State) : Out := act true s fun s => runCmd s c 0x52 registerBody

end Sys2Proof.Machine
end

