-- ==== Sys2Proof/Machine/ConfigSpace.lean ====
section
/-! DEFINITION. The configuration space of a port's function: identity, command register and capabilities (R493, R499, R500, R502),
by the offsets of those rules. Capability numbers and the places of fields within a capability are PRESUMED from the PCIe base
specification (log entry 46). -/

namespace Sys2Proof.Machine

/-- The Command register: Memory Space Enable, Bus Master Enable, Parity Error Response, SERR# Enable; other bits read zero (R499).
-/
def commandReg (x : PortState) : Nat :=
  2 ^ 1 * bit01 x.memEnable + 2 ^ 2 * bit01 x.busMaster + 2 ^ 6 * bit01 x.parityResponse + 2 ^ 8 * bit01 x.serrEnable

/-- The capabilities below 0x100: offset, number, next (R500). -/
def capabilities : List (Nat × Nat × Nat) := [(0x40, 0x01, 0x50), (0x50, 0x10, 0xA0), (0xA0, 0x11, 0x00)]

/-- The extended capabilities: offset, number, version, next (R500). -/
def extendedCapabilities : List (Nat × Nat × Nat × Nat) :=
  [(0x100, 0x0001, 2, 0x150), (0x150, 0x0003, 1, 0x180), (0x180, 0x000F, 1, 0x1C0), (0x1C0, 0x001B, 1, 0x200),
   (0x200, 0x0013, 1, 0x240), (0x240, 0x0019, 1, 0x280), (0x280, 0x0025, 1, 0x2C0), (0x2C0, 0x0026, 1, 0x300),
   (0x300, 0x002A, 1, 0x340), (0x340, 0x0031, 1, 0x380), (0x380, 0x0027, 1, 0x000)]

/-- The MSI-X message control: 2048 vectors, function mask, enable (R454, R500). -/
def msixControl (x : PortState) : Nat := 2047 + 2 ^ 14 * bit01 x.funcMask + 2 ^ 15 * bit01 x.msixEnable

/-- The words with fields of their own: offset, value at reset, bits that a write sets, bits that a write of 1 clears. The base address
of 64 MiB (R499); PCI Express with 512-byte payloads, tags, FLIT mode, speeds and widths; error reporting; ATS, PASID and page request
controls; equalisation; scaled flow control (R500). -/
def configFields : List (Nat × Nat × Nat × Nat) :=
  [(0x10, 0x4, 0xFC000000, 0), (0x14, 0, 0xFFFFFFFF, 0), (0x54, 0x8022, 0, 0), (0x58, 0x2810, 0x79FF, 0xF0000),
   (0x5C, 0x400086, 0, 0), (0x60, 0, 0xC8, 0), (0x74, 0x30000, 0, 0), (0x78, 0, 0x1300, 0), (0x7C, 0x7E, 0, 0),
   (0x80, 6, 0xFFBF, 0)] ++
  [(0x104, 0, 0, 0x17F010), (0x108, 0, 0x17F010, 0), (0x10C, 0x22010, 0x17F010, 0), (0x110, 0, 0, 0x31C1),
   (0x114, 0x2000, 0x31C1, 0), (0x118, 0, 0, 0), (0x11C, 0, 0, 0), (0x120, 0, 0, 0), (0x124, 0, 0, 0), (0x128, 0, 0, 0)] ++
  [(0x184, 2 ^ 5, 0x801F0000, 0), (0x1C4, 20 * 2 ^ 8, 0x10000, 0), (0x204, 2 ^ 31, 1, 0), (0x208, 512, 0, 0),
   (0x20C, 0, 0xFFFFFFFF, 0), (0x248, 0, 0, 0xFF), (0x24C, 0x7F007F00, 0, 0), (0x250, 0x7F007F00, 0, 0),
   (0x254, 0x7F007F00, 0, 0), (0x258, 0x7F007F00, 0, 0), (0x284, 2 ^ 31 + 1, 2 ^ 31, 0)] ++
  ((List.range 8).map fun lane => (0x388 + 4 * lane, 0x9C38, 0xFF7F, 0))

/-- A word's value at reset and its value now. -/
def configReset (off : Nat) : Nat := ((configFields.find? fun e => e.1 == off).map (·.2.1)).getD 0
def configNow (t : Tbl Nat) (off : Nat) : Nat := tblGet (configReset off) t off
def configPut (t : Tbl Nat) (off v : Nat) : Tbl Nat := tblSet (configReset off) t off v

/-- A configuration write of one word: its writable bits are set, its bits of status cleared where 1 is written. -/
def writeConfig (t : Tbl Nat) (w : Nat × Nat) : Tbl Nat :=
  match configFields.find? fun e => e.1 == w.1 with
  | some (off, _, rw, rc) =>
    let v := configNow t off
    configPut t off (v - (v &&& rw) + (w.2 &&& rw) - (v &&& w.2 &&& rc))
  | none => t

/-- An error reported through AER: Malformed TLP, or Unexpected Completion, which is advisory, in the status words; the first one
unmasked leaves its number and header, whose four words are free values from a draw on (R471, R500). -/
def aerRecorded (t : Tbl Nat) (code draw : Nat) : Tbl Nat :=
  let n := if code == 0x9201 then 18 else 16
  let first := configNow t 0x104 == 0 && !bit (configNow t 0x108) n
  let mark := fun (t : Tbl Nat) (off k : Nat) => configPut t off (configNow t off ||| 2 ^ k)
  let t := mark (mark t 0x104 n) 0x58 (if code == 0x9201 then 17 else 16)
  let t := if code == 0x9201 then t else mark t 0x110 13
  if first then
    (List.range 4).foldl (fun t i => configPut t (0x11C + 4 * i) ((Config.freeDWord (draw + i)).toNat % 2 ^ 32)) (configPut t 0x118 n)
  else t

/-- A configuration word that is no capability header: the header of R499 and the fields of R500. -/
def configField (x : PortState) (off : Nat) : Nat :=
  if off == 0x00 then 0x07641F3D
  else if off == 0x04 then 2 ^ 20 + commandReg x
  else if off == 0x08 then 0x120000A1
  else if off == 0x2C then 0x07641F3D
  else if off == 0x34 then 0x40
  else if off == 0x44 then 2 ^ 3 + 3 * bit01 x.d3hot
  else if off == 0xA4 then 0x03000000
  else if off == 0xA8 then 0x03008000
  else if off == 0x154 then leNat ((exactly 16 Config.serial).take 4)
  else if off == 0x158 then leNat (((exactly 16 Config.serial).drop 4).take 4)
  else if off == 0x384 then 2 ^ 16 * bit01 x.linkUp
  else configNow x.config off + if off == 0x204 then 2 ^ 16 * bit01 x.pageReqsOff else 0

/-- What the header of a capability holds beside number and next: the power management version, the PCI Express version with FLIT mode,
the MSI-X message control. -/
def capabilityHead (x : PortState) (off : Nat) : Nat :=
  if off == 0x40 then 3 else if off == 0x50 then 0x8002 else if off == 0xA0 then msixControl x else 0

/-- A configuration word of a function; the functions are alike (R499). -/
def configWord (x : PortState) (off : Nat) : Nat :=
  match capabilities.find? fun c => c.1 == off with
  | some c => c.2.1 + c.2.2 * 2 ^ 8 + capabilityHead x off * 2 ^ 16
  | none => match extendedCapabilities.find? fun c => c.1 == off with
    | some c => c.2.1 + c.2.2.1 * 2 ^ 16 + c.2.2.2 * 2 ^ 20
    | none => configField x off

/-- What the link partner of a port leaves in a word. -/
def partnerWord (p : Port) (off : Nat) : Nat :=
  if off == 0x60 then 2 ^ 16 * (Config.linkStatus (p == .B) % 2 ^ 16)
  else if off == 0x288 then Config.partnerFeatures (p == .B) % 2 ^ 32 else 0

/-- A configuration read of a port: Request Retry Status in steps 4 and 5 of a reset (R478, R493). -/
def readConfig (s : State) (p : Port) (off : Nat) : Option Nat :=
  if s.flt.bootStep != 0 then none else some (configWord (s.port p) off + partnerWord p off)

end Sys2Proof.Machine
end

