-- ==== Sys2Proof/Machine/Reset.lean ====
section
/-! DEFINITION. The log's read index, PCIe partner violations and links, module reset, power-on and power-off (R464, R471-R473,
R477-R480, R495, R502, R505, R510; DEDUCED, log entry 40). -/

namespace Sys2Proof.Machine

/-! ### The fault log (R464) -/

/-- The entry of a number that the log holds: the latest has the number before FLT_LOG_HEAD. -/
def logEntryAt (s : State) (n : Nat) : BitVec 256 :=
  match s.flt.entries[(s.flt.head + 2 ^ 32 - 1 - n % 2 ^ 32) % 2 ^ 32]? with
  | some e => BitVec.ofNat 256 (leNat (logBytes e))
  | none => 0

/-- FLT_LOG_READ_IDX_WRITE (R464). -/
def logIdxWrite (s : State) (p : Port) (n : Nat) : State :=
   s.modPort p fun x => { x with logIdx := n, logEntry := logEntryAt s n }

def execFltLogReadIdxWrite (p : Port) (n : Nat) (s : State) : Out :=
  act (isWord n) s <| overBar p fun s => logIdxWrite s p n

/-! ### PCIe partner violations (R471) -/

/-- Count a violation whose command's fault is logged. -/
def countViolation (s : State) (p : Port) : State :=
  countPort s p (·.violations) (fun x v => { x with violations := v }) 0x04B 1

/-- The command of a read faults with a violation; a command that is gone leaves the violation's own log entry. -/
def readFault (s : State) (p : Port) (r : HostRead) (code : Nat) : State :=
  match s.cmd? r.command with
  | some _ => faultCmd (countViolation s p) r.command code (portIdx p)
  | none => pcieViolation s p code

/-- A report through AER: the error's status bit, malformed non-fatal or unexpected completion advisory, with the header of the first
(R471, R500; the header's words are free values and the places of the bits PRESUMED, log entry 46). -/
def aerReport (s : State) (p : Port) (code : Nat) : State :=
  let s := s.modPort p fun x => { x with config := aerRecorded x.config code s.draws }
  { s with draws := s.draws + 4 }.send (.aer p code)

/-- The outstanding read of a tag. -/
def readOf (s : State) (p : Port) (tag : Nat) : Option HostRead := (s.port p).reads.find? fun r => r.tag == tag

/-- A read without an answer: its tag is withheld, its command faults with 0x9205. One of a command killed is abandoned (R473, R478). -/
def readLost (s : State) (p : Port) (tag : Nat) : State :=
  match readOf s p tag with
  | none => s
  | some r =>
    if r.killed then s.modPort p fun x => dropRead x tag
    else readFault (s.modPort p fun x => { dropRead x tag with withheld := x.withheld ++ [tag] }) p r 0x9205

/-- A completion: of an outstanding read, or of none (0x9202); a withheld tag is released by its late completion. -/
def readAnswered (s : State) (p : Port) (tag : Nat) (poisoned : Bool) (status : Nat) : State :=
  match readOf s p tag with
  | some r =>
    let s := s.modPort p fun x => dropRead x tag
    if r.killed then s
    else if status != 0 then readFault s p r 0x9206
    else if poisoned then readFault s p r 0x9203
    else s
  | none =>
    let s := s.modPort p fun x => { x with withheld := x.withheld.filter (· != tag) }
    aerReport (pcieViolation s p 0x9202) p 0x9202

/-- PCIE_TLP_RECEIVED: the answers of R471. -/
def tlpReceived (s : State) (p : Port) : Tlp → State
  | .malformed tag =>
    let s := aerReport (pcieViolation s p 0x9201) p 0x9201
    match tag with
    | some t => readLost s p t
    | none => s
  | .completion tag poisoned status => readAnswered s p tag poisoned status
  | .bar0Poisoned => overBar p (fun s => pcieViolation s p 0x9204) s
  | .bar0Misaligned isRead => overBar p (fun s =>
    let s := pcieViolation s p 0x9204
    if isRead then s.send (.unsupportedRequest p) else s) s
  | .translationMalformed pasid page => atsCompletion (pcieViolation s p 0x9207) p pasid page false false
  | .invalidationMalformed pasid => invalidate (pcieViolation s p 0x9208) p pasid 0 (2 ^ 52)
  | .strayPrgResponse => pcieViolation s p 0x9209

def execPcieTlpReceived (p : Port) (tlp : Tlp) (s : State) : Out :=
  actAlways true s fun s => if (s.port p).linkUp then tlpReceived s p tlp else s

/-- PCIE_COMPLETION_TIMEOUT: 50 ms without a completion. -/
def execPcieCompletionTimeout (p : Port) (tag : Nat) (s : State) : Out :=
  actAlways true s fun s => readLost s p tag

/-- PCIE_TAG_WITHHOLD_EXPIRY: 1 s after the time-out. -/
def execPcieTagWithholdExpiry (p : Port) (tag : Nat) (s : State) : Out :=
  actAlways true s fun s => s.modPort p fun x => { x with withheld := x.withheld.filter (· != tag) }

/-- The live queues of a port. -/
def queuesOf (s : State) (p : Port) : List Nat :=
  (s.qfe.queues.filter fun q => q.2.port == p && q.2.state != .dead).map (·.1)

/-- POSTED_CREDITS_WITHHELD: every queue of the port enters error, and what the port would send to host memory is held in its own
buffers (R471, R484). -/
def execPostedCreditsWithheld (p : Port) (s : State) : Out :=
  act true s fun s =>
    let s := s.modPort p fun x => { x with creditsWithheld := true }
    (queuesOf s p).foldl (fun s i => match s.queue? i with
      | some q => if q.state == .error then s else queueStop s i .error 0x920B q.fetched
      | none => s) (pcieViolation s p 0x920B)

/-! ### Links and power states (R472, R502) -/

/-- The commands of a queue, nodes on its lane too. -/
def commandsOf (s : State) (i : Nat) : List Nat := (s.cmds.filter fun e => e.2.queue == i).map (·.1)

/-- A port's queues enter error, and their commands drain or are shuttered without records (R472). -/
def stopQueues (s : State) (p : Port) : State :=
  (queuesOf s p).foldl (fun s i => match s.queue? i with
    | some q =>
      let s := s.setQueue i { q with silent := true, held := [] }
      let s := if q.state == .error then s else queueStop s i .error 0x9210 q.fetched
      (commandsOf s i).foldl startShutter s
    | none => s) s

/-- PORT_LINK_DOWN: the link goes down, or PERST# asserts on a port, outside steps 4 and 5 of a reset (R472, R511). What the port held
to send is lost. -/
def execPortLinkDown (p : Port) (s : State) : Out :=
  actAlways true s fun s =>
    if s.flt.bootStep != 0 then s
    else
      let s := s.modPort p fun x => { x with linkUp := false, heldRequests := [] }
      finishDue (stopQueues (logOnPort s 0x9210 p) p) p

/-- D3HOT_TRANSITION: the port's queues as at a link down (R502). -/
def execD3hotTransition (p : Port) (s : State) : Out :=
  actAlways true s fun s =>
    if (s.port p).d3hot || s.flt.bootStep != 0 then s else stopQueues (s.modPort p fun x => { x with d3hot := true }) p

/-- The ends of tasks that waited for their port to send go on (R250, R502). -/
def resumeEnds (s : State) (p : Port) : State :=
  let ends := fun (t : Task) => taskPort s t == p && match t.wait with
    | .ending _ none => true
    | .mirror _ none => true
    | _ => false
  ((s.engines.filter fun e => e.2.task.any ends).map (·.1)).foldl (fun s e => endTask s e 0) s

/-- The queues of a port that hold records write them (R278, R502). -/
def writeHeld (s : State) (p : Port) : State :=
  (queuesOf s p).foldl (fun s i => match s.queue? i with
    | some q => flushRecords (q.held.length + 1) s i
    | none => s) s

/-- Send the messages of the vectors whose pending bit is set and whose mask is clear (R456, R502). -/
def sendPending (s : State) (p : Port) : State :=
  ((s.port p).msix.filter fun e => e.2.pending && !e.2.masked).foldl (fun s e => setVectorMask s p e.1 false) s

/-- Send the requests that a port held, in the order held. -/
def sendHeld (s : State) (p : Port) : State :=
  { s.modPort p fun x => { x with heldRequests := [] } with sent := s.sent ++ (s.port p).heldRequests }

/-- What a port held goes on once it may send requests again: requests in the order held, records, task ends, MSI-X messages, the end
of a map request (R456, R471, R502). -/
def resumePort (s : State) (p : Port) : State :=
  if (s.port p).mayRequest then finishDue (sendPending (resumeEnds (writeHeld (sendHeld s p) p) p) p) p else s

/-- PORT_LINK_UP: once boot has trained the links (R425 step 6, R472); the link starts with its credits (PRESUMED, log entry 40). -/
def execPortLinkUp (p : Port) (s : State) : Out :=
  actAlways true s fun s =>
    if s.flt.bootStep != 0 then s
    else resumePort (s.modPort p fun x => { x with linkUp := true, creditsWithheld := false }) p

/-- D3HOT_EXIT (R502). -/
def execD3hotExit (p : Port) (s : State) : Out :=
  actAlways true s fun s => resumePort (s.modPort p fun x => { x with d3hot := false }) p

/-- BUS_MASTER_ENABLE_CHANGE: a configuration write leaves the enables as given, with other words written beside them; with Bus Master
Enable set again, requests resume in the order held (R499, R500, R502). -/
def execBusMasterEnableChange (p : Port) (on memory parity serr : Bool) (msix : MsixControl) (words : List (Nat × Nat)) (s : State) :
    Out :=
  actAlways true s fun s =>
    if s.flt.bootStep != 0 || !(s.port p).linkUp then s
    else
      resumePort (s.modPort p fun x =>
        { x with busMaster := on, memEnable := memory, parityResponse := parity, serrEnable := serr, msixEnable := msix.enable,
                 funcMask := msix.mask, config := words.foldl writeConfig x.config }) p

/-! ### Fatal loss of a host die (R473) -/

/-- HOST_DIE_LOST: the survivor writes the dump (R473). -/
def execHostDieLost (lost : Port) (s : State) : Out :=
  act true s fun s => fatal { s with flt := { s.flt with peerLost := true } } 0xF002 (hostDieIdx lost)

/-! ### Module reset (R477-R480) -/

/-- Requests that a go gave and the module has not begun fail with 0x4056 (R478 step 1). -/
def failRequests (s : State) (p : Port) : State :=
  let x := s.port p
  let setup := x.setup.busy && !(match s.qfe.teardown with
    | some (o, _) => o == p
    | none => false)
  let map := x.map.busy && !(match s.hbm.job with
    | some j => j.port == p
    | none => false)
  let sec := x.sec.busy && !(s.ent p).waiting.contains (.keyBlock p)
  let end_ := fun (go : Bool) (m : Mailbox) => if go then { m with busy := false, result := 0x4056 } else m
  let s := s.setPort p { x with setup := end_ setup x.setup, map := end_ map x.map, sec := end_ sec x.sec }
  let s := if setup then { s with qfe := { s.qfe with setupOrder := s.qfe.setupOrder.filter (· != p) } }.fire (0x080 + portIdx p) else s
  let s := if map then { s with hbm := { s.hbm with mapOrder := s.hbm.mapOrder.filter (· != p) } }.fire (0x082 + portIdx p) else s
  if sec then { s with sec := { s.sec with secOrder := s.sec.secOrder.filter (· != p) } }.fire (0x084 + portIdx p) else s

/-- FLT_RESET_STATUS while a reset is in step 1 or 2: the requester, and the end of the 2 ms. -/
def warnPort (requester : Nat) (s : State) (p : Port) : State :=
  s.modPort p fun x => { x with warning := true, requester := requester, graceEnd := s.time + 2000000 }

/-- Steps 1 and 2: requester 0 port A, 1 port B, 2 the board (R478, R479). -/
def beginReset (s : State) (requester : Nat) : State :=
  let s := { s with flt := { s.flt with resetStep := 2, requester := requester, acks := [], dumpKept := s.flt.stopped } }
  let s := failRequests (failRequests s .A) .B
  let s := warnPort requester (warnPort requester s .A) .B
  let s := if requester != 0 then msixTrigger s .A s.portA.warnVec else s
  if requester != 1 then msixTrigger s .B s.portB.warnVec else s

/-- Step 3: running commands are killed without records (R478). -/
def killStep (s : State) : State := stepThree (killAll s)

/-- An ack of a port: step 2 ends when the other port has acknowledged, for a board request both (R478, R479). -/
def resetAck (s : State) (p : Port) : State :=
  if s.flt.resetStep != 2 || s.flt.requester == portIdx p then s
  else
    let s := { s with flt := { s.flt with acks := p :: s.flt.acks } }
    if s.flt.requester != 2 || (s.flt.acks.contains .A && s.flt.acks.contains .B) then killStep s else s

/-- May a reset be asked for through a port's BAR0 (R493)? -/
def resetReached (s : State) (p : Port) : Bool :=
  s.barReached p && s.flt.bootStep == 0 && !s.sec.bootFailed && s.sec.lifecycle != 0 && s.sec.lifecycle != 4

/-- MODULE_RESET_REQUEST: FLT_RESET.key through a port (R477, R479). -/
def resetRequest (s : State) (p : Port) (key : Nat) : State :=
  if key != 0x7E5E || !resetReached s p then s
  else if s.flt.resetStep == 0 then beginReset s (portIdx p)
  else resetAck s p

def execModuleResetRequest (p : Port) (key : Nat) (s : State) : Out := actAlways true s fun s => resetRequest s p key

/-- RESET_ACK: FLT_RESET.ack through a port. -/
def execResetAck (p : Port) (s : State) : Out :=
  actAlways true s fun s => if resetReached s p then resetAck s p else s

/-- RESET_GRACE_EXPIRY: 2 ms without an ack (R478). -/
def execResetGraceExpiry (s : State) : Out :=
  actAlways true s fun s => if s.flt.resetStep == 2 then killStep s else s

/-! ### What a reset leaves (R480, R494, R495) -/

/-- A die: power, live and stored values stay. -/
def dieAfter (x : Die) (d : Nat) : Die :=
  { dieReset d with powered := x.powered, tempC := x.tempC, thermal := x.thermal, powerCw := x.powerCw,
                    marginMv := x.marginMv, ageingMv := x.ageingMv }

def diesAfter (s : State) : Tbl Die :=
  (List.range 64).foldl (fun t d => tblSet (dieReset d) t d (dieAfter (s.die d) d)) []

/-- Engines: every fence is lost, but an engine of a die without power has none. -/
def enginesAfter (s : State) : Tbl Engine :=
  (List.range 768).foldl (fun t e =>
    let x : Engine := if (s.die (engineDie e)).powered then {} else { usable := false, fenceCause := 0x7040, louvre := 0 }
    tblSet {} t e x) []

/-- A stack: its training, its removed pages; counts 0. -/
def stackAfter (x : Stack) : Stack :=
  { state := x.state, removedPages := x.removedPages, tempC := x.tempC, thermal := x.thermal, laneMap := x.laneMap,
    badPins := x.badPins }

/-- The HBM tier with no page mapped. -/
def hbmAfter (s : State) : Hbm :=
  { stackTbl := s.hbm.stackTbl.foldl (fun t e => tblSet {} t e.1 (stackAfter e.2)) [], redirected := s.hbm.redirected,
    lostSpares := s.hbm.lostSpares }

/-- The last stack that holds a page of an area, in the order pages were taken. -/
def lastOfTurns (l : List (Nat × Nat × Nat)) : Nat :=
  let top := (l.map fun e => e.2.2).foldl max 0
  ((l.filter fun e => e.2.2 == top && top != 0).getLast?.map (·.1)).getD 15

/-- Place the two areas at reset: the graph area from S00 on, the problem area after its last page (R330). -/
def placeAreas (s : State) : State :=
  let room := fun (n : Nat) => if s.stackUp n then stackPages - (s.stack n).removedPages.length else 0
  let g := takeTurns 64 1024 ((List.range 24).map fun n => (n, room n, 0))
  let gp := g.foldl (fun t e => tblSet (if e.1 < 16 then 43 else 42) t e.1 e.2.2) []
  let last := lastOfTurns g
  let given := fun (n : Nat) => ((g.find? fun e => e.1 == n).map fun e => e.2.2).getD 0
  let p := takeTurns 64 32768 (((List.range 24).map fun k => (last + 1 + k) % 24).map fun n => (n, room n - given n, 0))
  let pp := p.foldl (fun t e => tblSet (if e.1 < 16 then 1365 else 1366) t e.1 e.2.2) []
  { s with hbm := { s.hbm with graphPages := gp, problemPages := pp, graphLast := last } }

/-- The flash tier keeps all but its statistic and the stores' bindings (R343, R480). -/
def flashAfter (f : Flash) : Flash :=
  { f with uncorrectable := {}, stores := f.stores.map fun e => (e.1, { e.2 with bound := none }) }

/-- The mesh keeps what bridge training found: fenced bridges and their detours. -/
def meshAfter (m : Mesh) : Mesh :=
  let f := fun (x : OutPort) => ({ fencedHalves := x.fencedHalves, spareHalves := x.spareHalves } : OutPort)
  { outs := m.outs.foldl (fun t e => tblSet {} t e.1 (f e.2)) [], detours := m.detours }

/-- A port: all registers at reset; the dump window stays where the reset was requested after a fatal error (R495); the link is
down. -/
def portAfter (x : PortState) (keepDump : Bool) : PortState :=
  if keepDump then { linkUp := false, dumpAddr := x.dumpAddr, dumpEnable := x.dumpEnable } else { linkUp := false }

/-- The spaces that keep their bytes: the hosts' memory, stores and dump slots. -/
def memAfter (m : List Host.Cell) : List Host.Cell :=
  m.filter fun c => c.1 < memKey (.dump 2) 0 || (memKey (.virt .A 0) 0 ≤ c.1 && c.1 < memKey (.page 0 0) 0) ||
    memKey (.store 0) 0 ≤ c.1

/-- Every die is reset, and the module waits for boot (R478 steps 4 and 5, R480, R495). -/
def allReset (s : State) : State :=
  placeAreas
    { State.reset with
      pending := s.pending, time := s.time, draws := s.draws, reply := s.reply, sent := (s.sent ++ [.linkDown .A]) ++ [.linkDown .B],
      mem := memAfter s.mem, dies := diesAfter s, engines := enginesAfter s, mesh := meshAfter s.mesh,
      hbm := hbmAfter s, fls := flashAfter s.fls, mgmt := s.mgmt,
      portA := portAfter s.portA s.flt.dumpKept, portB := portAfter s.portB s.flt.dumpKept, hostA := { keys := none },
      hostB := { keys := none },
      pwr := { inputMv := s.pwr.inputMv, inputW := s.pwr.inputW, bankMv := s.pwr.bankMv, uvExcursion := s.pwr.uvExcursion,
               ovExcursion := s.pwr.ovExcursion },
      sec := { s.sec with secOrder := [] },
      flt := { dumpNumber := s.flt.dumpNumber, resetStep := 4, bootStep := 1 } }

/-- A dump mirror that has not ended after 2 s is abandoned and its slot marked invalid (R347, R478 step 3). -/
def abandonMirror (s : State) : State :=
  if s.flt.mirror == 1 then setDump s (1 - s.fls.latestDump) {} else s

/-- The mirror that a module reset abandons is logged (R347). -/
def resetMirror (s : State) : State :=
  if s.flt.mirror == 1 then logPlain (abandonMirror s) 0xA050 (noDetail 0xA050) else s

/-- RESET_DIES (R478 steps 4 and 5). -/
def execResetDies (s : State) : Out :=
  actAlways true s fun s => if s.flt.resetStep == 3 then allReset (resetMirror s) else s

/-! ### Power (R433, R435, R505, R510) -/

/-- A mesh tamper event takes the state from DEPLOYED to PROVISIONED at the next power-on (R435 step 4). -/
def meshTransition (s : State) : State :=
  if s.sec.meshTampered then
    let s := if s.sec.lifecycle == 2 && 0 < s.sec.transitionsLeft then moveTo s 1 else s
    { s with sec := { s.sec with meshTampered := false } }
  else s

/-- Every stack trains at power-up, one that was absent, too; a fenced one serves no request (R329). -/
def trainStacks (s : State) : State :=
  { s with hbm := { s.hbm with stackTbl := s.hbm.stackTbl.foldl (fun t e => tblSet {} t e.1
      (if e.2.state == .absent then { e.2 with state := if e.2.badPins.isEmpty then .up else .degraded } else e.2)) [] } }

/-- A stack that fails training at power-up is absent (R329). -/
def failTraining (s : State) (n : Nat) : State := s.setStack n { s.stack n with state := .absent }

/-- POWER_ON: the bank charges, the rails rise; records of the life cycle that disagree are fatal, a lid found open counts as an
event, the tamper record is read and its MAC checked; stacks train; the host dies' scratchpads are marched; written flash blocks are
to be read (R259, R260, R262, R329, R341, R391, R433, R435, R505). The input alone powers the PMBus status, which stays (R507). -/
def powerOn (s : State) (recordsAgree : Bool) (record : Option TamperRecord) (lidOpen : Bool) (absent : List Nat)
    (marchA marchB : March) : State :=
  if s.mgmt.powerGood then s
  else
    let s := allReset { s with flt := { s.flt with stopped := false, dumpKept := false } }
    let s := { s with pwr := { inputMv := max 53000 s.pwr.inputMv, bankMv := max 52000 s.pwr.bankMv },
                      mgmt := { s.mgmt with powerGood := true, busFailed := false, lostInterfaces := [] },
                      fls := flashPowerOn s.fls,
                      sec := { s.sec with keyBlockRefuses := false, bootFailed := false } }
    let s := placeAreas (absent.foldl failTraining (trainStacks (readTamper s record)))
    let s := meshTransition (fullMarch (fullMarch (wipeBoth s) 768 marchA) 769 marchB)
    if !recordsAgree then fatal s 0xF802 (noDetail 0xF802)
    else if lidOpen then tamper s 2
    else s

def execPowerOn (recordsAgree : Bool) (record : Option TamperRecord) (lidOpen : Bool) (absent : List Nat)
    (marchA marchB : March) (s : State) : Out :=
  actAlways (absent.all isStack) s fun s => powerOn s recordsAgree record lidOpen absent marchA marchB

/-- The first stage stops: a dump in progress is abandoned, PGOOD falls, FLT_FATAL is gone with the dies' power; what had completed in a
store stays (R340, R505). -/
def collapse (s : State) : State :=
  let s := killAll (abandonMirror s)
  let down := fun (x : PortState) => { x with linkUp := false, reads := [] }
  { s with mgmt := { s.mgmt with powerGood := false, vinUv := true },
           flt := { s.flt with bootStep := 1, mirror := 0, stopped := false },
           hostA := { s.hostA with keys := none }, hostB := { s.hostB with keys := none },
           portA := down s.portA, portB := down s.portB }

/-- INPUT_COLLAPSE: the input falls below 40 V (R505). -/
def execInputCollapse (s : State) : Out :=
  actAlways true s fun s =>
    if !s.mgmt.powerGood then s
    else collapse { s with pwr := { s.pwr with inputMv := min 39999 s.pwr.inputMv } }

/-- With the input off the management interfaces lose what they hold; the pins stay as the board drives them (R507). -/
def dropInput (s : State) : State :=
  { s with mgmt := { powerGood := false, busFailed := s.mgmt.busFailed, holdoffHigh := s.mgmt.holdoffHigh, addr0 := s.mgmt.addr0,
                     addr1 := s.mgmt.addr1, lostInterfaces := s.mgmt.lostInterfaces } }

/-- INPUT_VOLTAGE_CHANGE: below 40 V the first stage stops at once and no dump is written; above that the responses of R392 (R505,
R518). While the first stage is off the voltage alone is noted. -/
def inputChange (s : State) (mv : Nat) : State :=
  let s := { s with pwr := { s.pwr with inputMv := mv } }
  let s := if !s.mgmt.powerGood then s else if mv < 40000 then collapse s else inputResponse s mv
  if mv == 0 then dropInput s else s

def execInputVoltageChange (mv : Nat) (s : State) : Out := actAlways true s fun s => inputChange s mv

/-- SPI_HOLDOFF_CHANGE: low, the bus is released and boot waits; high, a boot that waits goes on from step 1 (R510). -/
def execSpiHoldoffChange (high : Bool) (s : State) : Out :=
  actAlways true s fun s => { s with mgmt := { s.mgmt with holdoffHigh := high } }

end Sys2Proof.Machine
end

