-- ==== Sys2Proof/Machine/Pmbus.lean ====
section
/-! DEFINITION. The management interfaces: PMBus commands over SMBus and I3C, and the status pins (R507-R509; PRESUMED, log entry
42). A read's data is left in `reply`, a block with its byte count first. -/

namespace Sys2Proof.Machine

/-- Is the input on, which alone powers the management interfaces (R507; off is 0 mV: DESIGN CHOICE, log entry 42)? -/
def inputOn (s : State) : Bool := 0 < s.pwr.inputMv

/-- Is every core rail in regulation: the first stage runs, its bus has not failed, and no die has lost its rail (R409, R507)? -/
def railsGood (s : State) : Bool :=
  s.mgmt.powerGood && !s.mgmt.busFailed && (List.range 64).all fun d => (s.die d).powered

/-- The shell of a management command: with the input off the pins load no bus (R507). -/
def overBus (f : State → State) (s : State) : State := if inputOn s then f s else s
def onBus (s : State) (f : State → State) : Out := actAlways true s (overBus f)

/-- Answer a read. -/
def State.answer (s : State) (v : Nat) : State := { s with reply := v }

/-- The static I3C address and the SMBus address that the address straps give (R508). -/
def i3cAddress (m : Management) : Nat := 0x50 + 2 * bit01 m.addr1 + bit01 m.addr0
def smbusAddress (m : Management) : Nat := 0x40 + 2 * bit01 m.addr1 + bit01 m.addr0

/-- STATUS_INPUT: VIN_OV fault, VIN_OV warning, VIN_UV warning, VIN_UV fault in bits 7 to 4. -/
def statusInput (m : Management) : Nat :=
  2 ^ 7 * bit01 m.vinOv + 2 ^ 6 * bit01 m.ovWarning + 2 ^ 5 * bit01 m.uvWarning + 2 ^ 4 * bit01 m.vinUv

/-- STATUS_TEMPERATURE: OT fault and OT warning in bits 7 and 6. -/
def statusTemperature (m : Management) : Nat := 2 ^ 7 * bit01 m.otFault + 2 ^ 6 * bit01 m.otWarning

/-- STATUS_WORD: VIN_OV 13 (INPUT), POWER_GOOD# 11, OFF 6, VIN_UV 3, TEMPERATURE 2. -/
def statusWord (s : State) : Nat :=
  let m := s.mgmt
  2 ^ 13 * bit01 (m.vinOv || m.ovWarning) + 2 ^ 11 * bit01 (!railsGood s) + 2 ^ 6 * bit01 (!m.powerGood) +
    2 ^ 3 * bit01 (m.vinUv || m.uvWarning) + 2 ^ 2 * bit01 (m.otFault || m.otWarning)

/-- Is a STATUS_ bit set that its alert mask lets through (R508)? -/
def alertDue (m : Management) : Bool :=
  statusInput m - (statusInput m &&& tblGet 0 m.alertMask 0x7C) != 0 ||
    statusTemperature m - (statusTemperature m &&& tblGet 0 m.alertMask 0x7D) != 0

/-- The pins of the management connector: SMBALERT# asserted, MOD_FATAL# low, PGOOD high; with the input off every pin is released
(R507, R508). -/
def alertPin (s : State) : Bool := inputOn s && alertDue s.mgmt
def fatalPin (s : State) : Bool := inputOn s && s.flt.stopped
def goodPin (s : State) : Bool := inputOn s && railsGood s

/-- LINEAR11 of a value in thousandths: an 11-bit mantissa and the least exponent from -16 on that it fits, rounded down. -/
def linear11 (milli : Nat) : Nat :=
  match (List.range 27).find? fun k => milli * 2 ^ 16 / (1000 * 2 ^ k) < 1024 with
  | some k => ofSigned 5 ((k : Int) - 16) * 2 ^ 11 + milli * 2 ^ 16 / (1000 * 2 ^ k)
  | none => 0

/-- A block read: byte count and bytes. -/
def blockOf (b : List Byte) : Nat := leNat (natLe 1 b.length ++ b)

def execClearFaults (s : State) : Out :=
  onBus s fun s => { s with mgmt := { s.mgmt with vinUv := false, vinOv := false, uvWarning := false, ovWarning := false,
                                                  otWarning := false, otFault := false } }

/-- SMBALERT_MASK of one STATUS_ command: read, or written. -/
def execSmbalertMask (status : Nat) (w : Option Nat) (s : State) : Out :=
  actAlways (decide (status < 256) && w.all fun v => decide (v < 256)) s <| overBus fun s => match w with
    | some v => { s with mgmt := { s.mgmt with alertMask := tblSet 0 s.mgmt.alertMask (status % 256) (v % 256) } }
    | none => s.answer (tblGet 0 s.mgmt.alertMask (status % 256))

def execStatusWord (s : State) : Out := onBus s fun s => s.answer (statusWord s)
def execStatusInput (s : State) : Out := onBus s fun s => s.answer (statusInput s.mgmt)
def execStatusTemperature (s : State) : Out := onBus s fun s => s.answer (statusTemperature s.mgmt)

/-- READ_VIN: PWR_INPUT.input_mv in volts. -/
def execReadVin (s : State) : Out := onBus s fun s => s.answer (linear11 s.pwr.inputMv)

/-- READ_IIN: input current in amperes, the input power over the input voltage. -/
def execReadIin (s : State) : Out := onBus s fun s => s.answer (linear11 (s.pwr.inputW * 1000000 / max 1 s.pwr.inputMv))

def execReadTemperature1 (s : State) : Out := onBus s fun s => s.answer (hottestDie s)

/-- READ_TEMPERATURE_2: the hottest HBM stack. -/
def execReadTemperature2 (s : State) : Out :=
  onBus s fun s => s.answer (((List.range 24).map fun n => (s.stack n).tempC).foldl max 0)

def execReadPin (s : State) : Out := onBus s fun s => s.answer s.pwr.inputW
def execMfrId (s : State) : Out := onBus s fun s => s.answer (blockOf (textBytes "TOLAUX"))
def execMfrModel (s : State) : Out := onBus s fun s => s.answer (blockOf (textBytes "TLX-VM64-A1"))
def execMfrSerial (s : State) : Out := onBus s fun s => s.answer (blockOf (exactly 16 Config.serial))

/-- May the board ask for a reset: no reset is under way, or a fatal error has stopped the module while it waits to boot (R477, R479,
R509)? The module's power and its firmware must be there to take it. -/
def boardMayReset (s : State) : Bool :=
  s.mgmt.powerGood && ((s.flt.resetStep == 0 && s.flt.bootStep == 0) || (s.flt.stopped && 4 ≤ s.flt.resetStep))

/-- MFR_MODULE_RESET: 0x7E5E asks for a module reset, unless one is under way (R477, R509). -/
def execMfrModuleReset (v : Nat) (s : State) : Out :=
  actAlways (decide (v < 2 ^ 16)) s <| overBus fun s =>
    if v == 0x7E5E && boardMayReset s then beginReset s 2 else s

/-- MFR_LIFECYCLE: SEC_LIFECYCLE bits 31:16. -/
def execMfrLifecycle (s : State) : Out := onBus s fun s => s.answer (readSec s .A 0 / 2 ^ 16)

end Sys2Proof.Machine
end

