-- ==== Sys2Proof/Machine/RegWrite.lean ====
section
/-! DEFINITION. Writes of set-up registers: STATISTIC_CLEAR and REGISTER_WRITE (R12-R16, R458, R474, R487-R497, R519;
DEDUCED, log entry 41). -/

namespace Sys2Proof.Machine

/-! ### Statistics (R13, R44, R107, R140, R196, R232, R298, R348, R388, R410, R437, R458, R485, R492) -/

/-- Change a statistic of a die's engines, annealers and scratchpads. -/
def modDieStat (s : State) (d off : Nat) (f : Stat → Stat) : State :=
  let eng := fun (i : Nat) (g : Engine → Engine) => if d < 48 then s.modEng (16 * d + i) g else s
  match inArray off 0x400 4 32 with
  | some k =>
    if k < 16 then eng k fun g => { g with streamTag := f g.streamTag }
    else eng (k - 16) fun g => { g with accReplay := f g.accReplay }
  | none =>
    match inArray off 0x20000 4 256 with
    | some k =>
      let i := k / 16
      if k % 16 == 0 then eng i fun g => { g with batches := f g.batches }
      else if k % 16 == 1 then eng i fun g => { g with deferrals := f g.deferrals }
      else if k % 16 == 2 then eng i fun g => { g with groupRefusals := f g.groupRefusals }
      else if k % 16 == 3 then eng i fun g => { g with tableLate := f g.tableLate }
      else if k % 16 == 4 then eng i fun g => { g with epochWaits := f g.epochWaits }
      else s
    | none =>
      match inArray off 0x30000 4 256 with
      | some k =>
        if !(d < 48 || (62 ≤ d && k / 16 == 0)) then s
        else
          let m := k % 16
          if m < 8 then s.modBank (bankOf d (k / 16)) fun b =>
            { b with conflicts := tblSet {} b.conflicts m (f (tblGet {} b.conflicts m)) }
          else if m == 10 then s.modBank (bankOf d (k / 16)) fun b => { b with ecc := f b.ecc }
          else s
      | none =>
        if off == 0x14 then s.modDie d fun x => { x with meshStall := f x.meshStall }
        else if off == 0x18 then s.modDie d fun x => { x with lossTop := f x.lossTop }
        else if off == 0x10100 && dieKind d == 2 then s.modDie d fun x => { x with fecCorrected := f x.fecCorrected }
        else if off == 0x40020 && d < 48 then s.modDie d fun x => { x with louvreTime := f x.louvreTime }
        else s

/-- Change the statistic of a BAR0 offset, if it is one. -/
def modStat (s : State) (p : Port) (off : Nat) (f : Stat → Stat) : State :=
  if off == 0x100018 then s.modPort p fun x => { x with shutter := f x.shutter }
  else if off == 0x300018 then { s with pwr := { s.pwr with capLimited := f s.pwr.capLimited } }
  else if off == 0x400010 then s.setEnt p { s.ent p with healthFail := f (s.ent p).healthFail }
  else if off == 0x400014 then s.setEnt p { s.ent p with consumerErr := f (s.ent p).consumerErr }
  else if off == 0x500020 then { s with hbm := { s.hbm with corrected := f s.hbm.corrected } }
  else if off == 0x500024 then { s with hbm := { s.hbm with uncorrected := f s.hbm.uncorrected } }
  else if off == 0x600014 then { s with fls := { s.fls with uncorrectable := f s.fls.uncorrectable } }
  else if off == 0x700048 then { s with opx := { s.opx with slipCount := f s.opx.slipCount } }
  else if off == 0x70004C then { s with opx := { s.opx with repeatCount := f s.opx.repeatCount } }
  else if off == 0x700050 then { s with opx := { s.opx with violations := f s.opx.violations } }
  else if off == 0x8000B0 then s.modPort p fun x => { x with violations := f x.violations }
  else if 0x1000000 ≤ off && off < 0x3000000 then
    let d := (off - 0x1000000) / 0x80000
    if (s.die d).powered then modDieStat s d ((off - 0x1000000) % 0x80000) f else s
  else s

/-- STATISTIC_CLEAR, through either port (R458, R492). -/
def execStatisticClear (p : Port) (off v : Nat) (s : State) : Out :=
  act (decide (off < 2 ^ 26) && isWord v) s <| overBar p fun s => modStat s p off fun c => statWrite c v

/-! ### Mailboxes (R293, R332, R436) -/

/-- One word of a 64-bit field. -/
def putWord (old : Nat) (high : Bool) (v : Nat) : Nat :=
  if high then v * 2 ^ 32 + old % 2 ^ 32 else old / 2 ^ 32 * 2 ^ 32 + v

/-- The mailbox registers: address words, go; bits 6:0 of the address are reserved. -/
def mailAddr (m : Mailbox) (high : Bool) (v : Nat) : Mailbox := { m with addr := putWord m.addr high v / 128 * 128 }

/-- A go: busy is set, or, once a reset was asked for, the request fails with 0x4056 (R293, R478). -/
def goMail (m : Mailbox) (resetting : Bool) : Mailbox :=
  if resetting then { m with result := 0x4056 } else { m with busy := true }

/-- A go of the set-up, the map or the security mailbox; writing it while busy has no effect. -/
def goSetup (s : State) (p : Port) : State :=
  let r := s.flt.resetStep != 0
  if (s.port p).setup.busy then s
  else
    let s := s.modPort p fun x => { x with setup := goMail x.setup r }
    if r then s.fire (0x080 + portIdx p) else { s with qfe := { s.qfe with setupOrder := s.qfe.setupOrder ++ [p] } }

def goMap (s : State) (p : Port) : State :=
  let r := s.flt.resetStep != 0
  if (s.port p).map.busy then s
  else
    let s := s.modPort p fun x => { x with map := goMail x.map r }
    if r then s.fire (0x082 + portIdx p) else { s with hbm := { s.hbm with mapOrder := s.hbm.mapOrder ++ [p] } }

def goSec (s : State) (p : Port) : State :=
  let r := s.flt.resetStep != 0
  if (s.port p).sec.busy then s
  else
    let s := s.modPort p fun x => { x with sec := goMail x.sec r }
    if r then s.fire (0x084 + portIdx p) else { s with sec := { s.sec with secOrder := s.sec.secOrder ++ [p] } }

/-! ### The windows, word by word (R487, R492) -/

def writeQfe (s : State) (p : Port) (off v : Nat) : State :=
  if off == 0x00 then s.modPort p fun x => { x with setup := mailAddr x.setup false v }
  else if off == 0x04 then s.modPort p fun x => { x with setup := mailAddr x.setup true v }
  else if off == 0x08 then (if bit v 0 then goSetup s p else s)
  else if off == 0x10 then timeLimitWrite s p v
  else if off == 0x14 then pollWrite s p v
  else match inArray off 0x40 4 24 with
    | some n => enginePortWrite s p n v
    | none => match inArray off 0xC0 4 24 with
      | some n => sillWrite s p n v
      | none => s

/-- EVC_VEC_COAL_n; a count of 0 is treated as 1. -/
def vecCoalWrite (s : State) (p : Port) (n v : Nat) : State :=
  s.modPort p fun x =>
    let m := tblGet {} x.msix n
    { x with msix := tblSet {} x.msix n { m with interval := bits v 16 10, count := max 1 (bits v 0 8) } }

def writeEvc (s : State) (p : Port) (off v : Nat) : State :=
  match inArray off 0 4 32 with
  | some k => s.modPort p fun x => { x with hostEnable := tblSet 0 x.hostEnable k v }
  | none =>
    match inArray off 0x80 4 32 with
    | some k => hostCauseClear s p k v
    | none =>
      if off == 0x100 then s.modPort p fun x => { x with hostVec := bits v 0 11 }
      else match inArray off 0x1000 4 2048 with
        | some n => vecCoalWrite s p n v
        | none => s

def writePwr (s : State) (p : Port) (off v : Nat) : State :=
  if off == 0x00 then capWrite s p v
  else if off == 0x04 then powerCtrlWrite s p v
  else match inArray off 0x400 4 256 with
    | some n => phaseWrite s p n v
    | none => s

def writeSec (s : State) (p : Port) (off v : Nat) : State :=
  if off == 0x10 then s.modPort p fun x => { x with sec := mailAddr x.sec false v }
  else if off == 0x14 then s.modPort p fun x => { x with sec := mailAddr x.sec true v }
  else if off == 0x18 then (if bit v 0 then goSec s p else s)
  else s

def writeMem (s : State) (p : Port) (off v : Nat) : State :=
  if off == 0x00 then s.modPort p fun x => { x with map := mailAddr x.map false v }
  else if off == 0x04 then s.modPort p fun x => { x with map := mailAddr x.map true v }
  else if off == 0x08 then (if bit v 0 then goMap s p else s)
  else if off == 0x10 then problemAreaWrite s p v
  else s

/-- The OPX window is written through port A only. -/
def writeOpx (s : State) (p : Port) (off v : Nat) : State :=
  if p != .A then s
  else if off == 0x00 then refreshPairs { s with opx := { s.opx with hallId := bits v 0 16 } }
  else if off == 0x04 then frameWrite s p v
  else if off == 0x0C then { s with opx := { s.opx with markX0 := v } }
  else if off == 0x10 then { s with opx := { s.opx with markX3 := v } }
  else if off == 0x14 then { s with opx := { s.opx with launchNs := v } }
  else if off == 0x18 then { s with opx := { s.opx with holdoverLimit := bits v 0 13 } }
  else if off == 0x20 then cascadeWrite s p v
  else if off == 0x24 then (if (cascadeCommands s).isEmpty then { s with opx := { s.opx with leadHall := bits v 0 16 } } else s)
  else s

/-- FLT_RESET: the key, then the ack (R477, R478). -/
def resetWrite (s : State) (p : Port) (v : Nat) : State :=
  let s := resetRequest s p (bits v 0 16)
  if bit v 16 && resetReached s p then resetAck s p else s

/-- The FLT window; while the module is stopped only its dump and reset registers are written (R473, R474). FLT_ENGINE_RETURN
acts by the command of its own. -/
def writeFlt (s : State) (p : Port) (off v : Nat) : State :=
  if off == 0x40 then s.modPort p fun x => { x with dumpAddr := putWord x.dumpAddr false v / 4096 * 4096 }
  else if off == 0x44 then s.modPort p fun x => { x with dumpAddr := putWord x.dumpAddr true v }
  else if off == 0x48 then s.modPort p fun x => { x with dumpEnable := bit v 0 }
  else if off == 0x80 then resetWrite s p v
  else if s.flt.stopped then s
  else if off == 0x04 then logIdxWrite s p v
  else if off == 0x88 then s.modPort p fun x => { x with warnVec := bits v 0 11 }
  else s

/-- OPX_PEER_n, through port A: the pair goes dark or comes up as its peer allows. -/
def peerWrite (s : State) (k v : Nat) : State :=
  refreshPair (s.modPair k fun x => { x with peerHall := bits v 16 16, peerDie := bits v 8 8, peerPos := bits v 0 8 }) k

/-- A die window through port A; a write to a die without power is dropped (R491, R492, R497). -/
def writeDie (s : State) (p : Port) (d off v : Nat) : State :=
  if p != .A || !(s.die d).powered then s
  else if dieKind d == 2 then
    match inArray off 0x10000 4 24 with
    | some n => pairRetrain s p (d - 56) n v
    | none => match inArray off 0x10080 4 24 with
      | some n => peerWrite s (pairKey (d - 56) n) v
      | none => s
  else if off == 0x30400 then testCtrlWrite s p d v
  else s

/-- An MSI-X table word (R454). -/
def writeMsix (s : State) (p : Port) (off v : Nat) : State :=
  let n := off / 16
  let k := off % 16 / 4
  let f := fun (g : MsixVector → MsixVector) => s.modPort p fun x => { x with msix := tblSet {} x.msix n (g (tblGet {} x.msix n)) }
  if k == 0 then f fun m => { m with addr := putWord m.addr false v / 4 * 4 }
  else if k == 1 then f fun m => { m with addr := putWord m.addr true v }
  else if k == 2 then f fun m => { m with data := v }
  else setVectorMask s p n (bit v 0)

/-- A 32-bit write of a running module. -/
def writeWindow (s : State) (p : Port) (off v : Nat) : State :=
  if off < 0x100000 then s
  else if off < 0x200000 then writeQfe s p (off - 0x100000) v
  else if off < 0x300000 then writeEvc s p (off - 0x200000) v
  else if off < 0x400000 then writePwr s p (off - 0x300000) v
  else if off < 0x408000 then s
  else if off < 0x500000 then writeSec s p (off - 0x408000) v
  else if off < 0x600000 then writeMem s p (off - 0x500000) v
  else if off < 0x700000 then s
  else if off < 0x800000 then writeOpx s p (off - 0x700000) v
  else if off < 0x900000 then writeFlt s p (off - 0x800000) v
  else if off < 0x1000000 then s
  else if off < 0x3000000 then writeDie s p ((off - 0x1000000) / 0x80000) ((off - 0x1000000) % 0x80000) v
  else if off < 0x3008000 then writeMsix s p (off - 0x3000000) v
  else s

/-- What the module's state admits (R473, R493). -/
def writeReg (p : Port) (s : State) (off v : Nat) : State :=
  if s.flt.bootStep != 0 then s
  else if s.flt.stopped then (if 0x800000 ≤ off && off < 0x900000 then writeFlt s p (off - 0x800000) v else s)
  else if !s.works then (if 0x408000 ≤ off && off < 0x500000 then writeSec s p (off - 0x408000) v else s)
  else modStat (writeWindow s p off v) p off fun c => statWrite c v

/-! ### Management cores (registers of 15) -/

/-- EVC_SRC_CFG_n; a filter of 0 samples is treated as 1. A source held back that comes to a core whose count has arrived is eligible
at once (R451). -/
def srcCfgWrite (h : HostDie) (n v : Nat) : HostDie :=
  releaseDue (setSrc h n { getSrc h n with
    compat := bit v 31, fast := bit v 30, core := bits v 28 2, coalesce := bit v 27, level := bit v 26,
    filter := max 1 (bits v 16 8), priority := bits v 12 4 }) (bits v 28 2)

/-- A register of one core: vector bases, completion, and coalescing, which a count of 1 disables (R449, R451). -/
def coreRegWrite (h : HostDie) (k v : Nat) : HostDie :=
  let c := getCore h (k / 16)
  if k % 16 == 0 then setCore h (k / 16) { c with vbaseN := bits v 16 16 }
  else if k % 16 == 1 then setCore h (k / 16) { c with vbaseF := bits v 16 16 }
  else if k % 16 == 2 then complete h (k / 16) (bits v 0 10)
  else if k % 16 == 4 then
    releaseDue (setCore h (k / 16) { c with coalInterval := bits v 16 10, coalCount := max 1 (bits v 0 8) }) (k / 16)
  else h

/-- A write by a management core to its own event controller (R445, R449). -/
def coreWrite (s : State) (h : Port) (off v : Nat) : State :=
  let base := 0x1000000 + hostDieIdx h * 0x80000
  match inArray off (base + 0x50000) 4 1024 with
  | some n => onController s h fun x => srcCfgWrite x n v
  | none => match inArray off (base + 0x53000) 4 64 with
    | some k => s.modHost h fun x => coreRegWrite x k v
    | none => match inArray off (base + 0x52000) 4 128 with
      | some k =>
        if k < 32 then s.modHost h fun x => maskWord x k v true
        else if k < 64 then s.modHost h fun x => maskWord x (k - 32) v false
        else if k < 96 then pendSet s (k - 64) v
        else onController s h fun x => (wordSources (k - 96) v).foldl pendClear x
      | none => s

/-- REGISTER_WRITE, 32 or 64 bits: the low word and then the high one (R489). A host's access that is not aligned is a
partner violation and is dropped (R488). -/
def execRegisterWrite (p : Port) (byCore : Bool) (off v : Nat) (wide : Bool) (s : State) : Out :=
  actAlways (decide (off < 2 ^ 26) && (if wide then decide (v < 2 ^ 64) else isWord v)) s fun s =>
    let lo := if wide then v % 2 ^ 32 else v
    if byCore then
      let s := coreWrite s p off lo
      if wide then coreWrite s p (off + 4) (v / 2 ^ 32) else s
    else if s.barReached p && off % (if wide then 8 else 4) != 0 then pcieViolation s p 0x9204
    else overBar p (fun s =>
      let s := writeReg p s off lo
      if wide then writeReg p s (off + 4) (v / 2 ^ 32) else s) s

end Sys2Proof.Machine
end

