-- ==== Sys2Proof/Machine/Vector.lean ====
section
/-! DEFINITION. The vector family: element-wise operations, normalise, softmax, optimiser step (R236-R241). -/

namespace Sys2Proof.Machine

/-- The records of a vector command with the checks of R197 and the equal dims of R263; `dimsOk` judges the dims. A written
record that is not also read is a destination; ACC64 is none (DEDUCED, log entry 26). Unequal dims, and L above 2^22, are
judged after check 1 and before checks 2 to 7, an order R263 does not give (DESIGN CHOICE, log entry 26). -/
def vectorOperands (s : State) (x : Cmd) (q : Queue) (recs : List (Nat × Nat × Bool × Bool)) (dimsOk : List Operand → Bool)
    (overlap : List Operand → Try Unit) : Try (List Operand × List Loaded) :=
  match readOperands s q x.kept recs with
  | .error e => .error e
  | .ok os =>
    match check1 os with
    | .error e => .error e
    | .ok _ =>
      match needOpen (dimsOk os) 0x303A with
      | .error e => .error e
      | .ok _ =>
        match check2 ((os.filter fun o => o.writes && o.t.storage == .acc64).map (·.num)) os with
        | .error e => .error e
        | .ok _ =>
          match check3 os with
          | .error e => .error e
          | .ok _ =>
            match overlap os with
            | .error e => .error e
            | .ok _ =>
              match loadOperands s q os with
              | .error e => .error e
              | .ok ls => .ok (os, ls)

/-- A destination may overlap no source (R194). -/
def destApart (s : State) (q : Queue) (os : List Operand) : Try Unit :=
  match os.find? (·.writes) with
  | some o => overlapWith s q o.t (os.filter fun x => !x.writes)
  | none => .ok ()

/-- The values of an operand of a number. -/
def valuesOf (s : State) (q : Queue) (ls : List Loaded) (num : Nat) : Try (List (List Val)) :=
  match loadedOf ls num with
  | some l => readValues s q l
  | none => .ok []

/-! ### Element-wise (R237) -/

/-- Operations of two tensors. -/
def isBinary (op : Nat) : Bool := op ≤ 4

/-- The result of an operation on a and its second operand (b, or the immediate). -/
def elementOp (op : Nat) (free : Bool) (a b : Val) : Val :=
  match op with
  | 0 | 8 => vAdd free a b
  | 1 => vSub free a b
  | 2 | 9 => vMul free a b
  | 3 => vMax a b
  | 4 => vMin a b
  | 5 => vAbs a
  | 6 => vNeg a
  | 7 => vMax a (.real 0)
  | 10 => vExp a
  | 11 => vLn free a
  | 12 => vRsqrt free a
  | 13 => rneVal (vDiv free (.real 1) a)
  | 14 => vTanh a
  | 15 => vLogistic a
  | _ => vGelu free a

/-- The index of b for an index of a: a dim of 1 is repeated. -/
def repeated (b : Tensor) (i k : Nat) : Nat := if b.dim k == 1 then 0 else i

/-- The rows of an element-wise result. -/
def elementRows (draw op : Nat) (a : Tensor) (va : List (List Val)) (b : Option (Tensor × List (List Val))) (imm : Val) :
    List (List Val) :=
  (va.zip (List.range va.length)).map fun r =>
    (r.1.zip (List.range r.1.length)).map fun e =>
      let snd := match b with
        | none => imm
        | some (tb, vb) =>
          let i1 := r.2 % a.dim 1
          let i2 := r.2 / a.dim 1 % a.dim 2
          let i3 := r.2 / (a.dim 1 * a.dim 2)
          valAt vb (repeated tb e.2 0) (tb.rowOf (repeated tb i1 1) (repeated tb i2 2) (repeated tb i3 3))
      elementOp op (Config.nanSign draw (r.2 * a.dim 0 + e.2)) e.1 snd

/-- Dims of an element-wise command: a and the destination equal, each dim of b equal or 1. -/
def elementDims (binary : Bool) (os : List Operand) : Bool :=
  match os with
  | [a, c] => !binary && sameDims a.t c.t
  | [a, b, c] => sameDims a.t c.t && (List.range 4).all fun i => b.t.dim i == a.t.dim i || b.t.dim i == 1
  | _ => false

/-- Write the rows of a command with one destination. -/
def finishRows (slips : List TagSlip) (s : State) (x : Cmd) (q : Queue) (os : List Operand) (rows : Try (List (List Val))) :
    Done :=
  match os.find? (·.writes) with
  | none => .stop .hold
  | some o =>
    paired s x q slips os o.t.destExtent fun _ => writing s q o.t.destExtent rows fun vals =>
      writing s q o.t.destExtent (writeTensor { s with draws := s.draws + 1 } q o.t vals) fun (s', a) => .ok s' a.result

/-- The body of an element-wise command; a nonzero b_rec of a unary or immediate operation is not read (R236 gives it no answer; DESIGN
CHOICE, log entry 26). -/
def elementBody (slips : List TagSlip) (s : State) (x : Cmd) (q : Queue) : Done :=
  let d := x.desc
  let op := dField d 0x2C 1
  within (needDesc d 0x303A []) fun _ =>
    within (needOpen (op ≤ 16) 0x303A) fun _ =>
      let recs := if isBinary op then
          [(0, dField d 0x10 8, true, false), (1, dField d 0x18 8, true, false), (2, dField d 0x20 8, false, true)]
        else [(0, dField d 0x10 8, true, false), (1, dField d 0x20 8, false, true)]
      within (vectorOperands s x q recs (elementDims (isBinary op)) (destApart s q)) fun (os, ls) =>
        match os.head? with
        | none => .stop .hold
        | some a =>
          finishRows slips s x q os (match valuesOf s q ls 0 with
            | .error e => .error e
            | .ok va =>
              if isBinary op then
                match valuesOf s q ls 1, operandOf os 1 with
                | .ok vb, some tb => .ok (elementRows s.draws op a.t va (some (tb, vb)) (.real 0))
                | .error e, _ => .error e
                | _, none => .error .hold
              else .ok (elementRows s.draws op a.t va none (fp32 (dField d 0x28 4))))

/-- ELEMENT_WISE (R237). -/
def execElementWise (c : Nat) (slips : List TagSlip) (s : State) : Out :=
  act true s fun s => runCmd s c 0x40 (elementBody slips)

/-! ### Normalise (R238) -/

/-- A row of finite reals; a non-finite element faults (R238, R239). -/
def finiteRow (num index : Nat) : Nat → List Val → Try (List Rat)
  | _, [] => .ok []
  | i, v :: rest =>
    match finiteElem num (index + i) v with
    | .error e => .error e
    | .ok x => match finiteRow num index (i + 1) rest with
      | .error e => .error e
      | .ok l => .ok (x :: l)

/-- An int64 sum of rounded values; a term or running sum outside int64 faults with 0x3039. -/
def sum64 : Int → List Val → Int → Try Int
  | _, [], acc => .ok acc
  | sc, v :: rest, acc =>
    match v with
    | .fin x _ =>
      let acc' := acc + rne (x * pow2 (-sc))
      if outside64 acc' then fltOpen 0x3039 else sum64 sc rest acc'
    | _ => fltOpen 0x3039

/-- 1 / √ of a value, at FP32. -/
def rsqrtOf (v : Val) : Val := vRsqrt false v

/-- A normalised row: the reference algorithm of R238. -/
def normaliseRow (s1 s2 : Int) (eps : Rat) (rms : Bool) (free : Nat → Bool) (xs : List Rat) (gamma beta : List Val) :
    Try (List Val) :=
  let n : Rat := xs.length
  match sum64 s1 (xs.map Val.real) 0 with
  | .error e => .error e
  | .ok a =>
    let mu := if rms then Val.real 0 else rne32 ((a : Rat) * pow2 s1 / n)
    match sum64 s2 (xs.map fun v => let d := vSub false (.real v) mu; vMul false d d) 0 with
    | .error e => .error e
    | .ok b =>
      let r := rsqrtOf (vAdd false (rne32 ((b : Rat) * pow2 s2 / n)) (.real eps))
      .ok ((xs.zip (List.range xs.length)).map fun e =>
        let t := rneVal (vMul (free e.2) (vSub (free e.2) (.real e.1) mu) r)
        vAdd (free e.2) (vMul (free e.2) t (nth (.real 1) gamma e.2)) (nth (.real 0) beta e.2))

/-- Dims of normalise: source and destination equal, gamma and beta (L, 1, 1, 1). -/
def normaliseDims (os : List Operand) : Bool :=
  match os with
  | a :: c :: rest => sameDims a.t c.t && rest.all fun o => o.t.dims4 == [a.t.dim 0, 1, 1, 1]
  | _ => false

/-- The records of normalise in descriptor order: gamma and beta where given. -/
def normaliseRecs (d : Desc) : List (Nat × Nat × Bool × Bool) :=
  let g := dField d 0x20 8
  let b := dField d 0x28 8
  [(0, dField d 0x10 8, true, false), (1, dField d 0x18 8, false, true)] ++
    (if g == 0 then [] else [(2, g, true, false)]) ++
    (if b == 0 then [] else [(if g == 0 then 2 else 3, b, true, false)])

/-- Is an FP32 code a finite value above 0? -/
def positiveFinite (code : Nat) : Bool :=
  match fp32 code with
  | .fin v _ => 0 < v
  | _ => false

def normaliseBody (slips : List TagSlip) (s : State) (x : Cmd) (q : Queue) : Done :=
  let d := x.desc
  let s1 := toSigned 16 (dField d 0x30 2)
  let s2 := toSigned 16 (dField d 0x32 2)
  within (needDesc d 0x303A []) fun _ =>
    within (needOpen (-320 ≤ s1 && s1 ≤ 320 && -320 ≤ s2 && s2 ≤ 320 && positiveFinite (dField d 0x34 4) &&
        dField d 0x38 1 ≤ 1) 0x303A) fun _ =>
      within (vectorOperands s x q (normaliseRecs d) normaliseDims (destApart s q)) fun (os, ls) =>
        let gNum := if dField d 0x20 8 == 0 then 9 else 2
        let bNum := if dField d 0x28 8 == 0 then 9 else if dField d 0x20 8 == 0 then 2 else 3
        finishRows slips s x q os (match valuesOf s q ls 0, valuesOf s q ls gNum, valuesOf s q ls bNum with
          | .ok rows, .ok g, .ok b =>
            tryMap (fun e =>
              let len := e.1.length
              match finiteRow 0 (e.2 * len) 0 e.1 with
              | .error x => .error x
              | .ok xs => normaliseRow s1 s2 ((fp32 (dField d 0x34 4)).rat.getD 0) (dField d 0x38 1 == 1)
                  (fun i => Config.nanSign s.draws (e.2 * len + i)) xs (nth [] g 0) (nth [] b 0))
              (rows.zip (List.range rows.length))
          | .error e, _, _ => .error e
          | _, .error e, _ => .error e
          | _, _, .error e => .error e)

/-- NORMALISE (R238). -/
def execNormalise (c : Nat) (slips : List TagSlip) (s : State) : Out :=
  act true s fun s => runCmd s c 0x41 (normaliseBody slips)

/-! ### Softmax (R239) -/

/-- A softmax row: the reference algorithm. -/
def softmaxRow (xs : List Rat) : List Val :=
  let m := xs.foldl max (xs.head?.getD 0)
  let es := xs.map fun v => (vExp (.real (v - m))).rat.getD 0
  let total : Int := (es.map fun e => rne (e * pow2 40)).sum
  es.map fun e => .real (e * pow2 40 / (total : Rat))

def softmaxBody (slips : List TagSlip) (s : State) (x : Cmd) (q : Queue) : Done :=
  let d := x.desc
  within (needDesc d 0x303A []) fun _ =>
    within (vectorOperands s x q [(0, dField d 0x10 8, true, false), (1, dField d 0x18 8, false, true)]
        (fun os => match os with
          | [a, b] => sameDims a.t b.t && a.t.dim 0 ≤ 2 ^ 22
          | _ => false) (destApart s q)) fun (os, ls) =>
      finishRows slips s x q os (match valuesOf s q ls 0 with
        | .error e => .error e
        | .ok rows => tryMap (fun e =>
            match finiteRow 0 (e.2 * e.1.length) 0 e.1 with
            | .error x => .error x
            | .ok xs => .ok (softmaxRow xs)) (rows.zip (List.range rows.length)))

/-- SOFTMAX (R239). -/
def execSoftmax (c : Nat) (slips : List TagSlip) (s : State) : Out :=
  act true s fun s => runCmd s c 0x42 (softmaxBody slips)

/-! ### Optimiser step (R240) -/

/-- The optimiser parameters. -/
structure OptParams where
  lr : Rat
  beta1 : Rat
  beta2 : Rat
  eps : Rat
  decay : Rat
  gradScale : Rat
  momentum : Bool

/-- Parse and check a parameter record (R240). -/
def optParams (b : List Byte) : Option OptParams :=
  let f := (List.range 6).map fun i => (fp32 (fieldOf b (4 * i) 4)).rat
  match f with
  | [some lr, some b1, some b2, some eps, some decay, some gs] =>
    if 0 < eps && fieldOf b 0x18 1 ≤ 1 && fieldOf b 0x19 7 == 0 then
      some { lr := lr, beta1 := b1, beta2 := b2, eps := eps, decay := decay, gradScale := gs,
             momentum := fieldOf b 0x18 1 == 1 }
    else none
  | _ => none

/-- One element: new weight, first and second moment (R240). -/
def optElem (p : OptParams) (free : Bool) (w grad m v : Val) : Val × Val × Val :=
  let mul := vMul free
  let add := vAdd free
  let g := rneVal (mul grad (.real p.gradScale))
  let m' := if p.momentum then rneVal (add (mul (.real p.beta1) m) g)
    else rneVal (add (mul (.real p.beta1) m) (mul (.real (1 - p.beta1)) g))
  let v' := if p.momentum then v
    else rneVal (add (mul (.real p.beta2) v) (mul (mul (.real (1 - p.beta2)) g) g))
  let d := if p.momentum then m'
    else rneVal (vDiv free m' (add (vSqrt free v') (.real p.eps)))
  (vSub free w (mul (.real p.lr) (add d (mul (.real p.decay) w))), m', v')

/-- The three results row by row. -/
def optRows (p : OptParams) (draw : Nat) (w g m v : List (List Val)) : List (List (Val × Val × Val)) :=
  (w.zip (List.range w.length)).map fun r =>
    (r.1.zip (List.range r.1.length)).map fun e =>
      optElem p (Config.nanSign draw (r.2 * r.1.length + e.2)) e.1 (valAt g e.2 r.2) (valAt m e.2 r.2) (valAt v e.2 r.2)

/-- Any overlap among the tensors of an optimiser step faults (R240). -/
def allApart (s : State) (q : Queue) : List Operand → Try Unit
  | [] => .ok ()
  | o :: rest =>
    match operandExtent s q o with
    | .error e => .error e
    | .ok x =>
      match tryMap (operandExtent s q) rest with
      | .error e => .error e
      | .ok l => if l.any (rangesMeet x) then fltOpen 0x600A else allApart s q rest

/-- Equal dims of all operands. -/
def equalDims (os : List Operand) : Bool :=
  match os with
  | a :: rest => rest.all fun o => sameDims a.t o.t
  | [] => false

/-- The body of an optimiser step: its parameter record is judged before its tensor records, an order R263 does not give, and a nonzero
v_rec under variant 1 is not read (DESIGN CHOICE, log entry 26). -/
def optimiserBody (slips : List TagSlip) (s : State) (x : Cmd) (q : Queue) : Done :=
  let d := x.desc
  within (needDesc d 0x303A []) fun _ =>
    within (readVa s q.port q.pasid (dField d 0x30 8) 32) fun pb =>
      match optParams pb with
      | none => .stop (.faultOpen 0x303A)
      | some p =>
        let recs := [(0, dField d 0x10 8, true, true), (1, dField d 0x18 8, true, false), (2, dField d 0x20 8, true, true)] ++
          (if p.momentum then [] else [(3, dField d 0x28 8, true, true)])
        within (vectorOperands s x q recs equalDims (allApart s q)) fun (os, ls) =>
          let dests := (os.filter (·.writes)).flatMap fun o => o.t.destExtent
          paired s x q slips os dests fun _ => match valuesOf s q ls 0, valuesOf s q ls 1, valuesOf s q ls 2, valuesOf s q ls 3 with
          | .ok w, .ok g, .ok m, .ok v =>
            let r := optRows p s.draws w g m v
            match os with
            | tw :: _ :: tm :: rest =>
              writing s q dests (writeTensor { s with draws := s.draws + 1 } q tw.t (r.map fun l => l.map (·.1))) fun (s1, a) =>
                writing s q dests (writeTensor s1 q tm.t (r.map fun l => l.map (·.2.1))) fun (s2, _) =>
                  match rest with
                  | tv :: _ => writing s q dests (writeTensor s2 q tv.t (r.map fun l => l.map (·.2.2))) fun (s3, _) => .ok s3 a.result
                  | [] => .ok s2 a.result
            | _ => .stop .hold
          | .error e, _, _, _ => badWriting s q dests e
          | _, .error e, _, _ => badWriting s q dests e
          | _, _, .error e, _ => badWriting s q dests e
          | _, _, _, .error e => badWriting s q dests e

/-- OPTIMISER_STEP (R240). -/
def execOptimiserStep (c : Nat) (slips : List TagSlip) (s : State) : Out :=
  act true s fun s => runCmd s c 0x43 (optimiserBody slips)

end Sys2Proof.Machine
end

