-- ==== Sys2Proof/Machine/Dispatch.lean ====
section
/-! DEFINITION. One arm per command: its meaning, or its rejection by name. -/

namespace Sys2Proof.Machine

def exec (i : Instr) (s : State) : Host.Outcome State Fault Refusal :=
  match i with
  | .packetForward die presented => Sys2Proof.Machine.execPacketForward die presented s
  | .creditToggle die out ch => Sys2Proof.Machine.execCreditToggle die out ch s
  | .bridgeHandshakeTimeout die out half ch retrainPasses => Sys2Proof.Machine.execBridgeHandshakeTimeout die out half ch retrainPasses s
  | .detourTableSwitch die ch bridge table order => Sys2Proof.Machine.execDetourTableSwitch die ch bridge table order s
  | .noOp c => Sys2Proof.Machine.execNoOp c s
  | .fenceWait c => Sys2Proof.Machine.execFenceWait c s
  | .fenceWaitSatisfied c => Sys2Proof.Machine.execFenceWaitSatisfied c s
  | .fenceSignal c => Sys2Proof.Machine.execFenceSignal c s
  | .queueBarrier c => Sys2Proof.Machine.execQueueBarrier c s
  | .resume c => Sys2Proof.Machine.execResume c s
  | .copy c slips => Sys2Proof.Machine.execCopy c slips s
  | .convert c slips => Sys2Proof.Machine.execConvert c slips s
  | .matrixMultiply c => Sys2Proof.Machine.execMatrixMultiply c s
  | .convolve c => Sys2Proof.Machine.execConvolve c s
  | .writeOut c slips => Sys2Proof.Machine.execWriteOut c slips s
  | .release c => Sys2Proof.Machine.execRelease c s
  | .sum c => Sys2Proof.Machine.execSum c s
  | .combinePartials c slips => Sys2Proof.Machine.execCombinePartials c slips s
  | .topK c slips => Sys2Proof.Machine.execTopK c slips s
  | .elementWise c slips => Sys2Proof.Machine.execElementWise c slips s
  | .normalise c slips => Sys2Proof.Machine.execNormalise c slips s
  | .softmax c slips => Sys2Proof.Machine.execSoftmax c slips s
  | .optimiserStep c slips => Sys2Proof.Machine.execOptimiserStep c slips s
  | .load c => Sys2Proof.Machine.execLoad c s
  | .rescale c => Sys2Proof.Machine.execRescale c s
  | .registerNeuralTerm c => Sys2Proof.Machine.execRegisterNeuralTerm c s
  | .update c => Sys2Proof.Machine.execUpdate c s
  | .free c => Sys2Proof.Machine.execFree c s
  | .energy c => Sys2Proof.Machine.execEnergy c s
  | .annealLaunch c => Sys2Proof.Machine.execAnnealLaunch c s
  | .ladderSet c => Sys2Proof.Machine.execLadderSet c s
  | .resultRead c => Sys2Proof.Machine.execResultRead c s
  | .graphCreate c => Sys2Proof.Machine.execGraphCreate c s
  | .graphLaunch c => Sys2Proof.Machine.execGraphLaunch c s
  | .patch c => Sys2Proof.Machine.execPatch c s
  | .patchCommit c => Sys2Proof.Machine.execPatchCommit c s
  | .graphDestroy c => Sys2Proof.Machine.execGraphDestroy c s
  | .graphNodeStart l node => Sys2Proof.Machine.execGraphNodeStart l node s
  | .graphNodeComplete l node => Sys2Proof.Machine.execGraphNodeComplete l node s
  | .storeCreate c => Sys2Proof.Machine.execStoreCreate c s
  | .storeRead c => Sys2Proof.Machine.execStoreRead c s
  | .storeWrite c => Sys2Proof.Machine.execStoreWrite c s
  | .storeProgramComplete c => Sys2Proof.Machine.execStoreProgramComplete c s
  | .storeTrim c => Sys2Proof.Machine.execStoreTrim c s
  | .storeReport c => Sys2Proof.Machine.execStoreReport c s
  | .storeDestroy c => Sys2Proof.Machine.execStoreDestroy c s
  | .allReduce c slips => Sys2Proof.Machine.execAllReduce c slips s
  | .allGather c slips => Sys2Proof.Machine.execAllGather c slips s
  | .boundaryExchange c => Sys2Proof.Machine.execBoundaryExchange c s
  | .send c slips => Sys2Proof.Machine.execSend c slips s
  | .receive c => Sys2Proof.Machine.execReceive c s
  | .scheduleLoad c => Sys2Proof.Machine.execScheduleLoad c s
  | .scheduleArm c => Sys2Proof.Machine.execScheduleArm c s
  | .launchTask c => Sys2Proof.Machine.execLaunchTask c s
  | .enqueue c => Sys2Proof.Machine.execEnqueue c s
  | .deviceFedSpaceAvailable c => Sys2Proof.Machine.execDeviceFedSpaceAvailable c s
  | .stopTask c => Sys2Proof.Machine.execStopTask c s
  | .taskHalt e => Sys2Proof.Machine.execTaskHalt e s
  | .taskAdd e => Sys2Proof.Machine.execTaskAdd e s
  | .taskSub e => Sys2Proof.Machine.execTaskSub e s
  | .taskAnd e => Sys2Proof.Machine.execTaskAnd e s
  | .taskOr e => Sys2Proof.Machine.execTaskOr e s
  | .taskXor e => Sys2Proof.Machine.execTaskXor e s
  | .taskShl e => Sys2Proof.Machine.execTaskShl e s
  | .taskShr e => Sys2Proof.Machine.execTaskShr e s
  | .taskMul e => Sys2Proof.Machine.execTaskMul e s
  | .taskAddi e => Sys2Proof.Machine.execTaskAddi e s
  | .taskLdw e => Sys2Proof.Machine.execTaskLdw e s
  | .taskLd e => Sys2Proof.Machine.execTaskLd e s
  | .taskSt e => Sys2Proof.Machine.execTaskSt e s
  | .taskAadd e => Sys2Proof.Machine.execTaskAadd e s
  | .taskAswp e => Sys2Proof.Machine.execTaskAswp e s
  | .taskBeq e => Sys2Proof.Machine.execTaskBeq e s
  | .taskBne e => Sys2Proof.Machine.execTaskBne e s
  | .taskBlt e => Sys2Proof.Machine.execTaskBlt e s
  | .taskBltu e => Sys2Proof.Machine.execTaskBltu e s
  | .taskLoop e => Sys2Proof.Machine.execTaskLoop e s
  | .taskWaitq e => Sys2Proof.Machine.execTaskWaitq e s
  | .waitqSatisfied e => Sys2Proof.Machine.execWaitqSatisfied e s
  | .taskEnq e => Sys2Proof.Machine.execTaskEnq e s
  | .taskWaitf e => Sys2Proof.Machine.execTaskWaitf e s
  | .waitfSatisfied e => Sys2Proof.Machine.execWaitfSatisfied e s
  | .taskSigf e => Sys2Proof.Machine.execTaskSigf e s
  | .taskDone e => Sys2Proof.Machine.execTaskDone e s
  | .taskTime e => Sys2Proof.Machine.execTaskTime e s
  | .reservedInstruction e => Sys2Proof.Machine.execReservedInstruction e s
  | .taskRanWithoutWaiting e => Sys2Proof.Machine.execTaskRanWithoutWaiting e s
  | .doorbellPoll e pasid page => Sys2Proof.Machine.execDoorbellPoll e pasid page s
  | .descriptorRead q => Sys2Proof.Machine.execDescriptorRead q s
  | .commandStart q => Sys2Proof.Machine.execCommandStart q s
  | .hostAccess c va len write => Sys2Proof.Machine.execHostAccess c va len write s
  | .atsTranslationCompletion p pasid page readable writable => Sys2Proof.Machine.execAtsTranslationCompletion p pasid page readable writable s
  | .prgResponse p pasid page code => Sys2Proof.Machine.execPrgResponse p pasid page code s
  | .pageRequestTimeout p pasid page => Sys2Proof.Machine.execPageRequestTimeout p pasid page s
  | .atsInvalidationRequest p pasid page pages => Sys2Proof.Machine.execAtsInvalidationRequest p pasid page pages s
  | .invalidationDrainEnd p => Sys2Proof.Machine.execInvalidationDrainEnd p s
  | .commandTimeLimit c => Sys2Proof.Machine.execCommandTimeLimit c s
  | .shutterDrainTimeout c e => Sys2Proof.Machine.execShutterDrainTimeout c e s
  | .shutterComplete c => Sys2Proof.Machine.execShutterComplete c s
  | .realtimePreempt q => Sys2Proof.Machine.execRealtimePreempt q s
  | .contextSave e => Sys2Proof.Machine.execContextSave e s
  | .contextRestore e => Sys2Proof.Machine.execContextRestore e s
  | .setupCreateQueue p => Sys2Proof.Machine.execSetupCreateQueue p s
  | .setupDestroyQueue p => Sys2Proof.Machine.execSetupDestroyQueue p s
  | .queueTeardownComplete p => Sys2Proof.Machine.execQueueTeardownComplete p s
  | .setupCreateFence p => Sys2Proof.Machine.execSetupCreateFence p s
  | .setupDestroyFence p => Sys2Proof.Machine.execSetupDestroyFence p s
  | .setupRequestInvalid p => Sys2Proof.Machine.execSetupRequestInvalid p s
  | .qfeEnginePortWrite p n value => Sys2Proof.Machine.execQfeEnginePortWrite p n value s
  | .qfeSillWrite p n value => Sys2Proof.Machine.execQfeSillWrite p n value s
  | .qfeTimeLimitWrite p value => Sys2Proof.Machine.execQfeTimeLimitWrite p value s
  | .qfePollWrite p value => Sys2Proof.Machine.execQfePollWrite p value s
  | .groupSequence c e elem elems lo len slips => Sys2Proof.Machine.execGroupSequence c e elem elems lo len slips s
  | .partialCombine c => Sys2Proof.Machine.execPartialCombine c s
  | .accumulatorCommit c slips => Sys2Proof.Machine.execAccumulatorCommit c slips s
  | .startUpSequence e march passes => Sys2Proof.Machine.execStartUpSequence e march passes s
  | .testSequence e passes => Sys2Proof.Machine.execTestSequence e passes s
  | .shadowSetExchange e good => Sys2Proof.Machine.execShadowSetExchange e good s
  | .scratchpadHandshake b requests => Sys2Proof.Machine.execScratchpadHandshake b requests s
  | .backgroundPassStart b => Sys2Proof.Machine.execBackgroundPassStart b s
  | .regionPhaseEnd b badRows => Sys2Proof.Machine.execRegionPhaseEnd b badRows s
  | .spdTestCtrlWrite p die value => Sys2Proof.Machine.execSpdTestCtrlWrite p die value s
  | .annealBatch l r b => Sys2Proof.Machine.execAnnealBatch l r b s
  | .tableRebuildComplete l r b => Sys2Proof.Machine.execTableRebuildComplete l r b s
  | .epochEnd l r b => Sys2Proof.Machine.execEpochEnd l r b s
  | .boundaryValuesReceived l r b source => Sys2Proof.Machine.execBoundaryValuesReceived l r b source s
  | .energyReduction l r => Sys2Proof.Machine.execEnergyReduction l r s
  | .epochStart l r b => Sys2Proof.Machine.execEpochStart l r b s
  | .runSeedArrival l => Sys2Proof.Machine.execRunSeedArrival l s
  | .blockPageInComplete l r b => Sys2Proof.Machine.execBlockPageInComplete l r b s
  | .neuralEngineEligible l => Sys2Proof.Machine.execNeuralEngineEligible l s
  | .launchComplete l => Sys2Proof.Machine.execLaunchComplete l s
  | .map p => Sys2Proof.Machine.execMap p s
  | .mapZeroingComplete p => Sys2Proof.Machine.execMapZeroingComplete p s
  | .unmap p => Sys2Proof.Machine.execUnmap p s
  | .unmapDrainEnd p => Sys2Proof.Machine.execUnmapDrainEnd p s
  | .bindStore p => Sys2Proof.Machine.execBindStore p s
  | .listStores p => Sys2Proof.Machine.execListStores p s
  | .readDump p => Sys2Proof.Machine.execReadDump p s
  | .mapRequestInvalid p => Sys2Proof.Machine.execMapRequestInvalid p s
  | .hbmAccess unit access errors c => Sys2Proof.Machine.execHbmAccess unit access errors c s
  | .patrolScrub unit errors => Sys2Proof.Machine.execPatrolScrub unit errors s
  | .unitRetirement stack range => Sys2Proof.Machine.execUnitRetirement stack range s
  | .pinLaneRepair stack pc pin trains => Sys2Proof.Machine.execPinLaneRepair stack pc pin trains s
  | .memProblemAreaWrite p value => Sys2Proof.Machine.execMemProblemAreaWrite p value s
  | .flashPageRead store block c outcome => Sys2Proof.Machine.execFlashPageRead store block c outcome s
  | .flashDieRebuild channel target => Sys2Proof.Machine.execFlashDieRebuild channel target s
  | .flashProgramFail channel block => Sys2Proof.Machine.execFlashProgramFail channel block s
  | .wearLevelCopy memDie => Sys2Proof.Machine.execWearLevelCopy memDie s
  | .retentionRefresh memDie block => Sys2Proof.Machine.execRetentionRefresh memDie block s
  | .readDisturbCopy memDie block => Sys2Proof.Machine.execReadDisturbCopy memDie block s
  | .dumpMirror taken => Sys2Proof.Machine.execDumpMirror taken s
  | .frameStart => Sys2Proof.Machine.execFrameStart s
  | .frameHeaderReceived die pair lanes => Sys2Proof.Machine.execFrameHeaderReceived die pair lanes s
  | .codewordReceived die pair position lanes => Sys2Proof.Machine.execCodewordReceived die pair position lanes s
  | .repeatWindowExpired die pair position => Sys2Proof.Machine.execRepeatWindowExpired die pair position s
  | .openSlotMessage die pair slot lanes => Sys2Proof.Machine.execOpenSlotMessage die pair slot lanes s
  | .markerReceived x3 frame periodPs phasePs => Sys2Proof.Machine.execMarkerReceived x3 frame periodPs phasePs s
  | .markerMissing x3 => Sys2Proof.Machine.execMarkerMissing x3 s
  | .holdoverLimit => Sys2Proof.Machine.execHoldoverLimit s
  | .calibration die tempC => Sys2Proof.Machine.execCalibration die tempC s
  | .laneFailure die pair lane why both => Sys2Proof.Machine.execLaneFailure die pair lane why both s
  | .opxFrameWrite p value => Sys2Proof.Machine.execOpxFrameWrite p value s
  | .opxCascadeWrite p value => Sys2Proof.Machine.execOpxCascadeWrite p value s
  | .opxPairRetrain p die pair value => Sys2Proof.Machine.execOpxPairRetrain p die pair value s
  | .fastLoop die meanCw bankMv droopMv => Sys2Proof.Machine.execFastLoop die meanCw bankMv droopMv s
  | .collectiveHoldTimeout die => Sys2Proof.Machine.execCollectiveHoldTimeout die s
  | .capControllerPeriod sample => Sys2Proof.Machine.execCapControllerPeriod sample s
  | .urgentAllocation sample => Sys2Proof.Machine.execUrgentAllocation sample s
  | .railRampComplete die => Sys2Proof.Machine.execRailRampComplete die s
  | .marginTrim die ageingMv => Sys2Proof.Machine.execMarginTrim die ageingMv s
  | .droopToNominal die => Sys2Proof.Machine.execDroopToNominal die s
  | .holdUpBankLow => Sys2Proof.Machine.execHoldUpBankLow s
  | .inputVoltageChange millivolts => Sys2Proof.Machine.execInputVoltageChange millivolts s
  | .overvoltageTimeout => Sys2Proof.Machine.execOvervoltageTimeout s
  | .thermalChange stack part tempC => Sys2Proof.Machine.execThermalChange stack part tempC s
  | .thermalTripTimeout die => Sys2Proof.Machine.execThermalTripTimeout die s
  | .pointOfLoadFailure failure => Sys2Proof.Machine.execPointOfLoadFailure failure s
  | .controllerTakeover => Sys2Proof.Machine.execControllerTakeover s
  | .pwrCapWrite p value => Sys2Proof.Machine.execPwrCapWrite p value s
  | .pwrCtrlWrite p value => Sys2Proof.Machine.execPwrCtrlWrite p value s
  | .pwrPhaseWrite p n value => Sys2Proof.Machine.execPwrPhaseWrite p n value s
  | .sourceStart h samples => Sys2Proof.Machine.execSourceStart h samples s
  | .entropyBlockReady h samples => Sys2Proof.Machine.execEntropyBlockReady h samples s
  | .healthTestFailure h proportion startUp => Sys2Proof.Machine.execHealthTestFailure h proportion startUp s
  | .failureCountDecay h => Sys2Proof.Machine.execFailureCountDecay h s
  | .generatorGrant h => Sys2Proof.Machine.execGeneratorGrant h s
  | .entropyStallTimeout h => Sys2Proof.Machine.execEntropyStallTimeout h s
  | .linkNonceRetry die pair => Sys2Proof.Machine.execLinkNonceRetry die pair s
  | .entRngRead p wide servedInTime => Sys2Proof.Machine.execEntRngRead p wide servedInTime s
  | .boot byH0 byH1 => Sys2Proof.Machine.execBoot byH0 byH1 s
  | .tamperEvent inputs => Sys2Proof.Machine.execTamperEvent inputs s
  | .attest p => Sys2Proof.Machine.execAttest p s
  | .readCertificate p => Sys2Proof.Machine.execReadCertificate p s
  | .loadHallKey p => Sys2Proof.Machine.execLoadHallKey p s
  | .withdrawHallKey p => Sys2Proof.Machine.execWithdrawHallKey p s
  | .returnModule p => Sys2Proof.Machine.execReturnModule p s
  | .scrap p => Sys2Proof.Machine.execScrap p s
  | .vendorAuthorisation p => Sys2Proof.Machine.execVendorAuthorisation p s
  | .commitSvn p => Sys2Proof.Machine.execCommitSvn p s
  | .securityRequestInvalid p => Sys2Proof.Machine.execSecurityRequestInvalid p s
  | .eventMessage source => Sys2Proof.Machine.execEventMessage source s
  | .wireSourceChange source high samples => Sys2Proof.Machine.execWireSourceChange source high samples s
  | .eventClaim h core fast => Sys2Proof.Machine.execEventClaim h core fast s
  | .eventComplete h core source => Sys2Proof.Machine.execEventComplete h core source s
  | .evcCountRead h source read => Sys2Proof.Machine.execEvcCountRead h source read s
  | .evcMaskSet h k bits => Sys2Proof.Machine.execEvcMaskSet h k bits s
  | .evcMaskClr h k bits => Sys2Proof.Machine.execEvcMaskClr h k bits s
  | .evcPendSet h k bits => Sys2Proof.Machine.execEvcPendSet h k bits s
  | .evcPendClr h k bits => Sys2Proof.Machine.execEvcPendClr h k bits s
  | .coalesceIntervalExpiry h core => Sys2Proof.Machine.execCoalesceIntervalExpiry h core s
  | .coreSleep h core => Sys2Proof.Machine.execCoreSleep h core s
  | .coreWake h core => Sys2Proof.Machine.execCoreWake h core s
  | .evcHostCauseClear p k bits => Sys2Proof.Machine.execEvcHostCauseClear p k bits s
  | .dieCauseClear die bits => Sys2Proof.Machine.execDieCauseClear die bits s
  | .msixCoalesceExpiry p vector => Sys2Proof.Machine.execMsixCoalesceExpiry p vector s
  | .msixVectorUnmask p vector => Sys2Proof.Machine.execMsixVectorUnmask p vector s
  | .engineStall e cellsReadable => Sys2Proof.Machine.execEngineStall e cellsReadable s
  | .engineFence e cause cellsReadable => Sys2Proof.Machine.execEngineFence e cause cellsReadable s
  | .engineReturn p e march passes => Sys2Proof.Machine.execEngineReturn p e march passes s
  | .fltLogReadIdxWrite p index => Sys2Proof.Machine.execFltLogReadIdxWrite p index s
  | .pcieTlpReceived p tlp => Sys2Proof.Machine.execPcieTlpReceived p tlp s
  | .pcieCompletionTimeout p tag => Sys2Proof.Machine.execPcieCompletionTimeout p tag s
  | .postedCreditsWithheld p => Sys2Proof.Machine.execPostedCreditsWithheld p s
  | .portLinkDown p => Sys2Proof.Machine.execPortLinkDown p s
  | .hostDieLost lost => Sys2Proof.Machine.execHostDieLost lost s
  | .moduleResetRequest p key => Sys2Proof.Machine.execModuleResetRequest p key s
  | .resetAck p => Sys2Proof.Machine.execResetAck p s
  | .resetGraceExpiry => Sys2Proof.Machine.execResetGraceExpiry s
  | .resetDies => Sys2Proof.Machine.execResetDies s
  | .d3hotTransition p => Sys2Proof.Machine.execD3hotTransition p s
  | .busMasterEnableChange p on memory parity serr msix words => Sys2Proof.Machine.execBusMasterEnableChange p on memory parity serr msix words s
  | .powerOn recordsAgree record lidOpen absent marchA marchB => Sys2Proof.Machine.execPowerOn recordsAgree record lidOpen absent marchA marchB s
  | .inputCollapse => Sys2Proof.Machine.execInputCollapse s
  | .spiHoldoffChange high => Sys2Proof.Machine.execSpiHoldoffChange high s
  | .clearFaults => Sys2Proof.Machine.execClearFaults s
  | .smbalertMask status write => Sys2Proof.Machine.execSmbalertMask status write s
  | .statusWord => Sys2Proof.Machine.execStatusWord s
  | .statusInput => Sys2Proof.Machine.execStatusInput s
  | .statusTemperature => Sys2Proof.Machine.execStatusTemperature s
  | .readVin => Sys2Proof.Machine.execReadVin s
  | .readIin => Sys2Proof.Machine.execReadIin s
  | .readTemperature1 => Sys2Proof.Machine.execReadTemperature1 s
  | .readTemperature2 => Sys2Proof.Machine.execReadTemperature2 s
  | .readPin => Sys2Proof.Machine.execReadPin s
  | .mfrId => Sys2Proof.Machine.execMfrId s
  | .mfrModel => Sys2Proof.Machine.execMfrModel s
  | .mfrSerial => Sys2Proof.Machine.execMfrSerial s
  | .mfrModuleReset value => Sys2Proof.Machine.execMfrModuleReset value s
  | .mfrLifecycle => Sys2Proof.Machine.execMfrLifecycle s
  | .statisticClear p offset value => Sys2Proof.Machine.execStatisticClear p offset value s
  | .registerWrite p byCore offset value wide => Sys2Proof.Machine.execRegisterWrite p byCore offset value wide s
  | .standardInterfaceLoss interface => Sys2Proof.Machine.execStandardInterfaceLoss interface s
  | .holdUpBankRecovered => Sys2Proof.Machine.execHoldUpBankRecovered s
  | .portLinkUp p => Sys2Proof.Machine.execPortLinkUp p s
  | .d3hotExit p => Sys2Proof.Machine.execD3hotExit p s
  | .flashRebuildComplete channel => Sys2Proof.Machine.execFlashRebuildComplete channel s
  | .pcieTagWithholdExpiry p tag => Sys2Proof.Machine.execPcieTagWithholdExpiry p tag s
  | .localTimerCompare h core => Sys2Proof.Machine.execLocalTimerCompare h core s

end Sys2Proof.Machine
end

