-- ==== Sys2Proof/Safety.lean ====
section
/-! DEFINITION. What counts as a good state and a good step: the invariants, hypotheses and answers the statements are
written in. -/

namespace Sys2Proof

/-- The commands that act on a module that runs no work, too: boot, power, reset, security, event controllers, PMBus, partner
checks, register writes (R426, R433, R435, R473, R477, R493, R505, R508, R510). -/
def Instr.actsAlways : Instr → Bool
  | .dumpMirror .. | .inputVoltageChange .. | .sourceStart .. | .entropyBlockReady .. | .healthTestFailure ..
  | .failureCountDecay .. | .generatorGrant .. | .entropyStallTimeout .. | .entRngRead .. | .boot .. | .tamperEvent ..
  | .attest .. | .readCertificate .. | .loadHallKey .. | .withdrawHallKey .. | .returnModule .. | .scrap ..
  | .vendorAuthorisation .. | .commitSvn .. | .securityRequestInvalid .. | .eventMessage .. | .wireSourceChange ..
  | .eventClaim .. | .eventComplete .. | .evcCountRead .. | .evcMaskSet .. | .evcMaskClr .. | .evcPendSet ..
  | .evcPendClr .. | .coalesceIntervalExpiry .. | .coreSleep .. | .coreWake .. | .dieCauseClear ..
  | .msixCoalesceExpiry .. | .pcieTlpReceived .. | .pcieCompletionTimeout .. | .portLinkDown ..
  | .moduleResetRequest .. | .resetAck .. | .resetGraceExpiry | .resetDies | .d3hotTransition ..
  | .busMasterEnableChange .. | .powerOn .. | .inputCollapse | .spiHoldoffChange .. | .clearFaults | .smbalertMask ..
  | .statusWord | .statusInput | .statusTemperature | .readVin | .readIin | .readTemperature1 | .readTemperature2
  | .readPin | .mfrId | .mfrModel | .mfrSerial | .mfrModuleReset .. | .mfrLifecycle | .registerWrite ..
  | .standardInterfaceLoss .. | .portLinkUp .. | .d3hotExit .. | .pcieTagWithholdExpiry .. | .localTimerCompare ..
  | .overvoltageTimeout .. | .thermalChange .. | .thermalTripTimeout .. | .pointOfLoadFailure .. => true
  | _ => false

/-- The port of a command that is one write of a BAR0 register with a row of its own. -/
def Instr.bar0Port : Instr → Option Port
  | .qfeEnginePortWrite p .. | .qfeSillWrite p .. | .qfeTimeLimitWrite p .. | .qfePollWrite p ..
  | .spdTestCtrlWrite p .. | .memProblemAreaWrite p .. | .opxFrameWrite p .. | .opxCascadeWrite p ..
  | .opxPairRetrain p .. | .pwrCapWrite p .. | .pwrCtrlWrite p .. | .pwrPhaseWrite p .. | .evcHostCauseClear p ..
  | .msixVectorUnmask p .. | .engineReturn p .. | .fltLogReadIdxWrite p .. | .statisticClear p .. => some p
  | _ => none

end Sys2Proof

namespace Sys2Proof.Machine

/-- A step that answers a next state. -/
def Steps (s t : State) : Prop := step s = .next t

/-- The byte memory of the block is in canonical form. -/
def MemoryOk (s : State) : Prop := memWf s.mem = true

/-- Every page of a stack is mapped once at most, those included that a map request is zeroing (R331, R333). -/
def PagesOnce (s : State) : Prop :=
  ((s.hbm.pages ++ match s.hbm.job with
    | some j => if j.unmap then [] else j.keys
    | none => []).map fun e => (e.2.stack, e.2.page)).Nodup

/-- Every command that waits names only parts the module has. -/
def QueueOk (s : State) : Prop := ∀ c ∈ s.pending, c.wf = true

/-- The next state `t` but for the queue of waiting commands, which stays that of `s`. -/
def nextKeeping (s t : State) : Out := .next { t with pending := s.pending }

/-- A live command of an opcode that stands at a stage where its row's body runs, with its live queue (R282, R286). -/
def CommandAt (s : State) (c opcode : Nat) (stages : List Stage) (x : Cmd) (q : Queue) : Prop :=
  s.works = true ∧ s.cmd? c = some x ∧ s.queue? x.queue = some q ∧ dOpcode x.desc = opcode ∧
    stages.contains x.stage = true ∧ mayRun s c x q = true

/-- A started command, or one whose page has come. -/
abbrev Runnable (s : State) (c opcode : Nat) (x : Cmd) (q : Queue) : Prop :=
  CommandAt s c opcode [.started, .waiting] x q

/-- The command ends in state `u` with fault 0, detail 0 and a result (R277). -/
def endsWell (s u : State) (c : Nat) (result : BitVec 128) : Out :=
  nextKeeping s (finishCmd u c 0 0 result false false)

/-- The command runs on in state `u`. -/
def runsOn (s u : State) (c : Nat) : Out :=
  nextKeeping s (u.modCmd c fun x => if x.stage == .committing then x else { x with stage := .running })

/-- A task of an engine that runs, at an instruction of an opcode (R243, R244). -/
def TaskAt (s : State) (e opcode : Nat) (t : Task) : Prop :=
  s.works = true ∧ isEngine e = true ∧ (s.eng e).task = some t ∧ t.wait = .running ∧ opField (taskWord e t t.pc) = opcode

/-- A set-up request of an op that a port has given and that is the one processed (R293). -/
def SetupAt (s : State) (p : Port) (op : Nat) (b : List Byte) : Prop :=
  s.works = true ∧ setupRequest s p = some b ∧ fieldOf b 0 1 = op

/-- A map request of an op that a port has given and that is the one processed (R332). -/
def MapAt (s : State) (p : Port) (op : Nat) (b : List Byte) : Prop :=
  s.works = true ∧ mapRequest s p = some b ∧ fieldOf b 0 1 = op

/-- The answer of a map request that ends: busy clears with the result, and the next request's turn comes (R293, R332). -/
def Answers (s t : State) (p : Port) (code : Nat) : Prop :=
  t.hbm.job = none ∧ t.hbm.mapOrder = s.hbm.mapOrder.drop 1 ∧ (t.port p).map.busy = false ∧ (t.port p).map.result = code

/-- A launch that runs: its command runs, is not shuttered, and its record is not due (R110, R135). -/
def LaunchAt (s : State) (c : Nat) (l : Launch) (p : Problem) (x : Cmd) (q : Queue) : Prop :=
  s.works = true ∧ tblFind s.spin.launches c = some l ∧ s.cmd? c = some x ∧
    tblFind s.spin.problems l.problem = some p ∧ s.queue? x.queue = some q ∧ l.record = none ∧ x.stage = .running ∧
    x.shutter = none

/-- Every group has exactly one hot member (R98). -/
def OneHot (groups : List (Nat × List Nat)) (bits : List Bool) : Prop :=
  ∀ g ∈ groups, (g.2.filter fun k => nth false bits k).length = 1

/-- The groups of a block: members of the block, each in one group and named once (R86). -/
def GroupsOk (groups : List (Nat × List Nat)) (n : Nat) : Prop :=
  (∀ g ∈ groups, g.2.Nodup ∧ ∀ k ∈ g.2, k < n) ∧ groups.Pairwise fun a b => ∀ k ∈ a.2, k ∉ b.2

/-- A stored problem has sound groups in every block, the initial state one hot member in each, and its groups are numbered
0, 1, 2, … over its blocks (R86, R89, R98). -/
def ProblemOk (p : Problem) : Prop :=
  (∀ b ∈ p.blocks, GroupsOk b.groups b.vars.length ∧ OneHot b.groups (b.local p.init)) ∧
  let numbers := p.blocks.flatMap fun b => b.groups.map (·.1)
  numbers.Nodup ∧ ∀ g ∈ numbers, g < numbers.length

/-- Every problem stored is sound, every launch is of a stored problem, and each run of a launch that no cascade shares keeps one
hot member in each group of its block (R98). -/
def HotOk (s : State) : Prop :=
  (∀ e ∈ s.spin.problems, ProblemOk e.2) ∧
  ∀ e ∈ s.spin.launches, ∃ p, tblFind s.spin.problems e.2.problem = some p ∧
    (e.2.partition = none → ∀ y ∈ e.2.runs, let b := p.block (y.1 % p.nb)
      y.2.bits.length = b.vars.length ∧ OneHot b.groups y.2.bits)

/-- The couplings of a block are between two different variables of it (R77). -/
def CouplingsOk (b : Block) : Prop :=
  ∀ c ∈ b.intra, c.i ≠ c.j ∧ c.i < b.vars.length ∧ c.j < b.vars.length

/-- A router with no packet at it and no transfer around it, while none waits to be issued. -/
def MeshIdle (s : State) (d : Nat) : Prop :=
  s.mesh.unissued = [] ∧ ∀ ch : Channel, (s.router d).waiting.get ch = [] ∧ (s.router d).again.get ch = [] ∧
    (∀ i, i < 6 → placeOf s d i ch = []) ∧
    ∀ o, o < 5 → (s.out d o).wire = none ∧ ∀ x r, feeder d o = some (x, r) → (s.out x r).wire = none

/-- A BAR0 write through a port that reaches a module that runs work (R472, R502). -/
def Reached (s : State) (p : Port) : Prop := s.works = true ∧ s.barReached p = true

end Sys2Proof.Machine

/-! ### What a command can change -/

namespace Sys2Proof.Machine

/-- The parts of the state, but for the clock and the queue of waiting commands. -/
inductive Part where
  | mem
  | mesh
  | dies
  | engines
  | banks
  | cmds
  | jobs
  | arrays
  | qfe
  | ports
  | spin
  | grf
  | hbm
  | fls
  | opx
  | pwr
  | hosts
  | sec
  | flt
  | mgmt
  | reply
  | sent
  | draws
deriving DecidableEq, Repr

/-- The parts of two states are the same. -/
def Part.same (s t : State) : Part → Prop
  | .mem => t.mem = s.mem
  | .mesh => t.mesh = s.mesh
  | .dies => t.dies = s.dies
  | .engines => t.engines = s.engines
  | .banks => t.banks = s.banks
  | .cmds => t.cmds = s.cmds
  | .jobs => t.jobs = s.jobs
  | .arrays => t.arrays = s.arrays
  | .qfe => t.qfe = s.qfe
  | .ports => t.portA = s.portA ∧ t.portB = s.portB
  | .spin => t.spin = s.spin
  | .grf => t.grf = s.grf
  | .hbm => t.hbm = s.hbm
  | .fls => t.fls = s.fls
  | .opx => t.opx = s.opx
  | .pwr => t.pwr = s.pwr
  | .hosts => t.hostA = s.hostA ∧ t.hostB = s.hostB
  | .sec => t.sec = s.sec
  | .flt => t.flt = s.flt
  | .mgmt => t.mgmt = s.mgmt
  | .reply => t.reply = s.reply
  | .sent => t.sent = s.sent
  | .draws => t.draws = s.draws

/-- Every part. -/
def Part.all : List Part :=
  [.mem, .mesh, .dies, .engines, .banks, .cmds, .jobs, .arrays, .qfe, .ports, .spin, .grf, .hbm, .fls, .opx, .pwr,
    .hosts, .sec, .flt, .mgmt, .reply, .sent, .draws]

/-- What the end of a command can change: its record, its queue, its claims, the fault log, and the event it fires. -/
def Part.ended : List Part :=
  [.mem, .engines, .cmds, .jobs, .qfe, .ports, .spin, .grf, .hbm, .fls, .opx, .hosts, .flt, .sent, .draws]

/-- What an instruction of a task can change: the window, the queue or fence it acts on, and its end. -/
def Part.tasked : List Part := [.mem, .engines, .qfe, .ports, .spin, .grf, .hbm, .hosts, .flt, .sent]

/-- What a fatal stop can change. -/
def Part.stops : List Part := [.mem, .cmds, .jobs, .ports, .spin, .grf, .hbm, .fls, .opx, .hosts, .flt, .sent, .draws]

/-- What the firing of a source can change. -/
def Part.fires : List Part := [.ports, .hosts, .sent]

end Sys2Proof.Machine

open Sys2Proof.Machine in
/-- The parts a command can change; it leaves every other part as it is. -/
def Sys2Proof.Instr.touches : Sys2Proof.Instr → List Sys2Proof.Machine.Part
  | .packetForward .. => Part.fires ++ [.mesh, .dies, .banks, .hbm]
  | .creditToggle .. | .detourTableSwitch .. => Part.fires ++ [.mesh, .dies]
  | .bridgeHandshakeTimeout .. => Part.stops ++ [.mesh]
  | .noOp .. | .fenceWait .. | .fenceWaitSatisfied .. | .fenceSignal .. | .queueBarrier .. | .resume ..
  | .matrixMultiply .. | .convolve .. | .sum .. | .load .. | .rescale .. | .registerNeuralTerm .. | .update ..
  | .free .. | .energy .. | .annealLaunch .. | .ladderSet .. | .resultRead .. | .graphCreate .. | .graphLaunch ..
  | .patch .. | .patchCommit .. | .graphDestroy .. | .graphNodeStart .. | .graphNodeComplete .. | .storeCreate ..
  | .storeRead .. | .storeWrite .. | .storeProgramComplete .. | .storeTrim .. | .storeReport .. | .storeDestroy ..
  | .boundaryExchange .. | .scheduleLoad .. | .scheduleArm .. | .launchTask .. | .enqueue ..
  | .deviceFedSpaceAvailable .. | .stopTask .. | .commandStart .. | .hostAccess .. | .atsTranslationCompletion ..
  | .prgResponse .. | .pageRequestTimeout .. | .invalidationDrainEnd .. | .shutterComplete ..
  | .boundaryValuesReceived .. | .energyReduction .. | .launchComplete .. | .unmapDrainEnd .. | .patrolScrub ..
  | .unitRetirement .. | .pinLaneRepair .. | .flashPageRead .. | .pcieTlpReceived .. | .pcieCompletionTimeout ..
    => Part.ended
  | .copy .. | .convert .. | .combinePartials .. | .topK .. | .elementWise .. | .normalise .. | .softmax ..
  | .optimiserStep .. | .allReduce .. | .allGather .. | .send .. | .receive .. | .groupSequence ..
  | .partialCombine .. | .frameHeaderReceived .. | .codewordReceived .. | .repeatWindowExpired ..
  | .openSlotMessage .. | .laneFailure .. => Part.ended ++ [.dies]
  | .writeOut .. | .accumulatorCommit .. => Part.ended ++ [.dies, .arrays]
  | .release .. | .contextRestore .. | .queueTeardownComplete .. => Part.ended ++ [.arrays]
  | .taskHalt .. | .taskLd .. | .taskSt .. | .taskAadd .. | .taskAswp .. | .taskBeq .. | .taskBne .. | .taskBlt ..
  | .taskBltu .. | .taskLoop .. | .taskWaitq .. | .taskEnq .. | .taskWaitf .. | .waitfSatisfied .. | .taskSigf ..
  | .taskDone .. | .reservedInstruction .. | .taskRanWithoutWaiting .. | .busMasterEnableChange .. | .d3hotExit ..
  | .portLinkUp .. => Part.tasked
  | .taskAdd .. | .taskSub .. | .taskAnd .. | .taskOr .. | .taskXor .. | .taskShl .. | .taskShr .. | .taskMul ..
  | .taskAddi .. | .taskLdw .. | .taskTime .. | .realtimePreempt .. => [.engines]
  | .waitqSatisfied .. => [.mem, .engines, .qfe]
  | .doorbellPoll .. | .postedCreditsWithheld .. => Part.fires ++ [.qfe, .flt]
  | .descriptorRead .. => Part.fires ++ [.engines, .qfe, .flt]
  | .atsInvalidationRequest .. | .pcieTagWithholdExpiry .. => [.ports]
  | .commandTimeLimit .. => Part.fires ++ [.cmds]
  | .shutterDrainTimeout .. => [.cmds]
  | .contextSave .. => [.engines, .cmds]
  | .setupCreateQueue .. => Part.fires ++ [.mem, .engines, .qfe]
  | .setupDestroyQueue .. => Part.tasked ++ [.cmds]
  | .setupCreateFence .. => Part.fires ++ [.mem, .qfe]
  | .setupDestroyFence .. | .setupRequestInvalid .. => Part.fires ++ [.qfe]
  | .qfeEnginePortWrite .. | .qfeSillWrite .. => [.engines, .sent]
  | .qfeTimeLimitWrite .. => [.qfe, .sent]
  | .qfePollWrite .. | .pwrPhaseWrite .. | .evcHostCauseClear .. | .msixCoalesceExpiry .. | .msixVectorUnmask ..
  | .fltLogReadIdxWrite .. => [.ports, .sent]
  | .startUpSequence .. | .testSequence .. | .shadowSetExchange .. | .scratchpadHandshake .. | .regionPhaseEnd ..
  | .engineStall .. | .engineFence .. | .engineReturn ..
    => Part.ended ++ [.dies, .banks, .arrays]
  | .pointOfLoadFailure .. => Part.ended ++ [.dies, .banks, .arrays, .mgmt]
  | .backgroundPassStart .. => [.banks]
  | .spdTestCtrlWrite .. => [.dies, .sent]
  | .annealBatch .. => Part.fires ++ [.dies, .engines, .spin, .draws]
  | .tableRebuildComplete .. | .blockPageInComplete .. => [.spin]
  | .epochEnd .. => [.spin, .opx]
  | .epochStart .. => Part.fires ++ [.dies, .engines, .spin, .opx]
  | .runSeedArrival .. => [.cmds, .spin, .opx]
  | .neuralEngineEligible .. => [.engines, .spin]
  | .map .. | .unmap .. | .mapRequestInvalid .. => Part.fires ++ [.hbm]
  | .mapZeroingComplete .. | .listStores .. | .readDump .. => Part.fires ++ [.mem, .hbm]
  | .bindStore .. => Part.fires ++ [.mem, .hbm, .fls, .draws]
  | .hbmAccess .. => Part.ended ++ [.mesh, .reply]
  | .memProblemAreaWrite .. => [.hbm, .sent]
  | .flashDieRebuild .. | .flashProgramFail .. | .retentionRefresh .. => Part.fires ++ [.fls, .flt]
  | .wearLevelCopy .. | .readDisturbCopy .. => [.fls]
  | .dumpMirror .. => Part.fires ++ [.mem, .fls, .flt]
  | .frameStart .. => Part.ended ++ [.dies, .sec]
  | .markerReceived .. | .linkNonceRetry .. => Part.fires ++ [.opx]
  | .markerMissing .. | .holdoverLimit .. => Part.fires ++ [.opx, .flt]
  | .calibration .. => [.opx]
  | .opxFrameWrite .. | .opxCascadeWrite .. => [.opx, .sent]
  | .opxPairRetrain .. => Part.fires ++ [.dies, .opx]
  | .fastLoop .. => Part.fires ++ [.dies, .engines, .pwr, .draws]
  | .collectiveHoldTimeout .. => [.dies, .engines, .draws]
  | .capControllerPeriod .. | .urgentAllocation .. => Part.fires ++ [.dies, .pwr]
  | .railRampComplete .. | .dieCauseClear .. => [.dies]
  | .marginTrim .. | .droopToNominal .. => Part.fires ++ [.dies, .flt]
  | .holdUpBankLow .. => Part.fires ++ [.engines, .pwr, .flt]
  | .inputVoltageChange .. => Part.stops ++ [.pwr, .mgmt]
  | .overvoltageTimeout .. | .thermalTripTimeout .. => Part.stops ++ [.mgmt]
  | .thermalChange .. => Part.stops ++ [.dies, .engines, .mgmt]
  | .controllerTakeover .. => [.pwr]
  | .pwrCapWrite .. | .pwrCtrlWrite .. => [.pwr, .sent]
  | .failureCountDecay .. | .eventClaim .. | .eventComplete .. | .evcMaskSet .. | .evcMaskClr ..
  | .evcPendClr .. | .coalesceIntervalExpiry .. | .coreSleep .. | .coreWake .. => [.hosts]
  | .eventMessage .. | .wireSourceChange .. | .evcPendSet .. | .localTimerCompare ..
    => Part.fires
  | .sourceStart .. | .entropyBlockReady .. | .healthTestFailure .. | .entropyStallTimeout .. => Part.ended ++ [.sec]
  | .generatorGrant .. => Part.fires ++ [.mem, .dies, .banks, .spin, .opx, .sec, .flt, .draws]
  | .entRngRead .. | .evcCountRead .. => [.hosts, .reply, .sent]
  | .boot .. => Part.fires ++ [.dies, .banks, .opx, .sec, .flt, .draws]
  | .tamperEvent .. => Part.stops ++ [.banks, .sec]
  | .attest .. | .readCertificate .. | .commitSvn .. => Part.fires ++ [.mem, .sec]
  | .loadHallKey .. | .withdrawHallKey .. | .scrap .. | .vendorAuthorisation ..
    => Part.fires ++ [.mem, .dies, .banks, .opx, .sec, .flt, .draws]
  | .returnModule .. => Part.fires ++ [.mem, .dies, .banks, .fls, .opx, .sec, .flt, .draws]
  | .securityRequestInvalid .. => Part.fires ++ [.sec]
  | .portLinkDown .. => Part.fires ++ [.mem, .cmds, .qfe, .hbm, .flt]
  | .hostDieLost .. => Part.stops
  | .moduleResetRequest .. => Part.stops ++ [.qfe, .sec]
  | .resetAck .. | .resetGraceExpiry .. => [.mem, .cmds, .jobs, .ports, .spin, .grf, .hbm, .fls, .opx, .flt, .draws]
  | .resetDies .. | .powerOn .. => Part.all
  | .d3hotTransition .. => [.cmds, .qfe, .ports, .sent]
  | .inputCollapse .. => [.mem, .cmds, .jobs, .ports, .spin, .grf, .hbm, .fls, .opx, .pwr, .hosts, .flt, .mgmt, .draws]
  | .spiHoldoffChange .. | .clearFaults .. => [.mgmt]
  | .smbalertMask .. => [.mgmt, .reply]
  | .statusWord .. | .statusInput .. | .statusTemperature .. | .readVin .. | .readIin .. | .readTemperature1 ..
  | .readTemperature2 .. | .readPin .. | .mfrId .. | .mfrModel .. | .mfrSerial .. | .mfrLifecycle .. => [.reply]
  | .mfrModuleReset .. => Part.fires ++ [.qfe, .hbm, .sec, .flt]
  | .statisticClear .. => Part.fires ++ [.dies, .engines, .banks, .hbm, .fls, .opx, .pwr]
  | .registerWrite .. => Part.ended ++ [.dies, .banks, .pwr, .sec]
  | .standardInterfaceLoss .. => Part.fires ++ [.fls, .flt, .mgmt]
  | .holdUpBankRecovered .. => Part.fires ++ [.pwr]
  | .flashRebuildComplete .. => Part.fires ++ [.fls]

/-! ### Which bytes a command can write -/

namespace Sys2Proof.Machine

/-- A byte of a range of n bytes of a pair's addresses. -/
def VaByte (s : State) (p : Port) (pasid va n k : Nat) : Prop := ∃ j, j < n ∧ k = vaKey s p pasid (va + j)

/-- A byte of a range of n bytes of a port's untranslated memory. -/
def PortByte (p : Port) (a n k : Nat) : Prop := memKey (.untranslated p) a ≤ k ∧ k < memKey (.untranslated p) a + n

/-- A byte of a space. -/
def SpaceByte (sp : Space) (k : Nat) : Prop := memKey sp 0 ≤ k ∧ k < memKey sp (2 ^ 64)

/-- A byte of a completion ring: 32 bytes at each of its places (R278). -/
def RecordByte (s : State) (k : Nat) : Prop :=
  ∃ i q seq, s.queue? i = some q ∧ VaByte s q.port q.pasid (cplAddr q seq) 32 k

/-- A byte of what a command that has started is writing (R68). -/
def DestByte (s : State) (k : Nat) : Prop :=
  ∃ c x q r, s.cmd? c = some x ∧ s.queue? x.queue = some q ∧ r ∈ x.dests ∧ VaByte s q.port q.pasid r.1 r.2 k

/-- A byte of a store, which a write cut off may leave old or new (R340). -/
def StoreByte (k : Nat) : Prop := memKey (.store 0) 0 ≤ k

/-- A byte of a fence's mirror (R285). -/
def MirrorByte (s : State) (k : Nat) : Prop := ∃ i f, s.fence? i = some f ∧ VaByte s f.port f.pasid f.mirror 8 k

/-- A byte that the end of a task writes: its end record, its window, the mirror of its end fence (R250). -/
def TaskByte (s : State) (k : Nat) : Prop :=
  MirrorByte s k ∨ ∃ e t, (s.eng e).task = some t ∧
    (SpaceByte (.window e) k ∨ ∃ q, s.queue? t.queue = some q ∧ VaByte s q.port q.pasid t.endAddr 16 k)

/-- A byte of the record array of a graph launch (R313). -/
def NodeByte (s : State) (l k : Nat) : Prop :=
  ∃ g x q n, tblFind s.grf.launches l = some g ∧ s.cmd? l = some x ∧ s.queue? x.queue = some q ∧ n < g.nodes.length ∧
    VaByte s q.port q.pasid (g.recordsAddr + 32 * n) 32 k

/-- A byte of the window that a mailbox request names at offsets 8 and 0x10, of n bytes at most (R332, R436). -/
def WindowByte (s : State) (p : Port) (addr n k : Nat) : Prop :=
  let b := s.read (.untranslated p) addr 128
  PortByte p (fieldOf b 8 8) (min n (fieldOf b 0x10 8)) k

end Sys2Proof.Machine

open Sys2Proof.Machine in
/-- The bytes that completion records, mailbox answers, node records and the ends of commands and tasks can change; a command that
writes data of its own besides is not bounded here. -/
def Sys2Proof.Instr.mayWrite (s : State) (k : Nat) : Sys2Proof.Instr → Prop
  | .noOp _ | .queueBarrier _ | .resume _ | .commandStart _ => RecordByte s k
  | .fenceWait _ | .fenceWaitSatisfied _ | .update _ | .free _ | .registerNeuralTerm _ | .ladderSet _ | .patch _
  | .patchCommit _ | .graphDestroy _ | .storeCreate _ => RecordByte s k ∨ DestByte s k
  | .fenceSignal _ => RecordByte s k ∨ DestByte s k ∨ MirrorByte s k
  | .shutterComplete _ => RecordByte s k ∨ DestByte s k ∨ StoreByte k
  | .atsTranslationCompletion .. | .prgResponse .. | .pageRequestTimeout .. =>
    RecordByte s k ∨ DestByte s k ∨ StoreByte k ∨ TaskByte s k
  | .graphNodeStart l _ | .graphNodeComplete l _ => RecordByte s k ∨ StoreByte k ∨ NodeByte s l k
  | .setupCreateQueue p | .setupCreateFence p => PortByte p ((s.port p).setup.addr + 0x70) 8 k
  | .setupDestroyQueue _ => RecordByte s k ∨ TaskByte s k
  | .queueTeardownComplete p =>
    RecordByte s k ∨ DestByte s k ∨ StoreByte k ∨ PortByte p ((s.port p).setup.addr + 0x40) 16 k
  | .bindStore p => PortByte p ((s.port p).map.addr + 0x70) 8 k
  | .listStores p | .readDump p =>
    PortByte p ((s.port p).map.addr + 0x70) 8 k ∨ WindowByte s p (s.port p).map.addr (2 ^ 64) k
  | .mapZeroingComplete p => PortByte p ((s.port p).map.addr + 0x70) 8 k ∨
    ∃ j e, s.hbm.job = some j ∧ e ∈ j.keys ∧ SpaceByte (.page e.2.stack e.2.page) k
  | .unmapDrainEnd p => RecordByte s k ∨ DestByte s k ∨ StoreByte k ∨ PortByte p ((s.port p).map.addr + 0x70) 8 k
  | .attest p | .readCertificate p =>
    PortByte p ((s.port p).sec.addr + 0x70) 8 k ∨ WindowByte s p (s.port p).sec.addr 50480 k
  | .commitSvn p | .loadHallKey p | .withdrawHallKey p | .scrap p | .vendorAuthorisation p =>
    PortByte p ((s.port p).sec.addr + 0x70) 8 k
  | _ => True
end

