-- ==== Sys2Proof/Certificates/Slice0/Obligations.lean ====
section
/-! DEFINITION. The statements for the provers: what the commands of the VM64 do, which steps stop, and what no command
touches. A clause that says `exec ... = nextKeeping s t` or `.next t` says that the command completes, and in which state. -/

open Sys2Proof Sys2Proof.Machine

/-- Routers: at a router that stands idle, a packet its die issues leaves in one transfer with loss count 0 when its channel's
credits cover its units, and takes them; one without credit waits in its buffer and is counted once; a packet for the die itself is
taken, unless it is for a stack that sits a handshake out for its temperature (R408). A credit toggle returns one of the credits
that the receiver owes; a bridge retrains onto its spare lanes; a detour table for a fenced bridge, which avoids every fenced
bridge and has no cycle, takes over a drained channel; a lost standard interface is noted, and the channel of an ONFI interface is
fenced (01 R26-R29, R32, R33, R35, R40, R44; 11 R339; which bits a detour table has is log entry 44). -/
def Obligations.MeshRouterCommandsComplete : Prop :=
  ∀ (s : State) (d o : Nat) (ch : Channel), s.works = true → isDie d = true → isOutput o = true →
    (MeshIdle s d → ∀ p : Packet, p.wf = true → p.src = d → p.channel = ch → hasSpace s p = true →
      (routeOut s d p = some o → portFenced s d o = false →
        (p.units ≤ creditsOf s d o ch → endLost s p.dst p.dstEndpoint = false →
          ∃ t, exec (.packetForward d [p]) s = .next t ∧ (t.out d o).wire = some { packet := { p with loss := 0 } } ∧
            (t.out d o).used.get ch = (s.out d o).used.get ch + p.units ∧
            t.mesh.reserved = s.mesh.reserved ++
              if ch = .request ∧ p.response ≠ 0 then [⟨d, p.srcEndpoint, p.tag, p.response⟩] else []) ∧
        (creditsOf s d o ch < p.units → (s.die d).meshStall.count + 1 < statTop →
          ∃ t, exec (.packetForward d [p]) s = .next t ∧ (t.out d o).wire = none ∧ (t.out d o).used = (s.out d o).used ∧
            placeOf t d 5 ch = [{ packet := { p with loss := 0 }, waited := true }] ∧
            (t.die d).meshStall.count = (s.die d).meshStall.count + 1)) ∧
      (p.dst = d → endLost s d p.dstEndpoint = false → forFenced s d p = false →
        restsHot s ch p.dstEndpoint = false →
        ∃ t, exec (.packetForward d [p]) s = .next t ∧ t.sent = s.sent ++ [.delivered { p with loss := 0 }] ∧
          placeOf t d 5 ch = [])) ∧
    (MeshIdle s d → (s.out d o).owed.get ch ≠ 0 → exec (.creditToggle d o ch) s = .next (s.modOut d o fun y => { y with
      owed := y.owed.put ch (y.owed.get ch - 1), used := y.used.put ch (y.used.get ch - 1) })) ∧
    (∀ h, h < halvesOf d o → h < 2 → (bridgePeer d o).isSome = true → h ∉ (s.out d o).fencedHalves →
      h ∉ (s.out d o).spareHalves → exec (.bridgeHandshakeTimeout d o h ch true) s = .next
        (s.setOut d o { s.out d o with spareHalves := h :: (s.out d o).spareHalves })) ∧
    (∀ b table order, b < 512 → b ∈ fencedBridges s → drained s d ch = true → tableAvoids s table = true →
      tableAcyclic table order = true → ∃ t, exec (.detourTableSwitch d ch b table order) s = .next t ∧
        tblFind t.mesh.detours (d * 2 + chanIdx ch) = some ⟨b, table⟩) ∧
    (∀ i : StdInterface, i.wf = true → ∃ t, exec (.standardInterfaceLoss i) s = .next t ∧
      t.mgmt.lostInterfaces = (i :: s.mgmt.lostInterfaces).dedup ∧
      ∀ n, i = .onfi n → (t.channel n).state = .fenced)

/-- The control family: a no-op completes at once, a fence wait at or past its value completes and before it runs on, a
barrier and a signal wait for earlier commands, a signal moves its fence and returns the value, a resume makes a halted
queue ready and is a no-op in a ready one (09 R284-R287; R52). -/
def Obligations.ControlCommandsComplete : Prop :=
  ∀ (s : State) (c : Nat) (x : Cmd) (q : Queue),
    (Runnable s c 0x00 x q → exec (.noOp c) s = endsWell s s c 0) ∧
    (Runnable s c 0x03 x q → earlierRunning s x = false →
      exec (.queueBarrier c) s = endsWell s s c 0) ∧
    (Runnable s c 0x04 x q → q.state = .halted →
      exec (.resume c) s = endsWell s (s.setQueue x.queue { q with state := .ready }) c 0) ∧
    (Runnable s c 0x04 x q → q.state = .ready → exec (.resume c) s = endsWell s s c 0) ∧
    ∀ (i : Nat) (f : Fence), fenceIndex s (dField x.desc 0x10 8) = some i → s.fence? i = some f → f.port = q.port →
      (Runnable s c 0x01 x q → atOrPast 64 f.value.toNat (dField x.desc 0x18 8) = true →
        exec (.fenceWait c) s = endsWell s s c 0) ∧
      (Runnable s c 0x01 x q → atOrPast 64 f.value.toNat (dField x.desc 0x18 8) = false →
        exec (.fenceWait c) s = runsOn s s c) ∧
      (CommandAt s c 0x01 [.running] x q → atOrPast 64 f.value.toNat (dField x.desc 0x18 8) = true →
        exec (.fenceWaitSatisfied c) s = endsWell s s c 0) ∧
      (Runnable s c 0x02 x q → earlierRunning s x = false → dField x.desc 0x20 1 ≤ 1 →
        ∀ v u, v = fenceNext f.value.toNat (dField x.desc 0x18 8) (dField x.desc 0x20 1) →
          writeMirror (s.setFence i { f with value := BitVec.ofNat 64 v }) f v = .ok u →
          exec (.fenceSignal c) s = endsWell s u c (BitVec.ofNat 128 v))

/-- A fence value a is at or past b when (a - b) mod 2^64 is less than 2^63, and a fence wait completes by that rule, with no
other effect (02 R52). Of the third sentence, a rule for software, no command says anything. -/
def Obligations.FenceValuesCompareModulo : Prop :=
  (∀ a b : DWord, atOrPast 64 a.toNat b.toNat = true ↔ (a - b).toNat < 2 ^ 63) ∧
  ∀ (s : State) (c : Nat) (x : Cmd) (q : Queue) (i : Nat) (f : Fence), Runnable s c 0x01 x q →
    fenceIndex s (dField x.desc 0x10 8) = some i → s.fence? i = some f → f.port = q.port →
    let b := BitVec.ofNat 64 (dField x.desc 0x18 8)
    ((f.value - b).toNat < 2 ^ 63 → exec (.fenceWait c) s = endsWell s s c 0) ∧
    (¬(f.value - b).toNat < 2 ^ 63 → exec (.fenceWait c) s = runsOn s s c)

/-- Task instructions on registers: the result goes to `s_d`, s0 stays zero, the pc moves on, and nothing else changes
(07 R243, R244).
Branches: not taken, the next instruction; taken, the instruction imm away; a target outside 0 to 4095 ends the task with
0x3051. A loop counts its register down first (07 R244). -/
def Obligations.TaskInstructionsWriteRegistersAndPc : Prop :=
  (∀ (s : State) (e : Nat) (t : Task),
     let w := taskWord e t t.pc
     let a := getReg t (aReg w)
     let b := getReg t (bReg w)
     let put := fun (v : DWord) (n : Nat) => (.next (setTask s e (nextPc (setReg t (dReg w) v) n)) : Out)
     (TaskAt s e 0x01 t → exec (.taskAdd e) s = put (a + b) 1) ∧
     (TaskAt s e 0x02 t → exec (.taskSub e) s = put (a - b) 1) ∧
     (TaskAt s e 0x03 t → exec (.taskAnd e) s = put (a &&& b) 1) ∧
     (TaskAt s e 0x04 t → exec (.taskOr e) s = put (a ||| b) 1) ∧
     (TaskAt s e 0x05 t → exec (.taskXor e) s = put (a ^^^ b) 1) ∧
     (TaskAt s e 0x06 t → exec (.taskShl e) s = put (a <<< (b.toNat % 64)) 1) ∧
     (TaskAt s e 0x07 t → exec (.taskShr e) s = put (a.sshiftRight (b.toNat % 64)) 1) ∧
     (TaskAt s e 0x08 t → exec (.taskMul e) s = put (a * b) 1) ∧
     (TaskAt s e 0x10 t → exec (.taskAddi e) s = put (a + BitVec.ofInt 64 (immField w)) 1) ∧
     (TaskAt s e 0x11 t → exec (.taskLdw e) s =
       put (BitVec.ofNat 64 (taskWord e t ((t.pc + 1) % 4096) + 2 ^ 32 * taskWord e t ((t.pc + 2) % 4096))) 3) ∧
     (TaskAt s e 0x2D t → exec (.taskTime e) s = put (BitVec.ofNat 64 (timerOf s (engineDie e))) 1)) ∧
  (∀ (s : State) (e : Nat) (t : Task),
     let w := taskWord e t t.pc
     let a := getReg t (dReg w)
     let b := getReg t (aReg w)
     let goes := fun (t : Task) (taken : Bool) (o : Out) =>
       (taken = false → o = .next (setTask s e (nextPc t 1))) ∧
       (taken = true → 0 ≤ (t.pc : Int) + immField w → (t.pc : Int) + immField w ≤ 4095 →
         o = .next (setTask s e { t with pc := ((t.pc : Int) + immField w).toNat })) ∧
       (taken = true → ((t.pc : Int) + immField w < 0 ∨ 4095 < (t.pc : Int) + immField w) →
         o = nextKeeping s (endTask s e 0x3051))
     (TaskAt s e 0x20 t → goes t (a == b) (exec (.taskBeq e) s)) ∧
     (TaskAt s e 0x21 t → goes t (a != b) (exec (.taskBne e) s)) ∧
     (TaskAt s e 0x22 t → goes t (decide (a.toInt < b.toInt)) (exec (.taskBlt e) s)) ∧
     (TaskAt s e 0x23 t → goes t (decide (a.toNat < b.toNat)) (exec (.taskBltu e) s)) ∧
     (TaskAt s e 0x24 t → goes (setReg t (dReg w) (a - 1)) (getReg (setReg t (dReg w) (a - 1)) (dReg w) != 0)
       (exec (.taskLoop e) s)))

/-- Task loads, stores and atomics act on the 8 bytes at their address of the task window: loads and atomics put the old
word in `s_d`; an address that is misaligned or outside ends the task with 0x3052. Of memory, stores and atomics change
those 8 bytes and no other (07 R244, 08 R254).
Task instructions on queues and fences: a descriptor is handed out in ring order, placed in a device-fed ring or reported
full, done with in a record; one whose 64 bytes are misaligned or outside the window ends the task with 0x3052; a wait on a fence
goes on at its value; a signal moves the fence (07 R244, R245; 09 R285, R286). That a signal moves it in mode 0 is the model's reading
(log entry 27); so are the alignment of those 64 bytes and that a done's fault code is the low 16 bits of its register (log entry 13). -/
def Obligations.TaskInstructionsOnMemoryQueuesAndFences : Prop :=
  (∀ (s : State) (e : Nat) (t : Task),
     let w := taskWord e t t.pc
     let k := (dispAddr t w).toNat
     let at' := (getReg t (aReg w)).toNat
     let word := fun (n : Nat) => (BitVec.ofNat 64 (s.readNat (.window e) n 8) : DWord)
     let kept := fun (u : State) (n : Nat) => ∀ m, (m < memKey (.window e) n ∨ memKey (.window e) n + 8 ≤ m) →
       memGet u.mem m = memGet s.mem m
     (TaskAt s e 0x18 t → windowOk t (dispAddr t w) 8 = true →
       exec (.taskLd e) s = .next (setTask s e (nextPc (setReg t (dReg w) (word k)) 1))) ∧
     (TaskAt s e 0x18 t → windowOk t (dispAddr t w) 8 = false → exec (.taskLd e) s = nextKeeping s (endTask s e 0x3052)) ∧
     (TaskAt s e 0x19 t → windowOk t (dispAddr t w) 8 = false → exec (.taskSt e) s = nextKeeping s (endTask s e 0x3052)) ∧
     (TaskAt s e 0x19 t → windowOk t (dispAddr t w) 8 = true → ∃ u, exec (.taskSt e) s = .next u ∧
       u.read (.window e) k 8 = natLe 8 (getReg t (dReg w)).toNat ∧ kept u k ∧ u.eng e = { s.eng e with task := some (nextPc t 1) } ∧
       u = { s with mem := u.mem, engines := u.engines }) ∧
     (windowOk t at' 8 = false →
       (TaskAt s e 0x1A t → exec (.taskAadd e) s = nextKeeping s (endTask s e 0x3052)) ∧
       (TaskAt s e 0x1B t → exec (.taskAswp e) s = nextKeeping s (endTask s e 0x3052))) ∧
     (TaskAt s e 0x1A t → windowOk t at' 8 = true → ∃ u, exec (.taskAadd e) s = .next u ∧
       u.read (.window e) at' 8 = natLe 8 (word at' + getReg t (bReg w)).toNat ∧ kept u at' ∧
       u.eng e = { s.eng e with task := some (nextPc (setReg t (dReg w) (word at')) 1) } ∧
       u = { s with mem := u.mem, engines := u.engines }) ∧
     (TaskAt s e 0x1B t → windowOk t at' 8 = true → ∃ u, exec (.taskAswp e) s = .next u ∧
       u.read (.window e) at' 8 = natLe 8 (getReg t (bReg w)).toNat ∧ kept u at' ∧
       u.eng e = { s.eng e with task := some (nextPc (setReg t (dReg w) (word at')) 1) } ∧
       u = { s with mem := u.mem, engines := u.engines })) ∧
  (∀ (s : State) (e : Nat) (t : Task) (i : Nat),
     let w := taskWord e t t.pc
     let a := (getReg t (aReg w)).toNat
     (∀ q seq d rest, q.waiting = (seq, d) :: rest → q.state = .ready →
       let given := fun (addr reg : Nat) =>
         (.next (setTask ((s.setQueue i { q with waiting := rest, started := (q.started + 1) % 2 ^ 32 }).write (.window e) addr
           (descBytes d)) e (nextPc { setReg t reg (BitVec.ofNat 64 seq) with
             wait := .running, handed := t.handed ++ [{ queue := i, seq := seq, desc := d }] } 1)) : Out)
       (TaskAt s e 0x28 t → servedQueue s e t w = some (i, q) → windowOk t a 64 = true →
         exec (.taskWaitq e) s = given a (dReg w)) ∧
       (∀ addr reg, s.works = true → isEngine e = true → (s.eng e).task = some t → t.wait = .queue i addr reg →
         s.queue? i = some q → exec (.waitqSatisfied e) s = given addr reg)) ∧
     (∀ q, windowOk t a 64 = false →
       (TaskAt s e 0x28 t → servedQueue s e t w = some (i, q) → exec (.taskWaitq e) s = nextKeeping s (endTask s e 0x3052)) ∧
       (TaskAt s e 0x29 t → tableQueue s t w 3 = some (i, q) → exec (.taskEnq e) s = nextKeeping s (endTask s e 0x3052))) ∧
     (∀ q, TaskAt s e 0x28 t → servedQueue s e t w = some (i, q) → windowOk t a 64 = true → q.waiting = [] →
       exec (.taskWaitq e) s = .next (setTask s e { t with wait := .queue i a (dReg w) })) ∧
     (∀ q, TaskAt s e 0x29 t → tableQueue s t w 3 = some (i, q) → windowOk t a 64 = true →
       (ringFull q = true → exec (.taskEnq e) s = .next (setTask s e (nextPc (setReg t (dReg w) 1) 1))) ∧
       ∀ u, ringFull q = false →
         writeVa s q.port q.pasid (q.ring + 64 * (q.tail % 2 ^ q.ringLog2)) (s.read (.window e) a 64) = .ok u →
         exec (.taskEnq e) s = nextKeeping s (setTask (u.setQueue i { q with tail := (q.tail + 1) % 2 ^ 32 }) e
           (nextPc (setReg t (dReg w) 0) 1))) ∧
     (∀ f, TaskAt s e 0x2A t → tableFence s t w = .ok (i, f) →
       (atOrPast 64 f.value.toNat a = true → exec (.taskWaitf e) s = .next (setTask s e (nextPc t 1))) ∧
       (atOrPast 64 f.value.toNat a = false → exec (.taskWaitf e) s =
         .next (setTask s e { t with wait := .fence ((tableHandle t w).getD 0) (getReg t (aReg w)) }))) ∧
     (∀ h v f, s.works = true → isEngine e = true → (s.eng e).task = some t → t.wait = .fence h v → fenceIndex s h = some i →
       s.fence? i = some f → atOrPast 64 f.value.toNat v.toNat = true →
       exec (.waitfSatisfied e) s = .next (setTask s e (nextPc { t with wait := .running } 1))) ∧
     (∀ f u, TaskAt s e 0x2B t → tableFence s t w = .ok (i, f) →
       let v := fenceNext f.value.toNat a 0
       writeMirror (s.setFence i { f with value := BitVec.ofNat 64 v }) f v = .ok u →
       exec (.taskSigf e) s = nextKeeping s (setTask u e (nextPc t 1))) ∧
     (∀ q h u, TaskAt s e 0x2C t → servedQueue s e t w = some (i, q) →
       t.handed.find? (fun h => h.queue == i && h.seq == (getReg t (dReg w)).toNat) = some h →
       writeVa s q.port q.pasid (cplAddr q (getReg t (dReg w)).toNat + 8) (recordHigh (doneRecord q h a)) = .ok u →
       exec (.taskDone e) s = nextKeeping s (putRecord
         (setTask u e (nextPc { t with handed := t.handed.filter fun x => x != h } 1)) i (doneRecord q h a))))

/-- The task family: a launch clears the window and starts the task at pc 0 with s1 = the window's size; an enqueue places
its descriptor and raises the tail, or waits for room; a stop ends the task (07 R247-R251).
A task ends at a halt with fault 0, at a reserved instruction with 0x3051, past its time limit with 0x3053: its end
record is written, its window reads as zero, its context is free (07 R244, R249, R250). Here the task has handed out no
descriptor and has no fence to signal. -/
def Obligations.TasksStartAndEnd : Prop :=
  (∀ (s : State) (c : Nat) (x : Cmd) (q : Queue),
     let d := x.desc
     let e := dField d 0x3C 2
     (∀ code hs, Runnable s c 0xA0 x q → e ∈ q.engines → (s.eng e).task = none →
       (dField d 0x20 8 = 0 ∨ ∃ f, needFence s q.port (dField d 0x20 8) 0x20 = .ok f) →
       windowFree s e (dField d 0x38 4) = true → readImage s q (dField d 0x10 8) = .ok code →
       readHandles s q (dField d 0x18 8) = .ok hs →
       exec (.launchTask c) s = endsWell s (setTask { s.clear (.window e) with draws := s.draws + 1 } e
         { regs := [(1, BitVec.ofNat 64 (dField d 0x38 4))], pc := 0, code := code, handles := hs,
           windowBytes := dField d 0x38 4, windowBase := windowPlace s e q.kind (dField d 0x38 4),
            queue := x.queue, endFence := BitVec.ofNat 64 (dField d 0x20 8),
           endValue := BitVec.ofNat 64 (dField d 0x28 8), endAddr := dField d 0x30 8 }) c 0) ∧
     (∀ i k b, fedQueue s x q = .ok (i, k) → readVa s q.port q.pasid (dField d 0x10 8) 64 = .ok b →
       (Runnable s c 0xA1 x q → ringFull k = true → exec (.enqueue c) s = runsOn s s c) ∧
       ∀ v, ringFull k = false → writeVa s k.port k.pasid (k.ring + 64 * (k.tail % 2 ^ k.ringLog2)) b = .ok v →
         (Runnable s c 0xA1 x q →
           exec (.enqueue c) s = endsWell s (v.setQueue i { k with tail := (k.tail + 1) % 2 ^ 32 }) c 0) ∧
         (CommandAt s c 0xA1 [.waiting, .running] x q →
           exec (.deviceFedSpaceAvailable c) s = endsWell s (v.setQueue i { k with tail := (k.tail + 1) % 2 ^ 32 }) c 0)) ∧
     (Runnable s c 0xA2 x q → e ∈ q.engines → (s.eng e).task = none → exec (.stopTask c) s = endsWell s s c 0) ∧
     (∀ t, Runnable s c 0xA2 x q → e ∈ q.engines → (s.eng e).task = some t → t.queue = x.queue →
       ((endTask s e 0).eng e).task = none → exec (.stopTask c) s = endsWell s (endTask s e 0) c 0)) ∧
  (∀ (s : State) (e : Nat) (t : Task) (q : Queue), s.queue? t.queue = some q → t.handed = [] → t.endFence = 0 →
     let freed := fun (u : State) => ((u.clear (.window e)).modEng e fun g => { g with task := none } : State)
     let ended := fun (fault : Nat) (o : Out) =>
       (t.endAddr = 0 → o = .next (freed s)) ∧
       (t.endAddr ≠ 0 → checkVa s q.port q.pasid t.endAddr 16 true = .ok () →
         o = nextKeeping s (freed (pokeVa s q.port q.pasid t.endAddr (endRecord s e t fault))))
     (TaskAt s e 0x00 t → ended 0 (exec (.taskHalt e) s)) ∧
     (∀ op, TaskAt s e op t → op ∉ taskOps → ended 0x3051 (exec (.reservedInstruction e) s)) ∧
     (s.works = true → isEngine e = true → (s.eng e).task = some t → t.wait = .running →
       ended 0x3053 (exec (.taskRanWithoutWaiting e) s)))

/-- Queues: a poll takes the tail of the page's one queue and sets the page's interval; a descriptor read of the queue its fetch
engine serves next takes up to 8 descriptors; the head of a ready queue starts as a command, or is cancelled with 0x4003 in a
halted one; a real-time queue with work asks its engines to stop normal work (09 R275, R279, R280, R282, R287, R290). A ring
command that ends in sequence order in a ready queue with a record page that may be written: it is live no more, its 32-byte record
stands in its completion slot with the phase bit of its lap, and the completion count moves on (09 R272, R277, R278). -/
def Obligations.QueuesFetchStartAndComplete : Prop :=
  (∀ (s : State) (i : Nat) (q : Queue), s.works = true → s.flt.resetStep = 0 →
     (∀ (g : DoorbellPage) (b : List Byte), isEngine g.engine = true → isPasid g.pasid = true →
       s.qfe.pages.find? (fun d => d.engine == g.engine && d.pasid == g.pasid && d.page == g.page) = some g →
       polled s g = [(i, q)] → readVa s q.port g.pasid g.page 512 = .ok b →
       atOrPast 32 (fieldOf b (8 * q.dbIndex) 4) q.fetched = true →
       (fieldOf b (8 * q.dbIndex) 4 + 2 ^ 32 - q.fetched) % 2 ^ 32 ≤ 2 ^ q.ringLog2 →
       exec (.doorbellPoll g.engine g.pasid g.page) s = .next
         (setPage (s.setQueue i { q with tail := fieldOf b (8 * q.dbIndex) 4 }) (nextInterval s q.port g (raised b (i, q))))) ∧
     (∀ (b : List Byte) (e slot : Nat), s.queue? i = some q → e = q.engines.head?.getD 0 → nextRead s e = some (slot, i) →
       readVa s q.port q.pasid (q.ring + 64 * (q.fetched % 2 ^ q.ringLog2)) (64 * readCount q) = .ok b →
       exec (.descriptorRead i) s = .next ((s.modEng e fun g => { g with readTurn := slot + 1 }).setQueue i { q with
         fetched := (q.fetched + readCount q) % 2 ^ 32, waiting := q.waiting ++ numbered q.fetched (readCount q) b })) ∧
     (∀ seq d rest, s.queue? i = some q → q.waiting = (seq, d) :: rest →
       let u := s.setQueue i { q with waiting := rest, started := (q.started + 1) % 2 ^ 32 }
       (q.state = .ready → q.kind ≠ 2 → inOrder s i seq d = true → engineAdmits s i q d = true → startCheck d = .ok () →
         exec (.commandStart i) s = .next ({ u with qfe := { u.qfe with nextCmd := u.qfe.nextCmd + 1 } }.setCmd u.qfe.nextCmd
           { queue := i, seq := seq, desc := d })) ∧
       (q.state = .halted → resuming s i = false → dOpcode d ≠ 4 →
         exec (.commandStart i) s = nextKeeping s (putRecord u i
           { seq := seq, fault := 0x4003, opcode := dOpcode d, status := phaseBit q seq, detail := q.faultSeq,
             tag := dField d 4 4, result := 0, irq := bit (dField d 1 1) 1 }))) ∧
     (s.queue? i = some q → q.kind = 1 → realTimeWork s i q = true →
       ∃ t, exec (.realtimePreempt i) s = .next t ∧
         (∀ e ∈ q.engines, (t.eng e).preempting = ((s.eng e).preempting || (s.eng e).context.isNone)) ∧
         (∀ e, e ∉ q.engines → t.eng e = s.eng e) ∧ t = { s with engines := t.engines })) ∧
  (∀ (s : State) (c : Nat) (x : Cmd) (q : Queue) (r : BitVec 128),
     s.cmd? c = some x → s.queue? x.queue = some q → x.node = none → q.state = .ready → q.silent = false → q.held = [] →
     q.completed = x.seq → bit (dField x.desc 1 1) 1 = false → tblFind s.jobs c = none → tblFind s.spin.launches c = none →
     tblFind s.grf.launches c = none → tblFind s.grf.patches c = none →
     (∀ f ∈ s.opx.flows, f.2.command ≠ some c) → (∀ l ∈ s.spin.launches, l.2.record = none) →
     (∀ l ∈ s.grf.launches, l.2.record = none) →
     q.cpl % 4096 = 0 → cplAddr q x.seq + 32 < deviceBase →
     (∀ u, checkVa s q.port q.pasid (cplAddr q x.seq + 8) 24 true = .ok u →
       ∃ t, finishCmd s c 0 0 r false false = t ∧ t.cmd? c = none ∧
         memRead t.mem (memKey (.virt q.port q.pasid) (cplAddr q x.seq)) 32 =
           natLe 4 x.seq ++ natLe 2 0 ++ natLe 1 (dOpcode x.desc) ++
             natLe 1 (4 * bit01 x.preempted + 8 * bit01 x.migrated + (1 - x.seq / 2 ^ q.ringLog2 % 2)) ++
             natLe 4 0 ++ natLe 4 (dField x.desc 4 4) ++ natLe 16 r.toNat ∧
         (t.queue? x.queue).map (·.completed) = some ((q.completed + 1) % 2 ^ 32)))

/-- Translation: a granted read is outstanding, a miss asks for its page; a completion that grants puts the page in the
cache and lets what waited go on, one that grants nothing asks for the page once, then refuses; a page request is answered,
repeated or given up; an invalidation empties the cache of its pages, where fewer than 32 wait (one more waits at the port: log
entry 16), and completes once nothing uses them (09 R269-R271). -/
def Obligations.TranslationCommandsComplete : Prop :=
  ∀ (s : State) (p : Port) (pasid page : Nat), s.works = true → isPasid pasid = true →
    (∀ c x q va len, s.cmd? c = some x → s.queue? x.queue = some q → x.shutter = none → x.stage ≠ .committing →
      len ≠ 0 → inOneRange va len = true →
      va < deviceBase →
      (∀ k, checkVa s q.port q.pasid va len false = .ok () →
        lowestFree (fun t => ((s.port q.port).reads.any fun r => r.tag == t) || (s.port q.port).withheld.contains t) 16384 0 =
          some k →
        exec (.hostAccess c va len false) s = .next (s.modPort q.port fun o =>
          { o with reads := o.reads ++ [{ tag := k, command := c, pasid := q.pasid, page := va / 4096 }] })) ∧
      (∀ write a g w, checkVa s q.port q.pasid va len write = .error (.page a g w) →
        exec (.hostAccess c va len write) s = nextKeeping s ((askPage s q.port a g w).modCmd c fun y =>
          { y with page := some (a, g, w), stage := if y.stage == .started then .waiting else y.stage }))) ∧
    (∀ w, (s.port p).ats.find? (fun w => w.pasid == pasid && w.page == page) = some w → w.withdrawn = false →
      (∀ r wr, (r || wr) = true → (w.reads = true → r = true) → (w.writes = true → wr = true) →
        let u := s.modPort p fun y => cachePage { y with ats := y.ats.erase w }
          { pasid := pasid, page := page, readable := r, writable := wr }
        exec (.atsTranslationCompletion p pasid page r wr) s =
          nextKeeping s (((if r then usersOf u p w false else []) ++ (if wr then usersOf u p w true else [])).foldl
            (resumeUser p pasid page) u)) ∧
      ((w.reads || w.writes) = true →
        let u := s.modPort p fun y => { y with ats := y.ats.erase w }
        let left := (if w.reads then usersOf u p w false else []) ++ (if w.writes then usersOf u p w true else [])
        exec (.atsTranslationCompletion p pasid page false false) s = nextKeeping s
          (if w.again then refusePage u p pasid page (fun _ => 0x4040) left
           else askRequest u p { w with again := true, users := left }))) ∧
    (∀ w, requestFor s p pasid page = some w → w.withdrawn = false →
      exec (.prgResponse p pasid page .success) s = nextKeeping s
        (((dropRequest s p w).modPort p fun x => { x with ats := x.ats ++ [w] }).request p (.atsRequest p pasid page)) ∧
      exec (.prgResponse p pasid page .invalidRequest) s = nextKeeping s
        (refusePage (dropRequest s p w) p pasid page (fun _ => 0x4040) w.users) ∧
      exec (.pageRequestTimeout p pasid page) s = nextKeeping s
        (refusePage (dropRequest s p w) p pasid page (fun _ => 0x4042) w.users)) ∧
    (∀ n, 32 ≤ (s.port p).invalidations.length → exec (.atsInvalidationRequest p pasid page n) s =
      .next (s.modPort p fun x => { x with invalidationBacklog := x.invalidationBacklog ++ [(pasid, page, n)] })) ∧
    (∀ n, (s.port p).invalidations.length < 32 → ∃ t, exec (.atsInvalidationRequest p pasid page n) s = .next t ∧
      (∀ a ∈ (t.port p).atc, ¬ (a.pasid = pasid ∧ page ≤ a.page ∧ a.page < page + n)) ∧
      (∀ a ∈ (s.port p).atc, ¬ (a.pasid = pasid ∧ page ≤ a.page ∧ a.page < page + n) → a ∈ (t.port p).atc) ∧
      (t.port p).invalidations.length = (s.port p).invalidations.length + 1) ∧
    (∀ v rest, (s.port p).invalidations = v :: rest → (∀ r ∈ (s.port p).reads, r.tag ∉ v.users) →
      exec (.invalidationDrainEnd p) s = nextKeeping s (nextInvalidation
        ((s.modPort p fun x => { x with invalidations := rest }).request p (.invalidationDone p v.pasid v.page)) p))

/-- The time limit and preemption: a command past its limit gets the shutter; an engine whose accesses do not drain is
killed; the record says 0x4020; a context save keeps the slots of an engine, with the images of their arrays or layer-1 sums and of
the shadow slot in use, frees them, and pauses the time limits of the commands saved out; a restore brings them back (07 R229-R231;
09 R290-R292). -/
def Obligations.ShutterAndContextSwitch : Prop :=
  ∀ (s : State) (c : Nat) (x : Cmd) (q : Queue) (e : Nat), s.works = true → s.cmd? c = some x → s.queue? x.queue = some q →
    (x.stage ≠ .committing → x.shutter = none → q.state ≠ .dead → dOpcode x.desc ≠ 0x71 →
      (∀ g ∈ q.engines, ∀ k, (s.eng g).context = some k → c ∉ k.paused) → (s.port q.port).shutter.count + 1 < statTop →
      exec (.commandTimeLimit c) s = .next
        ((s.setCmd c { x with shutter := some { left := q.engines } }).modPort
          q.port fun y => { y with shutter := { y.shutter with count := y.shutter.count + 1 } })) ∧
    (∀ h, isEngine e = true → x.shutter = some h → e ∈ h.left → outstanding s c x = true →
      exec (.shutterDrainTimeout c e) s = .next
        (s.setCmd c { x with shutter := some { left := h.left.filter (· != e), killed := h.killed ++ [e] } })) ∧
    (∀ h, x.shutter = some h → q.state ≠ .dead → acknowledged s c x = true →
      exec (.shutterComplete c) s = nextKeeping s
        (finishCmd (scrambleDests s x) c 0x4020 (if h.killed = [] then 0 else 1) 0 (!q.silent) true)) ∧
    (isEngine e = true → (s.eng e).preempting = true → (s.eng e).context = none →
      (∀ y ∈ normalOn s e, y.2.stage ≠ .committing) →
      ∃ t k, exec (.contextSave e) s = .next t ∧ k.slots = (s.eng e).slots ∧ k.imagesGood = true ∧
        k.images = ((s.eng e).slots.zip [0, 1, 2, 3]).map (slotImage s e) ∧ k.paused = (normalOn s e).map (·.1) ∧
        k.shadow = k.command.bind (tblFind s.jobs) ∧
        t.eng e = { s.eng e with context := some k, slots := [.free, .free, .free, .free], preempting := false } ∧
        t = { s with engines := t.engines, cmds := t.cmds }) ∧
    (∀ k, isEngine e = true → (s.eng e).context = some k → realTimeOn s e = false → (s.eng e).preempting = false →
      (∀ y ∈ (s.eng e).slots, y = .free) → k.imagesGood = true →
      exec (.contextRestore e) s = nextKeeping s (reloadShadow k (reloadImages e k
        (restartTables e (s.setEng e { s.eng e with context := none, slots := k.slots })))))

/-- Set-up requests: a queue is created with its handle written back (a real-time one keeps normal windows of its engines below
0x80_0000, R289), a fence is created or destroyed, an op out of range is answered 0x4050; each ends with busy clear and its result
(09 R293-R295). Queue teardown: the queue is dead at once, what waited is counted, the shutter goes to its commands, its tasks end;
once they have, and its commands acknowledged, the queue is gone, the port's request is done, and nothing is torn down any more (09
R296, R297). -/
def Obligations.SetUpRequestsAndTeardown : Prop :=
  (∀ (s : State) (p : Port) (b : List Byte),
     (∀ i gen, SetupAt s p 1 b →
       let engines := mapEngines (s.read (.untranslated p) (fieldOf b 0x28 8) 96)
       let q := queueOf p gen b engines
       createBad b engines = false →
       (∀ e ∈ engines, s.engineUsable e = true ∧ (s.eng e).portB = (p == .B) ∧ (freeQueueSlot (s.eng e)).isSome = true) →
       (fieldOf b 1 1 = 1 → ∀ e ∈ engines, (s.eng e).sill = true) →
       newIndex 12288 (fun i => (s.queue? i).isSome) s.qfe.queueGens = some (i, gen) →
       let u := { s with qfe := { s.qfe with queueGens := tblPut s.qfe.queueGens i gen } }.setQueue i q
       exec (.setupCreateQueue p) s = nextKeeping s (setupDone (writeHandle (usePage (engines.foldl (takeSlot i)
         (if q.kind == 1 then engines.foldl lowerWindow u else u)) q) p (mkHandle 6 gen i)) p 0)) ∧
     (∀ i gen, SetupAt s p 3 b → fieldOf b 4 4 < 2 ^ 20 → fieldOf b 0x10 8 % 8 = 0 →
       newIndex 16384 (fun i => (s.fence? i).isSome) s.qfe.fenceGens = some (i, gen) →
       exec (.setupCreateFence p) s = nextKeeping s (setupDone (writeHandle
         ({ s with qfe := { s.qfe with fenceGens := tblPut s.qfe.fenceGens i gen } }.setFence i
           { gen := gen, port := p, pasid := fieldOf b 4 4, value := BitVec.ofNat 64 (fieldOf b 8 8),
             mirror := fieldOf b 0x10 8 }) p (mkHandle 5 gen i)) p 0)) ∧
     (∀ i f, SetupAt s p 4 b → fenceIndex s (fieldOf b 8 8) = some i → s.fence? i = some f → f.port = p →
       exec (.setupDestroyFence p) s = nextKeeping s
         (setupDone { s with qfe := { s.qfe with fences := tblDel s.qfe.fences i } } p 0)) ∧
     (s.works = true → setupRequest s p = some b → (fieldOf b 0 1 = 0 ∨ 4 < fieldOf b 0 1) →
       exec (.setupRequestInvalid p) s = nextKeeping s (setupDone s p 0x4050)) ∧
     (∀ (u : State) (code : Nat), ((setupDone u p code).port p).setup = { (u.port p).setup with busy := false, result := code } ∧
       (setupDone u p code).qfe = { u.qfe with setupOrder := u.qfe.setupOrder.drop 1 })) ∧
  (∀ (s : State) (p : Port) (i : Nat) (q : Queue),
     (∀ b, SetupAt s p 2 b → queueIndex s (fieldOf b 8 8) = some i → s.queue? i = some q → q.port = p →
       exec (.setupDestroyQueue p) s = nextKeeping s ((teardownTasks s i (BitVec.ofNat 64 (fieldOf b 8 8))).foldl
         (fun s e => endTask s e 0x3056) ((teardownCommands s i).foldl startShutter
           ({ s with qfe := { s.qfe with teardown := some (p,
               { queue := i, handle := BitVec.ofNat 64 (fieldOf b 8 8), discarded := q.waiting.length, startedAt := s.time,
                 commands := teardownCommands s i }) } }.setQueue i
             { q with state := .dead, waiting := [], held := [], waits := [] })))) ∧
     (∀ t, s.works = true → s.qfe.teardown = some (p, t) → s.queue? t.queue = some q →
       (∀ c ∈ t.commands, ∀ x, s.cmd? c = some x → acknowledged s c x = true) → teardownTasks s t.queue t.handle = [] →
       ((s.port p).linkUp = true → (s.port p).mayRequest = true) →
       ∃ u, exec (.queueTeardownComplete p) s = .next u ∧ u.queue? t.queue = none ∧ u.qfe.teardown = none ∧
         (u.port p).setup.busy = false ∧ (u.port p).setup.result = 0))

/-- The registers of the queue front end that port A writes: one engine's port bit or sill bit changes while it holds no queue slot
and the sill stays within its limit; the time limit and the poll intervals are clamped (09 R267, R279, R288, R291, R519). A write
to a statistic clears its count when bits 30:0 are zero and its saturated flag when bit 31 is 1, and changes nothing else of the
module: the global statistics through either port, those of a powered die's window (00 R13, 15 R458). Writes of registers without a
command of their own: each sets its field from the value and nothing else; a go sets busy and queues the request; a core's write
configures its own controller's sources and masks them (17 R487-R492, 09 R293, 11 R332, 14 R436, 15 R453, 16 R464, R474). -/
def Obligations.RegisterWritesSetTheirField : Prop :=
  (∀ (s : State) (v : Nat), isWord v = true →
     (Reached s .A → ∀ n b, n < 24 → b < 32 → (s.eng (32 * n + b)).queues = [] →
       ((∀ k, k < 32 → k ≠ b → (s.eng (32 * n + k)).portB = bit v k) →
         (s.eng (32 * n + b)).portB ≠ bit v b → sillOk (s.setEng (32 * n + b) { s.eng (32 * n + b) with portB := bit v b }) = true →
         exec (.qfeEnginePortWrite .A n v) s = .next (s.setEng (32 * n + b) { s.eng (32 * n + b) with portB := bit v b })) ∧
       ((∀ k, k < 32 → k ≠ b → (s.eng (32 * n + k)).sill = bit v k) →
         (s.eng (32 * n + b)).sill ≠ bit v b → sillOk (s.setEng (32 * n + b) { s.eng (32 * n + b) with sill := bit v b }) = true →
         exec (.qfeSillWrite .A n v) s = .next (s.setEng (32 * n + b) { s.eng (32 * n + b) with sill := bit v b }))) ∧
     (Reached s .A → exec (.qfeTimeLimitWrite .A v) s = .next
       { s with qfe := { s.qfe with timeLimit := max 1000 (min 60000000 v) } }) ∧
     (∀ p, Reached s p → exec (.qfePollWrite p v) s = .next (s.modPort p fun x =>
       { x with pollMinNs := max 250 (v % 2 ^ 16),
                pollMaxUs := max ((max 250 (v % 2 ^ 16) + 999) / 1000) (min 10000 (v / 2 ^ 16 % 2 ^ 16)) }))) ∧
  (∀ (s : State) (p : Port) (v : Nat), Reached s p → isWord v = true →
     let f := fun (c : Stat) => ({ count := if v % 2 ^ 31 = 0 then 0 else c.count,
                                   saturated := c.saturated && !(v / 2 ^ 31 % 2 == 1) } : Stat)
     let gives := fun (off : Nat) (t : State) => exec (.statisticClear p off v) s = .next t
     gives 0x100018 (s.modPort p fun x => { x with shutter := f x.shutter }) ∧
     gives 0x300018 { s with pwr := { s.pwr with capLimited := f s.pwr.capLimited } } ∧
     gives 0x400010 (s.modHost p fun x => { x with ent := { x.ent with healthFail := f x.ent.healthFail } }) ∧
     gives 0x400014 (s.modHost p fun x => { x with ent := { x.ent with consumerErr := f x.ent.consumerErr } }) ∧
     gives 0x500020 { s with hbm := { s.hbm with corrected := f s.hbm.corrected } } ∧
     gives 0x500024 { s with hbm := { s.hbm with uncorrected := f s.hbm.uncorrected } } ∧
     gives 0x600014 { s with fls := { s.fls with uncorrectable := f s.fls.uncorrectable } } ∧
     gives 0x700048 { s with opx := { s.opx with slipCount := f s.opx.slipCount } } ∧
     gives 0x70004C { s with opx := { s.opx with repeatCount := f s.opx.repeatCount } } ∧
     gives 0x700050 { s with opx := { s.opx with violations := f s.opx.violations } } ∧
     gives 0x8000B0 (s.modPort p fun x => { x with violations := f x.violations }) ∧
     ∀ d, d < 64 → (s.die d).powered = true →
       gives (0x1000000 + d * 0x80000 + 0x14) (s.modDie d fun x => { x with meshStall := f x.meshStall }) ∧
       gives (0x1000000 + d * 0x80000 + 0x18) (s.modDie d fun x => { x with lossTop := f x.lossTop }) ∧
       (d < 48 → ∀ e, e < 16 →
         gives (0x1000000 + d * 0x80000 + 0x20000 + 64 * e) (s.modEng (16 * d + e) fun g => { g with batches := f g.batches }))) ∧
  (∀ (s : State) (p : Port) (v : Nat), Reached s p → s.flt.bootStep = 0 → isWord v = true →
     let gives := fun (q : Port) (off : Nat) (t : State) => exec (.registerWrite q false off v false) s = .next t
     gives p 0x100000 (s.modPort p fun x => { x with setup := { x.setup with addr := (x.setup.addr / 2 ^ 32 * 2 ^ 32 + v) / 128 * 128 } }) ∧
     gives p 0x100004 (s.modPort p fun x => { x with setup := { x.setup with addr := (v * 2 ^ 32 + x.setup.addr % 2 ^ 32) / 128 * 128 } }) ∧
     (v % 2 = 1 → s.flt.resetStep = 0 → (s.port p).setup.busy = false → gives p 0x100008
       { s.modPort p fun x => { x with setup := { x.setup with busy := true } } with
         qfe := { s.qfe with setupOrder := s.qfe.setupOrder ++ [p] } }) ∧
     (v % 2 = 1 → s.flt.resetStep = 0 → (s.port p).map.busy = false → gives p 0x500008
       { s.modPort p fun x => { x with map := { x.map with busy := true } } with
         hbm := { s.hbm with mapOrder := s.hbm.mapOrder ++ [p] } }) ∧
     (v % 2 = 1 → s.flt.resetStep = 0 → (s.port p).sec.busy = false → gives p 0x408018
       { s.modPort p fun x => { x with sec := { x.sec with busy := true } } with
         sec := { s.sec with secOrder := s.sec.secOrder ++ [p] } }) ∧
     (∀ k, k < 32 → gives p (0x200000 + 4 * k) (s.modPort p fun x => { x with hostEnable := tblSet 0 x.hostEnable k v })) ∧
     gives p 0x200100 (s.modPort p fun x => { x with hostVec := v % 2 ^ 11 }) ∧
     gives p 0x800044 (s.modPort p fun x => { x with dumpAddr := v * 2 ^ 32 + x.dumpAddr % 2 ^ 32 }) ∧
     gives p 0x800048 (s.modPort p fun x => { x with dumpEnable := v % 2 == 1 }) ∧
     gives p 0x800088 (s.modPort p fun x => { x with warnVec := v % 2 ^ 11 }) ∧
     (p = .A → gives p 0x700014 { s with opx := { s.opx with launchNs := v } }) ∧
     (p = .A → gives p 0x700018 { s with opx := { s.opx with holdoverLimit := v % 2 ^ 13 } }) ∧
     (∀ n, n < 1024 → ∃ t, exec (.registerWrite p true (0x1000000 + hostDieIdx p * 0x80000 + 0x50000 + 4 * n) v false) s =
       .next t ∧ (getSrc (t.host p) n).priority = v / 2 ^ 12 % 16 ∧ (getSrc (t.host p) n).core = v / 2 ^ 28 % 4 ∧
       (getSrc (t.host p) n).compat = (v / 2 ^ 31 % 2 == 1) ∧ t.host (otherPort p) = s.host (otherPort p)) ∧
     (∀ k, k < 32 → exec (.registerWrite p true (0x1000000 + hostDieIdx p * 0x80000 + 0x52000 + 4 * k) v false) s =
       .next (s.modHost p fun x => maskWord x k v true)))

/-- The power registers: the cap is clamped to 1500 to 4200 W and in force from the next period only; burst is enabled by
bit 0; a phase takes its priority and point and forgets what was learned (13 R402, R404, R406; 19 R519).
The problem area: port A sets its size, at most 768 GiB, while no problem exists and the pool has room; port B's write
changes nothing (11 R330).
The frame and cascade registers: port A sets period and open slot, clamped, while standalone with both banks empty; role,
member, members and slip lead while no cascade command is in flight (12 R354, R375). That OPX_CASCADE keeps members, slip lead
and role 3 as written, not clamped, is the model's reading (log entry 35). -/
def Obligations.PowerAreaAndOpticalRegistersAreClamped : Prop :=
  (∀ (s : State) (v : Nat), isWord v = true →
     (Reached s .A → exec (.pwrCapWrite .A v) s = .next
         { s with pwr := { s.pwr with capW := max 1500 (min 4200 (v % 2 ^ 13)) } } ∧
       exec (.pwrCtrlWrite .A v) s = .next { s with pwr := { s.pwr with
         burstEnable := v % 2 == 1, burstActive := s.pwr.burstActive && (v % 2 == 1) } }) ∧
     (Reached s .B → exec (.pwrCapWrite .B v) s = .next s ∧ exec (.pwrCtrlWrite .B v) s = .next s) ∧
     (∀ p n, Reached s p → n < 256 → ∃ t, exec (.pwrPhaseWrite p n v) s = .next t ∧
       tblGet {} (t.port p).phases n =
         { priority := v / 2 ^ 4 % 2 ^ 4, prefOp := if v % 2 ^ 3 = 6 then 7 else v % 2 ^ 3, learned := [] } ∧
       (∀ k, k ≠ n → tblGet {} (t.port p).phases k = tblGet {} (s.port p).phases k) ∧
       t = s.modPort p fun x => { x with phases := (t.port p).phases })) ∧
  (∀ (s : State) (v : Nat), isWord v = true →
     (Reached s .A → s.spin.problems = [] →
       min 768 (v % 1024) * 512 ≤ overStacks (fun n => if s.stackUp n then s.freePages n + s.problemShare n else 0) →
       ∃ t, exec (.memProblemAreaWrite .A v) s = .next t ∧
         t = { s with hbm := { s.hbm with problemGib := min 768 (v % 1024), problemPages := t.hbm.problemPages } }) ∧
     (Reached s .A → s.spin.problems ≠ [] → exec (.memProblemAreaWrite .A v) s = .next s) ∧
     (Reached s .B → exec (.memProblemAreaWrite .B v) s = .next s)) ∧
  (∀ (s : State) (v : Nat), isWord v = true → Reached s .A →
     (s.opx.role = 0 → s.opx.active.version = 0 → s.opx.pendingBank.version = 0 → exec (.opxFrameWrite .A v) s = .next
       { s with opx := { s.opx with periodNs := max 1000 (min 64000 (v / 2 ^ 16)), openCw := max 2 (min 16 (v / 2 ^ 8 % 2 ^ 5)) } }) ∧
     (s.opx.role ≠ 0 → exec (.opxFrameWrite .A v) s = .next s) ∧
     (cascadeCommands s = [] → exec (.opxCascadeWrite .A v) s = .next
       { s with opx := { s.opx with role := v / 2 ^ 30, member := if v / 2 ^ 30 = 1 then 0 else v / 2 ^ 24 % 2 ^ 6,
                                    members := v / 2 ^ 16 % 2 ^ 7, slipLead := v / 2 ^ 8 % 2 ^ 5 } }) ∧
     (cascadeCommands s ≠ [] → exec (.opxCascadeWrite .A v) s = .next s))

/-- A statistics counter raises its event on the increment that brings it to 0x7FFF_FFFF while its flag is 0, and sets the flag
then; at its top, or cleared with the flag left at 1, it raises nothing however often it counts; the write 0x8000_0000 clears
both, and counting from there raises exactly one event, on reaching the top (15 R458). -/
def Obligations.StatisticsCountersRaiseOnce : Prop :=
  ∀ c : Stat, c.count ≤ 0x7FFFFFFF →
    let up := fun (k : Stat × Nat) => ((statUp k.1 1).1, k.2 + bit01 (statUp k.1 1).2)
    (c.count + 1 = 0x7FFFFFFF → c.saturated = false → statUp c 1 = ({ count := 0x7FFFFFFF, saturated := true }, true)) ∧
    (c.count + 1 < 0x7FFFFFFF → statUp c 1 = ({ c with count := c.count + 1 }, false)) ∧
    (∀ n, c.count = 0x7FFFFFFF → up^[n] (c, 0) = (c, 0)) ∧
    (∀ n, c.saturated = true → statWrite c 0 = { count := 0, saturated := true } ∧ (up^[n] (statWrite c 0, 0)).2 = 0) ∧
    (∀ n, statWrite c 0x80000000 = { count := 0, saturated := false } ∧
      (up^[n] (statWrite c 0x80000000, 0)).2 = if n < 0x7FFFFFFF then 0 else 1)

/-- Stored graphs: a checked source makes a graph at version 1; a launch pins the current version; a ready node starts as a
command of its lane's queue and its end is noted; a patch waits for the graph in its turn
and makes the next version; a destroyed graph's
handle is stale (10 R301-R320). -/
def Obligations.GraphCommandsComplete : Prop :=
  ∀ (s : State) (c : Nat) (x : Cmd) (q : Queue) (i : Nat) (g : Graph),
    let d := x.desc
    let nodesOf := fun (g : Graph) => ((tblFind g.versions g.current).map (·.nodes)).getD []
    (∀ h nb es gen, Runnable s c 0x70 x q →
      readVa s q.port q.pasid (dField d 0x10 8) 64 = .ok h → needFields 0x5001 (sourceFields h) = .ok () →
      readVa s q.port q.pasid (fieldOf h 8 8) (64 * fieldOf h 0 4) = .ok nb →
      let n := fieldOf h 0 4
      let nodes := (numbered 0 n nb).map (·.2)
      let edges := es.map fun e => (bits e 0 16, bits e 16 16)
      checkNodes (fieldOf h 0x18 1) 0 nodes = .ok () →
      readArray32 s q (fieldOf h 0x10 8) (fieldOf h 4 4) = .ok es → checkEdges n 0 [] edges = .ok () →
      cycleLeft edges n (List.range n) = [] →
      newIndex 4096 (fun i => (tblFind s.grf.graphs i).isSome) s.grf.gens = some (i, gen) →
      s.graphUsed + chargeBase n (fieldOf h 4 4) + chargeVersion n 0 ≤ graphArea →
      exec (.graphCreate c) s = endsWell s ({ s with grf := { s.grf with gens := tblPut s.grf.gens i gen } }.setGraph i
        { gen := gen, port := q.port, pasid := q.pasid, lanes := fieldOf h 0x18 1, edges := edges,
          versions := [(1, { nodes := nodes, charged := chargeVersion n 0 })], current := 1,
          baseCharge := chargeBase n (fieldOf h 4 4) }) c (BitVec.ofNat 128 (mkHandle 4 gen i + n * 2 ^ 64 + 2 ^ 96))) ∧
    (needGraph s q (dField d 0x20 8) = .ok (i, g) →
      (∀ lanes, Runnable s c 0x71 x q → waitsAt s g c = false → g.lost = false →
        laneQueues s q d (nodesOf g) [1, 2, 3] = .ok lanes →
        exec (.graphLaunch c) s = runsOn s ((leaveElement s i c).setGraphLaunch c
          { queue := x.queue, graph := i, version := g.current, lanes := some x.queue :: lanes,
            recordsAddr := dField d 0x18 8, nodes := List.replicate (nodesOf g).length .waiting }) c) ∧
      (∀ h b, Runnable s c 0x72 x q → g.lost = false → readVa s q.port q.pasid (dField d 0x10 8) 8 = .ok h →
        fieldOf h 0 4 ≠ 0 → fieldOf h 0 4 ≤ (nodesOf g).length → fieldOf h 4 4 = 0 →
        readVa s q.port q.pasid (dField d 0x10 8 + 8) (72 * fieldOf h 0 4) = .ok b →
        checkList g (nodesOf g) (fieldOf h 0 4) b = .ok () →
        let v := { s with grf := { s.grf with patches := tblPut s.grf.patches c (patchEntries (fieldOf h 0 4) b) } }
        exec (.patch c) s = runsOn s (v.setGraph i (nextAtElement v { g with waiters := g.waiters ++ [c] })) c ∧
        (g.takenBy = none → g.waiters = [] →
          nextAtElement v { g with waiters := g.waiters ++ [c] } = { g with takenBy := some c })) ∧
      (Runnable s c 0x73 x q → waitsAt s g c = false →
        exec (.graphDestroy c) s = endsWell s (freeVersions (s.setGraph i { g with stale := true }) i) c
          (BitVec.ofNat 128 (g.versions.filter fun v => pinned s i v.1).length))) ∧
    (∀ es, CommandAt s c 0x72 [.running] x q → s.grf.graphs.find? (fun g => g.2.takenBy == some c) = some (i, g) →
      tblFind s.grf.patches c = some es → g.stale = false →
      (dField d 0x18 4 = 0 ∨ dField d 0x18 4 = g.current) → (pinned s i g.current = false ∨ g.versions.length < 16) →
      g.current ≠ 0xFFFFFFFF → s.graphUsed + chargeVersion (nodesOf g).length es.length ≤ graphArea →
      ∃ v r, exec (.patchCommit c) s = endsWell s (freeVersions (s.setGraph i
          { g with versions := tblPut g.versions (g.current + 1) v, current := g.current + 1 }) i) c r ∧
        v.nodes = es.foldl (fun l e => setNth l e.1 e.2) (nodesOf g) ∧ r.toNat % 2 ^ 32 = (g.current + 1) % 2 ^ 32) ∧
    (∀ l n k y, s.works = true → s.flt.resetStep = 0 → tblFind s.grf.launches c = some l → launchRuns s c = true →
      nodeReady s l n = true → tblFind s.grf.graphs l.graph = some g → g.lost = false → nodeQueue s l n = some k →
      (pinnedNodes s l)[n]? = some y → nodeAdmitted s l n = true → lowerFirst s l n = false → s.queue? k = some q →
      startCheck (withoutLane y) = .ok () →
      exec (.graphNodeStart c n) s = .next
        ({ s.setGraphLaunch c { l with nodes := setNth l.nodes n (.running s.qfe.nextCmd) } with
            qfe := { s.qfe with nextCmd := s.qfe.nextCmd + 1 } }.setCmd s.qfe.nextCmd
          { queue := k, seq := 0, node := some (c, n), desc := withoutLane y })) ∧
    (∀ l n f dt st r, s.works = true → tblFind s.grf.launches c = some l → s.cmd? c = some x → s.queue? x.queue = some q →
      launchRuns s c = true → l.record = none → nth .waiting l.nodes n = .finished f dt st r → l.recordsAddr = 0 →
      exec (.graphNodeComplete c n) s = nextKeeping s
        (endIfIdle (s.setGraphLaunch c { l with nodes := setNth l.nodes n (.completed f dt st r) }) c)) ∧
    (∀ l n f dt st r v, s.works = true → tblFind s.grf.launches c = some l → s.cmd? c = some x → s.queue? x.queue = some q →
      launchRuns s c = true → l.record = none → nth .waiting l.nodes n = .finished f dt st r → l.recordsAddr ≠ 0 →
      l.ownFault = none → writeVa s q.port q.pasid (l.recordsAddr + 32 * n) (nodeRecord s l n f dt st r) = .ok v →
      exec (.graphNodeComplete c n) s = nextKeeping s
        (endIfIdle (v.setGraphLaunch c { l with nodes := setNth l.nodes n (.completed f dt st r) }) c))

/-- An engine that stalls or fails is fenced. One that no queue uses and no task runs on is out of the map, louvre 0, its cause
kept, its slots and queue slots free, with 0x3060 in the log with cause and engine, and the fence bit of its die set; a queue that
has it beside its fetch engine, with no command or launch at work, keeps its other engines (16 R467, R468).
Engines in service again, and the known-answer sequences. A march gives each row that failed a good spare while there is one;
an engine it leaves no such row on, and whose sequence passes, is in the map with its louvre open (to 4/16 while the bank is low,
8/16 at the die's limit), another is logged with 0x3064, and a failed sequence with 0x3038 before it. At start-up the march comes first, then the sequence: passed, set P runs;
failed, the engine is fenced with 0x3038, and so after a test. The sets exchange roles once the draining one holds the known answer
and is clear (07 R211, R212; 08 R258, R259; 16 R469). -/
def Obligations.EnginesAreFencedAndReturned : Prop :=
  (∀ (s : State) (e cause : Nat) (readable : Bool), s.works = true → isEngine e = true → (s.eng e).usable = true →
     (s.eng e).task = none →
     (queuesOn s e = [] →
       let fenced := fun (t : State) (cause : Nat) =>
         t.eng e = { s.eng e with louvre := 0, usable := false, fenceCause := cause, queues := [],
                                  slots := [.free, .free, .free, .free], context := none, preempting := false } ∧
         (∃ l ∈ t.flt.entries, l.code = 0x3060 ∧ l.detail = cause * 2 ^ 16 + e ∧ l.die = engineDie e) ∧
         (t.die (engineDie e)).cause.getLsbD causeFence = true ∧ t.mem = s.mem
       (cause ∈ fenceCauses → ∃ t, exec (.engineFence e cause readable) s = .next t ∧ fenced t cause) ∧
       (∃ t, exec (.engineStall e readable) s = .next t ∧ fenced t 0x3062)) ∧
     (∀ i q, queuesOn s e = [i] → s.queue? i = some q → e ∈ q.engines → q.engines.head? ≠ some e → commandsOn s e = [] →
       (∀ l ∈ s.spin.launches, l.2.queue ≠ i) →
       let left := fun (t : State) =>
         (t.eng e).usable = false ∧ (t.queue? i).map (·.engines) = some (q.engines.filter (· != e))
       (cause ∈ fenceCauses → ∃ t, exec (.engineFence e cause readable) s = .next t ∧ left t) ∧
       (∃ t, exec (.engineStall e readable) s = .next t ∧ left t))) ∧
  (∀ (s : State) (e : Nat) (m : March), isEngine e = true →
     let u := fullMarch s e m
     let quiet := { s.eng e with setPRuns := true, draining := false }
     (Reached s .A → (s.eng e).usable = false → (s.eng e).fenceCause ≠ 0x3041 → (s.eng e).fenceCause ≠ 0x7040 →
       ((s.die (engineDie e)).powered = true → rowLeft u e m = false →
         ∃ t, exec (.engineReturn .A e m true) s = .next t ∧ t.mem = s.mem ∧ t.qfe = s.qfe ∧
           t.eng e = { quiet with usable := true, fenceCause := 0, louvre := louvreOpen s e, lastDoubleBit := none }) ∧
       exec (.engineReturn .A e m false) s = nextKeeping s (logOnEngine (logOnEngine u 0x3038 e e) 0x3064 e e)) ∧
     (s.works = true → slotsFree (s.eng e) = true → (s.eng e).usable = true →
       (s.qfe.queues = [] →
         (∀ passes, (u.eng e).usable = true →
           exec (.startUpSequence e m passes) s = nextKeeping s (endSequence u e passes)) ∧
         (m.rows = [] → exec (.startUpSequence e m true) s = .next ((s.setBank e { s.bank e with
           badSpares := m.spares, repairs := (s.bank e).repairs.filter fun x => !m.spares.contains x.2 }).setEng e quiet))) ∧
       exec (.testSequence e true) s = .next (s.setEng e quiet) ∧
       exec (.testSequence e false) s = nextKeeping s (fenceEngine (logOnEngine (s.setEng e quiet) 0x3038 e e) e 0x3038 true) ∧
       (∀ good, ((s.eng e).draining = true → good = true) →
         exec (.shadowSetExchange e good) s = .next (s.setEng e { s.eng e with setPRuns := !(s.eng e).setPRuns, draining := true })) ∧
       ((s.eng e).draining = true → exec (.shadowSetExchange e false) s = nextKeeping s (endSequence s e false))) ∧
     (∀ row n, freeSpare (s.bank e) = some n → ((repairRow e s row).bank e).repairs = tblPut (s.bank e).repairs row n ∧
       ∃ l ∈ (repairRow e s row).flt.entries, l.code = 0x3040))

/-- One request at a scratchpad where none waits is granted, whatever the background test does there: a read or an atomic returns
the old word or lane, a write or an atomic leaves the new word, every other word reads as before, though the test may move one to or
from its buffer. A master that may not reach a sealed word gets zero and writes nothing (08 R252-R257, R261).
The background test of a scratchpad: a pass starts at region 0, or behind the region under test; copy, march and restore follow
each other once the pointer is at 256, and not while a context is saved; a row that failed takes a spare; after a restore a region
that a double-bit error put ahead comes next, else the next of the pass, else the pass is over. Port A alone sets the
enable and the interval, where 0 counts as 1 (08 R256, R258, R259). -/
def Obligations.ScratchpadsServeAndTest : Prop :=
  (∀ (s : State) (b : Nat) (r : SpdReq), s.works = true → isBank b = true → r.wf = true → (b < 768 ∨ r.word < 16384) →
     (s.bank b).waiting = [] → (s.bank b).ports = [] →
     let old := spdGet (s.bank b) r.word
     (mayReach s b r = true → r.flips = 0 →
       ∃ t, exec (.scratchpadHandshake b [r]) s = .next t ∧
         t.sent = s.sent ++ ((spdAnswer old r.op).map (OutMsg.spdData b r.master)).toList ∧
         spdGet (t.bank b) r.word = (spdWrites old r.op).getD old ∧
         (∀ w, w ≠ r.word → spdGet (t.bank b) w = spdGet (s.bank b) w) ∧
         (t.bank b).waiting = [] ∧ (t.bank b).ports = [] ∧
         (∀ k, k ≠ b → t.bank k = s.bank k) ∧ t = { s with sent := t.sent, banks := t.banks }) ∧
     (mayReach s b r = false →
       ∃ t, exec (.scratchpadHandshake b [r]) s = .next t ∧ (∀ w, spdGet (t.bank b) w = spdGet (s.bank b) w) ∧
         (decodes r.op = true → OutMsg.spdData b r.master 0 ∈ t.sent) ∧ ∃ l ∈ t.flt.entries, l.code = 0x8030)) ∧
  (∀ (s : State) (b : Nat), s.works = true → isBank b = true →
     let x := s.bank b
     ((s.die (bankDie b)).testEnable = true → x.passRunning = false → (768 ≤ b ∨ (s.eng b).usable = true) →
       (x.phase = .idle → x.ahead = [] → exec (.backgroundPassStart b) s = .next (s.setBank b { x with
         passRunning := true, order := 1, phase := .copy, region := 0, pointer := 0, accesses := 0 })) ∧
       (x.phase = .idle → ∀ n rest, x.ahead = n :: rest → exec (.backgroundPassStart b) s = .next (s.setBank b { x with
         passRunning := true, order := 0, phase := .copy, region := n, ahead := rest, pointer := 0, accesses := 0 })) ∧
       (x.phase ≠ .idle → exec (.backgroundPassStart b) s = .next (s.setBank b { x with passRunning := true, order := 0 }))) ∧
     (256 ≤ x.pointer → (768 ≤ b ∨ (s.eng b).context = none) → ∀ rows,
       let next := fun (y : Bank) => (.next (s.setBank b { y with pointer := 0, accesses := 0 }) : Out)
       (x.phase = .copy → exec (.regionPhaseEnd b rows) s = next { x with phase := .march }) ∧
       (x.phase = .march → (∀ r ∈ rows, r / 256 ≠ x.region) →
         exec (.regionPhaseEnd b rows) s = next { x with phase := .restore }) ∧
       (x.phase = .march → ∀ r n, rows = [r] → r / 256 = x.region → freeSpare x = some n →
         ∃ t, exec (.regionPhaseEnd b rows) s = .next t ∧
           t.bank b = { x with phase := .restore, repairs := tblPut x.repairs r n, pointer := 0, accesses := 0 }) ∧
       (x.phase = .restore →
         (∀ n rest, x.ahead = n :: rest → exec (.regionPhaseEnd b rows) s =
           next { x with bufferOf := some x.region, phase := .copy, region := n, ahead := rest }) ∧
         (x.ahead = [] → x.passRunning = true → x.order < bankRegions b → exec (.regionPhaseEnd b rows) s =
           next { x with bufferOf := some x.region, phase := .copy, region := x.order, order := x.order + 1 }) ∧
         (x.ahead = [] → bankRegions b ≤ x.order → exec (.regionPhaseEnd b rows) s =
           next { x with bufferOf := some x.region, phase := .idle, passRunning := false }))) ∧
     (∀ d v, Reached s .A → isDie d = true → isWord v = true → (d < 48 ∨ 62 ≤ d) → (s.die d).powered = true →
       exec (.spdTestCtrlWrite .A d v) s = .next (s.setDie d { s.die d with
         testEnable := v / 2 ^ 31 % 2 == 1, testInterval := max 1 (v % 2 ^ 16) })) ∧
     ∀ d v, Reached s .B → isDie d = true → isWord v = true → exec (.spdTestCtrlWrite .B d v) s = .next s)

/-- A message source that fires: at each controller whose core is awake, a native source that does not coalesce counts one
more up to 0xFFFF, a compatibility source is pending. A wire edge does the same. Neither touches memory (15 R439-R444). -/
def Obligations.SourcesFireAtBothControllers : Prop :=
  ∀ (s : State) (n : Nat), n < 1024 → isSource n = true →
    let fires := fun (t : State) => ∀ h, (getCore (s.host h) (getSrc (s.host h) n).core).asleep = false →
      (getSrc (s.host h) n).coalesce = false →
      ((getSrc (s.host h) n).compat = false → (getSrc (t.host h) n).count = min 0xFFFF ((getSrc (s.host h) n).count + 1)) ∧
      ((getSrc (s.host h) n).compat = true → (getSrc (t.host h) n).pending = true)
    (isWireSource n = false → ∃ t, exec (.eventMessage n) s = .next t ∧ fires t ∧ t.mem = s.mem) ∧
    (∀ k, isWireSource n = true → (∀ h, (getSrc (s.host h) n).level = false ∧ (getSrc (s.host h) n).filtered = false ∧
        filterOf (getSrc (s.host h) n) ≤ k) →
      ∃ t, exec (.wireSourceChange n true k) s = .next t ∧ fires t ∧ t.mem = s.mem ∧
        ∀ h, (getSrc (t.host h) n).wire = true) ∧
    (∀ h c, isCore c = true → n = 0x240 + c → ∃ t, exec (.localTimerCompare h c) s = .next t ∧ fires t ∧ t.mem = s.mem)

/-- Claim and completion: a core that claims what is presented jumps to its vector and holds it active, a fast one in its fast
register bank; its completion ends that; the spurious number only ends the withdrawn presentation, a fast one first (15
R447-R450).
What is presented: of a core's sources that are pending, unmasked, inactive and not held back, a fast one before a normal one,
then the higher priority, then the lower number; none while a fast source is active, a normal one only while none is (15 R447).
Counts, masks and pending bits: a count read of a core, or through a port, returns the count and clears it, a 64-bit read two counts
at once; a compatibility source's reads 0; through a port it reads 0 where the module lets no read through, and all ones on a die
without power; a mask word masks or unmasks exactly the sources whose bit is set; a pending clear leaves them not pending; a
pending set fires them (00 R14; 15 R443-R445; 17 R491, R493). -/
def Obligations.CoresClaimAndControllersAnswer : Prop :=
  (∀ (h : HostDie) (c : Nat),
     let k := getCore h c
     let may := fun (e : Nat × Source) => e ∈ h.sources ∧ e.2.core = c ∧ srcPending e.1 e.2 = true ∧ e.2.masked = false ∧
       e.2.active = false ∧ ¬(e.2.held = true ∧ e.2.coalesce = true ∧ e.2.fast = false) ∧ k.claimedFast = 0x3FF ∧
       (e.2.fast = false → k.claimedNormal = 0x3FF)
     k.asleep = false → k.spuriousFast = false → k.spuriousNormal = false →
       (presented h c = none ↔ ∀ e, ¬may e) ∧
       ∀ n fast, presented h c = some (n, fast) → ∃ x, may (n, x) ∧ x.fast = fast ∧ ∀ g, may g →
         (g.2.fast = true → fast = true) ∧
         (g.2.fast = fast → g.2.priority ≤ x.priority ∧ (g.2.priority = x.priority → n ≤ g.1))) ∧
  (∀ (s : State) (h : Port) (c n : Nat), isCore c = true → n < 1024 →
     (∀ fast, presented (s.host h) c = some (n, fast) → n ≠ 0x3FF → ∃ t, exec (.eventClaim h c fast) s = .next t ∧
       (getCore (t.host h) c).pc = vectorOf (getCore (s.host h) c) fast n ∧
       (if fast then (getCore (t.host h) c).claimedFast else (getCore (t.host h) c).claimedNormal) = n ∧
       (getCore (t.host h) c).fastBank = (fast || (getCore (s.host h) c).fastBank) ∧
       getSrc (t.host h) n = { getSrc (s.host h) n with
         active := true, pending := if (getSrc (s.host h) n).compat then false else (getSrc (s.host h) n).pending } ∧
       t.host (otherPort h) = s.host (otherPort h)) ∧
     ((getCore (s.host h) c).claimedFast = n ∨ (getCore (s.host h) c).claimedNormal = n → n ≠ 0x3FF →
       ∃ t, exec (.eventComplete h c n) s = .next t ∧
         getSrc (t.host h) n = { getSrc (s.host h) n with active := false } ∧
         getCore (t.host h) c = dropClaim (getCore (s.host h) c) n ∧ t.host (otherPort h) = s.host (otherPort h)) ∧
     ((getCore (s.host h) c).spuriousFast = true → exec (.eventComplete h c 0x3FF) s = .next (s.modHost h fun x =>
       setCore x c { getCore x c with spuriousFast := false, fastBank := false })) ∧
     ((getCore (s.host h) c).spuriousFast = false → exec (.eventComplete h c 0x3FF) s = .next (s.modHost h fun x =>
       setCore x c { getCore x c with spuriousNormal := false }))) ∧
  (∀ (s : State) (h : Port) (k w : Nat), isWordOf32 k = true → isWord w = true →
     (∀ n r, n < 1024 → (s.die (hostDieIdx h)).powered = true →
       (r = none ∨ ∃ p, r = some p ∧ s.barReached p = true ∧ s.sec.bootFailed = false ∧ s.sec.lifecycle ≠ 0 ∧ s.sec.lifecycle ≠ 4) →
       ((getSrc (s.host h) n).compat = false → ∃ t, exec (.evcCountRead h n ⟨r, false⟩) s = .next t ∧
         t.reply = (getSrc (s.host h) n).count ∧ getSrc (t.host h) n = { getSrc (s.host h) n with count := 0 }) ∧
       ((getSrc (s.host h) n).compat = true → ∃ t, exec (.evcCountRead h n ⟨r, false⟩) s = .next t ∧
         t.reply = 0 ∧ getSrc (t.host h) n = getSrc (s.host h) n) ∧
       (n % 2 = 0 → ∃ t, exec (.evcCountRead h n ⟨r, true⟩) s = .next t ∧
         t.reply = countOf (getSrc (s.host h) n) + 2 ^ 32 * countOf (getSrc (s.host h) (n + 1)) ∧
         countOf (getSrc (t.host h) n) = 0 ∧ countOf (getSrc (t.host h) (n + 1)) = 0)) ∧
     (∀ n p, n < 1024 → s.barReached p = true →
       (s.sec.bootFailed = true ∨ s.sec.lifecycle = 0 ∨ s.sec.lifecycle = 4 →
         exec (.evcCountRead h n ⟨some p, false⟩) s = .next { s with reply := 0 }) ∧
       (s.sec.bootFailed = false → s.sec.lifecycle ≠ 0 → s.sec.lifecycle ≠ 4 → (s.die (hostDieIdx h)).powered = false →
         exec (.evcCountRead h n ⟨some p, false⟩) s = .next { s with reply := 0xFFFFFFFF })) ∧
     (∃ t, exec (.evcMaskSet h k w) s = .next t ∧ ∀ n, getSrc (t.host h) n =
       if n / 32 = k ∧ bit w (n % 32) = true then { getSrc (s.host h) n with masked := true } else getSrc (s.host h) n) ∧
     (∃ t, exec (.evcMaskClr h k w) s = .next t ∧ ∀ n, getSrc (t.host h) n =
       if n / 32 = k ∧ bit w (n % 32) = true then { getSrc (s.host h) n with masked := false } else getSrc (s.host h) n) ∧
     (∃ t, exec (.evcPendClr h k w) s = .next t ∧ ∀ n, n / 32 = k → bit w (n % 32) = true →
       ((getSrc (s.host h) n).compat = false → (getSrc (t.host h) n).count = 0) ∧
       ((getSrc (s.host h) n).compat = true → (getSrc (t.host h) n).pending = false)) ∧
     (∀ b, b < 32 → w = 2 ^ b → exec (.evcPendSet h k w) s = nextKeeping s (s.fire (32 * k + b))))

/-- Coalescing, sleep and causes: an interval that ends releases what is held; a core with nothing active sleeps, a latched
unmasked source wakes it; cause bits written with 1 clear, the others stay (15 R442, R451-R453).
MSI-X: triggers that wait go out as one message at the interval's end, or set the pending bit of a masked vector, whatever the
link; unmasking a pending vector sends its message, else only clears the mask (15 R455, R456). -/
def Obligations.CoalescingSleepCausesAndVectors : Prop :=
  (∀ (s : State) (h : Port) (c : Nat), isCore c = true →
     ((getCore (s.host h) c).coalInterval ≠ 0 → (∃ e ∈ (s.host h).sources, e.2.core = c ∧ e.2.held = true) →
        ∃ t, exec (.coalesceIntervalExpiry h c) s = .next t ∧
       t = s.modHost h (releaseHeld · c) ∧ (getCore (t.host h) c).coalFires = 0) ∧
     ((getCore (s.host h) c).claimedFast = 0x3FF → (getCore (s.host h) c).claimedNormal = 0x3FF →
        exec (.coreSleep h c) s = .next (s.modHost h fun x =>
       setCore x c { getCore x c with asleep := true })) ∧
     ((getCore (s.host h) c).asleep = true →
       (∃ e ∈ (s.host h).sources, e.2.core = c ∧ e.2.latch = true ∧ e.2.masked = false) →
       exec (.coreWake h c) s = .next (s.modHost h fun x =>
         applyLatches (setCore x c { getCore x c with asleep := false }) c)) ∧
     (∀ k w, isWordOf32 k = true → isWord w = true → Reached s h → ∃ t, exec (.evcHostCauseClear h k w) s = .next t ∧
       (∀ b, bit (tblGet 0 (t.port h).hostCause k) b = (bit (tblGet 0 (s.port h).hostCause k) b && !bit w b)) ∧
       (∀ j, j ≠ k → tblGet 0 (t.port h).hostCause j = tblGet 0 (s.port h).hostCause j) ∧
       t = s.modPort h fun x => { x with hostCause := (t.port h).hostCause }) ∧
     (∀ d w, isDie d = true → exec (.dieCauseClear d w) s = .next (s.setDie d { s.die d with
       cause := (s.die d).cause &&& ~~~(BitVec.ofNat 7 w) }))) ∧
  (∀ (s : State) (p : Port) (v : Nat), v < 2048 →
     let m := tblGet {} (s.port p).msix v
     let ready := (s.port p).msixEnable = true ∧ (s.port p).funcMask = false ∧ (s.port p).mayRequest = true
     (m.triggers ≠ 0 → m.masked = false → ready →
       ∃ t, exec (.msixCoalesceExpiry p v) s = .next t ∧ t.sent = s.sent ++ [.msix p v m.addr m.data] ∧
         tblGet {} (t.port p).msix v = { m with triggers := 0 }) ∧
     (m.triggers ≠ 0 → (s.port p).msixEnable = true → m.masked = true ∨ (s.port p).funcMask = true →
       ∃ t, exec (.msixCoalesceExpiry p v) s = .next t ∧ t.sent = s.sent ∧
         tblGet {} (t.port p).msix v = { m with triggers := 0, pending := true }) ∧
     (m.triggers ≠ 0 → (s.port p).msixEnable = false → ∃ t, exec (.msixCoalesceExpiry p v) s = .next t ∧
       t.sent = s.sent ∧ tblGet {} (t.port p).msix v = { m with triggers := 0 }) ∧
     (Reached s p → m.pending = true → ready → ∃ t, exec (.msixVectorUnmask p v) s = .next t ∧
       t.sent = s.sent ++ [.msix p v m.addr m.data] ∧
       tblGet {} (t.port p).msix v = { m with masked := false, pending := false, triggers := 0 }) ∧
     (Reached s p → m.pending = false → ∃ t, exec (.msixVectorUnmask p v) s = .next t ∧ t.sent = s.sent ∧
       tblGet {} (t.port p).msix v = { m with masked := false }))

/-- The PCIe partner: an answered read is outstanding no more; one without an answer withholds its tag and faults its command with
0x9205, and a completion for no read is answered with 0x9202; a tag is free again after its second; a port without posted credits
has its violation logged and holds what it would send; a write of the log's read index latches that entry (16 R464, R471, R484).
Links and power states of a port: a link that goes down, or whose PERST# asserts, is logged with 0x9210 and stops the port's queues;
the enables and configuration words are as a configuration write gives them; a port that may send again, its link up, out of D3hot
or with Bus Master Enable, sends the requests held in order, writes the records held, lets task ends go on, sends pending vectors
and ends a map request that waited; one that may not holds them (16 R472, 18 R502, R511). That D3hot stops the queues and logs no
0x9210, that a read of a killed command is dropped without a fault, and that a new link starts with credits is the model's reading
(log entry 40). -/
def Obligations.PciePortCommands : Prop :=
  (∀ (s : State) (p : Port) (tag : Nat),
     ((s.port p).linkUp = true →
       (∀ r, readOf s p tag = some r →
         exec (.pcieTlpReceived p (.completion tag false 0)) s = .next (s.modPort p (dropRead · tag))) ∧
       (readOf s p tag = none → exec (.pcieTlpReceived p (.completion tag false 0)) s = nextKeeping s
         (aerReport (pcieViolation (s.modPort p fun x => { x with withheld := x.withheld.filter (· != tag) }) p 0x9202) p 0x9202)) ∧
       (s.barReached p = true → exec (.pcieTlpReceived p .bar0Poisoned) s = nextKeeping s (pcieViolation s p 0x9204)) ∧
       (s.barReached p = false → exec (.pcieTlpReceived p .bar0Poisoned) s = .next (s.send (.unsupportedRequest p))) ∧
       exec (.pcieTlpReceived p .strayPrgResponse) s = nextKeeping s (pcieViolation s p 0x9209) ∧
       exec (.pcieTlpReceived p (.malformed none)) s = nextKeeping s (aerReport (pcieViolation s p 0x9201) p 0x9201)) ∧
     (∀ r, readOf s p tag = some r →
       (∀ x, r.killed = false → s.cmd? r.command = some x → exec (.pcieCompletionTimeout p tag) s =
         nextKeeping s (faultCmd (countViolation (s.modPort p fun o => { dropRead o tag with withheld := o.withheld ++ [tag] }) p)
           r.command 0x9205 (portIdx p))) ∧
       (r.killed = true → exec (.pcieCompletionTimeout p tag) s = .next (s.modPort p (dropRead · tag)))) ∧
     (∃ t, exec (.pcieTagWithholdExpiry p tag) s = .next t ∧ tag ∉ (t.port p).withheld ∧
       (∀ k, k ≠ tag → (k ∈ (t.port p).withheld ↔ k ∈ (s.port p).withheld))) ∧
     (s.works = true → ∃ t, exec (.postedCreditsWithheld p) s = .next t ∧
       (∃ l ∈ t.flt.entries, l.code = 0x920B ∧ l.detail = portIdx p) ∧ (t.port p).creditsWithheld = true ∧
       (t.port p).mayRequest = false ∧
       ∀ i q, s.qfe.queues = [(i, q)] → q.port = p → q.state = .ready →
         t.queue? i = some { q with state := .error, lastFault := 0x920B, faultSeq := q.fetched }) ∧
     (Reached s p → isWord tag = true → exec (.fltLogReadIdxWrite p tag) s = .next (s.modPort p fun x =>
       { x with logIdx := tag, logEntry := logEntryAt s tag }))) ∧
  (∀ (s : State) (p : Port), s.flt.bootStep = 0 →
     exec (.portLinkDown p) s = nextKeeping s (finishDue (stopQueues
       (logOnPort (s.modPort p fun x => { x with linkUp := false, heldRequests := [] }) 0x9210 p) p) p) ∧
     exec (.portLinkUp p) s = nextKeeping s
       (resumePort (s.modPort p fun x => { x with linkUp := true, creditsWithheld := false }) p) ∧
     ((s.port p).d3hot = false → exec (.d3hotTransition p) s = nextKeeping s
       (stopQueues (s.modPort p fun x => { x with d3hot := true }) p)) ∧
     exec (.d3hotExit p) s = nextKeeping s (resumePort (s.modPort p fun x => { x with d3hot := false }) p) ∧
     (∀ on m r e (x : MsixControl) words, (s.port p).linkUp = true →
       let now := s.modPort p fun y => { y with
         busMaster := on, memEnable := m, parityResponse := r, serrEnable := e, msixEnable := x.enable, funcMask := x.mask,
         config := words.foldl writeConfig y.config }
       exec (.busMasterEnableChange p on m r e x words) s = nextKeeping s (resumePort now p) ∧
       (on = false → exec (.busMasterEnableChange p on m r e x words) s = .next now) ∧
       (on = true → (s.port p).d3hot = false → (s.port p).creditsWithheld = false → (s.port p).msix = [] → queuesOf s p = [] →
         (∀ g ∈ s.engines, g.2.task = none) → s.hbm.job = none →
         exec (.busMasterEnableChange p on m r e x words) s = .next
           { now.modPort p (fun y => { y with heldRequests := [] }) with sent := s.sent ++ (s.port p).heldRequests })) ∧
     ((s.port p).mayRequest = false → resumePort s p = s) ∧
     ((s.port p).mayRequest = true → resumePort s p = finishDue (sendPending (resumeEnds (writeHeld
       { s.modPort p (fun y => { y with heldRequests := [] }) with sent := s.sent ++ (s.port p).heldRequests } p) p) p) p) ∧
     ((∀ g ∈ s.engines, g.2.task = none) → ∀ u : State, u.engines = s.engines → resumeEnds u p = u) ∧
     (∀ i q, s.qfe.queues = [(i, q)] → q.port = p → q.state = .ready → commandsOf s i = [] →
       ((stopQueues s p).queue? i).map (fun k => (k.state, k.silent, k.held, k.lastFault)) = some (.error, true, [], 0x9210)))

/-- A module reset: a request warns both ports for 2 ms and fails what has not begun; the other port's ack, or the end of the
grace, kills the commands, whose host reads are answered to nobody; then every die is reset (16 R477-R480). A lost host die is fatal
with 0xF002 and stops the module; power-on raises the input and awaits boot, a stack that fails training is absent, one that was
absent and trains is not, a tamper record whose MAC fails counts 0xFFFF; an input collapse ends every command; the bus hold-off
follows its pin (11 R329; 14 R435; 16 R473; 18 R505, R510). That a reset keeps time, management status and erase blocks, and that
its step 1 ends at once, is the model's reading (log entry 40). -/
def Obligations.ResetsAndFatalStops : Prop :=
  (∀ (s : State) (p : Port),
     let warned := fun (t : State) (who : Nat) => t.flt.resetStep = 2 ∧ t.flt.requester = who ∧ t.flt.acks = [] ∧
       ∀ o, (t.port o).warning = true ∧ (t.port o).requester = who ∧ (t.port o).graceEnd = s.time + 2000000
     let killed := fun (t : State) => t.flt.resetStep = 3 ∧ t.cmds = [] ∧ t.jobs = [] ∧ t.grf.launches = [] ∧
       t.spin.launches = [] ∧ ∀ o, (t.port o).warning = false ∧ (t.port o).graceEnd = 0 ∧
         ∀ r ∈ (t.port o).reads, r.killed = true
     (s.flt.resetStep = 0 → resetReached s p = true →
       ∃ t, exec (.moduleResetRequest p 0x7E5E) s = .next t ∧ warned t (portIdx p)) ∧
     (0 < s.pwr.inputMv → s.mgmt.powerGood = true →
       (s.flt.resetStep = 0 ∧ s.flt.bootStep = 0) ∨ (s.flt.stopped = true ∧ 4 ≤ s.flt.resetStep) →
       ∃ t, exec (.mfrModuleReset 0x7E5E) s = .next t ∧ warned t 2) ∧
     (s.flt.resetStep = 2 → s.flt.requester = portIdx (otherPort p) → resetReached s p = true →
       ∃ t, exec (.resetAck p) s = .next t ∧ killed t) ∧
     (s.flt.resetStep = 2 → ∃ t, exec .resetGraceExpiry s = .next t ∧ killed t) ∧
     (s.flt.resetStep = 3 → ∃ t, exec .resetDies s = .next t ∧ t.flt.resetStep = 4 ∧ t.flt.bootStep = 1 ∧ t.qfe = {} ∧
       t.cmds = [] ∧ t.jobs = [] ∧ t.arrays = [] ∧ t.grf = {} ∧ t.spin = {} ∧ t.banks = [] ∧ t.hostA = { keys := none } ∧
       t.hostB = { keys := none } ∧
       t.flt.entries = [] ∧ t.fls.eraseBlocks = s.fls.eraseBlocks ∧ t.mgmt = s.mgmt ∧ t.time = s.time)) ∧
  (∀ (s : State) (p : Port),
     (s.works = true → ∃ t, exec (.hostDieLost p) s = .next t ∧ t.flt.stopped = true ∧ t.flt.code = 0xF002 ∧
       t.flt.detail = hostDieIdx p ∧ t.flt.fatalTime = s.time ∧ t.cmds = [] ∧ t.flt.peerLost = true) ∧
     (∀ (found : Option TamperRecord) absent a b, s.mgmt.powerGood = false → (∀ n ∈ absent, isStack n = true) →
       ∃ t, exec (.powerOn true found false absent a b) s = .next t ∧ t.mgmt.powerGood = true ∧
         53000 ≤ t.pwr.inputMv ∧ 52000 ≤ t.pwr.bankMv ∧ t.flt.bootStep = 1 ∧ t.flt.stopped = false ∧ t.qfe = {} ∧ t.cmds = [] ∧
         (∀ n ∈ absent, (t.stack n).state = .absent) ∧ (∀ n, n < 24 → n ∉ absent → (t.stack n).state ≠ .absent) ∧
         ∀ mac, s.sec.tamperMac = some mac → hasIdentity s = true →
           (found = none → mac = tamperMacOf s s.sec.tamperCount s.sec.tamperInputs → t.sec.tamperCount = s.sec.tamperCount) ∧
           (∀ r, found = some r → r.mac ≠ tamperMacOf s r.count r.inputs → t.sec.tamperCount = 0xFFFF)) ∧
     (s.mgmt.powerGood = true → ∃ t, exec .inputCollapse s = .next t ∧ t.mgmt.powerGood = false ∧ t.cmds = [] ∧
       t.pwr.inputMv ≤ 39999 ∧ t.flt.bootStep = 1 ∧ t.flt.dumpNumber = s.flt.dumpNumber ∧ ∀ o, (t.port o).linkUp = false) ∧
     (∀ high, exec (.spiHoldoffChange high) s = .next { s with mgmt := { s.mgmt with holdoffHigh := high } }))

/-- PMBus reads and writes while the input is on, whatever runs behind it; with the input off no command is taken (18 R507-R509; the
STATUS bit places are PMBus's, and the input counts as off at 0 mV, log entry 42). -/
def Obligations.PmbusCommandsAnswer : Prop :=
  ∀ s : State, (s.pwr.inputMv = 0 → exec .statusWord s = .next s ∧ exec .clearFaults s = .next s) ∧ (0 < s.pwr.inputMv →
    let reads := fun (i : Instr) (v : Nat) => exec i s = .next { s with reply := v }
    let good := s.mgmt.powerGood && !s.mgmt.busFailed && (List.range 64).all fun d => (s.die d).powered
    reads .statusWord (2 ^ 13 * bit01 (s.mgmt.vinOv || s.mgmt.ovWarning) + 2 ^ 11 * bit01 (!good) +
      2 ^ 6 * bit01 (!s.mgmt.powerGood) + 2 ^ 3 * bit01 (s.mgmt.vinUv || s.mgmt.uvWarning) +
      2 ^ 2 * bit01 (s.mgmt.otFault || s.mgmt.otWarning)) ∧
    reads .statusInput (128 * bit01 s.mgmt.vinOv + 64 * bit01 s.mgmt.ovWarning + 32 * bit01 s.mgmt.uvWarning +
      16 * bit01 s.mgmt.vinUv) ∧
    reads .statusTemperature (128 * bit01 s.mgmt.otFault + 64 * bit01 s.mgmt.otWarning) ∧
    reads .readVin (linear11 s.pwr.inputMv) ∧
    reads .readIin (linear11 (s.pwr.inputW * 1000000 / max 1 s.pwr.inputMv)) ∧
    reads .readTemperature1 (hottestDie s) ∧
    reads .readTemperature2 (((List.range 24).map fun n => (s.stack n).tempC).foldl max 0) ∧
    reads .readPin s.pwr.inputW ∧
    reads .mfrId (blockOf (textBytes "TOLAUX")) ∧
    reads .mfrModel (blockOf (textBytes "TLX-VM64-A1")) ∧
    reads .mfrSerial (blockOf (exactly 16 Config.serial)) ∧
    reads .mfrLifecycle (readSec s .A 0 / 2 ^ 16) ∧
    (∀ k, k < 256 → reads (.smbalertMask k none) (tblGet 0 s.mgmt.alertMask k)) ∧
    (∀ k v, k < 256 → v < 256 → exec (.smbalertMask k (some v)) s = .next
      { s with mgmt := { s.mgmt with alertMask := tblSet 0 s.mgmt.alertMask k v } }) ∧
    exec .clearFaults s = .next { s with mgmt := { s.mgmt with
      vinUv := false, vinOv := false, uvWarning := false, ovWarning := false, otWarning := false, otFault := false } })

/-- The fast loop of a compute die: it takes over the measured power and the bank's voltage, records the droop, marks the die over
budget unless a burst is on, closes louvres only when over, and opens them only when not; of another die it records the droop (13
R396, R400-R402, R407).
A collective held for its time marks its die hold with an urgent request; an urgent allocation clears the requests; a cap
period brings the cap register in force, accounts the input, takes each die's phase from its tile work, whose count starts
again, and allocates; a ramp puts its point in force; the standby controller takes over (13 R395, R403-R407).
The allocation: no point above the one asked for, dies lowered by priority, a die not marked hold before one that is, the higher need
before the lower, the lower number first, and no further than the allowance needs; every point at OP0 and budgets in proportion where
the needs still exceed it, else each need and an equal share of the rest (13 R405). -/
def Obligations.PowerControllersAct : Prop :=
  (∀ (s : State) (m : PowerSample),
     let r := allocate s m
     let dies := (List.range 48).filter fun d => (s.die d).powered
     let allow := s.pwr.capInForceW * 1000 - m.fixedW * 1050
     let op := fun d => (r.1.die d).rampTo.getD (s.die d).op
     let need := fun d => needMw s m d (op d)
     let total := (dies.map need).sum
     let order := fun (d k : Nat) => diePriority s d < diePriority s k ∨ (diePriority s d = diePriority s k ∧
       bit01 (s.die d).hold ≤ bit01 (s.die k).hold)
     (∀ d ∈ dies, op d ≤ wantedOp s d ∧ (allow < total → op d = 0) ∧ (r.1.die d).op = (s.die d).op ∧
       (r.1.die d).budgetCw = min 0xFFFF
         ((if allow < total then need d * allow / total else need d + (allow - total) / 48) / 10)) ∧
     (∀ d ∈ dies, ∀ k ∈ dies, op d < wantedOp s d → 0 < op k → order d k) ∧
     ((∃ d ∈ dies, op d < wantedOp s d) → ∃ d ∈ dies, op d < wantedOp s d ∧
       allow + need d < total + needMw s m d (op d + 1)) ∧
     (r.2 = true ↔ (∃ d ∈ dies, op d < wantedOp s d) ∨ allow < total) ∧
     (∀ x ∈ dies, 0 < wantedOp s x →
       let first := fun d => needMw s m d (wantedOp s d)
       let sum := (dies.map first).sum
       allow < sum → sum + needMw s m x (wantedOp s x - 1) ≤ allow + first x →
       (∀ y ∈ dies, y ≠ x → 0 < wantedOp s y → order x y ∧ (order y x → first y ≤ first x ∧ (first y = first x → x < y))) →
       ∀ d ∈ dies, op d = if d = x then wantedOp s x - 1 else wantedOp s d) ∧
     (∀ d, d ∉ dies → r.1.die d = s.die d) ∧ r.1 = { s with dies := r.1.dies }) ∧
  (∀ (s : State) (d mean bankMv droop : Nat), s.works = true →
     let burst := s.pwr.burstEnable && decide (s.pwr.inputMv < bankMv + 4000)
     let isOver := !burst && decide ((s.die d).budgetCw < mean)
     let seen := max (s.die d).droopMv (min 0xFF droop)
     (48 ≤ d → d < 64 → exec (.fastLoop d mean bankMv droop) s = .next (s.setDie d { s.die d with droopMv := seen })) ∧
     (d < 48 → (s.die d).powered = true →
       ∃ t, exec (.fastLoop d mean bankMv droop) s = .next t ∧ (t.die d).powerCw = min 0xFFFF mean ∧
       (t.die d).droopMv = seen ∧ (t.die d).overBudget = isOver ∧ t.pwr.bankMv = bankMv ∧ t.pwr.burstActive = burst ∧
       (isOver = true → ∀ e, (t.eng e).louvre ≤ (s.eng e).louvre) ∧
       (isOver = false → ∀ e, (s.eng e).louvre ≤ (t.eng e).louvre) ∧ t.mem = s.mem ∧ t.qfe = s.qfe)) ∧
  (∀ (s : State) (d : Nat) (m : PowerSample), s.works = true →
     (d < 48 → (s.die d).overBudget = true → (∃ e ∈ louvred s d, collectiveEngine s e = true) →
       (∀ e ∈ louvred s d, collectiveEngine s e = false → (s.eng e).louvre = 0) →
       ∃ t, exec (.collectiveHoldTimeout d) s = .next t ∧ (t.die d).hold = true ∧ (t.die d).urgent = true ∧
         ∀ e, (t.eng e).louvre ≤ (s.eng e).louvre) ∧
     (∃ t, exec (.capControllerPeriod m) s = .next t ∧ t.pwr.capInForceW = s.pwr.capW ∧ t.pwr.inputW = m.inputW ∧
       t.pwr.energyMj = (s.pwr.energyMj + m.inputW) % 2 ^ 64 ∧
       (t.pwr.history.head?.map fun h => (h.1, h.2.1, h.2.2.1)) = some (m.inputW, s.pwr.capW, t.pwr.capLimiting) ∧
       t.pwr.history.length ≤ 1024 ∧
       (let u := (List.range 48).foldl closePeriod ((List.range 48).foldl (learnPhase m) s)
        let r := allocate { u with pwr := { u.pwr with
          capInForceW := s.pwr.capW, inputW := m.inputW, energyMj := (s.pwr.energyMj + m.inputW) % 2 ^ 64 } } m
        t.dies = r.1.dies ∧ t.pwr.capLimiting = r.2) ∧
       ∀ k, k < 48 → (t.die k).phase = topPhase (s.die k).handshakes ∧
         (t.die k).active = (s.die k).workers.length ∧ (t.die k).handshakes = [] ∧ (t.die k).workers = []) ∧
     ((∃ k, k < 48 ∧ (s.die k).urgent = true) →
       ∃ t, exec (.urgentAllocation m) s = .next t ∧ ∀ k, k < 48 →
         t.die k = { (allocate s m).1.die k with urgent := false }) ∧
     (∀ k, isDie k = true → exec (.railRampComplete k) s = .next (s.setDie k { s.die k with
       op := ((s.die k).rampTo).getD (s.die k).op, rampTo := none,
       steady := (s.die k).steady && (s.die k).rampTo.isNone })) ∧
     exec .controllerTakeover s = .next { s with pwr := { s.pwr with controllerH1 := true } })

/-- Margins follow the droop monitor by at most 5 mV and stay from 15 to 60 mV; a droop to nominal raises the margin and is
logged with 0x7011; a die is short at OP5 when 0.82 V plus its margin exceed 0.85 V, and a change of that in some compute die raises an
event (13 R396-R398, R410).
Input, bank, temperatures and conversion: a low bank closes every louvre to 4/16 and is logged; an input or a temperature
within its limits is taken over; an input excursion is logged once with 0x7001 or 0x7002; a warm die is logged with 0x7020, from 100 °C
on with 0x7021, its louvres at most 8/16; a warm stack is marked, from 92 °C on logged with 0x7022; beyond the limits the module
stops with the fatal code, below 40 V at once and without a dump; a die whose point of load fails has no power, a compute die's
engines are fenced; a change of more than 10 °C ends an optical die's calibration. All this holds of any powered module that no
fatal error has stopped (12 R358; 13 R391, R392, R408, R409; 18 R505, R518). -/
def Obligations.MarginsAndLimitsAreKept : Prop :=
  (∀ (s : State) (d ageing : Nat), s.works = true → isDie d = true →
     (∃ t, exec (.marginTrim d ageing) s = .next t ∧
       (t.die d).marginMv = max ((s.die d).marginMv - 5) (min ((s.die d).marginMv + 5)
         (max 15 (min 60 (((s.die d).droopMv + 5 + 4) / 5 * 5 + ageing)))) ∧
       (t.die d).droopMv = 0 ∧ (t.die d).ageingMv = min 0xFF ageing ∧ t.mem = s.mem ∧ t.engines = s.engines) ∧
     (∃ t, exec (.droopToNominal d) s = .next t ∧ (t.die d).marginMv = min 60 ((s.die d).marginMv + 5) ∧
       (t.die d).droopMv = max (s.die d).droopMv (s.die d).marginMv ∧
       (∃ l ∈ t.flt.entries, l.code = 0x7011 ∧ l.detail = d ∧ l.die = d) ∧ t.mem = s.mem ∧ t.engines = s.engines) ∧
     (∀ k, k < 48 → (s.die k).powered = true → (s.die k).marginMv < 256 → (s.die k).droopMv < 256 → (s.die k).ageingMv < 256 →
       (readDie s k 0x40008 / 2 ^ 31 = 1 ↔ 850 < 820 + (s.die k).marginMv)) ∧
     ((∀ k, k < 48 → k ≠ d → (s.die k).marginMv ≤ 30) → d < 48 → 25 < (s.die d).marginMv → (s.die d).marginMv ≤ 30 →
       exec (.droopToNominal d) s = nextKeeping s (((logOnDie
           (s.modDie d fun x => { x with droopMv := max x.droopMv x.marginMv }) 0x7011 d d).modDie d
         (fun x => { x with marginMv := (s.die d).marginMv + 5 })).fire 0x043)) ∧
     (exec .holdUpBankRecovered s = nextKeeping s
       (if s.pwr.bankLow then { s with pwr := { s.pwr with bankLow := false } }.fire 0x043 else s)) ∧
     (s.pwr.bankLow = false → ∃ t, exec .holdUpBankLow s = .next t ∧ t.pwr.bankLow = true ∧
       (∀ e, e < 768 → (t.eng e).louvre = min 4 (s.eng e).louvre) ∧ ∃ l ∈ t.flt.entries, l.code = 0x7010)) ∧
  (∀ (s : State) (n mv : Nat), s.mgmt.powerGood = true → s.flt.stopped = false →
     let stops := fun (i : Instr) (code : Nat) => ∃ t, exec i s = .next t ∧ t.flt.stopped = true ∧ t.flt.code = code ∧ t.cmds = []
     (54000 ≤ mv → mv ≤ 62000 → exec (.inputVoltageChange mv) s = .next
       { s with pwr := { s.pwr with inputMv := mv, uvExcursion := false, ovExcursion := false } }) ∧
     (50000 ≤ mv → mv < 54000 → ∃ t, exec (.inputVoltageChange mv) s = .next t ∧ t.pwr.inputMv = mv ∧
       t.pwr.uvExcursion = true ∧ t.mgmt.uvWarning = true ∧
       (s.pwr.uvExcursion = false → ∃ l ∈ t.flt.entries, l.code = 0x7001)) ∧
     (62000 < mv → mv ≤ 64000 → ∃ t, exec (.inputVoltageChange mv) s = .next t ∧ t.pwr.inputMv = mv ∧
       t.pwr.ovExcursion = true ∧ t.mgmt.ovWarning = true ∧ t.flt.stopped = false ∧
       (s.pwr.ovExcursion = false → ∃ l ∈ t.flt.entries, l.code = 0x7002)) ∧
     ((40000 ≤ mv ∧ mv < 50000) ∨ 64000 < mv → stops (.inputVoltageChange mv) 0xF702) ∧
     (mv < 40000 → ∃ t, exec (.inputVoltageChange mv) s = .next t ∧ t.mgmt.powerGood = false ∧ t.flt.stopped = false ∧
       t.cmds = [] ∧ t.flt.dumpNumber = s.flt.dumpNumber ∧ t.flt.mirror = 0) ∧
     (62000 < s.pwr.inputMv → stops .overvoltageTimeout 0xF702) ∧
     (isDie n = true → (n < 56 ∨ 62 ≤ n) → mv < 95 → (s.die n).thermal = {} → exec (.thermalChange false n mv) s = .next
       (s.setDie n { s.die n with tempC := mv, thermal := {} })) ∧
     (isDie n = true → 95 ≤ mv → mv < 110 → (s.die n).thermal = {} →
       ∃ t, exec (.thermalChange false n mv) s = .next t ∧ (t.die n).tempC = mv ∧ t.flt.stopped = false ∧
         (t.die n).thermal = { warned := true, capped := decide (100 ≤ mv) } ∧ t.mgmt.otWarning = true ∧
         (∃ l ∈ t.flt.entries, l.code = 0x7020 ∧ l.detail = n ∧ l.die = n) ∧
         (100 ≤ mv → t.mgmt.otFault = true ∧ ∃ l ∈ t.flt.entries, l.code = 0x7021 ∧ l.detail = n ∧ l.die = n) ∧
         ∀ e, (t.eng e).louvre =
           if 100 ≤ mv ∧ n < 48 ∧ engineDie e = n then min 8 (s.eng e).louvre else (s.eng e).louvre) ∧
     (∀ c, 56 ≤ n → n < 62 → mv < 95 → (s.die n).thermal = {} → tblFind s.opx.calTempC (n - 56) = some c →
       ∃ t, exec (.thermalChange false n mv) s = .next t ∧ (t.die n).tempC = mv ∧ t.opx.calibrated =
         if c + 10 < mv ∨ mv + 10 < c then s.opx.calibrated.filter (· != n - 56) else s.opx.calibrated) ∧
     (isStack n = true → mv ≤ 85 → (s.stack n).thermal = {} → exec (.thermalChange true n mv) s = .next
       (s.setStack n { s.stack n with tempC := mv, thermal := {} })) ∧
     (isStack n = true → 85 < mv → mv < 100 → (s.stack n).thermal = {} →
       ∃ t, exec (.thermalChange true n mv) s = .next t ∧ t.flt.stopped = false ∧
         t.stack n = { s.stack n with tempC := mv, thermal := { warned := true, capped := decide (92 ≤ mv) } } ∧
         (92 ≤ mv → ∃ l ∈ t.flt.entries, l.code = 0x7022 ∧ l.detail = n)) ∧
     (isDie n = true → 110 ≤ mv → stops (.thermalChange false n mv) 0xF701) ∧
     (isStack n = true → 100 ≤ mv → stops (.thermalChange true n mv) 0xF701) ∧
     (isDie n = true → 105 ≤ (s.die n).tempC → stops (.thermalTripTimeout n) 0xF701) ∧
     (48 ≤ n → n < 64 → (s.die n).powered = true → ∃ t, exec (.pointOfLoadFailure (.pointOfLoad n)) s = .next t ∧
       (t.die n).powered = false ∧ ∃ l ∈ t.flt.entries, l.code = 0x7040 ∧ l.detail = n ∧ l.die = n) ∧
     (n < 48 → (s.die n).powered = true → ∃ t, exec (.pointOfLoadFailure (.pointOfLoad n)) s = .next t ∧
       (t.die n).powered = false ∧ (∀ i, i < 16 → (t.eng (16 * n + i)).usable = false ∧
         ((s.eng (16 * n + i)).usable = true →
           (t.eng (16 * n + i)).fenceCause = 0x7040 ∧ (t.eng (16 * n + i)).louvre = 0)) ∧
       exec (.pointOfLoadFailure (.pointOfLoad n)) s = nextKeeping s ((List.range 16).foldl
         (fun u i => fenceEngine u (16 * n + i) 0x7040 false) (logOnDie (s.setDie n { s.die n with
           powered := false, rampTo := none, hold := false, urgent := false }) 0x7040 n n))) ∧
     stops (.pointOfLoadFailure .sixVoltBus) 0xF703 ∧ stops (.pointOfLoadFailure .phaseGroup) 0xF703)

/-- The entropy sources: both health tests run on every 1024 samples, those of the start-up test, too, where a run of 41 equal samples or
793 of the first sample's value in a window fail; passed, a start begins conditioning, and a block makes a conditioned source ready;
a failure, of a window or by itself, zeroes the generator, counts, is logged, and restarts it, the third in a row for good; a read of a
function that answers takes 32 bits or returns a status, and reads zero where the module lets no read through; the oldest waiting
request of a stalled source gets an error (14 R413-R423; 17 R493; 18 R502). That the windows follow each other from the start-up test
on is the model's reading (log entry 37). A grant draws 64 bytes from the generator for the
request of highest priority: a launch's run seed is the first 8 of them (14 R417, R418). -/
def Obligations.EntropySourcesAndGrants : Prop :=
  (∀ (s : State) (h : Port),
     let x := s.ent h
     (∀ b : Vector Byte 128, s.mgmt.powerGood = true →
       (x.conditioning = false → x.state = .starting ∨ x.state = .restarting →
         let w := sourceHealth { x with lastSample := none, sampleRun := 0 } b
         (w.failed = none → exec (.sourceStart h b) s = .next (s.setEnt h { x with
           conditioning := true, lastSample := w.last, sampleRun := w.run })) ∧
         (∀ f, w.failed = some f → exec (.sourceStart h b) s = exec (.healthTestFailure h f true) s)) ∧
       (x.conditioning = true → x.state ≠ .permanentFault →
         let w := sourceHealth x b
         (w.failed = none → ∃ t, exec (.entropyBlockReady h b) s = .next t ∧
           t.ent h = { takeBlock { x with lastSample := w.last, sampleRun := w.run } h (sha3 b.toList) with state := .ready } ∧
           t.ent (otherPort h) = s.ent (otherPort h)) ∧
         (∀ f, w.failed = some f → exec (.entropyBlockReady h b) s = exec (.healthTestFailure h f false) s))) ∧
     (∀ b : Vector Byte 128,
       let l := samplesOf b.toList
       ((sourceHealth x b).failed ≠ none ↔
         793 ≤ l.count (nth false l 0) ∨ (∃ i, i + 41 ≤ 1024 ∧ ∀ j, j < 41 → l[i + j]? = l[i]?) ∨
         (∃ v i, x.lastSample = some v ∧ 0 < i ∧ i ≤ 1024 ∧ (∀ j, j < i → l[j]? = some v) ∧ 41 ≤ x.sampleRun + i))) ∧
     (∀ a b, s.mgmt.powerGood = true → x.state ≠ .permanentFault → x.waiting = [] →
       ∃ t, exec (.healthTestFailure h a b) s = .next t ∧
         (t.ent h).state = (if 3 ≤ x.failures + 1 then .permanentFault else .restarting) ∧
         (t.ent h).failures = x.failures + 1 ∧ (t.ent h).instantiated = false ∧ (t.ent h).drbg = [] ∧
         (t.ent h).conditioning = false ∧
         ∃ l ∈ t.flt.entries, l.code = 0x8E11 ∧ l.detail = (if a then 2 else 1) + 256 * bit01 b) ∧
     (x.state ≠ .permanentFault → x.conditioning = true → exec (.failureCountDecay h) s = .next (s.setEnt h { x with failures := 0 })) ∧
     (s.barReached h = true → s.sec.bootFailed = false → s.sec.lifecycle ≠ 0 → s.sec.lifecycle ≠ 4 →
       (rngStatus x = 0 → canServe x = true → x.waiting = [] → x.softBits ≠ [] →
         exec (.entRngRead h true true) s = .next
           { s.setEnt h { x with softBits := x.softBits.drop 4 } with reply := leNat (x.softBits.take 4) * 2 ^ 32 }) ∧
       (rngStatus x = 0 → canServe x = true → x.waiting = [] → x.softBits = [] →
         ∃ t, exec (.entRngRead h true true) s = .next t ∧ (t.ent h).softBits = (generate x).1.drop 4 ∧
           t.reply = leNat ((generate x).1.take 4) * 2 ^ 32) ∧
       (rngStatus x ≠ 0 → exec (.entRngRead h true true) s = .next { s with reply := rngStatus x * 2 ^ 30 })) ∧
     (s.barReached h = true → s.sec.bootFailed = true ∨ s.sec.lifecycle = 0 ∨ s.sec.lifecycle = 4 →
       exec (.entRngRead h true true) s = .next { s with reply := 0 }) ∧
     ((s.port h).linkUp = true → s.barReached h = false →
       exec (.entRngRead h true true) s = .next (s.send (.unsupportedRequest h))) ∧
     (∀ p rest, x.waiting = .keyBlock p :: rest → (∀ r ∈ rest, requestStands s r = true) → x.state = .restarting →
       x.begun = true → s.flt.stopped = false → exec (.entropyStallTimeout h) s = nextKeeping s
         (secDone (consumerError (takeRequest (s.setEnt h { x with waiting := x.waiting }) h (.keyBlock p)) h) p 0x8E02))) ∧
  (∀ (s : State) (h : Port) (l : Nat) (r : Launch), (s.ent h).waiting = [.runSeed l] → tblFind s.spin.launches l = some r →
     canServe (s.ent h) = true → s.flt.stopped = false →
     ∃ t, exec (.generatorGrant h) s = .next t ∧ (t.ent h).waiting = [] ∧
       (tblFind t.spin.launches l).map (·.seedSent) =
         some (some (BitVec.ofNat 64 (leNat ((drbgOutput (s.ent h).drbg).take 8)))))

/-- Security requests that are served: each answers with its result and byte count; a report and a certificate are written to the
buffer; a hall key is stored, in use at once or from its effective epoch on; withdrawal, return and scrapping destroy it and move
the life cycle, an authorisation leaves RETURNED; the fuse count follows the image's (14 R427-R434, R436). Boot and tamper: both
host dies take slot A when it holds the only candidate; an image that passes, with equal measurements on both dies, boots the
module, a mismatch or a bad image leaves it boot-failed, with 0x8102 or 0x8103 in the log, and so does a flash without a candidate,
with 0x8101; a boot derives each key block's keys from the identity seed, which a wipe takes; a tamper event counts, is fatal with
0xF801, keeps its record with a MAC and leaves no key, and one of the mesh destroys the hall key (14 R424-R426, R428, R435). With no
transition left every other request is refused with 0x8201 (R434). The order of checks and the MAC's form are log entry 38. -/
def Obligations.SecurityRequestsBootAndTamper : Prop :=
  (∀ (s : State) (p : Port) (b : List Byte), secRequest s p = some b → .keyBlock p ∉ (s.ent p).waiting →
     let answered := fun (u : State) (n : Nat) =>
       nextKeeping s (secDone (u.write (.untranslated p) ((u.port p).sec.addr + 0x70) (natLe 8 n)) p 0)
     let moved := fun (i : Instr) (state : Nat) (f : State → Prop) => ∃ t, exec i s = .next t ∧ t.sec.lifecycle = state ∧
       t.sec.transitionsLeft = s.sec.transitionsLeft - 1 ∧ t.sec.hallKey = none ∧ (t.port p).sec.busy = false ∧
       (t.port p).sec.result = 0 ∧ f t
     (fieldOf b 0 1 = 0x30 → secReserved b [(8, 16), (0x20, 32)] = false → fieldOf b 8 8 % 4096 = 0 →
       50480 ≤ fieldOf b 0x10 8 → mayAsk s = true → keyBlockServes s = true → ∀ own, (s.host p).keys = some own →
       exec (.attest p) s = answered (s.write (.untranslated p) (fieldOf b 8 8)
         (report s p ((b.drop 0x20).take 32) ++
           exactly 49856 (slhSign slh256f own.attest (report s p ((b.drop 0x20).take 32))))) 50480) ∧
     (fieldOf b 0 1 = 0x31 → secReserved b [(8, 16)] = false → 31480 ≤ fieldOf b 0x10 8 → mayAsk s = true →
       exec (.readCertificate p) s = answered (s.write (.untranslated p) (fieldOf b 8 8) (certificate s)) 31480) ∧
     (∀ k own, fieldOf b 0 1 = 0x32 → p = .A → secReserved b [(8, 16)] = false → keyBlockServes s = true →
       s.sec.lifecycle = 2 → mayAsk s = true → (s.host p).keys = some own → openHallBlob own.kem (s.read (.untranslated p) (fieldOf b 8 8) 1616) = some k →
       canServe (s.ent p) = true →
       let iv := (generate (s.ent p)).1.take 12
       ∃ t, exec (.loadHallKey p) s = .next t ∧ t.sec.lifecycle = 2 ∧ (t.port p).sec.busy = false ∧ (t.port p).sec.result = 0 ∧
         (fieldOf b 0x10 8 ≤ s.opx.frame / 2 ^ 19 → t.sec.hallKey = some (exactly 32 k) ∧ t.sec.hallKeyNext = [] ∧
           t.sec.hallStored = [iv ++ gcmSeal own.hallWrap iv [] (exactly 32 k)]) ∧
         (s.opx.frame / 2 ^ 19 < fieldOf b 0x10 8 → t.sec.hallKey = s.sec.hallKey ∧ t.sec.hallKeyNext =
           s.sec.hallKeyNext.filter (fun n => n.2 < fieldOf b 0x10 8) ++ [(exactly 32 k, fieldOf b 0x10 8)])) ∧
     (fieldOf b 0 1 = 0x33 → secReserved b [] = false → mayMove s p [2] = true → s.qfe.queues = [] →
       moved (.withdrawHallKey p) 1 fun t => t.sec.hallKeyNext = [] ∧ t.sec.hallStored = []) ∧
     (fieldOf b 0 1 = 0x34 → secReserved b [] = false → mayMove s p [1, 2] = true → s.qfe.queues = [] →
       moved (.returnModule p) 3 fun t => t.fls.stores = [] ∧ t.fls.dumps = [{}, {}]) ∧
     (fieldOf b 0 1 = 0x35 → p = .A → secReserved b [(8, 8)] = false → hasIdentity s = true → s.sec.bootFailed = false →
       s.qfe.queues = [] → (b.drop 8).take 8 = (exactly 16 Config.serial).take 8 →
       moved (.scrap p) 4 fun t => t.sec.seedErased = true) ∧
     (fieldOf b 0 1 = 0x36 → secReserved b [(8, 9)] = false → mayMove s p [3] = true → fieldOf b 0x10 1 = 1 →
       s.qfe.queues = [] → s.sec.hallKey = none →
       slhVerify slh256s Config.manufacturingKey (exactly 16 Config.serial ++ natLe 1 s.sec.lifecycle ++ natLe 1 1)
         (s.read (.untranslated p) (fieldOf b 8 8) 29792) = true →
       moved (.vendorAuthorisation p) 1 fun _ => True) ∧
     (fieldOf b 0 1 = 0x37 → p = .A → secReserved b [] = false → mayAsk s = true → s.sec.fuseSvn < 64 →
       exec (.commitSvn p) s = answered { s with sec := { s.sec with fuseSvn := max s.sec.fuseSvn s.sec.imageSvn } } 0) ∧
     (s.sec.transitionsLeft = 0 →
       (fieldOf b 0 1 = 0x30 → secReserved b [(8, 16), (0x20, 32)] = false → fieldOf b 8 8 % 4096 = 0 →
         50480 ≤ fieldOf b 0x10 8 → exec (.attest p) s = nextKeeping s (secDone s p 0x8201)) ∧
       (fieldOf b 0 1 = 0x31 → secReserved b [(8, 16)] = false → 31480 ≤ fieldOf b 0x10 8 →
         exec (.readCertificate p) s = nextKeeping s (secDone s p 0x8201)) ∧
       (fieldOf b 0 1 = 0x32 → secReserved b [(8, 16)] = false → exec (.loadHallKey p) s = nextKeeping s (secDone s p 0x8201)) ∧
       (fieldOf b 0 1 = 0x37 → secReserved b [] = false → exec (.commitSvn p) s = nextKeeping s (secDone s p 0x8201))) ∧
     ((fieldOf b 0 1 < 0x30 ∨ 0x37 < fieldOf b 0 1) → exec (.securityRequestInvalid p) s = nextKeeping s (secDone s p 0x8205))) ∧
  (∀ (s : State) (a b : FlashReading) (n : Nat),
     (s.flt.bootStep ≠ 0 → s.mgmt.holdoffHigh = true → s.mgmt.powerGood = true → s.flt.stopped = false →
       let logged := fun (t : State) (code : Nat) => ∃ l ∈ t.flt.entries, l.code = code
       (candidate s a.slotA = true → candidate s b.slotA = true → candidate s a.slotB = false → candidate s b.slotB = false →
         ∃ t, exec (.boot a b) s = .next t ∧ t.flt.bootStep = 0 ∧ t.flt.resetStep = 0 ∧ (∀ p, (t.port p).linkUp = true) ∧
           (imagePasses a.slotA = true → imagePasses b.slotA = true →
             (bootMeasures a.slotA = bootMeasures b.slotA → t.sec.bootFailed = false ∧ t.sec.slotB = false ∧
               t.sec.imageSvn = imageSvn a.slotA ∧ t.sec.fwVersion = imageVersion a.slotA ∧
               t.sec.measureA = bootMeasures a.slotA ∧ t.sec.measureB = bootMeasures a.slotA ∧
               ∀ h, (t.host h).keys = if hasIdentity s then some (identityKeys (identitySeed s)) else none) ∧
             (bootMeasures a.slotA ≠ bootMeasures b.slotA → t.sec.bootFailed = true ∧ logged t 0x8102)) ∧
           (imagePasses a.slotA = false ∨ imagePasses b.slotA = false → t.sec.bootFailed = true ∧ logged t 0x8103)) ∧
       (candidate s a.slotA = false → candidate s a.slotB = false →
         ∃ t, exec (.boot a b) s = .next t ∧ t.sec.bootFailed = true ∧ t.flt.bootStep = 0 ∧ logged t 0x8101)) ∧
     (0 < n → n < 16 → s.mgmt.powerGood = true → s.sec.lifecycle ≠ 4 → s.sec.lifecycle ≠ 0 → s.flt.stopped = false →
       ∃ t, exec (.tamperEvent n) s = .next t ∧ t.flt.stopped = true ∧ t.flt.code = 0xF801 ∧ t.sec.tamperInputs = n ∧
         t.sec.tamperCount = (if s.sec.tamperCount = 0xFFFF then 0xFFFF else min 0xFFFE (s.sec.tamperCount + 1)) ∧
         t.sec.tamperMac = some (tamperMacOf s t.sec.tamperCount n) ∧ (∀ h, (t.host h).keys = none) ∧
         (n % 2 = 1 → t.sec.hallKey = none)))

/-- Unit accesses of a command: a read returns the unit's bytes and counts at its channel, with symbol errors in one or two
symbols corrected and counted; a write of the whole unit replaces it and ends its poison, whatever stood there; a partial write of
a good unit changes its own bytes; errors in more symbols, where the decoder sees them, poison the unit and fault the command
with 0x2010, and a read of a poisoned unit faults with 0x2011. While requests for the unit that won its arbiters wait, only the access
that executes the first of them is made, and it is then done with (01 R37). A patrol read marks a corrected unit and, at the second,
has its range retired (11 R326-R328).
Retirement and lane repair: a range due goes to a spare unit while the 64 last, then its page is unmapped for good; a pin
that is due takes one of two spare lanes of its pseudo-channel, and the stack is fenced where it does not train; with both taken
a bad pin degrades the stack, and a second one of the pseudo-channel fences it (11 R328, R329). Which spare unit a range takes, that
one it lay on before is lost with it, and the numbers of spare lanes are the model's choice (log entry 33). -/
def Obligations.UnitAccessesPatrolAndRepair : Prop :=
  (∀ (s : State) (unit : Nat) (errors : List Nat), s.works = true → unit < 24 * stackUnits →
     s.stackUp (unit / stackUnits) = true → errors.all (· < 68) = true →
     (∀ access c, unitMay s unit access = false → exec (.hbmAccess unit access errors c) s = .next s) ∧
     (tblFind s.mesh.won (16 * (unit / stackUnits) + unitChannel unit) = none → ∀ access, unitMay s unit access = true) ∧
     (∀ p rest, tblFind s.mesh.won (16 * (unit / stackUnits) + unitChannel unit) = some (p :: rest) → p.operation / 2 = unit →
       (unitMay s unit .read = true ↔ p.operation % 2 = 0) ∧
       tblGet [] (unitDone s unit).mesh.won (16 * (unit / stackUnits) + unitChannel unit) = rest) ∧
     (∀ c x q key m, s.cmd? c = some x → s.queue? x.queue = some q → x.shutter = none →
       reachedPage s q unit = some (key, m) →
       let v := unitDone s unit
       (unitMay s unit .read = true → unit ∉ s.hbm.poisoned → errors.dedup.length ≤ 2 → ∃ t, exec (.hbmAccess unit .read errors c) s = .next t ∧
         t.reply = leNat (memRead s.mem (unitKey unit) 128) ∧ t.mem = s.mem ∧ t.hbm.pages = s.hbm.pages ∧
         t.hbm.poisoned = s.hbm.poisoned ∧
         tblGet 0 (t.stack (unit / stackUnits)).channelReads (unitChannel unit) =
           tblGet 0 (s.stack (unit / stackUnits)).channelReads (unitChannel unit) + 1 ∧
         t.hbm.corrected = if errors = [] then s.hbm.corrected else (statUp s.hbm.corrected 1).1) ∧
       (∀ data, unitMay s unit (.writeWhole data) = true → m.write = true → data.length = 128 →
         exec (.hbmAccess unit (.writeWhole data) errors c) s =
         .next { v with mem := memWrite s.mem (unitKey unit) data,
                        hbm := { s.hbm with poisoned := s.hbm.poisoned.filter (· != unit) } }) ∧
       (∀ offset data, unitMay s unit (.writePart offset data) = true → m.write = true → unit ∉ s.hbm.poisoned → errors = [] → offset + data.length < 128 →
         ∃ t, exec (.hbmAccess unit (.writePart offset data) errors c) s = .next t ∧
           t.mem = memWrite s.mem (unitKey unit + offset) data ∧ t.hbm.poisoned = s.hbm.poisoned) ∧
       (unitMay s unit .read = true → unit ∉ s.hbm.poisoned → 2 < errors.dedup.length → ∃ t, exec (.hbmAccess unit .read errors c) s = .next t ∧
         (Config.miscorrected s.draws unit = false →
           nextKeeping s (faultCmd (poisonUnit (readUnit v unit errors) unit) c 0x2010 (key % 2 ^ 26)) = .next t)) ∧
       (unitMay s unit .read = true → unit ∈ s.hbm.poisoned → exec (.hbmAccess unit .read errors c) s =
         nextKeeping s (faultCmd v c 0x2011 (key % 2 ^ 26)))) ∧
     (unit ∉ s.hbm.poisoned → ∃ t, exec (.patrolScrub unit []) s = .next t ∧ t.mem = s.mem ∧
       t.hbm.patrolMarks = s.hbm.patrolMarks.filter (· != unit) ∧ t.hbm.corrected = s.hbm.corrected ∧
       t.hbm.retireDue = s.hbm.retireDue) ∧
     (unit ∉ s.hbm.poisoned → errors ≠ [] → errors.dedup.length ≤ 2 → ∃ t, exec (.patrolScrub unit errors) s = .next t ∧
       t.mem = s.mem ∧
       (unit ∉ s.hbm.patrolMarks → unit ∈ t.hbm.patrolMarks ∧ t.hbm.retireDue = s.hbm.retireDue) ∧
       (unit ∈ s.hbm.patrolMarks → unit ∉ t.hbm.patrolMarks ∧ unit / rangeUnits ∈ t.hbm.retireDue))) ∧
  (∀ (s : State) (n : Nat), s.works = true → n < 24 → s.stackUp n = true →
     (∀ range, range < 36864 → n * 36864 + range ∈ s.hbm.retireDue →
       (sparesUsed s n < 64 → ∃ t, exec (.unitRetirement n range) s = .next t ∧
         (t.stack n).unitsRetired = (s.stack n).unitsRetired + 1 ∧ n * 36864 + range ∉ t.hbm.retireDue ∧
         tblFind t.hbm.redirected (n * 36864 + range) = some (sparesUsed s n) ∧ t.hbm.pages = s.hbm.pages ∧
         t.hbm.lostSpares = s.hbm.lostSpares ++
           ((tblFind s.hbm.redirected (n * 36864 + range)).map (64 * n + ·)).toList) ∧
       (∀ e, 64 ≤ sparesUsed s n → e ∈ s.hbm.pages → e.2.stack = n → e.2.page = range / 2 →
         ∃ t, exec (.unitRetirement n range) s = .next t ∧ range / 2 ∈ (t.stack n).removedPages ∧
           (t.stack n).unitsRetired = (s.stack n).unitsRetired + 1 ∧
           (∀ e ∈ t.hbm.pages, ¬(e.2.stack = n ∧ e.2.page = range / 2)) ∧ t.hbm.redirected = s.hbm.redirected)) ∧
     (∀ pc pin, pc < 32 → pin < 32 →
       (pinKey pc pin ∉ (s.stack n).pinsDue → ∀ trains, exec (.pinLaneRepair n pc pin trains) s = .next s) ∧
       (pinKey pc pin ∈ (s.stack n).pinsDue →
         (lanesUsed (s.stack n) pc < 2 → ∃ t, exec (.pinLaneRepair n pc pin true) s = .next t ∧
           tblFind (t.stack n).laneMap (pc * 64 + pin) = some (lanesUsed (s.stack n) pc) ∧
           pinKey pc pin ∉ (t.stack n).pinsDue ∧
           (t.stack n).lanesRepaired = (s.stack n).lanesRepaired + 1 ∧ (t.stack n).state = (s.stack n).state) ∧
         (lanesUsed (s.stack n) pc < 2 → s.spin.problems = [] → s.grf.graphs = [] →
           ∃ t, exec (.pinLaneRepair n pc pin false) s = .next t ∧ (t.stack n).state = .fenced) ∧
         (2 ≤ lanesUsed (s.stack n) pc → ∀ trains,
           let bad := addOnce (32 * pc + pin) (s.stack n).badPins
           let after := badPinsOf { s.stack n with badPins := bad } pc
           (after < 2 → ∃ t, exec (.pinLaneRepair n pc pin trains) s = .next t ∧
             (t.stack n).state = .degraded ∧ (t.stack n).badPins = bad ∧ (t.stack n).laneMap = (s.stack n).laneMap) ∧
           (2 ≤ after → s.spin.problems = [] → s.grf.graphs = [] →
             ∃ t, exec (.pinLaneRepair n pc pin trains) s = .next t ∧ (t.stack n).state = .fenced)))))

/-- A map: checked, placed on free pages, and usable only once zero; its answer is its page count, which a port that may not write yet
gets when it may. The request touches no byte until then, and places every page of its range on a page that no map holds, that is not
removed and in no area, each on another, the stacks in turn: after the stack of the last page, or of the last near page of the memory
die, the next with a page left (11 R333, R334; 18 R502).
An unmap: new accesses find the pages gone at once, and the answer comes once the old ones have
drained, those that have not faulting their commands with 0x2001; a request of no
known op fails with 0x2040 (11 R332, R335). -/
def Obligations.MapsZeroAndUnmapsStop : Prop :=
  (∀ (s : State) (p : Port),
     (∀ b, MapAt s p 0x10 b → mapBad b = false →
       let key := deviceKey p (fieldOf b 4 4)
       (∀ k ∈ rangePages b, tblFind s.hbm.pages (key k) = none) →
       (fieldOf b 2 1 = 0 → (rangePages b).length ≤ overStacks s.freePages) →
       (fieldOf b 2 1 = 1 → (rangePages b).length ≤
         s.freePages (3 * fieldOf b 3 1) + s.freePages (3 * fieldOf b 3 1 + 1) + s.freePages (3 * fieldOf b 3 1 + 2)) →
       (placePages key (bit (fieldOf b 1 1) 0) (fieldOf b 2 1 == 1) (fieldOf b 3 1) (rangePages b) s []).isSome = true →
       ∃ t keys, exec (.map p) s = .next t ∧ t.hbm.job = some { port := p, unmap := false, keys := keys } ∧
         keys.map (·.1) = (rangePages b).map key ∧ (∀ e ∈ keys, e.2.write = bit (fieldOf b 1 1) 0) ∧
         (∀ e ∈ keys, e.2.page < stackPages ∧ e.2.page ∉ (s.stack e.2.stack).removedPages ∧
           s.inAreas e.2.stack e.2.page = false ∧ ∀ g ∈ s.hbm.pages, ¬(g.2.stack = e.2.stack ∧ g.2.page = e.2.page)) ∧
         (keys.map fun e => (e.2.stack, e.2.page)).Nodup ∧
         (∀ i e, keys[i]? = some e →
           let left := fun (n : Nat) => s.freePages n - ((keys.take i).filter fun g => g.2.stack == n).length
           let near := fieldOf b 3 1
           let last := match i with
             | 0 => if fieldOf b 2 1 = 1 then tblGet (3 * near + 2) s.hbm.lastNear near else s.hbm.lastSpread
             | j + 1 => (keys[j]?.map fun g => g.2.stack).getD 0
           let turn := fun (k : Nat) =>
             if fieldOf b 2 1 = 1 then 3 * near + (last - 3 * near + 1 + k) % 3 else (last + 1 + k) % 24
           ∃ k, e.2.stack = turn k ∧ 0 < left (turn k) ∧ ∀ j, j < k → left (turn j) = 0) ∧
         t.hbm.pages = s.hbm.pages ∧ t.mem = s.mem ∧ t.portA = s.portA ∧ t.portB = s.portB) ∧
     (∀ j, s.works = true → s.hbm.job = some j → j.port = p → j.unmap = false → j.due = none → (s.port p).map.addr < 2 ^ 64 →
       ∃ t, exec (.mapZeroingComplete p) s = .next t ∧
         t.hbm.pages = j.keys.foldl (fun l e => tblPut l e.1 e.2) s.hbm.pages ∧
         (∀ e ∈ j.keys, ∀ a, a < 2 ^ 21 → memGet t.mem (memKey (.page e.2.stack e.2.page) a) = 0) ∧
         ((s.port p).mayRequest = true → Answers s t p 0 ∧
           t.read (.untranslated p) ((s.port p).map.addr + 0x70) 8 = natLe 8 j.keys.length) ∧
         ((s.port p).linkUp = true → (s.port p).mayRequest = false →
           t.hbm.job = some { j with keys := [], accesses := [], due := some j.keys.length } ∧ t.portA = s.portA ∧
           t.portB = s.portB)) ∧
     (∀ j n, s.hbm.job = some j → j.port = p → j.due = some n →
       finishDue s p = mapOk s p n ∧ Answers s (finishDue s p) p 0 ∧
       ((s.port p).linkUp = true → (finishDue s p).read (.untranslated p) ((s.port p).map.addr + 0x70) 8 = natLe 8 n) ∧
       ((s.port p).linkUp = false → (finishDue s p).mem = s.mem))) ∧
  (∀ (s : State) (p : Port),
     (∀ b, MapAt s p 0x11 b → mapReserved b [(4, 4), (8, 16)] = false → rangeBad b = false →
       (∀ k ∈ rangePages b, (tblFind s.hbm.pages (deviceKey p (fieldOf b 4 4) k)).isSome = true) →
       ∃ t j, exec (.unmap p) s = .next t ∧ t.hbm.job = some j ∧ j.port = p ∧ j.unmap = true ∧
         j.keys.map (·.1) = (rangePages b).map (deviceKey p (fieldOf b 4 4)) ∧ j.accesses = translatedTo s j.keys ∧
         (∀ k ∈ rangePages b, tblFind t.hbm.pages (deviceKey p (fieldOf b 4 4) k) = none) ∧
         (∀ k, (∀ g ∈ rangePages b, k ≠ deviceKey p (fieldOf b 4 4) g) → tblFind t.hbm.pages k = tblFind s.hbm.pages k) ∧
         t.mem = s.mem) ∧
     (∀ j, s.works = true → s.hbm.job = some j → j.port = p → j.unmap = true → j.due = none →
       exec (.unmapDrainEnd p) s = nextKeeping s (mapEnd
         (j.accesses.foldl (fun s c => faultCmd s c 0x2001 (unmappedPage s j c)) s) p j.keys.length) ∧
       (j.accesses = [] → (s.port p).mayRequest = true → ∃ t, exec (.unmapDrainEnd p) s = .next t ∧ Answers s t p 0 ∧
         t.hbm.pages = s.hbm.pages ∧
         t.read (.untranslated p) ((s.port p).map.addr + 0x70) 8 = natLe 8 j.keys.length)) ∧
     (∀ b, s.works = true → mapRequest s p = some b → (fieldOf b 0 1 < 0x10 ∨ 0x14 < fieldOf b 0 1) →
       ∃ t, exec (.mapRequestInvalid p) s = .next t ∧ Answers s t p 0x2040 ∧ t.mem = s.mem))

/-- A write of a virtual range that is not refused changes memory and the poison of units alone. It puts its bytes at their addresses,
`vaKey` of the port, the PASID and each byte's address: in host memory that address itself, in the device range the place of its page
in the stack that holds it; it changes no other byte of any space, and a read of the range then gives the bytes written, where no two
addresses of the range share a place, as none do while each page of a stack is mapped once (09 R268, R270; 11 R327, R331). -/
def Obligations.VirtualWritesLandWhereTheyPoint : Prop :=
  ∀ (s t : State) (p : Port) (pasid va : Nat) (b : List Byte), writeVa s p pasid va b = .ok t →
    t = { s with mem := t.mem, hbm := { s.hbm with poisoned := t.hbm.poisoned } } ∧
    (∀ u ∈ t.hbm.poisoned, u ∈ s.hbm.poisoned) ∧
    (va < deviceBase → t.hbm = s.hbm ∧ peekVa t p pasid va b.length = b ∧
      ∀ k, (k < memKey (.virt p pasid) va ∨ memKey (.virt p pasid) va + b.length ≤ k) → memGet t.mem k = memGet s.mem k) ∧
    (∀ i, va + i < deviceBase → vaKey s p pasid (va + i) = memKey (.virt p pasid) va + i) ∧
    (∀ i m, deviceBase ≤ va + i → tblFind s.hbm.pages (deviceKey p pasid ((va + i - deviceBase) / 2 ^ 21)) = some m →
      vaKey s p pasid (va + i) = memKey (.page m.stack m.page) ((va + i - deviceBase) % 2 ^ 21)) ∧
    (∀ k, (∀ i, i < b.length → k ≠ vaKey s p pasid (va + i)) → memGet t.mem k = memGet s.mem k) ∧
    (∀ i v, b[i]? = some v → (∀ j, i < j → j < b.length → vaKey s p pasid (va + j) ≠ vaKey s p pasid (va + i)) →
      memGet t.mem (vaKey s p pasid (va + i)) = v) ∧
    ((∀ i j, i < j → j < b.length → vaKey s p pasid (va + i) ≠ vaKey s p pasid (va + j)) →
      peekVa t p pasid va b.length = b)

/-- Store commands: a store is reserved and bound to its creator's pair; a read writes its blocks to the buffer and counts
them and the blank ones; a checked write runs on until it is programmed, each block whole; a trim makes blocks blank; a report
writes the tier record; a destroyed store is gone (11 R340-R346).
Requests about stores and dumps: a store is bound to the asking port's pair; the stores of a port are listed; a valid
dump slot is read out (11 R343, R347). -/
def Obligations.StoreCommandsAndRequestsComplete : Prop :=
  (∀ (s : State) (c : Nat) (x : Cmd) (q : Queue),
     let d := x.desc
     (∀ i gen, Runnable s c 0x80 x q → needDesc d 0xA001 [(0x10, dField d 0x10 8 == 0)] = .ok () →
       dField d 0x10 8 ≤ freeBlocks s →
       newIndex 65536 (fun i => (tblFind s.fls.stores i).isSome) s.fls.gens = some (i, gen) →
       exec (.storeCreate c) s = endsWell s ({ s with fls := { s.fls with gens := tblPut s.fls.gens i gen } }.setStore i
         { gen := gen, blocks := dField d 0x10 8, label := dField d 0x18 8, bound := some (q.port, q.pasid) }) c
         (BitVec.ofNat 128 (mkHandle 3 gen i))) ∧
     (∀ i f, needStore s q (dField d 0x20 8) = .ok (i, f) → dFirst d + dCount d ≤ f.blocks →
       (Runnable s c 0x81 x q → needDesc d 0xA001 (transferFields d) = .ok () →
         checkVa s q.port q.pasid (dField d 0x10 8) (4096 * dCount d) true = .ok () → lostBlock d f = none →
         exec (.storeRead c) s = endsWell s (pokeVa s q.port q.pasid (dField d 0x10 8)
           ((List.range (dCount d)).flatMap fun k => blockBytes4k s i f (dFirst d + k))) c
           (BitVec.ofNat 128 (dCount d + 2 ^ 32 *
             ((List.range (dCount d)).filter fun k => (tblFind f.written (dFirst d + k)).isNone).length))) ∧
       (Runnable s c 0x82 x q → needDesc d 0xA001 (transferFields d) = .ok () → s.fls.readOnly = false →
         checkVa s q.port q.pasid (dField d 0x10 8) (4096 * dCount d) false = .ok () →
         exec (.storeWrite c) s = runsOn s s c) ∧
       (Runnable s c 0x83 x q → needDesc d 0xA001 [(0x28, dCount d == 0)] = .ok () →
         ∃ v, exec (.storeTrim c) s = endsWell s v c (BitVec.ofNat 128 (dCount d)) ∧
           ∃ g, tblFind v.fls.stores i = some g ∧ g.blocks = f.blocks ∧
             ∀ n, (dFirst d ≤ n → n < dFirst d + dCount d → tblFind g.written n = none ∧ n ∉ g.lost) ∧
               (n < dFirst d ∨ dFirst d + dCount d ≤ n → tblFind g.written n = tblFind f.written n ∧ (n ∈ g.lost ↔ n ∈ f.lost))) ∧
       (∀ v, Runnable s c 0x84 x q → needDesc d 0xA001 [] = .ok () → dField d 0x20 8 ≠ 0 →
         writeVa s q.port q.pasid (dField d 0x10 8) (tierRecord s ++ storeEntry i f f.written.length) = .ok v →
         exec (.storeReport c) s = endsWell s v c 0) ∧
       (Runnable s c 0x85 x q → needDesc d 0xA001 [] = .ok () → storeBusy s i = false →
         ∃ v, exec (.storeDestroy c) s = endsWell s v c 0 ∧ tblFind v.fls.stores i = none ∧
           ∀ a, a < 2 ^ 64 → memGet v.mem (memKey (.store i) a) = 0)) ∧
     (∀ v, Runnable s c 0x84 x q → needDesc d 0xA001 [] = .ok () → dField d 0x20 8 = 0 →
       writeVa s q.port q.pasid (dField d 0x10 8) (tierRecord s) = .ok v → exec (.storeReport c) s = endsWell s v c 0) ∧
     (CommandAt s c 0x82 [.running] x q →
       checkVa s.translated q.port q.pasid (dField d 0x10 8) (4096 * dCount d) false = .ok () →
       exec (.storeProgramComplete c) s = endsWell s
       ((List.range (dCount d)).foldl (programBlock q d) s) c (BitVec.ofNat 128 (dCount d)))) ∧
  (∀ (s : State) (p : Port) (b : List Byte),
     (∀ i f, MapAt s p 0x12 b → fieldOf b 4 4 < 2 ^ 20 →
       storeIndex s (fieldOf b 8 8) = some i → tblFind s.fls.stores i = some f → (∀ o n, f.bound = some (o, n) → o = p) →
       ∃ t, exec (.bindStore p) s = .next t ∧ Answers s t p 0 ∧
         tblFind t.fls.stores i = some { f with bound := some (p, fieldOf b 4 4) } ∧
         ∀ k, k ≠ i → tblFind t.fls.stores k = tblFind s.fls.stores k) ∧
     (MapAt s p 0x13 b → fieldOf b 8 8 % 32 = 0 →
       let mine := s.fls.stores.filter fun e => match e.2.bound with
         | some (o, _) => o == p
         | none => true
       exec (.listStores p) s = nextKeeping s (mapOk (s.write (.untranslated p) (fieldOf b 8 8)
         ((mine.take (fieldOf b 0x10 8 / 32)).flatMap fun e => storeEntry e.1 e.2 e.2.label)) p mine.length)) ∧
     (MapAt s p 0x14 b → fieldOf b 1 1 ≤ 1 → fieldOf b 8 8 % 4096 = 0 →
       let k := if fieldOf b 1 1 = 0 then s.fls.latestDump else 1 - s.fls.latestDump
       (nth {} s.fls.dumps k).valid = true → (nth {} s.fls.dumps k).bytes ≤ fieldOf b 0x10 8 →
       exec (.readDump p) s = nextKeeping s (mapOk (s.write (.untranslated p) (fieldOf b 8 8)
         (s.read (.dump k) 0 (nth {} s.fls.dumps k).bytes)) p (nth {} s.fls.dumps k).bytes)) ∧
     (∀ (u : State) (n : Nat), ∃ t, mapOk u p n = t ∧ Answers u t p 0 ∧ t.fls = u.fls ∧
       ((u.port p).linkUp = true → t.read (.untranslated p) ((u.port p).map.addr + 0x70) 8 = natLe 8 n)))

/-- Programming a block of a store write writes that block whole, from the command's buffer as it was translated, and no other byte
of any store; its data lies in the erase block that the memory die of its channel is filling (11 R335, R338, R340, R341). -/
def Obligations.BlocksAreProgrammedWhole : Prop :=
  ∀ (s : State) (q : Queue) (d : Desc) (f : FlashStore) (k : Nat), tblFind s.fls.stores (dStore d) = some f →
    4096 * (dFirst d + k) + 4096 ≤ 2 ^ 64 →
    let n := dFirst d + k
    let t := programBlock q d s k
    let buffer := peekVa s.translated q.port q.pasid (dField d 0x10 8 + 4096 * k) 4096
    buffer.length = 4096 →
    t.read (.store (dStore d)) (4096 * n) 4096 = buffer ∧
    (∀ i a, a < 2 ^ 64 → (i ≠ dStore d ∨ a < 4096 * n ∨ 4096 * n + 4096 ≤ a) →
      memGet t.mem (memKey (.store i) a) = memGet s.mem (memKey (.store i) a)) ∧
    (∀ g, tblFind t.fls.stores (dStore d) = some g → tblFind g.written n = some (placeData s (blockChannel n / 2)).2 ∧ n ∉ g.lost ∧
       g.blocks = f.blocks ∧
      ∀ b, b ≠ n → tblFind g.written b = tblFind f.written b) ∧
    ∀ i, i ≠ dStore d → tblFind t.fls.stores i = tblFind s.fls.stores i

/-- The flash medium: a page read counts at its erase block, and a page no layer recovers is lost, the reading command faulting
with 0xA010; a failed die is rebuilt out of the spare, and a second failure of its memory die meanwhile fences the channel, whose
blocks are lost; a failed program retires its block; wear levelling, refresh and disturb copies free blocks that are due (11 R339,
R341).
The dump mirror: the slot not marked latest takes the dump's bytes and becomes the latest; the other slot keeps its own
(11 R347). That a rebuild takes `targetBlocks` of the spare is the model's choice (log entry 33), and so is that the dump waits for its
mirror in a space of its own, dump 2 (log entry 20). -/
def Obligations.FlashUpkeepAndDumpMirror : Prop :=
  (∀ (s : State) (n b : Nat), s.works = true → n < 16 →
     (∀ i f k, tblFind s.fls.stores i = some f → tblFind f.written b = some k → ∀ c outcome,
       (outcome ≠ .lost → ∃ t, exec (.flashPageRead i b c outcome) s = .next t ∧ t.fls.stores = s.fls.stores ∧ t.mem = s.mem ∧
         (eraseBlock t k).reads = (eraseBlock s k).reads + 1 ∧
         (eraseBlock t k).soft = ((eraseBlock s k).soft || outcome != .hard)) ∧
       (b ∉ f.lost → s.cmd? c = none → ∃ t, exec (.flashPageRead i b c .lost) s = .next t ∧
         (∃ g, tblFind t.fls.stores i = some g ∧ b ∈ g.lost ∧ g.written = f.written) ∧ t.mem = s.mem) ∧
       (∀ x q, b ∉ f.lost → s.cmd? c = some x → s.queue? x.queue = some q → dOpcode x.desc = 0x81 → dStore x.desc = i →
         dFirst x.desc ≤ b → b < dFirst x.desc + dCount x.desc →
         ∃ v, exec (.flashPageRead i b c .lost) s = nextKeeping s (faultCmd v c 0xA010 (b % 2 ^ 32)) ∧
           (∃ g, tblFind v.fls.stores i = some g ∧ b ∈ g.lost) ∧
           v.fls.lifetimeUncorrectable = s.fls.lifetimeUncorrectable + 1 ∧
           v.fls.uncorrectable = (statUp s.fls.uncorrectable 1).1)) ∧
     (∀ target, target < 8 → (s.channel n).state ≠ .fenced → target ∉ (s.channel n).failed →
       ((s.channel (2 * (n / 2))).state ≠ .rebuilding → (s.channel (2 * (n / 2) + 1)).state ≠ .rebuilding →
         ∃ t, exec (.flashDieRebuild n target) s = .next t ∧ t.mem = s.mem ∧
           t.channel n = { s.channel n with state := .rebuilding, failed := (s.channel n).failed ++ [target] }) ∧
       ((s.channel (2 * (n / 2))).state = .rebuilding ∨ (s.channel (2 * (n / 2) + 1)).state = .rebuilding →
         ∃ t, exec (.flashDieRebuild n target) s = .next t ∧ (t.channel n).state = .fenced ∧
           ∀ i f, tblFind s.fls.stores i = some f → ∃ g, tblFind t.fls.stores i = some g ∧ g.written = f.written ∧
             ∀ k, (tblFind f.written k).isSome = true → blockChannel k = n → k ∈ g.lost)) ∧
     ((s.channel n).state = .rebuilding → ∃ t, exec (.flashRebuildComplete n) s = .next t ∧
       t.channel n = { s.channel n with state := .up } ∧ t.fls.spareBlocks = s.fls.spareBlocks - targetBlocks) ∧
     (let k := eraseKey (n / 2) b
     ((eraseBlock s k).retired = false → b < dieBlocks →
       ∃ t, exec (.flashProgramFail n b) s = .next t ∧ (eraseBlock t k).retired = true ∧
         (t.channel n).grownBad = (s.channel n).grownBad + 1 ∧ t.fls.grownBad = s.fls.grownBad + 1 ∧
         t.fls.spareBlocks = s.fls.spareBlocks - 1 ∧ t.mem = s.mem) ∧
     (holdsData s k = true →
       (90 ≤ ageDays s (eraseBlock s k) ∨ (eraseBlock s k).soft = true →
         ∃ t, exec (.retentionRefresh (n / 2) b) s = .next t ∧ t.fls.refreshed = s.fls.refreshed + 1 ∧ t.mem = s.mem ∧
           (eraseBlock s k).erases < (eraseBlock t k).erases ∧ (eraseBlock t k).used = 0 ∧ ∃ l ∈ t.flt.entries, l.code = 0xA030) ∧
       (ageDays s (eraseBlock s k) < 90 → (eraseBlock s k).soft = false → exec (.retentionRefresh (n / 2) b) s = .next s) ∧
       (50000 ≤ (eraseBlock s k).reads → ∃ t, exec (.readDisturbCopy (n / 2) b) s = .next t ∧
         t.fls.refreshed = s.fls.refreshed + 1 ∧ t.mem = s.mem ∧ (eraseBlock t k).reads = 0 ∧ (eraseBlock t k).used = 0) ∧
       ((eraseBlock s k).reads < 50000 → exec (.readDisturbCopy (n / 2) b) s = .next s))) ∧
     (∀ k low, leastWorn s (n / 2) = (k, low) →
       let high := ((listedBlocks s (n / 2)).filter fun e => !e.2.retired).foldl (fun a e => max a e.2.erases) 0
       (low + 200 < high → ∃ t, exec (.wearLevelCopy (n / 2)) s = .next t ∧ t.mem = s.mem ∧
         (eraseBlock s k).erases < (eraseBlock t k).erases ∧ (eraseBlock t k).used = 0) ∧
       (high ≤ low + 200 → exec (.wearLevelCopy (n / 2)) s = .next s))) ∧
  (∀ (s : State), s.flt.mirror = 1 → s.fls.latestDump ≤ 1 → s.fls.dumps.length = 2 → s.flt.dumpLen ≤ 2 ^ 64 →
     (∃ t, exec (.dumpMirror true) s = .next t ∧
       let k := 1 - s.fls.latestDump
       t.fls.latestDump = k ∧ t.flt.mirror = 2 ∧ nth {} t.fls.dumps k = { valid := true, bytes := s.flt.dumpLen } ∧
       t.read (.dump k) 0 s.flt.dumpLen = s.read (.dump 2) 0 s.flt.dumpLen ∧
       nth {} t.fls.dumps s.fls.latestDump = nth {} s.fls.dumps s.fls.latestDump ∧
       ∀ a, a < 2 ^ 64 → memGet t.mem (memKey (.dump s.fls.latestDump) a) = memGet s.mem (memKey (.dump s.fls.latestDump) a)) ∧
     (∃ t, exec (.dumpMirror false) s = .next t ∧ t.flt.mirror = 3 ∧ t.mem = s.mem ∧ t.fls = s.fls ∧
       ∃ l ∈ t.flt.entries, l.code = 0xA050))

/-- A frame starts: the frame number moves on by one, the schedule frame with it unless the frame slips, a change of marker
source due is made, and every live pair whose keys are of the epoch sends on its lanes a header codeword that carries the new
number and the tag of its link (12 R353, R355, R357, R360, R371, R374).
A frame header that comes in: a codeword of kind 1 at position 0 is taken as one, one that does not decode is counted and
discarded. A header with the tag of its link has its slip tokens taken and its acknowledged messages leave the open slot; from
the expected peer and frame it ends a mismatch, else the pair is marked and the violation logged; one without the tag, or of an
epoch without a key, is a violation with 0x9106 and nothing else, whatever it names (12 R353, R355, R356, R366, R371, R387). That the
tag is checked with the identity and frame that the header itself names is the model's reading (log entry 34). -/
def Obligations.FramesSendAndCheckHeaders : Prop :=
  (∀ (s : State), s.works = true → s.opx.relockFrame = none → s.opx.armed = false → (∀ f, (s.flow f).command = none) →
     ∃ t, exec .frameStart s = .next t ∧ t.opx.frame = s.opx.frame + 1 ∧
       t.opx.schedFrame = (if s.opx.frame + 1 ∈ s.opx.slips then s.opx.schedFrame else s.opx.schedFrame + 1) ∧
       t.opx.sourceX3 = s.opx.switchTo.getD s.opx.sourceX3 ∧
       ∀ k n, k < 144 → (s.pair k).live = true → pairAllowed s k = true → (s.pair k).keys.head? = some n → n.epoch = (s.opx.frame + 1) / 2 ^ 19 →
         ∃ h, h.frame = s.opx.frame + 1 ∧ h.hallId = s.opx.hallId ∧ h.die = k / 24 ∧ h.position = k % 24 ∧
           h.version = s.opx.active.version ∧
           OutMsg.codeword (k / 24) (k % 24) 0 (s.opx.frame + 1) (stripe (s.pair k).txSpare (encodeWord
             { kind := 1, index := 0,
               payload := headerBytes h ++ headerTag n.tx (messageIv 0 (s.opx.frame + 1)) (ownData s k (s.opx.frame + 1)) (headerBytes h) }))
             ∈ t.sent) ∧
  (∀ (s : State) (die pair : Nat) (lanes : List (List Nat)), isPair die pair = true → lanesWf lanes = true →
     let k := pairKey die pair
     (s.pair k).live = true →
     (s.works = true →
       (∀ w v, wordIn s k lanes = (some w, v) → w.kind = 1 →
         exec (.frameHeaderReceived die pair lanes) s = nextKeeping s (headerIn v k w.payload)) ∧
       (∀ v, wordIn s k lanes = (none, v) → exec (.frameHeaderReceived die pair lanes) s = nextKeeping s v ∧
         (v.pair k).undecoded = (s.pair k).undecoded + 1)) ∧
     (∀ hb tag, hb.length = 624 → (s.pair k).openDue = false → (∀ f, (s.flow f).command = none) →
       let h := headerFrom hb
       let good := (s.pair k).keyOf h.frame |>.map fun n =>
         headerTag n.rx (messageIv 0 h.frame) (messageData h.hallId h.die h.position h.frame) hb
       let t := headerIn s k (hb ++ tag)
       (good = some tag → (∀ f ∈ tokens h, s.opx.frame + 1 < f) →
         (∀ f, f ∈ t.opx.slips ↔ f ∈ s.opx.slips ∨ f ∈ tokens h) ∧ t.opx.frame = s.opx.frame ∧ t.mem = s.mem ∧
         (t.pair k).openQueue = (takeAcks h (s.pair k)).openQueue ∧
         (headerFault s k h = none → (t.pair k).mismatch = false) ∧
         (∀ code, headerFault s k h = some code → (t.pair k).mismatch = true ∧
           t.opx.violations = (statUp s.opx.violations 1).1 ∧ ∃ l ∈ t.flt.entries, l.code = code ∧ l.detail = pairDetail k)) ∧
       (good ≠ some tag → t = violation s 0x9106 k)))

/-- A codeword is taken by its position: the header's, one of the open slot's, else one of the scheduled region. There a
one-codeword message that its sender sealed under the key of the link goes to its stream; one that does not decode is lost and
asked for again; a label announces the repeat behind it; an occurrence lost three times, or not repeated in time, fences its pair
(12 R353, R356, R367, R373, R387). What a label holds, its flow at byte 2 and its origin at byte 4, and in which order occurrences that
end together stand, is the model's choice (log entry 34). -/
def Obligations.OccurrencesAreDeliveredOrLost : Prop :=
  ∀ (s : State) (die pair pos : Nat), isPair die pair = true →
    let k := pairKey die pair
    (∀ lanes, lanesWf lanes = true →
      exec (.codewordReceived die pair 0 lanes) s = exec (.frameHeaderReceived die pair lanes) s ∧
      (∀ slot, slot < 16 → openStart s.opx + slot ≠ 0 →
        exec (.codewordReceived die pair (openStart s.opx + slot) lanes) s = exec (.openSlotMessage die pair slot lanes) s) ∧
      (0 < pos → pos < openStart s.opx → s.works = true → (s.pair k).live = true → ∀ w v, wordIn s k lanes = (w, v) →
        exec (.codewordReceived die pair pos lanes) s = nextKeeping s (scheduledIn v k pos w))) ∧
    (∀ l, standing s k pos = some (l, 0) → l.cws = 1 → (s.pair k).mismatch = false →
      (∀ n text, (s.pair k).keyOf l.frame = some n → text.length = 624 → l.origin ≠ s.opx.member → s.opx.held = [] →
        (∀ e ∈ s.opx.pairs, ∀ w ∈ e.2.lost ++ e.2.awaited, w.flow = l.flow → w.origin = l.origin →
          l.frame < w.frame ∨ (l.frame = w.frame ∧ l.turn ≤ w.turn)) → (s.flow l.flow).command = none →
        let b := (sealMessage n.rx (messageIv l.position l.frame) (peerData s k l.frame) 1 text).flatten
        let t := scheduledIn s k pos (some { kind := 2, index := 0, payload := b })
        let x := s.rx (streamKey l.flow l.origin)
        t.opx.held = [] ∧ (∀ j, j ≠ streamKey l.flow l.origin → t.rx j = s.rx j) ∧
        (t.rx (streamKey l.flow l.origin)).bytes =
          x.bytes ++ (unpad 1250 { left := x.left, head := x.head, begun := x.begun } text).1) ∧
      ((s.pair k).lost = [] → let t := scheduledIn s k pos none
        (t.pair k).lost = [{ l with losses := 1, asked := false }] ∧ t.opx.rx = s.opx.rx)) ∧
    (∀ l b, standing s k pos = none → labelled s k b = some l →
      receives s k (fieldOf b 2 2) (fieldOf b 4 1) = true →
      let t := scheduledIn s k pos (some { kind := 4, index := 0, payload := b })
      (l.flow = fieldOf b 2 2 → l.origin = fieldOf b 4 1 → (t.pair k).repeatNow = some (l, pos) ∧
        t.opx.repeatCount = (statUp s.opx.repeatCount 1).1) ∧
      (l.flow ≠ fieldOf b 2 2 → t = violation s 0x9102 k)) ∧
    (s.works = true → (s.pair k).live = true →
      (∃ m ∈ (s.pair k).lost, m.position = pos ∧ (3 ≤ m.losses ∨ m.frame + 8 < s.opx.frame)) → (∀ f, (s.flow f).command = none) →
      ∃ t, exec (.repeatWindowExpired die pair pos) s = .next t ∧ (t.pair k).state = .fenced ∧ (t.pair k).lost = [] ∧
        (∀ f ∈ flowsOn s k, (t.flow f).broken = true) ∧ ∃ e ∈ t.flt.entries, e.code = 0x1041 ∧ e.detail = pairDetail k)

/-- Open-slot messages: what the peer sealed under the key of the link opens to its text, is acknowledged at its place and, when it
is the next of its type, taken; one whose tag fails is a violation and not acknowledged; the lead's disarm disarms the pending
banks, and an undefined type is a violation (12 R356, R365, R366, R387). The numbers of the types, 4 of the disarm, 0 and those above 7
undefined, are the model's choice (log entry 34).
Hall timing: sixteen good markers lock a calibrated module at the number the marker gives; a missing one moves to the other
locked source at the next frame boundary, or to holdover when the other is missing, too; a locked X0 is taken again after 1024
good markers; at the end of holdover the module is degraded; a calibration counts for its optical die (12 R357-R360). -/
def Obligations.OpenSlotMessagesAndHallTiming : Prop :=
  (∀ (s : State) (die pair slot : Nat), isPair die pair = true → slot < 16 →
     let k := pairKey die pair
     (∀ lanes w v, s.works = true → (s.pair k).live = true → lanesWf lanes = true → slot < s.opx.openCw →
       wordIn s k lanes = (some w, v) → exec (.openSlotMessage die pair slot lanes) s = nextKeeping s (openIn v k slot w)) ∧
     (∀ n type seq data, (s.pair k).keyOf s.opx.frame = some n → type < 2 ^ 16 → seq < 2 ^ 32 → data.length ≤ 608 →
       let iv := messageIv (openStart s.opx + slot) s.opx.frame
       let cipher := gcmStream n.rx iv (openText type seq data)
       let good := gcmTag n.rx iv (peerData s k s.opx.frame) cipher
       openIn s k slot { kind := 3, index := 0, payload := cipher ++ good } = messageIn s k slot (openText type seq data) ∧
       ∀ tag, tag.length = 16 → tag ≠ good →
         openIn s k slot { kind := 3, index := 0, payload := cipher ++ tag } = violation s 0x9106 k) ∧
     (∀ type data, type < 2 ^ 16 → data.length ≤ 608 → (s.pair k).openHeld = [] →
       tblGet 0 (s.pair k).openTaken type < 2 ^ 32 →
       let seq := tblGet 0 (s.pair k).openTaken type
       ∃ v, messageIn s k slot (openText type seq data) = takeMessage v k (openMessageOf type data) ∧ v.opx.slips = s.opx.slips ∧
         bit (v.pair k).openAck slot = true ∧ (v.pair k).openHeld = [] ∧ v.mem = s.mem ∧
         tblGet 0 (v.pair k).openTaken type = (seq + 1) % 2 ^ 32 ∧ (v.pair k).peerNonce = (s.pair k).peerNonce) ∧
     (s.opx.role = 2 → (s.pair k).peerHall = s.opx.leadHall → takeMessage s k (openMessageOf 4 []) = disarm s) ∧
     (∀ type data, type = 0 ∨ 7 < type → takeMessage s k (openMessageOf type data) = violation s 0x9102 k)) ∧
  (∀ (s : State), s.works = true →
     (∀ x3 frame ps phase, s.opx.timing = .unlocked → goodMarker s.opx ps = true →
       (if x3 then s.opx.goodX3 else s.opx.goodX0) < 15 →
       ∃ t, exec (.markerReceived x3 frame ps phase) s = .next t ∧ t.opx.timing = .locking ∧
         t.opx.goodX0 = (if x3 then s.opx.goodX0 else s.opx.goodX0 + 1) ∧
         t.opx.goodX3 = (if x3 then s.opx.goodX3 + 1 else s.opx.goodX3) ∧ t.opx.frame = s.opx.frame) ∧
     (∀ x3 frame ps phase, s.opx.timing = .locking → goodMarker s.opx ps = true →
       15 ≤ (if x3 then s.opx.goodX3 else s.opx.goodX0) → allCalibrated s.opx = true → offsetWrong s.opx = false →
       ∃ t, exec (.markerReceived x3 frame ps phase) s = .next t ∧ t.opx.timing = .aligned ∧
         t.opx.frame = nextFromMarker s.opx x3 frame - 1 ∧ t.opx.sourceX3 = x3) ∧
     (s.opx.timing = .aligned → s.opx.sourceX3 = false →
       (16 ≤ s.opx.goodX3 → s.opx.missX3 = false → ∃ t, exec (.markerMissing false) s = .next t ∧ t.opx.switchTo = some true ∧
         t.opx.timing = .aligned ∧ t.opx.goodX0 = 0 ∧ t.opx.sourceX3 = false) ∧
       (s.opx.missX3 = true → ∃ t, exec (.markerMissing false) s = .next t ∧ t.opx.timing = .holdover ∧
         t.opx.holdoverLeft = holdoverFrames s.opx ∧ ∃ l ∈ t.flt.entries, l.code = 0x1042)) ∧
     (∀ frame ps phase, s.opx.timing = .aligned → s.opx.sourceX3 = true → goodMarker s.opx ps = true → 1023 ≤ s.opx.goodX0 →
       ∃ t, exec (.markerReceived false frame ps phase) s = .next t ∧ t.opx.switchTo = some false ∧ t.opx.sourceX3 = true) ∧
     (s.opx.timing = .holdover → s.opx.holdoverLeft = 0 → ∃ t, exec .holdoverLimit s = .next t ∧ t.opx.timing = .degraded ∧
       ∃ l ∈ t.flt.entries, l.code = 0x1043) ∧
     (∀ die c, die < 6 → exec (.calibration die c) s = .next { s with opx := { s.opx with
       calibrated := die :: s.opx.calibrated.filter (· != die), calTempC := tblPut s.opx.calTempC die c } }))

/-- Lanes and nonces of a live pair: a failed lane moves onto the spare and is logged, with a calibration due; the receiver asks
the transmitter over the lane-control signal, or through the open slot while that carries data; a second failure fences the pair,
as do two at once; port A trains a fenced pair of a powered die again; a link cipher that got an error asks its generator again (12 R352, R358,
R385, R386; 14 R421). -/
def Obligations.LanesAndRetraining : Prop :=
  ∀ (s : State) (die pair : Nat), isPair die pair = true →
    let k := pairKey die pair
    (∀ lane why, lane < 8 → s.works = true → (s.pair k).live = true →
      (laneFailed (s.pair k) lane why = false → ∀ both, exec (.laneFailure die pair lane why both) s = .next s) ∧
      (laneFailed (s.pair k) lane why = true →
        let spare := if why = .asked then (s.pair k).txSpare else (s.pair k).rxSpare
        (spare = none → ∃ t, exec (.laneFailure die pair lane why false) s = .next t ∧
          (t.pair k).state = .spare ∧ die ∉ t.opx.calibrated ∧ (∃ l ∈ t.flt.entries, l.code = 0x1040 ∧ l.detail = pairDetail k) ∧
          (why = .asked → (t.pair k).txSpare = some lane) ∧
          (why ≠ .asked → (t.pair k).rxSpare = some lane ∧
            ((s.pair k).txSpare = none → OutMsg.laneControl die pair lane ∈ t.sent ∧ (t.pair k).laneAsk = some lane) ∧
            ((s.pair k).txSpare ≠ none → ∃ m ∈ (t.pair k).openQueue, openMessageOf m.type m.data = .replaceLane lane))) ∧
        ((∃ m, spare = some m ∧ m ≠ lane) → (∀ f, (s.flow f).command = none) → ∀ both,
          ∃ t, exec (.laneFailure die pair lane why both) s = .next t ∧
            (t.pair k).state = .fenced ∧ ∃ l ∈ t.flt.entries, l.code = 0x1041 ∧ l.detail = pairDetail k) ∧
        (spare = none → (∀ f, (s.flow f).command = none) →
          ∃ t, exec (.laneFailure die pair lane why true) s = .next t ∧ (t.pair k).state = .fenced))) ∧
    (∀ v, isWord v = true → v / 2 ^ 29 % 2 = 1 → Reached s .A → (s.pair k).state = .fenced → pairAllowed s k = true →
      s.sec.keyBlockRefuses = false →
      ((s.die (56 + die)).powered = true → ∃ t, exec (.opxPairRetrain .A die pair v) s = .next t ∧ (t.pair k).live = true ∧
        (t.pair k).keys = [bootKeys s k (s.opx.frame / 2 ^ 19)]) ∧
      ((s.die (56 + die)).powered = false → exec (.opxPairRetrain .A die pair v) s = .next s)) ∧
    (s.works = true → (s.pair k).live = true → (s.pair k).nonceDue = true →
      (s.host (nonceHost k)).ent.state ≠ .permanentFault → .linkNonce (k / 24) (k % 24) ∉ (s.host (nonceHost k)).ent.waiting →
      ∃ t, exec (.linkNonceRetry die pair) s = .next t ∧ (t.pair k).nonceDue = false ∧
        (t.host (nonceHost k)).ent.waiting = (s.host (nonceHost k)).ent.waiting ++ [.linkNonce (k / 24) (k % 24)])

/-- Copy and convert. A checked copy writes the source's bytes, slots, side list and scale word and counts nothing; onto the
same record it writes nothing; a checked convert writes the source's values in the destination's format and returns what it
counted. A tag slip that pairing finds in a block of the source ends either with 0x6001, the block and its record, of several the
lowest operand's and within it the lowest block's, each counted at the engine that finds it (06 R185, R188, R190, R194, R195).
The slots of a copy keep their escape counts and exponents, and take the tags of their places (06 R173, R174, R194). -/
def Obligations.CopiesKeepTheTensor : Prop :=
  (∀ (s : State) (c : Nat) (x : Cmd) (q : Queue) (a b : Operand) (l : Loaded) (slips : List TagSlip),
     (Runnable s c 0x10 x q → tensorPair s x q copyRefused = .ok (a, b) → loadOperands s q [a] = .ok [l] →
       (∀ ws, slips.filter (slipReal q [a]) = [] → copyWrites s q l b.t = .ok ws →
         (a.t.raw = b.t.raw → exec (.copy c slips) s = endsWell s s c 0) ∧
         (∀ v, a.t.raw ≠ b.t.raw → overlapWith s q b.t [a] = .ok () →
           l.side.length ≤ (if b.t.sideAddr = 0 then 0 else b.t.sideCap) → writeRuns s q ws = .ok v →
           exec (.copy c slips) s = endsWell s v c 0)) ∧
       (∀ k, lowestSlip (slips.filter (slipReal q [a])) = some k → a.t.raw = b.t.raw →
         let v := (slips.filter (slipReal q [a])).foldl (noteSlip x q) s
         exec (.copy c slips) s = nextKeeping s (finishCmd v c 0x6001 (k.block % 2 ^ 32)
             (tagRecord k.block k.operand (if k.moduleCrossing then 2 else 1) k.found) false false) ∧ v.mem = s.mem ∧
           (slips.filter (slipReal q [a]) = [k] →
             (v.eng k.engine).streamTag = (statUp (s.eng k.engine).streamTag 1).1))) ∧
     (∀ vals v tally, Runnable s c 0x11 x q → tensorPair s x q convertRefused = .ok (a, b) → overlapWith s q b.t [a] = .ok () →
       loadOperands s q [a] = .ok [l] → slips.filter (slipReal q [a]) = [] →
       readValues s q l = .ok vals → writeTensor s q b.t vals = .ok (v, tally) →
       exec (.convert c slips) s = endsWell s v c tally.result)) ∧
  (∀ l : List TagSlip, (lowestSlip l = none ↔ l = []) ∧ ∀ k, lowestSlip l = some k → k ∈ l ∧ ∀ y ∈ l, k.operand < y.operand ∨
     (k.operand = y.operand ∧ k.block ≤ y.block)) ∧
  (∀ (slots : List Nat) (k : Nat), (∀ x ∈ slots, x < 2 ^ 16) → k < slots.length →
     (retag slots).length = slots.length ∧
     slotTag (nth 0 (retag slots) k) = blockTag k ∧ slotExp (nth 0 (retag slots) k) = slotExp (nth 0 slots k) ∧
     slotEscapes (nth 0 (retag slots) k) = slotEscapes (nth 0 slots k))

/-- The stream check: every slot whose tag is its block's and whose exponent code is at most 247 passes; the first other one
faults the command with 0x6001 or 0x6002 and its block (06 R187). -/
def Obligations.StreamsAreCheckedInOrder : Prop :=
  ∀ (num : Nat) (slots : List Nat),
    let good := fun (k x : Nat) => slotTag x = blockTag k ∧ slotExp x ≤ 247
    ((∀ k, k < slots.length → good k (nth 0 slots k)) → checkSlots num 0 slots = .ok ()) ∧
    (∀ k, k < slots.length → (∀ j, j < k → good j (nth 0 slots j)) →
      (slotTag (nth 0 slots k) ≠ blockTag k → checkSlots num 0 slots =
        .error (.record 0x6001 (k % 2 ^ 32) (tagRecord k num 0 (slotTag (nth 0 slots k))))) ∧
      (slotTag (nth 0 slots k) = blockTag k → 247 < slotExp (nth 0 slots k) →
        checkSlots num 0 slots = .error (.fault 0x6002 (k % 2 ^ 32) false)))

/-- A group sequence: its accumulator overflows exactly when an aligned product or the sum after a group leaves int64; else its
partial is the exact sum of the aligned products, whatever the group size; and partials of any split of a range combine to the
exact sum of the whole range (07 R202, R203, R205). -/
def Obligations.SumsAreExactUnderAnySplit : Prop :=
  (∀ (scale : Int) (g : Nat) (terms : List Rat), 0 < g →
    let al := terms.map fun p => rne (p * pow2 (-scale))
    (addGroups scale g (terms.length + 1) 0 terms = none ↔
      (∃ a ∈ al, outside64 a = true) ∨ ∃ k, k * g < al.length ∧ outside64 (al.take ((k + 1) * g)).sum = true) ∧
    (∀ v, addGroups scale g (terms.length + 1) 0 terms = some v → v = al.sum)) ∧
  (∀ (strict : Bool) (base : Int) (pieces : List (Nat × List Rat)) (vs : List Int), (∀ p ∈ pieces, 0 < p.1) →
    pieces.map (fun p => addGroups base p.1 (p.2.length + 1) 0 p.2) = vs.map some →
    let total := ((pieces.flatMap (·.2)).map fun p => rne (p * pow2 (-base))).sum
    outside64 total = false → combine strict base (vs.map fun v => (v, base)) 3 base 0 = (0, .ok (total, base)))

/-- Starting a matrix multiply, a convolve or a sum: with every check passed the slot is claimed on every engine of the queue,
the records and the shape are kept, and the command runs on (07 R209 step 1, R216, R217, R222, R233).
A running slot-naming command: a sequence over a fresh range of its output piece, on a bound, usable, open engine that has the
turn, adds its partials and counts its replays, those before a fault, too, at an issue opportunity that the louvre leaves, and at
another only the opportunity passes; once all ranges of the piece are covered its partials are combined; a piece but the last is
written and the next begins; the commit, which finds the destination writable first, keeps or discards the array, writes the
destination, at once or when the port may send, and returns the scale, depth and replays (07 R200, R202-R206, R209, R210, R220; 13
R399; the pieces, the engine that counts, the checks before the commit and what an issue opportunity is are log entries 45, 21, 22
and 36). -/
def Obligations.SlotCommandsStartRunAndCommit : Prop :=
  (∀ (s : State) (c : Nat) (x : Cmd) (q : Queue) (os : List Operand) (sh : Shape) (ls : List Loaded),
     let d := x.desc
     let srcs := sourcesOf (dOpcode d)
     let started := fun (u : State) =>
       let v := markSlots u q.engines (dSlot d) (.claimed x.queue)
       let job : AccJob := { records := os.map (·.t.raw), slot := dSlot d, base := dScale d, strict := dStrict d, addTo := dAddTo d,
                             keep := dKeep d, noWrite := dNoWrite d, dims := sh.dims, kLen := sh.kLen, group := sh.group,
                             fuse := x.fuse }
       runsOn s ({ v with jobs := tblPut v.jobs c job }.modCmd c fun y =>
         { y with dests := if dKeep d || dAddTo d then [] else ((operandOf os srcs.length).map Tensor.destExtent).getD [],
                  kept := ((slotOperands d srcs).map fun (e : Nat × Nat × Bool × Bool) => e.2.1).zip job.records }) c
     needDesc d 0x3033 (slotFields d ++ (if dOpcode d == 0x21 then convFields d else [])) = .ok () →
     readOperands s q x.kept (slotOperands d srcs) = .ok os → check1 os = .ok () → shapeOf d os = .ok sh →
     destShape os srcs.length sh.dims = .ok () → slotStreams s q os srcs.length (refusedSources d os) = .ok ls →
     claimCheck s x.queue (dSlot d) q.engines = .ok () → arrayCheck s x q sh.dims = .ok () →
     (Runnable s c 0x20 x q → exec (.matrixMultiply c) s = started s) ∧
     (Runnable s c 0x21 x q → exec (.convolve c) s = started s) ∧
     (Runnable s c 0x30 x q → exec (.sum c) s = started s)) ∧
  (∀ (s : State) (c : Nat) (x : Cmd) (q : Queue) (j : AccJob) (slips : List TagSlip),
     let n := (sourcesOf (dOpcode x.desc)).length
     let os := jobOperands x.desc j
     let first := q.engines.head?.getD 0
     let limit := pieceLimit q
     let clean := fun (os : List Operand) => slips.filter (slipReal q os) = []
     dOpcode x.desc ∈ [0x20, 0x21, 0x30] → tblFind s.jobs c = some j →
     (∀ e elem elems lo len, CommandAt s c (dOpcode x.desc) [.running] x q → isEngine e = true →
       e ∈ q.engines → s.engineUsable e = true → (s.eng e).louvre ≠ 0 → freshRange j limit elem elems lo len = true →
       j.combined = none → sequenceTurn s e = true →
       ((s.eng e).louvre ≤ ((s.eng e).issues.filter id).length →
         exec (.groupSequence c e elem elems lo len slips) s = runsOn s
           (s.setEng e { s.eng e with issues := (false :: (s.eng e).issues).take 15 }) c) ∧
       ∀ ls terms, ((s.eng e).issues.filter id).length < (s.eng e).louvre →
       (slips.map fun l => { l with engine := e }).filter (slipReal q (os.filter fun o => o.num < n)) = [] →
       loadOperands s q (os.filter fun o => o.num < n) = .ok ls →
       gatherTerms ((List.range elems).map fun i => (List.range len).map fun k =>
         termOf s q x.desc (ls.map fun l => { l with exact := true }) j.dims (elem + i) (lo + k)) = .ok terms →
       let w := fun (k : Nat) => tileWork (passTurn (countReplays s e k) e true) e c
       (∀ vals depth, runSequence j terms 3 0 = (depth, .ok (vals, depth)) →
         exec (.groupSequence c e elem elems lo len slips) s =
           (let v := w depth
           let ps := (vals.zip (List.range vals.length)).map fun v =>
             ({ elem := elem + v.2, lo := lo, len := len, value := v.1, depth := depth } : Partial)
           let k := { j with partials := j.partials ++ ps, replays := j.replays + depth }
           runsOn s { v with jobs := tblPut v.jobs c k } c)) ∧
       (∀ k, runSequence j terms 3 0 = (k, fltOpen 0x3031) →
         ∃ v, exec (.groupSequence c e elem elems lo len slips) s = nextKeeping s v ∧
           (v.eng e).accReplay = (statUp (s.eng e).accReplay k).1)) ∧
     (∀ l k, CommandAt s c (dOpcode x.desc) [.running] x q → covered j limit = true → j.combined = none →
       combineAll j limit (tblFind s.arrays (arrayKey x.queue j.slot)) = (k, .ok l) →
       exec (.partialCombine c) s =
         (let v := countReplays s first k
         let m := { j with combined := some l, replays := j.replays + k }
         runsOn s { v with jobs := tblPut v.jobs c m } c)) ∧
     (∀ l0, CommandAt s c (dOpcode x.desc) [.running, .committing] x q → j.combined = some l0 →
       let l := j.done ++ l0
       let wrote := fun (u : State) (y : WritePlan) => y.1.foldl (fun u r => pokeVa u q.port q.pasid r.1 r.2) u
       let result := fun (y : WritePlan) => slotResult (j.base + 16 * topDepth l) (topDepth l) j.replays y.2
       (j.plan = none → clean (os.filter fun o => n < o.num) →
         (∀ y f k v tally, x.stage = .running → l.length < elemCount j.dims →
           destPlan s q (dFuse x.desc) os n j.base false j.fuse j.done.length l = .ok (y, f, k) →
           writePlan { s with draws := s.draws + k } q y = .ok (v, tally) →
           exec (.accumulatorCommit c slips) s = runsOn s
             { v with jobs := tblPut v.jobs c { j with done := l, partials := [], combined := none, fuse := f } } c) ∧
         (∀ y f k r, elemCount j.dims ≤ l.length →
           destPlan s q (dFuse x.desc) os n j.base j.keep j.fuse j.done.length l = .ok (y, f, k) →
           writePlan (s.sending q) q y = .ok r →
           let u := commitArray { s with draws := s.draws + k } x j l
           (sendable s q y = true → exec (.accumulatorCommit c slips) s = endsWell s (wrote u y) c (result y)) ∧
           (sendable s q y = false → exec (.accumulatorCommit c slips) s = runsOn s
             ({ u with jobs := tblPut u.jobs c { j with plan := some y } }.modCmd c fun z =>
               { z with stage := .committing, dests := y.1.map fun (r : Nat × List Byte) => (r.1, r.2.length) }) c))) ∧
       (∀ y, j.plan = some y → sendable s q y = true →
         exec (.accumulatorCommit c slips) s = endsWell s (wrote s y) c (result y))))

/-- Write out, release, combine partials and top-k. Release discards the kept array of its queue and leaves a free slot as it
is; the others write what they name once every check has passed; a write-out claims its slot and finds its destination writable
before it writes; what it writes waits for the port to send where it must; a combination counts its replays even where its write then
faults (07 R205, R209, R210, R219, R220, R223, R224). That the replays count at the queue's first engine and that the destination is
checked before the write is the model's reading (log entries 21 and 22). -/
def Obligations.ArrayAndReductionCommandsComplete : Prop :=
  ∀ (s : State) (c : Nat) (x : Cmd) (q : Queue) (os : List Operand) (ls : List Loaded) (slips : List TagSlip),
    let d := x.desc
    let first := q.engines.head?.getD 0
    let clean := fun (os : List Operand) => slips.filter (slipReal q os) = []
    (∀ a t y f n r, Runnable s c 0x22 x q → tblFind s.jobs c = none → needDesc d 0x3033 (writeOutFields d) = .ok () →
      readOperands s q x.kept (slotOperands d []) = .ok os → check1 os = .ok () → operandOf os 0 = some t →
      destShape os 0 t.dims4 = .ok () → slotStreams s q os 0 [] = .ok ls →
      claimCheck s x.queue (dSlot d) q.engines = .ok () → tblFind s.arrays (arrayKey x.queue (dSlot d)) = some a →
      a.dims = t.dims4 → a.lost = false →
      let j := writeOutJob d os a
      let w := markSlots s q.engines (dSlot d) (.claimed x.queue)
      let u1 := { w with jobs := tblPut w.jobs c j }.modCmd c fun y =>
        { y with kept := ((slotOperands d []).map fun (e : Nat × Nat × Bool × Bool) => e.2.1).zip j.records }
      clean ((jobOperands d j).filter fun o => 0 < o.num) →
      destPlan u1 q (dFuse d) (jobOperands d j) 0 a.base true none 0 (a.values.map fun v => (v, a.depth)) = .ok (y, f, n) →
      writePlan (u1.sending q) q y = .ok r →
      let u2 := { u1 with draws := u1.draws + n }
      let v := y.1.foldl (fun u r => pokeVa u q.port q.pasid r.1 r.2) u2
      (sendable s q y = true → exec (.writeOut c slips) s = endsWell s
        (if dKeep d then v else { v with arrays := tblDel v.arrays (arrayKey x.queue (dSlot d)) }) c
        (slotResult (a.base + 16 * a.depth) a.depth 0 y.2)) ∧
      (sendable s q y = false → exec (.writeOut c slips) s = runsOn s
        ({ u2 with jobs := tblPut u2.jobs c { j with plan := some y } }.modCmd c fun z =>
          { z with stage := .committing, dests := y.1.map fun (r : Nat × List Byte) => (r.1, r.2.length) }) c)) ∧
    (∀ a j y, CommandAt s c 0x22 [.committing] x q → tblFind s.jobs c = some j → j.plan = some y →
      tblFind s.arrays (arrayKey x.queue j.slot) = some a → sendable s q y = true →
      let v := y.1.foldl (fun u r => pokeVa u q.port q.pasid r.1 r.2) s
      exec (.writeOut c slips) s = endsWell s
        (if j.keep then v else { v with arrays := tblDel v.arrays (arrayKey x.queue j.slot) }) c
        (slotResult (a.base + 16 * a.depth) a.depth 0 y.2)) ∧
    (Runnable s c 0x23 x q → needDesc d 0x3033 [(0x32, decide (3 < dSlot d))] = .ok () →
      claimCheck s x.queue (dSlot d) q.engines = .ok () →
      exec (.release c) s = endsWell s (discardArray s x.queue (dSlot d) q.engines) c 0) ∧
    (∀ addrs srcs t l k, Runnable s c 0x31 x q →
      needDesc d 0x3033 ((0x33, dField d 0x33 1 != 0 && dField d 0x33 1 != 8) :: fuseFields d) = .ok () →
      combineList s q x.kept (dField d 0x10 8) = .ok addrs → readOperands s q x.kept (combineRecords d addrs) = .ok os →
      check1 os = .ok () → combineShape os addrs.length = .ok () →
      slotStreams s q os addrs.length ((os.filter fun o => o.num < addrs.length && o.t.storage != .acc64).map (·.num)) = .ok ls →
      tryMap (fun l => match readInts s q l with
        | .ok v => .ok (l.scale, v)
        | .error e => .error e) (ls.filter fun l => l.num < addrs.length) = .ok srcs →
      operandOf os addrs.length = some t → clean os → combineSources (dStrict d) srcs t.elems = (k, .ok l) →
      let u := countReplays s first k
      (∀ v tally, writeDest u q (dFuse d) os addrs.length (combineBase srcs) true l = .ok (v, tally) →
        exec (.combinePartials c slips) s = endsWell s v c
          (slotResult (combineBase srcs + 16 * topDepth l) (topDepth l) k tally)) ∧
      (∀ code detail logged, writeDest u q (dFuse d) os addrs.length (combineBase srcs) true l = .error (.fault code detail logged) →
        exec (.combinePartials c slips) s = nextKeeping s (finishCmd (t.destExtent.foldl
          (fun u r => scrambleVa u q.port q.pasid r.1 r.2) u) c code detail 0 logged false))) ∧
    (∀ src i l rows v tally, Runnable s c 0x32 x q →
      needDesc d 0x3033 [(0x30, dField d 0x30 1 == 0 || 16 < dField d 0x30 1), (0x31, 1 < dField d 0x31 1)] = .ok () →
      dField d 0x20 8 = 0 →
      readOperands s q x.kept [(0, dField d 0x10 8, true, false), (1, dField d 0x18 8, false, true)] = .ok [src, i] →
      check1 [src, i] = .ok () → topKShape d [src, i] = .ok () → check2 [] [src, i] = .ok () → check3 [src, i] = .ok () →
      overlapWith s q i.t [src] = .ok () → loadOperands s q [src] = .ok [l] → clean [src] → readValues s q l = .ok rows →
      firstNan rows = none →
      writeTensor s q i.t (rows.map fun r => (topOf (dField d 0x31 1 == 1) (dField d 0x30 1) r).map fun e => .real (e.2 : Rat)) =
        .ok (v, tally) →
      exec (.topK c slips) s = endsWell s v c 0)

/-- Top-k ranks a row by exact value, equal values by the lower index, in both orders; it returns k places of the row and
leaves out no better one (07 R224). -/
def Obligations.TopKRanksByValueThenIndex : Prop :=
  ∀ (smallest : Bool) (k : Nat) (row : List Val), (∀ v ∈ row, isNan v = false) →
    let top := topOf smallest k row
    top.length = min k row.length ∧
    (∀ e ∈ top, row[e.2]? = some e.1) ∧
    top.Pairwise (fun a b => ranksBefore smallest a b = true) ∧
    ∀ i v, row[i]? = some v → (v, i) ∉ top → ∀ e ∈ top, ranksBefore smallest e (v, i) = true

/-- The vector family: with its parameters and its operands' checks passed, an element-wise command writes the operation's
values, a normalise or a softmax the reference rows, an optimiser step the new weights and moments in place, and each returns
what the writes counted (08 R237-R241). -/
def Obligations.VectorCommandsComplete : Prop :=
  ∀ (s : State) (c : Nat) (x : Cmd) (q : Queue) (os : List Operand) (ls : List Loaded) (w : Operand) (v : State) (tally : Tally)
      (slips : List TagSlip),
    let d := x.desc
    let writes := fun (vals : List (List Val)) => writeTensor { s with draws := s.draws + 1 } q w.t vals = .ok (v, tally)
    slips.filter (slipReal q os) = [] →
    (os.find? (·.writes) = some w → needDesc d 0x303A [] = .ok () →
      (∀ a va vb, Runnable s c 0x40 x q → dField d 0x2C 1 ≤ 16 → os.head? = some a → valuesOf s q ls 0 = .ok va →
        (∀ tb, dField d 0x2C 1 ≤ 4 → vectorOperands s x q [(0, dField d 0x10 8, true, false), (1, dField d 0x18 8, true, false),
            (2, dField d 0x20 8, false, true)] (elementDims true) (destApart s q) = .ok (os, ls) →
          valuesOf s q ls 1 = .ok vb → operandOf os 1 = some tb →
          writes (elementRows s.draws (dField d 0x2C 1) a.t va (some (tb, vb)) (.real 0)) →
          exec (.elementWise c slips) s = endsWell s v c tally.result) ∧
        (4 < dField d 0x2C 1 → vectorOperands s x q [(0, dField d 0x10 8, true, false), (1, dField d 0x20 8, false, true)]
            (elementDims false) (destApart s q) = .ok (os, ls) →
          writes (elementRows s.draws (dField d 0x2C 1) a.t va none (fp32 (dField d 0x28 4))) →
          exec (.elementWise c slips) s = endsWell s v c tally.result)) ∧
      (∀ rows r, Runnable s c 0x41 x q →
        let s1 := toSigned 16 (dField d 0x30 2)
        let s2 := toSigned 16 (dField d 0x32 2)
        s1 ≤ 320 → -320 ≤ s1 → s2 ≤ 320 → -320 ≤ s2 → positiveFinite (dField d 0x34 4) = true → dField d 0x38 1 ≤ 1 →
        dField d 0x20 8 = 0 → dField d 0x28 8 = 0 →
        vectorOperands s x q [(0, dField d 0x10 8, true, false), (1, dField d 0x18 8, false, true)] normaliseDims
          (destApart s q) = .ok (os, ls) → valuesOf s q ls 9 = .ok [] →
        valuesOf s q ls 0 = .ok rows →
        tryMap (fun e => match finiteRow 0 (e.2 * e.1.length) 0 e.1 with
          | .error x => .error x
          | .ok xs => normaliseRow s1 s2 ((fp32 (dField d 0x34 4)).rat.getD 0) (dField d 0x38 1 == 1)
              (fun i => Config.nanSign s.draws (e.2 * e.1.length + i)) xs [] []) (rows.zip (List.range rows.length)) = .ok r →
        writes r → exec (.normalise c slips) s = endsWell s v c tally.result) ∧
      (∀ rows r, Runnable s c 0x42 x q →
        vectorOperands s x q [(0, dField d 0x10 8, true, false), (1, dField d 0x18 8, false, true)]
          (fun os => match os with
            | [a, b] => sameDims a.t b.t && a.t.dim 0 ≤ 2 ^ 22
            | _ => false) (destApart s q) = .ok (os, ls) →
        valuesOf s q ls 0 = .ok rows →
        tryMap (fun e => match finiteRow 0 (e.2 * e.1.length) 0 e.1 with
          | .error x => .error x
          | .ok xs => .ok (softmaxRow xs)) (rows.zip (List.range rows.length)) = .ok r →
        writes r → exec (.softmax c slips) s = endsWell s v c tally.result)) ∧
    (∀ pb p tw tg tm tv w g m n s1 s2 a2 a3, Runnable s c 0x43 x q → needDesc d 0x303A [] = .ok () →
      readVa s q.port q.pasid (dField d 0x30 8) 32 = .ok pb → optParams pb = some p → p.momentum = false →
      vectorOperands s x q [(0, dField d 0x10 8, true, true), (1, dField d 0x18 8, true, false), (2, dField d 0x20 8, true, true),
        (3, dField d 0x28 8, true, true)] equalDims (allApart s q) = .ok ([tw, tg, tm, tv], ls) → os = [tw, tg, tm, tv] →
      valuesOf s q ls 0 = .ok w → valuesOf s q ls 1 = .ok g → valuesOf s q ls 2 = .ok m → valuesOf s q ls 3 = .ok n →
      let r := optRows p s.draws w g m n
      writeTensor { s with draws := s.draws + 1 } q tw.t (r.map fun l => l.map (·.1)) = .ok (s1, tally) →
      writeTensor s1 q tm.t (r.map fun l => l.map (·.2.1)) = .ok (s2, a2) →
      writeTensor s2 q tv.t (r.map fun l => l.map (·.2.2)) = .ok (v, a3) →
      exec (.optimiserStep c slips) s = endsWell s v c tally.result)

/-- Element-wise operations 0 to 9 on finite values are formed exactly (08 R237). -/
def Obligations.ElementOperationsAreExact : Prop :=
  ∀ (free : Bool) (a b : Val) (x y : Rat), a.rat = some x → b.rat = some y →
    let gives := fun (op : Nat) (v : Rat) => (elementOp op free a b).rat = some v
    gives 0 (x + y) ∧ gives 1 (x - y) ∧ gives 2 (x * y) ∧ gives 3 (max x y) ∧ gives 4 (min x y) ∧ gives 5 |x| ∧ gives 6 (-x) ∧
      gives 7 (max x 0) ∧ gives 8 (x + y) ∧ gives 9 (x * y)

/-- The cascade's tensor commands. Started, each claims its flow and hands over what it sends behind its header; taken further once
everything has come, an all-reduce writes the sum of all members and returns scale, depth and replays, an all-gather and a receive
write what came, a send ends once its last byte is out; a header that disagrees ends the command with 0x1904 and the member (12
R368, R377-R379, R384). That the replays count at the queue's first engine, that slips found in what came over the fabric are found
there, and where a header's fields lie are the model's choices (log entries 21, 31, 35 and, for streams, 34). -/
def Obligations.CascadeCommandsComplete : Prop :=
  ∀ (s : State) (c : Nat) (x : Cmd) (q : Queue) (a b : Operand) (l : Loaded) (rows : List (List Byte)) (slips : List TagSlip),
    let w := claimAtStart s c x
    let d := x.desc
    let flow := dFlow d
    let base := toSigned 16 (dField d 0x32 2)
    let first := q.engines.head?.getD 0
    let starts := fun (fields : List (Nat × Bool)) => flowFirst s x fields = .ok () ∧ needFlow s c x = .ok ()
    let ready := fun (a : Operand) =>
      loadOperands w q [a] = .ok [l] ∧ slips.filter (slipReal q [a]) = [] ∧ wireRows w q l = .ok rows
    let source := fun (t : Tensor) => ({ num := 0, t := t, reads := true, writes := false } : Operand)
    (Runnable s c 0x90 x q →
      starts [(0x32, base < -320 || 320 < base), (0x34, dField d 0x34 1 != 0 && dField d 0x34 1 != 8)] →
      readOperands w q x.kept [(0, dField d 0x10 8, true, false), (1, dField d 0x18 8, false, true)] = .ok [a, b] →
      check1 [a, b] = .ok () → sameDims a.t b.t = true → check2 [] [a, b] = .ok () → check3 [a, b] = .ok () →
      overlapWith w q b.t ([a, b].filter (·.reads)) = .ok () → ready (source a.t) →
      exec (.allReduce c slips) s = runsOn s (offer (keepRecords w c [a, b]) flow (contributionOf d l rows)) c) ∧
    (∀ ta tb, keptTensors s c = [ta, tb] →
      (∀ xs s1 k n v tally, CommandAt s c 0x90 [.running] x q → disagrees s flow (headerFits d ta) (otherMembers s) = none →
        takeAll flow ta s (allMembers s) = some (xs, s1) → slips.filter (slipReal q [source ta]) = [] →
        xs.filterMap (crossingSlip first) = [] → reduceAll (bit (dField d 0x34 1) 3) base xs ta.elems = (n, .ok k) →
        writeDest (countReplays s1 first n) q 0 [{ num := 1, t := tb, reads := false, writes := true }] 1 base false k =
          .ok (v, tally) →
        exec (.allReduce c slips) s = endsWell s v c (slotResult (base + 16 * topDepth k) (topDepth k) n tally)) ∧
      (∀ m, CommandAt s c 0x90 [.running] x q → disagrees s flow (headerFits d ta) (otherMembers s) = some m →
        exec (.allReduce c slips) s = nextKeeping s (finishCmd s c 0x1904 m 0 true false)) ∧
      (∀ xs s1 v, CommandAt s c 0x91 [.running] x q → disagrees s flow (headerFits d ta) (otherMembers s) = none →
        takeAll flow ta s (allMembers s) = some (xs, s1) → xs.filterMap (crossingSlip first) = [] →
        writeParts s1 q tb xs = .ok v → exec (.allGather c slips) s = endsWell s v c 0)) ∧
    (Runnable s c 0x91 x q → starts [] → tensorPair w x q (gatherRefused w) = .ok (a, b) →
      overlapWith w q b.t [a] = .ok () → ready a →
      exec (.allGather c slips) s = runsOn s (offer (keepRecords w c [a, b]) flow (contributionOf d l rows)) c) ∧
    (Runnable s c 0x93 x q → starts [] → readOperands w q x.kept [(0, dField d 0x10 8, true, false)] = .ok [a] →
      check1 [a] = .ok () → check2 [] [a] = .ok () → check3 [a] = .ok () → ready a →
      exec (.send c slips) s = runsOn s (handOver w flow (contributionOf d l rows)) c) ∧
    (CommandAt s c 0x93 [.running] x q → ownSent s flow = true → exec (.send c slips) s = endsWell s s c 0) ∧
    (Runnable s c 0x94 x q → starts [(0x32, originBad s (dField d 0x32 1))] →
      readOperands w q x.kept [(0, dField d 0x10 8, false, true)] = .ok [b] → check1 [b] = .ok () → check2 [] [b] = .ok () →
      check3 [b] = .ok () → exec (.receive c) s = runsOn s (keepRecords w c [b]) c) ∧
    (∀ t y s1 v, CommandAt s c 0x94 [.running] x q → keptTensors s c = [t] →
      disagrees s flow (headerFits d t) [dField d 0x32 1] = none →
      takeContribution s flow (dField d 0x32 1) 0 t = some (y, s1) → crossingSlip first y = none →
      writeParts s1 q t [y] = .ok v → exec (.receive c) s = endsWell s v c 0)

/-- Boundary exchange, schedule load and schedule arm: an accepted exchange claims its flow and starts its launch, and where no seed
is still to be drawn begins its stream; a valid image becomes the pending banks of the module itself while they are not armed, and
goes to another member in open-slot messages; a standalone module arms the banks for a frame at least 16 ahead, a lead tells its
members (12 R365, R366, R375, R380-R382). Both need a timing state past locking, a DEPLOYED module and scheduled transmission that
has not stopped (12 R361, R372; 14 R433; the last is the model's reading, log entry 35). -/
def Obligations.CascadeAndScheduleCommands : Prop :=
  ∀ (s : State) (c : Nat) (x : Cmd) (q : Queue),
    let d := x.desc
    (∀ m l0 p place v, Runnable s c 0x92 x q → flowFirst s x [] = .ok () →
      let w := claimAtStart s c x
      readPartition w q d = .ok m → needFlow w c x = .ok () → acceptLaunch w x q (some m) (dFlow d) = .ok (l0, p, place) →
      let l := { l0 with digest := launchDigest (peekVa w q.port q.pasid (dField d 0x10 8) 64) l0 p }
      startLaunch c w x q l p place (w.opx.member == 0) = .run v →
      (l.seed = none → w.opx.member = 0 → exec (.boundaryExchange c) s = runsOn s v c) ∧
      (l.seed ≠ none ∨ w.opx.member ≠ 0 → exec (.boundaryExchange c) s = runsOn s (beginStream v l) c)) ∧
    (∀ h img, Runnable s c 0x95 x q → timingReady s = .ok () →
      needDesc d 0x1901 [(0x18, decide (dField d 0x18 4 < 32)), (0x1C, targetBad s (dField d 0x1C 1))] = .ok () →
      readVa s q.port q.pasid (dField d 0x10 8) 32 = .ok h → needFields 0x1901 (imageFields h) = .ok () →
      dField d 0x18 4 = 32 + 16 * ((List.range 6).map fun k => fieldOf h (8 + 2 * k) 2).sum →
      readVa s q.port q.pasid (dField d 0x10 8) (dField d 0x18 4) = .ok img →
      (dField d 0x1C 1 = s.opx.member → imageBad s img = none → s.opx.armed = false →
        exec (.scheduleLoad c) s = endsWell s { s with opx := { s.opx with pendingBank := imageBank img } } c 0) ∧
      (dField d 0x1C 1 ≠ s.opx.member → exec (.scheduleLoad c) s = runsOn s
        ((imageTo s (Config.memberHall (dField d 0x1C 1)) img).modCmd c fun y => { y with saved := fieldOf img 0 4 }) c)) ∧
    (timingReady s = .ok () ↔ s.opx.timing ≠ .unlocked ∧ s.opx.timing ≠ .locking ∧ s.sec.lifecycle = 2 ∧ s.opx.stopped = false) ∧
    (Runnable s c 0x96 x q → needDesc d 0x1901 [] = .ok () → timingReady s = .ok () →
      bankBad s s.opx.pendingBank (fun _ _ => false) = none →
      s.opx.frame + 16 ≤ dField d 0x18 8 → allLoaded s (dField d 0x10 4) = true →
      let v := { s with opx := { s.opx with armed := true, transom := dField d 0x18 8, acked := [] } }
      (s.opx.role = 0 → exec (.scheduleArm c) s = endsWell s v c 0) ∧
      (s.opx.role = 1 → exec (.scheduleArm c) s = runsOn s
        ((tellMembers v (.arm (dField d 0x10 4) (dField d 0x18 8))).modCmd c fun y => { y with saved := dField d 0x10 4 }) c))

/-- Problem commands: a checked source becomes a problem with a new handle; a rescale keeps handle, ladder and networks; an
update replaces linear terms, state or constant; free removes the problem; energy writes its record; a term is attached to or
removed from a range of blocks; a ladder is stored or removed; a result read writes
a snapshot of a launch, taken when the read was accepted (03 R88-R93,
04 R127, R138, 05 R153; details of faults left open, log entries 28 and 29). -/
def Obligations.ProblemCommandsComplete : Prop :=
  ∀ (s : State) (c : Nat) (x : Cmd) (q : Queue) (i : Nat) (old p : Problem) (src : Source84) (v : State),
    let d := x.desc
    (∀ g, Runnable s c 0x50 x q → readSource s q d none = .ok src → buildProblem s q d src = .ok p →
      newIndex 65536 (fun i => (tblFind s.spin.problems i).isSome) s.spin.gens = some (i, g) → p.storedBytes ≤ s.areaFree →
      writeReport s q src p = .ok v →
      let w := v.setProblem i { p with gen := g }
      exec (.load c) s = endsWell s { w with spin := { w.spin with gens := tblPut w.spin.gens i g } } c
        (BitVec.ofNat 128 (mkHandle 2 g i + p.blocks.length * 2 ^ 64 + expByte s.draws p.eps * 2 ^ 96))) ∧
    (needIdle s q.port (dField d 0x20 8) false = .ok (i, old) →
      (∀ nets, Runnable s c 0x51 x q → readSource s q d (some old) = .ok src → buildProblem s q d src = .ok p →
        rebind old p = .ok nets → p.storedBytes ≤ s.areaFree + old.storedBytes → writeReport s q src p = .ok v →
        exec (.rescale c) s = endsWell s (v.setProblem i { p with
          gen := old.gen, port := old.port, pasid := old.pasid, ladder := old.ladder, nets := nets,
          blockNet := old.blockNet }) c 0) ∧
      (Runnable s c 0x52 x q → needFields 0x6C20 (termFields d old.blocks.length) = .ok () → dField d 0x10 8 = 0 →
        exec (.registerNeuralTerm c) s =
          endsWell s (s.setProblem i (detachNet old (dField d 0x18 4) (dField d 0x1C 4))) c 0) ∧
      (∀ r ls t, Runnable s c 0x52 x q → needFields 0x6C20 (termFields d old.blocks.length) = .ok () → dField d 0x10 8 ≠ 0 →
        readVa s q.port q.pasid (dField d 0x10 8) 64 = .ok r → needFields 0x6C20 (netFields r) = .ok () →
        (∀ k, k < dField d 0x1C 4 → (old.blocks[dField d 0x18 4 + k]?).map (·.vars.length) = some (fieldOf r 0 4)) →
        readLayers s q r = .ok ls → checkLayers 1 ls = .ok () →
        checkBiases 1 [(quantNet old.spin r ls).b1, (quantNet old.spin r ls).b2, [(quantNet old.spin r ls).b3]] = .ok () →
        bindNet (quantNet old.spin r ls) old.eps = some t → t.bytes ≤ s.areaFree →
        exec (.registerNeuralTerm c) s =
          endsWell s (s.setProblem i (attachNet old (dField d 0x18 4) (dField d 0x1C 4) t)) c (netResult t)) ∧
      (∀ h lost init, Runnable s c 0x53 x q → needDesc d 0x6C01 [(0x2C, decide (8 ≤ dField d 0x2C 1))] = .ok () →
        updateLinear s q d old = .ok (h, lost) →
        (bit (dField d 0x2C 1) 2 = true → (fpRat (dField d 0x28 4)).isSome = true) →
        checkRange old.blockOf old.blocks h = .ok () →
        (if bit (dField d 0x2C 1) 1 then readState s q (dField d 0x18 8) old.n old.groupsOf else .ok old.init) = .ok init →
        checkState old.groupsOf init = .ok () →
        exec (.update c) s = endsWell s (s.setProblem i { old with
          h := h, vanishedLinear := lost, init := init,
          constant := if bit (dField d 0x2C 1) 2 then dField d 0x28 4 else old.constant }) c 0) ∧
      (Runnable s c 0x61 x q → dField d 0x10 8 = 0 →
        exec (.ladderSet c) s = endsWell s (s.setProblem i { old with ladder := none }) c 0) ∧
      (∀ n l, Runnable s c 0x61 x q → dField d 0x10 8 ≠ 0 → readArray s q (dField d 0x10 8) 4 1 = .ok [n] → n ≠ 0 → n ≤ 64 →
        readArray s q (dField d 0x10 8 + 4) 4 n = .ok l → (∀ k, k < n → badMultiplier l k = false) →
        exec (.ladderSet c) s = endsWell s (s.setProblem i { old with ladder := some l }) c 0)) ∧
    (needIdle s q.port (dField d 0x20 8) true = .ok (i, old) → needDesc d 0x6C01 [] = .ok () → Runnable s c 0x54 x q →
      exec (.free c) s = endsWell s { s with spin := { s.spin with problems := tblDel s.spin.problems i } } c 0) ∧
    (needProblem s q.port (dField d 0x20 8) false = .ok (i, old) →
      (∀ bits, Runnable s c 0x55 x q → needDesc d 0x6C01 [] = .ok () →
        readState s q (dField d 0x10 8) old.n old.groupsOf = .ok bits → checkState old.groupsOf bits = .ok () →
        writeVa { s with draws := s.draws + 1 } q.port q.pasid (dField d 0x18 8) (energyRecord s.draws old bits) = .ok v →
        exec (.energy c) s = endsWell s v c 0) ∧
      (∀ l k, Runnable s c 0x62 x q → x.kept = [] →
        s.spin.launches.find? (fun e => e.2.problem == i && e.2.resultAddr == dField d 0x10 8) = some (k, l) →
        l.areaSize old ≤ dField d 0x28 8 →
        let area := resultArea s.draws l old false
        writeVa ({ s with draws := s.draws + 1 }.modCmd c fun y => { y with kept := [(0, area)] }) q.port q.pasid
          (dField d 0x18 8) area = .ok v →
        exec (.resultRead c) s = endsWell s v c 0)) ∧
    (∀ n area rest, Runnable s c 0x62 x q → x.kept = (n, area) :: rest →
      writeVa s q.port q.pasid (dField d 0x18 8) area = .ok v → exec (.resultRead c) s = endsWell s v c 0)

/-- Every block of an accepted source: 1 to 2048 variables, at most 64 neighbour blocks, 2^20 inter-block couplings and 256
groups; its couplings join two different variables of it, its groups are apart and each has one hot member in the initial
state (03 R74-R77, R86, R89). -/
def Obligations.AcceptedSourcesMakeSoundBlocks : Prop :=
  ∀ (s : State) (q : Queue) (d : Desc) (old : Option Problem) (x : Source84) (p : Problem),
    readSource s q d old = .ok x → buildProblem s q d x = .ok p →
    ∀ b, b < p.blocks.length →
      let k := p.block b
      1 ≤ k.vars.length ∧ k.vars.length ≤ 2048 ∧ k.neighbours.length ≤ 64 ∧ k.interCount ≤ 2 ^ 20 ∧ k.groups.length ≤ 256 ∧
        CouplingsOk k ∧ GroupsOk k.groups k.vars.length ∧ OneHot k.groups (k.local p.init)

/-- The energy change of a move by R73's table: a flip in bit and spin form, a pair move with its mutual coupling, and the field
change of every other variable; a network's change is added; and it is exactly the change of the block's energy against its
neighbour values (03 R72, R73, R105). The model's integers are unbounded, so the change is formed exactly. -/
def Obligations.MoveEnergyIsTheChange : Prop :=
  ∀ (p : Problem) (bn : Nat) (run : BlockRun),
    let b := p.block bn
    let n := b.vars.length
    let F := fun (bits : List Bool) (k : Nat) => fieldAt p b bits run.x k
    let v := fun (bits : List Bool) (k : Nat) => spinVal p.spin (nth false bits k)
    let J := couplingAt b
    CouplingsOk b → run.bits.length = n → run.x.length = n →
    (∀ i, i < n →
      (p.spin = false → moveEnergy p b run.bits run.x [i] = (1 - 2 * v run.bits i) * F run.bits i) ∧
      (p.spin = true → moveEnergy p b run.bits run.x [i] = -2 * v run.bits i * F run.bits i) ∧
      ∀ k, k < n → k ≠ i →
        F (applyMove run.bits [i]) k = F run.bits k + J k i * (v (applyMove run.bits [i]) i - v run.bits i)) ∧
    (∀ h i, h < n → i < n → nth false run.bits h = true → nth false run.bits i = false →
      (p.spin = false → moveEnergy p b run.bits run.x [h, i] = F run.bits i - F run.bits h - J h i) ∧
      (p.spin = true → moveEnergy p b run.bits run.x [h, i] = 2 * F run.bits i - 2 * F run.bits h - 4 * J h i)) ∧
    ∀ move, ((∃ i, i < n ∧ move = [i]) ∨ ∃ h i, h ≠ i ∧ h < n ∧ i < n ∧ move = [h, i]) →
      (run.neural = blockNeural p bn run.bits → moveTotal p bn run move = moveEnergy p b run.bits run.x move +
        (blockNeural p bn (applyMove run.bits move) - blockNeural p bn run.bits)) ∧
      let after := applyMove run.bits move
      blockOwn p b after + blockP p after run.x = blockOwn p b run.bits + blockP p run.bits run.x +
        moveEnergy p b run.bits run.x move

/-- A launch starts: accepted, it is stored with its placement, its command runs on, and a launch that needs a seed waits at its
port's generator; a seed that arrives is taken, an eligible engine too (04 R110, R122, R141; 05 R161). That the placement is made
at acceptance, with a launch whose neural-term pairs wait on no engine yet, is the model's reading (log entry 30), and so is that
the result area is a destination only once the seed is there (log entry 29).
A launch completes: with its seed there and every epoch done, the result area is written and the command ends with the seed
and the epochs done; before that it goes on (04 R111, R135). -/
def Obligations.LaunchesStartAndComplete : Prop :=
  (∀ (s : State) (c : Nat) (x : Cmd) (q : Queue) (l : Launch) (p : Problem),
     (∀ place, Runnable s c 0x60 x q → acceptLaunch s x q none 0 = .ok (l, p, place) →
       (l.seed ≠ none ∨ (s.host q.port).ent.state ≠ .permanentFault) →
       let k := placed l q.engines place
       let v := holdSlots (s.setLaunch c k) c x.queue k
       exec (.annealLaunch c) s = runsOn s ((if l.seed = none then askSeed v q.port c else v).modCmd c fun y =>
         { y with dests := if l.seed = none then [] else resultDest k p }) c) ∧
     (∀ v, LaunchAt s c l p x q → l.seed = none → l.seedSent = some v → l.partition = none →
       exec (.runSeedArrival c) s = .next ((s.setLaunch c { l with seed := some v, seedSent := none }).modCmd c fun y =>
         { y with dests := resultDest l p })) ∧
     (∀ y, LaunchAt s c l p x q → l.waitingEngine = true →
       placeLaunch s l.queue (realTime q) l.engines { p with placement := 2 } l.keys = .ok y → y.waits = false →
       let k := placed l l.engines y
       exec (.neuralEngineEligible c) s = nextKeeping s (holdSlots (s.setLaunch c k) c l.queue k))) ∧
  (∀ (s v : State) (c : Nat) (x : Cmd) (q : Queue) (l : Launch) (p : Problem), LaunchAt s c l p x q → l.partition = none →
     (l.seed ≠ none → l.stop ≤ l.epochsDone →
       writeVa { s with draws := s.draws + 1 } q.port q.pasid l.resultAddr
         (resultArea s.draws l p (l.stop == l.totalEpochs)) = .ok v →
       exec (.launchComplete c) s = endsWell s v c (BitVec.ofNat 128 ((l.seed.getD 0).toNat + l.epochsDone * 2 ^ 64))) ∧
     (l.seed = none ∨ l.epochsDone < l.stop → exec (.launchComplete c) s = .next s))

/-- One batch: the block's accepted moves are committed to its state, its deferred candidates wait, a finished sweep ends, its
engine counts a batch; no other pair of the launch and no byte of memory changes (03 R97, R101-R104). With its louvre at n/16 an
engine takes at most n of every 16 opportunities, and one not taken passes with no batch (13 R399; log entry 36). A table that is complete
lets a held block go on; none of a block that is saved out is completed (04 R117, R118). -/
def Obligations.BatchesCommitTheirMoves : Prop :=
  ∀ (s : State) (c r b : Nat) (x : Cmd) (q : Queue) (l : Launch) (p : Problem) (run : BlockRun), LaunchAt s c l p x q →
    l.run? p r b = some run →
    (∀ seed, l.seed = some seed → batchMay s q l (r * p.nb + b) run = true → batchTurn s run.engine = true →
      ((s.eng run.engine).louvre ≤ ((s.eng run.engine).issues.filter id).length → exec (.annealBatch c r b) s = .next
        (s.modEng run.engine fun g => { g with issues := (false :: g.issues).take 15 })) ∧
      (((s.eng run.engine).issues.filter id).length < (s.eng run.engine).louvre →
      let n := (p.block b).vars.length
      let fresh := fetchVisits run.next n (64 - run.pending.length)
      let ok := accepts l p seed r b run
      let d := if l.concurrent then decideConc (p.block b) ok [] fresh else decideSeq p b ok [] (run.pending ++ fresh)
      let run1 := commitBatch p b run d (run.next + fresh.length)
      let run2 := if n ≤ run.next + fresh.length ∧ d.deferred = [] then (endSweep l p b run1).1 else run1
      ∃ t k y, exec (.annealBatch c r b) s = .next t ∧ tblFind t.spin.launches c = some k ∧ k.run? p r b = some y ∧
        y = { run2 with tallies := y.tallies } ∧
        y.bits = (d.accepted.map (moveOf (p.block b) run.bits)).foldl applyMove run.bits ∧
        (tblGet {} y.tallies run.epoch).deferrals = (tblGet {} run.tallies run.epoch).deferrals + d.deferred.length ∧
        (∀ j, j ≠ r * p.nb + b → tblFind k.runs j = tblFind l.runs j) ∧ t.mem = s.mem ∧
        (t.eng run.engine).batches = (statUp (s.eng run.engine).batches 1).1)) ∧
    (run.backgroundDone = false → run.foreground + 1 < l.schedule.length →
      (engineSaved s q run.engine = true → exec (.tableRebuildComplete c r b) s = .next s) ∧
      (engineSaved s q run.engine = false → run.lateHeld = false →
        exec (.tableRebuildComplete c r b) s = .next (s.setLaunch c (l.setRun p r b { run with backgroundDone := true }))) ∧
      (engineSaved s q run.engine = false → run.lateHeld = true →
        run.sweep < l.totalSweeps → stepOf l.schedule run.sweep ≠ run.foreground →
        exec (.tableRebuildComplete c r b) s = .next (s.setLaunch c (l.setRun p r b
          { run with foreground := run.foreground + 1, backgroundDone := false, lateHeld := false }))))

/-- Each group keeps exactly one hot member (03 R98): through every batch, sequential or concurrent, of a block with sound groups;
and every step, whatever its command, keeps all groups of all blocks of all positions of all launches so, with every problem
stored sound. Launches that a boundary exchange shares are not spoken of: they take over bits that other modules send. -/
def Obligations.GroupsKeepOneHotMember : Prop :=
  (∀ (p : Problem) (bn : Nat) (run : BlockRun) (ok : Nat → Bool) (cands : List Nat) (next : Nat),
    let b := p.block bn
    GroupsOk b.groups run.bits.length → OneHot b.groups run.bits →
    (∀ i, ok i = true → moveOf b run.bits i ≠ []) →
    OneHot b.groups (commitBatch p bn run (decideSeq p bn ok [] cands) next).bits ∧
    OneHot b.groups (commitBatch p bn run (decideConc b ok [] cands) next).bits) ∧
  ∀ s t : State, HotOk s → Steps s t → HotOk t

/-- Epochs: at its last sweep a block takes its snapshot and, with its neighbours' values held, contributes; values that come are
held under their epoch; once every block of a position has contributed its energy is reduced; the next epoch starts from the
neighbours' values, and a block whose start waits for them counts it once; a streamed pair whose turn comes is on its engine (04
R123-R125, R133; 11 R336). -/
def Obligations.EpochsOfALaunch : Prop :=
  ∀ (s : State) (c r b : Nat) (x : Cmd) (q : Queue) (l : Launch) (p : Problem), LaunchAt s c l p x q → l.partition = none →
    (∀ run, l.run? p r b = some run →
      (run.phase = .sweeping → run.sweep = l.epochEnd run.epoch →
        ∃ t k y, exec (.epochEnd c r b) s = .next t ∧ tblFind t.spin.launches c = some k ∧ k.run? p r b = some y ∧
          tblFind y.snapshots run.epoch = some run.bits ∧ y.bits = run.bits ∧ t.mem = s.mem ∧
          (holdsAll p b run run.epoch = true → y.phase = .contributed) ∧
          (holdsAll p b run run.epoch = false → y.phase = .ended)) ∧
      (∀ source other v, (p.block b).neighbours.contains source = true →
        inboundOf run source (nextInbound run source) = none → l.run? p r source = some other →
        tblFind other.snapshots (nextInbound run source) = some v →
        ∃ t k y, exec (.boundaryValuesReceived c r b source) s = .next t ∧ tblFind t.spin.launches c = some k ∧
          k.run? p r b = some y ∧ inboundOf y source (nextInbound run source) = some v ∧ y.bits = run.bits ∧ t.mem = s.mem) ∧
      (run.phase = .contributed → run.epoch + 1 < l.stop → run.lateHeld = false → exchangePassed l r run.epoch = true →
        engineEnded l run = true → engineTaken s q run.engine = false →
        ∃ t k y, exec (.epochStart c r b) s = .next t ∧ tblFind t.spin.launches c = some k ∧ k.run? p r b = some y ∧
          y.phase = .sweeping ∧ y.epoch = run.epoch + 1 ∧ y.sweep = (run.epoch + 1) * l.epochSweeps ∧ y.bits = run.bits ∧
          y.x = blockInterWith p (p.block b) (lookInbound p run run.epoch) ∧ t.mem = s.mem) ∧
      (run.phase = .ended → run.waited = false → run.epoch + 1 < l.stop →
        ∃ t k y, exec (.epochStart c r b) s = .next t ∧ tblFind t.spin.launches c = some k ∧ k.run? p r b = some y ∧
          y.waited = true ∧ y.phase = .ended ∧ y.bits = run.bits ∧ t.mem = s.mem ∧
          (t.eng run.engine).epochWaits = (statUp (s.eng run.engine).epochWaits 1).1) ∧
      (l.streamed = true → run.pagedIn = false → pairRank l (r * p.nb + b) run ≤ 1 →
        exec (.blockPageInComplete c r b) s = .next (s.setLaunch c (l.setRun p r b { run with pagedIn := true })))) ∧
    (∀ e twice n, reducible l r = true → e = (l.rep r).reduced → ownSums l p r e = some (twice, n) →
      exchangePartner l e r = none →
      ∃ t k, exec (.energyReduction c r) s = .next t ∧ tblFind t.spin.launches c = some k ∧
        (k.rep r).epochsDone = e + 1 ∧ (k.rep r).finalQuad = twice / 2 ∧ (k.rep r).finalNeural = n ∧
        (k.rep r).bestQuad + (k.rep r).bestNeural = min ((l.rep r).bestQuad + (l.rep r).bestNeural) (twice / 2 + n) ∧
        (∀ j, j ≠ r → k.rep j = l.rep j) ∧ t.mem = s.mem)

/-- A step with a command at the front of the queue is that command on the state with the queue's rest; a step on an empty
queue is one tick of 10 ns of the local timers (the tick is the model's choice, log entry 5). -/
def Obligations.AStepRunsTheFrontCommand : Prop :=
  ∀ (s : State) (c : Instr) (rest : List Instr),
    step { s with pending := c :: rest } = exec c { s with pending := rest } ∧
    step { s with pending := [] } = .next { s with pending := [], time := s.time + 10 }

/-- What a command can answer: a next state with the queue as it was when its operands name parts the module has, else the
fault noSuchPart; on a module that runs no work (not booted, boot-failed, stopped, in reset, scrapped) a command that needs a
running module changes nothing (14 R426, R433; 16 R473, R477; log entries 4 and 40); a BAR0 write with a row of its own that
does not reach BAR0 changes nothing but the answer Unsupported Request of a port whose link is up (16 R472, 17 R502). -/
def Obligations.WhatACommandAnswers : Prop :=
  ∀ (c : Instr) (s : State),
    (c.wf = true → ∃ t, exec c s = .next t ∧ t.pending = s.pending) ∧
    (c.wf = false → exec c s = .fault .noSuchPart) ∧
    (c.wf = true → s.works = false → c.actsAlways = false → exec c s = .next s) ∧
    ∀ p, c.wf = true → s.works = true → c.bar0Port = some p → s.barReached p = false →
      exec c s = .next (if (s.port p).linkUp then { s with sent := s.sent ++ [.unsupportedRequest p] } else s)

/-- Right after reset nothing waits, memory lists nothing, the invariants hold, and through either port each register whose row of
the register map gives a value reads it: the single registers of the global windows, the arrays, and the registers of the dies,
at every index (17 R494, R496). Left out are the rows that give no value (live, stored, or set by a boot) but for their fields
that the row states, the two values of ENT_RNG (14 R423: a 32-bit read gives zero), and what training finds (`per die`). The
command and power bits of R502 at reset are log entry 3. -/
def Obligations.ResetLeavesTheListedValues : Prop :=
  let s := State.reset
  QueueOk s ∧ MemoryOk s ∧ PagesOnce s ∧ HotOk s ∧ s.pending = [] ∧ s.mem = [] ∧
  (∀ p : Port, (s.port p).memEnable = false ∧ (s.port p).busMaster = false ∧ (s.port p).d3hot = false) ∧
  (∀ e ∈ ([
    (0x000000, 0x764A100), (0x000004, 0x1000100), (0x000008, 0x30080602), (0x00000C, 0x3000300), (0x000010, 0xC00000),
    (0x000014, 0x4000), (0x000018, 0x0), (0x00001C, 0xC9), (0x100008, 0x0), (0x10000C, 0x0), (0x100010, 0x3D0900),
    (0x100014, 0x6403E8), (0x100018, 0x0), (0x200100, 0x0), (0x300000, 0x1068), (0x300004, 0x0), (0x300008, 0x0),
    (0x300010, 0x0), (0x300014, 0x0), (0x300018, 0x0), (0x400000, 0x20000000), (0x40000C, 0x0),
    (0x400010, 0x0), (0x400014, 0x0), (0x408018, 0x0), (0x40801C, 0x0), (0x500008, 0x0), (0x50000C, 0x0),
    (0x500010, 0x40), (0x500018, 0x80000000), (0x50001C, 0xB8), (0x500020, 0x0), (0x500024, 0x0),
    (0x600000, 0xA106E000), (0x600004, 0xCBB), (0x600014, 0x0), (0x700000, 0xFFFF), (0x700004, 0x27100400),
    (0x700008, 0x0), (0x70000C, 0x0), (0x700010, 0x0), (0x700014, 0x7D0), (0x700018, 0x0), (0x700020, 0x300),
    (0x700024, 0xFFFF), (0x700028, 0x0), (0x70002C, 0x0), (0x700030, 0x0), (0x700038, 0x0), (0x70003C, 0x0),
    (0x700040, 0x0), (0x700044, 0x0), (0x700048, 0x0), (0x70004C, 0x0), (0x700050, 0x0), (0x800000, 0x0),
    (0x800004, 0x0), (0x800048, 0x0), (0x80004C, 0x0), (0x800080, 0x0), (0x800084, 0x0), (0x800088, 0x0),
    (0x800090, 0x0), (0x8000A0, 0x0), (0x8000B0, 0x0), (0x900000, 0x0), (0x900008, 0x80000000), (0x90000C, 0x0),
    (0x900010, 0x0), (0x900014, 0x0)] : List (Nat × Nat)),
    ∀ p, readReg s p e.1 = e.2) ∧
  readReg s .A 0x000020 = 0x18080200 ∧ readReg s .B 0x000020 = 0x18080201 ∧
  ∀ p : Port,
  (∀ n, n < 24 → readReg s p (0x000040 + 4 * n) = 0xFFFFFFFF ∧ readReg s p (0x100040 + 4 * n) = 0 ∧
    readReg s p (0x1000C0 + 4 * n) = 0 ∧ readReg s p (0x500040 + 4 * n) % 2 ^ 30 = 0) ∧
  (∀ n w, n < 12288 → w < 4 → readReg s p (0x110000 + 16 * n + 4 * w) = 0) ∧
  (∀ k, k < 32 → readReg s p (0x200000 + 4 * k) = 0 ∧ readReg s p (0x200080 + 4 * k) = 0) ∧
  (∀ n, n < 2048 → readReg s p (0x201000 + 4 * n) = 1) ∧
  (∀ n, n < 256 → readReg s p (0x300400 + 4 * n) % 256 = 0x87) ∧
  (∀ n, n < 8 → readReg s p (0x800010 + 4 * n) = 0) ∧
  ∀ d, d < 64 →
    let reads := fun (off v : Nat) => readReg s p (0x1000000 + 0x80000 * d + off) = v
    let word := fun (off : Nat) => readReg s p (0x1000000 + 0x80000 * d + off)
    reads 0x14 0 ∧ reads 0x18 0 ∧ reads 0x20 0 ∧ word 0x40008 / 2 ^ 8 % 2 ^ 8 = 0 ∧
    word 0x40000 / 2 ^ 29 = (if d < 48 then 2 else 3) ∧ (48 ≤ d → reads 0x40004 0xFFFF) ∧
    (d < 48 → (∀ e, e < 16 →
        (reads (0x400 + 4 * e) 0 ∧ reads (0x440 + 4 * e) 0 ∧ reads (0x480 + 4 * e) 0 ∧ reads (0x4C0 + 4 * e) 0) ∧
        (∀ k, k < 6 → reads (0x20000 + 0x40 * e + 4 * k) 0) ∧ (∀ m, m < 8 → reads (0x30000 + 0x40 * e + 4 * m) 0) ∧
        reads (0x30020 + 0x40 * e) 0 ∧ reads (0x30028 + 0x40 * e) 0) ∧
      reads 0x30400 0x800003E8 ∧ (∀ n, n < 4 → reads (0x40010 + 4 * n) 0x10101010) ∧ reads 0x40020 0) ∧
    (56 ≤ d → d < 62 → (∀ n, n < 24 → reads (0x10000 + 4 * n) 0xC0FF0000 ∧ reads (0x10080 + 4 * n) 0xFFFF0000) ∧
      reads 0x10100 0) ∧
    (62 ≤ d → (∀ n, n < 1024 → reads (0x50000 + 4 * n) 0x10000 ∧ reads (0x51000 + 4 * n) 0) ∧
      (∀ k, k < 32 → reads (0x52000 + 4 * k) 0xFFFFFFFF ∧ reads (0x52080 + 4 * k) 0xFFFFFFFF ∧ reads (0x52100 + 4 * k) 0 ∧
        reads (0x52180 + 4 * k) 0 ∧ reads (0x52200 + 4 * k) 0) ∧
      (∀ c, c < 4 → reads (0x53008 + 0x40 * c) 0 ∧ reads (0x5300C + 0x40 * c) 0x03FF03FF ∧ reads (0x53010 + 0x40 * c) 1) ∧
      (∀ m, m < 8 → reads (0x30000 + 4 * m) 0) ∧ reads 0x30020 0 ∧ reads 0x30028 0 ∧ reads 0x30400 0x800003E8)

/-- The frame of every command: the clock and the queue of waiting commands stay, and so does every part of the state that the
command does not touch (`Instr.touches` lists the parts each command can change; one that stores nothing keeps all memory). Of memory,
every byte stays but those that `Instr.mayWrite` names, each by the key that its address has: for commands that write no data of
their own the 32 bytes of the places of completion rings, the answers of mailbox requests and the windows they name, node records,
fence mirrors, what the end of a task writes, pages being zeroed, and what a command that faults was writing. -/
def Obligations.CommandsKeepTheOtherParts : Prop :=
  ∀ (c : Instr) (s t : State), exec c s = .next t →
    t.time = s.time ∧ t.pending = s.pending ∧ (∀ p : Part, p ∉ c.touches → p.same s t) ∧
    ∀ k, ¬ c.mayWrite s k → memGet t.mem k = memGet s.mem k

/-- The life cycle moves only along its table, and by the command that the table names: to PROVISIONED by an authorisation, to
DEPLOYED by a hall key, back by a withdrawal or, after a mesh tamper event, at power-on, to RETURNED by a return, to SCRAPPED
by a scrap (a generator's grant serves an authorisation or a key load that waits for it). Each move takes one transition of the
record, a request moves it only while no queue exists, and SCRAPPED is never left (14 R433-R435). -/
def Obligations.LifeCycleFollowsItsTable : Prop :=
  ∀ (c : Instr) (s t : State), exec c s = .next t → s.sec.lifecycle ≤ 4 → t.sec.lifecycle ≠ s.sec.lifecycle →
    t.sec.transitionsLeft = s.sec.transitionsLeft - 1 ∧ s.sec.lifecycle ≠ 4 ∧
    ((((∃ p, c = .generatorGrant p) ∨ c = .vendorAuthorisation .A) ∧ s.sec.lifecycle ∈ [0, 3] ∧ t.sec.lifecycle = 1 ∧
        s.qfe.queues = []) ∨
      (((∃ p, c = .generatorGrant p) ∨ c = .loadHallKey .A) ∧ s.sec.lifecycle = 1 ∧ t.sec.lifecycle = 2 ∧ s.qfe.queues = []) ∨
      (c = .withdrawHallKey .A ∧ s.sec.lifecycle = 2 ∧ t.sec.lifecycle = 1 ∧ s.qfe.queues = []) ∨
      ((∃ a b k d e f, c = .powerOn a b k d e f) ∧ s.sec.meshTampered = true ∧ s.sec.lifecycle = 2 ∧ t.sec.lifecycle = 1) ∨
      (c = .returnModule .A ∧ s.sec.lifecycle ∈ [1, 2] ∧ t.sec.lifecycle = 3 ∧ s.qfe.queues = []) ∨
      (c = .scrap .A ∧ s.sec.lifecycle ∈ [1, 2, 3] ∧ t.sec.lifecycle = 4 ∧ s.qfe.queues = []))

/-- No command stops the block: in a queue whose commands name only parts the module has, every step answers a next state,
and what waits then is the rest, each command still naming parts the module has. -/
def Obligations.TheBlockNeverStops : Prop :=
  ∀ s : State, QueueOk s → ∃ t, Steps s t ∧ QueueOk t ∧ t.pending = s.pending.drop 1

/-- Every step keeps the byte memory in canonical form: keys strictly rising, no byte listed that an unlisted one reads as
(the form and the 0 of an unlisted byte are the model's, log entry 1). Every step also keeps each page of a stack mapped once at most,
those included that a map request is zeroing (11 R331, R333). -/
def Obligations.EveryStepKeepsTheMemoryForm : Prop :=
  (∀ s t : State, MemoryOk s → Steps s t → MemoryOk t) ∧ ∀ s t : State, PagesOnce s → Steps s t → PagesOnce t
end

