-- ==== Sys2Proof/Laws/State.lean ====
section
/-! SUPPORT. One lemma per field of the state and per update of a part of it: what the update leaves as it was. -/

namespace Sys2Proof.Machine

/-! ### `State.setEng` -/

@[simp] theorem State.setEng_pending (s : State) (e : Nat) (x : Engine) : (s.setEng e x).pending = s.pending := rfl
@[simp] theorem State.setEng_time (s : State) (e : Nat) (x : Engine) : (s.setEng e x).time = s.time := rfl
@[simp] theorem State.setEng_draws (s : State) (e : Nat) (x : Engine) : (s.setEng e x).draws = s.draws := rfl
@[simp] theorem State.setEng_reply (s : State) (e : Nat) (x : Engine) : (s.setEng e x).reply = s.reply := rfl
@[simp] theorem State.setEng_sent (s : State) (e : Nat) (x : Engine) : (s.setEng e x).sent = s.sent := rfl
@[simp] theorem State.setEng_mem (s : State) (e : Nat) (x : Engine) : (s.setEng e x).mem = s.mem := rfl
@[simp] theorem State.setEng_mesh (s : State) (e : Nat) (x : Engine) : (s.setEng e x).mesh = s.mesh := rfl
@[simp] theorem State.setEng_dies (s : State) (e : Nat) (x : Engine) : (s.setEng e x).dies = s.dies := rfl
@[simp] theorem State.setEng_banks (s : State) (e : Nat) (x : Engine) : (s.setEng e x).banks = s.banks := rfl
@[simp] theorem State.setEng_cmds (s : State) (e : Nat) (x : Engine) : (s.setEng e x).cmds = s.cmds := rfl
@[simp] theorem State.setEng_jobs (s : State) (e : Nat) (x : Engine) : (s.setEng e x).jobs = s.jobs := rfl
@[simp] theorem State.setEng_arrays (s : State) (e : Nat) (x : Engine) : (s.setEng e x).arrays = s.arrays := rfl
@[simp] theorem State.setEng_qfe (s : State) (e : Nat) (x : Engine) : (s.setEng e x).qfe = s.qfe := rfl
@[simp] theorem State.setEng_portA (s : State) (e : Nat) (x : Engine) : (s.setEng e x).portA = s.portA := rfl
@[simp] theorem State.setEng_portB (s : State) (e : Nat) (x : Engine) : (s.setEng e x).portB = s.portB := rfl
@[simp] theorem State.setEng_spin (s : State) (e : Nat) (x : Engine) : (s.setEng e x).spin = s.spin := rfl
@[simp] theorem State.setEng_grf (s : State) (e : Nat) (x : Engine) : (s.setEng e x).grf = s.grf := rfl
@[simp] theorem State.setEng_hbm (s : State) (e : Nat) (x : Engine) : (s.setEng e x).hbm = s.hbm := rfl
@[simp] theorem State.setEng_fls (s : State) (e : Nat) (x : Engine) : (s.setEng e x).fls = s.fls := rfl
@[simp] theorem State.setEng_opx (s : State) (e : Nat) (x : Engine) : (s.setEng e x).opx = s.opx := rfl
@[simp] theorem State.setEng_pwr (s : State) (e : Nat) (x : Engine) : (s.setEng e x).pwr = s.pwr := rfl
@[simp] theorem State.setEng_hostA (s : State) (e : Nat) (x : Engine) : (s.setEng e x).hostA = s.hostA := rfl
@[simp] theorem State.setEng_hostB (s : State) (e : Nat) (x : Engine) : (s.setEng e x).hostB = s.hostB := rfl
@[simp] theorem State.setEng_sec (s : State) (e : Nat) (x : Engine) : (s.setEng e x).sec = s.sec := rfl
@[simp] theorem State.setEng_flt (s : State) (e : Nat) (x : Engine) : (s.setEng e x).flt = s.flt := rfl
@[simp] theorem State.setEng_mgmt (s : State) (e : Nat) (x : Engine) : (s.setEng e x).mgmt = s.mgmt := rfl

/-! ### `State.modEng` -/

@[simp] theorem State.modEng_pending (s : State) (e : Nat) (f : Engine → Engine) : (s.modEng e f).pending = s.pending := rfl
@[simp] theorem State.modEng_time (s : State) (e : Nat) (f : Engine → Engine) : (s.modEng e f).time = s.time := rfl
@[simp] theorem State.modEng_draws (s : State) (e : Nat) (f : Engine → Engine) : (s.modEng e f).draws = s.draws := rfl
@[simp] theorem State.modEng_reply (s : State) (e : Nat) (f : Engine → Engine) : (s.modEng e f).reply = s.reply := rfl
@[simp] theorem State.modEng_sent (s : State) (e : Nat) (f : Engine → Engine) : (s.modEng e f).sent = s.sent := rfl
@[simp] theorem State.modEng_mem (s : State) (e : Nat) (f : Engine → Engine) : (s.modEng e f).mem = s.mem := rfl
@[simp] theorem State.modEng_mesh (s : State) (e : Nat) (f : Engine → Engine) : (s.modEng e f).mesh = s.mesh := rfl
@[simp] theorem State.modEng_dies (s : State) (e : Nat) (f : Engine → Engine) : (s.modEng e f).dies = s.dies := rfl
@[simp] theorem State.modEng_banks (s : State) (e : Nat) (f : Engine → Engine) : (s.modEng e f).banks = s.banks := rfl
@[simp] theorem State.modEng_cmds (s : State) (e : Nat) (f : Engine → Engine) : (s.modEng e f).cmds = s.cmds := rfl
@[simp] theorem State.modEng_jobs (s : State) (e : Nat) (f : Engine → Engine) : (s.modEng e f).jobs = s.jobs := rfl
@[simp] theorem State.modEng_arrays (s : State) (e : Nat) (f : Engine → Engine) : (s.modEng e f).arrays = s.arrays := rfl
@[simp] theorem State.modEng_qfe (s : State) (e : Nat) (f : Engine → Engine) : (s.modEng e f).qfe = s.qfe := rfl
@[simp] theorem State.modEng_portA (s : State) (e : Nat) (f : Engine → Engine) : (s.modEng e f).portA = s.portA := rfl
@[simp] theorem State.modEng_portB (s : State) (e : Nat) (f : Engine → Engine) : (s.modEng e f).portB = s.portB := rfl
@[simp] theorem State.modEng_spin (s : State) (e : Nat) (f : Engine → Engine) : (s.modEng e f).spin = s.spin := rfl
@[simp] theorem State.modEng_grf (s : State) (e : Nat) (f : Engine → Engine) : (s.modEng e f).grf = s.grf := rfl
@[simp] theorem State.modEng_hbm (s : State) (e : Nat) (f : Engine → Engine) : (s.modEng e f).hbm = s.hbm := rfl
@[simp] theorem State.modEng_fls (s : State) (e : Nat) (f : Engine → Engine) : (s.modEng e f).fls = s.fls := rfl
@[simp] theorem State.modEng_opx (s : State) (e : Nat) (f : Engine → Engine) : (s.modEng e f).opx = s.opx := rfl
@[simp] theorem State.modEng_pwr (s : State) (e : Nat) (f : Engine → Engine) : (s.modEng e f).pwr = s.pwr := rfl
@[simp] theorem State.modEng_hostA (s : State) (e : Nat) (f : Engine → Engine) : (s.modEng e f).hostA = s.hostA := rfl
@[simp] theorem State.modEng_hostB (s : State) (e : Nat) (f : Engine → Engine) : (s.modEng e f).hostB = s.hostB := rfl
@[simp] theorem State.modEng_sec (s : State) (e : Nat) (f : Engine → Engine) : (s.modEng e f).sec = s.sec := rfl
@[simp] theorem State.modEng_flt (s : State) (e : Nat) (f : Engine → Engine) : (s.modEng e f).flt = s.flt := rfl
@[simp] theorem State.modEng_mgmt (s : State) (e : Nat) (f : Engine → Engine) : (s.modEng e f).mgmt = s.mgmt := rfl

/-! ### `State.setDie` -/

@[simp] theorem State.setDie_pending (s : State) (d : Nat) (x : Die) : (s.setDie d x).pending = s.pending := rfl
@[simp] theorem State.setDie_time (s : State) (d : Nat) (x : Die) : (s.setDie d x).time = s.time := rfl
@[simp] theorem State.setDie_draws (s : State) (d : Nat) (x : Die) : (s.setDie d x).draws = s.draws := rfl
@[simp] theorem State.setDie_reply (s : State) (d : Nat) (x : Die) : (s.setDie d x).reply = s.reply := rfl
@[simp] theorem State.setDie_sent (s : State) (d : Nat) (x : Die) : (s.setDie d x).sent = s.sent := rfl
@[simp] theorem State.setDie_mem (s : State) (d : Nat) (x : Die) : (s.setDie d x).mem = s.mem := rfl
@[simp] theorem State.setDie_mesh (s : State) (d : Nat) (x : Die) : (s.setDie d x).mesh = s.mesh := rfl
@[simp] theorem State.setDie_engines (s : State) (d : Nat) (x : Die) : (s.setDie d x).engines = s.engines := rfl
@[simp] theorem State.setDie_banks (s : State) (d : Nat) (x : Die) : (s.setDie d x).banks = s.banks := rfl
@[simp] theorem State.setDie_cmds (s : State) (d : Nat) (x : Die) : (s.setDie d x).cmds = s.cmds := rfl
@[simp] theorem State.setDie_jobs (s : State) (d : Nat) (x : Die) : (s.setDie d x).jobs = s.jobs := rfl
@[simp] theorem State.setDie_arrays (s : State) (d : Nat) (x : Die) : (s.setDie d x).arrays = s.arrays := rfl
@[simp] theorem State.setDie_qfe (s : State) (d : Nat) (x : Die) : (s.setDie d x).qfe = s.qfe := rfl
@[simp] theorem State.setDie_portA (s : State) (d : Nat) (x : Die) : (s.setDie d x).portA = s.portA := rfl
@[simp] theorem State.setDie_portB (s : State) (d : Nat) (x : Die) : (s.setDie d x).portB = s.portB := rfl
@[simp] theorem State.setDie_spin (s : State) (d : Nat) (x : Die) : (s.setDie d x).spin = s.spin := rfl
@[simp] theorem State.setDie_grf (s : State) (d : Nat) (x : Die) : (s.setDie d x).grf = s.grf := rfl
@[simp] theorem State.setDie_hbm (s : State) (d : Nat) (x : Die) : (s.setDie d x).hbm = s.hbm := rfl
@[simp] theorem State.setDie_fls (s : State) (d : Nat) (x : Die) : (s.setDie d x).fls = s.fls := rfl
@[simp] theorem State.setDie_opx (s : State) (d : Nat) (x : Die) : (s.setDie d x).opx = s.opx := rfl
@[simp] theorem State.setDie_pwr (s : State) (d : Nat) (x : Die) : (s.setDie d x).pwr = s.pwr := rfl
@[simp] theorem State.setDie_hostA (s : State) (d : Nat) (x : Die) : (s.setDie d x).hostA = s.hostA := rfl
@[simp] theorem State.setDie_hostB (s : State) (d : Nat) (x : Die) : (s.setDie d x).hostB = s.hostB := rfl
@[simp] theorem State.setDie_sec (s : State) (d : Nat) (x : Die) : (s.setDie d x).sec = s.sec := rfl
@[simp] theorem State.setDie_flt (s : State) (d : Nat) (x : Die) : (s.setDie d x).flt = s.flt := rfl
@[simp] theorem State.setDie_mgmt (s : State) (d : Nat) (x : Die) : (s.setDie d x).mgmt = s.mgmt := rfl

/-! ### `State.modDie` -/

@[simp] theorem State.modDie_pending (s : State) (d : Nat) (f : Die → Die) : (s.modDie d f).pending = s.pending := rfl
@[simp] theorem State.modDie_time (s : State) (d : Nat) (f : Die → Die) : (s.modDie d f).time = s.time := rfl
@[simp] theorem State.modDie_draws (s : State) (d : Nat) (f : Die → Die) : (s.modDie d f).draws = s.draws := rfl
@[simp] theorem State.modDie_reply (s : State) (d : Nat) (f : Die → Die) : (s.modDie d f).reply = s.reply := rfl
@[simp] theorem State.modDie_sent (s : State) (d : Nat) (f : Die → Die) : (s.modDie d f).sent = s.sent := rfl
@[simp] theorem State.modDie_mem (s : State) (d : Nat) (f : Die → Die) : (s.modDie d f).mem = s.mem := rfl
@[simp] theorem State.modDie_mesh (s : State) (d : Nat) (f : Die → Die) : (s.modDie d f).mesh = s.mesh := rfl
@[simp] theorem State.modDie_engines (s : State) (d : Nat) (f : Die → Die) : (s.modDie d f).engines = s.engines := rfl
@[simp] theorem State.modDie_banks (s : State) (d : Nat) (f : Die → Die) : (s.modDie d f).banks = s.banks := rfl
@[simp] theorem State.modDie_cmds (s : State) (d : Nat) (f : Die → Die) : (s.modDie d f).cmds = s.cmds := rfl
@[simp] theorem State.modDie_jobs (s : State) (d : Nat) (f : Die → Die) : (s.modDie d f).jobs = s.jobs := rfl
@[simp] theorem State.modDie_arrays (s : State) (d : Nat) (f : Die → Die) : (s.modDie d f).arrays = s.arrays := rfl
@[simp] theorem State.modDie_qfe (s : State) (d : Nat) (f : Die → Die) : (s.modDie d f).qfe = s.qfe := rfl
@[simp] theorem State.modDie_portA (s : State) (d : Nat) (f : Die → Die) : (s.modDie d f).portA = s.portA := rfl
@[simp] theorem State.modDie_portB (s : State) (d : Nat) (f : Die → Die) : (s.modDie d f).portB = s.portB := rfl
@[simp] theorem State.modDie_spin (s : State) (d : Nat) (f : Die → Die) : (s.modDie d f).spin = s.spin := rfl
@[simp] theorem State.modDie_grf (s : State) (d : Nat) (f : Die → Die) : (s.modDie d f).grf = s.grf := rfl
@[simp] theorem State.modDie_hbm (s : State) (d : Nat) (f : Die → Die) : (s.modDie d f).hbm = s.hbm := rfl
@[simp] theorem State.modDie_fls (s : State) (d : Nat) (f : Die → Die) : (s.modDie d f).fls = s.fls := rfl
@[simp] theorem State.modDie_opx (s : State) (d : Nat) (f : Die → Die) : (s.modDie d f).opx = s.opx := rfl
@[simp] theorem State.modDie_pwr (s : State) (d : Nat) (f : Die → Die) : (s.modDie d f).pwr = s.pwr := rfl
@[simp] theorem State.modDie_hostA (s : State) (d : Nat) (f : Die → Die) : (s.modDie d f).hostA = s.hostA := rfl
@[simp] theorem State.modDie_hostB (s : State) (d : Nat) (f : Die → Die) : (s.modDie d f).hostB = s.hostB := rfl
@[simp] theorem State.modDie_sec (s : State) (d : Nat) (f : Die → Die) : (s.modDie d f).sec = s.sec := rfl
@[simp] theorem State.modDie_flt (s : State) (d : Nat) (f : Die → Die) : (s.modDie d f).flt = s.flt := rfl
@[simp] theorem State.modDie_mgmt (s : State) (d : Nat) (f : Die → Die) : (s.modDie d f).mgmt = s.mgmt := rfl

/-! ### `State.setBank` -/

@[simp] theorem State.setBank_pending (s : State) (b : Nat) (x : Bank) : (s.setBank b x).pending = s.pending := rfl
@[simp] theorem State.setBank_time (s : State) (b : Nat) (x : Bank) : (s.setBank b x).time = s.time := rfl
@[simp] theorem State.setBank_draws (s : State) (b : Nat) (x : Bank) : (s.setBank b x).draws = s.draws := rfl
@[simp] theorem State.setBank_reply (s : State) (b : Nat) (x : Bank) : (s.setBank b x).reply = s.reply := rfl
@[simp] theorem State.setBank_sent (s : State) (b : Nat) (x : Bank) : (s.setBank b x).sent = s.sent := rfl
@[simp] theorem State.setBank_mem (s : State) (b : Nat) (x : Bank) : (s.setBank b x).mem = s.mem := rfl
@[simp] theorem State.setBank_mesh (s : State) (b : Nat) (x : Bank) : (s.setBank b x).mesh = s.mesh := rfl
@[simp] theorem State.setBank_dies (s : State) (b : Nat) (x : Bank) : (s.setBank b x).dies = s.dies := rfl
@[simp] theorem State.setBank_engines (s : State) (b : Nat) (x : Bank) : (s.setBank b x).engines = s.engines := rfl
@[simp] theorem State.setBank_cmds (s : State) (b : Nat) (x : Bank) : (s.setBank b x).cmds = s.cmds := rfl
@[simp] theorem State.setBank_jobs (s : State) (b : Nat) (x : Bank) : (s.setBank b x).jobs = s.jobs := rfl
@[simp] theorem State.setBank_arrays (s : State) (b : Nat) (x : Bank) : (s.setBank b x).arrays = s.arrays := rfl
@[simp] theorem State.setBank_qfe (s : State) (b : Nat) (x : Bank) : (s.setBank b x).qfe = s.qfe := rfl
@[simp] theorem State.setBank_portA (s : State) (b : Nat) (x : Bank) : (s.setBank b x).portA = s.portA := rfl
@[simp] theorem State.setBank_portB (s : State) (b : Nat) (x : Bank) : (s.setBank b x).portB = s.portB := rfl
@[simp] theorem State.setBank_spin (s : State) (b : Nat) (x : Bank) : (s.setBank b x).spin = s.spin := rfl
@[simp] theorem State.setBank_grf (s : State) (b : Nat) (x : Bank) : (s.setBank b x).grf = s.grf := rfl
@[simp] theorem State.setBank_hbm (s : State) (b : Nat) (x : Bank) : (s.setBank b x).hbm = s.hbm := rfl
@[simp] theorem State.setBank_fls (s : State) (b : Nat) (x : Bank) : (s.setBank b x).fls = s.fls := rfl
@[simp] theorem State.setBank_opx (s : State) (b : Nat) (x : Bank) : (s.setBank b x).opx = s.opx := rfl
@[simp] theorem State.setBank_pwr (s : State) (b : Nat) (x : Bank) : (s.setBank b x).pwr = s.pwr := rfl
@[simp] theorem State.setBank_hostA (s : State) (b : Nat) (x : Bank) : (s.setBank b x).hostA = s.hostA := rfl
@[simp] theorem State.setBank_hostB (s : State) (b : Nat) (x : Bank) : (s.setBank b x).hostB = s.hostB := rfl
@[simp] theorem State.setBank_sec (s : State) (b : Nat) (x : Bank) : (s.setBank b x).sec = s.sec := rfl
@[simp] theorem State.setBank_flt (s : State) (b : Nat) (x : Bank) : (s.setBank b x).flt = s.flt := rfl
@[simp] theorem State.setBank_mgmt (s : State) (b : Nat) (x : Bank) : (s.setBank b x).mgmt = s.mgmt := rfl

/-! ### `State.modBank` -/

@[simp] theorem State.modBank_pending (s : State) (b : Nat) (f : Bank → Bank) : (s.modBank b f).pending = s.pending := rfl
@[simp] theorem State.modBank_time (s : State) (b : Nat) (f : Bank → Bank) : (s.modBank b f).time = s.time := rfl
@[simp] theorem State.modBank_draws (s : State) (b : Nat) (f : Bank → Bank) : (s.modBank b f).draws = s.draws := rfl
@[simp] theorem State.modBank_reply (s : State) (b : Nat) (f : Bank → Bank) : (s.modBank b f).reply = s.reply := rfl
@[simp] theorem State.modBank_sent (s : State) (b : Nat) (f : Bank → Bank) : (s.modBank b f).sent = s.sent := rfl
@[simp] theorem State.modBank_mem (s : State) (b : Nat) (f : Bank → Bank) : (s.modBank b f).mem = s.mem := rfl
@[simp] theorem State.modBank_mesh (s : State) (b : Nat) (f : Bank → Bank) : (s.modBank b f).mesh = s.mesh := rfl
@[simp] theorem State.modBank_dies (s : State) (b : Nat) (f : Bank → Bank) : (s.modBank b f).dies = s.dies := rfl
@[simp] theorem State.modBank_engines (s : State) (b : Nat) (f : Bank → Bank) : (s.modBank b f).engines = s.engines := rfl
@[simp] theorem State.modBank_cmds (s : State) (b : Nat) (f : Bank → Bank) : (s.modBank b f).cmds = s.cmds := rfl
@[simp] theorem State.modBank_jobs (s : State) (b : Nat) (f : Bank → Bank) : (s.modBank b f).jobs = s.jobs := rfl
@[simp] theorem State.modBank_arrays (s : State) (b : Nat) (f : Bank → Bank) : (s.modBank b f).arrays = s.arrays := rfl
@[simp] theorem State.modBank_qfe (s : State) (b : Nat) (f : Bank → Bank) : (s.modBank b f).qfe = s.qfe := rfl
@[simp] theorem State.modBank_portA (s : State) (b : Nat) (f : Bank → Bank) : (s.modBank b f).portA = s.portA := rfl
@[simp] theorem State.modBank_portB (s : State) (b : Nat) (f : Bank → Bank) : (s.modBank b f).portB = s.portB := rfl
@[simp] theorem State.modBank_spin (s : State) (b : Nat) (f : Bank → Bank) : (s.modBank b f).spin = s.spin := rfl
@[simp] theorem State.modBank_grf (s : State) (b : Nat) (f : Bank → Bank) : (s.modBank b f).grf = s.grf := rfl
@[simp] theorem State.modBank_hbm (s : State) (b : Nat) (f : Bank → Bank) : (s.modBank b f).hbm = s.hbm := rfl
@[simp] theorem State.modBank_fls (s : State) (b : Nat) (f : Bank → Bank) : (s.modBank b f).fls = s.fls := rfl
@[simp] theorem State.modBank_opx (s : State) (b : Nat) (f : Bank → Bank) : (s.modBank b f).opx = s.opx := rfl
@[simp] theorem State.modBank_pwr (s : State) (b : Nat) (f : Bank → Bank) : (s.modBank b f).pwr = s.pwr := rfl
@[simp] theorem State.modBank_hostA (s : State) (b : Nat) (f : Bank → Bank) : (s.modBank b f).hostA = s.hostA := rfl
@[simp] theorem State.modBank_hostB (s : State) (b : Nat) (f : Bank → Bank) : (s.modBank b f).hostB = s.hostB := rfl
@[simp] theorem State.modBank_sec (s : State) (b : Nat) (f : Bank → Bank) : (s.modBank b f).sec = s.sec := rfl
@[simp] theorem State.modBank_flt (s : State) (b : Nat) (f : Bank → Bank) : (s.modBank b f).flt = s.flt := rfl
@[simp] theorem State.modBank_mgmt (s : State) (b : Nat) (f : Bank → Bank) : (s.modBank b f).mgmt = s.mgmt := rfl

/-! ### `State.setPort` -/

@[simp] theorem State.setPort_pending (s : State) (p : Port) (x : PortState) : (s.setPort p x).pending = s.pending := by cases p <;> rfl
@[simp] theorem State.setPort_time (s : State) (p : Port) (x : PortState) : (s.setPort p x).time = s.time := by cases p <;> rfl
@[simp] theorem State.setPort_draws (s : State) (p : Port) (x : PortState) : (s.setPort p x).draws = s.draws := by cases p <;> rfl
@[simp] theorem State.setPort_reply (s : State) (p : Port) (x : PortState) : (s.setPort p x).reply = s.reply := by cases p <;> rfl
@[simp] theorem State.setPort_sent (s : State) (p : Port) (x : PortState) : (s.setPort p x).sent = s.sent := by cases p <;> rfl
@[simp] theorem State.setPort_mem (s : State) (p : Port) (x : PortState) : (s.setPort p x).mem = s.mem := by cases p <;> rfl
@[simp] theorem State.setPort_mesh (s : State) (p : Port) (x : PortState) : (s.setPort p x).mesh = s.mesh := by cases p <;> rfl
@[simp] theorem State.setPort_dies (s : State) (p : Port) (x : PortState) : (s.setPort p x).dies = s.dies := by cases p <;> rfl
@[simp] theorem State.setPort_engines (s : State) (p : Port) (x : PortState) : (s.setPort p x).engines = s.engines := by cases p <;> rfl
@[simp] theorem State.setPort_banks (s : State) (p : Port) (x : PortState) : (s.setPort p x).banks = s.banks := by cases p <;> rfl
@[simp] theorem State.setPort_cmds (s : State) (p : Port) (x : PortState) : (s.setPort p x).cmds = s.cmds := by cases p <;> rfl
@[simp] theorem State.setPort_jobs (s : State) (p : Port) (x : PortState) : (s.setPort p x).jobs = s.jobs := by cases p <;> rfl
@[simp] theorem State.setPort_arrays (s : State) (p : Port) (x : PortState) : (s.setPort p x).arrays = s.arrays := by cases p <;> rfl
@[simp] theorem State.setPort_qfe (s : State) (p : Port) (x : PortState) : (s.setPort p x).qfe = s.qfe := by cases p <;> rfl
@[simp] theorem State.setPort_spin (s : State) (p : Port) (x : PortState) : (s.setPort p x).spin = s.spin := by cases p <;> rfl
@[simp] theorem State.setPort_grf (s : State) (p : Port) (x : PortState) : (s.setPort p x).grf = s.grf := by cases p <;> rfl
@[simp] theorem State.setPort_hbm (s : State) (p : Port) (x : PortState) : (s.setPort p x).hbm = s.hbm := by cases p <;> rfl
@[simp] theorem State.setPort_fls (s : State) (p : Port) (x : PortState) : (s.setPort p x).fls = s.fls := by cases p <;> rfl
@[simp] theorem State.setPort_opx (s : State) (p : Port) (x : PortState) : (s.setPort p x).opx = s.opx := by cases p <;> rfl
@[simp] theorem State.setPort_pwr (s : State) (p : Port) (x : PortState) : (s.setPort p x).pwr = s.pwr := by cases p <;> rfl
@[simp] theorem State.setPort_hostA (s : State) (p : Port) (x : PortState) : (s.setPort p x).hostA = s.hostA := by cases p <;> rfl
@[simp] theorem State.setPort_hostB (s : State) (p : Port) (x : PortState) : (s.setPort p x).hostB = s.hostB := by cases p <;> rfl
@[simp] theorem State.setPort_sec (s : State) (p : Port) (x : PortState) : (s.setPort p x).sec = s.sec := by cases p <;> rfl
@[simp] theorem State.setPort_flt (s : State) (p : Port) (x : PortState) : (s.setPort p x).flt = s.flt := by cases p <;> rfl
@[simp] theorem State.setPort_mgmt (s : State) (p : Port) (x : PortState) : (s.setPort p x).mgmt = s.mgmt := by cases p <;> rfl

/-! ### `State.modPort` -/

@[simp] theorem State.modPort_pending (s : State) (p : Port) (f : PortState → PortState) : (s.modPort p f).pending = s.pending := by cases p <;> rfl
@[simp] theorem State.modPort_time (s : State) (p : Port) (f : PortState → PortState) : (s.modPort p f).time = s.time := by cases p <;> rfl
@[simp] theorem State.modPort_draws (s : State) (p : Port) (f : PortState → PortState) : (s.modPort p f).draws = s.draws := by cases p <;> rfl
@[simp] theorem State.modPort_reply (s : State) (p : Port) (f : PortState → PortState) : (s.modPort p f).reply = s.reply := by cases p <;> rfl
@[simp] theorem State.modPort_sent (s : State) (p : Port) (f : PortState → PortState) : (s.modPort p f).sent = s.sent := by cases p <;> rfl
@[simp] theorem State.modPort_mem (s : State) (p : Port) (f : PortState → PortState) : (s.modPort p f).mem = s.mem := by cases p <;> rfl
@[simp] theorem State.modPort_mesh (s : State) (p : Port) (f : PortState → PortState) : (s.modPort p f).mesh = s.mesh := by cases p <;> rfl
@[simp] theorem State.modPort_dies (s : State) (p : Port) (f : PortState → PortState) : (s.modPort p f).dies = s.dies := by cases p <;> rfl
@[simp] theorem State.modPort_engines (s : State) (p : Port) (f : PortState → PortState) : (s.modPort p f).engines = s.engines := by cases p <;> rfl
@[simp] theorem State.modPort_banks (s : State) (p : Port) (f : PortState → PortState) : (s.modPort p f).banks = s.banks := by cases p <;> rfl
@[simp] theorem State.modPort_cmds (s : State) (p : Port) (f : PortState → PortState) : (s.modPort p f).cmds = s.cmds := by cases p <;> rfl
@[simp] theorem State.modPort_jobs (s : State) (p : Port) (f : PortState → PortState) : (s.modPort p f).jobs = s.jobs := by cases p <;> rfl
@[simp] theorem State.modPort_arrays (s : State) (p : Port) (f : PortState → PortState) : (s.modPort p f).arrays = s.arrays := by cases p <;> rfl
@[simp] theorem State.modPort_qfe (s : State) (p : Port) (f : PortState → PortState) : (s.modPort p f).qfe = s.qfe := by cases p <;> rfl
@[simp] theorem State.modPort_spin (s : State) (p : Port) (f : PortState → PortState) : (s.modPort p f).spin = s.spin := by cases p <;> rfl
@[simp] theorem State.modPort_grf (s : State) (p : Port) (f : PortState → PortState) : (s.modPort p f).grf = s.grf := by cases p <;> rfl
@[simp] theorem State.modPort_hbm (s : State) (p : Port) (f : PortState → PortState) : (s.modPort p f).hbm = s.hbm := by cases p <;> rfl
@[simp] theorem State.modPort_fls (s : State) (p : Port) (f : PortState → PortState) : (s.modPort p f).fls = s.fls := by cases p <;> rfl
@[simp] theorem State.modPort_opx (s : State) (p : Port) (f : PortState → PortState) : (s.modPort p f).opx = s.opx := by cases p <;> rfl
@[simp] theorem State.modPort_pwr (s : State) (p : Port) (f : PortState → PortState) : (s.modPort p f).pwr = s.pwr := by cases p <;> rfl
@[simp] theorem State.modPort_hostA (s : State) (p : Port) (f : PortState → PortState) : (s.modPort p f).hostA = s.hostA := by cases p <;> rfl
@[simp] theorem State.modPort_hostB (s : State) (p : Port) (f : PortState → PortState) : (s.modPort p f).hostB = s.hostB := by cases p <;> rfl
@[simp] theorem State.modPort_sec (s : State) (p : Port) (f : PortState → PortState) : (s.modPort p f).sec = s.sec := by cases p <;> rfl
@[simp] theorem State.modPort_flt (s : State) (p : Port) (f : PortState → PortState) : (s.modPort p f).flt = s.flt := by cases p <;> rfl
@[simp] theorem State.modPort_mgmt (s : State) (p : Port) (f : PortState → PortState) : (s.modPort p f).mgmt = s.mgmt := by cases p <;> rfl

/-! ### `State.setHost` -/

@[simp] theorem State.setHost_pending (s : State) (p : Port) (x : HostDie) : (s.setHost p x).pending = s.pending := by cases p <;> rfl
@[simp] theorem State.setHost_time (s : State) (p : Port) (x : HostDie) : (s.setHost p x).time = s.time := by cases p <;> rfl
@[simp] theorem State.setHost_draws (s : State) (p : Port) (x : HostDie) : (s.setHost p x).draws = s.draws := by cases p <;> rfl
@[simp] theorem State.setHost_reply (s : State) (p : Port) (x : HostDie) : (s.setHost p x).reply = s.reply := by cases p <;> rfl
@[simp] theorem State.setHost_sent (s : State) (p : Port) (x : HostDie) : (s.setHost p x).sent = s.sent := by cases p <;> rfl
@[simp] theorem State.setHost_mem (s : State) (p : Port) (x : HostDie) : (s.setHost p x).mem = s.mem := by cases p <;> rfl
@[simp] theorem State.setHost_mesh (s : State) (p : Port) (x : HostDie) : (s.setHost p x).mesh = s.mesh := by cases p <;> rfl
@[simp] theorem State.setHost_dies (s : State) (p : Port) (x : HostDie) : (s.setHost p x).dies = s.dies := by cases p <;> rfl
@[simp] theorem State.setHost_engines (s : State) (p : Port) (x : HostDie) : (s.setHost p x).engines = s.engines := by cases p <;> rfl
@[simp] theorem State.setHost_banks (s : State) (p : Port) (x : HostDie) : (s.setHost p x).banks = s.banks := by cases p <;> rfl
@[simp] theorem State.setHost_cmds (s : State) (p : Port) (x : HostDie) : (s.setHost p x).cmds = s.cmds := by cases p <;> rfl
@[simp] theorem State.setHost_jobs (s : State) (p : Port) (x : HostDie) : (s.setHost p x).jobs = s.jobs := by cases p <;> rfl
@[simp] theorem State.setHost_arrays (s : State) (p : Port) (x : HostDie) : (s.setHost p x).arrays = s.arrays := by cases p <;> rfl
@[simp] theorem State.setHost_qfe (s : State) (p : Port) (x : HostDie) : (s.setHost p x).qfe = s.qfe := by cases p <;> rfl
@[simp] theorem State.setHost_portA (s : State) (p : Port) (x : HostDie) : (s.setHost p x).portA = s.portA := by cases p <;> rfl
@[simp] theorem State.setHost_portB (s : State) (p : Port) (x : HostDie) : (s.setHost p x).portB = s.portB := by cases p <;> rfl
@[simp] theorem State.setHost_spin (s : State) (p : Port) (x : HostDie) : (s.setHost p x).spin = s.spin := by cases p <;> rfl
@[simp] theorem State.setHost_grf (s : State) (p : Port) (x : HostDie) : (s.setHost p x).grf = s.grf := by cases p <;> rfl
@[simp] theorem State.setHost_hbm (s : State) (p : Port) (x : HostDie) : (s.setHost p x).hbm = s.hbm := by cases p <;> rfl
@[simp] theorem State.setHost_fls (s : State) (p : Port) (x : HostDie) : (s.setHost p x).fls = s.fls := by cases p <;> rfl
@[simp] theorem State.setHost_opx (s : State) (p : Port) (x : HostDie) : (s.setHost p x).opx = s.opx := by cases p <;> rfl
@[simp] theorem State.setHost_pwr (s : State) (p : Port) (x : HostDie) : (s.setHost p x).pwr = s.pwr := by cases p <;> rfl
@[simp] theorem State.setHost_sec (s : State) (p : Port) (x : HostDie) : (s.setHost p x).sec = s.sec := by cases p <;> rfl
@[simp] theorem State.setHost_flt (s : State) (p : Port) (x : HostDie) : (s.setHost p x).flt = s.flt := by cases p <;> rfl
@[simp] theorem State.setHost_mgmt (s : State) (p : Port) (x : HostDie) : (s.setHost p x).mgmt = s.mgmt := by cases p <;> rfl

/-! ### `State.modHost` -/

@[simp] theorem State.modHost_pending (s : State) (p : Port) (f : HostDie → HostDie) : (s.modHost p f).pending = s.pending := by cases p <;> rfl
@[simp] theorem State.modHost_time (s : State) (p : Port) (f : HostDie → HostDie) : (s.modHost p f).time = s.time := by cases p <;> rfl
@[simp] theorem State.modHost_draws (s : State) (p : Port) (f : HostDie → HostDie) : (s.modHost p f).draws = s.draws := by cases p <;> rfl
@[simp] theorem State.modHost_reply (s : State) (p : Port) (f : HostDie → HostDie) : (s.modHost p f).reply = s.reply := by cases p <;> rfl
@[simp] theorem State.modHost_sent (s : State) (p : Port) (f : HostDie → HostDie) : (s.modHost p f).sent = s.sent := by cases p <;> rfl
@[simp] theorem State.modHost_mem (s : State) (p : Port) (f : HostDie → HostDie) : (s.modHost p f).mem = s.mem := by cases p <;> rfl
@[simp] theorem State.modHost_mesh (s : State) (p : Port) (f : HostDie → HostDie) : (s.modHost p f).mesh = s.mesh := by cases p <;> rfl
@[simp] theorem State.modHost_dies (s : State) (p : Port) (f : HostDie → HostDie) : (s.modHost p f).dies = s.dies := by cases p <;> rfl
@[simp] theorem State.modHost_engines (s : State) (p : Port) (f : HostDie → HostDie) : (s.modHost p f).engines = s.engines := by cases p <;> rfl
@[simp] theorem State.modHost_banks (s : State) (p : Port) (f : HostDie → HostDie) : (s.modHost p f).banks = s.banks := by cases p <;> rfl
@[simp] theorem State.modHost_cmds (s : State) (p : Port) (f : HostDie → HostDie) : (s.modHost p f).cmds = s.cmds := by cases p <;> rfl
@[simp] theorem State.modHost_jobs (s : State) (p : Port) (f : HostDie → HostDie) : (s.modHost p f).jobs = s.jobs := by cases p <;> rfl
@[simp] theorem State.modHost_arrays (s : State) (p : Port) (f : HostDie → HostDie) : (s.modHost p f).arrays = s.arrays := by cases p <;> rfl
@[simp] theorem State.modHost_qfe (s : State) (p : Port) (f : HostDie → HostDie) : (s.modHost p f).qfe = s.qfe := by cases p <;> rfl
@[simp] theorem State.modHost_portA (s : State) (p : Port) (f : HostDie → HostDie) : (s.modHost p f).portA = s.portA := by cases p <;> rfl
@[simp] theorem State.modHost_portB (s : State) (p : Port) (f : HostDie → HostDie) : (s.modHost p f).portB = s.portB := by cases p <;> rfl
@[simp] theorem State.modHost_spin (s : State) (p : Port) (f : HostDie → HostDie) : (s.modHost p f).spin = s.spin := by cases p <;> rfl
@[simp] theorem State.modHost_grf (s : State) (p : Port) (f : HostDie → HostDie) : (s.modHost p f).grf = s.grf := by cases p <;> rfl
@[simp] theorem State.modHost_hbm (s : State) (p : Port) (f : HostDie → HostDie) : (s.modHost p f).hbm = s.hbm := by cases p <;> rfl
@[simp] theorem State.modHost_fls (s : State) (p : Port) (f : HostDie → HostDie) : (s.modHost p f).fls = s.fls := by cases p <;> rfl
@[simp] theorem State.modHost_opx (s : State) (p : Port) (f : HostDie → HostDie) : (s.modHost p f).opx = s.opx := by cases p <;> rfl
@[simp] theorem State.modHost_pwr (s : State) (p : Port) (f : HostDie → HostDie) : (s.modHost p f).pwr = s.pwr := by cases p <;> rfl
@[simp] theorem State.modHost_sec (s : State) (p : Port) (f : HostDie → HostDie) : (s.modHost p f).sec = s.sec := by cases p <;> rfl
@[simp] theorem State.modHost_flt (s : State) (p : Port) (f : HostDie → HostDie) : (s.modHost p f).flt = s.flt := by cases p <;> rfl
@[simp] theorem State.modHost_mgmt (s : State) (p : Port) (f : HostDie → HostDie) : (s.modHost p f).mgmt = s.mgmt := by cases p <;> rfl

/-! ### `State.setQueue` -/

@[simp] theorem State.setQueue_pending (s : State) (q : Nat) (x : Queue) : (s.setQueue q x).pending = s.pending := rfl
@[simp] theorem State.setQueue_time (s : State) (q : Nat) (x : Queue) : (s.setQueue q x).time = s.time := rfl
@[simp] theorem State.setQueue_draws (s : State) (q : Nat) (x : Queue) : (s.setQueue q x).draws = s.draws := rfl
@[simp] theorem State.setQueue_reply (s : State) (q : Nat) (x : Queue) : (s.setQueue q x).reply = s.reply := rfl
@[simp] theorem State.setQueue_sent (s : State) (q : Nat) (x : Queue) : (s.setQueue q x).sent = s.sent := rfl
@[simp] theorem State.setQueue_mem (s : State) (q : Nat) (x : Queue) : (s.setQueue q x).mem = s.mem := rfl
@[simp] theorem State.setQueue_mesh (s : State) (q : Nat) (x : Queue) : (s.setQueue q x).mesh = s.mesh := rfl
@[simp] theorem State.setQueue_dies (s : State) (q : Nat) (x : Queue) : (s.setQueue q x).dies = s.dies := rfl
@[simp] theorem State.setQueue_engines (s : State) (q : Nat) (x : Queue) : (s.setQueue q x).engines = s.engines := rfl
@[simp] theorem State.setQueue_banks (s : State) (q : Nat) (x : Queue) : (s.setQueue q x).banks = s.banks := rfl
@[simp] theorem State.setQueue_cmds (s : State) (q : Nat) (x : Queue) : (s.setQueue q x).cmds = s.cmds := rfl
@[simp] theorem State.setQueue_jobs (s : State) (q : Nat) (x : Queue) : (s.setQueue q x).jobs = s.jobs := rfl
@[simp] theorem State.setQueue_arrays (s : State) (q : Nat) (x : Queue) : (s.setQueue q x).arrays = s.arrays := rfl
@[simp] theorem State.setQueue_portA (s : State) (q : Nat) (x : Queue) : (s.setQueue q x).portA = s.portA := rfl
@[simp] theorem State.setQueue_portB (s : State) (q : Nat) (x : Queue) : (s.setQueue q x).portB = s.portB := rfl
@[simp] theorem State.setQueue_spin (s : State) (q : Nat) (x : Queue) : (s.setQueue q x).spin = s.spin := rfl
@[simp] theorem State.setQueue_grf (s : State) (q : Nat) (x : Queue) : (s.setQueue q x).grf = s.grf := rfl
@[simp] theorem State.setQueue_hbm (s : State) (q : Nat) (x : Queue) : (s.setQueue q x).hbm = s.hbm := rfl
@[simp] theorem State.setQueue_fls (s : State) (q : Nat) (x : Queue) : (s.setQueue q x).fls = s.fls := rfl
@[simp] theorem State.setQueue_opx (s : State) (q : Nat) (x : Queue) : (s.setQueue q x).opx = s.opx := rfl
@[simp] theorem State.setQueue_pwr (s : State) (q : Nat) (x : Queue) : (s.setQueue q x).pwr = s.pwr := rfl
@[simp] theorem State.setQueue_hostA (s : State) (q : Nat) (x : Queue) : (s.setQueue q x).hostA = s.hostA := rfl
@[simp] theorem State.setQueue_hostB (s : State) (q : Nat) (x : Queue) : (s.setQueue q x).hostB = s.hostB := rfl
@[simp] theorem State.setQueue_sec (s : State) (q : Nat) (x : Queue) : (s.setQueue q x).sec = s.sec := rfl
@[simp] theorem State.setQueue_flt (s : State) (q : Nat) (x : Queue) : (s.setQueue q x).flt = s.flt := rfl
@[simp] theorem State.setQueue_mgmt (s : State) (q : Nat) (x : Queue) : (s.setQueue q x).mgmt = s.mgmt := rfl

/-! ### `State.modQueue` -/

@[simp] theorem State.modQueue_pending (s : State) (q : Nat) (f : Queue → Queue) : (s.modQueue q f).pending = s.pending := by unfold State.modQueue; split <;> rfl
@[simp] theorem State.modQueue_time (s : State) (q : Nat) (f : Queue → Queue) : (s.modQueue q f).time = s.time := by unfold State.modQueue; split <;> rfl
@[simp] theorem State.modQueue_draws (s : State) (q : Nat) (f : Queue → Queue) : (s.modQueue q f).draws = s.draws := by unfold State.modQueue; split <;> rfl
@[simp] theorem State.modQueue_reply (s : State) (q : Nat) (f : Queue → Queue) : (s.modQueue q f).reply = s.reply := by unfold State.modQueue; split <;> rfl
@[simp] theorem State.modQueue_sent (s : State) (q : Nat) (f : Queue → Queue) : (s.modQueue q f).sent = s.sent := by unfold State.modQueue; split <;> rfl
@[simp] theorem State.modQueue_mem (s : State) (q : Nat) (f : Queue → Queue) : (s.modQueue q f).mem = s.mem := by unfold State.modQueue; split <;> rfl
@[simp] theorem State.modQueue_mesh (s : State) (q : Nat) (f : Queue → Queue) : (s.modQueue q f).mesh = s.mesh := by unfold State.modQueue; split <;> rfl
@[simp] theorem State.modQueue_dies (s : State) (q : Nat) (f : Queue → Queue) : (s.modQueue q f).dies = s.dies := by unfold State.modQueue; split <;> rfl
@[simp] theorem State.modQueue_engines (s : State) (q : Nat) (f : Queue → Queue) : (s.modQueue q f).engines = s.engines := by unfold State.modQueue; split <;> rfl
@[simp] theorem State.modQueue_banks (s : State) (q : Nat) (f : Queue → Queue) : (s.modQueue q f).banks = s.banks := by unfold State.modQueue; split <;> rfl
@[simp] theorem State.modQueue_cmds (s : State) (q : Nat) (f : Queue → Queue) : (s.modQueue q f).cmds = s.cmds := by unfold State.modQueue; split <;> rfl
@[simp] theorem State.modQueue_jobs (s : State) (q : Nat) (f : Queue → Queue) : (s.modQueue q f).jobs = s.jobs := by unfold State.modQueue; split <;> rfl
@[simp] theorem State.modQueue_arrays (s : State) (q : Nat) (f : Queue → Queue) : (s.modQueue q f).arrays = s.arrays := by unfold State.modQueue; split <;> rfl
@[simp] theorem State.modQueue_portA (s : State) (q : Nat) (f : Queue → Queue) : (s.modQueue q f).portA = s.portA := by unfold State.modQueue; split <;> rfl
@[simp] theorem State.modQueue_portB (s : State) (q : Nat) (f : Queue → Queue) : (s.modQueue q f).portB = s.portB := by unfold State.modQueue; split <;> rfl
@[simp] theorem State.modQueue_spin (s : State) (q : Nat) (f : Queue → Queue) : (s.modQueue q f).spin = s.spin := by unfold State.modQueue; split <;> rfl
@[simp] theorem State.modQueue_grf (s : State) (q : Nat) (f : Queue → Queue) : (s.modQueue q f).grf = s.grf := by unfold State.modQueue; split <;> rfl
@[simp] theorem State.modQueue_hbm (s : State) (q : Nat) (f : Queue → Queue) : (s.modQueue q f).hbm = s.hbm := by unfold State.modQueue; split <;> rfl
@[simp] theorem State.modQueue_fls (s : State) (q : Nat) (f : Queue → Queue) : (s.modQueue q f).fls = s.fls := by unfold State.modQueue; split <;> rfl
@[simp] theorem State.modQueue_opx (s : State) (q : Nat) (f : Queue → Queue) : (s.modQueue q f).opx = s.opx := by unfold State.modQueue; split <;> rfl
@[simp] theorem State.modQueue_pwr (s : State) (q : Nat) (f : Queue → Queue) : (s.modQueue q f).pwr = s.pwr := by unfold State.modQueue; split <;> rfl
@[simp] theorem State.modQueue_hostA (s : State) (q : Nat) (f : Queue → Queue) : (s.modQueue q f).hostA = s.hostA := by unfold State.modQueue; split <;> rfl
@[simp] theorem State.modQueue_hostB (s : State) (q : Nat) (f : Queue → Queue) : (s.modQueue q f).hostB = s.hostB := by unfold State.modQueue; split <;> rfl
@[simp] theorem State.modQueue_sec (s : State) (q : Nat) (f : Queue → Queue) : (s.modQueue q f).sec = s.sec := by unfold State.modQueue; split <;> rfl
@[simp] theorem State.modQueue_flt (s : State) (q : Nat) (f : Queue → Queue) : (s.modQueue q f).flt = s.flt := by unfold State.modQueue; split <;> rfl
@[simp] theorem State.modQueue_mgmt (s : State) (q : Nat) (f : Queue → Queue) : (s.modQueue q f).mgmt = s.mgmt := by unfold State.modQueue; split <;> rfl

/-! ### `State.setCmd` -/

@[simp] theorem State.setCmd_pending (s : State) (c : Nat) (x : Cmd) : (s.setCmd c x).pending = s.pending := rfl
@[simp] theorem State.setCmd_time (s : State) (c : Nat) (x : Cmd) : (s.setCmd c x).time = s.time := rfl
@[simp] theorem State.setCmd_draws (s : State) (c : Nat) (x : Cmd) : (s.setCmd c x).draws = s.draws := rfl
@[simp] theorem State.setCmd_reply (s : State) (c : Nat) (x : Cmd) : (s.setCmd c x).reply = s.reply := rfl
@[simp] theorem State.setCmd_sent (s : State) (c : Nat) (x : Cmd) : (s.setCmd c x).sent = s.sent := rfl
@[simp] theorem State.setCmd_mem (s : State) (c : Nat) (x : Cmd) : (s.setCmd c x).mem = s.mem := rfl
@[simp] theorem State.setCmd_mesh (s : State) (c : Nat) (x : Cmd) : (s.setCmd c x).mesh = s.mesh := rfl
@[simp] theorem State.setCmd_dies (s : State) (c : Nat) (x : Cmd) : (s.setCmd c x).dies = s.dies := rfl
@[simp] theorem State.setCmd_engines (s : State) (c : Nat) (x : Cmd) : (s.setCmd c x).engines = s.engines := rfl
@[simp] theorem State.setCmd_banks (s : State) (c : Nat) (x : Cmd) : (s.setCmd c x).banks = s.banks := rfl
@[simp] theorem State.setCmd_jobs (s : State) (c : Nat) (x : Cmd) : (s.setCmd c x).jobs = s.jobs := rfl
@[simp] theorem State.setCmd_arrays (s : State) (c : Nat) (x : Cmd) : (s.setCmd c x).arrays = s.arrays := rfl
@[simp] theorem State.setCmd_qfe (s : State) (c : Nat) (x : Cmd) : (s.setCmd c x).qfe = s.qfe := rfl
@[simp] theorem State.setCmd_portA (s : State) (c : Nat) (x : Cmd) : (s.setCmd c x).portA = s.portA := rfl
@[simp] theorem State.setCmd_portB (s : State) (c : Nat) (x : Cmd) : (s.setCmd c x).portB = s.portB := rfl
@[simp] theorem State.setCmd_spin (s : State) (c : Nat) (x : Cmd) : (s.setCmd c x).spin = s.spin := rfl
@[simp] theorem State.setCmd_grf (s : State) (c : Nat) (x : Cmd) : (s.setCmd c x).grf = s.grf := rfl
@[simp] theorem State.setCmd_hbm (s : State) (c : Nat) (x : Cmd) : (s.setCmd c x).hbm = s.hbm := rfl
@[simp] theorem State.setCmd_fls (s : State) (c : Nat) (x : Cmd) : (s.setCmd c x).fls = s.fls := rfl
@[simp] theorem State.setCmd_opx (s : State) (c : Nat) (x : Cmd) : (s.setCmd c x).opx = s.opx := rfl
@[simp] theorem State.setCmd_pwr (s : State) (c : Nat) (x : Cmd) : (s.setCmd c x).pwr = s.pwr := rfl
@[simp] theorem State.setCmd_hostA (s : State) (c : Nat) (x : Cmd) : (s.setCmd c x).hostA = s.hostA := rfl
@[simp] theorem State.setCmd_hostB (s : State) (c : Nat) (x : Cmd) : (s.setCmd c x).hostB = s.hostB := rfl
@[simp] theorem State.setCmd_sec (s : State) (c : Nat) (x : Cmd) : (s.setCmd c x).sec = s.sec := rfl
@[simp] theorem State.setCmd_flt (s : State) (c : Nat) (x : Cmd) : (s.setCmd c x).flt = s.flt := rfl
@[simp] theorem State.setCmd_mgmt (s : State) (c : Nat) (x : Cmd) : (s.setCmd c x).mgmt = s.mgmt := rfl

/-! ### `State.modCmd` -/

@[simp] theorem State.modCmd_pending (s : State) (c : Nat) (f : Cmd → Cmd) : (s.modCmd c f).pending = s.pending := by unfold State.modCmd; split <;> rfl
@[simp] theorem State.modCmd_time (s : State) (c : Nat) (f : Cmd → Cmd) : (s.modCmd c f).time = s.time := by unfold State.modCmd; split <;> rfl
@[simp] theorem State.modCmd_draws (s : State) (c : Nat) (f : Cmd → Cmd) : (s.modCmd c f).draws = s.draws := by unfold State.modCmd; split <;> rfl
@[simp] theorem State.modCmd_reply (s : State) (c : Nat) (f : Cmd → Cmd) : (s.modCmd c f).reply = s.reply := by unfold State.modCmd; split <;> rfl
@[simp] theorem State.modCmd_sent (s : State) (c : Nat) (f : Cmd → Cmd) : (s.modCmd c f).sent = s.sent := by unfold State.modCmd; split <;> rfl
@[simp] theorem State.modCmd_mem (s : State) (c : Nat) (f : Cmd → Cmd) : (s.modCmd c f).mem = s.mem := by unfold State.modCmd; split <;> rfl
@[simp] theorem State.modCmd_mesh (s : State) (c : Nat) (f : Cmd → Cmd) : (s.modCmd c f).mesh = s.mesh := by unfold State.modCmd; split <;> rfl
@[simp] theorem State.modCmd_dies (s : State) (c : Nat) (f : Cmd → Cmd) : (s.modCmd c f).dies = s.dies := by unfold State.modCmd; split <;> rfl
@[simp] theorem State.modCmd_engines (s : State) (c : Nat) (f : Cmd → Cmd) : (s.modCmd c f).engines = s.engines := by unfold State.modCmd; split <;> rfl
@[simp] theorem State.modCmd_banks (s : State) (c : Nat) (f : Cmd → Cmd) : (s.modCmd c f).banks = s.banks := by unfold State.modCmd; split <;> rfl
@[simp] theorem State.modCmd_jobs (s : State) (c : Nat) (f : Cmd → Cmd) : (s.modCmd c f).jobs = s.jobs := by unfold State.modCmd; split <;> rfl
@[simp] theorem State.modCmd_arrays (s : State) (c : Nat) (f : Cmd → Cmd) : (s.modCmd c f).arrays = s.arrays := by unfold State.modCmd; split <;> rfl
@[simp] theorem State.modCmd_qfe (s : State) (c : Nat) (f : Cmd → Cmd) : (s.modCmd c f).qfe = s.qfe := by unfold State.modCmd; split <;> rfl
@[simp] theorem State.modCmd_portA (s : State) (c : Nat) (f : Cmd → Cmd) : (s.modCmd c f).portA = s.portA := by unfold State.modCmd; split <;> rfl
@[simp] theorem State.modCmd_portB (s : State) (c : Nat) (f : Cmd → Cmd) : (s.modCmd c f).portB = s.portB := by unfold State.modCmd; split <;> rfl
@[simp] theorem State.modCmd_spin (s : State) (c : Nat) (f : Cmd → Cmd) : (s.modCmd c f).spin = s.spin := by unfold State.modCmd; split <;> rfl
@[simp] theorem State.modCmd_grf (s : State) (c : Nat) (f : Cmd → Cmd) : (s.modCmd c f).grf = s.grf := by unfold State.modCmd; split <;> rfl
@[simp] theorem State.modCmd_hbm (s : State) (c : Nat) (f : Cmd → Cmd) : (s.modCmd c f).hbm = s.hbm := by unfold State.modCmd; split <;> rfl
@[simp] theorem State.modCmd_fls (s : State) (c : Nat) (f : Cmd → Cmd) : (s.modCmd c f).fls = s.fls := by unfold State.modCmd; split <;> rfl
@[simp] theorem State.modCmd_opx (s : State) (c : Nat) (f : Cmd → Cmd) : (s.modCmd c f).opx = s.opx := by unfold State.modCmd; split <;> rfl
@[simp] theorem State.modCmd_pwr (s : State) (c : Nat) (f : Cmd → Cmd) : (s.modCmd c f).pwr = s.pwr := by unfold State.modCmd; split <;> rfl
@[simp] theorem State.modCmd_hostA (s : State) (c : Nat) (f : Cmd → Cmd) : (s.modCmd c f).hostA = s.hostA := by unfold State.modCmd; split <;> rfl
@[simp] theorem State.modCmd_hostB (s : State) (c : Nat) (f : Cmd → Cmd) : (s.modCmd c f).hostB = s.hostB := by unfold State.modCmd; split <;> rfl
@[simp] theorem State.modCmd_sec (s : State) (c : Nat) (f : Cmd → Cmd) : (s.modCmd c f).sec = s.sec := by unfold State.modCmd; split <;> rfl
@[simp] theorem State.modCmd_flt (s : State) (c : Nat) (f : Cmd → Cmd) : (s.modCmd c f).flt = s.flt := by unfold State.modCmd; split <;> rfl
@[simp] theorem State.modCmd_mgmt (s : State) (c : Nat) (f : Cmd → Cmd) : (s.modCmd c f).mgmt = s.mgmt := by unfold State.modCmd; split <;> rfl

/-! ### `State.dropCmd` -/

@[simp] theorem State.dropCmd_pending (s : State) (c : Nat) : (s.dropCmd c).pending = s.pending := rfl
@[simp] theorem State.dropCmd_time (s : State) (c : Nat) : (s.dropCmd c).time = s.time := rfl
@[simp] theorem State.dropCmd_draws (s : State) (c : Nat) : (s.dropCmd c).draws = s.draws := rfl
@[simp] theorem State.dropCmd_reply (s : State) (c : Nat) : (s.dropCmd c).reply = s.reply := rfl
@[simp] theorem State.dropCmd_sent (s : State) (c : Nat) : (s.dropCmd c).sent = s.sent := rfl
@[simp] theorem State.dropCmd_mem (s : State) (c : Nat) : (s.dropCmd c).mem = s.mem := rfl
@[simp] theorem State.dropCmd_mesh (s : State) (c : Nat) : (s.dropCmd c).mesh = s.mesh := rfl
@[simp] theorem State.dropCmd_dies (s : State) (c : Nat) : (s.dropCmd c).dies = s.dies := rfl
@[simp] theorem State.dropCmd_engines (s : State) (c : Nat) : (s.dropCmd c).engines = s.engines := rfl
@[simp] theorem State.dropCmd_banks (s : State) (c : Nat) : (s.dropCmd c).banks = s.banks := rfl
@[simp] theorem State.dropCmd_jobs (s : State) (c : Nat) : (s.dropCmd c).jobs = s.jobs := rfl
@[simp] theorem State.dropCmd_arrays (s : State) (c : Nat) : (s.dropCmd c).arrays = s.arrays := rfl
@[simp] theorem State.dropCmd_qfe (s : State) (c : Nat) : (s.dropCmd c).qfe = s.qfe := rfl
@[simp] theorem State.dropCmd_portA (s : State) (c : Nat) : (s.dropCmd c).portA = s.portA := rfl
@[simp] theorem State.dropCmd_portB (s : State) (c : Nat) : (s.dropCmd c).portB = s.portB := rfl
@[simp] theorem State.dropCmd_spin (s : State) (c : Nat) : (s.dropCmd c).spin = s.spin := rfl
@[simp] theorem State.dropCmd_grf (s : State) (c : Nat) : (s.dropCmd c).grf = s.grf := rfl
@[simp] theorem State.dropCmd_hbm (s : State) (c : Nat) : (s.dropCmd c).hbm = s.hbm := rfl
@[simp] theorem State.dropCmd_fls (s : State) (c : Nat) : (s.dropCmd c).fls = s.fls := rfl
@[simp] theorem State.dropCmd_opx (s : State) (c : Nat) : (s.dropCmd c).opx = s.opx := rfl
@[simp] theorem State.dropCmd_pwr (s : State) (c : Nat) : (s.dropCmd c).pwr = s.pwr := rfl
@[simp] theorem State.dropCmd_hostA (s : State) (c : Nat) : (s.dropCmd c).hostA = s.hostA := rfl
@[simp] theorem State.dropCmd_hostB (s : State) (c : Nat) : (s.dropCmd c).hostB = s.hostB := rfl
@[simp] theorem State.dropCmd_sec (s : State) (c : Nat) : (s.dropCmd c).sec = s.sec := rfl
@[simp] theorem State.dropCmd_flt (s : State) (c : Nat) : (s.dropCmd c).flt = s.flt := rfl
@[simp] theorem State.dropCmd_mgmt (s : State) (c : Nat) : (s.dropCmd c).mgmt = s.mgmt := rfl

/-! ### `State.setFence` -/

@[simp] theorem State.setFence_pending (s : State) (n : Nat) (x : Fence) : (s.setFence n x).pending = s.pending := rfl
@[simp] theorem State.setFence_time (s : State) (n : Nat) (x : Fence) : (s.setFence n x).time = s.time := rfl
@[simp] theorem State.setFence_draws (s : State) (n : Nat) (x : Fence) : (s.setFence n x).draws = s.draws := rfl
@[simp] theorem State.setFence_reply (s : State) (n : Nat) (x : Fence) : (s.setFence n x).reply = s.reply := rfl
@[simp] theorem State.setFence_sent (s : State) (n : Nat) (x : Fence) : (s.setFence n x).sent = s.sent := rfl
@[simp] theorem State.setFence_mem (s : State) (n : Nat) (x : Fence) : (s.setFence n x).mem = s.mem := rfl
@[simp] theorem State.setFence_mesh (s : State) (n : Nat) (x : Fence) : (s.setFence n x).mesh = s.mesh := rfl
@[simp] theorem State.setFence_dies (s : State) (n : Nat) (x : Fence) : (s.setFence n x).dies = s.dies := rfl
@[simp] theorem State.setFence_engines (s : State) (n : Nat) (x : Fence) : (s.setFence n x).engines = s.engines := rfl
@[simp] theorem State.setFence_banks (s : State) (n : Nat) (x : Fence) : (s.setFence n x).banks = s.banks := rfl
@[simp] theorem State.setFence_cmds (s : State) (n : Nat) (x : Fence) : (s.setFence n x).cmds = s.cmds := rfl
@[simp] theorem State.setFence_jobs (s : State) (n : Nat) (x : Fence) : (s.setFence n x).jobs = s.jobs := rfl
@[simp] theorem State.setFence_arrays (s : State) (n : Nat) (x : Fence) : (s.setFence n x).arrays = s.arrays := rfl
@[simp] theorem State.setFence_portA (s : State) (n : Nat) (x : Fence) : (s.setFence n x).portA = s.portA := rfl
@[simp] theorem State.setFence_portB (s : State) (n : Nat) (x : Fence) : (s.setFence n x).portB = s.portB := rfl
@[simp] theorem State.setFence_spin (s : State) (n : Nat) (x : Fence) : (s.setFence n x).spin = s.spin := rfl
@[simp] theorem State.setFence_grf (s : State) (n : Nat) (x : Fence) : (s.setFence n x).grf = s.grf := rfl
@[simp] theorem State.setFence_hbm (s : State) (n : Nat) (x : Fence) : (s.setFence n x).hbm = s.hbm := rfl
@[simp] theorem State.setFence_fls (s : State) (n : Nat) (x : Fence) : (s.setFence n x).fls = s.fls := rfl
@[simp] theorem State.setFence_opx (s : State) (n : Nat) (x : Fence) : (s.setFence n x).opx = s.opx := rfl
@[simp] theorem State.setFence_pwr (s : State) (n : Nat) (x : Fence) : (s.setFence n x).pwr = s.pwr := rfl
@[simp] theorem State.setFence_hostA (s : State) (n : Nat) (x : Fence) : (s.setFence n x).hostA = s.hostA := rfl
@[simp] theorem State.setFence_hostB (s : State) (n : Nat) (x : Fence) : (s.setFence n x).hostB = s.hostB := rfl
@[simp] theorem State.setFence_sec (s : State) (n : Nat) (x : Fence) : (s.setFence n x).sec = s.sec := rfl
@[simp] theorem State.setFence_flt (s : State) (n : Nat) (x : Fence) : (s.setFence n x).flt = s.flt := rfl
@[simp] theorem State.setFence_mgmt (s : State) (n : Nat) (x : Fence) : (s.setFence n x).mgmt = s.mgmt := rfl

/-! ### `State.setStack` -/

@[simp] theorem State.setStack_pending (s : State) (n : Nat) (x : Stack) : (s.setStack n x).pending = s.pending := rfl
@[simp] theorem State.setStack_time (s : State) (n : Nat) (x : Stack) : (s.setStack n x).time = s.time := rfl
@[simp] theorem State.setStack_draws (s : State) (n : Nat) (x : Stack) : (s.setStack n x).draws = s.draws := rfl
@[simp] theorem State.setStack_reply (s : State) (n : Nat) (x : Stack) : (s.setStack n x).reply = s.reply := rfl
@[simp] theorem State.setStack_sent (s : State) (n : Nat) (x : Stack) : (s.setStack n x).sent = s.sent := rfl
@[simp] theorem State.setStack_mem (s : State) (n : Nat) (x : Stack) : (s.setStack n x).mem = s.mem := rfl
@[simp] theorem State.setStack_mesh (s : State) (n : Nat) (x : Stack) : (s.setStack n x).mesh = s.mesh := rfl
@[simp] theorem State.setStack_dies (s : State) (n : Nat) (x : Stack) : (s.setStack n x).dies = s.dies := rfl
@[simp] theorem State.setStack_engines (s : State) (n : Nat) (x : Stack) : (s.setStack n x).engines = s.engines := rfl
@[simp] theorem State.setStack_banks (s : State) (n : Nat) (x : Stack) : (s.setStack n x).banks = s.banks := rfl
@[simp] theorem State.setStack_cmds (s : State) (n : Nat) (x : Stack) : (s.setStack n x).cmds = s.cmds := rfl
@[simp] theorem State.setStack_jobs (s : State) (n : Nat) (x : Stack) : (s.setStack n x).jobs = s.jobs := rfl
@[simp] theorem State.setStack_arrays (s : State) (n : Nat) (x : Stack) : (s.setStack n x).arrays = s.arrays := rfl
@[simp] theorem State.setStack_qfe (s : State) (n : Nat) (x : Stack) : (s.setStack n x).qfe = s.qfe := rfl
@[simp] theorem State.setStack_portA (s : State) (n : Nat) (x : Stack) : (s.setStack n x).portA = s.portA := rfl
@[simp] theorem State.setStack_portB (s : State) (n : Nat) (x : Stack) : (s.setStack n x).portB = s.portB := rfl
@[simp] theorem State.setStack_spin (s : State) (n : Nat) (x : Stack) : (s.setStack n x).spin = s.spin := rfl
@[simp] theorem State.setStack_grf (s : State) (n : Nat) (x : Stack) : (s.setStack n x).grf = s.grf := rfl
@[simp] theorem State.setStack_fls (s : State) (n : Nat) (x : Stack) : (s.setStack n x).fls = s.fls := rfl
@[simp] theorem State.setStack_opx (s : State) (n : Nat) (x : Stack) : (s.setStack n x).opx = s.opx := rfl
@[simp] theorem State.setStack_pwr (s : State) (n : Nat) (x : Stack) : (s.setStack n x).pwr = s.pwr := rfl
@[simp] theorem State.setStack_hostA (s : State) (n : Nat) (x : Stack) : (s.setStack n x).hostA = s.hostA := rfl
@[simp] theorem State.setStack_hostB (s : State) (n : Nat) (x : Stack) : (s.setStack n x).hostB = s.hostB := rfl
@[simp] theorem State.setStack_sec (s : State) (n : Nat) (x : Stack) : (s.setStack n x).sec = s.sec := rfl
@[simp] theorem State.setStack_flt (s : State) (n : Nat) (x : Stack) : (s.setStack n x).flt = s.flt := rfl
@[simp] theorem State.setStack_mgmt (s : State) (n : Nat) (x : Stack) : (s.setStack n x).mgmt = s.mgmt := rfl

/-! ### `State.setChannel` -/

@[simp] theorem State.setChannel_pending (s : State) (n : Nat) (x : FlashChannel) : (s.setChannel n x).pending = s.pending := rfl
@[simp] theorem State.setChannel_time (s : State) (n : Nat) (x : FlashChannel) : (s.setChannel n x).time = s.time := rfl
@[simp] theorem State.setChannel_draws (s : State) (n : Nat) (x : FlashChannel) : (s.setChannel n x).draws = s.draws := rfl
@[simp] theorem State.setChannel_reply (s : State) (n : Nat) (x : FlashChannel) : (s.setChannel n x).reply = s.reply := rfl
@[simp] theorem State.setChannel_sent (s : State) (n : Nat) (x : FlashChannel) : (s.setChannel n x).sent = s.sent := rfl
@[simp] theorem State.setChannel_mem (s : State) (n : Nat) (x : FlashChannel) : (s.setChannel n x).mem = s.mem := rfl
@[simp] theorem State.setChannel_mesh (s : State) (n : Nat) (x : FlashChannel) : (s.setChannel n x).mesh = s.mesh := rfl
@[simp] theorem State.setChannel_dies (s : State) (n : Nat) (x : FlashChannel) : (s.setChannel n x).dies = s.dies := rfl
@[simp] theorem State.setChannel_engines (s : State) (n : Nat) (x : FlashChannel) : (s.setChannel n x).engines = s.engines := rfl
@[simp] theorem State.setChannel_banks (s : State) (n : Nat) (x : FlashChannel) : (s.setChannel n x).banks = s.banks := rfl
@[simp] theorem State.setChannel_cmds (s : State) (n : Nat) (x : FlashChannel) : (s.setChannel n x).cmds = s.cmds := rfl
@[simp] theorem State.setChannel_jobs (s : State) (n : Nat) (x : FlashChannel) : (s.setChannel n x).jobs = s.jobs := rfl
@[simp] theorem State.setChannel_arrays (s : State) (n : Nat) (x : FlashChannel) : (s.setChannel n x).arrays = s.arrays := rfl
@[simp] theorem State.setChannel_qfe (s : State) (n : Nat) (x : FlashChannel) : (s.setChannel n x).qfe = s.qfe := rfl
@[simp] theorem State.setChannel_portA (s : State) (n : Nat) (x : FlashChannel) : (s.setChannel n x).portA = s.portA := rfl
@[simp] theorem State.setChannel_portB (s : State) (n : Nat) (x : FlashChannel) : (s.setChannel n x).portB = s.portB := rfl
@[simp] theorem State.setChannel_spin (s : State) (n : Nat) (x : FlashChannel) : (s.setChannel n x).spin = s.spin := rfl
@[simp] theorem State.setChannel_grf (s : State) (n : Nat) (x : FlashChannel) : (s.setChannel n x).grf = s.grf := rfl
@[simp] theorem State.setChannel_hbm (s : State) (n : Nat) (x : FlashChannel) : (s.setChannel n x).hbm = s.hbm := rfl
@[simp] theorem State.setChannel_opx (s : State) (n : Nat) (x : FlashChannel) : (s.setChannel n x).opx = s.opx := rfl
@[simp] theorem State.setChannel_pwr (s : State) (n : Nat) (x : FlashChannel) : (s.setChannel n x).pwr = s.pwr := rfl
@[simp] theorem State.setChannel_hostA (s : State) (n : Nat) (x : FlashChannel) : (s.setChannel n x).hostA = s.hostA := rfl
@[simp] theorem State.setChannel_hostB (s : State) (n : Nat) (x : FlashChannel) : (s.setChannel n x).hostB = s.hostB := rfl
@[simp] theorem State.setChannel_sec (s : State) (n : Nat) (x : FlashChannel) : (s.setChannel n x).sec = s.sec := rfl
@[simp] theorem State.setChannel_flt (s : State) (n : Nat) (x : FlashChannel) : (s.setChannel n x).flt = s.flt := rfl
@[simp] theorem State.setChannel_mgmt (s : State) (n : Nat) (x : FlashChannel) : (s.setChannel n x).mgmt = s.mgmt := rfl

/-! ### `State.setPair` -/

@[simp] theorem State.setPair_pending (s : State) (k : Nat) (x : Pair) : (s.setPair k x).pending = s.pending := rfl
@[simp] theorem State.setPair_time (s : State) (k : Nat) (x : Pair) : (s.setPair k x).time = s.time := rfl
@[simp] theorem State.setPair_draws (s : State) (k : Nat) (x : Pair) : (s.setPair k x).draws = s.draws := rfl
@[simp] theorem State.setPair_reply (s : State) (k : Nat) (x : Pair) : (s.setPair k x).reply = s.reply := rfl
@[simp] theorem State.setPair_sent (s : State) (k : Nat) (x : Pair) : (s.setPair k x).sent = s.sent := rfl
@[simp] theorem State.setPair_mem (s : State) (k : Nat) (x : Pair) : (s.setPair k x).mem = s.mem := rfl
@[simp] theorem State.setPair_mesh (s : State) (k : Nat) (x : Pair) : (s.setPair k x).mesh = s.mesh := rfl
@[simp] theorem State.setPair_dies (s : State) (k : Nat) (x : Pair) : (s.setPair k x).dies = s.dies := rfl
@[simp] theorem State.setPair_engines (s : State) (k : Nat) (x : Pair) : (s.setPair k x).engines = s.engines := rfl
@[simp] theorem State.setPair_banks (s : State) (k : Nat) (x : Pair) : (s.setPair k x).banks = s.banks := rfl
@[simp] theorem State.setPair_cmds (s : State) (k : Nat) (x : Pair) : (s.setPair k x).cmds = s.cmds := rfl
@[simp] theorem State.setPair_jobs (s : State) (k : Nat) (x : Pair) : (s.setPair k x).jobs = s.jobs := rfl
@[simp] theorem State.setPair_arrays (s : State) (k : Nat) (x : Pair) : (s.setPair k x).arrays = s.arrays := rfl
@[simp] theorem State.setPair_qfe (s : State) (k : Nat) (x : Pair) : (s.setPair k x).qfe = s.qfe := rfl
@[simp] theorem State.setPair_portA (s : State) (k : Nat) (x : Pair) : (s.setPair k x).portA = s.portA := rfl
@[simp] theorem State.setPair_portB (s : State) (k : Nat) (x : Pair) : (s.setPair k x).portB = s.portB := rfl
@[simp] theorem State.setPair_spin (s : State) (k : Nat) (x : Pair) : (s.setPair k x).spin = s.spin := rfl
@[simp] theorem State.setPair_grf (s : State) (k : Nat) (x : Pair) : (s.setPair k x).grf = s.grf := rfl
@[simp] theorem State.setPair_hbm (s : State) (k : Nat) (x : Pair) : (s.setPair k x).hbm = s.hbm := rfl
@[simp] theorem State.setPair_fls (s : State) (k : Nat) (x : Pair) : (s.setPair k x).fls = s.fls := rfl
@[simp] theorem State.setPair_pwr (s : State) (k : Nat) (x : Pair) : (s.setPair k x).pwr = s.pwr := rfl
@[simp] theorem State.setPair_hostA (s : State) (k : Nat) (x : Pair) : (s.setPair k x).hostA = s.hostA := rfl
@[simp] theorem State.setPair_hostB (s : State) (k : Nat) (x : Pair) : (s.setPair k x).hostB = s.hostB := rfl
@[simp] theorem State.setPair_sec (s : State) (k : Nat) (x : Pair) : (s.setPair k x).sec = s.sec := rfl
@[simp] theorem State.setPair_flt (s : State) (k : Nat) (x : Pair) : (s.setPair k x).flt = s.flt := rfl
@[simp] theorem State.setPair_mgmt (s : State) (k : Nat) (x : Pair) : (s.setPair k x).mgmt = s.mgmt := rfl

/-! ### `State.setFlow` -/

@[simp] theorem State.setFlow_pending (s : State) (f : Nat) (x : Flow) : (s.setFlow f x).pending = s.pending := rfl
@[simp] theorem State.setFlow_time (s : State) (f : Nat) (x : Flow) : (s.setFlow f x).time = s.time := rfl
@[simp] theorem State.setFlow_draws (s : State) (f : Nat) (x : Flow) : (s.setFlow f x).draws = s.draws := rfl
@[simp] theorem State.setFlow_reply (s : State) (f : Nat) (x : Flow) : (s.setFlow f x).reply = s.reply := rfl
@[simp] theorem State.setFlow_sent (s : State) (f : Nat) (x : Flow) : (s.setFlow f x).sent = s.sent := rfl
@[simp] theorem State.setFlow_mem (s : State) (f : Nat) (x : Flow) : (s.setFlow f x).mem = s.mem := rfl
@[simp] theorem State.setFlow_mesh (s : State) (f : Nat) (x : Flow) : (s.setFlow f x).mesh = s.mesh := rfl
@[simp] theorem State.setFlow_dies (s : State) (f : Nat) (x : Flow) : (s.setFlow f x).dies = s.dies := rfl
@[simp] theorem State.setFlow_engines (s : State) (f : Nat) (x : Flow) : (s.setFlow f x).engines = s.engines := rfl
@[simp] theorem State.setFlow_banks (s : State) (f : Nat) (x : Flow) : (s.setFlow f x).banks = s.banks := rfl
@[simp] theorem State.setFlow_cmds (s : State) (f : Nat) (x : Flow) : (s.setFlow f x).cmds = s.cmds := rfl
@[simp] theorem State.setFlow_jobs (s : State) (f : Nat) (x : Flow) : (s.setFlow f x).jobs = s.jobs := rfl
@[simp] theorem State.setFlow_arrays (s : State) (f : Nat) (x : Flow) : (s.setFlow f x).arrays = s.arrays := rfl
@[simp] theorem State.setFlow_qfe (s : State) (f : Nat) (x : Flow) : (s.setFlow f x).qfe = s.qfe := rfl
@[simp] theorem State.setFlow_portA (s : State) (f : Nat) (x : Flow) : (s.setFlow f x).portA = s.portA := rfl
@[simp] theorem State.setFlow_portB (s : State) (f : Nat) (x : Flow) : (s.setFlow f x).portB = s.portB := rfl
@[simp] theorem State.setFlow_spin (s : State) (f : Nat) (x : Flow) : (s.setFlow f x).spin = s.spin := rfl
@[simp] theorem State.setFlow_grf (s : State) (f : Nat) (x : Flow) : (s.setFlow f x).grf = s.grf := rfl
@[simp] theorem State.setFlow_hbm (s : State) (f : Nat) (x : Flow) : (s.setFlow f x).hbm = s.hbm := rfl
@[simp] theorem State.setFlow_fls (s : State) (f : Nat) (x : Flow) : (s.setFlow f x).fls = s.fls := rfl
@[simp] theorem State.setFlow_pwr (s : State) (f : Nat) (x : Flow) : (s.setFlow f x).pwr = s.pwr := rfl
@[simp] theorem State.setFlow_hostA (s : State) (f : Nat) (x : Flow) : (s.setFlow f x).hostA = s.hostA := rfl
@[simp] theorem State.setFlow_hostB (s : State) (f : Nat) (x : Flow) : (s.setFlow f x).hostB = s.hostB := rfl
@[simp] theorem State.setFlow_sec (s : State) (f : Nat) (x : Flow) : (s.setFlow f x).sec = s.sec := rfl
@[simp] theorem State.setFlow_flt (s : State) (f : Nat) (x : Flow) : (s.setFlow f x).flt = s.flt := rfl
@[simp] theorem State.setFlow_mgmt (s : State) (f : Nat) (x : Flow) : (s.setFlow f x).mgmt = s.mgmt := rfl

/-! ### `State.setRouter` -/

@[simp] theorem State.setRouter_pending (s : State) (d : Nat) (x : Router) : (s.setRouter d x).pending = s.pending := rfl
@[simp] theorem State.setRouter_time (s : State) (d : Nat) (x : Router) : (s.setRouter d x).time = s.time := rfl
@[simp] theorem State.setRouter_draws (s : State) (d : Nat) (x : Router) : (s.setRouter d x).draws = s.draws := rfl
@[simp] theorem State.setRouter_reply (s : State) (d : Nat) (x : Router) : (s.setRouter d x).reply = s.reply := rfl
@[simp] theorem State.setRouter_sent (s : State) (d : Nat) (x : Router) : (s.setRouter d x).sent = s.sent := rfl
@[simp] theorem State.setRouter_mem (s : State) (d : Nat) (x : Router) : (s.setRouter d x).mem = s.mem := rfl
@[simp] theorem State.setRouter_dies (s : State) (d : Nat) (x : Router) : (s.setRouter d x).dies = s.dies := rfl
@[simp] theorem State.setRouter_engines (s : State) (d : Nat) (x : Router) : (s.setRouter d x).engines = s.engines := rfl
@[simp] theorem State.setRouter_banks (s : State) (d : Nat) (x : Router) : (s.setRouter d x).banks = s.banks := rfl
@[simp] theorem State.setRouter_cmds (s : State) (d : Nat) (x : Router) : (s.setRouter d x).cmds = s.cmds := rfl
@[simp] theorem State.setRouter_jobs (s : State) (d : Nat) (x : Router) : (s.setRouter d x).jobs = s.jobs := rfl
@[simp] theorem State.setRouter_arrays (s : State) (d : Nat) (x : Router) : (s.setRouter d x).arrays = s.arrays := rfl
@[simp] theorem State.setRouter_qfe (s : State) (d : Nat) (x : Router) : (s.setRouter d x).qfe = s.qfe := rfl
@[simp] theorem State.setRouter_portA (s : State) (d : Nat) (x : Router) : (s.setRouter d x).portA = s.portA := rfl
@[simp] theorem State.setRouter_portB (s : State) (d : Nat) (x : Router) : (s.setRouter d x).portB = s.portB := rfl
@[simp] theorem State.setRouter_spin (s : State) (d : Nat) (x : Router) : (s.setRouter d x).spin = s.spin := rfl
@[simp] theorem State.setRouter_grf (s : State) (d : Nat) (x : Router) : (s.setRouter d x).grf = s.grf := rfl
@[simp] theorem State.setRouter_hbm (s : State) (d : Nat) (x : Router) : (s.setRouter d x).hbm = s.hbm := rfl
@[simp] theorem State.setRouter_fls (s : State) (d : Nat) (x : Router) : (s.setRouter d x).fls = s.fls := rfl
@[simp] theorem State.setRouter_opx (s : State) (d : Nat) (x : Router) : (s.setRouter d x).opx = s.opx := rfl
@[simp] theorem State.setRouter_pwr (s : State) (d : Nat) (x : Router) : (s.setRouter d x).pwr = s.pwr := rfl
@[simp] theorem State.setRouter_hostA (s : State) (d : Nat) (x : Router) : (s.setRouter d x).hostA = s.hostA := rfl
@[simp] theorem State.setRouter_hostB (s : State) (d : Nat) (x : Router) : (s.setRouter d x).hostB = s.hostB := rfl
@[simp] theorem State.setRouter_sec (s : State) (d : Nat) (x : Router) : (s.setRouter d x).sec = s.sec := rfl
@[simp] theorem State.setRouter_flt (s : State) (d : Nat) (x : Router) : (s.setRouter d x).flt = s.flt := rfl
@[simp] theorem State.setRouter_mgmt (s : State) (d : Nat) (x : Router) : (s.setRouter d x).mgmt = s.mgmt := rfl

/-! ### `State.modRouter` -/

@[simp] theorem State.modRouter_pending (s : State) (d : Nat) (f : Router → Router) : (s.modRouter d f).pending = s.pending := rfl
@[simp] theorem State.modRouter_time (s : State) (d : Nat) (f : Router → Router) : (s.modRouter d f).time = s.time := rfl
@[simp] theorem State.modRouter_draws (s : State) (d : Nat) (f : Router → Router) : (s.modRouter d f).draws = s.draws := rfl
@[simp] theorem State.modRouter_reply (s : State) (d : Nat) (f : Router → Router) : (s.modRouter d f).reply = s.reply := rfl
@[simp] theorem State.modRouter_sent (s : State) (d : Nat) (f : Router → Router) : (s.modRouter d f).sent = s.sent := rfl
@[simp] theorem State.modRouter_mem (s : State) (d : Nat) (f : Router → Router) : (s.modRouter d f).mem = s.mem := rfl
@[simp] theorem State.modRouter_dies (s : State) (d : Nat) (f : Router → Router) : (s.modRouter d f).dies = s.dies := rfl
@[simp] theorem State.modRouter_engines (s : State) (d : Nat) (f : Router → Router) : (s.modRouter d f).engines = s.engines := rfl
@[simp] theorem State.modRouter_banks (s : State) (d : Nat) (f : Router → Router) : (s.modRouter d f).banks = s.banks := rfl
@[simp] theorem State.modRouter_cmds (s : State) (d : Nat) (f : Router → Router) : (s.modRouter d f).cmds = s.cmds := rfl
@[simp] theorem State.modRouter_jobs (s : State) (d : Nat) (f : Router → Router) : (s.modRouter d f).jobs = s.jobs := rfl
@[simp] theorem State.modRouter_arrays (s : State) (d : Nat) (f : Router → Router) : (s.modRouter d f).arrays = s.arrays := rfl
@[simp] theorem State.modRouter_qfe (s : State) (d : Nat) (f : Router → Router) : (s.modRouter d f).qfe = s.qfe := rfl
@[simp] theorem State.modRouter_portA (s : State) (d : Nat) (f : Router → Router) : (s.modRouter d f).portA = s.portA := rfl
@[simp] theorem State.modRouter_portB (s : State) (d : Nat) (f : Router → Router) : (s.modRouter d f).portB = s.portB := rfl
@[simp] theorem State.modRouter_spin (s : State) (d : Nat) (f : Router → Router) : (s.modRouter d f).spin = s.spin := rfl
@[simp] theorem State.modRouter_grf (s : State) (d : Nat) (f : Router → Router) : (s.modRouter d f).grf = s.grf := rfl
@[simp] theorem State.modRouter_hbm (s : State) (d : Nat) (f : Router → Router) : (s.modRouter d f).hbm = s.hbm := rfl
@[simp] theorem State.modRouter_fls (s : State) (d : Nat) (f : Router → Router) : (s.modRouter d f).fls = s.fls := rfl
@[simp] theorem State.modRouter_opx (s : State) (d : Nat) (f : Router → Router) : (s.modRouter d f).opx = s.opx := rfl
@[simp] theorem State.modRouter_pwr (s : State) (d : Nat) (f : Router → Router) : (s.modRouter d f).pwr = s.pwr := rfl
@[simp] theorem State.modRouter_hostA (s : State) (d : Nat) (f : Router → Router) : (s.modRouter d f).hostA = s.hostA := rfl
@[simp] theorem State.modRouter_hostB (s : State) (d : Nat) (f : Router → Router) : (s.modRouter d f).hostB = s.hostB := rfl
@[simp] theorem State.modRouter_sec (s : State) (d : Nat) (f : Router → Router) : (s.modRouter d f).sec = s.sec := rfl
@[simp] theorem State.modRouter_flt (s : State) (d : Nat) (f : Router → Router) : (s.modRouter d f).flt = s.flt := rfl
@[simp] theorem State.modRouter_mgmt (s : State) (d : Nat) (f : Router → Router) : (s.modRouter d f).mgmt = s.mgmt := rfl

/-! ### `State.modOut` -/

@[simp] theorem State.modOut_pending (s : State) (d o : Nat) (f : OutPort → OutPort) : (s.modOut d o f).pending = s.pending := rfl
@[simp] theorem State.modOut_time (s : State) (d o : Nat) (f : OutPort → OutPort) : (s.modOut d o f).time = s.time := rfl
@[simp] theorem State.modOut_draws (s : State) (d o : Nat) (f : OutPort → OutPort) : (s.modOut d o f).draws = s.draws := rfl
@[simp] theorem State.modOut_reply (s : State) (d o : Nat) (f : OutPort → OutPort) : (s.modOut d o f).reply = s.reply := rfl
@[simp] theorem State.modOut_sent (s : State) (d o : Nat) (f : OutPort → OutPort) : (s.modOut d o f).sent = s.sent := rfl
@[simp] theorem State.modOut_mem (s : State) (d o : Nat) (f : OutPort → OutPort) : (s.modOut d o f).mem = s.mem := rfl
@[simp] theorem State.modOut_dies (s : State) (d o : Nat) (f : OutPort → OutPort) : (s.modOut d o f).dies = s.dies := rfl
@[simp] theorem State.modOut_engines (s : State) (d o : Nat) (f : OutPort → OutPort) : (s.modOut d o f).engines = s.engines := rfl
@[simp] theorem State.modOut_banks (s : State) (d o : Nat) (f : OutPort → OutPort) : (s.modOut d o f).banks = s.banks := rfl
@[simp] theorem State.modOut_cmds (s : State) (d o : Nat) (f : OutPort → OutPort) : (s.modOut d o f).cmds = s.cmds := rfl
@[simp] theorem State.modOut_jobs (s : State) (d o : Nat) (f : OutPort → OutPort) : (s.modOut d o f).jobs = s.jobs := rfl
@[simp] theorem State.modOut_arrays (s : State) (d o : Nat) (f : OutPort → OutPort) : (s.modOut d o f).arrays = s.arrays := rfl
@[simp] theorem State.modOut_qfe (s : State) (d o : Nat) (f : OutPort → OutPort) : (s.modOut d o f).qfe = s.qfe := rfl
@[simp] theorem State.modOut_portA (s : State) (d o : Nat) (f : OutPort → OutPort) : (s.modOut d o f).portA = s.portA := rfl
@[simp] theorem State.modOut_portB (s : State) (d o : Nat) (f : OutPort → OutPort) : (s.modOut d o f).portB = s.portB := rfl
@[simp] theorem State.modOut_spin (s : State) (d o : Nat) (f : OutPort → OutPort) : (s.modOut d o f).spin = s.spin := rfl
@[simp] theorem State.modOut_grf (s : State) (d o : Nat) (f : OutPort → OutPort) : (s.modOut d o f).grf = s.grf := rfl
@[simp] theorem State.modOut_hbm (s : State) (d o : Nat) (f : OutPort → OutPort) : (s.modOut d o f).hbm = s.hbm := rfl
@[simp] theorem State.modOut_fls (s : State) (d o : Nat) (f : OutPort → OutPort) : (s.modOut d o f).fls = s.fls := rfl
@[simp] theorem State.modOut_opx (s : State) (d o : Nat) (f : OutPort → OutPort) : (s.modOut d o f).opx = s.opx := rfl
@[simp] theorem State.modOut_pwr (s : State) (d o : Nat) (f : OutPort → OutPort) : (s.modOut d o f).pwr = s.pwr := rfl
@[simp] theorem State.modOut_hostA (s : State) (d o : Nat) (f : OutPort → OutPort) : (s.modOut d o f).hostA = s.hostA := rfl
@[simp] theorem State.modOut_hostB (s : State) (d o : Nat) (f : OutPort → OutPort) : (s.modOut d o f).hostB = s.hostB := rfl
@[simp] theorem State.modOut_sec (s : State) (d o : Nat) (f : OutPort → OutPort) : (s.modOut d o f).sec = s.sec := rfl
@[simp] theorem State.modOut_flt (s : State) (d o : Nat) (f : OutPort → OutPort) : (s.modOut d o f).flt = s.flt := rfl
@[simp] theorem State.modOut_mgmt (s : State) (d o : Nat) (f : OutPort → OutPort) : (s.modOut d o f).mgmt = s.mgmt := rfl

/-! ### `State.setOut` -/

@[simp] theorem State.setOut_pending (s : State) (d o : Nat) (x : OutPort) : (s.setOut d o x).pending = s.pending := rfl
@[simp] theorem State.setOut_time (s : State) (d o : Nat) (x : OutPort) : (s.setOut d o x).time = s.time := rfl
@[simp] theorem State.setOut_draws (s : State) (d o : Nat) (x : OutPort) : (s.setOut d o x).draws = s.draws := rfl
@[simp] theorem State.setOut_reply (s : State) (d o : Nat) (x : OutPort) : (s.setOut d o x).reply = s.reply := rfl
@[simp] theorem State.setOut_sent (s : State) (d o : Nat) (x : OutPort) : (s.setOut d o x).sent = s.sent := rfl
@[simp] theorem State.setOut_mem (s : State) (d o : Nat) (x : OutPort) : (s.setOut d o x).mem = s.mem := rfl
@[simp] theorem State.setOut_dies (s : State) (d o : Nat) (x : OutPort) : (s.setOut d o x).dies = s.dies := rfl
@[simp] theorem State.setOut_engines (s : State) (d o : Nat) (x : OutPort) : (s.setOut d o x).engines = s.engines := rfl
@[simp] theorem State.setOut_banks (s : State) (d o : Nat) (x : OutPort) : (s.setOut d o x).banks = s.banks := rfl
@[simp] theorem State.setOut_cmds (s : State) (d o : Nat) (x : OutPort) : (s.setOut d o x).cmds = s.cmds := rfl
@[simp] theorem State.setOut_jobs (s : State) (d o : Nat) (x : OutPort) : (s.setOut d o x).jobs = s.jobs := rfl
@[simp] theorem State.setOut_arrays (s : State) (d o : Nat) (x : OutPort) : (s.setOut d o x).arrays = s.arrays := rfl
@[simp] theorem State.setOut_qfe (s : State) (d o : Nat) (x : OutPort) : (s.setOut d o x).qfe = s.qfe := rfl
@[simp] theorem State.setOut_portA (s : State) (d o : Nat) (x : OutPort) : (s.setOut d o x).portA = s.portA := rfl
@[simp] theorem State.setOut_portB (s : State) (d o : Nat) (x : OutPort) : (s.setOut d o x).portB = s.portB := rfl
@[simp] theorem State.setOut_spin (s : State) (d o : Nat) (x : OutPort) : (s.setOut d o x).spin = s.spin := rfl
@[simp] theorem State.setOut_grf (s : State) (d o : Nat) (x : OutPort) : (s.setOut d o x).grf = s.grf := rfl
@[simp] theorem State.setOut_hbm (s : State) (d o : Nat) (x : OutPort) : (s.setOut d o x).hbm = s.hbm := rfl
@[simp] theorem State.setOut_fls (s : State) (d o : Nat) (x : OutPort) : (s.setOut d o x).fls = s.fls := rfl
@[simp] theorem State.setOut_opx (s : State) (d o : Nat) (x : OutPort) : (s.setOut d o x).opx = s.opx := rfl
@[simp] theorem State.setOut_pwr (s : State) (d o : Nat) (x : OutPort) : (s.setOut d o x).pwr = s.pwr := rfl
@[simp] theorem State.setOut_hostA (s : State) (d o : Nat) (x : OutPort) : (s.setOut d o x).hostA = s.hostA := rfl
@[simp] theorem State.setOut_hostB (s : State) (d o : Nat) (x : OutPort) : (s.setOut d o x).hostB = s.hostB := rfl
@[simp] theorem State.setOut_sec (s : State) (d o : Nat) (x : OutPort) : (s.setOut d o x).sec = s.sec := rfl
@[simp] theorem State.setOut_flt (s : State) (d o : Nat) (x : OutPort) : (s.setOut d o x).flt = s.flt := rfl
@[simp] theorem State.setOut_mgmt (s : State) (d o : Nat) (x : OutPort) : (s.setOut d o x).mgmt = s.mgmt := rfl

/-! ### `State.modPair` -/

@[simp] theorem State.modPair_pending (s : State) (k : Nat) (f : Pair → Pair) : (s.modPair k f).pending = s.pending := rfl
@[simp] theorem State.modPair_time (s : State) (k : Nat) (f : Pair → Pair) : (s.modPair k f).time = s.time := rfl
@[simp] theorem State.modPair_draws (s : State) (k : Nat) (f : Pair → Pair) : (s.modPair k f).draws = s.draws := rfl
@[simp] theorem State.modPair_reply (s : State) (k : Nat) (f : Pair → Pair) : (s.modPair k f).reply = s.reply := rfl
@[simp] theorem State.modPair_sent (s : State) (k : Nat) (f : Pair → Pair) : (s.modPair k f).sent = s.sent := rfl
@[simp] theorem State.modPair_mem (s : State) (k : Nat) (f : Pair → Pair) : (s.modPair k f).mem = s.mem := rfl
@[simp] theorem State.modPair_mesh (s : State) (k : Nat) (f : Pair → Pair) : (s.modPair k f).mesh = s.mesh := rfl
@[simp] theorem State.modPair_dies (s : State) (k : Nat) (f : Pair → Pair) : (s.modPair k f).dies = s.dies := rfl
@[simp] theorem State.modPair_engines (s : State) (k : Nat) (f : Pair → Pair) : (s.modPair k f).engines = s.engines := rfl
@[simp] theorem State.modPair_banks (s : State) (k : Nat) (f : Pair → Pair) : (s.modPair k f).banks = s.banks := rfl
@[simp] theorem State.modPair_cmds (s : State) (k : Nat) (f : Pair → Pair) : (s.modPair k f).cmds = s.cmds := rfl
@[simp] theorem State.modPair_jobs (s : State) (k : Nat) (f : Pair → Pair) : (s.modPair k f).jobs = s.jobs := rfl
@[simp] theorem State.modPair_arrays (s : State) (k : Nat) (f : Pair → Pair) : (s.modPair k f).arrays = s.arrays := rfl
@[simp] theorem State.modPair_qfe (s : State) (k : Nat) (f : Pair → Pair) : (s.modPair k f).qfe = s.qfe := rfl
@[simp] theorem State.modPair_portA (s : State) (k : Nat) (f : Pair → Pair) : (s.modPair k f).portA = s.portA := rfl
@[simp] theorem State.modPair_portB (s : State) (k : Nat) (f : Pair → Pair) : (s.modPair k f).portB = s.portB := rfl
@[simp] theorem State.modPair_spin (s : State) (k : Nat) (f : Pair → Pair) : (s.modPair k f).spin = s.spin := rfl
@[simp] theorem State.modPair_grf (s : State) (k : Nat) (f : Pair → Pair) : (s.modPair k f).grf = s.grf := rfl
@[simp] theorem State.modPair_hbm (s : State) (k : Nat) (f : Pair → Pair) : (s.modPair k f).hbm = s.hbm := rfl
@[simp] theorem State.modPair_fls (s : State) (k : Nat) (f : Pair → Pair) : (s.modPair k f).fls = s.fls := rfl
@[simp] theorem State.modPair_pwr (s : State) (k : Nat) (f : Pair → Pair) : (s.modPair k f).pwr = s.pwr := rfl
@[simp] theorem State.modPair_hostA (s : State) (k : Nat) (f : Pair → Pair) : (s.modPair k f).hostA = s.hostA := rfl
@[simp] theorem State.modPair_hostB (s : State) (k : Nat) (f : Pair → Pair) : (s.modPair k f).hostB = s.hostB := rfl
@[simp] theorem State.modPair_sec (s : State) (k : Nat) (f : Pair → Pair) : (s.modPair k f).sec = s.sec := rfl
@[simp] theorem State.modPair_flt (s : State) (k : Nat) (f : Pair → Pair) : (s.modPair k f).flt = s.flt := rfl
@[simp] theorem State.modPair_mgmt (s : State) (k : Nat) (f : Pair → Pair) : (s.modPair k f).mgmt = s.mgmt := rfl

/-! ### `State.setTx` -/

@[simp] theorem State.setTx_pending (s : State) (k : Nat) (x : Stream) : (s.setTx k x).pending = s.pending := rfl
@[simp] theorem State.setTx_time (s : State) (k : Nat) (x : Stream) : (s.setTx k x).time = s.time := rfl
@[simp] theorem State.setTx_draws (s : State) (k : Nat) (x : Stream) : (s.setTx k x).draws = s.draws := rfl
@[simp] theorem State.setTx_reply (s : State) (k : Nat) (x : Stream) : (s.setTx k x).reply = s.reply := rfl
@[simp] theorem State.setTx_sent (s : State) (k : Nat) (x : Stream) : (s.setTx k x).sent = s.sent := rfl
@[simp] theorem State.setTx_mem (s : State) (k : Nat) (x : Stream) : (s.setTx k x).mem = s.mem := rfl
@[simp] theorem State.setTx_mesh (s : State) (k : Nat) (x : Stream) : (s.setTx k x).mesh = s.mesh := rfl
@[simp] theorem State.setTx_dies (s : State) (k : Nat) (x : Stream) : (s.setTx k x).dies = s.dies := rfl
@[simp] theorem State.setTx_engines (s : State) (k : Nat) (x : Stream) : (s.setTx k x).engines = s.engines := rfl
@[simp] theorem State.setTx_banks (s : State) (k : Nat) (x : Stream) : (s.setTx k x).banks = s.banks := rfl
@[simp] theorem State.setTx_cmds (s : State) (k : Nat) (x : Stream) : (s.setTx k x).cmds = s.cmds := rfl
@[simp] theorem State.setTx_jobs (s : State) (k : Nat) (x : Stream) : (s.setTx k x).jobs = s.jobs := rfl
@[simp] theorem State.setTx_arrays (s : State) (k : Nat) (x : Stream) : (s.setTx k x).arrays = s.arrays := rfl
@[simp] theorem State.setTx_qfe (s : State) (k : Nat) (x : Stream) : (s.setTx k x).qfe = s.qfe := rfl
@[simp] theorem State.setTx_portA (s : State) (k : Nat) (x : Stream) : (s.setTx k x).portA = s.portA := rfl
@[simp] theorem State.setTx_portB (s : State) (k : Nat) (x : Stream) : (s.setTx k x).portB = s.portB := rfl
@[simp] theorem State.setTx_spin (s : State) (k : Nat) (x : Stream) : (s.setTx k x).spin = s.spin := rfl
@[simp] theorem State.setTx_grf (s : State) (k : Nat) (x : Stream) : (s.setTx k x).grf = s.grf := rfl
@[simp] theorem State.setTx_hbm (s : State) (k : Nat) (x : Stream) : (s.setTx k x).hbm = s.hbm := rfl
@[simp] theorem State.setTx_fls (s : State) (k : Nat) (x : Stream) : (s.setTx k x).fls = s.fls := rfl
@[simp] theorem State.setTx_pwr (s : State) (k : Nat) (x : Stream) : (s.setTx k x).pwr = s.pwr := rfl
@[simp] theorem State.setTx_hostA (s : State) (k : Nat) (x : Stream) : (s.setTx k x).hostA = s.hostA := rfl
@[simp] theorem State.setTx_hostB (s : State) (k : Nat) (x : Stream) : (s.setTx k x).hostB = s.hostB := rfl
@[simp] theorem State.setTx_sec (s : State) (k : Nat) (x : Stream) : (s.setTx k x).sec = s.sec := rfl
@[simp] theorem State.setTx_flt (s : State) (k : Nat) (x : Stream) : (s.setTx k x).flt = s.flt := rfl
@[simp] theorem State.setTx_mgmt (s : State) (k : Nat) (x : Stream) : (s.setTx k x).mgmt = s.mgmt := rfl

/-! ### `State.setRx` -/

@[simp] theorem State.setRx_pending (s : State) (k : Nat) (x : Stream) : (s.setRx k x).pending = s.pending := rfl
@[simp] theorem State.setRx_time (s : State) (k : Nat) (x : Stream) : (s.setRx k x).time = s.time := rfl
@[simp] theorem State.setRx_draws (s : State) (k : Nat) (x : Stream) : (s.setRx k x).draws = s.draws := rfl
@[simp] theorem State.setRx_reply (s : State) (k : Nat) (x : Stream) : (s.setRx k x).reply = s.reply := rfl
@[simp] theorem State.setRx_sent (s : State) (k : Nat) (x : Stream) : (s.setRx k x).sent = s.sent := rfl
@[simp] theorem State.setRx_mem (s : State) (k : Nat) (x : Stream) : (s.setRx k x).mem = s.mem := rfl
@[simp] theorem State.setRx_mesh (s : State) (k : Nat) (x : Stream) : (s.setRx k x).mesh = s.mesh := rfl
@[simp] theorem State.setRx_dies (s : State) (k : Nat) (x : Stream) : (s.setRx k x).dies = s.dies := rfl
@[simp] theorem State.setRx_engines (s : State) (k : Nat) (x : Stream) : (s.setRx k x).engines = s.engines := rfl
@[simp] theorem State.setRx_banks (s : State) (k : Nat) (x : Stream) : (s.setRx k x).banks = s.banks := rfl
@[simp] theorem State.setRx_cmds (s : State) (k : Nat) (x : Stream) : (s.setRx k x).cmds = s.cmds := rfl
@[simp] theorem State.setRx_jobs (s : State) (k : Nat) (x : Stream) : (s.setRx k x).jobs = s.jobs := rfl
@[simp] theorem State.setRx_arrays (s : State) (k : Nat) (x : Stream) : (s.setRx k x).arrays = s.arrays := rfl
@[simp] theorem State.setRx_qfe (s : State) (k : Nat) (x : Stream) : (s.setRx k x).qfe = s.qfe := rfl
@[simp] theorem State.setRx_portA (s : State) (k : Nat) (x : Stream) : (s.setRx k x).portA = s.portA := rfl
@[simp] theorem State.setRx_portB (s : State) (k : Nat) (x : Stream) : (s.setRx k x).portB = s.portB := rfl
@[simp] theorem State.setRx_spin (s : State) (k : Nat) (x : Stream) : (s.setRx k x).spin = s.spin := rfl
@[simp] theorem State.setRx_grf (s : State) (k : Nat) (x : Stream) : (s.setRx k x).grf = s.grf := rfl
@[simp] theorem State.setRx_hbm (s : State) (k : Nat) (x : Stream) : (s.setRx k x).hbm = s.hbm := rfl
@[simp] theorem State.setRx_fls (s : State) (k : Nat) (x : Stream) : (s.setRx k x).fls = s.fls := rfl
@[simp] theorem State.setRx_pwr (s : State) (k : Nat) (x : Stream) : (s.setRx k x).pwr = s.pwr := rfl
@[simp] theorem State.setRx_hostA (s : State) (k : Nat) (x : Stream) : (s.setRx k x).hostA = s.hostA := rfl
@[simp] theorem State.setRx_hostB (s : State) (k : Nat) (x : Stream) : (s.setRx k x).hostB = s.hostB := rfl
@[simp] theorem State.setRx_sec (s : State) (k : Nat) (x : Stream) : (s.setRx k x).sec = s.sec := rfl
@[simp] theorem State.setRx_flt (s : State) (k : Nat) (x : Stream) : (s.setRx k x).flt = s.flt := rfl
@[simp] theorem State.setRx_mgmt (s : State) (k : Nat) (x : Stream) : (s.setRx k x).mgmt = s.mgmt := rfl

/-! ### `State.setLaunch` -/

@[simp] theorem State.setLaunch_pending (s : State) (c : Nat) (l : Launch) : (s.setLaunch c l).pending = s.pending := rfl
@[simp] theorem State.setLaunch_time (s : State) (c : Nat) (l : Launch) : (s.setLaunch c l).time = s.time := rfl
@[simp] theorem State.setLaunch_draws (s : State) (c : Nat) (l : Launch) : (s.setLaunch c l).draws = s.draws := rfl
@[simp] theorem State.setLaunch_reply (s : State) (c : Nat) (l : Launch) : (s.setLaunch c l).reply = s.reply := rfl
@[simp] theorem State.setLaunch_sent (s : State) (c : Nat) (l : Launch) : (s.setLaunch c l).sent = s.sent := rfl
@[simp] theorem State.setLaunch_mem (s : State) (c : Nat) (l : Launch) : (s.setLaunch c l).mem = s.mem := rfl
@[simp] theorem State.setLaunch_mesh (s : State) (c : Nat) (l : Launch) : (s.setLaunch c l).mesh = s.mesh := rfl
@[simp] theorem State.setLaunch_dies (s : State) (c : Nat) (l : Launch) : (s.setLaunch c l).dies = s.dies := rfl
@[simp] theorem State.setLaunch_engines (s : State) (c : Nat) (l : Launch) : (s.setLaunch c l).engines = s.engines := rfl
@[simp] theorem State.setLaunch_banks (s : State) (c : Nat) (l : Launch) : (s.setLaunch c l).banks = s.banks := rfl
@[simp] theorem State.setLaunch_cmds (s : State) (c : Nat) (l : Launch) : (s.setLaunch c l).cmds = s.cmds := rfl
@[simp] theorem State.setLaunch_jobs (s : State) (c : Nat) (l : Launch) : (s.setLaunch c l).jobs = s.jobs := rfl
@[simp] theorem State.setLaunch_arrays (s : State) (c : Nat) (l : Launch) : (s.setLaunch c l).arrays = s.arrays := rfl
@[simp] theorem State.setLaunch_qfe (s : State) (c : Nat) (l : Launch) : (s.setLaunch c l).qfe = s.qfe := rfl
@[simp] theorem State.setLaunch_portA (s : State) (c : Nat) (l : Launch) : (s.setLaunch c l).portA = s.portA := rfl
@[simp] theorem State.setLaunch_portB (s : State) (c : Nat) (l : Launch) : (s.setLaunch c l).portB = s.portB := rfl
@[simp] theorem State.setLaunch_grf (s : State) (c : Nat) (l : Launch) : (s.setLaunch c l).grf = s.grf := rfl
@[simp] theorem State.setLaunch_hbm (s : State) (c : Nat) (l : Launch) : (s.setLaunch c l).hbm = s.hbm := rfl
@[simp] theorem State.setLaunch_fls (s : State) (c : Nat) (l : Launch) : (s.setLaunch c l).fls = s.fls := rfl
@[simp] theorem State.setLaunch_opx (s : State) (c : Nat) (l : Launch) : (s.setLaunch c l).opx = s.opx := rfl
@[simp] theorem State.setLaunch_pwr (s : State) (c : Nat) (l : Launch) : (s.setLaunch c l).pwr = s.pwr := rfl
@[simp] theorem State.setLaunch_hostA (s : State) (c : Nat) (l : Launch) : (s.setLaunch c l).hostA = s.hostA := rfl
@[simp] theorem State.setLaunch_hostB (s : State) (c : Nat) (l : Launch) : (s.setLaunch c l).hostB = s.hostB := rfl
@[simp] theorem State.setLaunch_sec (s : State) (c : Nat) (l : Launch) : (s.setLaunch c l).sec = s.sec := rfl
@[simp] theorem State.setLaunch_flt (s : State) (c : Nat) (l : Launch) : (s.setLaunch c l).flt = s.flt := rfl
@[simp] theorem State.setLaunch_mgmt (s : State) (c : Nat) (l : Launch) : (s.setLaunch c l).mgmt = s.mgmt := rfl

/-! ### `State.setProblem` -/

@[simp] theorem State.setProblem_pending (s : State) (i : Nat) (p : Problem) : (s.setProblem i p).pending = s.pending := rfl
@[simp] theorem State.setProblem_time (s : State) (i : Nat) (p : Problem) : (s.setProblem i p).time = s.time := rfl
@[simp] theorem State.setProblem_draws (s : State) (i : Nat) (p : Problem) : (s.setProblem i p).draws = s.draws := rfl
@[simp] theorem State.setProblem_reply (s : State) (i : Nat) (p : Problem) : (s.setProblem i p).reply = s.reply := rfl
@[simp] theorem State.setProblem_sent (s : State) (i : Nat) (p : Problem) : (s.setProblem i p).sent = s.sent := rfl
@[simp] theorem State.setProblem_mem (s : State) (i : Nat) (p : Problem) : (s.setProblem i p).mem = s.mem := rfl
@[simp] theorem State.setProblem_mesh (s : State) (i : Nat) (p : Problem) : (s.setProblem i p).mesh = s.mesh := rfl
@[simp] theorem State.setProblem_dies (s : State) (i : Nat) (p : Problem) : (s.setProblem i p).dies = s.dies := rfl
@[simp] theorem State.setProblem_engines (s : State) (i : Nat) (p : Problem) : (s.setProblem i p).engines = s.engines := rfl
@[simp] theorem State.setProblem_banks (s : State) (i : Nat) (p : Problem) : (s.setProblem i p).banks = s.banks := rfl
@[simp] theorem State.setProblem_cmds (s : State) (i : Nat) (p : Problem) : (s.setProblem i p).cmds = s.cmds := rfl
@[simp] theorem State.setProblem_jobs (s : State) (i : Nat) (p : Problem) : (s.setProblem i p).jobs = s.jobs := rfl
@[simp] theorem State.setProblem_arrays (s : State) (i : Nat) (p : Problem) : (s.setProblem i p).arrays = s.arrays := rfl
@[simp] theorem State.setProblem_qfe (s : State) (i : Nat) (p : Problem) : (s.setProblem i p).qfe = s.qfe := rfl
@[simp] theorem State.setProblem_portA (s : State) (i : Nat) (p : Problem) : (s.setProblem i p).portA = s.portA := rfl
@[simp] theorem State.setProblem_portB (s : State) (i : Nat) (p : Problem) : (s.setProblem i p).portB = s.portB := rfl
@[simp] theorem State.setProblem_grf (s : State) (i : Nat) (p : Problem) : (s.setProblem i p).grf = s.grf := rfl
@[simp] theorem State.setProblem_hbm (s : State) (i : Nat) (p : Problem) : (s.setProblem i p).hbm = s.hbm := rfl
@[simp] theorem State.setProblem_fls (s : State) (i : Nat) (p : Problem) : (s.setProblem i p).fls = s.fls := rfl
@[simp] theorem State.setProblem_opx (s : State) (i : Nat) (p : Problem) : (s.setProblem i p).opx = s.opx := rfl
@[simp] theorem State.setProblem_pwr (s : State) (i : Nat) (p : Problem) : (s.setProblem i p).pwr = s.pwr := rfl
@[simp] theorem State.setProblem_hostA (s : State) (i : Nat) (p : Problem) : (s.setProblem i p).hostA = s.hostA := rfl
@[simp] theorem State.setProblem_hostB (s : State) (i : Nat) (p : Problem) : (s.setProblem i p).hostB = s.hostB := rfl
@[simp] theorem State.setProblem_sec (s : State) (i : Nat) (p : Problem) : (s.setProblem i p).sec = s.sec := rfl
@[simp] theorem State.setProblem_flt (s : State) (i : Nat) (p : Problem) : (s.setProblem i p).flt = s.flt := rfl
@[simp] theorem State.setProblem_mgmt (s : State) (i : Nat) (p : Problem) : (s.setProblem i p).mgmt = s.mgmt := rfl

/-! ### `State.setGraph` -/

@[simp] theorem State.setGraph_pending (s : State) (i : Nat) (g : Graph) : (s.setGraph i g).pending = s.pending := rfl
@[simp] theorem State.setGraph_time (s : State) (i : Nat) (g : Graph) : (s.setGraph i g).time = s.time := rfl
@[simp] theorem State.setGraph_draws (s : State) (i : Nat) (g : Graph) : (s.setGraph i g).draws = s.draws := rfl
@[simp] theorem State.setGraph_reply (s : State) (i : Nat) (g : Graph) : (s.setGraph i g).reply = s.reply := rfl
@[simp] theorem State.setGraph_sent (s : State) (i : Nat) (g : Graph) : (s.setGraph i g).sent = s.sent := rfl
@[simp] theorem State.setGraph_mem (s : State) (i : Nat) (g : Graph) : (s.setGraph i g).mem = s.mem := rfl
@[simp] theorem State.setGraph_mesh (s : State) (i : Nat) (g : Graph) : (s.setGraph i g).mesh = s.mesh := rfl
@[simp] theorem State.setGraph_dies (s : State) (i : Nat) (g : Graph) : (s.setGraph i g).dies = s.dies := rfl
@[simp] theorem State.setGraph_engines (s : State) (i : Nat) (g : Graph) : (s.setGraph i g).engines = s.engines := rfl
@[simp] theorem State.setGraph_banks (s : State) (i : Nat) (g : Graph) : (s.setGraph i g).banks = s.banks := rfl
@[simp] theorem State.setGraph_cmds (s : State) (i : Nat) (g : Graph) : (s.setGraph i g).cmds = s.cmds := rfl
@[simp] theorem State.setGraph_jobs (s : State) (i : Nat) (g : Graph) : (s.setGraph i g).jobs = s.jobs := rfl
@[simp] theorem State.setGraph_arrays (s : State) (i : Nat) (g : Graph) : (s.setGraph i g).arrays = s.arrays := rfl
@[simp] theorem State.setGraph_qfe (s : State) (i : Nat) (g : Graph) : (s.setGraph i g).qfe = s.qfe := rfl
@[simp] theorem State.setGraph_portA (s : State) (i : Nat) (g : Graph) : (s.setGraph i g).portA = s.portA := rfl
@[simp] theorem State.setGraph_portB (s : State) (i : Nat) (g : Graph) : (s.setGraph i g).portB = s.portB := rfl
@[simp] theorem State.setGraph_spin (s : State) (i : Nat) (g : Graph) : (s.setGraph i g).spin = s.spin := rfl
@[simp] theorem State.setGraph_hbm (s : State) (i : Nat) (g : Graph) : (s.setGraph i g).hbm = s.hbm := rfl
@[simp] theorem State.setGraph_fls (s : State) (i : Nat) (g : Graph) : (s.setGraph i g).fls = s.fls := rfl
@[simp] theorem State.setGraph_opx (s : State) (i : Nat) (g : Graph) : (s.setGraph i g).opx = s.opx := rfl
@[simp] theorem State.setGraph_pwr (s : State) (i : Nat) (g : Graph) : (s.setGraph i g).pwr = s.pwr := rfl
@[simp] theorem State.setGraph_hostA (s : State) (i : Nat) (g : Graph) : (s.setGraph i g).hostA = s.hostA := rfl
@[simp] theorem State.setGraph_hostB (s : State) (i : Nat) (g : Graph) : (s.setGraph i g).hostB = s.hostB := rfl
@[simp] theorem State.setGraph_sec (s : State) (i : Nat) (g : Graph) : (s.setGraph i g).sec = s.sec := rfl
@[simp] theorem State.setGraph_flt (s : State) (i : Nat) (g : Graph) : (s.setGraph i g).flt = s.flt := rfl
@[simp] theorem State.setGraph_mgmt (s : State) (i : Nat) (g : Graph) : (s.setGraph i g).mgmt = s.mgmt := rfl

/-! ### `State.setGraphLaunch` -/

@[simp] theorem State.setGraphLaunch_pending (s : State) (c : Nat) (l : GraphLaunch) : (s.setGraphLaunch c l).pending = s.pending := rfl
@[simp] theorem State.setGraphLaunch_time (s : State) (c : Nat) (l : GraphLaunch) : (s.setGraphLaunch c l).time = s.time := rfl
@[simp] theorem State.setGraphLaunch_draws (s : State) (c : Nat) (l : GraphLaunch) : (s.setGraphLaunch c l).draws = s.draws := rfl
@[simp] theorem State.setGraphLaunch_reply (s : State) (c : Nat) (l : GraphLaunch) : (s.setGraphLaunch c l).reply = s.reply := rfl
@[simp] theorem State.setGraphLaunch_sent (s : State) (c : Nat) (l : GraphLaunch) : (s.setGraphLaunch c l).sent = s.sent := rfl
@[simp] theorem State.setGraphLaunch_mem (s : State) (c : Nat) (l : GraphLaunch) : (s.setGraphLaunch c l).mem = s.mem := rfl
@[simp] theorem State.setGraphLaunch_mesh (s : State) (c : Nat) (l : GraphLaunch) : (s.setGraphLaunch c l).mesh = s.mesh := rfl
@[simp] theorem State.setGraphLaunch_dies (s : State) (c : Nat) (l : GraphLaunch) : (s.setGraphLaunch c l).dies = s.dies := rfl
@[simp] theorem State.setGraphLaunch_engines (s : State) (c : Nat) (l : GraphLaunch) : (s.setGraphLaunch c l).engines = s.engines := rfl
@[simp] theorem State.setGraphLaunch_banks (s : State) (c : Nat) (l : GraphLaunch) : (s.setGraphLaunch c l).banks = s.banks := rfl
@[simp] theorem State.setGraphLaunch_cmds (s : State) (c : Nat) (l : GraphLaunch) : (s.setGraphLaunch c l).cmds = s.cmds := rfl
@[simp] theorem State.setGraphLaunch_jobs (s : State) (c : Nat) (l : GraphLaunch) : (s.setGraphLaunch c l).jobs = s.jobs := rfl
@[simp] theorem State.setGraphLaunch_arrays (s : State) (c : Nat) (l : GraphLaunch) : (s.setGraphLaunch c l).arrays = s.arrays := rfl
@[simp] theorem State.setGraphLaunch_qfe (s : State) (c : Nat) (l : GraphLaunch) : (s.setGraphLaunch c l).qfe = s.qfe := rfl
@[simp] theorem State.setGraphLaunch_portA (s : State) (c : Nat) (l : GraphLaunch) : (s.setGraphLaunch c l).portA = s.portA := rfl
@[simp] theorem State.setGraphLaunch_portB (s : State) (c : Nat) (l : GraphLaunch) : (s.setGraphLaunch c l).portB = s.portB := rfl
@[simp] theorem State.setGraphLaunch_spin (s : State) (c : Nat) (l : GraphLaunch) : (s.setGraphLaunch c l).spin = s.spin := rfl
@[simp] theorem State.setGraphLaunch_hbm (s : State) (c : Nat) (l : GraphLaunch) : (s.setGraphLaunch c l).hbm = s.hbm := rfl
@[simp] theorem State.setGraphLaunch_fls (s : State) (c : Nat) (l : GraphLaunch) : (s.setGraphLaunch c l).fls = s.fls := rfl
@[simp] theorem State.setGraphLaunch_opx (s : State) (c : Nat) (l : GraphLaunch) : (s.setGraphLaunch c l).opx = s.opx := rfl
@[simp] theorem State.setGraphLaunch_pwr (s : State) (c : Nat) (l : GraphLaunch) : (s.setGraphLaunch c l).pwr = s.pwr := rfl
@[simp] theorem State.setGraphLaunch_hostA (s : State) (c : Nat) (l : GraphLaunch) : (s.setGraphLaunch c l).hostA = s.hostA := rfl
@[simp] theorem State.setGraphLaunch_hostB (s : State) (c : Nat) (l : GraphLaunch) : (s.setGraphLaunch c l).hostB = s.hostB := rfl
@[simp] theorem State.setGraphLaunch_sec (s : State) (c : Nat) (l : GraphLaunch) : (s.setGraphLaunch c l).sec = s.sec := rfl
@[simp] theorem State.setGraphLaunch_flt (s : State) (c : Nat) (l : GraphLaunch) : (s.setGraphLaunch c l).flt = s.flt := rfl
@[simp] theorem State.setGraphLaunch_mgmt (s : State) (c : Nat) (l : GraphLaunch) : (s.setGraphLaunch c l).mgmt = s.mgmt := rfl

/-! ### `State.setStore` -/

@[simp] theorem State.setStore_pending (s : State) (i : Nat) (f : FlashStore) : (s.setStore i f).pending = s.pending := rfl
@[simp] theorem State.setStore_time (s : State) (i : Nat) (f : FlashStore) : (s.setStore i f).time = s.time := rfl
@[simp] theorem State.setStore_draws (s : State) (i : Nat) (f : FlashStore) : (s.setStore i f).draws = s.draws := rfl
@[simp] theorem State.setStore_reply (s : State) (i : Nat) (f : FlashStore) : (s.setStore i f).reply = s.reply := rfl
@[simp] theorem State.setStore_sent (s : State) (i : Nat) (f : FlashStore) : (s.setStore i f).sent = s.sent := rfl
@[simp] theorem State.setStore_mem (s : State) (i : Nat) (f : FlashStore) : (s.setStore i f).mem = s.mem := rfl
@[simp] theorem State.setStore_mesh (s : State) (i : Nat) (f : FlashStore) : (s.setStore i f).mesh = s.mesh := rfl
@[simp] theorem State.setStore_dies (s : State) (i : Nat) (f : FlashStore) : (s.setStore i f).dies = s.dies := rfl
@[simp] theorem State.setStore_engines (s : State) (i : Nat) (f : FlashStore) : (s.setStore i f).engines = s.engines := rfl
@[simp] theorem State.setStore_banks (s : State) (i : Nat) (f : FlashStore) : (s.setStore i f).banks = s.banks := rfl
@[simp] theorem State.setStore_cmds (s : State) (i : Nat) (f : FlashStore) : (s.setStore i f).cmds = s.cmds := rfl
@[simp] theorem State.setStore_jobs (s : State) (i : Nat) (f : FlashStore) : (s.setStore i f).jobs = s.jobs := rfl
@[simp] theorem State.setStore_arrays (s : State) (i : Nat) (f : FlashStore) : (s.setStore i f).arrays = s.arrays := rfl
@[simp] theorem State.setStore_qfe (s : State) (i : Nat) (f : FlashStore) : (s.setStore i f).qfe = s.qfe := rfl
@[simp] theorem State.setStore_portA (s : State) (i : Nat) (f : FlashStore) : (s.setStore i f).portA = s.portA := rfl
@[simp] theorem State.setStore_portB (s : State) (i : Nat) (f : FlashStore) : (s.setStore i f).portB = s.portB := rfl
@[simp] theorem State.setStore_spin (s : State) (i : Nat) (f : FlashStore) : (s.setStore i f).spin = s.spin := rfl
@[simp] theorem State.setStore_grf (s : State) (i : Nat) (f : FlashStore) : (s.setStore i f).grf = s.grf := rfl
@[simp] theorem State.setStore_hbm (s : State) (i : Nat) (f : FlashStore) : (s.setStore i f).hbm = s.hbm := rfl
@[simp] theorem State.setStore_opx (s : State) (i : Nat) (f : FlashStore) : (s.setStore i f).opx = s.opx := rfl
@[simp] theorem State.setStore_pwr (s : State) (i : Nat) (f : FlashStore) : (s.setStore i f).pwr = s.pwr := rfl
@[simp] theorem State.setStore_hostA (s : State) (i : Nat) (f : FlashStore) : (s.setStore i f).hostA = s.hostA := rfl
@[simp] theorem State.setStore_hostB (s : State) (i : Nat) (f : FlashStore) : (s.setStore i f).hostB = s.hostB := rfl
@[simp] theorem State.setStore_sec (s : State) (i : Nat) (f : FlashStore) : (s.setStore i f).sec = s.sec := rfl
@[simp] theorem State.setStore_flt (s : State) (i : Nat) (f : FlashStore) : (s.setStore i f).flt = s.flt := rfl
@[simp] theorem State.setStore_mgmt (s : State) (i : Nat) (f : FlashStore) : (s.setStore i f).mgmt = s.mgmt := rfl

/-! ### `State.setEnt` -/

@[simp] theorem State.setEnt_pending (s : State) (h : Port) (x : Entropy) : (s.setEnt h x).pending = s.pending := by cases h <;> rfl
@[simp] theorem State.setEnt_time (s : State) (h : Port) (x : Entropy) : (s.setEnt h x).time = s.time := by cases h <;> rfl
@[simp] theorem State.setEnt_draws (s : State) (h : Port) (x : Entropy) : (s.setEnt h x).draws = s.draws := by cases h <;> rfl
@[simp] theorem State.setEnt_reply (s : State) (h : Port) (x : Entropy) : (s.setEnt h x).reply = s.reply := by cases h <;> rfl
@[simp] theorem State.setEnt_sent (s : State) (h : Port) (x : Entropy) : (s.setEnt h x).sent = s.sent := by cases h <;> rfl
@[simp] theorem State.setEnt_mem (s : State) (h : Port) (x : Entropy) : (s.setEnt h x).mem = s.mem := by cases h <;> rfl
@[simp] theorem State.setEnt_mesh (s : State) (h : Port) (x : Entropy) : (s.setEnt h x).mesh = s.mesh := by cases h <;> rfl
@[simp] theorem State.setEnt_dies (s : State) (h : Port) (x : Entropy) : (s.setEnt h x).dies = s.dies := by cases h <;> rfl
@[simp] theorem State.setEnt_engines (s : State) (h : Port) (x : Entropy) : (s.setEnt h x).engines = s.engines := by cases h <;> rfl
@[simp] theorem State.setEnt_banks (s : State) (h : Port) (x : Entropy) : (s.setEnt h x).banks = s.banks := by cases h <;> rfl
@[simp] theorem State.setEnt_cmds (s : State) (h : Port) (x : Entropy) : (s.setEnt h x).cmds = s.cmds := by cases h <;> rfl
@[simp] theorem State.setEnt_jobs (s : State) (h : Port) (x : Entropy) : (s.setEnt h x).jobs = s.jobs := by cases h <;> rfl
@[simp] theorem State.setEnt_arrays (s : State) (h : Port) (x : Entropy) : (s.setEnt h x).arrays = s.arrays := by cases h <;> rfl
@[simp] theorem State.setEnt_qfe (s : State) (h : Port) (x : Entropy) : (s.setEnt h x).qfe = s.qfe := by cases h <;> rfl
@[simp] theorem State.setEnt_portA (s : State) (h : Port) (x : Entropy) : (s.setEnt h x).portA = s.portA := by cases h <;> rfl
@[simp] theorem State.setEnt_portB (s : State) (h : Port) (x : Entropy) : (s.setEnt h x).portB = s.portB := by cases h <;> rfl
@[simp] theorem State.setEnt_spin (s : State) (h : Port) (x : Entropy) : (s.setEnt h x).spin = s.spin := by cases h <;> rfl
@[simp] theorem State.setEnt_grf (s : State) (h : Port) (x : Entropy) : (s.setEnt h x).grf = s.grf := by cases h <;> rfl
@[simp] theorem State.setEnt_hbm (s : State) (h : Port) (x : Entropy) : (s.setEnt h x).hbm = s.hbm := by cases h <;> rfl
@[simp] theorem State.setEnt_fls (s : State) (h : Port) (x : Entropy) : (s.setEnt h x).fls = s.fls := by cases h <;> rfl
@[simp] theorem State.setEnt_opx (s : State) (h : Port) (x : Entropy) : (s.setEnt h x).opx = s.opx := by cases h <;> rfl
@[simp] theorem State.setEnt_pwr (s : State) (h : Port) (x : Entropy) : (s.setEnt h x).pwr = s.pwr := by cases h <;> rfl
@[simp] theorem State.setEnt_sec (s : State) (h : Port) (x : Entropy) : (s.setEnt h x).sec = s.sec := by cases h <;> rfl
@[simp] theorem State.setEnt_flt (s : State) (h : Port) (x : Entropy) : (s.setEnt h x).flt = s.flt := by cases h <;> rfl
@[simp] theorem State.setEnt_mgmt (s : State) (h : Port) (x : Entropy) : (s.setEnt h x).mgmt = s.mgmt := by cases h <;> rfl

/-! ### `State.write` -/

@[simp] theorem State.write_pending (s : State) (sp : Space) (a : Nat) (b : List Byte) : (s.write sp a b).pending = s.pending := rfl
@[simp] theorem State.write_time (s : State) (sp : Space) (a : Nat) (b : List Byte) : (s.write sp a b).time = s.time := rfl
@[simp] theorem State.write_draws (s : State) (sp : Space) (a : Nat) (b : List Byte) : (s.write sp a b).draws = s.draws := rfl
@[simp] theorem State.write_reply (s : State) (sp : Space) (a : Nat) (b : List Byte) : (s.write sp a b).reply = s.reply := rfl
@[simp] theorem State.write_sent (s : State) (sp : Space) (a : Nat) (b : List Byte) : (s.write sp a b).sent = s.sent := rfl
@[simp] theorem State.write_mesh (s : State) (sp : Space) (a : Nat) (b : List Byte) : (s.write sp a b).mesh = s.mesh := rfl
@[simp] theorem State.write_dies (s : State) (sp : Space) (a : Nat) (b : List Byte) : (s.write sp a b).dies = s.dies := rfl
@[simp] theorem State.write_engines (s : State) (sp : Space) (a : Nat) (b : List Byte) : (s.write sp a b).engines = s.engines := rfl
@[simp] theorem State.write_banks (s : State) (sp : Space) (a : Nat) (b : List Byte) : (s.write sp a b).banks = s.banks := rfl
@[simp] theorem State.write_cmds (s : State) (sp : Space) (a : Nat) (b : List Byte) : (s.write sp a b).cmds = s.cmds := rfl
@[simp] theorem State.write_jobs (s : State) (sp : Space) (a : Nat) (b : List Byte) : (s.write sp a b).jobs = s.jobs := rfl
@[simp] theorem State.write_arrays (s : State) (sp : Space) (a : Nat) (b : List Byte) : (s.write sp a b).arrays = s.arrays := rfl
@[simp] theorem State.write_qfe (s : State) (sp : Space) (a : Nat) (b : List Byte) : (s.write sp a b).qfe = s.qfe := rfl
@[simp] theorem State.write_portA (s : State) (sp : Space) (a : Nat) (b : List Byte) : (s.write sp a b).portA = s.portA := rfl
@[simp] theorem State.write_portB (s : State) (sp : Space) (a : Nat) (b : List Byte) : (s.write sp a b).portB = s.portB := rfl
@[simp] theorem State.write_spin (s : State) (sp : Space) (a : Nat) (b : List Byte) : (s.write sp a b).spin = s.spin := rfl
@[simp] theorem State.write_grf (s : State) (sp : Space) (a : Nat) (b : List Byte) : (s.write sp a b).grf = s.grf := rfl
@[simp] theorem State.write_hbm (s : State) (sp : Space) (a : Nat) (b : List Byte) : (s.write sp a b).hbm = s.hbm := rfl
@[simp] theorem State.write_fls (s : State) (sp : Space) (a : Nat) (b : List Byte) : (s.write sp a b).fls = s.fls := rfl
@[simp] theorem State.write_opx (s : State) (sp : Space) (a : Nat) (b : List Byte) : (s.write sp a b).opx = s.opx := rfl
@[simp] theorem State.write_pwr (s : State) (sp : Space) (a : Nat) (b : List Byte) : (s.write sp a b).pwr = s.pwr := rfl
@[simp] theorem State.write_hostA (s : State) (sp : Space) (a : Nat) (b : List Byte) : (s.write sp a b).hostA = s.hostA := rfl
@[simp] theorem State.write_hostB (s : State) (sp : Space) (a : Nat) (b : List Byte) : (s.write sp a b).hostB = s.hostB := rfl
@[simp] theorem State.write_sec (s : State) (sp : Space) (a : Nat) (b : List Byte) : (s.write sp a b).sec = s.sec := rfl
@[simp] theorem State.write_flt (s : State) (sp : Space) (a : Nat) (b : List Byte) : (s.write sp a b).flt = s.flt := rfl
@[simp] theorem State.write_mgmt (s : State) (sp : Space) (a : Nat) (b : List Byte) : (s.write sp a b).mgmt = s.mgmt := rfl

/-! ### `State.clear` -/

@[simp] theorem State.clear_pending (s : State) (sp : Space) : (s.clear sp).pending = s.pending := rfl
@[simp] theorem State.clear_time (s : State) (sp : Space) : (s.clear sp).time = s.time := rfl
@[simp] theorem State.clear_draws (s : State) (sp : Space) : (s.clear sp).draws = s.draws := rfl
@[simp] theorem State.clear_reply (s : State) (sp : Space) : (s.clear sp).reply = s.reply := rfl
@[simp] theorem State.clear_sent (s : State) (sp : Space) : (s.clear sp).sent = s.sent := rfl
@[simp] theorem State.clear_mesh (s : State) (sp : Space) : (s.clear sp).mesh = s.mesh := rfl
@[simp] theorem State.clear_dies (s : State) (sp : Space) : (s.clear sp).dies = s.dies := rfl
@[simp] theorem State.clear_engines (s : State) (sp : Space) : (s.clear sp).engines = s.engines := rfl
@[simp] theorem State.clear_banks (s : State) (sp : Space) : (s.clear sp).banks = s.banks := rfl
@[simp] theorem State.clear_cmds (s : State) (sp : Space) : (s.clear sp).cmds = s.cmds := rfl
@[simp] theorem State.clear_jobs (s : State) (sp : Space) : (s.clear sp).jobs = s.jobs := rfl
@[simp] theorem State.clear_arrays (s : State) (sp : Space) : (s.clear sp).arrays = s.arrays := rfl
@[simp] theorem State.clear_qfe (s : State) (sp : Space) : (s.clear sp).qfe = s.qfe := rfl
@[simp] theorem State.clear_portA (s : State) (sp : Space) : (s.clear sp).portA = s.portA := rfl
@[simp] theorem State.clear_portB (s : State) (sp : Space) : (s.clear sp).portB = s.portB := rfl
@[simp] theorem State.clear_spin (s : State) (sp : Space) : (s.clear sp).spin = s.spin := rfl
@[simp] theorem State.clear_grf (s : State) (sp : Space) : (s.clear sp).grf = s.grf := rfl
@[simp] theorem State.clear_hbm (s : State) (sp : Space) : (s.clear sp).hbm = s.hbm := rfl
@[simp] theorem State.clear_fls (s : State) (sp : Space) : (s.clear sp).fls = s.fls := rfl
@[simp] theorem State.clear_opx (s : State) (sp : Space) : (s.clear sp).opx = s.opx := rfl
@[simp] theorem State.clear_pwr (s : State) (sp : Space) : (s.clear sp).pwr = s.pwr := rfl
@[simp] theorem State.clear_hostA (s : State) (sp : Space) : (s.clear sp).hostA = s.hostA := rfl
@[simp] theorem State.clear_hostB (s : State) (sp : Space) : (s.clear sp).hostB = s.hostB := rfl
@[simp] theorem State.clear_sec (s : State) (sp : Space) : (s.clear sp).sec = s.sec := rfl
@[simp] theorem State.clear_flt (s : State) (sp : Space) : (s.clear sp).flt = s.flt := rfl
@[simp] theorem State.clear_mgmt (s : State) (sp : Space) : (s.clear sp).mgmt = s.mgmt := rfl

/-! ### `State.send` -/

@[simp] theorem State.send_pending (s : State) (m : OutMsg) : (s.send m).pending = s.pending := rfl
@[simp] theorem State.send_time (s : State) (m : OutMsg) : (s.send m).time = s.time := rfl
@[simp] theorem State.send_draws (s : State) (m : OutMsg) : (s.send m).draws = s.draws := rfl
@[simp] theorem State.send_reply (s : State) (m : OutMsg) : (s.send m).reply = s.reply := rfl
@[simp] theorem State.send_mem (s : State) (m : OutMsg) : (s.send m).mem = s.mem := rfl
@[simp] theorem State.send_mesh (s : State) (m : OutMsg) : (s.send m).mesh = s.mesh := rfl
@[simp] theorem State.send_dies (s : State) (m : OutMsg) : (s.send m).dies = s.dies := rfl
@[simp] theorem State.send_engines (s : State) (m : OutMsg) : (s.send m).engines = s.engines := rfl
@[simp] theorem State.send_banks (s : State) (m : OutMsg) : (s.send m).banks = s.banks := rfl
@[simp] theorem State.send_cmds (s : State) (m : OutMsg) : (s.send m).cmds = s.cmds := rfl
@[simp] theorem State.send_jobs (s : State) (m : OutMsg) : (s.send m).jobs = s.jobs := rfl
@[simp] theorem State.send_arrays (s : State) (m : OutMsg) : (s.send m).arrays = s.arrays := rfl
@[simp] theorem State.send_qfe (s : State) (m : OutMsg) : (s.send m).qfe = s.qfe := rfl
@[simp] theorem State.send_portA (s : State) (m : OutMsg) : (s.send m).portA = s.portA := rfl
@[simp] theorem State.send_portB (s : State) (m : OutMsg) : (s.send m).portB = s.portB := rfl
@[simp] theorem State.send_spin (s : State) (m : OutMsg) : (s.send m).spin = s.spin := rfl
@[simp] theorem State.send_grf (s : State) (m : OutMsg) : (s.send m).grf = s.grf := rfl
@[simp] theorem State.send_hbm (s : State) (m : OutMsg) : (s.send m).hbm = s.hbm := rfl
@[simp] theorem State.send_fls (s : State) (m : OutMsg) : (s.send m).fls = s.fls := rfl
@[simp] theorem State.send_opx (s : State) (m : OutMsg) : (s.send m).opx = s.opx := rfl
@[simp] theorem State.send_pwr (s : State) (m : OutMsg) : (s.send m).pwr = s.pwr := rfl
@[simp] theorem State.send_hostA (s : State) (m : OutMsg) : (s.send m).hostA = s.hostA := rfl
@[simp] theorem State.send_hostB (s : State) (m : OutMsg) : (s.send m).hostB = s.hostB := rfl
@[simp] theorem State.send_sec (s : State) (m : OutMsg) : (s.send m).sec = s.sec := rfl
@[simp] theorem State.send_flt (s : State) (m : OutMsg) : (s.send m).flt = s.flt := rfl
@[simp] theorem State.send_mgmt (s : State) (m : OutMsg) : (s.send m).mgmt = s.mgmt := rfl

end Sys2Proof.Machine
end

