-- ==== Sys2Proof/Laws/Tables.lean ====
section
/-! SUPPORT. Sorted tables: what a read gives after each update, and that every update keeps the canonical form. -/

namespace Sys2Proof.Machine

variable {α : Type}

@[simp] theorem tblFind_put_same (t : Tbl α) (a : Nat) (x : α) : tblFind (tblPut t a x) a = some x := by
  induction t with
  | nil => simp [tblPut, tblFind]
  | cons e t ih =>
    obtain ⟨k, v⟩ := e
    unfold tblPut
    split
    · simp [tblFind, *]
    · split <;> simp [tblFind, *]

theorem tblFind_put_ne (t : Tbl α) {a b : Nat} (x : α) (h : b ≠ a) : tblFind (tblPut t a x) b = tblFind t b := by
  induction t with
  | nil => simp [tblPut, tblFind, Ne.symm h]
  | cons e t ih =>
    obtain ⟨k, v⟩ := e
    unfold tblPut
    split
    · subst_vars; simp [tblFind, Ne.symm h]
    · split <;> simp [tblFind, Ne.symm h, ih]

/-- Writing back the entry that the head of a key already has changes nothing. -/
theorem tblPut_twice (t : Tbl α) (a : Nat) (x y : α) : tblPut (tblPut t a x) a y = tblPut t a y := by
  induction t with
  | nil => simp [tblPut]
  | cons e t ih =>
    obtain ⟨k, v⟩ := e
    unfold tblPut
    by_cases h : k = a
    · simp [h, tblPut]
    · by_cases h' : a < k
      · simp [h, h', tblPut]
      · simp [h, h', tblPut, ih]

@[simp] theorem tblFind_del_same (t : Tbl α) (a : Nat) : tblFind (tblDel t a) a = none := by
  induction t with
  | nil => rfl
  | cons e t ih =>
    obtain ⟨k, v⟩ := e
    unfold tblDel at ih ⊢
    rw [List.filter_cons]
    split <;> simp_all [tblFind]

theorem tblFind_del_ne (t : Tbl α) {a b : Nat} (hb : b ≠ a) : tblFind (tblDel t a) b = tblFind t b := by
  induction t with
  | nil => rfl
  | cons e t ih =>
    obtain ⟨k, v⟩ := e
    unfold tblDel at ih ⊢
    rw [List.filter_cons]
    split <;> simp_all [tblFind, Ne.symm hb]

theorem tblFind_mem {t : Tbl α} {a : Nat} {x : α} (h : tblFind t a = some x) : (a, x) ∈ t := by
  induction t with
  | nil => simp [tblFind] at h
  | cons e t ih =>
    obtain ⟨k, v⟩ := e
    unfold tblFind at h
    split at h
    · simp_all
    · exact List.mem_cons_of_mem _ (ih h)

theorem tblPut_mem {t : Tbl α} {a : Nat} {x : α} {e : Nat × α} (h : e ∈ tblPut t a x) : e = (a, x) ∨ e ∈ t := by
  induction t with
  | nil => simpa [tblPut] using h
  | cons y t ih =>
    obtain ⟨k, v⟩ := y
    unfold tblPut at h
    split at h
    · simp only [List.mem_cons] at h ⊢; grind
    · split at h <;> simp only [List.mem_cons] at h ⊢ <;> grind

theorem tblDel_mem {t : Tbl α} {a : Nat} {e : Nat × α} (h : e ∈ tblDel t a) : e ∈ t := (List.mem_filter.1 h).1

/-! ### The canonical form -/

/-- Every key of a sorted table is larger than its head's. -/
theorem tblSorted_cons {k : Nat} {v : α} {t : Tbl α} :
    tblSorted ((k, v) :: t) = true ↔ (∀ e ∈ t, k < e.1) ∧ tblSorted t = true := by
  induction t generalizing k v with
  | nil => simp [tblSorted]
  | cons e t ih =>
    obtain ⟨k', v'⟩ := e
    simp only [tblSorted, Bool.and_eq_true, decide_eq_true_eq, List.mem_cons, forall_eq_or_imp]
    rw [ih]
    constructor
    · rintro ⟨h, h1, h2⟩
      exact ⟨⟨h, fun e he => by have := h1 e he; omega⟩, h1, h2⟩
    · rintro ⟨⟨h, -⟩, h1, h2⟩
      exact ⟨h, h1, h2⟩

theorem tblSorted_put {t : Tbl α} (a : Nat) (x : α) (h : tblSorted t = true) : tblSorted (tblPut t a x) = true := by
  induction t with
  | nil => rfl
  | cons y t ih =>
    obtain ⟨k, v⟩ := y
    have h' := tblSorted_cons.1 h
    unfold tblPut
    split
    · exact tblSorted_cons.2 h'
    · split
      · exact tblSorted_cons.2 ⟨by grind, h⟩
      · refine tblSorted_cons.2 ⟨fun e he => ?_, ih h'.2⟩
        rcases tblPut_mem he with rfl | he
        · simp only; omega
        · exact h'.1 e he

theorem tblSorted_filter {t : Tbl α} (f : Nat × α → Bool) (h : tblSorted t = true) : tblSorted (t.filter f) = true := by
  induction t with
  | nil => rfl
  | cons e t ih =>
    obtain ⟨k, v⟩ := e
    have h' := tblSorted_cons.1 h
    rw [List.filter_cons]
    split
    · exact tblSorted_cons.2 ⟨fun e he => h'.1 e (List.mem_filter.1 he).1, ih h'.2⟩
    · exact ih h'.2

variable [DecidableEq α]

theorem tblGet_set_same (t : Tbl α) (dflt : α) (a : Nat) (x : α) : tblGet dflt (tblSet dflt t a x) a = x := by
  unfold tblGet tblSet
  split <;> simp [*]

theorem tblGet_set_ne (t : Tbl α) (dflt : α) {a b : Nat} (x : α) (hb : b ≠ a) :
    tblGet dflt (tblSet dflt t a x) b = tblGet dflt t b := by
  unfold tblGet tblSet
  split
  · rw [tblFind_del_ne t hb]
  · rw [tblFind_put_ne t x hb]

theorem tblWf_iff {t : Tbl α} {dflt : α} :
    tblWf dflt t = true ↔ tblSorted t = true ∧ ∀ e ∈ t, e.2 ≠ dflt := by
  simp [tblWf, List.all_eq_true]

/-- Every write keeps the canonical form. -/
theorem tblWf_set {t : Tbl α} {dflt : α} (a : Nat) (x : α) (h : tblWf dflt t = true) : tblWf dflt (tblSet dflt t a x) = true := by
  rw [tblWf_iff] at h ⊢
  unfold tblSet
  split
  · exact ⟨tblSorted_filter _ h.1, fun e he => h.2 e (tblDel_mem he)⟩
  · refine ⟨tblSorted_put a x h.1, fun e he => ?_⟩
    rcases tblPut_mem he with rfl | he
    · assumption
    · exact h.2 e he

theorem tblWf_filter {t : Tbl α} {dflt : α} (f : Nat × α → Bool) (h : tblWf dflt t = true) : tblWf dflt (t.filter f) = true := by
  rw [tblWf_iff] at h ⊢
  exact ⟨tblSorted_filter f h.1, fun e he => h.2 e (List.mem_filter.1 he).1⟩

end Sys2Proof.Machine
end

