-- ==== Sys2Proof/Laws/Memory.lean ====
section
/-! SUPPORT. The byte memory: reads after writes, and that every operation on it keeps the canonical form. -/

namespace Sys2Proof.Machine

theorem memWf_put {m : List Host.Cell} (k : Nat) (b : Byte) (h : memWf m = true) : memWf (memPut m k b) = true :=
  tblWf_set k b h

theorem memGet_put (m : List Host.Cell) (k a : Nat) (b : Byte) :
    memGet (memPut m k b) a = if a = k then b else memGet m a := by
  unfold memGet memPut
  split
  · subst_vars; exact tblGet_set_same _ _ _ _
  · exact tblGet_set_ne _ _ _ ‹_›

theorem memWf_write {m : List Host.Cell} (k : Nat) (l : List Byte) (h : memWf m = true) : memWf (memWrite m k l) = true := by
  induction l generalizing m k with
  | nil => exact h
  | cons b t ih => exact ih _ (memWf_put k b h)

/-- A write leaves every byte outside it as it was. -/
theorem memGet_write_out (m : List Host.Cell) (k a : Nat) (l : List Byte)
    (ha : a < k ∨ k + l.length ≤ a) : memGet (memWrite m k l) a = memGet m a := by
  induction l generalizing m k with
  | nil => rfl
  | cons b t ih =>
    simp only [List.length_cons] at ha
    rw [memWrite, ih _ (k + 1) (by omega), memGet_put, if_neg (by omega)]

/-- A write puts its bytes where it says. -/
theorem memGet_write_in (m : List Host.Cell) (k i : Nat) (l : List Byte) (hi : i < l.length) :
    memGet (memWrite m k l) (k + i) = l[i] := by
  induction l generalizing m k i with
  | nil => simp at hi
  | cons b t ih =>
    cases i with
    | zero => rw [memWrite, memGet_write_out _ _ _ _ (by omega)]; simp [memGet_put]
    | succ i =>
      rw [memWrite]
      have := ih (memPut m k b) (k + 1) i (by simpa using hi)
      simpa [Nat.add_assoc, Nat.add_comm 1 i] using this

@[simp] theorem memRead_length (m : List Host.Cell) (k n : Nat) : (memRead m k n).length = n := by
  induction n generalizing k with
  | zero => rfl
  | succ n ih => simp [memRead, ih]

theorem memRead_get (m : List Host.Cell) (k n i : Nat) (h : i < n) :
    (memRead m k n)[i]'(by simpa using h) = memGet m (k + i) := by
  induction n generalizing k i with
  | zero => omega
  | succ n ih =>
    cases i with
    | zero => simp [memRead]
    | succ i => simp [memRead, ih (k + 1) i (by omega), Nat.add_assoc, Nat.add_comm 1 i]

/-- What was written is read back. -/
theorem memRead_write (m : List Host.Cell) (k : Nat) (l : List Byte) :
    memRead (memWrite m k l) k l.length = l := by
  apply List.ext_getElem
  · simp
  · intro i h1 h2
    rw [memRead_get _ _ _ _ h2, memGet_write_in _ _ _ _ h2]

/-- A read outside a write reads as before. -/
theorem memRead_write_out (m : List Host.Cell) (k a n : Nat) (l : List Byte)
    (ha : a + n ≤ k ∨ k + l.length ≤ a) : memRead (memWrite m k l) a n = memRead m a n := by
  apply List.ext_getElem
  · simp
  · intro i h1 h2
    simp only [memRead_length] at h1 h2
    rw [memRead_get _ _ _ _ h1, memRead_get _ _ _ _ h2, memGet_write_out _ _ _ _ (by omega)]

theorem memWf_write_space (s : State) (sp : Space) (a : Nat) (b : List Byte) (h : memWf s.mem = true) :
    memWf (s.write sp a b).mem = true := memWf_write _ _ h

theorem memWf_filter {m : List Host.Cell} (f : Host.Cell → Bool) (h : memWf m = true) : memWf (m.filter f) = true :=
  tblWf_filter f h

theorem memWf_clear (s : State) (sp : Space) (h : memWf s.mem = true) : memWf (s.clear sp).mem = true :=
  memWf_filter _ h

theorem memWf_pieces (key : Nat → Nat) (l : List (Nat × Nat)) (b : List Byte) {m : List Host.Cell} (h : memWf m = true) :
    memWf (pokePieces m key l b) = true := by
  induction l generalizing m b with
  | nil => exact h
  | cons e t ih => exact ih _ (memWf_write _ _ h)

@[simp] theorem unpoison_mem (s : State) (p : Port) (pasid va len : Nat) : (unpoison s p pasid va len).mem = s.mem := by
  unfold unpoison; split <;> rfl

theorem memWf_poke (s : State) (p : Port) (pasid va : Nat) (b : List Byte) (h : memWf s.mem = true) :
    memWf (pokeVa s p pasid va b).mem = true := by
  simpa [pokeVa] using memWf_pieces _ _ _ h

theorem memWf_scrambleVa (s : State) (p : Port) (pasid va len : Nat) (h : memWf s.mem = true) :
    memWf (scrambleVa s p pasid va len).mem = true := by
  unfold scrambleVa
  generalize piecesOf 4096 va len = l
  induction l generalizing s with
  | nil => exact h
  | cons e t ih =>
    refine ih _ ?_
    dsimp only
    split
    · exact memWf_poke _ _ _ _ _ h
    · exact h

end Sys2Proof.Machine
end

