-- ==== Sys2Proof/Laws/Ops.lean ====
section
/-! SUPPORT. The shell of the meanings: what every command answers, said once. -/

namespace Sys2Proof.Machine

/-- A command that names parts of the module, on a module that runs work, has its effect. -/
theorem act_works {s : State} {f : State → State} {ok : Bool} (h : s.works = true) (hok : ok = true) :
    act ok s f = nextKeeping s (f s) := by
  simp [act, nextKeeping, h, hok]

/-- On a module that runs no work it does nothing (R426, R433, R473, R493). -/
theorem act_idle {s : State} {f : State → State} {ok : Bool} (h : s.works = false) (hok : ok = true) :
    act ok s f = .next s := by
  simp [act, h, hok]

theorem actAlways_ok {s : State} {f : State → State} {ok : Bool} (hok : ok = true) :
    actAlways ok s f = nextKeeping s (f s) := by
  simp [actAlways, nextKeeping, hok]

/-- Operands that name no part stop the model. -/
theorem act_bad {s : State} {f : State → State} : act false s f = .fault .noSuchPart := rfl
theorem actAlways_bad {s : State} {f : State → State} : actAlways false s f = .fault .noSuchPart := rfl

/-- A meaning never touches the queue of waiting commands, and never refuses. -/
theorem act_pending {s t : State} {f : State → State} {ok : Bool} (h : act ok s f = .next t) : t.pending = s.pending := by
  unfold act at h
  split at h
  · split at h <;> cases h <;> rfl
  · cases h

theorem actAlways_pending {s t : State} {f : State → State} {ok : Bool} (h : actAlways ok s f = .next t) :
    t.pending = s.pending := by
  unfold actAlways at h
  split at h
  · cases h; rfl
  · cases h

/-- A state of the same queue of waiting commands is kept whole. -/
theorem nextKeeping_eq {s t : State} (h : t.pending = s.pending) : nextKeeping s t = .next t := by
  unfold nextKeeping; rw [← h]

/-- A BAR0 access that reaches the module has its effect (R472, R502). -/
theorem overBar_reached {s : State} {p : Port} (f : State → State) (h : s.barReached p = true) : overBar p f s = f s := by
  simp [overBar, h]

/-- One that does not is answered Unsupported Request on a link that is up. -/
theorem overBar_refused {s : State} {p : Port} (f : State → State) (h : s.barReached p = false)
    (hl : (s.port p).linkUp = true) : overBar p f s = s.send (.unsupportedRequest p) := by
  simp [overBar, h, hl]

/-- A command that stands ready has its body run. -/
theorem takeCmd_run {s : State} {c opcode : Nat} {stages : List Stage} {x : Cmd} {q : Queue}
    {body : State → Cmd → Queue → Done} (h : CommandAt s c opcode stages x q) :
    act true s (fun s => takeCmd s c opcode stages body) = nextKeeping s (settle s c q (body s x q)) := by
  obtain ⟨h1, h2, h3, h4, h5, h6⟩ := h
  simp only [act, if_true, h1, nextKeeping, takeCmd, h2, h3, h4, h5, h6, beq_self_eq_true, Bool.and_self]

/-- A body that completes ends its command with fault 0. -/
theorem takeCmd_ok {s u : State} {c opcode : Nat} {stages : List Stage} {x : Cmd} {q : Queue} {r : BitVec 128}
    {body : State → Cmd → Queue → Done} (h : CommandAt s c opcode stages x q) (hb : body s x q = .ok u r) :
    act true s (fun s => takeCmd s c opcode stages body) = endsWell s u c r := by
  rw [takeCmd_run h, hb]; rfl

/-- A body that runs on leaves its command running. -/
theorem takeCmd_goes {s u : State} {c opcode : Nat} {stages : List Stage} {x : Cmd} {q : Queue}
    {body : State → Cmd → Queue → Done} (h : CommandAt s c opcode stages x q) (hb : body s x q = .run u) :
    act true s (fun s => takeCmd s c opcode stages body) = runsOn s u c := by
  rw [takeCmd_run h, hb]; rfl

end Sys2Proof.Machine
end

