-- ==== Sys2Proof/Tests/Slice0.lean ====
section
/-! SUPPORT. The model's own tests: ill-formed commands are refused, small cases of each command, and for every statement
with hypotheses a state and operands that meet them (`meets_...`). Expected values come from the spec's rules and worked
examples. -/

namespace Sys2Proof.Tests
set_option Elab.async false
open Sys2Proof Sys2Proof.Machine

/-! ### States the tests start from -/

/-- The descriptor of an opcode with fields (offset, value). -/
def descOf (op : Nat) (fs : List (Nat × Nat)) : Desc := BitVec.ofNat 512 (op + (fs.map fun e => e.2 * 2 ^ (8 * e.1)).sum)

/-- Queue 0: ready, software-fed, port A, PASID 1, engine 0. -/
def q0 : Queue :=
  { gen := 1, kind := 0, port := .A, haltOnFault := false, ringLog2 := 6, pasid := 1, ring := 0x10000, cpl := 0x20000,
    dbPage := 0x30000, dbIndex := 0, vector := 0, engines := [0], tail := 1, fetched := 1, started := 1 }

/-- A port that a host has enabled, whose cache grants 64 pages of PASID 1. -/
def portOn : PortState :=
  { memEnable := true, busMaster := true, msixEnable := true,
    atc := (List.range 64).map fun k => { pasid := 1, page := k, readable := true, writable := true } }

/-- After reset, ports enabled, with queue 0. -/
def base : State :=
  { State.reset with portA := portOn, portB := portOn, qfe := { queues := [(0, q0)], nextCmd := 1 },
                     engines := [(0, { queues := [(0, 0)] })] }

/-- `base` without a queue. -/
def bare : State := { base with qfe := {}, engines := [] }

/-- Put numbers (address, bytes, value) into host memory of PASID 1 at port A. -/
def put (s : State) (l : List (Nat × Nat × Nat)) : State :=
  l.foldl (fun s e => s.write (.virt .A 1) e.1 (natLe e.2.1 e.2.2)) s

/-- The command of sequence number 0 of queue 0. -/
def cmd0 (op : Nat) (fs : List (Nat × Nat)) : Cmd := { queue := 0, seq := 0, desc := descOf op fs }

/-- `base` with that command started, over host memory. -/
def live (op : Nat) (fs : List (Nat × Nat)) (m : List (Nat × Nat × Nat)) : State :=
  { put base m with cmds := [(0, cmd0 op fs)] }

/-- The same with the command at a stage. -/
def liveAt (stage : Stage) (op : Nat) (fs : List (Nat × Nat)) (m : List (Nat × Nat × Nat)) : State :=
  { put base m with cmds := [(0, { cmd0 op fs with stage := stage })] }

/-- Fault, opcode, detail and result of the completion record of sequence number 0. -/
def recordOf : Out → Nat × Nat × Nat × Nat
  | .next t =>
    let b := t.read (.virt .A 1) 0x20000 32
    (fieldOf b 4 2, fieldOf b 6 1, fieldOf b 8 4, fieldOf b 16 16)
  | _ => (0, 0, 0, 0)

/-- The next state of an answer. -/
def after (o : Out) : State := match o with
  | .next t => t
  | _ => State.reset

/-- An answer that is a value. -/
def isOk {α : Type} : Try α → Bool
  | .ok _ => true
  | .error _ => false
/-! ### Ill-formed commands -/

theorem test_wf_mesh : Instr.wf (.creditToggle 64 0 .request) = false ∧ Instr.wf (.creditToggle 63 5 .request) = false ∧
    Instr.wf (.bridgeHandshakeTimeout 0 0 2 .request true) = false ∧ Instr.wf (.detourTableSwitch 0 .request 512 0 0) = false := by
  decide
/-- A request from die 0's engine 0. -/
def packet (dst units tag : Nat) : Packet :=
  { src := 0, srcEndpoint := .unit 0, dst := dst, dstEndpoint := .unit 0, channel := .request, operation := 0,
    data := List.replicate (units - 1) 0, tag := tag, loss := 0, response := 0 }
theorem test_wf_packet : (packet 64 1 0).wf = false ∧ (packet 63 6 0).wf = false ∧ { packet 0 1 0 with dstEndpoint := .unit 17 }.wf = false ∧
    (packet 47 5 4096).wf = false ∧ (packet 47 5 4095).wf = true := by decide
/-- A scratchpad request without a command. -/
def request (master word : Nat) (op : SpdOp) : SpdReq :=
  { command := none, master := master, group := 0, word := word, op := op, loss := 0, flips := 0 }
theorem test_wf_engine : Instr.wf (.taskHalt 768) = false ∧ Instr.wf (.taskHalt 767) = true ∧
    Instr.wf (.engineReturn .A 768 ⟨[], []⟩ true) = false ∧ Instr.wf (.shutterDrainTimeout 0 768) = false := by decide
theorem test_wf_pasid : Instr.wf (.doorbellPoll 0 (2 ^ 20) 0) = false ∧
    Instr.wf (.pageRequestTimeout .A (2 ^ 20) 0) = false := by decide
theorem test_wf_registers : Instr.wf (.qfeSillWrite .A 24 0) = false ∧ Instr.wf (.qfePollWrite .A (2 ^ 32)) = false ∧
    Instr.wf (.pwrPhaseWrite .A 256 0) = false ∧ Instr.wf (.spdTestCtrlWrite .A 64 0) = false := by decide
theorem test_wf_scratchpad : Instr.wf (.backgroundPassStart 770) = false ∧
    Instr.wf (.scratchpadHandshake 768 [request 0 16384 (.read)]) = false ∧
    Instr.wf (.scratchpadHandshake 0 [request 8 0 (.read)]) = false ∧
    Instr.wf (.scratchpadHandshake 0 [request 0 0 (.atomicAdd 4 true 0)]) =
      false := by decide
theorem test_wf_memory : Instr.wf (.patrolScrub (24 * 301989888) []) = false ∧ Instr.wf (.patrolScrub 0 [68]) = false ∧ Instr.wf (.unitRetirement 24 0) = false ∧
    Instr.wf (.unitRetirement 23 36864) = false ∧ Instr.wf (.pinLaneRepair 0 32 0 true) = false ∧
    Instr.wf (.flashDieRebuild 16 0) = false ∧ Instr.wf (.flashDieRebuild 0 8) = false ∧ Instr.wf (.wearLevelCopy 8) = false := by decide
theorem test_wf_optical : Instr.wf (.repeatWindowExpired 6 0 0) = false ∧ Instr.wf (.repeatWindowExpired 5 24 0) = false ∧
    Instr.wf (.frameHeaderReceived 0 0 (List.replicate 8 [])) = false ∧
    Instr.wf (.codewordReceived 0 0 0 (List.replicate 9 [1024])) = false ∧
    Instr.wf (.laneFailure 0 0 9 .errors true) = false ∧ Instr.wf (.calibration 6 0) = false := by decide
theorem test_wf_power : Instr.wf (.fastLoop 64 0 0 0) = false ∧ Instr.wf (.thermalChange true 24 0) = false ∧
    Instr.wf (.thermalChange false 24 0) = true ∧ Instr.wf (.pointOfLoadFailure (.pointOfLoad 64)) = false ∧
    Instr.wf (.tamperEvent 16) = false := by decide
theorem test_wf_events : Instr.wf (.eventMessage 1024) = false ∧ Instr.wf (.eventClaim .A 4 true) = false ∧
    Instr.wf (.evcMaskSet .A 32 0) = false ∧ Instr.wf (.eventComplete .A 0 1024) = false := by decide
theorem test_wf_rest : Instr.wf (.msixVectorUnmask .A 2048) = false ∧ Instr.wf (.statisticClear .A (2 ^ 26) 0) = false ∧
    Instr.wf (.smbalertMask 256 none) = false ∧ Instr.wf (.mfrModuleReset (2 ^ 16)) = false ∧
    Instr.wf (.standardInterfaceLoss (.hbm 24)) = false := by decide
theorem test_ill_formed_faults : exec (.taskHalt 768) base = .fault .noSuchPart ∧
    exec (.eventMessage 1024) base = .fault .noSuchPart := ⟨rfl, rfl⟩


/-- A fence of port A, PASID 1. -/
def fenceAt (v mirror : Nat) : Fence := { gen := 1, port := .A, pasid := 1, value := BitVec.ofNat 64 v, mirror := mirror }
/-- The handle of fence 0. -/
def fence0 : Nat := mkHandle 5 1 0
/-- A state with fence 0. -/
def fenced (s : State) (v mirror : Nat) : State := { s with qfe := { s.qfe with fences := [(0, fenceAt v mirror)] } }
/-! ### Mesh and control family -/

/-- `base` with the first half of the bridge at port o of die d fenced. -/
def fencedAt (d o : Nat) : State := base.setOut d o { fencedHalves := [0] }
/-- `base` with one credit a channel left at port o of die d. -/
def oneCredit (d o : Nat) : State := base.setOut d o { used := ⟨31, 31⟩ }
/-- The grid die a route to die t leaves the grid at. -/
def doorOf (t : Nat) : Nat := nth 0 (attached t) 0
/-- Routes over a tree: up a column, along row 0, down a column. -/
def treeHop (d t : Nat) : Nat :=
  let x := doorOf t
  if 48 ≤ d then (portTo d (doorOf d)).getD 0
  else if d == x then (portTo d t).getD 0
  else if d % 8 == x % 8 then (if x < d then outN else outS)
  else if 8 ≤ d then outN else if d % 8 < x % 8 then outE else outW
/-- The tree's table. -/
def treeTable : Nat :=
  (List.range 64).foldr (fun d z => (List.range 64).foldr (fun t y => y * 8 + treeHop d t) z) 0
/-- An order of its outputs: into the grid, up, along, down, out of the grid. -/
def treeOrder : Nat :=
  (List.range 512).foldr (fun k z =>
    let d := k / 8
    let o := k % 8
    let rank := if 48 ≤ d then 1
      else if o == outN && 8 ≤ d then 15 - d / 8
      else if o == outE && d % 8 < 7 then 20 + d % 8
      else if o == outW && 0 < d % 8 then 27 - d % 8
      else if o == outS && d < 40 then 30 + d / 8
      else 60
    z * 1024 + rank) 0

/-- A router of `s` at which nothing waits and around which nothing moves. -/
theorem meshIdle_of (s : State) (d : Nat) (h : s.mesh.unissued = [] ∧ ∀ b : Bool,
    let ch := if b then Channel.response else Channel.request
    (s.router d).waiting.get ch = [] ∧ (s.router d).again.get ch = [] ∧ (∀ i, i < 6 → placeOf s d i ch = []) ∧
      ∀ o, o < 5 → (s.out d o).wire = none ∧ ∀ y ∈ (feeder d o).toList, (s.out y.1 y.2).wire = none) : MeshIdle s d := by
  refine ⟨h.1, fun ch => ?_⟩
  obtain ⟨h1, h2, h3, h4⟩ := h.2 (ch == .response)
  cases ch <;> exact ⟨h1, h2, h3, fun o ho => ⟨(h4 o ho).1, fun x r hx => (h4 o ho).2 (x, r) (by simp [hx])⟩⟩
theorem meets_mesh_idle : MeshIdle base 0 ∧ MeshIdle (oneCredit 0 1) 0 ∧ MeshIdle (base.setOut 0 1 { owed := ⟨1, 1⟩ }) 0 :=
  ⟨meshIdle_of _ _ (by decide +kernel), meshIdle_of _ _ (by decide +kernel), meshIdle_of _ _ (by decide +kernel)⟩
theorem meets_mesh : base.works = true ∧ ((packet 5 5 0).wf = true ∧ hasSpace base (packet 5 5 0) = true ∧
      routeOut base 0 (packet 5 5 0) = some 1 ∧ portFenced base 0 1 = false ∧
      (packet 5 5 0).units ≤ creditsOf base 0 1 .request ∧ endLost base 5 (.unit 0) = false) ∧
    ((oneCredit 0 1).works = true ∧ hasSpace (oneCredit 0 1) (packet 5 5 0) = true ∧
      routeOut (oneCredit 0 1) 0 (packet 5 5 0) = some 1 ∧ portFenced (oneCredit 0 1) 0 1 = false ∧
      creditsOf (oneCredit 0 1) 0 1 .request < (packet 5 5 0).units) ∧
    ((packet 0 5 0).wf = true ∧ forFenced base 0 (packet 0 5 0) = false ∧ restsHot base .request (.unit 0) = false) ∧
    (bridgePeer 0 1).isSome = true ∧ halvesOf 0 1 = 1 ∧ (1 ∉ (base.out 48 1).fencedHalves ∧ halvesOf 48 1 = 2) := by decide +kernel
theorem meets_detour : 65 ∈ fencedBridges (fencedAt 8 1) ∧ drained (fencedAt 8 1) 8 .request = true ∧
    (fencedAt 8 1).works = true ∧ (StdInterface.hbm 23).wf = true := by decide +kernel
theorem meets_detour_table : tableAvoids (fencedAt 8 1) treeTable = true ∧ tableAcyclic treeTable treeOrder = true := by
  decide +kernel
theorem test_detour_cycle : tableAcyclic treeTable 0 = false := by decide +kernel
theorem test_credit_waits : (let t := after (exec (.packetForward 0 [packet 5 5 0]) (oneCredit 0 1))
    ((placeOf t 0 5 .request).length, creditsOf t 0 1 .request, (t.die 0).meshStall.count)) = (1, 1, 1) := by decide +kernel
/-- The same packet waits at port E for want of credit, while the receiver owes some. -/
def waiting : State :=
  (after (exec (.packetForward 0 [packet 5 5 0]) (oneCredit 0 1))).modOut 0 1 fun y => { y with used := ⟨28, 0⟩, owed := ⟨28, 0⟩ }
theorem test_credit_releases : (let t := after (exec (.creditToggle 0 1 .request) waiting)
    ((placeOf t 0 5 .request).length, creditsOf t 0 1 .request, (t.out 0 1).wire.isSome)) = (0, 0, true) := by decide +kernel

/-- Fence wait for a value. -/
def waitFor (stage : Stage) (now v : Nat) : State := fenced (liveAt stage 0x01 [(0x10, fence0), (0x18, v)] []) now 0
/-- Fence signal with a value and mode. -/
def signal (now v mode : Nat) : State := fenced (live 0x02 [(0x10, fence0), (0x18, v), (0x20, mode)] []) now 0x5000

theorem meets_noOp : Runnable (live 0x00 [] []) 0 0x00 (cmd0 0x00 []) q0 := by simp only [Runnable, CommandAt]; decide +kernel
theorem meets_barrier : Runnable (live 0x03 [] []) 0 0x03 (cmd0 0x03 []) q0 ∧
    earlierRunning (live 0x03 [] []) (cmd0 0x03 []) = false := by simp only [Runnable, CommandAt]; decide +kernel
theorem meets_resume : Runnable (live 0x04 [] []) 0 0x04 (cmd0 0x04 []) q0 ∧ q0.state = .ready ∧
    Runnable ((live 0x04 [] []).setQueue 0 { q0 with state := .halted }) 0 0x04 (cmd0 0x04 []) { q0 with state := .halted } := by
  simp only [Runnable, CommandAt]; decide +kernel
theorem meets_fenceWait : (let x := cmd0 0x01 [(0x10, fence0), (0x18, 1)]
    Runnable (waitFor .started 0 1) 0 0x01 x q0 ∧ fenceIndex (waitFor .started 0 1) (dField x.desc 0x10 8) = some 0 ∧
      (waitFor .started 0 1).fence? 0 = some (fenceAt 0 0) ∧
      atOrPast 64 (2 ^ 63 + 1) (dField x.desc 0x18 8) = false ∧ atOrPast 64 (2 ^ 63) (dField x.desc 0x18 8) = true ∧
      CommandAt (waitFor .running (2 ^ 63) 1) 0 0x01 [.running] { x with stage := .running } q0) := by
  simp only [Runnable, CommandAt]; decide +kernel
theorem meets_fenceSignal : (let x := cmd0 0x02 [(0x10, fence0), (0x18, 7), (0x20, 1)]
    Runnable (signal 5 7 1) 0 0x02 x q0 ∧ earlierRunning (signal 5 7 1) x = false ∧ dField x.desc 0x20 1 ≤ 1 ∧
      isOk (writeMirror ((signal 5 7 1).setFence 0 (fenceAt 12 0x5000)) (fenceAt 5 0x5000) 12) = true) := by
  simp only [Runnable, CommandAt]; decide +kernel
theorem test_fenceWait_boundary : recordOf (exec (.fenceWait 0) (waitFor .started (2 ^ 63) 1)) = (0, 1, 0, 0) ∧
    ((after (exec (.fenceWait 0) (waitFor .started (2 ^ 63) 1))).cmd? 0).isNone = true ∧
    ((after (exec (.fenceWait 0) (waitFor .started (2 ^ 63 + 1) 1))).cmd? 0).map (·.stage) = some .running := by decide +kernel
theorem test_fenceSignal_adds : recordOf (exec (.fenceSignal 0) (signal 5 7 1)) = (0, 2, 0, 12) ∧
    (after (exec (.fenceSignal 0) (signal 5 7 1))).readNat (.virt .A 1) 0x5000 8 = 12 := by decide +kernel
theorem test_fenceSignal_never_back : recordOf (exec (.fenceSignal 0) (signal 9 7 0)) = (0, 2, 0, 9) := by decide +kernel
theorem test_stale_handle : ((after (exec (.fenceWait 0) (live 0x01 [(0x10, fence0)] []))).queue? 0).map (·.completed) =
    some 1 := by decide +kernel

/-! ### Software tasks -/

/-- An instruction word (R243): opcode, d, a, and b with imm in bits 13:0. -/
def insn (op d a low : Nat) : Word := BitVec.ofNat 32 (op * 2 ^ 26 + d * 2 ^ 20 + a * 2 ^ 14 + low)
/-- A task of engine 0 at its first word, s1 = v, s2 = w, over fence 0 and the queues 1 (task-served) and 2 (device-fed). -/
def taskOf (word : Word) (v w : DWord) : Task :=
  { regs := [(1, v), (2, w)], code := [word, 5, 7], handles := [BitVec.ofNat 64 fence0, BitVec.ofNat 64 (mkHandle 6 1 1),
      BitVec.ofNat 64 (mkHandle 6 1 2)], windowBytes := 4096, queue := 0, endFence := 0, endValue := 0, endAddr := 0x6000 }
def served : Queue := { q0 with kind := 2, waiting := [(0, descOf 0x40 [])] }
def fed : Queue := { q0 with kind := 3, ring := 0x18000, tail := 0, fetched := 0, started := 0 }
/-- `base` with that task. -/
def withTask (word : Word) (v w : DWord) : State :=
  { base with engines := [(0, { queues := [(0, 0)], task := some (taskOf word v w) })],
              qfe := { queues := [(0, q0), (1, served), (2, fed)], fences := [(0, fenceAt 5 0)] } }
/-- The same with the task waiting. -/
def waitTask (word : Word) (v w : DWord) (k : TaskWait) : State :=
  setTask (withTask word v w) 0 { taskOf word v w with wait := k }
/-- s3, the pc and whether the task is there, after an answer. -/
def taskView (o : Out) : Option (DWord × Nat) := ((after o).eng 0).task.map fun t => (getReg t 3, t.pc)

theorem meets_taskAt : (∀ op ∈ taskOps, TaskAt (withTask (insn op 3 1 0x200) 8 9) 0 op (taskOf (insn op 3 1 0x200) 8 9)) ∧
    TaskAt (withTask (insn 0x3F 0 0 0) 0 0) 0 0x3F (taskOf (insn 0x3F 0 0 0) 0 0) ∧ 0x3F ∉ taskOps := by
  simp only [TaskAt]; decide +kernel
theorem test_task_registers : taskView (exec (.taskAdd 0) (withTask (insn 0x01 3 1 0x200) 8 9)) = some (17, 1) ∧
    taskView (exec (.taskSub 0) (withTask (insn 0x02 3 1 0x200) 8 9)) = some (-1, 1) ∧
    taskView (exec (.taskMul 0) (withTask (insn 0x08 3 1 0x200) (-1) 9)) = some (-9, 1) ∧
    taskView (exec (.taskShl 0) (withTask (insn 0x06 3 1 0x200) 8 65)) = some (16, 1) ∧
    taskView (exec (.taskShr 0) (withTask (insn 0x07 3 1 0x200) (-8) 1)) = some (-4, 1) := by decide +kernel
theorem test_task_logic : taskView (exec (.taskAnd 0) (withTask (insn 0x03 3 1 0x200) 12 10)) = some (8, 1) ∧
    taskView (exec (.taskOr 0) (withTask (insn 0x04 3 1 0x200) 12 10)) = some (14, 1) ∧
    taskView (exec (.taskXor 0) (withTask (insn 0x05 3 1 0x200) 12 10)) = some (6, 1) ∧
    taskView (exec (.taskAdd 0) (withTask (insn 0x01 0 1 0x200) 8 9)) = some (0, 1) := by decide +kernel
theorem test_task_immediates : taskView (exec (.taskAddi 0) (withTask (insn 0x10 3 1 0x3FFF) 8 0)) = some (7, 1) ∧
    taskView (exec (.taskLdw 0) (withTask (insn 0x11 3 0 0) 0 0)) = some (7 * 2 ^ 32 + 5, 3) := by decide +kernel
theorem test_task_branches : taskView (exec (.taskBeq 0) (withTask (insn 0x20 1 2 2) 4 4)) = some (0, 2) ∧
    taskView (exec (.taskBne 0) (withTask (insn 0x21 1 2 2) 4 4)) = some (0, 1) ∧
    taskView (exec (.taskBlt 0) (withTask (insn 0x22 1 2 2) (-1) 4)) = some (0, 2) ∧
    taskView (exec (.taskBltu 0) (withTask (insn 0x23 1 2 2) (-1) 4)) = some (0, 1) ∧
    taskView (exec (.taskLoop 0) (withTask (insn 0x24 1 0 2) 1 0)) = some (0, 1) := by decide +kernel
theorem test_task_branch_outside : taskView (exec (.taskBeq 0) (withTask (insn 0x20 1 2 0x3FFF) 4 4)) = none := by decide +kernel
theorem meets_task_branch : (immField (insn 0x20 1 2 0x3FFF).toNat = -1 ∧ immField (insn 0x20 1 2 0x1FFF).toNat = 8191) ∧
    (4095 : Int) < 0 + 8191 ∧ (0 : Int) + (-1) < 0 := by decide
theorem meets_task_window : windowOk (taskOf (insn 0x18 3 1 0) 4088 0) (dispAddr (taskOf (insn 0x18 3 1 0) 4088 0)
      (insn 0x18 3 1 0).toNat) 8 = true ∧
    windowOk (taskOf (insn 0x18 3 1 0) 4096 0) (dispAddr (taskOf (insn 0x18 3 1 0) 4096 0) (insn 0x18 3 1 0).toNat) 8 = false ∧
    windowOk (taskOf (insn 0x19 3 1 4) 0 0) (dispAddr (taskOf (insn 0x19 3 1 4) 0 0) (insn 0x19 3 1 4).toNat) 8 = false := by
  decide
theorem meets_task_windows : windowOk (taskOf (insn 0x1A 3 1 0) 4 0) 4 8 = false ∧ windowOk (taskOf (insn 0x28 3 1 1) 4064 0) 4064 64 = false ∧
    windowOk (taskOf (insn 0x29 3 1 1) 4 0) 4 64 = false := by decide
theorem test_task_memory : (let s := withTask (insn 0x1A 3 1 0x200) 4088 9
      let t := after (exec (.taskAadd 0) (s.write (.window 0) 4088 (natLe 8 (2 ^ 64 - 1))))
      (t.readNat (.window 0) 4088 8, (t.eng 0).task.map (getReg · 3)) = (8, some (-1))) ∧
    (let s := withTask (insn 0x1B 3 1 0x200) 4088 9
      let t := after (exec (.taskAswp 0) s)
      (t.readNat (.window 0) 4088 8, (t.eng 0).task.map (getReg · 3)) = (9, some 0)) ∧
    (let t := after (exec (.taskSt 0) (withTask (insn 0x19 2 1 8) 4080 9));
      t.readNat (.window 0) 4088 8 = 9) ∧
    taskView (exec (.taskLd 0) ((withTask (insn 0x18 3 1 8) 0 0).write (.window 0) 8 (natLe 8 77))) = some (77, 1) := by
  decide +kernel
theorem meets_task_queue : (let t := taskOf (insn 0x28 3 1 1) 0 0
    let s := withTask (insn 0x28 3 1 1) 0 0
    servedQueue s 0 t (taskWord 0 t 0) = some (1, served) ∧ served.state = .ready ∧ windowOk t 0 64 = true ∧
      s.queue? 1 = some served ∧
      tableQueue s { t with handles := t.handles } (insn 0x29 3 1 2).toNat 3 = some (2, fed) ∧ ringFull fed = false ∧
      ringFull { fed with tail := 64 } = true ∧
      isOk (writeVa s .A 1 (fed.ring + 64 * (fed.tail % 64)) (s.read (.window 0) 0 64)) = true) := by decide +kernel
theorem meets_task_fence : (let t := taskOf (insn 0x2A 0 1 0) 5 0
    let s := withTask (insn 0x2A 0 1 0) 5 0
    (match tableFence s t (taskWord 0 t 0) with
      | .ok e => e == (0, fenceAt 5 0)
      | .error _ => false) = true ∧ atOrPast 64 5 5 = true ∧ atOrPast 64 5 6 = false ∧
      isOk (writeMirror (s.setFence 0 (fenceAt 6 0)) (fenceAt 5 0) 6) = true ∧
      (waitTask (insn 0x2A 0 1 0) 5 0 (.fence fence0 5)).works = true ∧
      fenceIndex (waitTask (insn 0x2A 0 1 0) 5 0 (.fence fence0 5)) fence0 = some 0) := by decide +kernel
theorem test_task_waitq : (let t := after (exec (.taskWaitq 0) (withTask (insn 0x28 3 1 1) 0 0))
    (t.readNat (.window 0) 0 1, (t.queue? 1).map (·.waiting.length)) = (0x40, some 0)) ∧
    ((after (exec (.taskEnq 0) (withTask (insn 0x29 3 1 2) 0 0))).queue? 2).map (·.tail) = some 1 := by decide +kernel
theorem test_task_fences : ((after (exec (.taskSigf 0) (withTask (insn 0x2B 0 1 0) 6 0))).fence? 0).map (·.value) = some 6 ∧
    taskView (exec (.taskWaitf 0) (withTask (insn 0x2A 0 1 0) 6 0)) = some (0, 0) ∧
    taskView (exec (.waitfSatisfied 0) (waitTask (insn 0x2A 0 1 0) 5 0 (.fence fence0 5))) = some (0, 1) := by decide +kernel
/-- A task that has been handed the descriptor of sequence number 0. -/
def handedTask (word : Word) : State :=
  setTask (withTask word 0 0) 0 { taskOf word 0 0 with handed := [{ queue := 1, seq := 0, desc := descOf 0x40 [] }] }
theorem meets_task_done : (let t := { taskOf (insn 0x2C 3 1 1) 0 0 with handed := [{ queue := 1, seq := 0, desc := descOf 0x40 [] }] }
    servedQueue (handedTask (insn 0x2C 3 1 1)) 0 t (taskWord 0 t 0) = some (1, served) ∧
      (t.handed.find? fun h => h.queue == 1 && h.seq == (getReg t 3).toNat).isSome = true ∧
      isOk (writeVa (handedTask (insn 0x2C 3 1 1)) .A 1 (cplAddr served 0 + 8) (zeros 16)) = true) := by decide +kernel
theorem test_task_done : recordOf (exec (.taskDone 0) (handedTask (insn 0x2C 3 1 1))) = (0, 0x40, 0, 0) := by decide +kernel
theorem test_task_ends : taskView (exec (.taskHalt 0) (withTask (insn 0 0 0 0) 0 0)) = none ∧
    taskView (exec (.reservedInstruction 0) (withTask (insn 0x3F 0 0 0) 0 0)) = none ∧
    taskView (exec (.taskRanWithoutWaiting 0) (withTask (insn 0x01 0 0 0) 0 0)) = none := by
  decide +kernel
theorem meets_task_end : (withTask (insn 0 0 0 0) 0 0).queue? 0 = some q0 ∧
    isOk (checkVa (withTask (insn 0 0 0 0) 0 0) .A 1 0x6000 16 true) = true := by decide +kernel
/-- A launch of an image of two words at 0x8000 with an empty handle table at 0x8100. -/
def launchAt0 (window : Nat) : State :=
  live 0xA0 [(0x10, 0x8000), (0x18, 0x8100), (0x38, window)] [(0x8000, 4, 2), (0x8008, 8, 5)]
theorem meets_launchTask : (let x := cmd0 0xA0 [(0x10, 0x8000), (0x18, 0x8100), (0x38, 4096)]
    let s := launchAt0 4096
    Runnable s 0 0xA0 x q0 ∧ 0 ∈ q0.engines ∧ (s.eng 0).task = none ∧ dField x.desc 0x20 8 = 0 ∧
      windowFree s 0 4096 = true ∧ isOk (readImage s q0 0x8000) = true ∧
      isOk (readHandles s q0 0x8100) = true) := by simp only [Runnable, CommandAt]; decide +kernel
theorem test_launchTask : (let t := after (exec (.launchTask 0) (launchAt0 4096))
    (recordOf (exec (.launchTask 0) (launchAt0 4096)), (t.eng 0).task.map fun k => (getReg k 1, k.pc, k.code))) =
      ((0, 0xA0, 0, 0), some (4096, 0, [5, 0])) := by decide +kernel
/-- An enqueue or a stop of a task: the handle of queue 2, a descriptor at 0x9000; a state with queue 2 and a task. -/
def familyAt (stage : Stage) (op : Nat) (fs : List (Nat × Nat)) (q2 : Queue) : State :=
  let s := liveAt stage op fs [(0x9000, 1, 0x40)]
  { s with qfe := { s.qfe with queues := [(0, q0), (2, q2)] },
           engines := [(0, { queues := [(0, 0)], task := some (taskOf (insn 0 0 0 0) 0 0) })] }
def enqueueFields : List (Nat × Nat) := [(0x10, 0x9000), (0x20, mkHandle 6 1 2)]
theorem meets_enqueue : (let x := cmd0 0xA1 enqueueFields
    let s := familyAt .started 0xA1 enqueueFields fed
    Runnable s 0 0xA1 x q0 ∧ isOk (fedQueue s x q0) = true ∧ isOk (readVa s .A 1 0x9000 64) = true ∧
      ringFull { fed with tail := 63 } = false ∧ isOk (writeVa s .A 1 fed.ring (zeros 64)) = true ∧
      Runnable (familyAt .started 0xA1 enqueueFields { fed with tail := 64 }) 0 0xA1 x q0 ∧
      CommandAt (familyAt .running 0xA1 enqueueFields fed) 0 0xA1 [.waiting, .running] { x with stage := .running } q0) := by
  simp only [Runnable, CommandAt]; decide +kernel
theorem test_enqueue : recordOf (exec (.enqueue 0) (familyAt .started 0xA1 enqueueFields fed)) = (0, 0xA1, 0, 0) ∧
    ((after (exec (.enqueue 0) (familyAt .started 0xA1 enqueueFields { fed with tail := 64 }))).cmd? 0).map (·.stage) =
      some .running ∧
    ((after (exec (.deviceFedSpaceAvailable 0) (familyAt .running 0xA1 enqueueFields fed))).queue? 2).map (·.tail) = some 1 := by
  decide +kernel
theorem meets_stopTask : Runnable (familyAt .started 0xA2 [] fed) 0 0xA2 (cmd0 0xA2 []) q0 ∧
    ((familyAt .started 0xA2 [] fed).eng 0).task = some (taskOf (insn 0 0 0 0) 0 0) ∧
    ((endTask (familyAt .started 0xA2 [] fed) 0 0).eng 0).task = none := by
  simp only [Runnable, CommandAt]; decide +kernel
theorem test_stopTask : taskView (exec (.stopTask 0) (familyAt .started 0xA2 [] fed)) = none := by decide +kernel

/-! ### Queues, translation, the shutter -/

/-- A doorbell page whose only queue is queue 0. -/
def page0 : DoorbellPage := { engine := 0, pasid := 1, page := 0x30000, interval := 1000 }
/-- Queue 0 with nothing started and a tail on its doorbell page. -/
def idleQueue : Queue := { q0 with tail := 0, fetched := 0, started := 0 }
def pollState (tail : Nat) : State :=
  { put base [(0x30000, 4, tail)] with qfe := { queues := [(0, idleQueue)], pages := [page0] } }
theorem meets_poll : (let s := pollState 64
    s.qfe.pages.find? (fun d => d.engine == 0 && d.pasid == 1 && d.page == 0x30000) = some page0 ∧
      polled s page0 = [(0, idleQueue)] ∧ isOk (readVa s .A 1 0x30000 512) = true ∧ atOrPast 32 64 0 = true ∧ 64 ≤ 2 ^ 6 ∧
      s.flt.resetStep = 0) := by decide +kernel
theorem test_poll : ((after (exec (.doorbellPoll 0 1 0x30000) (pollState 64))).queue? 0).map (·.tail) = some 64 ∧
    ((after (exec (.doorbellPoll 0 1 0x30000) (pollState 65))).queue? 0).map (fun q => (q.state, q.lastFault)) =
      some (.error, 0x4001) := by decide +kernel
/-- Queue 0 with descriptors on its ring to fetch, or one waiting. -/
def ringState : State := { put base [(0x10000, 1, 0x00)] with qfe := { queues := [(0, { idleQueue with tail := 9 })] } }
def headState (state : QState) (op : Nat) : State :=
  { base with qfe := { queues := [(0, { idleQueue with state := state, tail := 1, fetched := 1, waiting := [(0, descOf op [])] })] } }
theorem meets_fetch : ringState.queue? 0 = some { idleQueue with tail := 9 } ∧ nextRead ringState 0 = some (0, 0) ∧
    readCount { idleQueue with tail := 9 } = 8 ∧ isOk (readVa ringState .A 1 0x10000 (64 * 8)) = true := by decide +kernel
theorem test_fetch : ((after (exec (.descriptorRead 0) ringState)).queue? 0).map (fun q => (q.fetched, q.waiting.length)) =
    some (8, 8) := by decide +kernel
theorem meets_start : (let s := headState .ready 0x00
    inOrder s 0 0 (descOf 0 []) = true ∧
      engineAdmits s 0 { idleQueue with tail := 1, fetched := 1, waiting := [(0, descOf 0 [])] } (descOf 0 []) = true ∧
      isOk (startCheck (descOf 0 [])) = true ∧ resuming (headState .halted 0x40) 0 = false ∧ dOpcode (descOf 0x40 []) ≠ 4) := by
  decide +kernel
theorem test_start : ((after (exec (.commandStart 0) (headState .ready 0x00))).cmd? 0).map (·.seq) = some 0 ∧
    recordOf (exec (.commandStart 0) (headState .halted 0x40)) = (0x4003, 0x40, 0, 0) := by decide +kernel
/-- A real-time queue with work on engine 0. -/
def rtWork : State := { headState .ready 0x00 with
  qfe := { queues := [(0, { idleQueue with kind := 1, tail := 1, fetched := 1, waiting := [(0, descOf 0x40 [])] })] } }
theorem meets_preempt : realTimeWork rtWork 0
    { idleQueue with kind := 1, tail := 1, fetched := 1, waiting := [(0, descOf 0x40 [])] } = true := by decide +kernel
theorem test_preempt : ((after (exec (.realtimePreempt 0) rtWork)).eng 0).preempting = true := by decide +kernel
theorem meets_record : (let s := live 0x00 [(0x04, 0x1234)] []
    s.cmd? 0 = some (cmd0 0x00 [(0x04, 0x1234)]) ∧ q0.completed = 0 ∧ bit (dField (descOf 0x00 [(0x04, 0x1234)]) 1 1) 1 = false ∧
      tblFind s.jobs 0 = none ∧ s.spin.launches = [] ∧ s.grf.launches = [] ∧ s.grf.patches = [] ∧ s.opx.flows = [] ∧
      q0.cpl % 4096 = 0 ∧ cplAddr q0 0 + 32 < deviceBase ∧
      isOk (checkVa s .A 1 (cplAddr q0 0 + 8) 24 true) = true) := by decide +kernel
theorem test_record : (after (exec (.noOp 0) (live 0x00 [(0x04, 0x1234)] []))).readNat (.virt .A 1) 0x20000 16 =
    0x1234 * 2 ^ 96 + 0x0100 * 2 ^ 48 := by decide +kernel

/-- A command of queue 0 whose access misses the cache of port A. -/
def missState : State := { live 0x40 [] [] with portA := { portOn with atc := [] } }
theorem meets_access : (let s := live 0x40 [] []
    isOk (checkVa s .A 1 0x5000 8 false) = true ∧ inOneRange 0x5000 8 = true ∧ 0x5000 < deviceBase ∧
      lowestFree (fun t => (s.portA.reads.any fun r => r.tag == t) || s.portA.withheld.contains t) 16384 0 = some 0 ∧
      (match checkVa missState .A 1 0x5000 8 true with
        | .error (.page a g w) => a == 1 && g == 5 && w
        | _ => false) = true) := by decide +kernel
theorem test_access : (after (exec (.hostAccess 0 0x5000 8 false) (live 0x40 [] []))).portA.reads.map (·.tag) = [0] ∧
    (after (exec (.hostAccess 0 0x5000 8 true) missState)).portA.ats.map (·.page) = [5] ∧
    (after (exec (.hostAccess 0 0x5000 8 true) missState)).sent = [.atsRequest .A 1 5] := by decide +kernel
/-- A translation, or a page request, is outstanding for page 5. -/
def wanted (requested : Bool) : State :=
  let w : PageWait := { pasid := 1, page := 5, reads := false, writes := true }
  let p := { portOn with atc := [], ats := if requested then [] else [w], pageReqs := if requested then [w] else [] }
  { live 0x40 [] [] with portA := p, cmds := [(0, { cmd0 0x40 [] with stage := .waiting, page := some (1, 5, true) })] }
theorem meets_translation : (wanted false).portA.ats.find? (fun w => w.pasid == 1 && w.page == 5) =
      some { pasid := 1, page := 5, reads := false, writes := true } ∧
    requestFor (wanted true) .A 1 5 = some { pasid := 1, page := 5, reads := false, writes := true } := by decide +kernel
theorem test_translation : (let t := after (exec (.atsTranslationCompletion .A 1 5 true true) (wanted false));
      (t.portA.atc.map (·.page), (t.cmd? 0).map (·.page)) = ([5], some none)) ∧
    (after (exec (.prgResponse .A 1 5 .success) (wanted true))).sent = [.atsRequest .A 1 5] ∧
    recordOf (exec (.prgResponse .A 1 5 .invalidRequest) (live 0x40 [] [])) = (0, 0, 0, 0) := by decide +kernel
theorem test_invalidation : (let t := after (exec (.atsInvalidationRequest .A 1 0 32) base);
      (t.portA.atc.length, t.portA.invalidations.length) = (32, 1)) ∧
    (let t := after (exec (.invalidationDrainEnd .A)
        { base with portA := { portOn with invalidations := [{ pasid := 1, page := 0, users := [3] }] } });
      (t.portA.invalidations, t.sent) = ([], [.invalidationDone .A 1 0])) := by decide +kernel
theorem test_invalidation_waits : (let t := after (exec (.atsInvalidationRequest .A 1 7 2)
      { base with portA := { portOn with invalidations := List.replicate 32 { pasid := 1, page := 0, users := [] } } });
    (t.portA.invalidations.length, t.portA.invalidationBacklog)) = (32, [(1, 7, 2)]) := by decide +kernel
theorem meets_drain : (let p := { portOn with invalidations := [{ pasid := 1, page := 0, users := [3] }], reads := [{ tag := 2, command := 0, pasid := 1, page := 0 }] };
    p.invalidations = [{ pasid := 1, page := 0, users := [3] }] ∧ ∀ r ∈ p.reads, r.tag ∉ [3]) := by decide

/-- A command of queue 0 with the shutter on engine 0. -/
def shuttered (left : List Nat) (reads : List HostRead) : State :=
  { live 0x40 [] [] with cmds := [(0, { cmd0 0x40 [] with stage := .running, shutter := some { left := left } })],
                         portA := { portOn with reads := reads } }
theorem meets_shutter : (usesEngines 0x40 = true ∧ q0.kind ≠ 1 ∧ ∀ g ∈ q0.engines, ((live 0x40 [] []).eng g).context = none) ∧
    outstanding (shuttered [0] [{ tag := 0, command := 0, pasid := 1, page := 5 }]) 0
      { cmd0 0x40 [] with stage := .running, shutter := some { left := [0] } } = true ∧
    acknowledged (shuttered [] []) 0 { cmd0 0x40 [] with stage := .running, shutter := some { left := [] } } = true := by decide +kernel
theorem test_shutter : ((after (exec (.commandTimeLimit 0) (liveAt .running 0x40 [] []))).cmd? 0).map (·.shutter) =
      some (some { left := [0] }) ∧
    ((after (exec (.shutterDrainTimeout 0 0) (shuttered [0] [{ tag := 0, command := 0, pasid := 1, page := 5 }]))).cmd? 0).map
      (·.shutter) = some (some { left := [], killed := [0] }) ∧
    recordOf (exec (.shutterComplete 0) (shuttered [] [])) = (0x4020, 0x40, 0, 0) := by decide +kernel
/-- Engine 0 asked to stop normal work, or with a saved context. -/
def preempted : State := { base with engines := [(0, { queues := [(0, 0)], preempting := true, slots := [.claimed 0, .free, .free, .free] })] }
theorem meets_context : (preempted.eng 0).context = none ∧ normalOn preempted 0 = [] ∧
    (let t := after (exec (.contextSave 0) preempted)
     ((t.eng 0).context.map (·.imagesGood) = some true ∧ realTimeOn t 0 = false ∧ (t.eng 0).preempting = false ∧
       (t.eng 0).slots = [.free, .free, .free, .free])) := by decide +kernel
theorem test_context : ((after (exec (.contextRestore 0) (after (exec (.contextSave 0) preempted)))).eng 0).slots =
    [.claimed 0, .free, .free, .free] := by decide +kernel
theorem meets_paused : ∀ g ∈ q0.engines, ∀ k, ((live 0x40 [] []).eng g).context = some k → (0 : Nat) ∉ k.paused := by
  intro g hg k h
  have := (by decide +kernel : ∀ g ∈ q0.engines, ((live 0x40 [] []).eng g).context = none) g hg
  simp [this] at h
/-- A command that runs on an engine whose normal work is saved out has its time limit paused (R290, R291). -/
theorem test_paused : (let s := { liveAt .running 0x40 [] [] with engines := [(0, { queues := [(0, 0)], preempting := true })] }
    let t := after (exec (.contextSave 0) s)
    ((t.eng 0).context.map (·.paused), ((after (exec (.commandTimeLimit 0) t)).cmd? 0).map (·.shutter))) = (some [0], some none) := by
  decide +kernel
/-- The refusal of a page that a shuttered command waited for leaves its end to the shutter (R292). -/
theorem test_shuttered_page : (let w : PageWait := { pasid := 1, page := 5, reads := false, writes := true, users := [(.command 0, true)] }
    let s := { live 0x40 [] [] with
      portA := { portOn with atc := [], pageReqs := [w] }
      cmds := [(0, { cmd0 0x40 [] with stage := .waiting, page := some (1, 5, true), shutter := some { left := [0] } })] }
    let t := after (exec (.prgResponse .A 1 5 .invalidRequest) s)
    ((t.cmd? 0).isSome, t.portA.pageReqs)) = (true, []) := by decide +kernel

/-! ### Set-up requests and registers -/

/-- Put numbers (offset, bytes, value) into untranslated memory of port A from an address on. -/
def untr (s : State) (a : Nat) (l : List (Nat × Nat × Nat)) : State :=
  l.foldl (fun s e => s.write (.untranslated .A) (a + e.1) (natLe e.2.1 e.2.2)) s
/-- Port A has given a set-up request at 0x1000; port A enabled, fence 0 live. -/
def setupState (l : List (Nat × Nat × Nat)) : State :=
  let s := fenced (untr base 0x1000 l) 5 0
  { s with portA := { portOn with setup := { addr := 0x1000, busy := true } }, qfe := { s.qfe with setupOrder := [.A] } }
/-- A create request of a software-fed queue on engine 1 at ring 0x40000. -/
def createFields : List (Nat × Nat × Nat) :=
  [(0, 1, 1), (3, 1, 16), (4, 4, 0xFFFFF), (8, 8, 0x40000), (0x10, 8, 0x50000), (0x18, 8, 0x60200), (0x20, 1, 63),
   (0x22, 2, 2047), (0x28, 8, 0x2000), (0x1000, 1, 2)]
def setupBytes (l : List (Nat × Nat × Nat)) : List Byte := (setupState l).read (.untranslated .A) 0x1000 128
theorem meets_createQueue : (let s := setupState createFields
    let b := setupBytes createFields
    SetupAt s .A 1 b ∧ mapEngines (s.read (.untranslated .A) (fieldOf b 0x28 8) 96) = [1] ∧ createBad b [1] = false ∧
      s.engineUsable 1 = true ∧ (s.eng 1).portB = (Port.A == .B) ∧ (freeQueueSlot (s.eng 1)).isSome = true ∧
      fieldOf b 1 1 ≠ 1 ∧ newIndex 12288 (fun i => (s.queue? i).isSome) s.qfe.queueGens = some (1, 1)) := by
  simp only [SetupAt]; decide +kernel
theorem meets_fences : (let l := [(0, 1, 3), (4, 4, 0xFFFFF), (8, 8, 77), (0x10, 8, 0x7008)]
    SetupAt (setupState l) .A 3 (setupBytes l) ∧ fieldOf (setupBytes l) 4 4 < 2 ^ 20 ∧ fieldOf (setupBytes l) 0x10 8 % 8 = 0 ∧
      newIndex 16384 (fun i => ((setupState l).fence? i).isSome) (setupState l).qfe.fenceGens = some (1, 1)) ∧
    (let l := [(0, 1, 4), (8, 8, fence0)]
     SetupAt (setupState l) .A 4 (setupBytes l) ∧ fenceIndex (setupState l) (fieldOf (setupBytes l) 8 8) = some 0) ∧
    (setupRequest (setupState [(0, 1, 5)]) .A = some (setupBytes [(0, 1, 5)]) ∧ 4 < fieldOf (setupBytes [(0, 1, 5)]) 0 1) := by
  simp only [SetupAt]; decide +kernel
theorem test_createQueue : (let t := after (exec (.setupCreateQueue .A) (setupState createFields));
    (t.readNat (.untranslated .A) 0x1070 8, t.portA.setup.busy, t.portA.setup.result, (t.queue? 1).map (·.engines))) =
    (mkHandle 6 1 1, false, 0, some [1]) := by decide +kernel
theorem test_setup_codes : ((after (exec (.setupCreateQueue .A) (setupState [(0, 1, 1), (3, 1, 5)]))).portA.setup.result = 0x4050) ∧
    ((after (exec (.setupDestroyFence .A) (setupState [(0, 1, 4), (8, 8, fence0)]))).fence? 0).isNone = true ∧
    (after (exec (.setupRequestInvalid .A) (setupState [(0, 1, 5)]))).portA.setup.result = 0x4050 := by decide +kernel
/-- A destroy request of queue 0. -/
def destroyFields : List (Nat × Nat × Nat) := [(0, 1, 2), (8, 8, mkHandle 6 1 0)]
theorem meets_destroyQueue : SetupAt (setupState destroyFields) .A 2 (setupBytes destroyFields) ∧
    queueIndex (setupState destroyFields) (fieldOf (setupBytes destroyFields) 8 8) = some 0 ∧
    (let t := after (exec (.setupDestroyQueue .A) (setupState destroyFields))
     t.qfe.teardown.map (fun e => (e.1, e.2.queue, e.2.commands)) = some (.A, 0, []) ∧ (t.queue? 0).map (·.state) = some .dead) := by
  simp only [SetupAt]; decide +kernel
theorem test_teardown : (let t := after (exec (.queueTeardownComplete .A)
      (after (exec (.setupDestroyQueue .A) (setupState destroyFields))));
    ((t.queue? 0).isNone, t.qfe.teardown.isNone, t.portA.setup.result) = (true, true, 0)) := by decide +kernel
theorem meets_reached : Reached base .A ∧ Reached base .B := by simp only [Reached]; decide +kernel
theorem meets_engineBits : (base.eng (32 * 0 + 1)).queues = [] ∧ (∀ k, k < 32 → k ≠ 1 → (base.eng (32 * 0 + k)).portB = bit 2 k) ∧
    (base.eng 1).portB ≠ bit 2 1 ∧ sillOk (base.setEng 1 { base.eng 1 with portB := true }) = true ∧
    sillOk (base.setEng 1 { base.eng 1 with sill := true }) = true := by decide +kernel
theorem test_engineBits : ((after (exec (.qfeEnginePortWrite .A 0 2) base)).eng 1).portB = true ∧
    ((after (exec (.qfeSillWrite .A 0 2) base)).eng 1).sill = true ∧
    ((after (exec (.qfeSillWrite .A 0 1) base)).eng 0).sill = false := by decide +kernel
theorem test_clamps : (after (exec (.qfeTimeLimitWrite .A 999) base)).qfe.timeLimit = 1000 ∧
    (after (exec (.qfePollWrite .B 0) base)).portB.pollMinNs = 250 ∧ (after (exec (.qfePollWrite .B 0) base)).portB.pollMaxUs = 1 := by
  decide +kernel
theorem test_statistic : (let s := { base with pwr := { base.pwr with capLimited := { count := 9, saturated := true } } };
    ((after (exec (.statisticClear .A 0x300018 0) s)).pwr.capLimited = { count := 0, saturated := true }) ∧
    ((after (exec (.statisticClear .B 0x300018 0x80000001) s)).pwr.capLimited = { count := 9, saturated := false }) ∧
    ((after (exec (.statisticClear .B 0x300018 0x80000000) s)).pwr.capLimited = {})) := by decide +kernel
theorem test_registerWrite : (after (exec (.registerWrite .A false 0x100000 0x12345FFF false) base)).portA.setup.addr = 0x12345F80 ∧
    (after (exec (.registerWrite .A false 0x100008 1 false) base)).qfe.setupOrder = [.A] ∧
    (after (exec (.registerWrite .B false 0x700014 9 false) base)).opx.launchNs = 0x7D0 := by decide +kernel
theorem test_clamped_registers : (after (exec (.pwrCapWrite .A 8000) base)).pwr.capW = 4200 ∧
    (after (exec (.pwrCtrlWrite .A 1) base)).pwr.burstEnable = true ∧
    ((after (exec (.pwrPhaseWrite .B 255 0x56) base)).portB.phases = [(255, { priority := 5, prefOp := 7, learned := [] })]) ∧
    (after (exec (.memProblemAreaWrite .A 1) base)).hbm.problemGib = 1 ∧
    (after (exec (.opxFrameWrite .A 0x00010100) base)).opx.periodNs = 1000 ∧
    (after (exec (.opxCascadeWrite .A 0x41050300) base)).opx.members = 5 := by decide +kernel
theorem meets_registers : base.spin.problems = [] ∧
    min 768 (768 % 1024) * 512 ≤ overStacks (fun n => if base.stackUp n then base.freePages n + base.problemShare n else 0) ∧
    base.opx.role = 0 ∧ base.opx.active.version = 0 ∧ (∀ e ∈ base.cmds, onFlow (dOpcode e.2.desc) = false) ∧
    (∃ e ∈ (live 0x90 [] []).cmds, onFlow (dOpcode e.2.desc) = true) := by decide +kernel
theorem test_statistics_counter : statUp { count := 0x7FFFFFFE } 1 = ({ count := 0x7FFFFFFF, saturated := true }, true) ∧
    statUp { count := 0x7FFFFFFF, saturated := true } 1 = ({ count := 0x7FFFFFFF, saturated := true }, false) ∧
    statUp { count := 0x7FFFFFFE, saturated := true } 1 = ({ count := 0x7FFFFFFF, saturated := true }, false) := by decide

/-! ### Stored graphs -/

/-- A graph of two no-op nodes, node 1 after node 0, at version 1. -/
def graph0 : Graph :=
  { gen := 1, port := .A, pasid := 1, lanes := 1, edges := [(0, 1)],
    versions := [(1, { nodes := [descOf 0 [], descOf 0 []], charged := chargeVersion 2 0 })], current := 1,
    baseCharge := chargeBase 2 1 }
/-- A command of the graph family with graph 0 there. -/
def graphAt (s : State) (g : Graph) : State := { s with grf := { s.grf with graphs := [(0, g)] } }
def graphH : Nat := mkHandle 4 1 0
/-- A source of two nodes and one edge, its header at 0x5000. -/
def sourceMem : List (Nat × Nat × Nat) :=
  [(0x5000, 4, 2), (0x5004, 4, 1), (0x5008, 8, 0x6000), (0x5010, 8, 0x7000), (0x5018, 1, 1), (0x7000, 4, 0x10000)]
theorem meets_graphCreate : (let s := live 0x70 [(0x10, 0x5000)] sourceMem
    let u := s
    let h := peekVa u .A 1 0x5000 64
    let nb := peekVa u .A 1 0x6000 128
    let nodes := (numbered 0 2 nb).map (·.2)
    Runnable s 0 0x70 (cmd0 0x70 [(0x10, 0x5000)]) q0 ∧ isOk (readVa u .A 1 0x5000 64) = true ∧
      isOk (needFields 0x5001 (sourceFields h)) = true ∧ isOk (readVa u .A 1 0x6000 128) = true ∧
      isOk (checkNodes 1 0 nodes) = true ∧ isOk (readArray32 u q0 0x7000 1) = true ∧ isOk (checkEdges 2 0 [] [(0, 1)]) = true ∧
      cycleLeft [(0, 1)] 2 (List.range 2) = [] ∧
      newIndex 4096 (fun i => (tblFind u.grf.graphs i).isSome) u.grf.gens = some (0, 1) ∧
      u.graphUsed + chargeBase 2 1 + chargeVersion 2 0 ≤ graphArea) := by simp only [Runnable, CommandAt]; decide +kernel
theorem test_graphCreate : recordOf (exec (.graphCreate 0) (live 0x70 [(0x10, 0x5000)] sourceMem)) =
      (0, 0x70, 0, graphH + 2 * 2 ^ 64 + 2 ^ 96) ∧
    (recordOf (exec (.graphCreate 0) (live 0x70 [(0x10, 0x5000)] (sourceMem ++ [(0x7000, 4, 0)])))).1 = 0x5002 := by
  decide +kernel
/-- A launch, a patch of node 1, and a destroy of graph 0. -/
def graphLaunchAt : State := graphAt (live 0x71 [(0x20, graphH)] []) graph0
def patchMem : List (Nat × Nat × Nat) := [(0x5000, 4, 1), (0x5008, 4, 1), (0x5014, 4, 9)]
def patchAt (stage : Stage) (g : Graph) (es : Tbl (List (Nat × Desc))) : State :=
  let s := graphAt (liveAt stage 0x72 [(0x10, 0x5000), (0x20, graphH)] patchMem) g
  { s with grf := { s.grf with patches := es } }
theorem meets_graphLaunch : (let x := cmd0 0x71 [(0x20, graphH)]
    let u := graphLaunchAt
    Runnable graphLaunchAt 0 0x71 x q0 ∧ (match needGraph u q0 (dField x.desc 0x20 8) with
      | .ok e => e == (0, graph0)
      | .error _ => false) = true ∧
      waitsAt u graph0 0 = false ∧ graph0.lost = false ∧
      isOk (laneQueues u q0 x.desc [descOf 0 [], descOf 0 []] [1, 2, 3]) = true) := by
  simp only [Runnable, CommandAt]; decide +kernel
theorem meets_patch : (let x := cmd0 0x72 [(0x10, 0x5000), (0x20, graphH)]
    let s := patchAt .started graph0 []
    let u := s
    Runnable s 0 0x72 x q0 ∧ isOk (readVa u .A 1 0x5000 8) = true ∧ fieldOf (peekVa u .A 1 0x5000 8) 0 4 = 1 ∧
      isOk (readVa u .A 1 0x5008 72) = true ∧
      fieldOf (peekVa u .A 1 0x5000 8) 4 4 = 0 ∧
      isOk (checkList graph0 [descOf 0 [], descOf 0 []] 1 (peekVa u .A 1 0x5008 72)) = true) := by
  simp only [Runnable, CommandAt]; decide +kernel
theorem meets_patchCommit : (let g := { graph0 with takenBy := some 0 }
    let s := patchAt .running g [(0, [(1, descOf 0 [(4, 9)])])]
    let u := s
    CommandAt s 0 0x72 [.running] { cmd0 0x72 [(0x10, 0x5000), (0x20, graphH)] with stage := .running } q0 ∧
      u.grf.graphs.find? (fun g => g.2.takenBy == some 0) = some (0, g) ∧ tblFind u.grf.patches 0 = some [(1, descOf 0 [(4, 9)])] ∧
      pinned u 0 1 = false ∧ u.graphUsed + chargeVersion 2 1 ≤ graphArea) := by
  simp only [CommandAt]; decide +kernel
theorem test_patchCommit : (let t := after (exec (.patchCommit 0) (patchAt .running { graph0 with takenBy := some 0 } [(0, [(1, descOf 0 [(4, 9)])])]));
    ((tblFind t.grf.graphs 0).map fun g => (g.current, g.versions.map (·.1))) = some (2, [2])) := by decide +kernel
theorem test_graphDestroy : (let s := graphAt (live 0x73 [(0x20, graphH)] []) graph0;
    recordOf (exec (.graphDestroy 0) s) = (0, 0x73, 0, 0) ∧
      ((tblFind (after (exec (.graphDestroy 0) s)).grf.graphs 0).map (·.stale)).getD true = true) := by decide +kernel
/-- A launch of graph 0 with its node 0 as given, records at an address; and the state with it. -/
def graphRun (n : NodeState) (records : Nat) : GraphLaunch :=
  { queue := 0, graph := 0, version := 1, lanes := [some 0], recordsAddr := records, nodes := [n, .waiting] }
def nodesAt (n : NodeState) (records : Nat) : State :=
  let s := graphAt (liveAt .running 0x71 [(0x20, graphH)] []) graph0
  { s with grf := { s.grf with launches := [(0, graphRun n records)] } }
theorem meets_nodeStart : (let s := nodesAt .waiting 0
    let l := graphRun .waiting 0
    tblFind s.grf.launches 0 = some l ∧ launchRuns s 0 = true ∧ nodeReady s l 0 = true ∧ nodeReady s l 1 = false ∧
      nodeQueue s l 0 = some 0 ∧ (pinnedNodes s l)[0]? = some (descOf 0 []) ∧ nodeAdmitted s l 0 = true ∧
      lowerFirst s l 0 = false ∧ isOk (startCheck (withoutLane (descOf 0 []))) = true) := by decide +kernel
theorem test_nodeStart : ((after (exec (.graphNodeStart 0 0) (nodesAt .waiting 0))).cmd? 1).map (·.node) = some (some (0, 0)) ∧
    ((after (exec (.graphNodeStart 0 1) (nodesAt .waiting 0))).cmd? 1).isNone = true := by decide +kernel
theorem meets_nodeComplete : (let s := nodesAt (.finished 0 0 0 5) 0x9000
    let l := graphRun (.finished 0 0 0 5) 0x9000
    tblFind s.grf.launches 0 = some l ∧ launchRuns s 0 = true ∧ nth .waiting l.nodes 0 = .finished 0 0 0 5 ∧
      isOk (writeVa s .A 1 0x9000 (nodeRecord s l 0 0 0 0 5)) = true) := by decide +kernel
theorem test_nodeComplete : (let t := after (exec (.graphNodeComplete 0 0) (nodesAt (.finished 0 0 0 5) 0x9000));
    (((tblFind t.grf.launches 0).map fun l => nth .waiting l.nodes 0), t.readNat (.virt .A 1) 0x9010 16)) =
    (some (.completed 0 0 0 5), 5) := by decide +kernel

/-! ### Engines and scratchpads -/

/-- Engine 5 fenced for a stall. -/
def stalled : State := bare.setEng 5 { usable := false, fenceCause := 0x3062, louvre := 0 }
theorem meets_fence : bare.works = true ∧ (bare.eng 767).usable = true ∧ queuesOn bare 767 = [] ∧ (bare.eng 767).task = none ∧
    0x7040 ∈ fenceCauses := by decide +kernel
/-- Queue 0 on engines 0 and 5. -/
def twoEngines : State :=
  { base with qfe := { base.qfe with queues := [(0, { q0 with engines := [0, 5] })] },
              engines := [(0, { queues := [(0, 0)] }), (5, { queues := [(0, 0)] })] }
theorem meets_fence_shared : queuesOn twoEngines 5 = [0] ∧ commandsOn twoEngines 5 = [] ∧ (twoEngines.eng 5).usable = true ∧
    (twoEngines.eng 5).task = none ∧ twoEngines.spin.launches = [] := by decide +kernel
theorem test_fence_shared : (let t := after (exec (.engineFence 5 0x7040 true) twoEngines);
    ((t.queue? 0).map (·.engines), (t.eng 5).usable)) = (some [0], false) := by decide +kernel
theorem test_fence : (let t := after (exec (.engineFence 767 0x7040 true) bare);
    ((t.eng 767).usable, (t.eng 767).fenceCause, t.flt.entries.map fun l => (l.code, l.detail, l.die))) =
    (false, 0x7040, [(0x3060, 0x7040 * 2 ^ 16 + 767, 47)]) := by decide +kernel
theorem test_stall : ((after (exec (.engineStall 767 true) bare)).eng 767).fenceCause = 0x3062 := by decide +kernel
theorem meets_return : Reached stalled .A ∧ (stalled.eng 5).usable = false ∧ (stalled.eng 5).fenceCause ≠ 0x3041 ∧
    (stalled.eng 5).fenceCause ≠ 0x7040 ∧ (stalled.die (engineDie 5)).powered = true ∧ slotsFree (bare.eng 5) = true ∧
    rowLeft (fullMarch stalled 5 ⟨[7], [0]⟩) 5 ⟨[7], [0]⟩ = false ∧ bare.qfe.queues = [] ∧ (bare.eng 5).usable = true ∧
    ((fullMarch bare 5 ⟨[7], [0]⟩).eng 5).usable = true ∧ freeSpare (bare.bank 5) = some 0 := by simp only [Reached]; decide +kernel
theorem test_return : ((after (exec (.engineReturn .A 5 ⟨[7], [0]⟩ true) stalled)).eng 5).louvre = 16 ∧
    (after (exec (.engineReturn .A 5 ⟨[], []⟩ false) stalled)).flt.entries.map (·.code) = [0x3064, 0x3038] := by decide +kernel
/-- The sets of engine 5 after an exchange. -/
def exchanged : State := after (exec (.shadowSetExchange 5 false) bare)
theorem meets_draining : (exchanged.eng 5).draining = true ∧ slotsFree (exchanged.eng 5) = true ∧ (exchanged.eng 5).usable = true := by
  decide +kernel
theorem test_sequences : ((exchanged.eng 5).setPRuns, (exchanged.eng 5).draining) = (false, true) ∧
    ((after (exec (.shadowSetExchange 5 true) exchanged)).eng 5).setPRuns = true ∧
    ((after (exec (.shadowSetExchange 5 false) exchanged)).eng 5).fenceCause = 0x3038 ∧
    (after (exec (.testSequence 5 false) bare)).flt.entries.map (fun l => (l.code, l.detail)) = [(0x3060, 0x30380005), (0x3038, 5)] ∧
    ((after (exec (.startUpSequence 5 ⟨[3], []⟩ true) exchanged)).eng 5).setPRuns = true ∧
    ((after (exec (.startUpSequence 5 ⟨[3], [0]⟩ true) bare)).bank 5).repairs = [(3, 1)] := by decide +kernel

theorem meets_handshake : isBank 769 = true ∧ (request 7 16383 (.write 1 5)).wf = true ∧ (bare.bank 769).waiting = [] ∧ (bare.bank 769).ports = [] ∧
    mayReach bare 0 (request 7 49151 .read) = true ∧ mayReach bare 769 (request 4 16383 .read) = true ∧
    mayReach bare 768 (request 5 16383 .read) = false := by decide +kernel
theorem test_handshake : (let t := after (exec (.scratchpadHandshake 0 [request 7 9 (.atomicAdd 8 true 3)])
      (bare.setBank 0 { words := [(9, 5 * 2 ^ 64)] }));
    (tblGet 0 (t.bank 0).words 9, t.sent)) = (8 * 2 ^ 64, [.spdData 0 7 5]) := by decide +kernel
theorem test_sealed : (after (exec (.scratchpadHandshake 768 [request 5 16383 (.atomicAdd 0 true 3)])
    (bare.setBank 768 { words := [(16383, 5)] }))).sent.contains (.spdData 768 5 0) = true := by decide +kernel
/-- A scratchpad in a phase, its pointer at the end of the region. -/
def testing (ph : TestPhase) (order : Nat) : State := bare.setBank 0 { phase := ph, pointer := 256, passRunning := true, order := order }
theorem meets_background : (bare.die (bankDie 0)).testEnable = true ∧ (bare.bank 0).passRunning = false ∧
    (bare.bank 0).ahead = [] ∧ ((testing .copy 1).bank 0).phase = .copy ∧ 256 ≤ ((testing .copy 1).bank 0).pointer ∧
    ((testing .restore (bankRegions 0)).bank 0).order = bankRegions 0 ∧ freeSpare ((testing .march 1).bank 0) = some 0 ∧
    (bare.eng 0).usable = true ∧ (bare.die 62).powered = true ∧ (bare.eng 0).context = none := by decide +kernel
theorem test_background : ((after (exec (.backgroundPassStart 0) bare)).bank 0).phase = .copy ∧
    ((after (exec (.regionPhaseEnd 0 []) (testing .copy 1))).bank 0).phase = .march ∧
    ((after (exec (.regionPhaseEnd 0 []) (testing .march 1))).bank 0).phase = .restore ∧
    ((after (exec (.regionPhaseEnd 0 []) (testing .restore (bankRegions 0)))).bank 0).passRunning = false := by decide +kernel
theorem test_test_control : ((after (exec (.spdTestCtrlWrite .A 62 0x10) bare)).die 62).testInterval = 16 ∧
    ((after (exec (.spdTestCtrlWrite .A 62 0) bare)).die 62).testInterval = 1 ∧
    ((after (exec (.spdTestCtrlWrite .A 48 0x10) bare)).die 48).testInterval = 0x3E8 := by decide +kernel

/-! ### Events -/

/-- `bare` with a source as given at controller A. -/
def withSource (n : Nat) (x : Source) : State := { bare with hostA := { sources := [(n, x)] } }
theorem meets_fire : isSource 0x040 = true ∧ isWireSource 0x040 = false ∧ (getCore (bare.host .A) 0).asleep = false ∧
    (getSrc (bare.host .A) 0x040).coalesce = false ∧ isSource 0x243 = true ∧ isCore 3 = true := by decide +kernel
theorem test_fire : (getSrc (after (exec (.eventMessage 0x040) (withSource 0x040 { count := 0xFFFF }))).hostA 0x040).count = 0xFFFF ∧
    (getSrc (after (exec (.eventMessage 0x040) bare)).hostB 0x040).count = 1 ∧
    (getSrc (after (exec (.eventMessage 0x040) (withSource 0x040 { compat := true }))).hostA 0x040).pending = true ∧
    (getSrc (after (exec (.localTimerCompare .A 3) bare)).hostB 0x243).count = 1 := by decide +kernel
theorem meets_wire : (∃ n, n < 1024 ∧ isSource n = true ∧ isWireSource n = true ∧ filterOf (getSrc bare.hostA n) ≤ 16) := by
  decide +kernel
/-- Source 0x040, unmasked, with a count. -/
def presentedState : State := withSource 0x040 { count := 1, masked := false }
/-- Source 0x040 active on core 0. -/
def claimed : State := { bare with hostA := { sources := [(0x040, { active := true })], cores := [(0, { claimedNormal := 0x040 })] } }
theorem meets_claim : presented presentedState.hostA 0 = some (0x040, false) ∧
    (getCore claimed.hostA 0).claimedNormal = 0x040 := by decide +kernel
theorem test_claim : (let t := after (exec (.eventClaim .A 0 false) presentedState);
    ((getCore t.hostA 0).claimedNormal, (getSrc t.hostA 0x040).active)) = (0x040, true) ∧
    (getSrc (after (exec (.eventComplete .A 0 0x040) claimed)).hostA 0x040).active = false := by
  decide +kernel
theorem test_controller : (let t := after (exec (.evcCountRead .A 0x040 ⟨some .A, false⟩) (withSource 0x040 { count := 9 }));
      (t.reply, (getSrc t.hostA 0x040).count)) = (9, 0) ∧
    (getSrc (after (exec (.evcMaskClr .A 2 1) (withSource 0x040 { count := 9 }))).hostA 0x040).masked = false ∧
    (getSrc (after (exec (.evcMaskSet .A 2 1) presentedState)).hostA 0x040).masked = true ∧
    (getSrc (after (exec (.evcPendClr .A 2 1) presentedState)).hostA 0x040).count = 0 ∧
    (getSrc (after (exec (.evcPendSet .A 2 1) bare)).hostA 0x040).count = 1 := by decide +kernel
/-- A sleeping core with a latched source, or one that coalesces. -/
def sleeping : State := { bare with hostA := { sources := [(0x040, { masked := false, latch := true })], cores := [(0, { asleep := true })] } }
def coalescing : State := { bare with hostA := { sources := [(0x040, { masked := false, held := true })], cores := [(0, { coalInterval := 5, coalFires := 2 })] } }
theorem meets_sleep : (getCore coalescing.hostA 0).coalInterval ≠ 0 ∧ (getCore sleeping.hostA 0).asleep = true ∧
    (∃ e ∈ sleeping.hostA.sources, e.2.core = 0 ∧ e.2.latch = true ∧ e.2.masked = false) ∧
    (∀ e ∈ bare.hostA.sources, e.2.core = 0 → e.2.active = false) := by decide +kernel
theorem test_sleep : (getCore (after (exec (.coreSleep .A 0) bare)).hostA 0).asleep = true ∧
    (getCore (after (exec (.coreWake .A 0) sleeping)).hostA 0).asleep = false ∧
    (getCore (after (exec (.coalesceIntervalExpiry .A 0) coalescing)).hostA 0).coalFires = 0 ∧
    ((after (exec (.dieCauseClear 3 5) (bare.setDie 3 { cause := 7 }))).die 3).cause = 2 ∧
    (after (exec (.evcHostCauseClear .A 31 5) { bare with portA := { portOn with hostCause := [(31, 7)] } })).portA.hostCause =
      [(31, 2)] := by decide +kernel
/-- Vector 2047 of port A as given. -/
def vectorState (m : MsixVector) : State := { bare with portA := { portOn with msix := [(2047, m)] } }
theorem meets_vectors : (vectorState {}).portA.msixEnable = true ∧ (vectorState {}).portA.funcMask = false ∧
    (vectorState {}).portA.mayRequest = true ∧ Reached (vectorState {}) .A := by simp only [Reached]; decide +kernel
theorem test_vectors : (after (exec (.msixCoalesceExpiry .A 2047) (vectorState { addr := 8, data := 9, masked := false, triggers := 2 }))).sent =
      [.msix .A 2047 8 9] ∧
    (after (exec (.msixVectorUnmask .A 2047) (vectorState { addr := 8, data := 9, pending := true }))).sent = [.msix .A 2047 8 9] ∧
    (after (exec (.msixVectorUnmask .A 2047) (vectorState { addr := 8, data := 9 }))).sent = [] := by decide +kernel
/-- Sources of core 0 that are presented: a fast one, and normal ones of two priorities. -/
def eventsOf (l : List (Nat × Source)) : HostDie := { sources := l }
theorem meets_presented : (getCore (eventsOf []) 0).asleep = false ∧ (getCore (eventsOf []) 0).spuriousFast = false ∧
    (getCore (eventsOf []) 0).spuriousNormal = false ∧ (getCore (eventsOf []) 0).claimedFast = 0x3FF := by decide +kernel
theorem test_presented : (let x : Source := { count := 1, masked := false }
    presented (eventsOf [(0x040, x), (0x041, { x with priority := 5 }), (0x042, { x with priority := 5 })]) 0 = some (0x041, false) ∧
      presented (eventsOf [(0x041, { x with priority := 5 }), (0x042, { x with fast := true })]) 0 = some (0x042, true)) := by
  decide +kernel
theorem meets_counts : (bare.die (hostDieIdx .A)).powered = true ∧ bare.barReached .A = true ∧ bare.sec.bootFailed = false ∧
    bare.sec.lifecycle ≠ 0 ∧ bare.sec.lifecycle ≠ 4 ∧ ((bare.setDie 62 { powered := false }).die (hostDieIdx .A)).powered = false ∧
    (bare.setDie 62 { powered := false }).barReached .A = true ∧ (getSrc (withSource 0x040 { compat := true }).hostA 0x040).compat = true := by
  decide +kernel
theorem test_counts : (after (exec (.evcCountRead .A 0x040 ⟨some .A, false⟩)
      { withSource 0x040 { count := 9 } with sec := { bare.sec with bootFailed := true } })).reply = 0 ∧
    (after (exec (.evcCountRead .A 0x040 ⟨some .A, false⟩) (bare.setDie 62 { powered := false }))).reply = 0xFFFFFFFF := by decide +kernel
/-- A masked vector becomes pending though the link is down (R456). -/
theorem test_masked : (let s := vectorState { addr := 8, data := 9, masked := true, triggers := 2 }
    let t := after (exec (.msixCoalesceExpiry .A 2047) { s with portA := { s.portA with linkUp := false } })
    ((tblGet {} t.portA.msix 2047).pending, (tblGet {} t.portA.msix 2047).triggers, t.sent)) = (true, 0, []) := by decide +kernel

/-! ### Ports, reset, management -/

/-- Command 0 with a read of tag 7 outstanding at port A. -/
def reading : State := { live 0x40 [] [] with portA := { portOn with reads := [{ tag := 7, command := 0, pasid := 1, page := 5 }] } }
theorem meets_partner : reading.portA.linkUp = true ∧ (readOf reading .A 7).map (·.command) = some 0 ∧
    (reading.cmd? 0).isSome = true ∧ base.qfe.queues = [(0, q0)] ∧ q0.port = .A ∧ q0.state = .ready ∧ isWord (2 ^ 32 - 1) = true := by
  decide +kernel
theorem test_partner : (after (exec (.pcieTlpReceived .A (.completion 7 false 0)) reading)).portA.reads = [] ∧
    (after (exec (.pcieTlpReceived .A .bar0Poisoned) bare)).flt.entries.map (·.code) = [0x9204] ∧
    (after (exec (.pcieTlpReceived .A .strayPrgResponse) bare)).portA.violations.count = 1 ∧
    (after (exec (.pcieTlpReceived .A (.malformed none)) bare)).sent = [.aer .A 0x9201] := by decide +kernel
theorem test_timeout : recordOf (exec (.pcieCompletionTimeout .A 7) reading) = (0x9205, 0x40, 0, 0) ∧
    (after (exec (.pcieTagWithholdExpiry .A 7) { bare with portA := { portOn with withheld := [6, 7] } })).portA.withheld = [6] ∧
    ((after (exec (.postedCreditsWithheld .A) base)).queue? 0).map (·.lastFault) = some 0x920B := by decide +kernel
theorem test_log_index : (after (exec (.fltLogReadIdxWrite .A 5) bare)).portA.logIdx = 5 := by decide +kernel
/-- Port B in D3hot. -/
def asleepB : State := { base with portB := { portOn with d3hot := true } }
theorem meets_links : base.flt.bootStep = 0 ∧ base.portA.linkUp = true ∧ base.portA.d3hot = false ∧ bare.portA.msix = [] ∧
    queuesOf bare .A = [] ∧ commandsOf base 0 = [] ∧ (∀ g ∈ base.engines, g.2.task = none) := by decide +kernel
theorem test_links : (let t := after (exec (.portLinkDown .A) base);
      (t.portA.linkUp, (t.queue? 0).map (·.state), t.flt.entries.map (·.code))) = (false, some .error, [0x9210]) ∧
    (after (exec (.portLinkUp .A) { base with portA := { portOn with linkUp := false } })).portA.linkUp = true ∧
    ((after (exec (.d3hotTransition .A) base)).queue? 0).map (·.state) = some .error ∧
    (after (exec (.d3hotExit .B) asleepB)).portB.d3hot = false ∧
    (after (exec (.busMasterEnableChange .A true true false false ⟨true, false⟩ [])
      { bare with portA := { portOn with busMaster := false, heldRequests := [.pageRequest .A 1 5] } })).sent = [.pageRequest .A 1 5] := by
  decide +kernel
/-- A reset that port B asked for, at a step. -/
def resetting (k : Nat) : State := { live 0x40 [] [] with flt := { resetStep := k, requester := 1 } }
theorem meets_reset : resetReached base .A = true ∧ base.flt.resetStep = 0 ∧ base.mgmt.powerGood = true ∧
    (resetting 2).flt.requester = portIdx (otherPort .A) ∧ resetReached (resetting 2) .A = true := by decide +kernel
theorem test_reset : (let t := after (exec (.moduleResetRequest .A 0x7E5E) base);
      (t.flt.resetStep, t.flt.requester, t.portB.graceEnd)) = (2, 0, base.time + 2000000) ∧
    (after (exec (.moduleResetRequest .A 0x7E5F) base)).flt.resetStep = 0 ∧
    (after (exec (.mfrModuleReset 0x7E5E) base)).flt.requester = 2 ∧
    (after (exec (.resetAck .A) (resetting 2))).cmds = [] ∧ (after (exec .resetGraceExpiry (resetting 2))).flt.resetStep = 3 ∧
    (after (exec .resetDies (resetting 3))).qfe.queues = [] := by decide +kernel
theorem meets_powerOn : { bare with mgmt := { bare.mgmt with powerGood := false } }.mgmt.powerGood = false ∧ isStack 23 = true := by
  decide +kernel
theorem test_training : ((placeAreas (failTraining bare 23)).stack 23).state = .absent := by decide +kernel
theorem test_power : (after (exec (.hostDieLost .B) bare)).flt.code = 0xF002 ∧
    (after (exec .inputCollapse bare)).mgmt.powerGood = false ∧ (after (exec (.spiHoldoffChange false) bare)).mgmt.holdoffHigh = false := by
  decide +kernel
theorem test_pmbus : (after (exec .readPin { bare with pwr := { inputW := 3000 } })).reply = 3000 ∧
    (after (exec .readTemperature1 (bare.setDie 3 { tempC := 91 }))).reply = 91 ∧
    (after (exec .statusInput { bare with mgmt := { vinOv := true } })).reply = 128 ∧
    (after (exec (.smbalertMask 0x7A (some 3)) bare)).mgmt.alertMask = [(0x7A, 3)] ∧
    (after (exec .clearFaults { bare with mgmt := { vinOv := true } })).mgmt.vinOv = false := by decide +kernel
theorem test_pmbus_reads : (after (exec .statusWord bare)).reply = 0 ∧ (after (exec .statusTemperature bare)).reply = 0 ∧
    (after (exec .readTemperature2 bare)).reply = 60 ∧ (after (exec .mfrLifecycle bare)).reply = readSec bare .A 0 / 2 ^ 16 ∧
    (after (exec (.standardInterfaceLoss (.hbm 3)) bare)).mgmt.lostInterfaces = [.hbm 3] := by decide +kernel

/-! ### Power -/

theorem meets_fastLoop : bare.works = true ∧ (bare.die 47).powered = true := by decide +kernel
theorem test_fastLoop : (let t := after (exec (.fastLoop 47 70000 60000 12) (bare.setDie 47 { budgetCw := 5000 }));
    ((t.die 47).powerCw, (t.die 47).overBudget, (t.die 47).droopMv)) = (0xFFFF, true, 12) := by decide +kernel
/-- A period without measured power. -/
def measured0 : PowerSample := { fixedW := 0, inputW := 3000, staticMw := [], learnMw := [] }
theorem meets_controllers : (∃ k, k < 48 ∧ ((bare.setDie 47 { urgent := true }).die k).urgent = true) :=
  ⟨47, by decide +kernel⟩
theorem test_controllers : ((after (exec (.urgentAllocation measured0) (bare.setDie 47 { urgent := true }))).die 47).urgent = false ∧
    (after (exec (.capControllerPeriod measured0) bare)).pwr.energyMj = 3000 ∧
    ((after (exec (.railRampComplete 5) (bare.setDie 5 { rampTo := some 4 }))).die 5).op = 4 ∧
    (after (exec .controllerTakeover bare)).pwr.controllerH1 = true := by decide +kernel
theorem test_margins : ((after (exec (.marginTrim 5 0) (bare.setDie 5 { droopMv := 60 }))).die 5).marginMv = 35 ∧
    ((after (exec (.marginTrim 5 0) bare)).die 5).marginMv = 25 ∧
    (after (exec (.droopToNominal 5) bare)).flt.entries.map (·.code) = [0x7011] := by decide +kernel
theorem meets_limits : bare.pwr.bankLow = false ∧ bare.pwr.uvExcursion = false ∧ (bare.die 63).thermal = {} ∧
    (bare.stack 23).thermal = {} ∧ (bare.die 48).powered = true ∧ 62000 < (62001 : Nat) ∧
    105 ≤ ((bare.setDie 5 { tempC := 105 }).die 5).tempC := by decide +kernel
theorem test_input : (after (exec (.inputVoltageChange 54000) bare)).pwr.uvExcursion = false ∧
    (after (exec (.inputVoltageChange 53999) bare)).flt.entries.map (·.code) = [0x7001] ∧
    (after (exec (.inputVoltageChange 49999) bare)).flt.code = 0xF702 ∧
    (after (exec .overvoltageTimeout { bare with pwr := { inputMv := 62001 } })).flt.code = 0xF702 := by decide +kernel
theorem test_bank : (after (exec .holdUpBankRecovered { bare with pwr := { bankLow := true } })).pwr.bankLow = false := by decide +kernel
theorem test_thermal : (after (exec (.thermalChange false 63 110) bare)).flt.code = 0xF701 ∧
    (after (exec (.thermalChange true 23 100) bare)).flt.code = 0xF701 ∧
    ((after (exec (.thermalChange false 63 94) bare)).die 63).tempC = 94 ∧
    (after (exec (.thermalTripTimeout 5) (bare.setDie 5 { tempC := 105 }))).flt.code = 0xF701 ∧
    ((after (exec (.pointOfLoadFailure (.pointOfLoad 48)) bare)).die 48).powered = false ∧
    (after (exec (.pointOfLoadFailure .sixVoltBus) bare)).flt.code = 0xF703 := by decide +kernel
theorem meets_ports : readOf reading .A 8 = none ∧ bare.barReached .A = true ∧
    ({ bare with portA := { portOn with memEnable := false } } : State).barReached .A = false ∧ bare.hbm.job = none ∧
    bare.portA.creditsWithheld = false ∧ ({ bare with portA := { portOn with busMaster := false } } : State).portA.mayRequest = false ∧
    (let s := { reading with portA := { portOn with reads := [{ tag := 7, command := 0, pasid := 1, page := 5, killed := true }] } }
     (readOf s .A 7).map (·.killed) = some true) := by decide +kernel
/-- A read of a command that a reset kills is answered to nobody; one that nothing asked for is 0x9202 (R471, R478). -/
theorem test_killedReads : (let t := after (exec .resetGraceExpiry { reading with flt := { resetStep := 2, requester := 1 } })
    (t.portA.reads.map (·.killed), (after (exec (.pcieTlpReceived .A (.completion 7 false 0)) t)).flt.entries.map (·.code))) =
      ([true], []) ∧
    (after (exec (.pcieTlpReceived .A (.completion 8 false 0)) reading)).flt.entries.map (·.code) = [0x9202] := by decide +kernel
/-- A port that may not send holds what it would send until it may (R484, R502). -/
theorem test_credits : (let t := after (exec (.postedCreditsWithheld .A) base)
    (t.portA.mayRequest, (after (exec (.portLinkUp .A) t)).portA.mayRequest) = (false, true)) := by decide +kernel
/-- After a fatal error at power-on; with the input off. -/
def stuckBoot : State := { bare with flt := { stopped := true, resetStep := 4, bootStep := 1 } }
theorem meets_inputOff : (0 < stuckBoot.pwr.inputMv ∧ stuckBoot.mgmt.powerGood = true ∧ stuckBoot.flt.stopped = true ∧
      4 ≤ stuckBoot.flt.resetStep) ∧ { bare with pwr := { inputMv := 0 } }.pwr.inputMv = 0 ∧ hasIdentity bare = true := by
  decide +kernel
theorem meets_tamperMac : (let s := { bare with sec := { bare.sec with tamperMac := some (tamperMacOf bare 0 0), tamperCount := 0, tamperInputs := 0 } }
      s.sec.tamperMac = some (tamperMacOf s s.sec.tamperCount s.sec.tamperInputs)) ∧
    (∀ s : State, ∃ r : TamperRecord, r.mac ≠ tamperMacOf s r.count r.inputs) :=
  ⟨rfl, fun s => ⟨⟨0, 0, tamperMacOf s 0 0 ++ [0]⟩, by simp⟩⟩
theorem test_inputOff : (after (exec .clearFaults { bare with mgmt := { vinOv := true }, pwr := { inputMv := 0 } })).mgmt.vinOv = true ∧
    (after (exec (.mfrModuleReset 0x7E5E) stuckBoot)).flt.requester = 2 := by decide +kernel

/-! ### The symmetric functions, on examples their standards publish -/

theorem test_sha3 : beNat (sha3 []) = 0x0c63a75b845e4f7d01107d852e4c2485c51a50aaaa94fc61995e71bbee983a2ac3713831264adb47fb6bd1e058d5f004 := by
  decide +kernel
theorem test_aesParts : subByte 0x53 = 0xED ∧ subByte 0 = 0x63 ∧ gmul 0x57 0x13 = 0xFE ∧
    mixColumn [0xDB, 0x13, 0x53, 0x45] = [0x8E, 0x4D, 0xA1, 0xBC] := by decide +kernel
/-- A period in which die 0 alone needs too much at OP2. -/
def sampleOver : PowerSample :=
  { fixedW := 0, inputW := 0, staticMw := [10, 20, 30000] :: List.replicate 47 [0, 0, 2000], learnMw := [] }
def capped : State := { bare with pwr := { bare.pwr with capInForceW := 100 } }
theorem meets_allocation : (let s := capped
    let m := sampleOver
    let dies := (List.range 48).filter fun d => (s.die d).powered
    let first := fun d => needMw s m d (wantedOp s d)
    let order := fun (d k : Nat) => diePriority s d < diePriority s k ∨ (diePriority s d = diePriority s k ∧
      bit01 (s.die d).hold ≤ bit01 (s.die k).hold)
    0 ∈ dies ∧ 0 < wantedOp s 0 ∧ s.pwr.capInForceW * 1000 - m.fixedW * 1050 < (dies.map first).sum ∧
      (dies.map first).sum + needMw s m 0 (wantedOp s 0 - 1) ≤ 100000 + first 0 ∧
      ∀ y ∈ dies, y ≠ 0 → 0 < wantedOp s y → order 0 y ∧ (order y 0 → first y ≤ first 0 ∧ (first y = first 0 → 0 < y))) := by
  decide +kernel
/-- It alone is lowered, by one point (R405). -/
theorem test_allocation : (let t := (allocate capped sampleOver).1
    (((List.range 48).filter fun d => (t.die d).rampTo.isSome), (t.die 0).rampTo, (t.die 1).budgetCw)) =
    ([0], some 1, (2000 + (100000 - 94020) / 48) / 10) := by decide +kernel
theorem meets_excursions : bare.mgmt.powerGood = true ∧ bare.flt.stopped = false ∧ (bare.die 62).thermal = {} ∧ isDie 62 = true ∧
    (∀ k, k < 48 → k ≠ 5 → ((bare.setDie 5 { marginMv := 30 }).die k).marginMv ≤ 30) ∧ (bare.die 47).powered = true := by
  decide +kernel
theorem test_excursions : (after (exec (.inputVoltageChange 62001) bare)).flt.entries.map (·.code) = [0x7002] ∧
    (after (exec (.inputVoltageChange 39999) bare)).mgmt.powerGood = false ∧
    (after (exec (.thermalChange false 5 100) bare)).flt.entries.map (·.code) = [0x7021, 0x7020] ∧
    ((after (exec (.thermalChange false 5 100) bare)).eng 80).louvre = 8 ∧
    (after (exec (.thermalChange true 23 92) bare)).flt.entries.map (·.code) = [0x7022] ∧
    ((after (exec (.pointOfLoadFailure (.pointOfLoad 47)) bare)).eng 767).fenceCause = 0x7040 := by decide +kernel

/-! ### Entropy and security -/

/-- Port A's host die with an entropy source. -/
def entAt (x : Entropy) : State := { base with hostA := { ent := x } }
/-- A source that serves. -/
def seeded : Entropy := { state := .ready, instantiated := true, begun := true, softBits := natLe 4 7 }
/-- A source that restarts, with a request waiting. -/
def stalledSource : Entropy := { state := .restarting, begun := true, waiting := [.keyBlock .A] }
/-- 1024 samples that change at each one. -/
def changing : Vector Byte 128 := Vector.replicate 128 0x55
/-- A launch that names nothing but its command. -/
def seedWaiting : Entropy := { seeded with waiting := [.runSeed 0] }
theorem meets_source : bare.mgmt.powerGood = true ∧ (bare.ent .A).state = .starting ∧ (bare.ent .A).waiting = [] ∧
    ((entAt { conditioning := true }).ent .A).conditioning = true ∧ (sourceHealth {} changing).failed = none ∧
    (sourceHealth {} (Vector.replicate 128 0)).failed = some false ∧ rngStatus seeded = 0 ∧ canServe seeded = true ∧
    seeded.softBits ≠ [] ∧ rngStatus { seeded with softBits := [] } = 0 ∧ rngStatus (bare.ent .A) ≠ 0 ∧
    (entAt stalledSource).flt.stopped = false ∧ requestStands (entAt stalledSource) (.keyBlock .A) = true := by decide +kernel
theorem test_source : ((after (exec (.sourceStart .A changing) bare)).ent .A).conditioning = true ∧
    ((after (exec (.entropyBlockReady .A changing) (entAt { conditioning := true }))).ent .A).state = .ready ∧
    ((after (exec (.entropyBlockReady .A (Vector.replicate 128 0)) (entAt { conditioning := true }))).ent .A).state = .restarting ∧
    ((after (exec (.failureCountDecay .A) (entAt { failures := 2, conditioning := true }))).ent .A).failures = 0 := by decide +kernel
theorem test_failures : (let t := after (exec (.healthTestFailure .A false true) (entAt { failures := 2 }));
      ((t.ent .A).state, t.flt.entries.map fun l => (l.code, l.detail % 2 ^ 9))) =
      (.permanentFault, [(0x8E10, 62), (0x8E11, 257)]) ∧
    ((after (exec (.healthTestFailure .A true false) bare)).ent .A).state = .restarting := by decide +kernel
theorem test_rng : (let t := after (exec (.entRngRead .A true true) (entAt seeded)); (t.reply, (t.ent .A).softBits)) =
      (7 * 2 ^ 32, []) ∧ (after (exec (.entRngRead .A true true) bare)).reply = 2 ^ 30 := by decide +kernel
theorem test_entropyStall : (let t := after (exec (.entropyStallTimeout .A) (entAt stalledSource));
    ((t.ent .A).waiting, t.portA.sec.result, (t.ent .A).consumerErr.count)) = ([], 0x8E02, 1) := by decide +kernel
/-- Port A has given a security request at 0x1000. -/
def secState (l : List (Nat × Nat × Nat)) : State :=
  let s := l.foldl (fun s e => s.write (.untranslated .A) (0x1000 + e.1) (natLe e.2.1 e.2.2)) bare
  { s with portA := { portOn with sec := { addr := 0x1000, busy := true } }, sec := { secOrder := [.A] } }
def secBytes (l : List (Nat × Nat × Nat)) : List Byte := (secState l).read (.untranslated .A) 0x1000 128
/-- The state with a life cycle state and the hall key of zeros. -/
def inState (s : State) (k : Nat) : State := { s with sec := { s.sec with lifecycle := k, hallKey := some (zeros 32) } }
theorem meets_request : secRequest (secState [(0, 1, 0x30), (8, 8, 0x4000), (0x10, 8, 50480)]) .A =
      some (secBytes [(0, 1, 0x30), (8, 8, 0x4000), (0x10, 8, 50480)]) ∧
    (let b := secBytes [(0, 1, 0x30), (8, 8, 0x4000), (0x10, 8, 50480)]
     secReserved b [(8, 16), (0x20, 32)] = false ∧ fieldOf b 8 8 % 4096 = 0 ∧ 50480 ≤ fieldOf b 0x10 8) ∧
    (let b := secBytes [(0, 1, 0x31), (8, 8, 0x4000), (0x10, 8, 31480)]
     secReserved b [(8, 16)] = false ∧ 31480 ≤ fieldOf b 0x10 8) ∧ hasIdentity bare = true ∧ keyBlockServes bare = true ∧
    bare.sec.bootFailed = false ∧ bare.sec.lifecycle = 2 ∧ bare.qfe.queues = [] ∧ mayMove bare .A [2] = true ∧
    mayMove bare .A [1, 2] = true ∧ mayMove (inState bare 3) .A [3] = true ∧ bare.sec.fuseSvn < 64 ∧
    EntRequest.keyBlock .A ∉ (bare.ent .A).waiting ∧ 0x37 < fieldOf (secBytes [(0, 1, 0x38)]) 0 1 := by decide +kernel
/-- The requests whose last premise is a verdict of a cryptographic function (log entry 12) meet every other premise. -/
theorem meets_ciphers : (let b := secBytes [(0, 1, 0x32), (8, 8, 0x4000)]
      secReserved b [(8, 16)] = false ∧ fieldOf b 0x10 8 ≤ base.opx.frame / 2 ^ 19 ∧ canServe seeded = true) ∧
    (let b := secBytes [(0, 1, 0x36), (8, 8, 0x4000), (0x10, 1, 1)]
     secReserved b [(8, 9)] = false ∧ fieldOf b 0x10 1 = 1) ∧
    (let b := secBytes [(0, 1, 0x35)]
     secReserved b [(8, 8)] = false ∧ secRequest (secState [(0, 1, 0x35)]) .A = some b) := by decide +kernel
theorem test_lifecycle : (after (exec (.withdrawHallKey .A) (inState (secState [(0, 1, 0x33)]) 1))).portA.sec.result = 0x8201 ∧
    (after (exec (.returnModule .A) (inState (secState [(0, 1, 0x34)]) 0))).portA.sec.result = 0x8201 ∧
    (after (exec (.scrap .A) (inState (secState [(0, 1, 0x35)]) 4))).portA.sec.result = 0x8201 ∧
    (after (exec (.vendorAuthorisation .A) (inState (secState [(0, 1, 0x36), (0x10, 1, 2)]) 3))).portA.sec.result = 0x8201 ∧
    (after (exec (.loadHallKey .A) (inState (secState [(0, 1, 0x32), (0x18, 1, 1)]) 2))).portA.sec.result = 0x8205 := by
  decide +kernel
theorem test_security_codes : (let t := after (exec (.commitSvn .A)
      (let s := secState [(0, 1, 0x37)]; { s with sec := { s.sec with imageSvn := 9 } }));
      (t.sec.fuseSvn, t.portA.sec.result)) = (9, 0) ∧
    (after (exec (.securityRequestInvalid .A) (secState [(0, 1, 0x38)]))).portA.sec.result = 0x8205 ∧
    (after (exec (.attest .A) (secState [(0, 1, 0x30), (8, 8, 0x4008), (0x10, 8, 50480)]))).portA.sec.result = 0x8205 ∧
    (after (exec (.readCertificate .A) (inState (secState [(0, 1, 0x31), (0x10, 8, 31480)]) 0))).portA.sec.result = 0x8201 := by
  decide +kernel
/-- A slot with a header whose payload is longer than a slot. -/
def badImage : List Byte := natLe 4 0x57464D56 ++ zeros 8 ++ natLe 4 (2 ^ 32 - 1)
/-- Waiting for boot. -/
def booting : State := { bare with flt := { bootStep := 1 } }
theorem meets_boot : booting.flt.bootStep ≠ 0 ∧ booting.mgmt.holdoffHigh = true ∧ booting.mgmt.powerGood = true ∧
    booting.flt.stopped = false ∧ candidate booting [] = false ∧
    candidate booting badImage = true ∧ imagePasses badImage = false ∧ bare.sec.lifecycle ≠ 4 := by decide +kernel
theorem test_boot : (let t := after (exec (.boot ⟨[], []⟩ ⟨[], []⟩) booting);
      (t.sec.bootFailed, t.flt.bootStep, t.flt.entries.map (·.code))) = (true, 0, [0x8101]) ∧
    (after (exec (.boot ⟨badImage, []⟩ ⟨badImage, []⟩) booting)).flt.entries.map (·.code) = [0x8101, 0x8103, 0x8103] := by decide +kernel
theorem test_tamper : (let t := after (exec (.tamperEvent 3) (inState bare 0));
      (t.flt.stopped, t.sec.tamperCount, t.flt.entries.map (·.code))) = (false, 0, [0x8302, 0x8301]) ∧
    (after (exec (.tamperEvent 1) (inState bare 4))).flt.entries = [] := by decide +kernel
theorem meets_functions : bare.barReached .A = true ∧ bare.sec.bootFailed = false ∧ bare.sec.lifecycle ≠ 0 ∧ bare.sec.lifecycle ≠ 4 ∧
    (let s := { entAt seeded with portA := { portOn with memEnable := false } }
     s.portA.linkUp = true ∧ s.barReached .A = false) ∧ mayAsk bare = true ∧ (bare.host .A).keys.isSome = true ∧
    ((entAt { lastSample := some false, sampleRun := 40 }).ent .A).lastSample = some false := by decide +kernel
theorem test_functions : (after (exec (.entRngRead .A true true)
      { entAt seeded with sec := { bare.sec with bootFailed := true } })).reply = 0 ∧
    (after (exec (.entRngRead .A true true) { entAt seeded with portA := { portOn with memEnable := false } })).sent =
      [.unsupportedRequest .A] := by decide +kernel
/-- A run of 41 equal samples fails though one of them came in the window before (R413). -/
theorem test_healthRun : (healthWindow (some true) 1 (List.replicate 40 true)).failed = some false ∧
    (healthWindow (some false) 1 (List.replicate 40 true)).failed = none := by decide +kernel
/-- With no transition left a request is refused (R434). -/
theorem test_noTransitions : (let spent := fun (s : State) => { s with sec := { s.sec with transitionsLeft := 0 } }
    (after (exec (.commitSvn .A) (spent (secState [(0, 1, 0x37)])))).portA.sec.result = 0x8201 ∧
      (after (exec (.attest .A) (spent (secState [(0, 1, 0x30), (8, 8, 0x4000), (0x10, 8, 50480)])))).portA.sec.result = 0x8201) := by
  decide +kernel

/-! ### HBM units and maps -/

/-- A command of queue 0 whose page 0 of the device range lies on stack 23, page 5; unit `dev` is its first. -/
def dev : Nat := 23 * stackUnits + 5 * pageUnits
def mapped (write : Bool) : State :=
  { live 0x10 [] [] with hbm := { pages := [(deviceKey .A 1 0, { stack := 23, page := 5, write := write })] } }
theorem meets_units : dev < 24 * stackUnits ∧ bare.stackUp (dev / stackUnits) = true ∧
    reachedPage (mapped true) q0 dev = some (deviceKey .A 1 0, { stack := 23, page := 5, write := true }) ∧
    ((mapped true).cmd? 0).isSome = true ∧ dev ∉ (mapped true).hbm.poisoned ∧ (zeros 128).length = 128 ∧
    dev ∉ bare.hbm.patrolMarks := by decide +kernel
theorem test_units : (let t := after (exec (.hbmAccess dev (.writeWhole (natLe 128 9)) [1, 2, 3] 0) (mapped true));
      ((after (exec (.hbmAccess dev .read [5, 6] 0) t)).reply, (after (exec (.hbmAccess dev .read [5] 0) t)).hbm.corrected.count)) =
      (9, 1) ∧ (after (exec (.patrolScrub dev [67]) bare)).hbm.patrolMarks = [dev] ∧
    (after (exec (.patrolScrub dev [67]) (after (exec (.patrolScrub dev [67]) bare)))).hbm.retireDue = [dev / rangeUnits] := by
  decide +kernel
theorem test_readOnly : recordOf (exec (.hbmAccess dev (.writeWhole []) [] 0) (mapped false)) = (0x2002, 0x10, 0, 0) := by
  decide +kernel
theorem test_poisoned : (let s := { mapped true with hbm := { (mapped true).hbm with poisoned := [dev] } }
    (recordOf (exec (.hbmAccess dev .read [] 0) s)).1 = 0x2011 ∧
      (after (exec (.hbmAccess dev (.writeWhole (zeros 128)) [1, 2, 3] 0) s)).hbm.poisoned = []) := by decide +kernel
/-- A stack with spares used and a range of page 5 due; one whose pseudo-channel 31 has used its spares and has bad pins. -/
def worn (used : Nat) : State :=
  { (mapped true).setStack 23 { unitsRetired := used } with
    hbm := { ((mapped true).setStack 23 { unitsRetired := used }).hbm with
      retireDue := [23 * 36864 + 10], redirected := (List.range used).map fun k => (23 * 36864 + 100 + k, k) } }
def lanes (bad : List Nat) : State :=
  bare.setStack 23 { laneMap := [(31 * 64, 0), (31 * 64 + 1, 1)], badPins := bad, pinsDue := [pinKey 31 31] }
def pinDue : State := bare.setStack 23 { pinsDue := [pinKey 31 31] }
theorem meets_retire : 23 * 36864 + 10 ∈ (worn 63).hbm.retireDue ∧ sparesUsed (worn 63) 23 = 63 ∧
    sparesUsed (worn 64) 23 = 64 ∧ (worn 64).hbm.pages = [(deviceKey .A 1 0, { stack := 23, page := 10 / 2, write := true })] ∧
    lanesUsed (pinDue.stack 23) 31 < 2 ∧ pinKey 31 31 ∈ (pinDue.stack 23).pinsDue ∧ pinKey 31 31 ∉ (bare.stack 23).pinsDue ∧
    2 ≤ lanesUsed ((lanes []).stack 23) 31 ∧ badPinsOf { (lanes []).stack 23 with badPins := addOnce 1023 [] } 31 = 1 ∧
    badPinsOf { (lanes [992]).stack 23 with badPins := addOnce 1023 [992] } 31 = 2 ∧
    (lanes [992]).spin.problems = [] ∧ (lanes [992]).grf.graphs = [] ∧ (lanes [992]).stackUp 23 = true := by decide +kernel
theorem test_retire : tblFind (after (exec (.unitRetirement 23 10) (worn 63))).hbm.redirected (23 * 36864 + 10) = some 63 ∧
    (after (exec (.unitRetirement 23 10) (worn 64))).hbm.pages = [] := by decide +kernel
theorem test_pins : ((after (exec (.pinLaneRepair 23 31 31 true) pinDue)).stack 23).lanesRepaired = 1 ∧
    ((after (exec (.pinLaneRepair 23 31 31 false) pinDue)).stack 23).state = .fenced ∧
    ((after (exec (.pinLaneRepair 23 31 31 true) (lanes []))).stack 23).state = .degraded ∧
    ((after (exec (.pinLaneRepair 23 31 31 true) (lanes [992]))).stack 23).state = .fenced := by decide +kernel
/-- Port A has given a map request at 0x1000. -/
def mapState (s : State) (l : List (Nat × Nat × Nat)) : State :=
  let s := l.foldl (fun s e => s.write (.untranslated .A) (0x1000 + e.1) (natLe e.2.1 e.2.2)) s
  { s with portA := { portOn with map := { addr := 0x1000, busy := true } }, hbm := { s.hbm with mapOrder := [.A] } }
def mapBytes (s : State) (l : List (Nat × Nat × Nat)) : List Byte := (mapState s l).read (.untranslated .A) 0x1000 128
/-- A near map of two writable pages on memory die 7; an unmap of the mapped page. -/
def mapNear : List (Nat × Nat × Nat) := [(0, 1, 0x10), (1, 1, 1), (2, 1, 1), (3, 1, 7), (4, 4, 1), (8, 8, deviceBase), (0x10, 8, 2 ^ 22)]
def unmapOne : List (Nat × Nat × Nat) := [(0, 1, 0x11), (4, 4, 1), (8, 8, deviceBase), (0x10, 8, 2 ^ 21)]
theorem meets_map : (let b := mapBytes bare mapNear;
      MapAt (mapState bare mapNear) .A 0x10 b ∧ mapBad b = false ∧ rangePages b = [0, 1] ∧ fieldOf b 2 1 = 1 ∧
      (rangePages b).length ≤ bare.freePages 21 + bare.freePages 22 + bare.freePages 23 ∧
      (placePages (deviceKey .A 1) true true 7 (rangePages b) (mapState bare mapNear) []).isSome = true) ∧
    (let b := mapBytes (mapped true) unmapOne;
      MapAt (mapState (mapped true) unmapOne) .A 0x11 b ∧ mapReserved b [(4, 4), (8, 16)] = false ∧ rangeBad b = false ∧
      rangePages b = [0]) ∧
    mapRequest (mapState bare [(0, 1, 0x15)]) .A = some (mapBytes bare [(0, 1, 0x15)]) ∧
    0x14 < fieldOf (mapBytes bare [(0, 1, 0x15)]) 0 1 := by simp only [MapAt]; decide +kernel
theorem meets_mapJobs : (let t := after (exec (.map .A) (mapState bare mapNear));
      t.hbm.job = some { port := .A, unmap := false, keys := [(deviceKey .A 1 0, { stack := 21, page := 17151, write := true }),
        (deviceKey .A 1 1, { stack := 22, page := 17151, write := true })] } ∧ t.hbm.pages = []) ∧
    (let t := after (exec (.unmap .A) (mapState (mapped true) unmapOne));
     (t.hbm.job.map (·.unmap)) = some true ∧ t.hbm.pages = []) := by decide +kernel
theorem test_maps : (let t := after (exec (.mapZeroingComplete .A) (after (exec (.map .A) (mapState bare mapNear))));
      (t.hbm.pages.length, t.portA.map.busy, t.readNat (.untranslated .A) 0x1070 8)) = (2, false, 2) ∧
    (after (exec (.unmapDrainEnd .A) (after (exec (.unmap .A) (mapState (mapped true) unmapOne))))).portA.map.result = 0 ∧
    (after (exec (.mapRequestInvalid .A) (mapState bare [(0, 1, 0x15)]))).portA.map.result = 0x2040 ∧
    (after (exec (.unmap .A) (mapState bare unmapOne))).portA.map.result = 0x2040 := by decide +kernel
theorem meets_writeVa : isOk (writeVa base .A 1 0x5000 [1, 2]) = true ∧
    isOk (writeVa (mapped true) .A 1 (deviceBase + 127) [1, 2]) = true := by decide +kernel
theorem test_writeVa : (match writeVa (mapped true) .A 1 (deviceBase + 127) [1, 2] with
    | .ok t => (t.read (.page 23 5) 127 2, peekVa t .A 1 (deviceBase + 127) 2)
    | .error _ => ([], [])) = ([1, 2], [1, 2]) := by decide +kernel
/-- A write of the unit and then a read of it have won the arbiters of its channel. -/
def unitWon : State :=
  { mapped true with mesh := { won := [(16 * 23 + unitChannel dev, 
    [{ packet 63 1 0 with operation := 2 * dev + 1, data := [9, 0] }, { packet 63 1 0 with operation := 2 * dev }])] } }
theorem meets_unitOrder : unitMay unitWon dev .read = false ∧ unitMay unitWon dev (.writeWhole (natLe 128 9)) = true ∧
    unitMay (unitDone unitWon dev) dev .read = true ∧ unitMay bare dev .read = true := by decide +kernel
theorem test_unitOrder : (let t := after (exec (.hbmAccess dev (.writeWhole (natLe 128 9)) [] 0) (after (exec (.hbmAccess dev .read [] 0) unitWon)))
    (after (exec (.hbmAccess dev .read [] 0) t)).reply) = 9 := by decide +kernel
/-- A map that has zeroed its pages while its port may not write. -/
def mapDue : State :=
  let s := after (exec (.map .A) (mapState bare mapNear))
  { s with portA := { s.portA with busMaster := false } }
theorem meets_mapDue : (let t := after (exec (.mapZeroingComplete .A) mapDue)
    t.hbm.job = some { port := .A, unmap := false, keys := [], accesses := [], due := some 2 } ∧ t.portA.linkUp = true) := by
  decide +kernel
theorem test_mapDue : (let t := finishDue { after (exec (.mapZeroingComplete .A) mapDue) with portA := { mapDue.portA with busMaster := true } } .A
    (t.hbm.job, t.portA.map.busy, t.readNat (.untranslated .A) 0x1070 8)) = (none, false, 2) := by decide +kernel

/-! ### Stores, dumps and the flash medium -/

/-- Store 0 of 8 blocks, bound to port A, PASID 1; block 7 written with ones. -/
def store0 : FlashStore := { gen := 1, blocks := 8, label := 5, bound := some (.A, 1), written := [(7, eraseKey 0 3)] }
def storeH : Nat := mkHandle 3 1 0
def stored (s : State) : State :=
  ({ s with fls := { s.fls with stores := [(0, store0)] } }).write (.store 0) (4096 * 7) (List.replicate 4 1)
/-- A command of the store family on block `first` on, `count` blocks. -/
def storeFields (first count : Nat) : List (Nat × Nat) := [(0x10, 0x8000), (0x18, first), (0x20, storeH), (0x28, count)]
def storeCmd (op : Nat) (fs : List (Nat × Nat)) : State := stored (live op fs [])
theorem meets_storeCreate : (let s := live 0x80 [(0x10, 3), (0x18, 9)] []
    let u := s
    let d := (cmd0 0x80 [(0x10, 3), (0x18, 9)]).desc
    Runnable s 0 0x80 (cmd0 0x80 [(0x10, 3), (0x18, 9)]) q0 ∧ isOk (needDesc d 0xA001 [(0x10, dField d 0x10 8 == 0)]) = true ∧
      dField d 0x10 8 ≤ freeBlocks u ∧ newIndex 65536 (fun i => (tblFind u.fls.stores i).isSome) u.fls.gens = some (0, 1)) := by
  simp only [Runnable, CommandAt]; decide +kernel
theorem meets_stores : (let x := cmd0 0x81 (storeFields 7 1)
    let s := storeCmd 0x81 (storeFields 7 1)
    let u := s
    Runnable s 0 0x81 x q0 ∧ (match needStore u q0 (dField x.desc 0x20 8) with
      | .ok e => e == (0, store0)
      | .error _ => false) = true ∧ dFirst x.desc + dCount x.desc ≤ 8 ∧ isOk (needDesc x.desc 0xA001 (transferFields x.desc)) = true ∧
      isOk (checkVa u .A 1 0x8000 4096 true) = true ∧ lostBlock x.desc store0 = none ∧ u.fls.readOnly = false) ∧
    (let x := cmd0 0x83 [(0x18, 7), (0x20, storeH), (0x28, 1)]
     let s := storeCmd 0x83 [(0x18, 7), (0x20, storeH), (0x28, 1)]
     Runnable s 0 0x83 x q0 ∧ isOk (needDesc x.desc 0xA001 [(0x28, dCount x.desc == 0)]) = true) ∧
    (let x := cmd0 0x85 [(0x20, storeH)]
     let s := storeCmd 0x85 [(0x20, storeH)]
     Runnable s 0 0x85 x q0 ∧ isOk (needDesc x.desc 0xA001 []) = true ∧ storeBusy s 0 = false) := by
  simp only [Runnable, CommandAt]; decide +kernel
theorem meets_storeWrite : Runnable (storeCmd 0x82 (storeFields 0 1)) 0 0x82 (cmd0 0x82 (storeFields 0 1)) q0 ∧
    CommandAt (stored (liveAt .running 0x82 (storeFields 0 1) [])) 0 0x82 [.running] { cmd0 0x82 (storeFields 0 1) with stage := .running } q0 ∧
    isOk (checkVa (stored (liveAt .running 0x82 (storeFields 0 1) [])).translated .A 1 0x8000 4096 false) = true ∧
    (let x := cmd0 0x84 [(0x10, 0x8000), (0x20, storeH)]
     Runnable (storeCmd 0x84 [(0x10, 0x8000), (0x20, storeH)]) 0 0x84 x q0 ∧ isOk (needDesc x.desc 0xA001 []) = true) := by
  simp only [Runnable, CommandAt]; decide +kernel
theorem test_stores : recordOf (exec (.storeCreate 0) (live 0x80 [(0x10, 3)] [])) = (0, 0x80, 0, storeH) ∧
    recordOf (exec (.storeTrim 0) (storeCmd 0x83 [(0x18, 7), (0x20, storeH), (0x28, 1)])) = (0, 0x83, 0, 1) ∧
    ((tblFind (after (exec (.storeTrim 0) (storeCmd 0x83 [(0x18, 7), (0x20, storeH), (0x28, 1)]))).fls.stores 0).map
      (·.written.length)) = some 0 := by decide +kernel
theorem test_storeDestroy : ((after (exec (.storeDestroy 0) (storeCmd 0x85 [(0x20, storeH)]))).fls.stores.length,
    recordOf (exec (.storeDestroy 0) (storeCmd 0x85 [(0x20, storeH)]))) = (0, 0, 0x85, 0, 0) := by decide +kernel
/-- Requests about stores and dumps of port A. -/
def bindFields : List (Nat × Nat × Nat) := [(0, 1, 0x12), (4, 4, 2), (8, 8, storeH)]
def listFields : List (Nat × Nat × Nat) := [(0, 1, 0x13), (8, 8, 0x4000), (0x10, 8, 32)]
def dumpFields : List (Nat × Nat × Nat) := [(0, 1, 0x14), (1, 1, 0), (8, 8, 0x4000), (0x10, 8, 16)]
/-- Flash with a dump of 16 bytes in slot 1. -/
def dumped : State := { bare with fls := { dumps := [{}, { valid := true, bytes := 16 }] } }
theorem meets_storeRequests : (let b := mapBytes (stored bare) bindFields;
      MapAt (mapState (stored bare) bindFields) .A 0x12 b ∧ fieldOf b 4 4 < 2 ^ 20 ∧
      storeIndex (mapState (stored bare) bindFields) (fieldOf b 8 8) = some 0) ∧
    (let b := mapBytes (stored bare) listFields;
      MapAt (mapState (stored bare) listFields) .A 0x13 b ∧ fieldOf b 8 8 % 32 = 0) ∧
    (let b := mapBytes dumped dumpFields;
      MapAt (mapState dumped dumpFields) .A 0x14 b ∧ fieldOf b 1 1 ≤ 1 ∧
      fieldOf b 8 8 % 4096 = 0 ∧ (nth {} dumped.fls.dumps dumped.fls.latestDump).bytes ≤ fieldOf b 0x10 8) := by
  simp only [MapAt]; decide +kernel
theorem test_storeRequests : (let t := after (exec (.listStores .A) (mapState (stored bare) listFields));
      (t.readNat (.untranslated .A) 0x4000 8, t.readNat (.untranslated .A) 0x4010 8, t.readNat (.untranslated .A) 0x1070 8)) =
      (storeH, 5, 1) ∧
    ((after (exec (.readDump .A) (mapState dumped dumpFields))).readNat (.untranslated .A) 0x1070 8) = 16 ∧
    (after (exec (.readDump .A) (mapState bare dumpFields))).portA.map.result = 0xA051 ∧
    (after (exec (.bindStore .A) (mapState bare bindFields))).portA.map.result = 0x4011 := by decide +kernel
theorem test_bind : ((tblFind (after (exec (.bindStore .A) (mapState (stored bare) bindFields))).fls.stores 0).map (·.bound)) =
    some (some (.A, 2)) := by decide +kernel
/-- A channel that is being rebuilt; the erase block of store 0's data as given; one of the memory die much erased. -/
def rebuilding : State := bare.setChannel 15 { state := .rebuilding, failed := [0] }
def aged (e : EraseBlock) (now : Nat) : State := setEraseBlock { stored bare with time := now } (eraseKey 0 3) e
def uneven : State := setEraseBlock bare (eraseKey 7 9) { erases := 201 }
/-- A read of block 7 as command 0. -/
def readingSeven : State := storeCmd 0x81 (storeFields 7 1)
theorem meets_medium : (tblFind (stored bare).fls.stores 0).map (fun f => (tblFind f.written 7, f.lost)) = some (some 3, []) ∧
    (bare.channel 14).state = .up ∧ (bare.channel 15).state = .up ∧ 7 ∉ (bare.channel 15).failed ∧
    (rebuilding.channel 15).state = .rebuilding ∧ (bare.channel 14).state ≠ .fenced ∧
    (eraseBlock bare (eraseKey 7 3)).retired = false ∧ 3 < dieBlocks ∧ (stored bare).cmd? 0 = none ∧
    (readingSeven.cmd? 0).map (fun x => (dOpcode x.desc, dStore x.desc, dFirst x.desc, dCount x.desc)) =
      some (0x81, 0, 7, 1) := by decide +kernel
theorem meets_upkeep : holdsData (stored bare) (eraseKey 0 3) = true ∧
    ageDays (aged { used := 1 } (90 * 86400000000000)) { used := 1 } = 90 ∧ ageDays (aged { used := 1 } 0) { used := 1 } = 0 ∧
    (eraseBlock (aged { reads := 50000 } 0) (eraseKey 0 3)).reads = 50000 ∧
    leastWorn uneven 7 = (eraseKey 7 0, 0) ∧ leastWorn bare 7 = (eraseKey 7 0, 0) := by decide +kernel
theorem test_medium : ((tblFind (after (exec (.flashPageRead 0 7 0 .lost) (stored bare))).fls.stores 0).map (·.lost)) = some [7] ∧
    (after (exec (.flashPageRead 0 7 0 .lost) readingSeven)).fls.lifetimeUncorrectable = 1 ∧
    ((after (exec (.flashDieRebuild 15 7) bare)).channel 15).failed = [7] ∧
    ((after (exec (.flashDieRebuild 14 0) rebuilding)).channel 14).state = .fenced ∧
    (after (exec (.flashRebuildComplete 15) rebuilding)).fls.spareBlocks = 51711 - 6622 := by decide +kernel
theorem test_upkeep : ((after (exec (.flashProgramFail 15 3) bare)).fls.spareBlocks = 51710) ∧
    (eraseBlock (after (exec (.retentionRefresh 0 3) (aged { used := 1 } (90 * 86400000000000)))) (eraseKey 0 3)).erases = 1 ∧
    (after (exec (.retentionRefresh 0 3) (aged { used := 1 } 1))).fls.refreshed = 0 ∧
    (eraseBlock (after (exec (.wearLevelCopy 7) uneven)) (eraseKey 7 0)).erases = 1 ∧
    (after (exec (.readDisturbCopy 0 3) (aged { reads := 50000 } 0))).fls.refreshed = 1 := by decide +kernel
/-- A dump of 4 bytes that waits to be mirrored. -/
def mirroring : State := ({ bare with flt := { mirror := 1, dumpLen := 4 } }).write (.dump 2) 0 [1, 2, 3, 4]
theorem meets_mirror : mirroring.flt.mirror = 1 ∧ mirroring.fls.latestDump ≤ 1 ∧ mirroring.fls.dumps.length = 2 ∧
    mirroring.flt.dumpLen ≤ 2 ^ 64 := by decide +kernel
theorem test_mirror : (let t := after (exec (.dumpMirror true) mirroring);
      (t.fls.latestDump, t.read (.dump 0) 0 4, t.flt.mirror)) = (0, [1, 2, 3, 4], 2) ∧
    (after (exec (.dumpMirror false) mirroring)).flt.entries.map (·.code) = [0xA050] := by decide +kernel

/-! ### Frames, occurrences, the open slot, hall timing, lanes -/

/-- Boot keys of zeros in epoch 0. -/
def key0 : LinkKey := { epoch := 0, boot := true, tx := zeros 32, rx := zeros 32 }
/-- Pair 143 (die 5, position 23) live towards die 2, position 3 of hall 9, in epoch 0. -/
def livePair : Pair := { state := .up, peerHall := 9, peerDie := 2, peerPos := 3, keys := [key0] }
def withPair (x : Pair) : State := { bare with opx := { hallId := 4, frame := 100, schedFrame := 100, pairs := [(143, x)] } }
def paired : State := withPair livePair
/-- A header of that peer in a frame, with slip tokens and acknowledgements. -/
def header (frame mask acks : Nat) : FrameHeader :=
  { hallId := 9, die := 2, position := 3, timing := 0, version := 0, frame := frame, slipMask := mask, openAck := acks, laneMap := 15,
    repeats := [] }
/-- A codeword of kind 1: 31 symbols that are a multiple of the generator polynomial of R353, then zeros. -/
def word1 : List Nat :=
  [334, 64, 622, 646, 866, 622, 334, 509, 190, 248, 814, 801, 848, 566, 14, 133, 996, 873, 554, 236, 329, 161, 420, 27, 200, 738,
   26, 867, 609, 245, 38]
/-- Symbols on the eight lanes of a fibre, and lanes all zero. -/
def onLanes (w : List Nat) : List (List Nat) := stripe none (w ++ List.replicate (544 - w.length) 0)
def silence : List (List Nat) := List.replicate 9 []
/-- 20 wrong symbols at a codeword's end. -/
def garbled : List (List Nat) := onLanes (List.replicate 524 0 ++ List.replicate 20 1)

theorem test_generator : (rsGenerator.take 8, rsGenerator.drop 28) = ([1, 575, 552, 187, 230, 552, 1, 108], [128, 834, 523]) := by
  decide +kernel
theorem test_word1 : (wordIn paired 143 (onLanes word1)).1.map (·.kind) = some 1 ∧ lanesWf (onLanes word1) = true := by
  decide +kernel
theorem test_locator : (let x := (List.range 30).foldl (rsStep (List.replicate 30 77)) {}; (x.loc.take 2, x.len)) = ([1, 1], 1) ∧
    rsMagnitude (List.replicate 30 77) [1, 1] 0 = 77 := by decide +kernel
theorem test_garbled : (let r := wordIn paired 143 garbled; (r.1.isNone, (r.2.pair 143).undecoded)) = (true, 1) ∧ lanesWf garbled = true := by decide +kernel

theorem meets_frames : paired.works = true ∧ paired.opx.relockFrame = none ∧ paired.opx.armed = false ∧
    paired.opx.flows = [] ∧ (paired.pair 143).live = true ∧ (paired.pair 143).keys.head? = some key0 ∧
    key0.epoch = (paired.opx.frame + 1) / 2 ^ 19 := by decide +kernel
theorem meets_headers : (headerBytes (header 100 2 0)).length = 624 ∧ headerFrom (headerBytes (header 100 2 0)) = header 100 2 0 ∧
    (paired.pair 143).keyOf (header 100 2 0).frame = some key0 ∧ (paired.pair 143).openDue = false ∧
    (∀ f ∈ tokens (header 100 2 0), paired.opx.frame + 1 < f) ∧ headerFault paired 143 (header 100 2 0) = none ∧
    headerFault paired 143 (header 99 0 0) = some 0x9104 ∧ 99 / 2 ^ 19 = key0.epoch := by decide +kernel
theorem test_frameStart : (let t := sendHeader (slipCheck (takeSlip (nextFrame paired))) 143;
    (t.opx.frame, t.opx.schedFrame, t.sent.map fun m => match m with
      | .codeword d n pos f _ => (d, n, pos, f)
      | _ => (0, 0, 0, 0))) = (101, 101, [(5, 23, 0, 101)]) := by decide +kernel
theorem test_headerTaken : (headerTaken paired 143 (header 100 2 0)).opx.slips = [102] ∧
    (headerTaken paired 143 (header 100 1 0)).opx.stopped = true ∧
    ((headerTaken paired 143 { header 100 0 0 with laneMap := 3 }).pair 143).rxSpare = some 3 := by decide +kernel
/-- A receive entry of flow 1 from member 2 at position 1 of the pair, in every frame; an occurrence of it lost. -/
def entryIn : SchedEntry := { start := 544, len := 544, pair := 23, transmit := false, cadence := 0, phase := 0, flow := 1, origin := 2 }
def receiving (x : Pair) : State :=
  { withPair x with opx := { (withPair x).opx with active := { version := 1, entries := [[], [], [], [], [], [entryIn]] } } }
def slot1 : LostSlot := { position := 1, frame := 100, losses := 0, flow := 1, origin := 2, cws := 1, turn := 579 }
/-- That occurrence, lost in frame 98; its label in frame 100. -/
def lostSlot : LostSlot := { slot1 with frame := 98, losses := 1 }
def label (flow : Nat) : List Byte := natLe 2 (1 * 8 + 1) ++ natLe 2 flow ++ natLe 1 2
theorem meets_occurrences : standing (receiving livePair) 143 1 = some (slot1, 0) ∧ slot1.cws = 1 ∧
    ((receiving livePair).pair 143).mismatch = false ∧ ((receiving livePair).pair 143).keyOf 100 = some key0 ∧
    slot1.origin ≠ (receiving livePair).opx.member ∧ (receiving livePair).opx.held = [] ∧
    (∀ e ∈ (receiving livePair).opx.pairs, e.2.lost = []) ∧ (receiving livePair).opx.flows = [] ∧
    0 < openStart (receiving livePair).opx ∧ (zeros 624).length = 624 := by decide +kernel
theorem meets_labels : (let s := receiving { livePair with lost := [lostSlot] }
    standing s 143 9 = none ∧ labelled s 143 (label 1) = some lostSlot ∧ receives s 143 (fieldOf (label 1) 2 2) (fieldOf (label 1) 4 1) = true ∧
      lostSlot.flow = fieldOf (label 1) 2 2 ∧ lostSlot.origin = fieldOf (label 1) 4 1) ∧
    (let s := receiving { livePair with lost := [{ lostSlot with flow := 3 }] }
     labelled s 143 (label 1) = some { lostSlot with flow := 3 }) ∧
    (let s := withPair { livePair with lost := [{ slot1 with losses := 3 }] };
     (∃ m ∈ (s.pair 143).lost, m.position = 1 ∧ 3 ≤ m.losses) ∧ s.opx.flows = []) := by decide +kernel
theorem test_codeword : ((scheduledIn (receiving livePair) 143 1 none).pair 143).lost =
      [{ slot1 with losses := 1 }] ∧
    (scheduledIn (receiving livePair) 143 9 (some { kind := 2, index := 0, payload := [] })).flt.entries.map (·.code) = [0x9101] ∧
    ((scheduledIn (receiving { livePair with lost := [lostSlot] }) 143 9 (some { kind := 4, index := 0, payload := label 1 })).pair
      143).repeatNow = some (lostSlot, 9) := by decide +kernel
theorem test_delivery : (deliver (receiving livePair)
    { flow := 1, origin := 2, frame := 100, turn := 0, die := 5, bytes := natLe 16 2 ++ [7, 8] }).opx.rx.map (·.2.bytes.length) =
    [18] := by decide +kernel
theorem test_repeatWindow : ((after (exec (.repeatWindowExpired 5 23 1)
    (withPair { livePair with lost := [{ slot1 with losses := 3 }] }))).pair 143).state = .fenced := by decide +kernel
/-- A member whose lead is hall 9. -/
def memberOf : State := { paired with opx := { paired.opx with role := 2, leadHall := 9, armed := true, transom := 200 } }
theorem meets_openSlot : memberOf.opx.role = 2 ∧ (memberOf.pair 143).peerHall = memberOf.opx.leadHall ∧
    (paired.pair 143).keyOf paired.opx.frame = some key0 ∧ (paired.pair 143).openHeld = [] ∧ 15 < 16 ∧ 3 < paired.opx.openCw ∧
    tblGet 0 (paired.pair 143).openTaken 65535 < 2 ^ 32 := by decide +kernel
theorem test_openSlot : (let t := messageIn paired 143 1 (openText 1 0 (natLe 8 0 ++ zeros 32));
      ((t.pair 143).peerNonce.map (·.1), (t.pair 143).openAck, (t.pair 143).openTaken)) = (some 0, 2, [(1, 1)]) ∧
    (messageIn paired 143 1 (openText 1 1 [])).opx.violations.count = 0 ∧
    (takeMessage memberOf 143 .disarm).opx.armed = false ∧
    (takeMessage paired 143 (.undefinedType 77)).opx.violations.count = 1 := by decide +kernel
/-- The optical fabric in a timing state with good markers of X0 and X3. -/
def clocked (t : Timing) (x0 x3 : Nat) : State :=
  { bare with opx := { timing := t, goodX0 := x0, goodX3 := x3, missX0 := x0 == 0, missX3 := x3 == 0, calibrated := [0, 1, 2, 3, 4, 5],
                       frame := 7 } }
/-- The same with X3 as the source. -/
def onX3 (x0 : Nat) : State := { clocked .aligned x0 16 with opx := { (clocked .aligned x0 16).opx with sourceX3 := true } }
theorem meets_timing : goodMarker bare.opx 10001000 = true ∧ goodMarker bare.opx 10001001 = false ∧ bare.opx.timing = .unlocked ∧
    (clocked .locking 15 0).opx.timing = .locking ∧ allCalibrated (clocked .locking 15 0).opx = true ∧
    offsetWrong (clocked .locking 15 0).opx = false ∧ (clocked .aligned 16 16).opx.sourceX3 = false ∧
    (clocked .aligned 16 16).opx.missX3 = false ∧ (clocked .aligned 16 0).opx.missX3 = true ∧ (onX3 1023).opx.sourceX3 = true ∧
    (clocked .holdover 0 0).opx.holdoverLeft = 0 := by decide +kernel
theorem test_timing : (after (exec (.markerReceived false 50 10000000 0) bare)).opx.timing = .locking ∧
    (let t := after (exec (.markerReceived false 50 10000000 0) (clocked .locking 15 0)); (t.opx.timing, t.opx.frame)) = (.aligned, 49) ∧
    (let t := after (exec (.markerMissing false) (clocked .aligned 16 16)); (t.opx.switchTo, t.opx.sourceX3)) = (some true, false) ∧
    (let t := after (exec (.markerMissing false) (clocked .aligned 16 0)); (t.opx.timing, t.opx.holdoverLeft)) = (.holdover, 4096) ∧
    (after (exec .holdoverLimit (clocked .holdover 0 0))).opx.timing = .degraded := by decide +kernel
theorem test_timeSource : (nextFrame (after (exec (.markerMissing false) (clocked .aligned 16 16)))).opx.sourceX3 = false ∧
    (switchSource (after (exec (.markerMissing false) (clocked .aligned 16 16)))).opx.sourceX3 = true ∧
    (after (exec (.markerReceived false 50 10000000 0) (onX3 1022))).opx.switchTo = none ∧
    (after (exec (.markerReceived false 50 10000000 0) (onX3 1023))).opx.switchTo = some false ∧
    tblFind (after (exec (.calibration 5 41) bare)).opx.calTempC 5 = some 41 := by decide +kernel
/-- A fenced pair that is allowed to come up; a live pair with 4 codewords of errors on lane 7, and as given else. -/
def fencedPair : State :=
  let s := withPair { livePair with state := .fenced }
  { s with sec := { s.sec with hallKey := some (zeros 32) } }
def erring (x : Pair) : State := withPair { x with errorRuns := [0, 0, 0, 0, 0, 0, 0, 4, 0] }
theorem meets_lanes : isPair 5 23 = true ∧ ((erring livePair).pair 143).rxSpare = none ∧
    laneFailed ((erring livePair).pair 143) 7 .errors = true ∧ laneFailed (paired.pair 143) 7 .errors = false ∧
    laneFailed (paired.pair 143) 7 .asked = true ∧
    ((withPair { livePair with rxSpare := some 0 }).pair 143).rxSpare = some 0 ∧ (fencedPair.pair 143).state = .fenced ∧
    laneFailed { livePair with rxSpare := some 0 } 7 (.dark 100) = true ∧
    pairAllowed fencedPair 143 = true ∧ fencedPair.barReached .A = true ∧ fencedPair.sec.keyBlockRefuses = false ∧ 2 ^ 29 / 2 ^ 29 % 2 = 1 ∧
    (let s := withPair { livePair with nonceDue := true };
     (s.host (nonceHost 143)).ent.state ≠ .permanentFault ∧ (s.host (nonceHost 143)).ent.waiting = []) := by decide +kernel
theorem test_lanes : (let t := after (exec (.laneFailure 5 23 7 .errors false) (erring livePair));
      ((t.pair 143).state, (t.pair 143).rxSpare, (t.pair 143).laneAsk, t.sent, t.flt.entries.map (·.code))) =
      (.spare, some 7, some 7, [.laneControl 5 23 7], [0x1040]) ∧
    ((after (exec (.laneFailure 5 23 7 .errors false) (erring { livePair with txSpare := some 1 }))).pair 143).openQueue.length = 1 ∧
    ((after (exec (.laneFailure 5 23 7 .asked false) paired)).pair 143).txSpare = some 7 ∧
    ((after (exec (.laneFailure 5 23 7 (.dark 100) false) (withPair { livePair with rxSpare := some 0 }))).pair 143).state = .fenced := by
  decide +kernel
theorem test_retrain : ((after (exec (.opxPairRetrain .A 5 23 (2 ^ 29)) fencedPair)).pair 143).state = .up ∧
    ((after (exec (.linkNonceRetry 5 23) (withPair { livePair with nonceDue := true }))).host (nonceHost 143)).ent.waiting =
      [.linkNonce 5 23] := by decide +kernel
theorem meets_unpowered : (let s := fencedPair.setDie 61 { powered := false }; (s.die (56 + 5)).powered = false ∧ s.barReached .A = true) := by
  decide +kernel
theorem test_unpowered : ((after (exec (.opxPairRetrain .A 5 23 (2 ^ 29)) (fencedPair.setDie 61 { powered := false }))).pair 143).state =
    .fenced := by decide +kernel
/-- A header of an epoch without a key, from another hall (R387). -/
def forged : List Byte := headerBytes { header (2 ^ 19 + 100) 0 0 with hallId := 8 }
theorem meets_forged : forged.length = 624 ∧ ((paired.pair 143).keyOf (headerFrom forged).frame).isNone = true := by decide +kernel
theorem test_forged : (let t := headerIn paired 143 (forged ++ zeros 16)
    (t.flt.entries.map (·.code), (t.pair 143).mismatch)) = ([0x9106], false) := by decide +kernel

/-! ### Tensor commands -/

/-- A tensor record at an address: base, scale word, format, dims 0 and 1 (rows of `stride` bytes). -/
def tens (a base scale format d0 d1 stride : Nat) : List (Nat × Nat × Nat) :=
  [(a, 8, base), (a + 8, 8, scale), (a + 0x1C, 1, format), (a + 0x20, 4, d0), (a + 0x24, 4, d1), (a + 0x28, 4, 1),
   (a + 0x2C, 4, 1), (a + 0x30, 4, stride)]
/-- An int8 tensor of four values at 0x5000 under a record at 0x1000, its copy's record at 0x1100, an int32 one's at 0x1200. -/
def tensors : List (Nat × Nat × Nat) :=
  tens 0x1000 0x5000 0 2 4 1 0 ++ tens 0x1100 0x5100 0 2 4 1 0 ++ tens 0x1200 0x5200 0 0x0A 4 1 0 ++ [(0x5000, 4, 0x7F80FF03)]
def copying : State := live 0x10 [(0x10, 0x1000), (0x18, 0x1100)] tensors
def converting : State := live 0x11 [(0x10, 0x1000), (0x18, 0x1200)] tensors
/-- The record at an address. -/
def tensorAt (s : State) (a : Nat) : Tensor := tensorOf (peekVa s .A 1 a 96)
theorem meets_copy : (let x := cmd0 0x10 [(0x10, 0x1000), (0x18, 0x1100)]
    let u := copying
    Runnable copying 0 0x10 x q0 ∧ isOk (tensorPair u x q0 copyRefused) = true ∧ (tensorAt u 0x1000).raw ≠ (tensorAt u 0x1100).raw ∧
      (match tensorPair u x q0 copyRefused with
        | .ok (a, b) => (match loadOperands u q0 [a] with
          | .ok [l] => isOk (overlapWith u q0 b.t [a]) && (match copyWrites u q0 l b.t with
            | .ok ws => isOk (writeRuns u q0 ws)
            | .error _ => false)
          | _ => false)
        | .error _ => false) = true) := by simp only [Runnable, CommandAt]; decide +kernel
theorem meets_convert : (let x := cmd0 0x11 [(0x10, 0x1000), (0x18, 0x1200)]
    let u := converting
    Runnable converting 0 0x11 x q0 ∧ (match tensorPair u x q0 convertRefused with
        | .ok (a, b) => (match loadOperands u q0 [a] with
          | .ok [l] => isOk (overlapWith u q0 b.t [a]) && (match readValues u q0 l with
            | .ok vals => isOk (writeTensor u q0 b.t vals)
            | .error _ => false)
          | _ => false)
        | .error _ => false) = true) := by simp only [Runnable, CommandAt]; decide +kernel
/-- A VB8 tensor of one block at 0x5400 copied onto itself, and a slip of its slot on engine 0. -/
def blockTensor : List (Nat × Nat × Nat) :=
  tens 0x1300 0x5400 0x5600 8 4 1 0 ++ [(0x5400, 4, 0x04030201), (0x5600, 2, 0x0021)]
def selfCopy : State := live 0x10 [(0x10, 0x1300), (0x18, 0x1300)] blockTensor
def slip0 : TagSlip := { engine := 0, operand := 0, block := 0, found := 7, moduleCrossing := false }
theorem meets_slip : (let x := cmd0 0x10 [(0x10, 0x1300), (0x18, 0x1300)]
    let u := selfCopy
    Runnable selfCopy 0 0x10 x q0 ∧ (match tensorPair u x q0 copyRefused with
        | .ok (a, b) => (match loadOperands u q0 [a] with
          | .ok [_] => slipReal q0 [a] slip0 && !slipReal q0 [a] { slip0 with found := 1 } && a.t.raw == b.t.raw
          | _ => false)
        | .error _ => false) = true) := by simp only [Runnable, CommandAt]; decide +kernel
theorem test_slip : (let o := exec (.copy 0 [slip0]) selfCopy; (recordOf o, ((after o).eng 0).streamTag.count)) =
    ((0x6001, 0x10, 0, 2 ^ 72 + 2 ^ 80 + 7 * 2 ^ 88), 1) ∧ recordOf (exec (.copy 0 []) selfCopy) = (0, 0x10, 0, 0) := by decide +kernel
theorem test_copy : (let t := after (exec (.copy 0 []) copying); t.readNat (.virt .A 1) 0x5100 4) = 0x7F80FF03 := by decide +kernel
theorem test_convert : (let t := after (exec (.convert 0 []) converting); t.readNat (.virt .A 1) 0x5200 16) =
    3 + 0xFFFFFFFF * 2 ^ 32 + 0xFFFFFF80 * 2 ^ 64 + 127 * 2 ^ 96 := by decide +kernel
theorem meets_slots : (∀ x ∈ [0x4025, 0x1F71], x < 2 ^ 16) ∧ slotTag 0x4021 = blockTag 0 ∧ slotExp 0x4F71 ≤ 247 := by decide
theorem test_slots : retag [0x4025, 0x1F71] = [0x4021, 0x1F72] ∧ isOk (checkSlots 0 0 [0x4021, 0x1F72]) = true ∧
    isOk (checkSlots 0 0 [0x4021, 0x1F71]) = false ∧ isOk (checkSlots 0 0 [0x0F81]) = false := by decide +kernel
/-- Of several slips the lowest operand's is reported, within it the lowest block's (R190). -/
theorem test_lowestSlip : lowestSlip [{ slip0 with operand := 1 }, { slip0 with block := 4 }, { slip0 with block := 2, engine := 5 }] =
    some { slip0 with block := 2, engine := 5 } := by decide +kernel
theorem meets_lowestSlip : lowestSlip ([slip0].filter (slipReal q0 [])) = none ∧ lowestSlip [slip0] = some slip0 := by decide +kernel

/-! ### Matrix and reduction commands -/

/-- Two products per element: A = (3, -1) at 0x5000, B = ((2, 4), (5, 6)) by rows at 0x5100, C int32 at 0x5200. -/
def factors : List (Nat × Nat × Nat) :=
  tens 0x1000 0x5000 0 2 2 1 0 ++ tens 0x1100 0x5100 0 2 2 2 2 ++ tens 0x1200 0x5200 0 0x0A 2 1 0 ++
    [(0x5000, 2, 0xFF03), (0x5100, 4, 0x06050402)]
def mulFields : List (Nat × Nat) := [(0x10, 0x1000), (0x18, 0x1100), (0x20, 0x1200)]
def multiply : State := live 0x20 mulFields factors
/-- Its state after the start, after one sequence over everything, and after the combination. -/
def mulStarted : State := after (exec (.matrixMultiply 0) multiply)
def mulSummed : State := after (exec (.groupSequence 0 0 0 2 0 2 []) mulStarted)
def mulCombined : State := after (exec (.partialCombine 0) mulSummed)
theorem meets_multiply : (let x := cmd0 0x20 mulFields
    let u := multiply
    let d := x.desc
    Runnable multiply 0 0x20 x q0 ∧ isOk (needDesc d 0x3033 (slotFields d)) = true ∧
      (match readOperands u q0 [] (slotOperands d [0x10, 0x18]) with
        | .ok os => isOk (check1 os) && isOk (slotStreams u q0 os 2 (refusedSources d os)) && (match shapeOf d os with
          | .ok sh => isOk (destShape os 2 sh.dims) && isOk (arrayCheck u x q0 sh.dims)
          | .error _ => false)
        | .error _ => false) = true ∧ isOk (claimCheck u 0 0 [0]) = true) := by simp only [Runnable, CommandAt]; decide +kernel
/-- The job of the multiply once started. -/
def mulJob : AccJob :=
  { records := (mulStarted.jobs.head?.map (·.2.records)).getD [], slot := 0, base := 0, strict := false, addTo := false,
    keep := false, noWrite := false, dims := [2, 1, 1, 1], kLen := 2, group := 8 }
theorem meets_sequence : (let x := { cmd0 0x20 mulFields with
      stage := .running, dests := [(0x5200, 8)], kept := [0x1000, 0x1100, 0x1200].zip mulJob.records }
    let u := mulStarted
    CommandAt mulStarted 0 0x20 [.running] x q0 ∧ tblFind mulStarted.jobs 0 = some mulJob ∧ u.engineUsable 0 = true ∧ (u.eng 0).louvre ≠ 0 ∧ freshRange mulJob 0x4000 0 2 0 2 = true ∧ sequenceTurn u 0 = true ∧
      mulJob.combined = none ∧ (match loadOperands u q0 ((jobOperands x.desc mulJob).filter fun o => o.num < 2) with
        | .ok ls => (match gatherTerms ((List.range 2).map fun i => (List.range 2).map fun k =>
            termOf u q0 x.desc (ls.map fun l => { l with exact := true }) mulJob.dims i k) with
          | .ok terms => terms == [[6, -4], [15, -6]] && isOk (runSequence mulJob terms 3 0).2
          | .error _ => false)
        | .error _ => false) = true) := by simp only [CommandAt]; decide +kernel
theorem test_sequence : ((tblFind mulSummed.jobs 0).map fun j => (j.partials.map (·.value), covered j 0x4000)) = some ([2, 9], true) ∧
    ((tblFind mulCombined.jobs 0).bind (·.combined)) = some [(2, 0), (9, 0)] ∧
    nth .free (mulStarted.eng 0).slots 0 = .claimed 0 := by decide +kernel
/-- The same while port A may not send. -/
def stuck : State := { mulCombined with portA := { mulCombined.portA with busMaster := false } }
theorem meets_commit : (let x := { cmd0 0x20 mulFields with stage := .running, dests := [(0x5200, 8)] }
    let u := mulCombined
    let l := [((2 : Int), 0), (9, 0)]
    (mulCombined.cmd? 0).map (·.stage) = some .running ∧ (mulCombined.cmd? 0).map (·.desc) = some x.desc ∧
      (match tblFind mulCombined.jobs 0, mulCombined.cmd? 0 with
        | some j, some x => j.combined == some l && elemCount j.dims == 2 && mayRun mulCombined 0 x q0 &&
            (match destPlan u q0 (dFuse x.desc) (jobOperands x.desc j) 2 j.base j.keep j.fuse 0 l with
              | .ok (y, _, _) => isOk (writePlan (u.sending q0) q0 y) && sendable u q0 y && sendable stuck q0 y == false
              | .error _ => false) &&
            isOk (combineAll { j with combined := none } 0x4000 none).2
        | _, _ => false) = true) := by decide +kernel
theorem test_pieces : pieceEnd [100, 2, 1, 1] 64 0 = 64 ∧ pieceEnd [100, 2, 1, 1] 64 64 = 100 ∧ pieceEnd [2, 1, 1, 1] 64 0 = 2 := by
  decide
theorem test_commit : (let o := exec (.accumulatorCommit 0 []) mulCombined;
    ((after o).readNat (.virt .A 1) 0x5200 8, recordOf o, (after o).jobs.length)) = (2 + 9 * 2 ^ 32, (0, 0x20, 0, 0), 0) := by
  decide +kernel
/-- A sum of the row (3, -1), started; a convolution of it by a kernel of width 1. -/
def summing : State := live 0x30 [(0x10, 0x1000), (0x20, 0x1300)] (factors ++ tens 0x1300 0x5300 0 0x0A 1 1 0)
theorem test_sum : (let t := after (exec (.sum 0) summing); (tblFind t.jobs 0).map fun j => (j.dims, j.kLen, j.group)) =
    some ([1, 1, 1, 1], 2, 8) := by decide +kernel
def convolveFields : List (Nat × Nat) :=
  [(0x10, 0x1000), (0x18, 0x1100), (0x20, 0x1200), (0x35, 1), (0x36, 1), (0x37, 1), (0x38, 1), (0x39, 1), (0x3A, 1)]
theorem test_convolve : (let t := after (exec (.convolve 0) (live 0x21 convolveFields factors));
      (tblFind t.jobs 0).map fun j => (j.dims, j.kLen, j.group)) = some ([2, 1, 1, 1], 2, 8) ∧
    recordOf (exec (.convolve 0) (live 0x21 ((0x3B, 16) :: convolveFields) factors)) = (0x3033, 0x21, 0x3B, 0) := by decide +kernel
/-- Slot 0 keeps an array of two values; a write out of it and its release. -/
def keeping (s : State) : State :=
  { s with arrays := [(arrayKey 0 0, { dims := [2, 1, 1, 1], base := 0, depth := 0, values := [7, -8] })],
           engines := [(0, { queues := [(0, 0)], slots := [.kept 0, .free, .free, .free] })] }
theorem meets_arrays : (let x := cmd0 0x22 [(0x20, 0x1200)]
    let s := keeping (live 0x22 [(0x20, 0x1200)] factors)
    let u := s
    Runnable s 0 0x22 x q0 ∧ isOk (needDesc x.desc 0x3033 (writeOutFields x.desc)) = true ∧ isOk (claimCheck u 0 0 [0]) = true ∧
      (match readOperands u q0 [] (slotOperands x.desc []) with
        | .ok os => isOk (check1 os) && isOk (slotStreams u q0 os 0 []) && isOk (destShape os 0 [2, 1, 1, 1]) &&
            (match destPlan u q0 (dFuse x.desc) os 0 0 true none 0 [(7, 0), (-8, 0)] with
              | .ok (y, _, _) => isOk (writePlan (u.sending q0) q0 y) && sendable u q0 y
              | .error _ => false)
        | .error _ => false) = true) ∧
    (let x := cmd0 0x23 []
     Runnable (keeping (live 0x23 [] [])) 0 0x23 x q0 ∧ isOk (needDesc x.desc 0x3033 [(0x32, decide (3 < dSlot x.desc))]) = true) := by
  simp only [Runnable, CommandAt]; decide +kernel
theorem test_arrays : (let t := after (exec (.writeOut 0 []) (keeping (live 0x22 [(0x20, 0x1200)] factors)));
      (t.readNat (.virt .A 1) 0x5200 8, t.arrays.length, nth (.kept 9) (t.eng 0).slots 0)) = (7 + 0xFFFFFFF8 * 2 ^ 32, 0, .free) ∧
    (after (exec (.release 0) (keeping (live 0x23 [] [])))).arrays.length = 0 := by decide +kernel
/-- Two ACC64 sources of one element, 5 and 6, at scale 1; the list at 0x1800. -/
def partialsMem : List (Nat × Nat × Nat) :=
  tens 0x1000 0x5000 0x5080 0x0B 1 1 0 ++ tens 0x1100 0x5100 0x5180 0x0B 1 1 0 ++ tens 0x1200 0x5200 0 0x0A 1 1 0 ++
    [(0x5000, 8, 5), (0x5080, 8, 1), (0x5100, 8, 6), (0x5180, 8, 1), (0x1800, 4, 2), (0x1808, 8, 0x1000), (0x1810, 8, 0x1100)]
def combining : State := live 0x31 [(0x10, 0x1800), (0x20, 0x1200)] partialsMem
theorem meets_combinePartials : (let x := cmd0 0x31 [(0x10, 0x1800), (0x20, 0x1200)]
    let u := combining
    let d := x.desc
    Runnable combining 0 0x31 x q0 ∧
      isOk (needDesc d 0x3033 ((0x33, dField d 0x33 1 != 0 && dField d 0x33 1 != 8) :: fuseFields d)) = true ∧
      (match combineList u q0 [] 0x1800 with
        | .ok addrs => (match readOperands u q0 [] (combineRecords d addrs) with
          | .ok os => isOk (check1 os) && isOk (combineShape os 2) && isOk (slotStreams u q0 os 2 [])
          | .error _ => false)
        | .error _ => false) = true ∧ isOk (combineSources false [(1, [5]), (1, [6])] 1).2 = true) := by
  simp only [Runnable, CommandAt]; decide +kernel
theorem test_combinePartials : (let o := exec (.combinePartials 0 []) combining;
    ((after o).readNat (.virt .A 1) 0x5200 4, recordOf o)) = (22, (0, 0x31, 0, 1)) := by decide +kernel
/-- The two largest of (3, -1, 3). -/
def topMem : List (Nat × Nat × Nat) := tens 0x1000 0x5000 0 2 3 1 0 ++ tens 0x1100 0x5100 0 0x0A 2 1 0 ++ [(0x5000, 3, 0x03FF03)]
def topFields : List (Nat × Nat) := [(0x10, 0x1000), (0x18, 0x1100), (0x30, 2)]
theorem meets_topK : (let x := cmd0 0x32 topFields
    let s := live 0x32 topFields topMem
    let u := s
    let d := x.desc
    Runnable s 0 0x32 x q0 ∧
      isOk (needDesc d 0x3033 [(0x30, dField d 0x30 1 == 0 || 16 < dField d 0x30 1), (0x31, 1 < dField d 0x31 1)]) = true ∧
      (match readOperands u q0 [] [(0, 0x1000, true, false), (1, 0x1100, false, true)] with
        | .ok [src, i] => isOk (check1 [src, i]) && isOk (topKShape d [src, i]) && isOk (check2 [] [src, i]) &&
            isOk (check3 [src, i]) && isOk (overlapWith u q0 i.t [src]) && isOk (loadOperands u q0 [src])
        | _ => false) = true) := by simp only [Runnable, CommandAt]; decide +kernel
theorem test_topK : (let t := after (exec (.topK 0 []) (live 0x32 topFields topMem)); t.readNat (.virt .A 1) 0x5100 8) = 2 * 2 ^ 32 := by
  decide +kernel
theorem meets_ranks : ∀ v ∈ [Val.real 3, .real (-1), .real 3], isNan v = false := by decide +kernel
/-- A group sequence in two group sizes, and the sum of its pieces. -/
theorem meets_sums : addGroups 0 1 5 0 [1, 2, 3, 4] = some 10 ∧ addGroups 0 3 5 0 [1, 2, 3, 4] = some 10 ∧
    [(1, [(1 : Rat), 2]), (3, [3, 4])].map (fun p => addGroups 0 p.1 (p.2.length + 1) 0 p.2) = [3, 7].map some ∧
    outside64 10 = false ∧ (combine false 0 [(3, 0), (7, 0)] 3 0 0).2.toOption = some (10, 0) := by decide +kernel
/-- The multiply on an engine whose louvre leaves one of 16 opportunities, which is taken. -/
def louvred : State := mulStarted.modEng 0 fun g => { g with louvre := 1, issues := [false, true] }
theorem meets_opportunity : (louvred.eng 0).louvre ≤ ((louvred.eng 0).issues.filter id).length ∧
    ((mulStarted.eng 0).issues.filter id).length < (mulStarted.eng 0).louvre := by decide +kernel
theorem test_opportunity : (let t := after (exec (.groupSequence 0 0 0 2 0 2 []) louvred)
    ((t.eng 0).issues, (tblFind t.jobs 0).map (·.partials.length))) = ([false, false, true], some 0) := by decide +kernel
/-- A write-out that waits for its port goes on when the port may send. -/
def heldWrite : State :=
  let s := keeping (live 0x22 [(0x20, 0x1200)] factors)
  after (exec (.writeOut 0 []) { s with
    portA := { s.portA with busMaster := false }, cmds := [(0, { cmd0 0x22 [(0x20, 0x1200)] with kept := [(0x1200, peekVa s .A 1 0x1200 96)] })] })
def heldPlan : State := { heldWrite with portA := { heldWrite.portA with busMaster := true } }
theorem meets_heldWrite : (match heldPlan.cmd? 0, tblFind heldPlan.jobs 0, tblFind heldPlan.arrays (arrayKey 0 0) with
    | some x, some j, some _ => x.stage == .committing && dOpcode x.desc == 0x22 && mayRun heldPlan 0 x q0 && (match j.plan with
      | some y => sendable heldPlan q0 y
      | none => false)
    | _, _, _ => false) = true := by decide +kernel
theorem test_heldWrite : (let t := after (exec (.writeOut 0 []) heldPlan)
    (t.readNat (.virt .A 1) 0x5200 8, t.arrays.length)) = (7 + 0xFFFFFFF8 * 2 ^ 32, 0) := by decide +kernel

/-! ### The vector family -/

/-- Four tensors of two values: int8 (3, -1) at 0x5000, int32 at 0x5200, FP32 (1.0, 1.0) at 0x5300 and 0x5400. -/
def fpTens (a base : Nat) : List (Nat × Nat × Nat) :=
  tens a base 0 7 2 1 0 ++ [(a + 0x1E, 1, 1), (base, 4, 0x3F800000), (base + 4, 4, 0x3F800000)]
def vectors : List (Nat × Nat × Nat) :=
  tens 0x1000 0x5000 0 2 2 1 0 ++ tens 0x1200 0x5200 0 0x0A 2 1 0 ++ [(0x5000, 2, 0xFF03)]
/-- a * b into int32; and max(a, 0). -/
def mulOp : List (Nat × Nat) := [(0x10, 0x1000), (0x18, 0x1000), (0x20, 0x1200), (0x2C, 2)]
def reluOp : List (Nat × Nat) := [(0x10, 0x1000), (0x20, 0x1200), (0x2C, 7)]
/-- Do an element-wise command's checks pass and does its result fit? -/
def elementFits (s : State) (x : Cmd) (binary : Bool) : Bool :=
  let d := x.desc
  let recs := if binary then [(0, dField d 0x10 8, true, false), (1, dField d 0x18 8, true, false), (2, dField d 0x20 8, false, true)]
    else [(0, dField d 0x10 8, true, false), (1, dField d 0x20 8, false, true)]
  match vectorOperands s x q0 recs (elementDims binary) (destApart s q0) with
  | .error _ => false
  | .ok (os, ls) => match os.find? (·.writes), valuesOf s q0 ls 0 with
    | some w, .ok va => isOk (writeTensor { s with draws := s.draws + 1 } q0 w.t va)
    | _, _ => false
theorem meets_elementWise : (let s := live 0x40 mulOp vectors
    Runnable s 0 0x40 (cmd0 0x40 mulOp) q0 ∧ isOk (needDesc (cmd0 0x40 mulOp).desc 0x303A []) = true ∧
      elementFits s (cmd0 0x40 mulOp) true = true) ∧
    (let s := live 0x40 reluOp vectors
     Runnable s 0 0x40 (cmd0 0x40 reluOp) q0 ∧ elementFits s (cmd0 0x40 reluOp) false = true) := by
  simp only [Runnable, CommandAt]; decide +kernel
theorem test_elementWise : (after (exec (.elementWise 0 []) (live 0x40 mulOp vectors))).readNat (.virt .A 1) 0x5200 8 = 9 + 2 ^ 32 ∧
    (after (exec (.elementWise 0 []) (live 0x40 reluOp vectors))).readNat (.virt .A 1) 0x5200 8 = 3 := by decide +kernel
/-- A normalise and a softmax of FP32 rows, and an optimiser step on four of them. -/
def normFields : List (Nat × Nat) := [(0x10, 0x1000), (0x18, 0x1100), (0x34, 0x3F800000)]
def rowsMem : List (Nat × Nat × Nat) := fpTens 0x1000 0x5000 ++ fpTens 0x1100 0x5100
def rowCmd (op : Nat) : State := live op (if op == 0x41 then normFields else normFields.take 2) rowsMem
theorem meets_normalise : (let d := (cmd0 0x41 normFields).desc
    let u := (rowCmd 0x41)
    Runnable (rowCmd 0x41) 0 0x41 (cmd0 0x41 normFields) q0 ∧ isOk (needDesc d 0x303A []) = true ∧
      positiveFinite (dField d 0x34 4) = true ∧ (match vectorOperands u (cmd0 0x41 normFields) q0 [(0, 0x1000, true, false), (1, 0x1100, false, true)]
          normaliseDims (destApart u q0) with
        | .ok (_, ls) => (match valuesOf u q0 ls 0, valuesOf u q0 ls 9 with
          | .ok [r], .ok [] => (match finiteRow 0 0 0 r with
            | .ok xs => xs == [1, 1]
            | .error _ => false)
          | _, _ => false)
        | .error _ => false) = true) ∧
    Runnable (rowCmd 0x42) 0 0x42 (cmd0 0x42 (normFields.take 2)) q0 := by
  simp only [Runnable, CommandAt]; decide +kernel
/-- The mean of (1, 1) is 1 and the mean square of (1, 1) is 1: a normalised row of zeros, in both sum steps. -/
theorem test_normalise : (match normaliseRow 0 0 1 false (fun _ => false) [1, 1] [] [] with
      | .ok l => l.map (·.rat)
      | .error _ => []) = [some 0, some 0] := by decide +kernel
def optFields : List (Nat × Nat) := [(0x10, 0x1000), (0x18, 0x1100), (0x20, 0x1200), (0x28, 0x1300), (0x30, 0x1400)]
def optMem : List (Nat × Nat × Nat) :=
  rowsMem ++ fpTens 0x1200 0x5200 ++ fpTens 0x1300 0x5300 ++ [(0x1400, 4, 0x3F800000), (0x140C, 4, 0x3F800000)]
theorem meets_optimiser : (let d := (cmd0 0x43 optFields).desc
    let s := live 0x43 optFields optMem
    let u := s
    Runnable s 0 0x43 (cmd0 0x43 optFields) q0 ∧ isOk (needDesc d 0x303A []) = true ∧ isOk (readVa u .A 1 0x1400 32) = true ∧
      (optParams (peekVa u .A 1 0x1400 32)).map (·.momentum) = some false ∧
      isOk (vectorOperands u (cmd0 0x43 optFields) q0 [(0, 0x1000, true, true), (1, 0x1100, true, false), (2, 0x1200, true, true), (3, 0x1300, true, true)]
        equalDims (allApart u q0)) = true) := by simp only [Runnable, CommandAt]; decide +kernel
theorem meets_elementOps : (Val.real (7 / 2)).rat = some (7 / 2) ∧ (Val.real (-3)).rat = some (-3) := by decide +kernel
theorem test_elementOps : (elementOp 1 false (.real (7 / 2)) (.real (-3))).rat = some (13 / 2) ∧
    (elementOp 4 false (.real (7 / 2)) (.real (-3))).rat = some (-3) ∧ (elementOp 6 false (.real (7 / 2)) (.real 0)).rat = some (-7 / 2) := by
  decide +kernel

/-! ### Cascade and schedule commands -/

/-- A transmit entry of flow 1, origin 0 on pair 143, in every frame. -/
def entryOut : SchedEntry := { start := 544, len := 544, pair := 23, transmit := true, cadence := 0, phase := 0, flow := 1, origin := 0 }
/-- A cascade of one member, aligned, with that entry active. -/
def fabric (s : State) : State :=
  { s with opx := { role := 1, members := 1, timing := .aligned, hallId := 4, pairs := [(143, livePair)],
                    active := { version := 1, entries := [[], [], [], [], [], [entryOut]] } } }
/-- An all-reduce of the four int8 values into int32, a gather into int8, a send, a receive; started, and running. -/
def fabricFields (op : Nat) : List (Nat × Nat) :=
  if op == 0x90 then [(0x10, 0x1000), (0x18, 0x1200), (0x30, 1)] else if op == 0x91 then [(0x10, 0x1000), (0x18, 0x1100), (0x30, 1)]
  else if op == 0x93 then [(0x10, 0x1000), (0x30, 1)] else [(0x10, 0x1100), (0x30, 1)]
def fabricStart (op : Nat) : State := fabric (live op (fabricFields op) tensors)
/-- Running, with the records kept and a contribution of the four values there behind its header. -/
def fabricRunning (op : Nat) (recs : List Nat) : State :=
  let s := fabric (liveAt .running op (fabricFields op) tensors)
  keepRecords (s.setRx (streamKey 1 0)
      { bytes := tensorHeader (cmd0 op (fabricFields op)).desc (tensorAt s (recs.head?.getD 0x1000)) 4 ++ natLe 4 0x7F80FF03 }) 0
    (recs.map fun a => { num := 0, t := tensorAt s a, reads := true, writes := false })
def fabricCmd (op : Nat) : Cmd := cmd0 op (fabricFields op)
theorem meets_allReduce : (let u := (fabricStart 0x90)
    let x := fabricCmd 0x90
    Runnable (fabricStart 0x90) 0 0x90 x q0 ∧ isOk (flowFirst u x [(0x34, false)]) = true ∧ isOk (needFlow u 0 x) = true ∧
      (match readOperands (claimAtStart u 0 x) q0 [] [(0, 0x1000, true, false), (1, 0x1200, false, true)] with
        | .ok [a, b] => isOk (check1 [a, b]) && sameDims a.t b.t && isOk (check2 [] [a, b]) && isOk (check3 [a, b]) &&
            isOk (overlapWith u q0 b.t [a]) && (match loadOperands u q0 [a] with
              | .ok [l] => isOk (wireRows u q0 l)
              | _ => false)
        | _ => false) = true) := by simp only [Runnable, CommandAt]; decide +kernel
theorem meets_allReduceEnd : (let s := fabricRunning 0x90 [0x1000, 0x1200]
    let u := s
    let ta := tensorAt u 0x1000
    CommandAt s 0 0x90 [.running] { fabricCmd 0x90 with stage := .running } q0 ∧ (keptTensors u 0).length = 2 ∧
      disagrees u 1 (headerFits (fabricCmd 0x90).desc ta) (otherMembers u) = none ∧
      (match takeAll 1 ta u (allMembers u) with
        | some (xs, s1) => (match reduceAll false 0 xs ta.elems with
          | (n, .ok k) => k == [(3, 0), (-1, 0), (-128, 0), (127, 0)] && n == 0 && (xs.filterMap (crossingSlip 0)).isEmpty && isOk (writeDest s1 q0 0
              [{ num := 1, t := tensorAt u 0x1200, reads := false, writes := true }] 1 0 false k)
          | _ => false)
        | none => false) = true) := by simp only [CommandAt]; decide +kernel
/-- A second member whose header is zeros. -/
def disagreeing : State :=
  let s := fabricRunning 0x90 [0x1000, 0x1200]
  { s with opx := { s.opx with members := 2 } }.setRx (streamKey 1 1) { bytes := zeros 64 }
theorem meets_disagreement : CommandAt disagreeing 0 0x90 [.running] { fabricCmd 0x90 with stage := .running } q0 ∧
    disagrees disagreeing 1 (headerFits (fabricCmd 0x90).desc (tensorAt disagreeing 0x1000)) [1] = some 1 := by
  simp only [CommandAt]; decide +kernel
theorem test_disagreement : recordOf (exec (.allReduce 0 []) disagreeing) = (0x1904, 0x90, 1, 0) := by decide +kernel
theorem meets_gather : (let u := (fabricStart 0x91)
    let x := fabricCmd 0x91
    Runnable (fabricStart 0x91) 0 0x91 x q0 ∧ isOk (flowFirst u x []) = true ∧ (match tensorPair (claimAtStart u 0 x) x q0 (gatherRefused u) with
      | .ok (a, b) => isOk (overlapWith u q0 b.t [a])
      | .error _ => false) = true) ∧
    (let s := fabricRunning 0x91 [0x1000, 0x1100]
     CommandAt s 0 0x91 [.running] { fabricCmd 0x91 with stage := .running } q0 ∧ (match takeAll 1 (tensorAt s 0x1000) s [0] with
      | some (xs, s1) => isOk (writeParts s1 q0 (tensorAt s 0x1100) xs)
      | none => false) = true) := by simp only [Runnable, CommandAt]; decide +kernel
theorem meets_sendReceive : (let u := (fabricStart 0x93)
    let x := fabricCmd 0x93
    Runnable (fabricStart 0x93) 0 0x93 x q0 ∧ isOk (flowFirst u x []) = true ∧ isOk (needFlow u 0 x) = true) ∧
    (let s := fabricRunning 0x93 []
     CommandAt s 0 0x93 [.running] { fabricCmd 0x93 with stage := .running } q0 ∧ ownSent s 1 = true) ∧
    (let x := fabricCmd 0x94
     Runnable (fabricStart 0x94) 0 0x94 x q0 ∧
       isOk (flowFirst (fabricStart 0x94) x [(0x32, originBad (fabricStart 0x94) 0)]) = true) ∧
    (let s := fabricRunning 0x94 [0x1100]
     CommandAt s 0 0x94 [.running] { fabricCmd 0x94 with stage := .running } q0 ∧
       (takeContribution s 1 0 0 (tensorAt s 0x1100)).isSome = true) := by simp only [Runnable, CommandAt]; decide +kernel
theorem test_gather : (after (exec (.allGather 0 []) (fabricRunning 0x91 [0x1000, 0x1100]))).readNat (.virt .A 1) 0x5100 4 = 0x7F80FF03 := by decide +kernel
theorem test_allReduce : (after (exec (.allReduce 0 []) (fabricRunning 0x90 [0x1000, 0x1200]))).readNat (.virt .A 1) 0x5200 8 =
    3 + 0xFFFFFFFF * 2 ^ 32 ∧ recordOf (exec (.send 0 []) (fabricRunning 0x93 [])) = (0, 0x93, 0, 0) := by decide +kernel
/-- A schedule image of version 3 with no entry. -/
def loadFields : List (Nat × Nat) := [(0x10, 0x5000), (0x18, 32)]
def armFields : List (Nat × Nat) := [(0x10, 3), (0x18, 16)]
def arming : State :=
  let s := live 0x96 armFields []
  { s with opx := { s.opx with pendingBank := { version := 3 }, timing := .aligned } }
def loading : State :=
  let s := live 0x95 loadFields [(0x5000, 4, 3)]
  { s with opx := { s.opx with timing := .aligned } }
/-- The lead of two members, member 1 named. -/
def leading (s : State) : State := { s with opx := { s.opx with role := 1, members := 2, loaded := [(1, 3)] } }
theorem meets_schedule : (let s := loading
    let u := s
    let d := (cmd0 0x95 loadFields).desc
    Runnable s 0 0x95 (cmd0 0x95 loadFields) q0 ∧ isOk (needDesc d 0x1901 [(0x18, false), (0x1C, targetBad u 0)]) = true ∧ timed u = true ∧
      dField d 0x1C 1 = u.opx.member ∧ isOk (readVa u .A 1 0x5000 32) = true ∧ imageBad u (peekVa u .A 1 0x5000 32) = none ∧
      isOk (needFields 0x1901 (imageFields (peekVa u .A 1 0x5000 32))) = true ∧ u.opx.armed = false) ∧
    (let u := arming
     let d := (cmd0 0x96 armFields).desc
     Runnable arming 0 0x96 (cmd0 0x96 armFields) q0 ∧ isOk (needDesc d 0x1901 []) = true ∧ u.opx.role = 0 ∧
       timed u = true ∧ bankBad u u.opx.pendingBank (fun _ _ => false) = none ∧ u.opx.frame + 16 ≤ dField d 0x18 8 ∧
       allLoaded u (dField d 0x10 4) = true) ∧
    targetBad (leading loading) 1 = false ∧ allLoaded (leading arming) 3 = true ∧ (leading arming).opx.role = 1 := by simp only [Runnable, CommandAt]; decide +kernel
theorem test_schedule : (after (exec (.scheduleLoad 0) loading)).opx.pendingBank.version = 3 ∧
    (let t := after (exec (.scheduleArm 0) arming); (t.opx.armed, t.opx.transom)) = (true, 16) := by decide +kernel
theorem meets_timed : isOk (timingReady arming) = true ∧ isOk (timingReady loading) = true ∧
    isOk (timingReady { arming with opx := { arming.opx with stopped := true } }) = false := by decide +kernel

/-! ### Problems -/

/-- Three variables in blocks of two: couplings (0, 1, 1.0) and (1, 2, -2.0), linear terms (0.5, 0, 0); header at 0x5000. -/
def problemMem : List (Nat × Nat × Nat) :=
  [(0x5000, 4, 3), (0x5008, 2, 2), (0x5010, 8, 2), (0x5018, 8, 0x6000), (0x5020, 8, 0x6100), (0x6000, 4, 0), (0x6004, 4, 1),
   (0x6008, 4, 0x3F800000), (0x600C, 4, 1), (0x6010, 4, 2), (0x6014, 4, 0xC0000000), (0x6100, 4, 0x3F000000)]
def loadState : State := live 0x50 [(0x10, 0x5000)] problemMem
def loadSource : Try Source84 := readSource loadState q0 (cmd0 0x50 [(0x10, 0x5000)]).desc none
theorem meets_load : (let d := (cmd0 0x50 [(0x10, 0x5000)]).desc
    let u := loadState
    Runnable loadState 0 0x50 (cmd0 0x50 [(0x10, 0x5000)]) q0 ∧
      newIndex 65536 (fun i => (tblFind u.spin.problems i).isSome) u.spin.gens = some (0, 1) ∧ (match loadSource with
        | .ok src => (match buildProblem u q0 d src with
          | .ok p => decide (p.storedBytes ≤ u.areaFree) && isOk (writeReport u q0 src p) && p.blocks.length == 2 && p.eps == -13
          | .error _ => false)
        | .error _ => false) = true) := by simp only [Runnable, CommandAt]; decide +kernel
theorem test_load : recordOf (exec (.load 0) loadState) = (0, 0x50, 0, mkHandle 2 1 0 + 2 * 2 ^ 64 + 0xF3 * 2 ^ 96) ∧
    (recordOf (exec (.load 0) (live 0x50 [(0x10, 0x5000)] (problemMem ++ [(0x600C, 4, 2)])))).1 = 0x6C02 := by decide +kernel
/-- The problem as it is stored, by hand: unit 2^-13. -/
def block0 : Block :=
  { vars := [0, 1], eb := some (-6), intra := [{ i := 0, j := 1, code := 64, value := 8192 }], inter := [{ i := 1, j := 2, code := -16384, value := -16384 }],
    groups := [], neighbours := [1], interCount := 1, intraEscapes := 0, interEscapes := 0, intraVanished := 0, interVanished := 0 }
def block1 : Block :=
  { vars := [2], eb := none, intra := [], inter := [{ i := 0, j := 1, code := -16384, value := -16384 }], groups := [], neighbours := [0],
    interCount := 1, intraEscapes := 0, interEscapes := 0, intraVanished := 0, interVanished := 0 }
def problem0 : Problem :=
  { gen := 1, port := .A, pasid := 1, n := 3, spin := false, int4 := false, mapped := false, blockVars := 2, blockOf := [0, 0, 1],
    blocks := [block0, block1], ex := some (-13), eps := -13, h := [4096, 0, 0], constant := 0, init := [false, false, false],
    placement := 0, vanishedCouplings := 0, escapedCouplings := 0, vanishedLinear := 0, storedBytes := 8192 }
theorem test_stored : (after (exec (.load 0) loadState)).spin.problems = [(0, problem0)] ∧ block0.entryAt 1 0 = 64 ∧
    block0.rowAt 1 = [(2, -16384)] := by decide +kernel
/-- A command of the problem family on it. -/
def problemH : Nat := mkHandle 2 1 0
def withProblem (s : State) : State := { s with spin := { problems := [(0, problem0)], gens := [(0, 1)] } }
def problemCmd (op : Nat) (fs m : List (Nat × Nat)) (l : List (Nat × Nat × Nat)) : State :=
  withProblem (live op ((0x20, problemH) :: fs ++ m) l)
theorem meets_problem : (match needIdle (problemCmd 0x53 [(0x2C, 3), (0x10, 0x7000), (0x18, 0x7100)] []
      [(0x7000, 4, 0x3F800000), (0x7100, 1, 6)]) q0.port problemH false with
      | .ok e => e == (0, problem0)
      | .error _ => false) = true ∧ isOk (needProblem (withProblem bare) .A problemH false) = true ∧
    (let x := cmd0 0x53 [(0x20, problemH), (0x2C, 3), (0x10, 0x7000), (0x18, 0x7100)]
     let s := problemCmd 0x53 [(0x2C, 3), (0x10, 0x7000), (0x18, 0x7100)] [] [(0x7000, 4, 0x3F800000), (0x7100, 1, 6)]
     let u := s
     Runnable s 0 0x53 x q0 ∧ isOk (needDesc x.desc 0x6C01 [(0x2C, decide (8 ≤ dField x.desc 0x2C 1))]) = true ∧
       (match updateLinear u q0 x.desc problem0 with
         | .ok (h, _) => h == [8192, 0, 0] && isOk (checkRange problem0.blockOf problem0.blocks h)
         | .error _ => false) = true ∧ (match readState u q0 0x7100 3 problem0.groupsOf with
         | .ok b => b == [false, true, true] && isOk (checkState problem0.groupsOf b)
         | .error _ => false) = true) := by simp only [Runnable, CommandAt]; decide +kernel
theorem test_update : ((after (exec (.update 0) (problemCmd 0x53 [(0x2C, 3), (0x10, 0x7000), (0x18, 0x7100)] []
      [(0x7000, 4, 0x3F800000), (0x7100, 1, 6)]))).spin.problems.map fun e => (e.2.h, e.2.init)) =
      [([8192, 0, 0], [false, true, true])] ∧
    (after (exec (.free 0) (problemCmd 0x54 [] [] []))).spin.problems.length = 0 := by decide +kernel
theorem meets_problemRest : (let x := cmd0 0x54 [(0x20, problemH)]
     Runnable (problemCmd 0x54 [] [] []) 0 0x54 x q0 ∧ isOk (needDesc x.desc 0x6C01 []) = true) ∧
    (let x := cmd0 0x55 [(0x20, problemH), (0x10, 0x7100), (0x18, 0x8000)]
     let s := problemCmd 0x55 [(0x10, 0x7100), (0x18, 0x8000)] [] [(0x7100, 1, 3)]
     Runnable s 0 0x55 x q0 ∧ isOk (writeVa s .A 1 0x8000 (energyRecord 0 problem0 [true, true, false])) = true) ∧
    (let x := cmd0 0x61 [(0x20, problemH), (0x10, 0x7000)]
     let s := problemCmd 0x61 [(0x10, 0x7000)] [] [(0x7000, 4, 1), (0x7004, 4, 0x3F800000)]
     Runnable s 0 0x61 x q0 ∧ (match readArray s q0 0x7004 4 1 with
       | .ok l => (List.range 1).all fun k => !badMultiplier l k
       | .error _ => false) = true) ∧
    (let x := cmd0 0x52 [(0x20, problemH), (0x18, 1), (0x1C, 1)]
     Runnable (problemCmd 0x52 [(0x18, 1), (0x1C, 1)] [] []) 0 0x52 x q0 ∧ isOk (needFields 0x6C20 (termFields x.desc 2)) = true) := by
  simp only [Runnable, CommandAt]; decide +kernel
theorem test_energy : (let t := after (exec (.energy 0) (problemCmd 0x55 [(0x10, 0x7100), (0x18, 0x8000)] [] [(0x7100, 1, 3)]));
    (t.readNat (.virt .A 1) 0x8000 8, t.readNat (.virt .A 1) 0x8010 1)) = (8192 + 4096, 0xF3) := by decide +kernel
theorem test_ladder : ((after (exec (.ladderSet 0) (problemCmd 0x61 [(0x10, 0x7000)] [] [(0x7000, 4, 1), (0x7004, 4, 0x3F800000)]))).spin.problems.map
    (·.2.ladder)) = [some [0x3F800000]] := by decide +kernel
theorem test_rescale : ((after (exec (.rescale 0) (problemCmd 0x51 [(0x10, 0x5000)] [] (problemMem ++ [(0x6100, 4, 0x40000000)])))).spin.problems.map
    fun e => (e.2.gen, e.2.h)) = [(1, [16384, 0, 0])] := by decide +kernel
theorem test_term : recordOf (exec (.registerNeuralTerm 0) (problemCmd 0x52 [(0x18, 1), (0x1C, 1)] [] [])) = (0, 0x52, 0, 0) ∧
    recordOf (exec (.registerNeuralTerm 0) (problemCmd 0x52 [(0x18, 2), (0x1C, 1)] [] [])) = (0x6C20, 0x52, 0x18, 0) := by
  decide +kernel
/-- A term for block 0: width 1, automatic activation exponents, one weight of 1.0, every other value 0. -/
def netFieldsOf : List (Nat × Nat) := [(0x10, 0x9000), (0x18, 0), (0x1C, 1)]
def netMem : List (Nat × Nat × Nat) :=
  [(0x9000, 4, 2), (0x9004, 2, 1), (0x9006, 2, 0x7F7F), (0x9008, 8, 0x9100), (0x9010, 8, 0x9200), (0x9018, 8, 0x9300),
   (0x9020, 8, 0x9400), (0x9028, 8, 0x9500), (0x9100, 4, 0x3F800000)]
def netState : State := problemCmd 0x52 netFieldsOf [] netMem
theorem meets_net : (let x := cmd0 0x52 ((0x20, problemH) :: netFieldsOf)
    let u := netState
    Runnable netState 0 0x52 x q0 ∧ isOk (needFields 0x6C20 (termFields x.desc 2)) = true ∧ (match readVa u .A 1 0x9000 64 with
      | .ok r => isOk (needFields 0x6C20 (netFields r)) && fieldOf r 0 4 == 2 && (match readLayers u q0 r with
        | .ok ls =>
          let t := quantNet false r ls
          isOk (checkLayers 1 ls) && isOk (checkBiases 1 [t.b1, t.b2, [t.b3]]) && (match bindNet t (-13) with
            | some t => decide (t.bytes ≤ u.areaFree)
            | none => false)
        | .error _ => false)
      | .error _ => false) = true) := by simp only [Runnable, CommandAt]; decide +kernel
/-- E_1 = -6, E_A1 = E_A2 = -7, the output shift -7 + 13 (R145-R148). -/
theorem test_net : recordOf (exec (.registerNeuralTerm 0) netState) = (0, 0x52, 0, 0x06F9F90000FA) := by decide +kernel
/-- A block run of block 0: variable 0 set, its neighbour set. -/
def run0 : BlockRun := { engine := 0, bits := [true, false], x := [0, -16384] }
theorem meets_energy : run0.bits.length = (problem0.block 0).vars.length ∧ run0.x.length = 2 ∧
    (∀ c ∈ (problem0.block 0).intra, c.i ≠ c.j ∧ c.i < 2 ∧ c.j < 2) ∧ run0.neural = blockNeural problem0 0 run0.bits := by
  decide +kernel
/-- By R73: flip of variable 1 on: F_1 = h_1 + X_1 + J_01 = 0 - 16384 + 8192; pair move 0 off, 1 on: F_1 - F_0 - J. -/
theorem test_moves : moveEnergy problem0 block0 run0.bits run0.x [1] = -8192 ∧
    moveEnergy problem0 block0 run0.bits run0.x [0, 1] = -8192 - 4096 - 8192 := by decide +kernel
/-! ### Launches -/

/-- One step of one sweep at 1.0, one replica, one sweep an epoch, its area at 0x8000, seed 5. -/
def launchMem : List (Nat × Nat × Nat) :=
  [(0x7000, 8, 0x7100), (0x7008, 8, 0x8000), (0x7010, 8, 0x1000), (0x7020, 4, 1), (0x702C, 1, 1), (0x702F, 1, 1), (0x7100, 1, 1),
   (0x7102, 2, 1), (0x7104, 4, 1), (0x7108, 4, 0x3F800000)]
def launching : State := problemCmd 0x60 [(0x10, 0x7000), (0x18, 5)] [] launchMem
def launchCmd : Cmd := cmd0 0x60 [(0x20, problemH), (0x10, 0x7000), (0x18, 5)]
def noLaunch : Launch :=
  { queue := 0, problem := 0, resultAddr := 0, schedule := [], epochSweeps := 0, exchangeEpochs := 0, traceEpochs := 0,
    replicas := 0, concurrent := false, heatBath := false, headFlags := 0, start := 0, stop := 0, engines := [], multipliers := [] }
/-- The launch of command 0. -/
def launchOf (s : State) : Launch := (tblFind s.spin.launches 0).getD noLaunch
/-- A run's block. -/
def runOf (s : State) (b : Nat) : BlockRun := ((launchOf s).run? problem0 0 b).getD run0
theorem meets_launch : Runnable launching 0 0x60 launchCmd q0 ∧ (match acceptLaunch launching launchCmd q0 none 0 with
    | .ok (l, p, y) => p == problem0 && l.seed == some 5#64 && l.totalEpochs == 1 && !y.waits && !y.streamed
    | .error _ => false) = true := by simp only [Runnable, CommandAt]; decide +kernel
/-- Running, as accepted: then each block's only batch, epoch end and neighbour's values, and the reduction. -/
def running0 : State := after (exec (.annealLaunch 0) launching)
def runningCmd : Cmd := (running0.cmd? 0).getD launchCmd
theorem meets_batch : LaunchAt running0 0 (launchOf running0) problem0 runningCmd q0 ∧
    (let l := launchOf running0
     let run := runOf running0 0
     l.run? problem0 0 0 = some run ∧ l.seed = some 5#64 ∧ batchMay running0 q0 l 0 run = true ∧
       batchTurn running0 run.engine = true) := by simp only [LaunchAt]; decide +kernel
def swept0 : State := after (exec (.annealBatch 0 0 1) (after (exec (.annealBatch 0 0 0) running0)))
def ended0 : State := after (exec (.epochEnd 0 0 1) (after (exec (.epochEnd 0 0 0) swept0)))
def shared0 : State := after (exec (.boundaryValuesReceived 0 0 0 1) ended0)
def contributed0 : State := after (exec (.boundaryValuesReceived 0 0 1 0) shared0)
def reduced0 : State := after (exec (.energyReduction 0 0) contributed0)
theorem meets_epochEnd : LaunchAt swept0 0 (launchOf swept0) problem0 runningCmd q0 ∧ (launchOf swept0).partition = none ∧
    (let run := runOf swept0 0
     (launchOf swept0).run? problem0 0 0 = some run ∧ run.phase = .sweeping ∧ run.sweep = 1 ∧ run.sweep = (launchOf swept0).epochEnd run.epoch) := by
  simp only [LaunchAt]; decide +kernel
theorem meets_values : LaunchAt ended0 0 (launchOf ended0) problem0 runningCmd q0 ∧
    (let run := runOf ended0 0
     (launchOf ended0).run? problem0 0 0 = some run ∧ (problem0.block 0).neighbours.contains 1 = true ∧
       inboundOf run 1 (nextInbound run 1) = none ∧ (tblFind (runOf ended0 1).snapshots (nextInbound run 1)).isSome = true) := by
  simp only [LaunchAt]; decide +kernel
theorem meets_reduction : LaunchAt contributed0 0 (launchOf contributed0) problem0 runningCmd q0 ∧
    (let l := launchOf contributed0
     reducible l 0 = true ∧ (ownSums l problem0 0 0).isSome = true ∧ exchangePartner l 0 0 = none ∧
       (runOf contributed0 0).phase = .contributed) := by simp only [LaunchAt]; decide +kernel
theorem meets_complete : LaunchAt reduced0 0 (launchOf reduced0) problem0 runningCmd q0 ∧
    (let l := launchOf reduced0
     l.partition = none ∧ l.seed ≠ none ∧ l.stop ≤ l.epochsDone ∧ isOk (writeVa { reduced0 with draws := reduced0.draws + 1 } .A 1
       l.resultAddr (resultArea reduced0.draws l problem0 (l.stop == l.totalEpochs))) = true) ∧
    LaunchAt running0 0 (launchOf running0) problem0 runningCmd q0 ∧ (launchOf running0).epochsDone < (launchOf running0).stop := by
  simp only [LaunchAt]; decide +kernel
/-- The record's result: the seed, and one epoch done; the area's energies are those of its final state (R105, R111). -/
theorem test_launch : recordOf (exec (.launchComplete 0) reduced0) = (0, 0x60, 0, 5 + 2 ^ 64) ∧
    (let t := after (exec (.launchComplete 0) reduced0)
     (t.readNat (.virt .A 1) 0x8020 8, toSigned 64 (t.readNat (.virt .A 1) 0x8098 8))) =
      (1, (energyOf problem0 ((launchOf reduced0).rep 0).finalBits).1) := by decide +kernel
/-- The launch with parts replaced. -/
def withLaunch0 (s : State) (f : Launch → Launch) : State := s.setLaunch 0 (f (launchOf s))
def toStart : State := withLaunch0 contributed0 fun l => { l with stop := 2, schedule := [(0x3F800000, 2)] }
theorem meets_epochStart : LaunchAt toStart 0 (launchOf toStart) problem0 runningCmd q0 ∧
    (let l := launchOf toStart
     let run := runOf toStart 0
     l.run? problem0 0 0 = some run ∧ l.partition = none ∧ run.phase = .contributed ∧ run.epoch + 1 < l.stop ∧
       run.lateHeld = false ∧ exchangePassed l 0 run.epoch = true ∧ engineEnded l run = true ∧
       engineTaken toStart q0 run.engine = false) := by simp only [LaunchAt]; decide +kernel
theorem meets_wait : LaunchAt ended0 0 (launchOf ended0) problem0 runningCmd q0 ∧
    (let t := withLaunch0 ended0 fun l => { l with stop := 2 }
     LaunchAt t 0 (launchOf t) problem0 runningCmd q0 ∧ (launchOf t).partition = none ∧
       (runOf t 0).phase = .ended ∧ (runOf t 0).waited = false ∧ (runOf t 0).epoch + 1 < (launchOf t).stop) := by
  simp only [LaunchAt]; decide +kernel
def toPage : State := withLaunch0 running0 fun l =>
  { l with streamed := true, runs := l.runs.map fun y => (y.1, { y.2 with pagedIn := false }) }
theorem meets_pageIn : LaunchAt toPage 0 (launchOf toPage) problem0 runningCmd q0 ∧ (launchOf toPage).streamed = true ∧
    (launchOf toPage).run? problem0 0 1 = some (runOf toPage 1) ∧ (runOf toPage 1).pagedIn = false ∧
    pairRank (launchOf toPage) 1 (runOf toPage 1) = 1 := by simp only [LaunchAt]; decide +kernel
/-- Two steps of one sweep; the table of the second being rebuilt, then the block held for it. -/
def toRebuild (late : Bool) : State := withLaunch0 (if late then swept0 else running0) fun l =>
  { l with schedule := [(0x3F800000, 1), (0x3F000000, 1)], runs := l.runs.map fun y => (y.1, { y.2 with lateHeld := late }) }
theorem meets_rebuild : ∀ late : Bool, LaunchAt (toRebuild late) 0 (launchOf (toRebuild late)) problem0 runningCmd q0 ∧
    (let l := launchOf (toRebuild late)
     let run := runOf (toRebuild late) 0
     l.run? problem0 0 0 = some run ∧ run.backgroundDone = false ∧ run.foreground + 1 < l.schedule.length ∧ run.lateHeld = late ∧
       (late = true → run.sweep < l.totalSweeps ∧ stepOf l.schedule run.sweep ≠ run.foreground)) := by
  simp only [LaunchAt]; decide +kernel
def savedRebuild : State := (toRebuild false).modEng 0 fun g => { g with context := some { slots := [], command := none } }
theorem meets_savedRebuild : LaunchAt savedRebuild 0 (launchOf savedRebuild) problem0 runningCmd q0 ∧
    engineSaved savedRebuild q0 (runOf savedRebuild 0).engine = true ∧ (runOf savedRebuild 0).backgroundDone = false := by
  simp only [LaunchAt]; decide +kernel
def toSeed : State := withLaunch0 running0 fun l => { l with seed := none, seedSent := some 7#64 }
def toPlace : State := withLaunch0 running0 fun l => { l with waitingEngine := true }
theorem meets_seed : LaunchAt toSeed 0 (launchOf toSeed) problem0 runningCmd q0 ∧ (launchOf toSeed).seed = none ∧
    (launchOf toSeed).seedSent = some 7#64 ∧ (launchOf toSeed).partition = none ∧
    LaunchAt toPlace 0 (launchOf toPlace) problem0 runningCmd q0 ∧ (launchOf toPlace).waitingEngine = true ∧
    (let l := launchOf toPlace
     match placeLaunch toPlace l.queue (realTime q0) l.engines { problem0 with placement := 2 } l.keys with
     | .ok y => !y.waits
     | .error _ => false) = true := by simp only [LaunchAt]; decide +kernel
def readCmd : Cmd := cmd0 0x62 [(0x20, problemH), (0x10, 0x8000), (0x18, 0xA000), (0x28, 0x1000)]
def readState0 (kept : List (Nat × List Byte)) : State := { running0 with cmds := [(0, { readCmd with kept := kept })] }
theorem meets_resultRead : Runnable (readState0 []) 0 0x62 readCmd q0 ∧
    ((readState0 []).spin.launches.find? fun e => e.2.problem == 0 && e.2.resultAddr == 0x8000).isSome = true ∧
      (launchOf (readState0 [])).areaSize problem0 ≤ 0x1000 ∧
      (let area := resultArea (readState0 []).draws (launchOf (readState0 [])) problem0 false
       let u := (readState0 [])
       isOk (writeVa ({ u with draws := u.draws + 1 }.modCmd 0 fun y => { y with kept := [(0, area)] }) .A 1 0xA000 area) = true) ∧
    Runnable (readState0 [(0, [7, 8])]) 0 0x62 { readCmd with kept := [(0, [7, 8])] } q0 ∧
      isOk (writeVa (readState0 [(0, [7, 8])]) .A 1 0xA000 [7, 8]) = true := by simp only [Runnable, CommandAt]; decide +kernel
/-- A read that waited for a page writes the snapshot it kept (R138). -/
theorem test_snapshot : (after (exec (.resultRead 0) (readState0 [(0, [7, 8])]))).readNat (.virt .A 1) 0xA000 2 = 0x807 := by decide +kernel
/-- The launch on an engine whose louvre leaves one opportunity, which is taken. -/
def louvred0 : State := running0.modEng (runOf running0 0).engine fun g => { g with louvre := 1, issues := [true] }
theorem meets_missed : (let run := runOf louvred0 0
    (louvred0.eng run.engine).louvre ≤ ((louvred0.eng run.engine).issues.filter id).length ∧
      ((running0.eng run.engine).issues.filter id).length < (running0.eng run.engine).louvre ∧
      (launchOf louvred0).run? problem0 0 0 = some run ∧ LaunchAt louvred0 0 (launchOf louvred0) problem0 runningCmd q0) := by
  simp only [LaunchAt]; decide +kernel
theorem test_missed : (let t := after (exec (.annealBatch 0 0 0) louvred0)
    ((t.eng (runOf t 0).engine).issues, (runOf t 0).bits)) = ([false, true], (runOf louvred0 0).bits) := by decide +kernel

/-! ### The spec's worked examples -/

/-- "A batch with a deferral and a group" (R101). -/
def batchBlock : Block :=
  { block0 with vars := [0, 1, 2, 3, 4, 5], intra := [{ i := 0, j := 1, code := 2, value := 2 }, { i := 1, j := 2, code := 4, value := 4 }], inter := [],
                groups := [(0, [3, 4, 5])], neighbours := [] }
def batchProblem : Problem :=
  { problem0 with n := 6, blockVars := 6, blockOf := [0, 0, 0, 0, 0, 0], blocks := [batchBlock], h := [-1, -3, -2, -1, 1, -3] }
def batchRun : BlockRun := { engine := 0, bits := [true, false, false, false, true, false], x := [0, 0, 0, 0, 0, 0] }
/-- A temperature low enough that exactly the moves with no positive energy are accepted. -/
def coldly (p : Problem) (run : BlockRun) (i : Nat) : Bool :=
  let m := moveOf (p.block 0) run.bits i
  !m.isEmpty && decide (moveTotal p 0 run m ≤ 0)
def coldBatch (p : Problem) (run : BlockRun) (cands : List Nat) : BlockRun :=
  commitBatch p 0 run (decideSeq p 0 (coldly p run) [] cands) 6
theorem test_batchExample : (let r1 := coldBatch batchProblem batchRun [0, 1, 2, 3, 4, 5]
    let r2 := coldBatch batchProblem r1 r1.pending
    (r1.bits, r1.energy, r1.pending, r2.bits, r2.energy, r2.pending)) =
      ([true, true, false, true, false, false], -3, [2, 4, 5], [true, true, false, false, false, true], -5, []) := by decide +kernel
theorem meets_groups : GroupsOk batchBlock.groups batchRun.bits.length ∧ OneHot batchBlock.groups batchRun.bits ∧
    ∀ i, coldly batchProblem batchRun i = true → moveOf (batchProblem.block 0) batchRun.bits i ≠ [] := by
  refine ⟨?_, ?_, fun i h => ?_⟩
  · simp only [GroupsOk]; decide +kernel
  · simp only [OneHot]; decide +kernel
  · intro e
    simp [coldly, e] at h
/-- "A residue" (R104): spin form, J01 = 4, both variables +1. -/
def residueProblem : Problem :=
  { problem0 with n := 2, spin := true, blockOf := [0, 0], h := [0, 0],
                  blocks := [{ block0 with intra := [{ i := 0, j := 1, code := 4, value := 4 }], inter := [], neighbours := [] }] }
def residueRun : BlockRun := { engine := 0, bits := [true, true], x := [0, 0], energy := 4 }
theorem test_residueExample : (let d := decideConc (residueProblem.block 0) (coldly residueProblem residueRun) [] [0, 1]
    let r := commitBatch residueProblem 0 residueRun d 2
    let e := endSweep { noLaunch with concurrent := true } residueProblem 0 r
    (r.bits, r.energy, e.1.energy, e.2.1, (coldBatch residueProblem residueRun [0, 1]).bits)) =
      ([false, false], -12, 4, 16, [false, true]) := by decide +kernel
/-- "One step's table" (R116): exponent -2, temperature 3.0. -/
theorem test_tableExample : tempScale (-2) 0x40400000 = some (0xAAAAAAAA, 28) ∧
    ([-1, 0, 1, 2, 3, 192].map (tableIndex (0xAAAAAAAA, 28))) = [2037, 2048, 2058, 2069, 2079, 4095] ∧
    tempUnits (-2) 0x40400000 = 12 ∧
    ([2057, 2058, 2068, 2069, 2079, 4095].map (tableEntry (0xAAAAAAAA, 28) 12 false)) =
      [0xFFFF, 0xEB88, 0xEB88, 0xD8B3, 0xC75F, 0] := by decide +kernel
/-- "Two exchange decisions" (R129): RNE(65536 e^-1). -/
theorem test_exchangeExample : expWeight 1 = 0x5E2D := by decide +kernel
/-- "Scaling one block" (R79): 120 of 1.5, 5 of 0.1, and 900, -400 and 20. -/
theorem test_scalingExample : exponentWith 2 127 (List.replicate 120 (3 / 2) ++ List.replicate 5 (1 / 10) ++ [900, -400, 20]) =
    some (-2) := by decide +kernel
/-- The loader's integers of "a block with a term" (R145-R148). -/
def termNet : Net :=
  { nIn := 4, w1 := 2, e1 := -5, e2 := -6, e3 := -5, ea1 := -5, ea2 := -4, outShift := -5, nMax := 510,
    w1cols := [[64, -32], [32, 32], [-32, 96], [0, 64]], b1 := [0, -32], w2rows := [[64, 64]] ++ List.replicate 63 [0, 0],
    b2 := List.replicate 64 0, w3 := [-64] ++ List.replicate 63 0, b3 := 0, vanished := 0 }
theorem test_termExample : layer1 termNet [1, 0, 1, 0] = [32, 32] ∧ upper termNet [32, 32] = -64 ∧
    upper termNet [64, 64] = -128 := by decide +kernel
/-! ### The whole block -/

theorem meets_invariants : MemoryOk State.reset ∧ Steps State.reset { State.reset with time := 10 } ∧ QueueOk State.reset ∧
    QueueOk { base with pending := [.noOp 0, .inputCollapse] } := by
  refine ⟨by simp only [MemoryOk]; decide, rfl, ?_, ?_⟩ <;> simp [QueueOk, State.reset, Instr.wf]
theorem meets_noWork : (let s := { bare with flt := { bare.flt with stopped := true } }
    s.works = false ∧ (Instr.calibration 0 0).wf = true ∧ (Instr.calibration 0 0).actsAlways = false) ∧
    (Instr.evcHostCauseClear .A 1 0).bar0Port = some .A ∧ State.reset.works = true ∧ State.reset.barReached .A = false := by decide +kernel
theorem fire_sec (s : State) (n : Nat) : (s.fire n).sec = s.sec := by
  have fwd : ∀ (s : State) (p : Port) (n : Nat), (hostForward s p n).sec = s.sec := by
    intro s p n; simp only [hostForward, msixTrigger, msixSend]; split_ifs <;> simp
  simp only [State.fire]; split_ifs <;> simp [fwd]
theorem refreshPair_sec (s : State) (k : Nat) : (refreshPair s k).sec = s.sec := by
  have put : ∀ (s : State) (k : Nat) (st : PairState), (setPairState s k st).sec = s.sec := by
    intro s k st; simp only [setPairState, dieEvent]; split_ifs <;> simp [fire_sec, State.modPair]
  simp only [refreshPair, bringUp]; split_ifs <;> simp [put, State.modPair]
theorem refreshPairs_sec (s : State) : (refreshPairs s).sec = s.sec := by
  unfold refreshPairs
  generalize allPairs = l
  induction l generalizing s with
  | nil => rfl
  | cons k l ih => simp [ih, refreshPair_sec]
theorem answered_lifecycle (s u : State) (p : Port) (n : Nat) : (secAnswer s p (.done u n)).sec.lifecycle = u.sec.lifecycle := by
  simp only [secAnswer, secDone, fire_sec, State.modPort_sec, State.write_sec]
theorem deriveKeys_sec (s : State) : (deriveKeys s).sec = s.sec := by simp [deriveKeys, State.modHost]
theorem withdrawn_lifecycle (s : State) : (destroyHallKey (moveTo s 1)).sec.lifecycle = 1 := by
  simp only [destroyHallKey, refreshPairs_sec, deriveKeys_sec, moveTo, fire_sec]
def withdrawing : State := secState [(0, 1, 0x33)]
def withdrawB : List Byte := secBytes [(0, 1, 0x33)]
theorem withdraw_premises : secRequest withdrawing .A = some withdrawB ∧ fieldOf withdrawB 0 1 = 0x33 ∧
    (withdrawing.ent .A).waiting.contains (.keyBlock .A) = false ∧ secReserved withdrawB [] = false ∧
    mayMove withdrawing .A [2] = true ∧ withdrawing.qfe.queues.isEmpty = true ∧ withdrawing.sec.lifecycle = 2 := by decide +kernel
/-- A withdrawal moves a deployed module to PROVISIONED. -/
theorem withdrawal_moves (s : State) (b : List Byte) (h1 : secRequest s .A = some b) (h2 : fieldOf b 0 1 = 0x33)
    (h3 : (s.ent .A).waiting.contains (.keyBlock .A) = false) (h4 : secReserved b [] = false) (h5 : mayMove s .A [2] = true)
    (h6 : s.qfe.queues.isEmpty = true) : ∃ t, exec (.withdrawHallKey .A) s = .next t ∧ t.sec.lifecycle = 1 := by
  have h : secOp s .A 0x33 (withdrawOp .A) = secAnswer s .A (.done (destroyHallKey (moveTo s 1)) 0) := by
    simp only [secOp, h1, h2, h3, withdrawOp, h4, h5, h6, bne_self_eq_false, Bool.or_false, Bool.not_true, Bool.false_eq_true,
      if_false]
  refine ⟨{ secOp s .A 0x33 (withdrawOp .A) with pending := s.pending }, rfl, ?_⟩
  show (secOp s .A 0x33 (withdrawOp .A)).sec.lifecycle = 1
  rw [h, answered_lifecycle, withdrawn_lifecycle]
theorem meets_lifecycle : (∃ t, exec (.withdrawHallKey .A) withdrawing = .next t ∧ t.sec.lifecycle = 1) ∧
    withdrawing.sec.lifecycle = 2 :=
  have ⟨h1, h2, h3, h4, h5, h6, h7⟩ := withdraw_premises
  ⟨withdrawal_moves withdrawing withdrawB h1 h2 h3 h4 h5 h6, h7⟩
/-- A command in front is run, and what waits behind it stays. -/
theorem test_step : step { bare with pending := [.inputCollapse, .noOp 0] } = exec .inputCollapse { bare with pending := [.noOp 0] } := rfl
/-- A state with a launch in which every group has one hot member; one with a page mapped. -/
theorem meets_hot : HotOk running0 ∧ (launchOf running0).runs ≠ [] ∧ PagesOnce (mapped true) := by
  refine ⟨?_, by decide +kernel, ?_⟩
  · simp only [HotOk, ProblemOk, GroupsOk, OneHot]; decide +kernel
  · simp only [PagesOnce]; decide +kernel
/-- A byte that a write of a store's block cannot change. -/
theorem meets_frame : ¬ (Instr.setupCreateFence .A).mayWrite base (memKey (.virt .A 1) 0x5000) := by
  simp only [Instr.mayWrite, PortByte]; decide +kernel
theorem test_frame : memGet (after (exec (.setupCreateQueue .A) (setupState createFields))).mem (memKey (.untranslated .A) 0x1003) =
    memGet (setupState createFields).mem (memKey (.untranslated .A) 0x1003) := by decide +kernel

end Sys2Proof.Tests
end

section
/-! PROOFS. Every step keeps the byte memory canonical and every page of a stack mapped once (R9, R331, R333).

`Keeps s t`: the way from `s` to `t` keeps both. Every function of the model that a step runs has one lemma, which says that
it goes on keeping them: from `h : Keeps s u`, `h.f : Keeps s (f u)`. The lemma's proof follows the function's body: `h.f.g`
for `g (f u)`, `.ite` at a test, `.foldl` at a fold, `.rest` where fields change that are neither the memory nor the pages
mapped and being mapped. Only writes and clears of the memory, and what maps, unmaps and retires pages, need more than that. -/

namespace Sys2Proof.Machine

/-! ### Pages that a map holds or that are being zeroed (R331, R333) -/

/-- The stack and the page that an entry of a map lies on. -/
def pageOf (e : Nat × PageMap) : Nat × Nat := (e.2.stack, e.2.page)

/-- The entries of the map request under way, whose pages are being zeroed. -/
def zeroing : Option MapJob → List (Nat × PageMap)
  | some j => if j.unmap then [] else j.keys
  | none => []

/-- The entries that hold a page of a stack. -/
def holding (s : State) : List (Nat × PageMap) := s.hbm.pages ++ zeroing s.hbm.job

theorem pagesOnce_iff (s : State) : PagesOnce s ↔ ((holding s).map pageOf).Nodup := Iff.rfl

theorem PagesOnce.of_subperm {s t : State} (h : (holding t).Subperm (holding s)) (hs : PagesOnce s) : PagesOnce t := by
  obtain ⟨l, hl, hsub⟩ := h
  rw [pagesOnce_iff, ← (hl.map pageOf).nodup_iff]
  exact hs.sublist (hsub.map pageOf)

theorem tblPut_subperm {α : Type} (t : Tbl α) (a : Nat) (x : α) : (tblPut t a x).Subperm (t ++ [(a, x)]) := by
  induction t with
  | nil => exact .refl _
  | cons e t ih =>
    obtain ⟨k, v⟩ := e
    unfold tblPut
    split
    · next hk =>
      subst hk
      exact (List.perm_append_singleton _ t).symm.subperm.trans (List.sublist_cons_self _ _).subperm
    · split
      · exact (List.perm_append_singleton _ _).symm.subperm
      · exact (List.subperm_cons _).2 ih

theorem foldl_tblPut_subperm {α : Type} (l t : Tbl α) : (l.foldl (fun t e => tblPut t e.1 e.2) t).Subperm (t ++ l) := by
  induction l generalizing t with
  | nil => rw [List.append_nil]; exact .refl _
  | cons e l ih =>
    have hput := (List.subperm_append_right l).2 (tblPut_subperm t e.1 e.2)
    rw [List.append_assoc] at hput
    exact (ih _).trans hput

theorem foldl_tblDel_sublist {α : Type} (l t : Tbl α) : (l.foldl (fun t e => tblDel t e.1) t).Sublist t := by
  induction l generalizing t with
  | nil => exact .refl _
  | cons e l ih => exact (ih _).trans List.filter_sublist

/-! ### A free page is one that no entry holds (R334) -/

theorem lowestFree_some {used : Nat → Bool} {n k i : Nat} (h : lowestFree used n k = some i) : used i = false := by
  induction n generalizing k with
  | zero => cases h
  | succ n ih =>
    unfold lowestFree at h
    split at h
    · exact ih h
    · next hk =>
      cases h
      exact Bool.eq_false_iff.2 hk

theorem lowestFree_none {used : Nat → Bool} {n k i : Nat} (h : lowestFree used n k = none) (hk : k ≤ i)
    (hi : i < k + n) : used i = true := by
  induction n generalizing k with
  | zero => omega
  | succ n ih =>
    unfold lowestFree at h
    split at h
    · next hu =>
      rcases Nat.eq_or_lt_of_le hk with rfl | hlt
      · exact hu
      · exact ih h hlt (by omega)
    · cases h

/-- The pages of stack `n` that entries lie on. -/
def pagesOn (n : Nat) (l : List (Nat × PageMap)) : List Nat := (l.filter fun e => e.2.stack == n).map fun e => e.2.page

theorem mem_pagesOn {n k : Nat} {l : List (Nat × PageMap)} :
    k ∈ pagesOn n l ↔ (l.any fun e => e.2.stack == n && e.2.page == k) = true := by
  simp [pagesOn, and_assoc]

theorem mem_pagesOn_iff_pageOf {n k : Nat} {l : List (Nat × PageMap)} : k ∈ pagesOn n l ↔ (n, k) ∈ l.map pageOf := by
  simp [pagesOn, pageOf, and_assoc]

/-- A stack that has a free page beside those taken has a page that nothing uses. -/
theorem exists_unused {s : State} {n : Nat} {taken : List (Nat × PageMap)}
    (h : 0 < s.freePages n - (taken.filter fun e => e.2.stack == n).length) :
    ∃ k < stackPages, k ∉ (s.stack n).removedPages ++ pagesOn n s.hbm.pages ++ pagesOn n taken := by
  by_contra hall
  push Not at hall
  have hsub := List.nodup_range.subperm fun k hk => hall k (List.mem_range.1 hk)
  have hlen := hsub.length_le
  simp only [List.length_range, List.length_append, pagesOn, List.length_map] at hlen
  unfold State.freePages State.mappedOn at h
  split at h
  · omega
  · omega

theorem freePageOf_unused {s : State} {n : Nat} {taken : List (Nat × PageMap)}
    (h : 0 < s.freePages n - (taken.filter fun e => e.2.stack == n).length) :
    (n, freePageOf s taken n) ∉ (s.hbm.pages ++ taken).map pageOf := by
  rw [List.map_append, List.mem_append, ← mem_pagesOn_iff_pageOf, ← mem_pagesOn_iff_pageOf]
  unfold freePageOf
  extract_lets used room
  split
  · next i hi =>
    have hu := lowestFree_some hi
    simp only [used, Bool.or_eq_false_iff] at hu
    obtain ⟨⟨_, hp⟩, ht⟩ := hu
    rw [mem_pagesOn, mem_pagesOn, hp, ht]
    simp
  · next hnone =>
    obtain ⟨k, hk, hfree⟩ := exists_unused h
    have hu := lowestFree_none (i := room - 1 - k) hnone (Nat.zero_le _) (by omega)
    rw [show room - 1 - (room - 1 - k) = k by omega] at hu
    simp only [used, Bool.or_eq_true, ← mem_pagesOn, List.contains_iff_mem] at hu
    simp only [List.mem_append] at hfree
    exact absurd hu hfree

theorem nextStack_free {free : Nat → Nat} {order : List Nat} {n : Nat} (h : nextStack free order = some n) :
    0 < free n := by
  simpa using List.find?_some h

theorem placePages_mem {key : Nat → Nat} {write near : Bool} {m : Nat} {l : List Nat} {s : State}
    {taken : List (Nat × PageMap)} {r : State × List (Nat × PageMap)}
    (e : placePages key write near m l s taken = some r) : r.1.mem = s.mem := by
  induction l generalizing s taken with
  | nil =>
    cases e
    rfl
  | cons pg l ih =>
    unfold placePages at e
    extract_lets free order at e
    split at e
    · cases e
    · next n hn =>
      extract_lets x h at e
      exact ih (s := { s with hbm := h }) e

/-- Placing pages changes no map, and gives each a page that no entry holds. -/
theorem placePages_nodup {key : Nat → Nat} {write near : Bool} {m : Nat} {l : List Nat} {s : State}
    {taken : List (Nat × PageMap)} {r : State × List (Nat × PageMap)}
    (e : placePages key write near m l s taken = some r) (hs : ((s.hbm.pages ++ taken).map pageOf).Nodup) :
    ((r.1.hbm.pages ++ r.2).map pageOf).Nodup := by
  induction l generalizing s taken with
  | nil =>
    cases e
    exact hs
  | cons pg l ih =>
    unfold placePages at e
    extract_lets free order at e
    split at e
    · cases e
    · next n hn =>
      extract_lets x h at e
      refine ih (s := { s with hbm := h }) e ?_
      rw [← List.append_assoc, List.map_append]
      have hfree : 0 < free n := nextStack_free hn
      exact hs.append (List.nodup_singleton _) (List.disjoint_singleton.2 (freePageOf_unused hfree))

/-! ### What is kept, and by which changes -/

/-- What leads from `s` to `t` keeps the byte memory canonical and every page mapped once. -/
structure Keeps (s t : State) : Prop where
  memory : MemoryOk s → MemoryOk t
  pages : PagesOnce s → PagesOnce t

/-- Every state that a body's answer carries is kept from `s`. -/
inductive DoneKeeps (s : State) : Done → Prop where
  | ok {t : State} {r : BitVec 128} (h : Keeps s t) : DoneKeeps s (.ok t r)
  | bad {t : State} {code detail : Nat} {r : BitVec 128} {logged : Bool} (h : Keeps s t) :
    DoneKeeps s (.bad t code detail r logged)
  | run {t : State} (h : Keeps s t) : DoneKeeps s (.run t)
  | stop {x : Stop} : DoneKeeps s (.stop x)
  | held {t : State} {x : Stop} (h : Keeps s t) : DoneKeeps s (.held t x)

/-- The state that the answer to a security request carries is kept from `s`. -/
inductive SecKeeps (s : State) : SecRes → Prop where
  | fail {code : Nat} : SecKeeps s (.fail code)
  | done {t : State} {bytes : Nat} (h : Keeps s t) : SecKeeps s (.done t bytes)
  | draw : SecKeeps s .draw

/-- The next state, when a command answers one, is kept from `s`. -/
def OutKeeps (s : State) : Out → Prop
  | .next t => Keeps s t
  | _ => True

section
variable {s u : State}

theorem Keeps.refl : Keeps s s := ⟨id, id⟩

/-- A change that leaves the byte memory, the mapped pages and the map request under way. -/
theorem Keeps.rest {t : State} (h : Keeps s u) (e : (t.mem, t.hbm.pages, t.hbm.job) = (u.mem, u.hbm.pages, u.hbm.job)) :
    Keeps s t := by
  simp only [Prod.mk.injEq] at e
  obtain ⟨hmem, hpages, hjob⟩ := e
  refine ⟨fun hs => ?_, fun hs => ?_⟩
  · simpa only [MemoryOk, hmem] using h.memory hs
  · simpa only [PagesOnce, hpages, hjob] using h.pages hs

/-- A change after which no more entries hold a page. -/
theorem Keeps.fewer {t : State} (h : Keeps s u) (hp : (holding t).Subperm (holding u)) (hm : t.mem = u.mem) :
    Keeps s t where
  memory hs := by simpa only [MemoryOk, hm] using h.memory hs
  pages hs := (h.pages hs).of_subperm hp

theorem Keeps.ite {c : Prop} {_ : Decidable c} {t : State} (h : Keeps s u) (ht : Keeps s t) :
    Keeps s (if c then u else t) := by
  split
  · exact h
  · exact ht

/-- A fold keeps the state that its accumulator carries when each step does. -/
theorem Keeps.foldlOn {α β : Type} (get : β → State) {f : β → α → β} {l : List α} {b : β} (h : Keeps s (get b))
    (hf : ∀ b a, Keeps s (get b) → Keeps s (get (f b a))) : Keeps s (get (l.foldl f b)) := by
  induction l generalizing b with
  | nil => exact h
  | cons a l ih => exact ih (hf _ _ h)

theorem Keeps.foldl {α : Type} {f : State → α → State} {l : List α} (h : Keeps s u)
    (hf : ∀ v a, Keeps s v → Keeps s (f v a)) : Keeps s (l.foldl f u) := .foldlOn id h hf

theorem Keeps.write {sp : Space} {a : Nat} {b : List Byte} (h : Keeps s u) : Keeps s (u.write sp a b) :=
  ⟨fun hs => memWf_write_space u sp a b (h.memory hs), h.pages⟩

theorem Keeps.clear {sp : Space} (h : Keeps s u) : Keeps s (u.clear sp) :=
  ⟨fun hs => memWf_clear u sp (h.memory hs), h.pages⟩

theorem DoneKeeps.ite {c : Prop} {_ : Decidable c} {d d' : Done} (h : DoneKeeps s d) (h' : DoneKeeps s d') :
    DoneKeeps s (if c then d else d') := by
  split
  · exact h
  · exact h'

theorem SecKeeps.ite {c : Prop} {_ : Decidable c} {x y : SecRes} (hx : SecKeeps s x) (hy : SecKeeps s y) :
    SecKeeps s (if c then x else y) := by
  split
  · exact hx
  · exact hy

theorem OutKeeps.act {ok : Bool} {f : State → State} (h : Keeps s u) (hf : Keeps s (f u)) : OutKeeps s (act ok u f) := by
  unfold Machine.act
  split
  · split
    · exact hf.rest rfl
    · exact h
  · trivial

theorem OutKeeps.actAlways {ok : Bool} {f : State → State} (hf : Keeps s (f u)) : OutKeeps s (actAlways ok u f) := by
  unfold Machine.actAlways
  split
  · exact hf.rest rfl
  · trivial

end

/-! ### The functions of `Sys2Proof/Machine/Ops.lean` -/

section
variable {s u t : State}

/-- A change that writes bytes of the memory, and leaves the mapped pages and the map request under way. -/
theorem Keeps.memWrite {k : Nat} {b : List Byte} (h : Keeps s u)
    (e : (t.mem, t.hbm.pages, t.hbm.job) = (memWrite u.mem k b, u.hbm.pages, u.hbm.job)) : Keeps s t := by
  simp only [Prod.mk.injEq] at e
  obtain ⟨hmem, hpages, hjob⟩ := e
  refine ⟨fun hs => ?_, fun hs => ?_⟩
  · simpa only [MemoryOk, hmem] using memWf_write k b (h.memory hs)
  · simpa only [PagesOnce, hpages, hjob] using h.pages hs

theorem Keeps.setEng {e' : Nat} {x : Engine} (h : Keeps s u) : Keeps s (u.setEng e' x) :=
  h.rest rfl

theorem Keeps.modEng {e' : Nat} {f : Engine → Engine} (h : Keeps s u) : Keeps s (u.modEng e' f) :=
  h.setEng

theorem Keeps.setDie {d : Nat} {x : Die} (h : Keeps s u) : Keeps s (u.setDie d x) :=
  h.rest rfl

theorem Keeps.modDie {d : Nat} {f : Die → Die} (h : Keeps s u) : Keeps s (u.modDie d f) :=
  h.setDie

theorem Keeps.setBank {b : Nat} {x : Bank} (h : Keeps s u) : Keeps s (u.setBank b x) :=
  h.rest rfl

theorem Keeps.modBank {b : Nat} {f : Bank → Bank} (h : Keeps s u) : Keeps s (u.modBank b f) :=
  h.setBank

theorem Keeps.setPort {p : Port} {x : PortState} (h : Keeps s u) : Keeps s (u.setPort p x) := by
  unfold State.setPort
  split <;> exact h.rest rfl

theorem Keeps.modPort {p : Port} {f : PortState → PortState} (h : Keeps s u) : Keeps s (u.modPort p f) :=
  h.setPort

theorem Keeps.setHost {p : Port} {x : HostDie} (h : Keeps s u) : Keeps s (u.setHost p x) := by
  unfold State.setHost
  split <;> exact h.rest rfl

theorem Keeps.modHost {p : Port} {f : HostDie → HostDie} (h : Keeps s u) : Keeps s (u.modHost p f) :=
  h.setHost

theorem Keeps.setQueue {q : Nat} {x : Queue} (h : Keeps s u) : Keeps s (u.setQueue q x) :=
  h.rest rfl

theorem Keeps.modQueue {q : Nat} {f : Queue → Queue} (h : Keeps s u) : Keeps s (u.modQueue q f) := by
  unfold State.modQueue
  split
  · exact h.setQueue
  · exact h

theorem Keeps.setCmd {c : Nat} {x : Cmd} (h : Keeps s u) : Keeps s (u.setCmd c x) :=
  h.rest rfl

theorem Keeps.dropCmd {c : Nat} (h : Keeps s u) : Keeps s (u.dropCmd c) :=
  h.rest rfl

theorem Keeps.modCmd {c : Nat} {f : Cmd → Cmd} (h : Keeps s u) : Keeps s (u.modCmd c f) := by
  unfold State.modCmd
  split
  · exact h.setCmd
  · exact h

theorem Keeps.setFence {n : Nat} {x : Fence} (h : Keeps s u) : Keeps s (u.setFence n x) :=
  h.rest rfl

theorem Keeps.setStack {n : Nat} {x : Stack} (h : Keeps s u) : Keeps s (u.setStack n x) :=
  h.rest rfl

theorem Keeps.setChannel {n : Nat} {x : FlashChannel} (h : Keeps s u) : Keeps s (u.setChannel n x) :=
  h.rest rfl

theorem Keeps.setPair {k : Nat} {x : Pair} (h : Keeps s u) : Keeps s (u.setPair k x) :=
  h.rest rfl

theorem Keeps.modPair {k : Nat} {f : Pair → Pair} (h : Keeps s u) : Keeps s (u.modPair k f) :=
  h.setPair

theorem Keeps.setFlow {f : Nat} {x : Flow} (h : Keeps s u) : Keeps s (u.setFlow f x) :=
  h.rest rfl

theorem Keeps.send {m : OutMsg} (h : Keeps s u) : Keeps s (u.send m) :=
  h.rest rfl

theorem Keeps.request {p : Port} {m : OutMsg} (h : Keeps s u) : Keeps s (u.request p m) :=
  .ite h.send (.ite h.modPort h)

theorem Keeps.overBar {p : Port} {f : State → State} (hf : ∀ v, Keeps s v → Keeps s (f v)) (h : Keeps s u) :
    Keeps s (overBar p f u) :=
  .ite (hf _ h) (.ite h.send h)

end

/-! ### The functions of `Sys2Proof/Machine/Flags.lean` -/

section
variable {s u t : State}

theorem Keeps.msixSend {p : Port} {v' : Nat} (h : Keeps s u) : Keeps s (msixSend u p v') :=
  .ite h.setPort (.ite h.setPort h.setPort.send)

theorem Keeps.msixTrigger {p : Port} {v' : Nat} (h : Keeps s u) : Keeps s (msixTrigger u p v') :=
  .ite h (.ite h.msixSend h.setPort)

theorem Keeps.hostForward {p : Port} {n : Nat} (h : Keeps s u) : Keeps s (hostForward u p n) :=
  .ite h h.setPort.msixTrigger

theorem Keeps.fire {n : Nat} (h : Keeps s u) : Keeps s (u.fire n) :=
  .ite (.hostForward (.hostForward (h.rest rfl))) h

theorem Keeps.dieEvent {d b : Nat} (h : Keeps s u) : Keeps s (dieEvent u d b) :=
  h.modDie.fire

theorem Keeps.countDie {d : Nat} {get : Die → Stat} {put : Die → Stat → Die} {cause n : Nat} (h : Keeps s u) :
    Keeps s (countDie u d get put cause n) :=
  .ite h (.ite h.modDie.dieEvent h.modDie)

theorem Keeps.countEngine {e' : Nat} {get : Engine → Stat} {put : Engine → Stat → Engine} {cause n : Nat}
    (h : Keeps s u) :
    Keeps s (countEngine u e' get put cause n) :=
  .ite h (.ite h.modEng.dieEvent h.modEng)

theorem Keeps.countPort {p : Port} {get : PortState → Stat} {put : PortState → Stat → PortState} {source n : Nat}
    (h : Keeps s u) :
    Keeps s (countPort u p get put source n) :=
  .ite h.modPort.fire h.modPort

theorem Keeps.countGlobal {get : State → Stat} {put : State → Stat → State} {source n : Nat} (h : Keeps s u)
    (hput : ∀ v a, Keeps s v → Keeps s (put v a)) :
    Keeps s (countGlobal u get put source n) :=
  .ite (.fire (hput _ _ h)) (hput _ _ h)

theorem Keeps.consumerError {h' : Port} (h : Keeps s u) : Keeps s (consumerError u h') :=
  .ite h.modHost.fire h.modHost

theorem Keeps.logFault {code detail die engine : Nat} {portB : Bool} {who : Option (Nat × Nat × Nat)} (h : Keeps s u) :
    Keeps s (logFault u code detail die engine portB who) := by
  unfold Machine.logFault
  dsimp only
  split
  · exact h.rest rfl
  · exact .fire (h.rest rfl)

theorem Keeps.logPlain {code detail : Nat} (h : Keeps s u) : Keeps s (logPlain u code detail) :=
  h.logFault

theorem Keeps.logOnDie {code detail die : Nat} (h : Keeps s u) : Keeps s (logOnDie u code detail die) :=
  h.logFault

theorem Keeps.logOnEngine {code detail e' : Nat} (h : Keeps s u) : Keeps s (logOnEngine u code detail e') :=
  h.logFault

theorem Keeps.logOnPort {code : Nat} {p : Port} (h : Keeps s u) : Keeps s (logOnPort u code p) :=
  h.logFault

theorem Keeps.logOnQueue {code detail q : Nat} {x : Queue} {seq : Nat} (h : Keeps s u) :
    Keeps s (logOnQueue u code detail q x seq) :=
  h.logFault

end

/-! ### The functions of `Sys2Proof/Machine/Access.lean` -/

section
variable {s u t : State}

theorem Keeps.unpoison {p : Port} {pasid va len : Nat} (h : Keeps s u) : Keeps s (unpoison u p pasid va len) :=
  .ite (h.rest rfl) h

theorem Keeps.pokeVa {p : Port} {pasid va : Nat} {b : List Byte} (h : Keeps s u) : Keeps s (pokeVa u p pasid va b) :=
  .unpoison ⟨fun hs => memWf_pieces _ _ _ (h.memory hs), h.pages⟩

theorem Keeps.writeVa {p : Port} {pasid va : Nat} {b : List Byte} (h : Keeps s u) (e : writeVa u p pasid va b = .ok t) :
    Keeps s t := by
  unfold Machine.writeVa at e
  split at e
  · cases e
    exact h.pokeVa
  · cases e

theorem Keeps.scrambleVa {p : Port} {pasid va len : Nat} (h : Keeps s u) : Keeps s (scrambleVa u p pasid va len) := by
  unfold Machine.scrambleVa
  refine .foldl h fun v a hv => ?_
  split
  · exact hv.pokeVa.rest rfl
  · exact hv

theorem Keeps.askPage {p : Port} {pasid page : Nat} {write : Bool} (h : Keeps s u) :
    Keeps s (askPage u p pasid page write) :=
  .ite h.setPort h.setPort.request

end

/-! ### The functions of `Sys2Proof/Machine/Medium.lean` -/

section
variable {s u t : State}

theorem Keeps.placeData {m : Nat} (h : Keeps s u) : Keeps s (placeData u m).1 := by
  unfold Machine.placeData
  split
  · split
    · split
      · split <;> exact h.rest rfl
      · exact h.rest rfl
    · split
      · split <;> exact h.rest rfl
      · exact h.rest rfl
  · split
    · split
      · exact h.rest rfl
      · exact h
    · exact h

theorem Keeps.putPlace {i n k : Nat} (h : Keeps s u) : Keeps s (putPlace u i n k) := by
  unfold Machine.putPlace
  split
  · exact h.rest rfl
  · exact h

theorem Keeps.moveData {m k : Nat} (h : Keeps s u) : Keeps s (moveData u m k) := by
  unfold Machine.moveData
  dsimp only
  exact .foldl (h.rest rfl) fun _ _ hv => hv.placeData.putPlace

end

/-! ### The functions of `Sys2Proof/Machine/Complete.lean` -/

section
variable {s u t : State}

theorem Keeps.pollReset {q : Queue} (h : Keeps s u) : Keeps s (pollReset u q) :=
  h.rest rfl

theorem Keeps.freeSlots {l : Nat} (h : Keeps s u) : Keeps s (freeSlots u l) := by
  unfold Machine.freeSlots
  split
  · exact h.foldl fun _ _ hv => hv.modEng
  · exact h

theorem Keeps.dropLaunch {l : Nat} (h : Keeps s u) : Keeps s (dropLaunch u l) :=
  h.freeSlots.rest rfl

theorem Keeps.freeVersions {g : Nat} (h : Keeps s u) : Keeps s (freeVersions u g) := by
  unfold Machine.freeVersions
  split
  · exact h
  · exact .ite (h.rest rfl) (h.rest rfl)

theorem Keeps.dropGraphLaunch {c : Nat} (h : Keeps s u) : Keeps s (dropGraphLaunch u c) := by
  unfold Machine.dropGraphLaunch
  split
  · exact .freeVersions (h.rest rfl)
  · exact h

theorem Keeps.launchWritten {q seq : Nat} (h : Keeps s u) : Keeps s (launchWritten u q seq) := by
  unfold Machine.launchWritten
  dsimp only
  split
  · refine .dropGraphLaunch ?_
    split
    · exact h.dropLaunch
    · exact h
  · split
    · exact h.dropLaunch
    · exact h

theorem Keeps.endLaunch {c : Nat} {x : Cmd} {code : Nat} (h : Keeps s u) : Keeps s (endLaunch u c x code) := by
  unfold Machine.endLaunch
  split
  · exact h
  · exact .ite h.dropLaunch (.rest (.ite h h.freeSlots) rfl)

theorem Keeps.endGraphLaunch {c : Nat} {x : Cmd} (h : Keeps s u) : Keeps s (endGraphLaunch u c x) := by
  unfold Machine.endGraphLaunch
  split
  · exact h
  · exact .ite h.dropGraphLaunch (h.rest rfl)

theorem Keeps.queueStop {q : Nat} {st : QState} {fault seq : Nat} (h : Keeps s u) :
    Keeps s (queueStop u q st fault seq) := by
  unfold Machine.queueStop
  split
  · exact h
  · exact .ite h h.setQueue.msixTrigger

theorem Keeps.queueError {q code : Nat} (h : Keeps s u) : Keeps s (queueError u q code) := by
  unfold Machine.queueError
  split
  · exact h
  · exact .ite h h.queueStop.logOnQueue

theorem Keeps.flushRecords {fuel q : Nat} (h : Keeps s u) : Keeps s (flushRecords fuel u q) := by
  induction fuel generalizing u with
  | zero => exact h
  | succ fuel ih =>
    unfold Machine.flushRecords
    split
    · exact h
    · split
      · exact h
      · split
        · next e =>
          extract_lets v x v1
          have hv1 : Keeps s v1 := (h.writeVa e).pokeVa.setQueue.pollReset.launchWritten
          exact ih (.ite hv1.msixTrigger hv1)
        · exact h.askPage.setQueue
        · exact h
        · exact h.queueError

theorem Keeps.haltFor {q fault seq : Nat} (h : Keeps s u) : Keeps s (haltFor u q fault seq) := by
  unfold Machine.haltFor
  split
  · exact .ite h.queueStop h
  · exact h

theorem Keeps.putRecord {q : Nat} {r' : Record} (h : Keeps s u) : Keeps s (putRecord u q r') := by
  unfold Machine.putRecord
  split
  · exact h
  · exact .ite h h.setQueue.haltFor.flushRecords

theorem Keeps.releaseClaims {c : Nat} (h : Keeps s u) : Keeps s (releaseClaims u c) := by
  unfold Machine.releaseClaims
  split
  · split
    · exact .rest (h.foldl fun _ _ hv => hv.modEng) rfl
    · exact h.rest rfl
  · exact h

theorem Keeps.programBlock {q : Queue} {d : Desc} {k : Nat} (h : Keeps s u) : Keeps s (programBlock q d u k) := by
  unfold Machine.programBlock
  split
  · exact h
  · dsimp only
    exact h.write.placeData.rest rfl

theorem Keeps.cutOffStore {x : Cmd} (h : Keeps s u) : Keeps s (cutOffStore u x) := by
  unfold Machine.cutOffStore
  split
  · exact .ite (.foldl (h.rest rfl) fun _ _ hv => hv.programBlock) h
  · exact h

theorem Keeps.releaseFlows {c : Nat} {failed : Bool} (h : Keeps s u) : Keeps s (releaseFlows u c failed) := by
  unfold Machine.releaseFlows
  extract_lets mine v stay w
  have hv : Keeps s v := h.foldl fun _ _ hv => hv.setFlow
  have hw : Keeps s w := hv.foldl fun _ _ hv => hv.setFlow
  exact .ite (hw.rest rfl) hv

theorem Keeps.nodeFinish {l n fault detail status : Nat} {result : BitVec 128} (h : Keeps s u) :
    Keeps s (nodeFinish u l n fault detail status result) := by
  unfold Machine.nodeFinish
  split
  · exact h.rest rfl
  · exact h

theorem Keeps.finishCmd {c code detail : Nat} {result : BitVec 128} {logged shuttered : Bool} (h : Keeps s u) :
    Keeps s (finishCmd u c code detail result logged shuttered) := by
  unfold Machine.finishCmd
  split
  · exact h
  · extract_lets cut dropped released told
    have hc : Keeps s cut := .ite h h.cutOffStore
    clear_value cut
    have hr : Keeps s released := .releaseFlows (.dropCmd (.releaseClaims (.rest hc.endLaunch.endGraphLaunch rfl)))
    clear_value released
    have ht : Keeps s told := by
      dsimp only [told]
      split
      · exact hr.logOnQueue
      · exact hr
    clear_value told
    split
    · exact ht.nodeFinish
    · split
      · exact ht
      · exact ht.putRecord

theorem Keeps.scrambleDests {x : Cmd} (h : Keeps s u) : Keeps s (scrambleDests u x) := by
  unfold Machine.scrambleDests
  split
  · exact h.foldl fun _ _ hv => hv.scrambleVa
  · exact h

theorem Keeps.faultAs {c code detail : Nat} {logged : Bool} (h : Keeps s u) :
    Keeps s (faultAs u c code detail logged) := by
  unfold Machine.faultAs
  split
  · exact h
  · split
    · exact h
    · split
      · exact h
      · exact .modCmd (h.rest rfl)
      · exact h.scrambleDests.finishCmd

theorem Keeps.faultCmd {c code detail : Nat} (h : Keeps s u) : Keeps s (faultCmd u c code detail) :=
  h.faultAs

theorem Keeps.faultCmdOpen {c code : Nat} (h : Keeps s u) : Keeps s (faultCmdOpen u c code) :=
  .faultCmd (h.rest rfl)

theorem DoneKeeps.within {α : Type} {x : Try α} {k : α → Done} (hk : ∀ a, x = .ok a → DoneKeeps s (k a)) :
    DoneKeeps s (within x k) := by
  unfold Machine.within
  split
  · exact hk _ rfl
  · exact .stop

theorem DoneKeeps.keeping {d : Done} (h : Keeps s u) (hd : DoneKeeps s d) : DoneKeeps s (keeping u d) := by
  cases hd with
  | stop => exact .held h
  | ok ht => exact .ok ht
  | bad ht => exact .bad ht
  | run ht => exact .run ht
  | held ht => exact .held ht

theorem Keeps.failCmd {c code detail : Nat} {result : BitVec 128} {logged : Bool} (h : Keeps s u) :
    Keeps s (failCmd u c code detail result logged) := by
  unfold Machine.failCmd
  refine .finishCmd ?_
  split
  · exact h.scrambleDests
  · exact h

theorem Keeps.stopped {c : Nat} {q : Queue} {x : Stop} (h : Keeps s u) : Keeps s (stopped u c q x) := by
  unfold Machine.stopped
  split
  · exact h.failCmd
  · exact .failCmd (h.rest rfl)
  · exact h.failCmd
  · exact h.askPage.modCmd
  · exact h

theorem Keeps.settle {c : Nat} {q : Queue} {d : Done} (h : Keeps s u) (hd : DoneKeeps s d) :
    Keeps s (settle u c q d) := by
  unfold Machine.settle
  cases hd with
  | ok ht => exact ht.finishCmd
  | bad ht => exact ht.finishCmd
  | run ht => exact ht.modCmd
  | stop => exact h.stopped
  | held ht => exact ht.stopped

theorem Keeps.issued {e' : Nat} {taken : Bool} (h : Keeps s u) : Keeps s (issued u e' taken) :=
  h.modEng

theorem Keeps.tileWork {e' c : Nat} (h : Keeps s u) : Keeps s (tileWork u e' c) := by
  unfold Machine.tileWork
  split
  · extract_lets n v
    have hv : Keeps s v := h.issued.modDie
    clear_value v
    exact hv.rest rfl
  · exact h

theorem Keeps.takeCmd {c opcode : Nat} {stages : List Stage} {body : State → Cmd → Queue → Done} (h : Keeps s u)
    (hbody : ∀ v a a2, Keeps s v → DoneKeeps s (body v a a2)) :
    Keeps s (takeCmd u c opcode stages body) := by
  unfold Machine.takeCmd
  split
  · exact h
  · split
    · exact h
    · exact .ite (h.settle (hbody _ _ _ h)) h

theorem Keeps.runCmd {c opcode : Nat} {body : State → Cmd → Queue → Done} (h : Keeps s u)
    (hbody : ∀ v a a2, Keeps s v → DoneKeeps s (body v a a2)) :
    Keeps s (runCmd u c opcode body) :=
  h.takeCmd fun _ _ _ hv => hbody _ _ _ hv

theorem Keeps.goOn {c opcode : Nat} {body : State → Cmd → Queue → Done} (h : Keeps s u)
    (hbody : ∀ v a a2, Keeps s v → DoneKeeps s (body v a a2)) :
    Keeps s (goOn u c opcode body) :=
  h.takeCmd fun _ _ _ hv => hbody _ _ _ hv

end

/-! ### The functions of `Sys2Proof/Machine/Writes.lean` -/

section
variable {s u t : State}

theorem Keeps.writeRuns {q : Queue} {l : List (Nat × List Byte)} (h : Keeps s u) (e : writeRuns u q l = .ok t) :
    Keeps s t := by
  induction l generalizing u with
  | nil =>
    cases e
    exact h
  | cons r l ih =>
    unfold Machine.writeRuns at e
    split at e
    · cases e
    · next e' => exact ih (h.writeVa e') e

theorem Keeps.writePlan {q : Queue} {x : WritePlan} {r : State × Tally} (h : Keeps s u) (e : writePlan u q x = .ok r) :
    Keeps s r.1 := by
  unfold Machine.writePlan at e
  split at e
  · cases e
  · next e' =>
    cases e
    exact h.writeRuns e'

theorem Keeps.writeTensor {q : Queue} {x : Tensor} {vals : List (List Val)} {r : State × Tally} (h : Keeps s u)
    (e : writeTensor u q x vals = .ok r) : Keeps s r.1 := by
  unfold Machine.writeTensor at e
  split at e
  · cases e
  · exact .writePlan (h.rest (by rfl)) e

theorem DoneKeeps.badWriting {q : Queue} {dests : List (Nat × Nat)} {x : Stop} (h : Keeps s u) :
    DoneKeeps s (badWriting u q dests x) := by
  unfold Machine.badWriting
  split
  · exact .bad (h.foldl fun _ _ hv => hv.scrambleVa)
  · exact .bad (.foldl (h.rest rfl) fun _ _ hv => hv.scrambleVa)
  · exact .bad (h.foldl fun _ _ hv => hv.scrambleVa)
  · exact .stop

theorem DoneKeeps.writing {α : Type} {q : Queue} {dests : List (Nat × Nat)} {x : Try α} {k : α → Done} (h : Keeps s u)
    (hk : ∀ a, x = .ok a → DoneKeeps s (k a)) : DoneKeeps s (writing u q dests x k) := by
  unfold Machine.writing
  split
  · exact hk _ rfl
  · exact .badWriting h

theorem Keeps.noteSlip {x : Cmd} {q : Queue} {l : TagSlip} (h : Keeps s u) : Keeps s (noteSlip x q u l) :=
  h.countEngine.logFault

theorem DoneKeeps.unslipped {x : Cmd} {q : Queue} {dests : List (Nat × Nat)} {ls : List TagSlip} {k : Unit → Done}
    (h : Keeps s u) (hk : ∀ a, DoneKeeps s (k a)) :
    DoneKeeps s (unslipped u x q dests ls k) := by
  unfold Machine.unslipped
  split
  · exact hk _
  · exact .bad (.foldl (h.foldl fun _ _ hv => hv.noteSlip) fun _ _ hv => hv.scrambleVa)

theorem DoneKeeps.paired {x : Cmd} {q : Queue} {slips : List TagSlip} {os : List Operand} {dests : List (Nat × Nat)}
    {k : Unit → Done} (h : Keeps s u) (hk : ∀ a, DoneKeeps s (k a)) :
    DoneKeeps s (paired u x q slips os dests k) :=
  .unslipped h fun _ => hk _

end

/-! ### The functions of `Sys2Proof/Machine/Spin.lean` -/

section
variable {s u t : State}

theorem Keeps.setProblem {i : Nat} {p : Problem} (h : Keeps s u) : Keeps s (u.setProblem i p) :=
  h.rest rfl

end

/-! ### The functions of `Sys2Proof/Machine/Streams.lean` -/

section
variable {s u t : State}

theorem Keeps.setTx {k : Nat} {x : Stream} (h : Keeps s u) : Keeps s (u.setTx k x) :=
  h.rest rfl

theorem Keeps.setRx {k : Nat} {x : Stream} (h : Keeps s u) : Keeps s (u.setRx k x) :=
  h.rest rfl

theorem Keeps.handOverFrom {flow origin : Nat} {b : List Byte} (h : Keeps s u) :
    Keeps s (handOverFrom u flow origin b) :=
  h.foldl fun _ _ hv => hv.setTx

theorem Keeps.handOver {flow : Nat} {b : List Byte} (h : Keeps s u) : Keeps s (handOver u flow b) :=
  h.handOverFrom

theorem Keeps.oweFlow {flow : Nat} (h : Keeps s u) : Keeps s (oweFlow u flow) :=
  h.foldl fun _ _ hv => hv.setTx

theorem Keeps.takeRx {flow origin n : Nat} {r : List Byte × State} (h : Keeps s u)
    (e : takeRx u flow origin n = some r) : Keeps s r.2 := by
  unfold Machine.takeRx at e
  dsimp only at e
  split at e
  · cases e
  · cases e
    exact h.setRx

theorem Keeps.claimFlow {c : Nat} {x : Cmd} (h : Keeps s u) : Keeps s (claimFlow u c x) :=
  .ite h.setFlow.oweFlow h.setFlow

theorem Keeps.claimAtStart {c : Nat} {x : Cmd} (h : Keeps s u) : Keeps s (claimAtStart u c x) := by
  unfold Machine.claimAtStart
  split
  · exact .ite h h.claimFlow
  · exact h

theorem Keeps.moveStream {flow origin : Nat} (h : Keeps s u) : Keeps s (moveStream u flow origin) := by
  unfold Machine.moveStream
  dsimp only
  refine .foldl ?_ fun _ _ hv => hv.setTx
  refine .foldl h fun v a hv => ?_
  split
  · exact hv.setTx
  · exact hv

theorem Keeps.moveStreams (h : Keeps s u) : Keeps s (moveStreams u) :=
  h.foldl fun _ _ hv => hv.moveStream

end

/-! ### The functions of `Sys2Proof/Machine/Anneal.lean` -/

section
variable {s u t : State}

theorem Keeps.setLaunch {c : Nat} {l : Launch} (h : Keeps s u) : Keeps s (u.setLaunch c l) :=
  h.rest rfl

theorem Keeps.withLaunch {c : Nat} {f : Launch → Problem → Queue → State} (h : Keeps s u)
    (hf : ∀ a a1 a2, Keeps s (f a a1 a2)) :
    Keeps s (withLaunch u c f) := by
  unfold Machine.withLaunch
  split
  · split
    · exact .ite (hf _ _ _) h
    · exact h
  · exact h

theorem Keeps.passTurn {e' : Nat} {batch : Bool} (h : Keeps s u) : Keeps s (passTurn u e' batch) :=
  .ite h.modEng h

theorem Keeps.annealBatch {c r' bn : Nat} (h : Keeps s u) : Keeps s (annealBatch u c r' bn) := by
  unfold Machine.annealBatch
  refine .withLaunch h fun l p _ => ?_
  split
  · refine .ite h (.ite h.issued ?_)
    extract_lets fresh ok d next run1 e
    split
    extract_lets run3 turned batch deferred refused
    have hb : Keeps s batch := h.setLaunch.passTurn.tileWork.countEngine
    clear_value batch
    have hd : Keeps s deferred := .ite hb hb.countEngine
    clear_value deferred
    have hr : Keeps s refused := .ite hd hd.countEngine
    clear_value refused
    exact .ite hr.countEngine hr
  · exact h

theorem OutKeeps.execAnnealBatch {l r' b : Nat} (h : Keeps s u) : OutKeeps s (execAnnealBatch l r' b u) :=
  .act h h.annealBatch

theorem OutKeeps.execTableRebuildComplete {l r' b : Nat} (h : Keeps s u) :
    OutKeeps s (execTableRebuildComplete l r' b u) := by
  unfold Machine.execTableRebuildComplete
  refine .act h ?_
  refine .withLaunch h fun a a1 a2 => ?_
  split
  · exact .ite h h.setLaunch
  · exact h

theorem Keeps.epochEnd {c r' bn : Nat} (h : Keeps s u) : Keeps s (epochEnd u c r' bn) := by
  unfold Machine.epochEnd
  refine .withLaunch h fun a a1 a2 => ?_
  split
  · exact .ite h.setLaunch h
  · exact h

theorem Keeps.epochStart {c r' bn : Nat} (h : Keeps s u) : Keeps s (epochStart u c r' bn) := by
  unfold Machine.epochStart
  refine .withLaunch h fun a a1 a2 => ?_
  split
  · exact .ite (.ite h h.setLaunch.countEngine) (.ite (.ite h.setLaunch.oweFlow h.setLaunch) h)
  · exact h

theorem OutKeeps.execEpochStart {l r' b : Nat} (h : Keeps s u) : OutKeeps s (execEpochStart l r' b u) :=
  .act h h.epochStart

theorem OutKeeps.execBlockPageInComplete {l r' b : Nat} (h : Keeps s u) :
    OutKeeps s (execBlockPageInComplete l r' b u) := by
  unfold Machine.execBlockPageInComplete
  refine .act h ?_
  refine .withLaunch h fun a a1 a2 => ?_
  split
  · exact .ite h.setLaunch h
  · exact h

theorem Keeps.holdSlots {c queue : Nat} {l : Launch} (h : Keeps s u) : Keeps s (holdSlots u c queue l) :=
  h.foldl fun _ _ hv => hv.modEng

theorem OutKeeps.execNeuralEngineEligible {l : Nat} (h : Keeps s u) : OutKeeps s (execNeuralEngineEligible l u) := by
  unfold Machine.execNeuralEngineEligible
  refine .act h ?_
  refine .withLaunch h fun a a1 a2 => ?_
  split
  · exact .ite h.setLaunch.holdSlots h
  · exact h

end

/-! ### The functions of `Sys2Proof/Machine/Links.lean` -/

section
variable {s u t : State}

theorem Keeps.logOnPair {code k : Nat} (h : Keeps s u) : Keeps s (logOnPair u code k) :=
  h.logOnDie

theorem Keeps.setPairState {k : Nat} {st : PairState} (h : Keeps s u) : Keeps s (setPairState u k st) :=
  .ite h h.modPair.dieEvent

theorem Keeps.setTiming {t' : Timing} (h : Keeps s u) : Keeps s (setTiming u t') :=
  .ite h (.fire (h.rest rfl))

theorem Keeps.countSlip (h : Keeps s u) : Keeps s (countSlip u) :=
  h.countGlobal fun _ _ hv => hv.rest rfl

theorem Keeps.countRepeat (h : Keeps s u) : Keeps s (countRepeat u) :=
  h.countGlobal fun _ _ hv => hv.rest rfl

theorem Keeps.violation {code k : Nat} (h : Keeps s u) : Keeps s (violation u code k) :=
  .logOnPair (h.countGlobal fun _ _ hv => hv.rest rfl)

theorem Keeps.breakFlow {f : Nat} (h : Keeps s u) : Keeps s (breakFlow u f) := by
  unfold Machine.breakFlow
  split
  · exact h.faultCmd
  · exact h

theorem Keeps.breakCascade (h : Keeps s u) : Keeps s (breakCascade u) :=
  h.foldl fun _ _ hv => hv.faultCmdOpen

theorem Keeps.fencePair {k : Nat} {noKey : Bool} (h : Keeps s u) : Keeps s (fencePair u k noKey) :=
  .ite h (.foldl (.modPair (.logOnPair (.setPairState (.ite h.logOnPair h)))) fun _ _ hv => hv.setFlow.breakFlow)

theorem Keeps.bringUp {k : Nat} (h : Keeps s u) : Keeps s (bringUp u k) :=
  h.modPair.setPairState

theorem Keeps.refreshPair {k : Nat} (h : Keeps s u) : Keeps s (refreshPair u k) :=
  .ite (.ite h.bringUp h) (.ite h h.modPair.setPairState)

theorem Keeps.refreshPairs (h : Keeps s u) : Keeps s (refreshPairs u) :=
  h.foldl fun _ _ hv => hv.refreshPair

theorem Keeps.openSend {k : Nat} {m : OpenMessage} (h : Keeps s u) : Keeps s (openSend u k m) :=
  .ite h.modPair h

theorem Keeps.openTo {hall : Nat} {m : OpenMessage} (h : Keeps s u) : Keeps s (openTo u hall m) := by
  unfold Machine.openTo
  split
  · exact h.openSend
  · exact h

theorem Keeps.imageTo {hall : Nat} {img : List Byte} (h : Keeps s u) : Keeps s (imageTo u hall img) :=
  h.foldl fun _ _ hv => hv.openTo

theorem Keeps.askNonce {k : Nat} (h : Keeps s u) : Keeps s (askNonce u k) :=
  .ite h.consumerError.modPair (.ite h h.modHost)

theorem Keeps.giveNonce {k : Nat} {v' : List Byte} (h : Keeps s u) : Keeps s (giveNonce u k v') :=
  .ite h.modPair.openSend h

theorem Keeps.tellMembers {m : OpenMessage} (h : Keeps s u) : Keeps s (tellMembers u m) :=
  h.foldl fun _ _ hv => hv.openTo

end

/-! ### The functions of `Sys2Proof/Machine/Launch.lean` -/

section
variable {s u t : State}

theorem Keeps.askSeed {p : Port} {c : Nat} (h : Keeps s u) : Keeps s (askSeed u p c) :=
  h.modHost

theorem DoneKeeps.startLaunch {c : Nat} {x : Cmd} {q : Queue} {l : Launch} {p : Problem} {place : Placement}
    {asks : Bool} (h : Keeps s u) :
    DoneKeeps s (startLaunch c u x q l p place asks) :=
  .ite (.bad (.consumerError (h.rest rfl))) (.run (.modCmd (.ite h.setLaunch.holdSlots.askSeed h.setLaunch.holdSlots)))

theorem DoneKeeps.annealLaunchBody {c : Nat} {x : Cmd} {q : Queue} (h : Keeps s u) :
    DoneKeeps s (annealLaunchBody c u x q) :=
  .within fun _ _ => .startLaunch h

theorem OutKeeps.execAnnealLaunch {c : Nat} (h : Keeps s u) : OutKeeps s (execAnnealLaunch c u) :=
  .act h (h.runCmd fun _ _ _ hv => .annealLaunchBody hv)

theorem Keeps.handPart {l : Launch} {b : List Byte} (h : Keeps s u) : Keeps s (handPart u l b) :=
  h.handOver

theorem Keeps.beginStream {l : Launch} (h : Keeps s u) : Keeps s (beginStream u l) :=
  .ite h.handOver.oweFlow h.handOver

theorem OutKeeps.execRunSeedArrival {l : Nat} (h : Keeps s u) : OutKeeps s (execRunSeedArrival l u) := by
  unfold Machine.execRunSeedArrival
  refine .act h ?_
  refine .withLaunch h fun a a1 a2 => ?_
  split
  · exact .ite h.setLaunch.modCmd.beginStream h.setLaunch.modCmd
  · exact h

theorem DoneKeeps.ladderSetBody {x : Cmd} {q : Queue} (h : Keeps s u) : DoneKeeps s (ladderSetBody u x q) := by
  unfold Machine.ladderSetBody
  dsimp only
  refine .within fun a _ => ?_
  split
  · exact .ok h.setProblem
  · refine .within fun a he2 => ?_
    refine .within fun _ _ => .within fun _ _ => ?_
    split
    · exact .stop
    · exact .ok h.setProblem

theorem OutKeeps.execLadderSet {c : Nat} (h : Keeps s u) : OutKeeps s (execLadderSet c u) :=
  .act h (h.runCmd fun _ _ _ hv => .ladderSetBody hv)

theorem DoneKeeps.writeSnapshot {x : Cmd} {q : Queue} {area : List Byte} (h : Keeps s u) :
    DoneKeeps s (writeSnapshot u x q area) :=
  .within fun _ he => .ok (h.writeVa he)

theorem DoneKeeps.resultReadBody {c : Nat} {x : Cmd} {q : Queue} (h : Keeps s u) :
    DoneKeeps s (resultReadBody c u x q) := by
  unfold Machine.resultReadBody
  dsimp only
  split
  · exact .writeSnapshot h
  · refine .within fun a he => ?_
    split
    · exact .stop
    · exact .within fun _ _ => .keeping (.modCmd (h.rest rfl)) (.writeSnapshot (.modCmd (h.rest rfl)))

theorem OutKeeps.execResultRead {c : Nat} (h : Keeps s u) : OutKeeps s (execResultRead c u) :=
  .act h (h.runCmd fun _ _ _ hv => .resultReadBody hv)

theorem Keeps.sendPart {c : Nat} {l : Launch} {p : Problem} (h : Keeps s u) : Keeps s (sendPart u c l p) :=
  .ite (.ite h.setLaunch.handPart h) (.ite h.setLaunch.handPart h)

theorem Keeps.sendParts {c : Nat} (h : Keeps s u) : Keeps s (sendParts u c) := by
  unfold Machine.sendParts
  refine .foldl h fun v a hv => ?_
  split
  · split
    · exact .ite hv.sendPart hv
    · exact hv
  · exact hv

theorem Keeps.meetHeaders {c : Nat} {p : Problem} (h : Keeps s u) : Keeps s (meetHeaders u c p) := by
  unfold Machine.meetHeaders
  refine .foldl h fun v a hv => ?_
  split
  · exact hv
  · split
    · exact hv
    · split
      · exact hv
      · next e =>
        exact .ite (.faultCmd (hv.takeRx e)) (.ite (.modCmd (.setLaunch (hv.takeRx e))) (.setLaunch (hv.takeRx e)))

theorem Keeps.takePart {c : Nat} {l : Launch} {m n : Nat} {r : Option (List Byte) × State} (h : Keeps s u)
    (e : takePart u c l m n = r) : Keeps s r.2 := by
  subst e
  unfold Machine.takePart
  split
  · exact h
  · split
    · exact h.faultCmd
    · split
      · exact h
      · next e => exact h.takeRx e

theorem Keeps.pullBits {c : Nat} {p : Problem} {m e' : Nat} (h : Keeps s u) : Keeps s (pullBits u c p m e') := by
  unfold Machine.pullBits
  split
  · exact h
  · split
    · exact h
    · split
      · next e => exact h.takePart e
      · next e => exact .setLaunch (h.takePart e)

theorem Keeps.pullSums {c m e' : Nat} (h : Keeps s u) : Keeps s (pullSums u c m e') := by
  unfold Machine.pullSums
  split
  · exact h
  · split
    · exact h
    · split
      · next e => exact h.takePart e
      · next e => exact .setLaunch (h.takePart e)

theorem Keeps.boundaryReceived {c r' bn source : Nat} (h : Keeps s u) :
    Keeps s (boundaryReceived u c r' bn source) := by
  unfold Machine.boundaryReceived
  refine .withLaunch h fun a a1 a2 => ?_
  split
  · dsimp only
    split
    · exact h
    · split
      · split
        · exact h.setLaunch.sendParts
        · exact h
      · split
        · exact h.meetHeaders.pullBits
        · split
          · exact h.meetHeaders.pullBits.setLaunch.sendParts
          · exact h.meetHeaders.pullBits
  · exact h

theorem OutKeeps.execBoundaryValuesReceived {l r' b source : Nat} (h : Keeps s u) :
    OutKeeps s (execBoundaryValuesReceived l r' b source u) :=
  .act h h.boundaryReceived

theorem OutKeeps.execEpochEnd {l r' b : Nat} (h : Keeps s u) : OutKeeps s (execEpochEnd l r' b u) :=
  .act h h.epochEnd.sendParts

theorem Keeps.pullExchange {c : Nat} {l : Launch} {p : Problem} {accepted : List Nat}
    {r : Option (Tbl (List Bool)) × State} (h : Keeps s u) (e : pullExchange u c l p accepted = r) : Keeps s r.2 := by
  subst e
  refine Keeps.foldlOn Prod.snd (b := (some [], u)) h fun a m ha => ?_
  split
  · exact ha
  · dsimp only
    split
    · next e =>
      have hv := ha.takePart e
      exact .ite h hv
    · next e => exact ha.takePart e

theorem Keeps.cascadeExchange {c : Nat} {l : Launch} {p : Problem} {k : Nat} (h : Keeps s u) :
    Keeps s (cascadeExchange u c l p k) := by
  unfold Machine.cascadeExchange
  extract_lets due accepted b l1
  split
  next v l2 e =>
  have hv : Keeps s v := by
    split at e
    · cases e
      exact h.setLaunch.handPart
    · cases e
      exact h
  refine .ite hv ?_
  split
  · next e => exact hv.pullExchange e
  · next e => exact (hv.pullExchange e).setLaunch

theorem Keeps.energyReduction {c r' : Nat} (h : Keeps s u) : Keeps s (energyReduction u c r') := by
  unfold Machine.energyReduction
  refine .withLaunch h fun l p _ => ?_
  split
  · split
    · exact h
    · dsimp only
      split
      · exact h.setLaunch
      · exact h
  · extract_lets e pulled
    have hp : Keeps s pulled := h.meetHeaders.foldl fun _ _ hv => hv.pullBits.pullSums
    clear_value pulled
    split
    · exact hp
    · exact .ite (.ite hp.setLaunch hp.setLaunch) (.ite hp.setLaunch.cascadeExchange hp.setLaunch)

theorem OutKeeps.execEnergyReduction {l r' : Nat} (h : Keeps s u) : OutKeeps s (execEnergyReduction l r' u) :=
  .act h h.energyReduction

theorem Keeps.meetCompletion {c : Nat} {l : Launch} {p : Problem} (h : Keeps s u) :
    Keeps s (meetCompletion u c l p) := by
  unfold Machine.meetCompletion
  extract_lets me v
  have hv : Keeps s v := .ite h h.setLaunch.handPart
  refine hv.foldl fun w m hw => ?_
  split
  · exact hw
  · split
    · exact hw
    · split
      · next e => exact hw.takePart e
      · next e => exact (hw.takePart e).setLaunch

theorem Keeps.finishLaunch {c : Nat} {q : Queue} {l : Launch} {p : Problem} (h : Keeps s u) :
    Keeps s (finishLaunch u c q l p) := by
  unfold Machine.finishLaunch
  split
  · next e => exact .finishCmd (.writeVa (h.rest (by rfl)) e)
  · exact h.faultAs
  · exact h.askPage.modCmd
  · exact h

theorem Keeps.launchComplete {c : Nat} (h : Keeps s u) : Keeps s (launchComplete u c) := by
  refine h.withLaunch fun l p q => .ite h (.ite h.finishLaunch ?_)
  extract_lets v
  have hv : Keeps s v := h.meetCompletion
  clear_value v
  split
  · exact .ite hv.finishLaunch hv
  · exact hv

theorem OutKeeps.execLaunchComplete {l : Nat} (h : Keeps s u) : OutKeeps s (execLaunchComplete l u) :=
  .act h h.launchComplete

end

/-! ### The functions of `Sys2Proof/Machine/Tensor.lean` -/

section
variable {s u t : State}

theorem DoneKeeps.copyBody {slips : List TagSlip} {x : Cmd} {q : Queue} (h : Keeps s u) :
    DoneKeeps s (copyBody slips u x q) := by
  unfold Machine.copyBody
  refine .within fun a _ => ?_
  split
  · dsimp only
    refine .within fun a _ => .within fun a _ => ?_
    split
    · refine .within fun a he4 => ?_
      refine .paired h fun a => ?_
      refine .writing h fun _ _ => ?_
      split
      · exact .ok h
      · exact .writing h fun _ he6 => .ok (h.writeRuns he6)
    · exact .stop

theorem OutKeeps.execCopy {c : Nat} {slips : List TagSlip} (h : Keeps s u) : OutKeeps s (execCopy c slips u) :=
  .act h (h.runCmd fun _ _ _ hv => .copyBody hv)

theorem DoneKeeps.convertBody {slips : List TagSlip} {x : Cmd} {q : Queue} (h : Keeps s u) :
    DoneKeeps s (convertBody slips u x q) := by
  unfold Machine.convertBody
  refine .within fun a _ => ?_
  split
  · refine .within fun a he2 => ?_
    refine .within fun _ _ => ?_
    split
    · exact .paired h fun _ => .writing h fun _ _ => .writing h fun _ he5 => .ok (h.writeTensor he5)
    · exact .stop

theorem OutKeeps.execConvert {c : Nat} {slips : List TagSlip} (h : Keeps s u) : OutKeeps s (execConvert c slips u) :=
  .act h (h.runCmd fun _ _ _ hv => .convertBody hv)

end

/-! ### The functions of `Sys2Proof/Machine/Matrix.lean` -/

section
variable {s u t : State}

theorem Keeps.markSlots {engines : List Nat} {slot : Nat} {x : SlotState} (h : Keeps s u) :
    Keeps s (markSlots u engines slot x) :=
  h.foldl fun _ _ hv => hv.modEng

theorem Keeps.discardArray {queue slot : Nat} {engines : List Nat} (h : Keeps s u) :
    Keeps s (discardArray u queue slot engines) :=
  h.markSlots.rest rfl

theorem DoneKeeps.startSlot {c : Nat} {x : Cmd} {q : Queue} (h : Keeps s u) : DoneKeeps s (startSlot c u x q) :=
  .within fun _ _ => .within fun _ _ => .within fun _ _ => .within fun _ _ => .within fun _ _ => .within fun _ _ =>
    .within fun _ _ => .within fun _ _ => .run (.modCmd (h.markSlots.rest rfl))

theorem OutKeeps.execMatrixMultiply {c : Nat} (h : Keeps s u) : OutKeeps s (execMatrixMultiply c u) :=
  .act h (h.runCmd fun _ _ _ hv => .startSlot hv)

theorem OutKeeps.execConvolve {c : Nat} (h : Keeps s u) : OutKeeps s (execConvolve c u) :=
  .act h (h.runCmd fun _ _ _ hv => .startSlot hv)

theorem OutKeeps.execSum {c : Nat} (h : Keeps s u) : OutKeeps s (execSum c u) :=
  .act h (h.runCmd fun _ _ _ hv => .startSlot hv)

theorem DoneKeeps.pause {c : Nat} {q : Queue} {dests : List (Nat × Nat)} {x : Stop} (h : Keeps s u) :
    DoneKeeps s (pause u c q dests x) := by
  unfold Machine.pause
  split
  · exact .run h.askPage.modCmd
  · exact .badWriting h

theorem DoneKeeps.pausing {α : Type} {c : Nat} {q : Queue} {dests : List (Nat × Nat)} {x : Try α} {k : α → Done}
    (h : Keeps s u) (hk : ∀ a, x = .ok a → DoneKeeps s (k a)) : DoneKeeps s (pausing u c q dests x k) := by
  unfold Machine.pausing
  split
  · exact hk _ rfl
  · exact .pause h

theorem Keeps.countReplays {e' n : Nat} (h : Keeps s u) : Keeps s (countReplays u e' n) :=
  h.countEngine

theorem DoneKeeps.sequenceBody {c e' elem elems lo len : Nat} {slips : List TagSlip} {x : Cmd} {q : Queue}
    (h : Keeps s u) :
    DoneKeeps s (sequenceBody c e' elem elems lo len slips u x q) := by
  unfold Machine.sequenceBody
  split
  · exact .stop
  · refine .ite .stop (.ite (.run h.issued) (.paired h fun _ => .pausing h fun _ _ => .pausing h fun _ _ => ?_))
    extract_lets r worked
    have hw : Keeps s worked := h.countReplays.passTurn.tileWork
    clear_value worked
    exact .pausing hw fun _ _ => .run (hw.rest rfl)

theorem Keeps.goOnSlot {c : Nat} {stages : List Stage} {body : State → Cmd → Queue → Done} (h : Keeps s u)
    (hbody : ∀ v a a2, Keeps s v → DoneKeeps s (body v a a2)) :
    Keeps s (goOnSlot u c stages body) := by
  unfold Machine.goOnSlot
  split
  · exact .ite (h.takeCmd fun _ _ _ hv => hbody _ _ _ hv) h
  · exact h

theorem OutKeeps.execGroupSequence {c e' elem elems lo len : Nat} {slips : List TagSlip} (h : Keeps s u) :
    OutKeeps s (execGroupSequence c e' elem elems lo len slips u) :=
  .act h (h.goOnSlot fun _ _ _ hv => .sequenceBody hv)

theorem DoneKeeps.combineBody {c : Nat} {x : Cmd} {q : Queue} (h : Keeps s u) : DoneKeeps s (combineBody c u x q) := by
  unfold Machine.combineBody
  split
  · exact .stop
  · exact .ite .stop (.pausing h.countReplays fun _ _ => .run (h.countReplays.rest rfl))

theorem OutKeeps.execPartialCombine {c : Nat} (h : Keeps s u) : OutKeeps s (execPartialCombine c u) :=
  .act h (h.goOnSlot fun _ _ _ hv => .combineBody hv)

theorem Keeps.writeDest {q : Queue} {op : Nat} {os : List Operand} {n : Nat} {base : Int} {uniform : Bool}
    {l : List (Int × Nat)} {r : State × Tally} (h : Keeps s u) (e : writeDest u q op os n base uniform l = .ok r) :
    Keeps s r.1 := by
  unfold Machine.writeDest at e
  split at e
  · cases e
  · exact .writePlan (h.rest (by rfl)) e

theorem Keeps.commitArray {x : Cmd} {j : AccJob} {l : List (Int × Nat)} (h : Keeps s u) :
    Keeps s (commitArray u x j l) :=
  .ite (h.rest rfl) (h.rest rfl)

theorem DoneKeeps.carryOut {c : Nat} {q : Queue} {j : AccJob} {x : WritePlan} {result : Tally → BitVec 128}
    {last : State → State} (h : Keeps s u) (hlast : ∀ v, Keeps s v → Keeps s (last v)) :
    DoneKeeps s (carryOut c u q j x result last) := by
  unfold Machine.carryOut
  split
  · exact .ok (hlast _ (h.foldl fun _ _ hv => hv.pokeVa))
  · exact .run (.modCmd (h.rest rfl))

theorem DoneKeeps.planned {c : Nat} {q : Queue} {dests : List (Nat × Nat)}
    {x : Try (WritePlan × Option (List (List Val)) × Nat)} {k : State → WritePlan → Done} (h : Keeps s u)
    (hk : ∀ v p, Keeps s v → DoneKeeps s (k v p)) :
    DoneKeeps s (planned c u q dests x k) :=
  .pausing h fun _ _ => .pausing h fun _ _ => hk _ _ (h.rest rfl)

theorem DoneKeeps.pieceBody {c : Nat} {x : Cmd} {q : Queue} {j : AccJob} {l : List (Int × Nat)} (h : Keeps s u) :
    DoneKeeps s (pieceBody c u x q j l) :=
  .pausing h fun _ _ => .pausing h fun _ he2 => .run (.rest (.writePlan (h.rest (by rfl)) he2) rfl)

theorem DoneKeeps.commitBody {c : Nat} {slips : List TagSlip} {x : Cmd} {q : Queue} (h : Keeps s u) :
    DoneKeeps s (commitBody c slips u x q) := by
  unfold Machine.commitBody
  split
  · exact .stop
  · split
    · exact .stop
    · dsimp only
      split
      · exact .carryOut h fun _ hv => hv
      · exact .paired h fun _ => .ite (.pieceBody h) (.planned h fun _ _ hv => .carryOut hv.commitArray fun _ hv2 =>
          hv2)

theorem OutKeeps.execAccumulatorCommit {c : Nat} {slips : List TagSlip} (h : Keeps s u) :
    OutKeeps s (execAccumulatorCommit c slips u) :=
  .act h (h.goOnSlot fun _ _ _ hv => .commitBody hv)

theorem DoneKeeps.writeOutWrite {c : Nat} {slips : List TagSlip} {x : Cmd} {q : Queue} {j : AccJob} (h : Keeps s u) :
    DoneKeeps s (writeOutWrite c slips u x q j) := by
  unfold Machine.writeOutWrite
  dsimp only
  split
  · exact .stop
  · split
    · exact .carryOut h fun _ hv => .ite hv (hv.rest rfl)
    · exact .paired h fun _ => .planned h fun _ _ hv => .carryOut hv fun _ hv2 => .ite hv2 (hv2.rest rfl)

theorem DoneKeeps.writeOutBody {c : Nat} {slips : List TagSlip} {x : Cmd} {q : Queue} (h : Keeps s u) :
    DoneKeeps s (writeOutBody c slips u x q) := by
  unfold Machine.writeOutBody
  dsimp only
  split
  · exact .writeOutWrite h
  · refine .within fun a he => ?_
    refine .within fun _ _ => .within fun _ _ => .within fun _ _ => .within fun _ _ => .within fun _ _ => ?_
    split
    · exact .within fun _ _ => .within fun _ _ => .writeOutWrite (.modCmd (h.markSlots.rest rfl))
    · exact .stop

theorem OutKeeps.execWriteOut {c : Nat} {slips : List TagSlip} (h : Keeps s u) : OutKeeps s (execWriteOut c slips u) :=
  .act h (h.takeCmd fun _ _ _ hv => .writeOutBody hv)

theorem OutKeeps.execRelease {c : Nat} (h : Keeps s u) : OutKeeps s (execRelease c u) :=
  .act h (h.runCmd fun _ _ _ hv => .within fun _ _ => .within fun _ _ => .ok hv.discardArray)

theorem DoneKeeps.combinePartialsBody {slips : List TagSlip} {x : Cmd} {q : Queue} (h : Keeps s u) :
    DoneKeeps s (combinePartialsBody slips u x q) := by
  unfold Machine.combinePartialsBody
  dsimp only
  refine .within fun _ _ => .within fun _ _ => .within fun _ _ => .within fun _ _ => .within fun _ _ =>
    .within fun _ _ => .within fun _ _ => ?_
  split
  · exact .stop
  · exact .paired h fun _ => .writing h.countReplays fun _ _ => .writing h.countReplays fun _ he9 => .ok
      (h.countReplays.writeDest he9)

theorem OutKeeps.execCombinePartials {c : Nat} {slips : List TagSlip} (h : Keeps s u) :
    OutKeeps s (execCombinePartials c slips u) :=
  .act h (h.runCmd fun _ _ _ hv => .combinePartialsBody hv)

theorem DoneKeeps.topKBody {slips : List TagSlip} {x : Cmd} {q : Queue} (h : Keeps s u) :
    DoneKeeps s (topKBody slips u x q) := by
  unfold Machine.topKBody
  dsimp only
  refine .within fun a _ => .within fun a _ => .within fun a _ => .within fun a _ => .within fun a _ =>
    .within fun a _ => ?_
  split
  · refine .within fun a he7 => ?_
    refine .within fun a _ => ?_
    split
    · refine .paired h fun a => ?_
      refine .writing h fun a he9 => ?_
      split
      · exact .badWriting h
      · split
        · refine .writing h fun a he9 => ?_
          split
          · exact .writing h fun _ he10 => .ok (.writeTensor (h.writeTensor he9) he10)
          · exact .ok (h.writeTensor he9)
        · exact .stop
    · exact .stop
  · exact .stop

theorem OutKeeps.execTopK {c : Nat} {slips : List TagSlip} (h : Keeps s u) : OutKeeps s (execTopK c slips u) :=
  .act h (h.runCmd fun _ _ _ hv => .topKBody hv)

end

/-! ### The functions of `Sys2Proof/Machine/Collective.lean` -/

section
variable {s u t : State}

theorem DoneKeeps.onFlowOf {c : Nat} {x : Cmd} {fields : List (Nat × Bool)} {k : State → Done} (h : Keeps s u)
    (hk : ∀ v, Keeps s v → DoneKeeps s (k v)) :
    DoneKeeps s (onFlowOf u c x fields k) :=
  .within fun _ _ => .within fun _ _ => .keeping h.claimAtStart (hk _ h.claimAtStart)

theorem Keeps.collective {c opcode : Nat} {start further : State → Cmd → Queue → Done} (h : Keeps s u)
    (hstart : ∀ v a a2, Keeps s v → DoneKeeps s (start v a a2))
    (hfurther : ∀ v a a2, Keeps s v → DoneKeeps s (further v a a2)) :
    Keeps s (collective u c opcode start further) := by
  unfold Machine.collective
  split
  · exact .ite (h.goOn fun _ _ _ hv => hfurther _ _ _ hv) (h.runCmd fun _ _ _ hv => hstart _ _ _ hv)
  · exact h

theorem DoneKeeps.pairedWire {x : Cmd} {q : Queue} {xs : List Contribution} {dests : List (Nat × Nat)} {k : Unit → Done}
    (h : Keeps s u) (hk : ∀ a, DoneKeeps s (k a)) :
    DoneKeeps s (pairedWire u x q xs dests k) :=
  .unslipped h fun _ => hk _

theorem Keeps.offer {flow : Nat} {b : List Byte} (h : Keeps s u) : Keeps s (offer u flow b) :=
  h.handOver.setRx

theorem Keeps.takeContribution {flow m num : Nat} {x : Tensor} {r : Contribution × State} (h : Keeps s u)
    (e : takeContribution u flow m num x = some r) : Keeps s r.2 := by
  unfold Machine.takeContribution at e
  split at e
  · cases e
  · split at e
    · cases e
    · next e' =>
      cases e
      exact h.takeRx e'

theorem Keeps.takeAll {flow : Nat} {x : Tensor} {ms : List Nat} {r : List Contribution × State} (h : Keeps s u)
    (e : takeAll flow x u ms = some r) : Keeps s r.2 := by
  induction ms generalizing u r with
  | nil =>
    cases e
    exact h
  | cons m ms ih =>
    unfold Machine.takeAll at e
    split at e
    · cases e
    · next e₁ =>
      split at e
      · cases e
      · next e₂ =>
        cases e
        have hl := ih (h.takeContribution e₁) e₂
        exact hl

theorem DoneKeeps.sourced {slips : List TagSlip} {x : Cmd} {q : Queue} {a : Operand} {k : List Byte → Done}
    (h : Keeps s u) (hk : ∀ a, DoneKeeps s (k a)) :
    DoneKeeps s (sourced slips u x q a k) := by
  unfold Machine.sourced
  refine .within fun _ _ => ?_
  split
  · exact .paired h fun _ => .within fun _ _ => hk _
  · exact .stop

theorem DoneKeeps.allReduceStart {c : Nat} {slips : List TagSlip} {x : Cmd} {q : Queue} (h : Keeps s u) :
    DoneKeeps s (allReduceStart c slips u x q) := by
  unfold Machine.allReduceStart
  dsimp only
  refine .onFlowOf h fun v hv => ?_
  refine .within fun _ _ => .within fun _ _ => ?_
  split
  · exact .within fun _ _ => .within fun _ _ => .within fun _ _ => .within fun _ _ => .sourced hv fun _ => .run
      (.offer (hv.rest rfl))
  · exact .stop

theorem DoneKeeps.allReduceFurther {c : Nat} {slips : List TagSlip} {x : Cmd} {q : Queue} (h : Keeps s u) :
    DoneKeeps s (allReduceFurther c slips u x q) := by
  unfold Machine.allReduceFurther
  dsimp only
  split
  · split
    · exact .badWriting h
    · split
      · exact .stop
      · next e =>
        refine .unslipped (h.takeAll e) fun a => ?_
        split
        · exact .badWriting (.countReplays (h.takeAll e))
        · split
          · next e2 => exact .ok (.writeDest (.countReplays (h.takeAll e)) e2)
          · exact .pause h
          · exact .badWriting (.countReplays (h.takeAll e))
  · exact .stop

theorem OutKeeps.execAllReduce {c : Nat} {slips : List TagSlip} (h : Keeps s u) :
    OutKeeps s (execAllReduce c slips u) :=
  .act h (h.collective (fun _ _ _ hv => .allReduceStart hv) fun _ _ _ hv => .allReduceFurther hv)

theorem DoneKeeps.allGatherStart {c : Nat} {slips : List TagSlip} {x : Cmd} {q : Queue} (h : Keeps s u) :
    DoneKeeps s (allGatherStart c slips u x q) :=
  .onFlowOf h fun _ hv => .within fun _ _ => .within fun _ _ => .sourced hv fun _ => .run (.offer (hv.rest rfl))

theorem Keeps.writeParts {q : Queue} {dst : Tensor} {xs : List Contribution} (h : Keeps s u)
    (e : writeParts u q dst xs = .ok t) : Keeps s t := by
  unfold Machine.writeParts at e
  extract_lets side cap im word first w at e
  split at e
  · cases e
  · exact .writeRuns (h.rest (by rfl)) e

theorem DoneKeeps.allGatherFurther {c : Nat} {x : Cmd} {q : Queue} (h : Keeps s u) :
    DoneKeeps s (allGatherFurther c u x q) := by
  unfold Machine.allGatherFurther
  dsimp only
  split
  · split
    · exact .badWriting h
    · split
      · exact .stop
      · next e =>
        exact .pairedWire (h.takeAll e) fun _ => .pausing h fun _ he => .ok (.writeParts (h.takeAll e) he)
  · exact .stop

theorem OutKeeps.execAllGather {c : Nat} {slips : List TagSlip} (h : Keeps s u) :
    OutKeeps s (execAllGather c slips u) :=
  .act h (h.collective (fun _ _ _ hv => .allGatherStart hv) fun _ _ _ hv => .allGatherFurther hv)

theorem DoneKeeps.sendStart {c : Nat} {slips : List TagSlip} {x : Cmd} {q : Queue} (h : Keeps s u) :
    DoneKeeps s (sendStart c slips u x q) := by
  unfold Machine.sendStart
  refine .onFlowOf h fun v hv => ?_
  refine .within fun _ _ => .within fun _ _ => .within fun _ _ => .within fun _ _ => ?_
  split
  · exact .sourced hv fun _ => .run hv.handOver
  · exact .stop

theorem DoneKeeps.sendFurther {x : Cmd} {x' : Queue} (h : Keeps s u) : DoneKeeps s (sendFurther u x x') :=
  .ite (.ok h) .stop

theorem OutKeeps.execSend {c : Nat} {slips : List TagSlip} (h : Keeps s u) : OutKeeps s (execSend c slips u) :=
  .act h (h.collective (fun _ _ _ hv => .sendStart hv) fun _ _ _ hv => .sendFurther hv)

theorem DoneKeeps.receiveStart {c : Nat} {x : Cmd} {q : Queue} (h : Keeps s u) : DoneKeeps s (receiveStart c u x q) :=
  .onFlowOf h fun _ hv => .within fun _ _ => .within fun _ _ => .within fun _ _ => .within fun _ _ => .run (hv.rest rfl)

theorem DoneKeeps.receiveFurther {c : Nat} {x : Cmd} {q : Queue} (h : Keeps s u) :
    DoneKeeps s (receiveFurther c u x q) := by
  unfold Machine.receiveFurther
  dsimp only
  split
  · split
    · exact .badWriting h
    · split
      · exact .stop
      · next e =>
        exact .pairedWire (h.takeContribution e) fun _ => .pausing h fun _ he => .ok
          (.writeParts (h.takeContribution e) he)
  · exact .stop

theorem OutKeeps.execReceive {c : Nat} (h : Keeps s u) : OutKeeps s (execReceive c u) :=
  .act h (h.collective (fun _ _ _ hv => .receiveStart hv) fun _ _ _ hv => .receiveFurther hv)

theorem DoneKeeps.boundaryStart {c : Nat} {x : Cmd} {q : Queue} (h : Keeps s u) :
    DoneKeeps s (boundaryStart c u x q) := by
  unfold Machine.boundaryStart
  refine .within fun _ _ => .keeping h.claimAtStart (.within fun _ _ => .within fun _ _ => .within fun a _ => ?_)
  obtain ⟨l, p, place⟩ := a
  have hd : ∀ l first, DoneKeeps s (Machine.startLaunch c (claimAtStart u c x) x q l p place first) :=
    fun _ _ => .startLaunch h.claimAtStart
  dsimp only
  split
  · next e =>
    have hv := e ▸ hd _ _
    cases hv with
    | run ht => exact .ite (.run ht) (.run ht.beginStream)
  · exact hd _ _

theorem OutKeeps.execBoundaryExchange {c : Nat} (h : Keeps s u) : OutKeeps s (execBoundaryExchange c u) :=
  .act h (h.runCmd fun _ _ _ hv => .boundaryStart hv)

theorem DoneKeeps.scheduleLoadBody {c : Nat} {x : Cmd} {q : Queue} (h : Keeps s u) :
    DoneKeeps s (scheduleLoadBody c u x q) := by
  unfold Machine.scheduleLoadBody
  dsimp only
  refine .within fun _ _ => .within fun _ _ => .within fun _ _ => .within fun _ _ => .within fun _ _ =>
    .within fun _ _ => ?_
  split
  · split
    · exact .stop
    · exact .within fun _ _ => .ok (h.rest rfl)
  · exact .run h.imageTo.modCmd

theorem OutKeeps.execScheduleLoad {c : Nat} (h : Keeps s u) : OutKeeps s (execScheduleLoad c u) :=
  .act h (h.runCmd fun _ _ _ hv => .scheduleLoadBody hv)

theorem DoneKeeps.scheduleArmBody {c : Nat} {x : Cmd} {x' : Queue} (h : Keeps s u) :
    DoneKeeps s (scheduleArmBody c u x x') := by
  unfold Machine.scheduleArmBody
  dsimp only
  refine .within fun _ _ => .within fun _ _ => ?_
  split
  · exact .stop
  · exact .within fun _ _ => .ite (.ok (h.rest rfl)) (.run (.modCmd (.tellMembers (h.rest rfl))))

theorem OutKeeps.execScheduleArm {c : Nat} (h : Keeps s u) : OutKeeps s (execScheduleArm c u) :=
  .act h (h.runCmd fun _ _ _ hv => .scheduleArmBody hv)

end

/-! ### The functions of `Sys2Proof/Machine/Control.lean` -/

section
variable {s u t : State}

theorem OutKeeps.execNoOp {c : Nat} (h : Keeps s u) : OutKeeps s (execNoOp c u) :=
  .act h (h.runCmd fun _ _ _ hv => .ok hv)

theorem DoneKeeps.fenceWaitBody {x : Cmd} {q : Queue} (h : Keeps s u) : DoneKeeps s (fenceWaitBody u x q) := by
  unfold Machine.fenceWaitBody
  refine .within fun _ _ => ?_
  split
  · exact .ok h
  · exact .run h

theorem OutKeeps.execFenceWait {c : Nat} (h : Keeps s u) : OutKeeps s (execFenceWait c u) :=
  .act h (h.runCmd fun _ _ _ hv => .fenceWaitBody hv)

theorem OutKeeps.execFenceWaitSatisfied {c : Nat} (h : Keeps s u) : OutKeeps s (execFenceWaitSatisfied c u) :=
  .act h (h.goOn fun _ _ _ hv => .fenceWaitBody hv)

theorem Keeps.writeMirror {f : Fence} {n : Nat} (h : Keeps s u) (e : writeMirror u f n = .ok t) : Keeps s t := by
  unfold Machine.writeMirror at e
  split at e
  · cases e
    exact h
  · exact h.writeVa e

theorem DoneKeeps.signalMirror {c : Nat} {q : Queue} {f : Fence} {v' : Nat} (h : Keeps s u) :
    DoneKeeps s (signalMirror u c q f v') := by
  unfold Machine.signalMirror
  split
  · next e => exact .ok (h.writeMirror e)
  · exact .bad h
  · exact .run h.askPage.modCmd
  · exact .run h.modCmd
  · exact .stop

theorem DoneKeeps.fenceSignalBody {c : Nat} {x : Cmd} {q : Queue} (h : Keeps s u) :
    DoneKeeps s (fenceSignalBody c u x q) := by
  unfold Machine.fenceSignalBody
  split
  · exact .stop
  · refine .within fun a he => ?_
    split
    · exact .signalMirror h
    · exact .within fun _ _ => .signalMirror h.setFence

theorem OutKeeps.execFenceSignal {c : Nat} (h : Keeps s u) : OutKeeps s (execFenceSignal c u) :=
  .act h (h.takeCmd fun _ _ _ hv => .fenceSignalBody hv)

theorem OutKeeps.execQueueBarrier {c : Nat} (h : Keeps s u) : OutKeeps s (execQueueBarrier c u) := by
  unfold Machine.execQueueBarrier
  refine .act h ?_
  refine .runCmd h fun v a a2 hv => ?_
  split
  · exact .stop
  · exact .ok hv

theorem OutKeeps.execResume {c : Nat} (h : Keeps s u) : OutKeeps s (execResume c u) :=
  .act h (h.runCmd fun _ _ _ hv => .ok (.ite hv.setQueue hv))

end

/-! ### The functions of `Sys2Proof/Machine/Fatal.lean` -/

section
variable {s u t : State}

theorem Keeps.dumpTo {p : Port} {b : List Byte} (h : Keeps s u) : Keeps s (dumpTo u p b) :=
  .ite h.write.modPort (.ite h.modPort h)

theorem Keeps.writeDump {code detail : Nat} {byH1 : Bool} (h : Keeps s u) : Keeps s (writeDump u code detail byH1) := by
  unfold Machine.writeDump
  extract_lets b v v1 _
  have hv : Keeps s v := h.dumpTo.dumpTo
  clear_value v
  have hv1 : Keeps s v1 := hv.write
  clear_value v1
  exact hv1.rest rfl

theorem Keeps.killAll (h : Keeps s u) : Keeps s (killAll u) :=
  .rest (h.foldl fun _ _ hv => hv.scrambleDests.cutOffStore.releaseFlows) rfl

theorem Keeps.fatalOn {code detail die : Nat} (h : Keeps s u) : Keeps s (fatalOn u code detail die) := by
  unfold Machine.fatalOn
  split
  · exact h
  · extract_lets byH1 v _ v1 v2 v3
    have hv : Keeps s v := h.logOnDie
    clear_value v
    have hv1 : Keeps s v1 := hv.rest rfl
    clear_value v1
    have hv2 : Keeps s v2 := hv1.msixTrigger.msixTrigger
    clear_value v2
    have hv3 : Keeps s v3 := hv2.writeDump.killAll
    clear_value v3
    exact .ite (hv3.rest rfl) hv3

theorem Keeps.fatal {code detail : Nat} (h : Keeps s u) : Keeps s (fatal u code detail) :=
  h.fatalOn

end

/-! ### The functions of `Sys2Proof/Machine/Task.lean` -/

section
variable {s u t : State}

theorem Keeps.setTask {e' : Nat} {t' : Task} (h : Keeps s u) : Keeps s (setTask u e' t') :=
  h.modEng

theorem Keeps.undoneRecords {l : List Handed} (h : Keeps s u) : Keeps s (undoneRecords u l) := by
  induction l generalizing u with
  | nil => exact h
  | cons r l ih =>
    unfold Machine.undoneRecords
    split
    · exact ih h
    · exact ih h.putRecord

theorem Keeps.dropTask {e' : Nat} (h : Keeps s u) : Keeps s (dropTask u e') :=
  h.modEng

theorem Keeps.endWaits {e' : Nat} {t' : Task} {wait : Option (Nat × Nat) → TaskWait} {u2 : State} {x : Stop}
    (h : Keeps s u) (h2 : Keeps s u2) :
    Keeps s (endWaits u e' t' wait u2 x) := by
  unfold Machine.endWaits
  split
  · exact h.setTask.askPage
  · exact .ite h.setTask h2
  · exact h2

theorem Keeps.mirrorEnd {e' : Nat} {t' : Task} {v' : Nat} (h : Keeps s u) : Keeps s (mirrorEnd u e' t' v') := by
  unfold Machine.mirrorEnd
  split
  · exact h.dropTask
  · split
    · next e => exact .dropTask (h.writeMirror e)
    · exact h.endWaits h.dropTask

theorem Keeps.closeTask {e' : Nat} {t' : Task} (h : Keeps s u) : Keeps s (closeTask u e' t') := by
  unfold Machine.closeTask
  dsimp only
  split
  · exact h.clear.undoneRecords.dropTask
  · split
    · exact h.clear.undoneRecords.dropTask
    · exact h.clear.undoneRecords.setFence.mirrorEnd

theorem Keeps.recordEnd {e' : Nat} {t' : Task} {fault : Nat} (h : Keeps s u) : Keeps s (recordEnd u e' t' fault) := by
  unfold Machine.recordEnd
  split
  · exact h.closeTask
  · split
    · exact h.closeTask
    · split
      · next e => exact .closeTask (h.writeVa e)
      · exact h.endWaits h.closeTask

theorem Keeps.endTask {e' fault : Nat} (h : Keeps s u) : Keeps s (endTask u e' fault) := by
  unfold Machine.endTask
  split
  · exact h
  · split
    · exact h.recordEnd
    · exact h.mirrorEnd
    · exact h.recordEnd

theorem Keeps.taskStop {e' : Nat} {t' : Task} {x : Stop} (h : Keeps s u) : Keeps s (taskStop u e' t' x) := by
  unfold Machine.taskStop
  split
  · exact h.setTask.askPage
  · exact h
  · exact h.endTask
  · exact h.endTask
  · exact h.endTask

theorem Keeps.runInstr {e' : Nat} {isOp : Nat → Bool} {f : State → Task → Nat → State} (h : Keeps s u)
    (hf : ∀ v a a2, Keeps s v → Keeps s (f v a a2)) :
    Keeps s (runInstr u e' isOp f) := by
  unfold Machine.runInstr
  split
  · exact h
  · exact .ite (hf _ _ _ h) h

theorem Keeps.regOp {e' op : Nat} {f : DWord → DWord → DWord} (h : Keeps s u) : Keeps s (regOp u e' op f) :=
  h.runInstr fun _ _ _ hv => hv.setTask

theorem Keeps.branchTo {e' : Nat} {t' : Task} {w : Nat} {taken : Bool} (h : Keeps s u) :
    Keeps s (branchTo u e' t' w taken) :=
  .ite h.setTask (.ite h.endTask h.setTask)

theorem Keeps.compareBranch {e' op : Nat} {f : DWord → DWord → Bool} (h : Keeps s u) :
    Keeps s (compareBranch u e' op f) :=
  h.runInstr fun _ _ _ hv => hv.branchTo

theorem Keeps.atomicOp {e' op : Nat} {f : DWord → DWord → DWord} (h : Keeps s u) : Keeps s (atomicOp u e' op f) :=
  h.runInstr fun _ _ _ hv => .ite hv.write.setTask hv.endTask

theorem OutKeeps.execTaskHalt {e' : Nat} (h : Keeps s u) : OutKeeps s (execTaskHalt e' u) :=
  .act h (h.runInstr fun _ _ _ hv => hv.endTask)

theorem OutKeeps.execTaskAdd {e' : Nat} (h : Keeps s u) : OutKeeps s (execTaskAdd e' u) :=
  .act h h.regOp

theorem OutKeeps.execTaskSub {e' : Nat} (h : Keeps s u) : OutKeeps s (execTaskSub e' u) :=
  .act h h.regOp

theorem OutKeeps.execTaskAnd {e' : Nat} (h : Keeps s u) : OutKeeps s (execTaskAnd e' u) :=
  .act h h.regOp

theorem OutKeeps.execTaskOr {e' : Nat} (h : Keeps s u) : OutKeeps s (execTaskOr e' u) :=
  .act h h.regOp

theorem OutKeeps.execTaskXor {e' : Nat} (h : Keeps s u) : OutKeeps s (execTaskXor e' u) :=
  .act h h.regOp

theorem OutKeeps.execTaskShl {e' : Nat} (h : Keeps s u) : OutKeeps s (execTaskShl e' u) :=
  .act h h.regOp

theorem OutKeeps.execTaskShr {e' : Nat} (h : Keeps s u) : OutKeeps s (execTaskShr e' u) :=
  .act h h.regOp

theorem OutKeeps.execTaskMul {e' : Nat} (h : Keeps s u) : OutKeeps s (execTaskMul e' u) :=
  .act h h.regOp

theorem OutKeeps.execTaskAddi {e' : Nat} (h : Keeps s u) : OutKeeps s (execTaskAddi e' u) :=
  .act h (h.runInstr fun _ _ _ hv => hv.setTask)

theorem OutKeeps.execTaskLdw {e' : Nat} (h : Keeps s u) : OutKeeps s (execTaskLdw e' u) :=
  .act h (h.runInstr fun _ _ _ hv => hv.setTask)

theorem OutKeeps.execTaskLd {e' : Nat} (h : Keeps s u) : OutKeeps s (execTaskLd e' u) :=
  .act h (h.runInstr fun _ _ _ hv => .ite hv.setTask hv.endTask)

theorem OutKeeps.execTaskSt {e' : Nat} (h : Keeps s u) : OutKeeps s (execTaskSt e' u) :=
  .act h (h.runInstr fun _ _ _ hv => .ite hv.write.setTask hv.endTask)

theorem OutKeeps.execTaskAadd {e' : Nat} (h : Keeps s u) : OutKeeps s (execTaskAadd e' u) :=
  .act h h.atomicOp

theorem OutKeeps.execTaskAswp {e' : Nat} (h : Keeps s u) : OutKeeps s (execTaskAswp e' u) :=
  .act h h.atomicOp

theorem OutKeeps.execTaskBeq {e' : Nat} (h : Keeps s u) : OutKeeps s (execTaskBeq e' u) :=
  .act h h.compareBranch

theorem OutKeeps.execTaskBne {e' : Nat} (h : Keeps s u) : OutKeeps s (execTaskBne e' u) :=
  .act h h.compareBranch

theorem OutKeeps.execTaskBlt {e' : Nat} (h : Keeps s u) : OutKeeps s (execTaskBlt e' u) :=
  .act h h.compareBranch

theorem OutKeeps.execTaskBltu {e' : Nat} (h : Keeps s u) : OutKeeps s (execTaskBltu e' u) :=
  .act h h.compareBranch

theorem OutKeeps.execTaskLoop {e' : Nat} (h : Keeps s u) : OutKeeps s (execTaskLoop e' u) :=
  .act h (h.runInstr fun _ _ _ hv => hv.branchTo)

theorem Keeps.handOut {e' : Nat} {t' : Task} {i : Nat} {q : Queue} {addr reg : Nat} (h : Keeps s u) :
    Keeps s (handOut u e' t' i q addr reg) := by
  unfold Machine.handOut
  split
  · exact .ite h.setQueue.write.setTask h.setTask
  · exact h.setTask

theorem OutKeeps.execTaskWaitq {e' : Nat} (h : Keeps s u) : OutKeeps s (execTaskWaitq e' u) := by
  unfold Machine.execTaskWaitq
  refine .act h ?_
  refine .runInstr h fun v a a2 hv => ?_
  split
  · exact hv.endTask
  · exact .ite hv.handOut hv.endTask

theorem OutKeeps.execWaitqSatisfied {e' : Nat} (h : Keeps s u) : OutKeeps s (execWaitqSatisfied e' u) := by
  unfold Machine.execWaitqSatisfied
  refine .act h ?_
  split
  · split
    · split
      · exact h.handOut
      · exact h
    · exact h
  · exact h

theorem Keeps.placeDesc {i : Nat} {q : Queue} {b : List Byte} (h : Keeps s u) (e : placeDesc u i q b = .placed t) :
    Keeps s t := by
  unfold Machine.placeDesc at e
  split at e
  · cases e
  · split at e
    · next e' =>
      cases e
      exact (h.writeVa e').setQueue
    · cases e

theorem OutKeeps.execTaskEnq {e' : Nat} (h : Keeps s u) : OutKeeps s (execTaskEnq e' u) := by
  unfold Machine.execTaskEnq
  refine .act h ?_
  refine .runInstr h fun v a a2 hv => ?_
  split
  · exact hv.endTask
  · dsimp only
    split
    · exact hv.endTask
    · split
      · next e => exact .setTask (hv.placeDesc e)
      · exact hv.setTask
      · exact hv.taskStop

theorem OutKeeps.execTaskWaitf {e' : Nat} (h : Keeps s u) : OutKeeps s (execTaskWaitf e' u) := by
  unfold Machine.execTaskWaitf
  refine .act h ?_
  refine .runInstr h fun v a a2 hv => ?_
  split
  · exact hv.endTask
  · exact .ite hv.setTask hv.setTask

theorem OutKeeps.execWaitfSatisfied {e' : Nat} (h : Keeps s u) : OutKeeps s (execWaitfSatisfied e' u) := by
  unfold Machine.execWaitfSatisfied
  refine .act h ?_
  split
  · split
    · split
      · exact h.endTask
      · split
        · exact h.endTask
        · exact .ite h.setTask h
    · exact h
  · exact h

theorem OutKeeps.execTaskSigf {e' : Nat} (h : Keeps s u) : OutKeeps s (execTaskSigf e' u) := by
  unfold Machine.execTaskSigf
  refine .act h ?_
  refine .runInstr h fun v a a2 hv => ?_
  split
  · exact hv.endTask
  · dsimp only
    split
    · next e => exact .setTask (hv.setFence.writeMirror e)
    · exact hv.setFence.taskStop

theorem OutKeeps.execTaskDone {e' : Nat} (h : Keeps s u) : OutKeeps s (execTaskDone e' u) := by
  unfold Machine.execTaskDone
  refine .act h ?_
  refine .runInstr h fun v a a2 hv => ?_
  split
  · exact hv.endTask
  · dsimp only
    split
    · exact hv.endTask
    · split
      · exact hv.taskStop
      · next e => exact .putRecord (.setTask (hv.writeVa e))

theorem OutKeeps.execTaskTime {e' : Nat} (h : Keeps s u) : OutKeeps s (execTaskTime e' u) :=
  .act h (h.runInstr fun _ _ _ hv => hv.setTask)

theorem OutKeeps.execReservedInstruction {e' : Nat} (h : Keeps s u) : OutKeeps s (execReservedInstruction e' u) :=
  .act h (h.runInstr fun _ _ _ hv => hv.endTask)

theorem OutKeeps.execTaskRanWithoutWaiting {e' : Nat} (h : Keeps s u) :
    OutKeeps s (execTaskRanWithoutWaiting e' u) := by
  unfold Machine.execTaskRanWithoutWaiting
  refine .act h ?_
  split
  · exact .ite h.endTask h
  · exact h

theorem DoneKeeps.launchTaskBody {x : Cmd} {q : Queue} (h : Keeps s u) : DoneKeeps s (launchTaskBody u x q) :=
  .within fun _ _ => .within fun _ _ => .within fun _ _ => .within fun _ _ => .within fun _ _ => .within fun _ _ => .ok
    (.setTask (h.clear.rest rfl))

theorem OutKeeps.execLaunchTask {c : Nat} (h : Keeps s u) : OutKeeps s (execLaunchTask c u) :=
  .act h (h.runCmd fun _ _ _ hv => .launchTaskBody hv)

theorem DoneKeeps.enqueueBody {x : Cmd} {q : Queue} (h : Keeps s u) : DoneKeeps s (enqueueBody u x q) := by
  unfold Machine.enqueueBody
  refine .within fun a _ => ?_
  split
  · refine .within fun a he2 => ?_
    split
    · next e => exact .ok (h.placeDesc e)
    · exact .run h
    · exact .stop

theorem OutKeeps.execEnqueue {c : Nat} (h : Keeps s u) : OutKeeps s (execEnqueue c u) :=
  .act h (h.runCmd fun _ _ _ hv => .enqueueBody hv)

theorem OutKeeps.execDeviceFedSpaceAvailable {c : Nat} (h : Keeps s u) : OutKeeps s (execDeviceFedSpaceAvailable c u) :=
  .act h (h.takeCmd fun _ _ _ hv => .enqueueBody hv)

theorem DoneKeeps.stopTaskBody {x : Cmd} {q : Queue} (h : Keeps s u) : DoneKeeps s (stopTaskBody u x q) := by
  unfold Machine.stopTaskBody
  refine .within fun _ _ => ?_
  split
  · exact .ok h
  · exact .within fun _ _ => .ite (.ok h.endTask) (.run h.endTask)

theorem OutKeeps.execStopTask {c : Nat} (h : Keeps s u) : OutKeeps s (execStopTask c u) :=
  .act h (h.takeCmd fun _ _ _ hv => .stopTaskBody hv)

end

/-! ### The functions of `Sys2Proof/Machine/Start.lean` -/

section
variable {s u t : State}

theorem Keeps.takeTail {b : List Byte} {e' : Nat × Queue} (h : Keeps s u) : Keeps s (takeTail b u e') :=
  .ite h.queueError h.setQueue

theorem Keeps.waitPage {pg : Nat} {e' : Nat × Queue} (h : Keeps s u) : Keeps s (waitPage pg u e') :=
  h.modQueue

theorem Keeps.doorbellPoll {e' pasid page : Nat} (h : Keeps s u) : Keeps s (doorbellPoll u e' pasid page) := by
  unfold Machine.doorbellPoll
  split
  · exact h
  · dsimp only
    split
    · exact h
    · split
      · exact .rest (h.foldl fun _ _ hv => hv.takeTail) rfl
      · exact h.askPage.foldl fun _ _ hv => hv.waitPage
      · exact h
      · exact h.foldl fun _ _ hv => hv.queueError

theorem OutKeeps.execDoorbellPoll {e' pasid page : Nat} (h : Keeps s u) :
    OutKeeps s (execDoorbellPoll e' pasid page u) :=
  .act h (.ite h.doorbellPoll h)

theorem Keeps.descriptorRead {i : Nat} (h : Keeps s u) : Keeps s (descriptorRead u i) := by
  unfold Machine.descriptorRead
  split
  · exact h
  · dsimp only
    split
    · exact h
    · split
      · exact h
      · split
        · exact h.modEng.setQueue
        · exact h.modEng.askPage.waitPage
        · exact h.modEng
        · exact h.modEng.queueError

theorem OutKeeps.execDescriptorRead {q : Nat} (h : Keeps s u) : OutKeeps s (execDescriptorRead q u) :=
  .act h (.ite h.descriptorRead h)

theorem Keeps.startCmd {i : Nat} {q : Queue} {x : Cmd} (h : Keeps s u) : Keeps s (startCmd u i q x) := by
  unfold Machine.startCmd
  dsimp only
  split
  · exact .setCmd (h.rest rfl)
  · exact .settle (.setCmd (h.rest rfl)) .stop

theorem Keeps.commandStart {i : Nat} (h : Keeps s u) : Keeps s (commandStart u i) := by
  unfold Machine.commandStart
  split
  · exact h
  · split
    · exact h
    · exact .ite (.ite h (.ite (.ite h.setQueue.startCmd h) h.setQueue.putRecord)) (.ite h.setQueue.startCmd h)

theorem OutKeeps.execCommandStart {q : Nat} (h : Keeps s u) : OutKeeps s (execCommandStart q u) :=
  .act h (.ite h.commandStart h)

theorem Keeps.pcieViolation {p : Port} {code : Nat} (h : Keeps s u) : Keeps s (pcieViolation u p code) :=
  h.countPort.logOnPort

theorem Keeps.hostAccess {c va len : Nat} {write : Bool} (h : Keeps s u) : Keeps s (hostAccess u c va len write) := by
  unfold Machine.hostAccess
  split
  · exact h
  · split
    · exact h
    · split
      · exact h
      · split
        · exact h.settle (.badWriting h)
        · split
          · exact h
          · split
            · split
              · exact h
              · dsimp only
                split
                · exact h.setPort
                · exact h
            · exact h.askPage.modCmd
            · exact h

theorem OutKeeps.execHostAccess {c va len : Nat} {write : Bool} (h : Keeps s u) :
    OutKeeps s (execHostAccess c va len write u) :=
  .act h h.hostAccess

theorem Keeps.taskRefused {code e' : Nat} (h : Keeps s u) : Keeps s (taskRefused code u e') := by
  unfold Machine.taskRefused
  split
  · exact h
  · split
    · exact h.closeTask
    · exact h.dropTask
    · exact h.endTask

theorem Keeps.endWait {pasid page : Nat} {write : Bool} {c : Nat} (h : Keeps s u) :
    Keeps s (endWait pasid page write u c) :=
  h.modCmd

theorem Keeps.refuseUser {p : Port} {pasid page : Nat} {code : Bool → Nat} {u' : PageUser × Bool} (h : Keeps s u) :
    Keeps s (refuseUser p pasid page code u u') := by
  unfold Machine.refuseUser
  split
  · exact h.endWait.faultCmd
  · exact .ite h.modQueue.queueError h
  · exact .ite h.taskRefused h

theorem Keeps.refusePage {p : Port} {pasid page : Nat} {code : Bool → Nat} {us : List (PageUser × Bool)}
    (h : Keeps s u) :
    Keeps s (refusePage u p pasid page code us) :=
  h.foldl fun _ _ hv => hv.refuseUser

theorem Keeps.resumeQueue {page : Nat} {write : Bool} {i : Nat} (h : Keeps s u) :
    Keeps s (resumeQueue page write u i) := by
  unfold Machine.resumeQueue
  split
  · exact .ite h.setQueue.flushRecords h.setQueue
  · exact h

theorem Keeps.resumeTask {e' : Nat} (h : Keeps s u) : Keeps s (resumeTask u e') := by
  unfold Machine.resumeTask
  split
  · exact h
  · split
    · exact h.setTask
    · exact h.endTask

theorem Keeps.resumeUser {p : Port} {pasid page : Nat} {u' : PageUser × Bool} (h : Keeps s u) :
    Keeps s (resumeUser p pasid page u u') := by
  unfold Machine.resumeUser
  split
  · exact h.endWait
  · exact .ite h.resumeQueue h
  · exact .ite h.resumeTask h

theorem Keeps.askRequest {p : Port} {w : PageWait} (h : Keeps s u) : Keeps s (askRequest u p w) :=
  .ite h.refusePage (.ite h.setPort.request h.setPort)

theorem Keeps.dropRequest {p : Port} {w : PageWait} (h : Keeps s u) : Keeps s (dropRequest u p w) := by
  unfold Machine.dropRequest
  dsimp only
  split
  · split
    · exact h.setPort.request
    · exact h.setPort
  · exact h.setPort

theorem Keeps.atsCompletion {p : Port} {pasid page : Nat} {readable writable : Bool} (h : Keeps s u) :
    Keeps s (atsCompletion u p pasid page readable writable) := by
  unfold Machine.atsCompletion
  extract_lets x
  split
  · exact h
  · extract_lets erased cached readers writers resumed reads writes left
    have he : Keeps s erased := h.setPort
    clear_value erased
    have hc : Keeps s cached := .ite he he.modPort
    clear_value cached
    have hr : Keeps s resumed := hc.foldl fun _ _ hv => hv.resumeUser
    clear_value resumed
    exact .ite he (.ite hr (.ite hr.refusePage hr.askRequest))

theorem OutKeeps.execAtsTranslationCompletion {p : Port} {pasid page : Nat} {readable writable : Bool} (h : Keeps s u) :
    OutKeeps s (execAtsTranslationCompletion p pasid page readable writable u) :=
  .act h h.atsCompletion

theorem Keeps.prgResponse {p : Port} {pasid page : Nat} {code : PrgCode} (h : Keeps s u) :
    Keeps s (prgResponse u p pasid page code) := by
  unfold Machine.prgResponse
  split
  · exact h.pcieViolation
  · next w _ =>
    extract_lets dropped refuse
    have hd : Keeps s dropped := h.dropRequest
    clear_value dropped
    have hrefuse (v : State) (hv : Keeps s v) : Keeps s (refuse v) := .ite hv hv.refusePage
    clear_value refuse
    split
    · exact .ite hd hd.modPort.request
    · exact hrefuse _ hd
    · exact .foldl (hrefuse _ hd.modPort.pcieViolation.modPort) fun _ _ hv => hv.refusePage

theorem OutKeeps.execPrgResponse {p : Port} {pasid page : Nat} {code : PrgCode} (h : Keeps s u) :
    OutKeeps s (execPrgResponse p pasid page code u) :=
  .act h h.prgResponse

theorem OutKeeps.execPageRequestTimeout {p : Port} {pasid page : Nat} (h : Keeps s u) :
    OutKeeps s (execPageRequestTimeout p pasid page u) := by
  unfold Machine.execPageRequestTimeout
  refine .act h ?_
  split
  · exact h
  · exact .ite h.dropRequest h.dropRequest.refusePage

theorem Keeps.invalidate {p : Port} {pasid page pages : Nat} (h : Keeps s u) :
    Keeps s (invalidate u p pasid page pages) :=
  .ite h.setPort h.setPort

theorem Keeps.nextInvalidation {p : Port} (h : Keeps s u) : Keeps s (nextInvalidation u p) := by
  unfold Machine.nextInvalidation
  split
  · exact h
  · exact h.modPort.invalidate

theorem OutKeeps.execAtsInvalidationRequest {p : Port} {pasid page pages : Nat} (h : Keeps s u) :
    OutKeeps s (execAtsInvalidationRequest p pasid page pages u) :=
  .act h h.invalidate

theorem OutKeeps.execInvalidationDrainEnd {p : Port} (h : Keeps s u) : OutKeeps s (execInvalidationDrainEnd p u) := by
  unfold Machine.execInvalidationDrainEnd
  refine .act h ?_
  split
  · exact h
  · exact .nextInvalidation (.request (h.modPort.foldl fun _ _ hv => hv.modPort.faultCmd))

theorem Keeps.contextSave {e' : Nat} (h : Keeps s u) : Keeps s (contextSave u e') :=
  .ite h (h.setEng.foldl fun _ _ hv => hv.modCmd)

theorem OutKeeps.execContextSave {e' : Nat} (h : Keeps s u) : OutKeeps s (execContextSave e' u) :=
  .act h h.contextSave

theorem Keeps.changeArray {f : AccArray → AccArray} {x : SlotState × Nat} (h : Keeps s u) :
    Keeps s (changeArray f u x) := by
  unfold Machine.changeArray
  split
  · exact h.rest rfl
  · exact h

theorem Keeps.loseKept {slots : List SlotState} (h : Keeps s u) : Keeps s (loseKept slots u) :=
  h.foldl fun _ _ hv => hv.changeArray

theorem Keeps.restartTables {e' : Nat} (h : Keeps s u) : Keeps s (restartTables e' u) :=
  h.rest rfl

theorem Keeps.reloadSums {e' : Nat} {x : SlotState} {im : SlotImage} (h : Keeps s u) :
    Keeps s (reloadSums e' u x im) := by
  unfold Machine.reloadSums
  split
  · split
    · exact h.rest rfl
    · exact h
  · exact h

theorem Keeps.reloadImages {e' : Nat} {k : SavedContext} (h : Keeps s u) : Keeps s (reloadImages e' k u) := by
  unfold Machine.reloadImages
  refine .foldl h fun v a hv => ?_
  refine .reloadSums ?_
  split
  · exact hv.changeArray
  · exact hv

theorem Keeps.reloadShadow {k : SavedContext} (h : Keeps s u) : Keeps s (reloadShadow k u) := by
  unfold Machine.reloadShadow
  split
  · exact .ite (h.rest rfl) h
  · exact h

theorem Keeps.contextRestore {e' : Nat} (h : Keeps s u) : Keeps s (contextRestore u e') := by
  unfold Machine.contextRestore
  extract_lets g
  split
  · exact h
  · refine .ite h ?_
    have hr {x : Engine} : Keeps s (Machine.restartTables e' (u.setEng e' x)) := h.setEng.restartTables
    exact .ite hr.reloadImages.reloadShadow (hr.loseKept.foldl fun _ _ hv => hv.faultCmdOpen)

theorem OutKeeps.execContextRestore {e' : Nat} (h : Keeps s u) : OutKeeps s (execContextRestore e' u) :=
  .act h h.contextRestore

end

/-! ### The functions of `Sys2Proof/Machine/Graph.lean` -/

section
variable {s u t : State}

theorem Keeps.setGraph {i : Nat} {g : Graph} (h : Keeps s u) : Keeps s (u.setGraph i g) :=
  h.rest rfl

theorem Keeps.setGraphLaunch {c : Nat} {l : GraphLaunch} (h : Keeps s u) : Keeps s (u.setGraphLaunch c l) :=
  h.rest rfl

theorem DoneKeeps.graphCreateBody {x : Cmd} {q : Queue} (h : Keeps s u) : DoneKeeps s (graphCreateBody u x q) := by
  unfold Machine.graphCreateBody
  refine .within fun a _ => .within fun a _ => ?_
  dsimp only
  refine .within fun _ _ => .within fun _ _ => .within fun _ _ => .within fun _ _ => ?_
  split
  · exact .stop
  · split
    · exact .stop
    · exact .within fun _ _ => .ok (.setGraph (h.rest rfl))

theorem OutKeeps.execGraphCreate {c : Nat} (h : Keeps s u) : OutKeeps s (execGraphCreate c u) :=
  .act h (h.runCmd fun _ _ _ hv => .graphCreateBody hv)

theorem DoneKeeps.waitAt {i : Nat} {g : Graph} {c : Nat} (h : Keeps s u) : DoneKeeps s (waitAt u i g c) :=
  .held h.setGraph

theorem Keeps.leaveElement {i c : Nat} (h : Keeps s u) : Keeps s (leaveElement u i c) := by
  unfold Machine.leaveElement
  split
  · exact h.setGraph
  · exact h

theorem DoneKeeps.graphLaunchBody {c : Nat} {x : Cmd} {q : Queue} (h : Keeps s u) :
    DoneKeeps s (graphLaunchBody c u x q) :=
  .within fun _ _ => .ite (.waitAt h) (.within fun _ _ => .within fun _ _ => .run h.leaveElement.setGraphLaunch)

theorem OutKeeps.execGraphLaunch {c : Nat} (h : Keeps s u) : OutKeeps s (execGraphLaunch c u) :=
  .act h (h.runCmd fun _ _ _ hv => .graphLaunchBody hv)

theorem Keeps.writeAll {q : Queue} {l : List (Nat × List Byte)} (h : Keeps s u) (e : writeAll u q l = .ok t) :
    Keeps s t := by
  induction l generalizing u with
  | nil =>
    cases e
    exact h
  | cons r l ih =>
    unfold Machine.writeAll at e
    split at e
    · next e' => exact ih (h.writeVa e') e
    · cases e

theorem Keeps.endIfIdle {c : Nat} (h : Keeps s u) : Keeps s (endIfIdle u c) := by
  unfold Machine.endIfIdle
  split
  · split
    · exact h
    · dsimp only
      split
      · exact h
      · split
        · exact h.finishCmd
        · exact h.finishCmd
        · split
          · next e => exact .finishCmd (h.writeAll e)
          · exact h.askPage.modCmd
          · exact h.finishCmd
          · exact h
  · exact h

theorem Keeps.graphNodeStart {c n : Nat} (h : Keeps s u) : Keeps s (graphNodeStart u c n) := by
  unfold Machine.graphNodeStart
  split
  · exact h
  · split
    · exact h
    · split
      · exact h.setGraphLaunch
      · split
        · exact .endIfIdle (.setGraphLaunch (h.rest rfl))
        · split
          · exact h
          · split
            · exact h
            · exact h.setGraphLaunch.startCmd
      · exact h

theorem OutKeeps.execGraphNodeStart {l node : Nat} (h : Keeps s u) : OutKeeps s (execGraphNodeStart l node u) :=
  .act h h.graphNodeStart

theorem Keeps.graphNodeComplete {c n : Nat} (h : Keeps s u) : Keeps s (graphNodeComplete u c n) := by
  unfold Machine.graphNodeComplete
  split
  · split
    · exact h
    · split
      · exact h
      · split
        · dsimp only
          split
          · exact h.setGraphLaunch.endIfIdle
          · split
            · next e => exact .endIfIdle (.setGraphLaunch (h.writeVa e))
            · exact h.askPage.modCmd
            · exact h.setGraphLaunch.endIfIdle
            · exact h
        · exact h.endIfIdle
        · exact h
  · exact h

theorem OutKeeps.execGraphNodeComplete {l node : Nat} (h : Keeps s u) : OutKeeps s (execGraphNodeComplete l node u) :=
  .act h h.graphNodeComplete

theorem DoneKeeps.patchBody {c : Nat} {x : Cmd} {q : Queue} (h : Keeps s u) : DoneKeeps s (patchBody c u x q) :=
  .within fun _ _ => .within fun _ _ => .within fun _ _ => .within fun _ _ => .within fun _ _ => .within fun _ _ => .run
    (.setGraph (h.rest rfl))

theorem OutKeeps.execPatch {c : Nat} (h : Keeps s u) : OutKeeps s (execPatch c u) :=
  .act h (h.runCmd fun _ _ _ hv => .patchBody hv)

theorem DoneKeeps.patchCommitBody {c : Nat} {x : Cmd} {x' : Queue} (h : Keeps s u) :
    DoneKeeps s (patchCommitBody c u x x') := by
  unfold Machine.patchCommitBody
  split
  · exact .within fun _ _ => .within fun _ _ => .within fun _ _ => .within fun _ _ => .within fun _ _ =>
      .ok h.setGraph.freeVersions
  · exact .within fun _ _ => .stop
  · exact .stop

theorem OutKeeps.execPatchCommit {c : Nat} (h : Keeps s u) : OutKeeps s (execPatchCommit c u) :=
  .act h (h.goOn fun _ _ _ hv => .patchCommitBody hv)

theorem DoneKeeps.graphDestroyBody {c : Nat} {x : Cmd} {q : Queue} (h : Keeps s u) :
    DoneKeeps s (graphDestroyBody c u x q) :=
  .within fun _ _ => .ite (.waitAt h) (.ok h.setGraph.freeVersions)

theorem OutKeeps.execGraphDestroy {c : Nat} (h : Keeps s u) : OutKeeps s (execGraphDestroy c u) :=
  .act h (h.runCmd fun _ _ _ hv => .graphDestroyBody hv)

theorem OutKeeps.execRealtimePreempt {q : Nat} (h : Keeps s u) : OutKeeps s (execRealtimePreempt q u) := by
  unfold Machine.execRealtimePreempt
  refine .act h ?_
  split
  · exact .ite (h.foldl fun _ _ hv => hv.modEng) h
  · exact h

end

/-! ### The functions of `Sys2Proof/Machine/Setup.lean` -/

section
variable {s u t : State}

theorem Keeps.startShutter {c : Nat} (h : Keeps s u) : Keeps s (startShutter u c) :=
  h.modCmd

theorem Keeps.commandTimeLimit {c : Nat} (h : Keeps s u) : Keeps s (commandTimeLimit u c) := by
  unfold Machine.commandTimeLimit
  split
  · exact h
  · split
    · exact h
    · exact .ite h h.startShutter.countPort

theorem OutKeeps.execCommandTimeLimit {c : Nat} (h : Keeps s u) : OutKeeps s (execCommandTimeLimit c u) :=
  .act h h.commandTimeLimit

theorem OutKeeps.execShutterDrainTimeout {c e' : Nat} (h : Keeps s u) :
    OutKeeps s (execShutterDrainTimeout c e' u) := by
  unfold Machine.execShutterDrainTimeout
  refine .act h ?_
  split
  · exact h
  · split
    · exact .ite h.setCmd h
    · exact h

theorem Keeps.shutterComplete {c : Nat} (h : Keeps s u) : Keeps s (shutterComplete u c) := by
  unfold Machine.shutterComplete
  split
  · exact h
  · split
    · exact .ite h.scrambleDests.finishCmd h
    · exact h

theorem OutKeeps.execShutterComplete {c : Nat} (h : Keeps s u) : OutKeeps s (execShutterComplete c u) :=
  .act h h.shutterComplete

theorem Keeps.setupDone {p : Port} {code : Nat} (h : Keeps s u) : Keeps s (setupDone u p code) :=
  .fire (.modPort (h.rest rfl))

theorem Keeps.setupOp {p : Port} {op : Nat} {f : State → List Byte → Except Nat State} (h : Keeps s u)
    (hf : ∀ b t, f u b = .ok t → Keeps s t) : Keeps s (setupOp u p op f) := by
  unfold Machine.setupOp
  split
  · exact h
  · split
    · exact h
    · split
      · next e => exact (hf _ _ e).setupDone
      · exact h.setupDone

theorem Keeps.writeHandle {p : Port} {h' : Nat} (h : Keeps s u) : Keeps s (writeHandle u p h') :=
  h.write

theorem Keeps.takeSlot {i e' : Nat} (h : Keeps s u) : Keeps s (takeSlot i u e') :=
  h.modEng

theorem Keeps.usePage {q : Queue} (h : Keeps s u) : Keeps s (usePage u q) := by
  unfold Machine.usePage
  split
  · exact h
  · exact .ite h (.ite (.ite (h.rest rfl) h) (h.rest rfl))

theorem Keeps.lowerWindow {e' : Nat} (h : Keeps s u) : Keeps s (lowerWindow u e') := by
  unfold Machine.lowerWindow
  exact h.modEng

theorem Keeps.createQueue {p : Port} {b : List Byte} (h : Keeps s u) (e : createQueue u p b = .ok t) : Keeps s t := by
  unfold Machine.createQueue at e
  extract_lets engines at e
  split at e
  · cases e
  split at e
  · cases e
  split at e
  · cases e
  split at e
  · cases e
  split at e
  · cases e
  · extract_lets q v v1 at e
    have hv : Keeps s v := .setQueue (h.rest rfl)
    have hv1 : Keeps s v1 := .ite (hv.foldl fun _ _ hw => hw.lowerWindow) hv
    exact Except.ok.inj e ▸ (hv1.foldl fun _ _ hw => hw.takeSlot).usePage.writeHandle

theorem OutKeeps.execSetupCreateQueue {p : Port} (h : Keeps s u) : OutKeeps s (execSetupCreateQueue p u) :=
  .act h (h.setupOp fun _ _ he => h.createQueue he)

theorem Keeps.createFence {p : Port} {b : List Byte} (h : Keeps s u) (e : createFence u p b = .ok t) : Keeps s t := by
  unfold Machine.createFence at e
  split at e
  · cases e
  split at e
  · cases e
  · cases e
    exact .writeHandle (.setFence (h.rest rfl))

theorem OutKeeps.execSetupCreateFence {p : Port} (h : Keeps s u) : OutKeeps s (execSetupCreateFence p u) :=
  .act h (h.setupOp fun _ _ he => h.createFence he)

theorem Keeps.destroyFence {p : Port} {b : List Byte} (h : Keeps s u) (e : destroyFence u p b = .ok t) : Keeps s t := by
  unfold Machine.destroyFence at e
  split at e
  · cases e
  split at e
  · cases e
  split at e
  · cases e
  · cases e
    exact h.rest rfl

theorem OutKeeps.execSetupDestroyFence {p : Port} (h : Keeps s u) : OutKeeps s (execSetupDestroyFence p u) :=
  .act h (h.setupOp fun _ _ he => h.destroyFence he)

theorem OutKeeps.execSetupRequestInvalid {p : Port} (h : Keeps s u) : OutKeeps s (execSetupRequestInvalid p u) := by
  unfold Machine.execSetupRequestInvalid
  refine .act h ?_
  split
  · exact .ite h.setupDone h
  · exact h

theorem Keeps.destroyQueue {p : Port} {b : List Byte} (h : Keeps s u) : Keeps s (destroyQueue u p b) := by
  unfold Machine.destroyQueue
  dsimp only
  split
  · exact h.setupDone
  · split
    · exact h.setupDone
    · exact .ite h.setupDone (.foldl (.foldl (.setQueue (h.rest rfl)) fun _ _ hv => hv.startShutter) fun _ _ hv =>
        hv.endTask)

theorem OutKeeps.execSetupDestroyQueue {p : Port} (h : Keeps s u) : OutKeeps s (execSetupDestroyQueue p u) := by
  unfold Machine.execSetupDestroyQueue
  refine .act h ?_
  split
  · exact .ite h.destroyQueue h
  · exact h

theorem Keeps.freeOwned {i e' : Nat} (h : Keeps s u) : Keeps s (freeOwned i u e') := by
  unfold Machine.freeOwned
  exact h.modEng

theorem Keeps.endTorn {i c : Nat} (h : Keeps s u) : Keeps s (endTorn i u c) := by
  unfold Machine.endTorn
  split
  · exact h
  · exact h.scrambleDests.finishCmd

theorem Keeps.dropQueueWork {i : Nat} (h : Keeps s u) : Keeps s (dropQueueWork u i) :=
  .rest (.foldl (h.foldl fun _ _ hv => hv.dropLaunch) fun _ _ hv => hv.dropGraphLaunch) rfl

theorem Keeps.withdrawPages {p : Port} {pasid : Nat} (h : Keeps s u) : Keeps s (withdrawPages u p pasid) := by
  unfold Machine.withdrawPages
  exact h.modPort

theorem Keeps.prunePages (h : Keeps s u) : Keeps s (prunePages u) :=
  h.rest rfl

theorem Keeps.teardownComplete {p : Port} (h : Keeps s u) : Keeps s (teardownComplete u p) := by
  unfold Machine.teardownComplete
  split
  · exact h
  · extract_lets cs i killed own v v1
    have hv : Keeps s v := h.foldl fun _ _ hv => hv.endTorn
    clear_value v
    have hv1 : Keeps s v1 := hv.foldl fun _ _ hv2 => hv2.endTorn
    clear_value v1
    split
    · exact h
    · split
      · exact h
      · extract_lets v2 _ v3 v4 v5
        have hv2 : Keeps s v2 := .dropQueueWork (hv1.foldl fun _ _ hv2 => .ite hv2.freeOwned hv2)
        clear_value v2
        have hv3 : Keeps s v3 := hv2.rest rfl
        clear_value v3
        have hv4 : Keeps s v4 := hv3.withdrawPages.prunePages
        clear_value v4
        have hv5 : Keeps s v5 := .ite hv4.write hv4
        clear_value v5
        exact hv5.setupDone

theorem OutKeeps.execQueueTeardownComplete {p : Port} (h : Keeps s u) : OutKeeps s (execQueueTeardownComplete p u) :=
  .act h h.teardownComplete

theorem Keeps.changeBit {put : Engine → Bool → Engine} {get : Engine → Bool} {n value b : Nat} (h : Keeps s u) :
    Keeps s (changeBit put get n value u b) :=
  .ite h (.ite h.setEng h)

theorem Keeps.enginePortWrite {p : Port} {n value : Nat} (h : Keeps s u) : Keeps s (enginePortWrite u p n value) :=
  .ite (h.foldl fun _ _ hv => hv.changeBit) h

theorem OutKeeps.execQfeEnginePortWrite {p : Port} {n value : Nat} (h : Keeps s u) :
    OutKeeps s (execQfeEnginePortWrite p n value u) :=
  .act h (.overBar (fun _ hv => hv.enginePortWrite) h)

theorem Keeps.sillWrite {p : Port} {n value : Nat} (h : Keeps s u) : Keeps s (sillWrite u p n value) :=
  .ite (h.foldl fun _ _ hv => hv.changeBit) h

theorem OutKeeps.execQfeSillWrite {p : Port} {n value : Nat} (h : Keeps s u) :
    OutKeeps s (execQfeSillWrite p n value u) :=
  .act h (.overBar (fun _ hv => hv.sillWrite) h)

theorem Keeps.timeLimitWrite {p : Port} {value : Nat} (h : Keeps s u) : Keeps s (timeLimitWrite u p value) :=
  .ite (h.rest rfl) h

theorem OutKeeps.execQfeTimeLimitWrite {p : Port} {value : Nat} (h : Keeps s u) :
    OutKeeps s (execQfeTimeLimitWrite p value u) :=
  .act h (.overBar (fun _ hv => hv.timeLimitWrite) h)

theorem Keeps.pollWrite {p : Port} {value : Nat} (h : Keeps s u) : Keeps s (pollWrite u p value) := by
  unfold Machine.pollWrite
  exact h.modPort

theorem OutKeeps.execQfePollWrite {p : Port} {value : Nat} (h : Keeps s u) : OutKeeps s (execQfePollWrite p value u) :=
  .act h (.overBar (fun _ hv => hv.pollWrite) h)

end

/-! ### The functions of `Sys2Proof/Machine/Fence.lean` -/

section
variable {s u t : State}

theorem Keeps.moveImages {e' : Nat} {heir : Option Nat} (h : Keeps s u) : Keeps s (moveImages u e' heir) := by
  unfold Machine.moveImages
  dsimp only
  split
  · exact .ite h h.setBank.modBank
  · exact h

theorem Keeps.moveKept {i k : Nat} (h : Keeps s u) : Keeps s (moveKept u i k) := by
  unfold Machine.moveKept
  refine .foldl h fun v a hv => ?_
  split
  · exact hv
  · exact .ite hv.modEng (hv.rest rfl)

theorem Keeps.leaveQueue {e' i : Nat} (h : Keeps s u) : Keeps s (leaveQueue e' u i) := by
  unfold Machine.leaveQueue
  split
  · exact h
  · dsimp only
    split
    · exact .ite (h.setQueue.usePage.rest rfl) h.setQueue
    · split
      · split
        · exact h.setQueue
        · split
          · exact h.setQueue.takeSlot.moveKept.usePage
          · exact h.setQueue.queueStop.logOnQueue
      · split
        · exact h.setQueue
        · split
          · exact h.setQueue.takeSlot.moveKept.usePage
          · exact h.setQueue.queueStop.logOnQueue

theorem Keeps.restartCmd {readable : Bool} {c : Nat} (h : Keeps s u) : Keeps s (restartCmd readable u c) := by
  unfold Machine.restartCmd
  split
  · exact h
  · exact .ite h.faultCmdOpen (.modCmd (.ite (h.releaseClaims.rest rfl) h))

theorem Keeps.replaceLaunch {c : Nat} (h : Keeps s u) : Keeps s (replaceLaunch u c) := by
  unfold Machine.replaceLaunch
  split
  · exact h
  · split
    · split
      · exact h.rest rfl
      · dsimp only
        split
        · exact h.freeSlots.faultCmd
        · split
          · exact h.freeSlots.setLaunch.holdSlots
          · exact h.freeSlots.faultCmd
    · exact h

theorem Keeps.fenceEngine {e' cause : Nat} {readable : Bool} (h : Keeps s u) :
    Keeps s (fenceEngine u e' cause readable) := by
  unfold Machine.fenceEngine
  split
  · exact h
  · extract_lets v v1 v2 qs cs ls v3 v4 v5 v6 v7 heir v8
    have hv : Keeps s v := h.logOnEngine
    clear_value v
    have hv1 : Keeps s v1 := hv.modEng
    clear_value v1
    have hv2 : Keeps s v2 := hv1.dieEvent.fire
    clear_value v2
    have hv3 : Keeps s v3 := hv2.endTask
    clear_value v3
    have hv4 : Keeps s v4 := .ite hv3 (hv3.foldl fun _ _ hv4 => hv4.rest rfl)
    clear_value v4
    have hv5 : Keeps s v5 := hv4.foldl fun _ _ hv5 => hv5.restartCmd
    clear_value v5
    have hv6 : Keeps s v6 := hv5.modEng
    clear_value v6
    have hv7 : Keeps s v7 := .foldl (hv6.rest rfl) fun _ _ hv7 => hv7.leaveQueue
    clear_value v7
    have hv8 : Keeps s v8 := .ite hv7.moveImages hv7
    clear_value v8
    exact .prunePages (hv8.foldl fun _ _ hv9 => hv9.replaceLaunch)

theorem OutKeeps.execEngineFence {e' cause : Nat} {cellsReadable : Bool} (h : Keeps s u) :
    OutKeeps s (execEngineFence e' cause cellsReadable u) :=
  .act h (.ite h.fenceEngine h)

theorem OutKeeps.execEngineStall {e' : Nat} {cellsReadable : Bool} (h : Keeps s u) :
    OutKeeps s (execEngineStall e' cellsReadable u) :=
  .act h (.ite h.logOnEngine.fenceEngine h)

theorem Keeps.repairRow {b row : Nat} (h : Keeps s u) : Keeps s (repairRow b u row) := by
  unfold Machine.repairRow
  dsimp only
  split
  · exact .dieEvent (.ite h.setBank.logOnEngine h.setBank.logOnDie)
  · exact .ite h.logOnEngine.fenceEngine h.logOnDie

theorem Keeps.fullMarch {b : Nat} {m : March} (h : Keeps s u) : Keeps s (fullMarch u b m) :=
  h.modBank.foldl fun _ _ hv => hv.repairRow

theorem OutKeeps.execEngineReturn {p : Port} {e' : Nat} {march : March} {passes : Bool} (h : Keeps s u) :
    OutKeeps s (execEngineReturn p e' march passes u) :=
  .act h (.overBar (fun _ hv => .ite hv (.ite hv.fullMarch.setEng.dieEvent.fire
    (.logOnEngine (.ite hv.fullMarch hv.fullMarch.logOnEngine)))) h)

theorem Keeps.endSequence {e' : Nat} {passes : Bool} (h : Keeps s u) : Keeps s (endSequence u e' passes) :=
  .ite h.modEng h.modEng.logOnEngine.fenceEngine

theorem OutKeeps.execStartUpSequence {e' : Nat} {march : March} {passes : Bool} (h : Keeps s u) :
    OutKeeps s (execStartUpSequence e' march passes u) :=
  .act h (.ite h (.ite h.fullMarch.endSequence h.fullMarch))

theorem OutKeeps.execTestSequence {e' : Nat} {passes : Bool} (h : Keeps s u) :
    OutKeeps s (execTestSequence e' passes u) :=
  .act h (.ite h h.endSequence)

theorem OutKeeps.execShadowSetExchange {e' : Nat} {good : Bool} (h : Keeps s u) :
    OutKeeps s (execShadowSetExchange e' good u) :=
  .act h (.ite h (.ite h.endSequence h.modEng))

end

/-! ### The functions of `Sys2Proof/Machine/Power.lean` -/

section
variable {s u t : State}

theorem Keeps.closeSome {quota : Nat} {l : List Nat} (h : Keeps s u) : Keeps s (closeSome u quota l) := by
  induction l generalizing u quota with
  | nil => exact h
  | cons e l ih => exact ih h.modEng

theorem Keeps.closeLouvres {d : Nat} (h : Keeps s u) : Keeps s (closeLouvres u d) :=
  .closeSome (h.rest rfl)

theorem Keeps.reopenLouvres {d : Nat} (h : Keeps s u) : Keeps s (reopenLouvres u d) :=
  .ite h (h.foldl fun _ _ hv => hv.modEng)

theorem Keeps.clearHold {d : Nat} (h : Keeps s u) : Keeps s (clearHold u d) :=
  .ite h.modDie h

theorem Keeps.recordDroop {d mv : Nat} (h : Keeps s u) : Keeps s (recordDroop u d mv) :=
  h.modDie

theorem OutKeeps.execFastLoop {d meanCw bankMv droopMv : Nat} (h : Keeps s u) :
    OutKeeps s (execFastLoop d meanCw bankMv droopMv u) := by
  unfold Machine.execFastLoop
  refine .act h ?_
  extract_lets v burst isOver isUnder _ v1 v2 v3
  have hv : Keeps s v := h.recordDroop
  clear_value v
  have hv1 : Keeps s v1 := hv.rest rfl
  clear_value v1
  have hv2 : Keeps s v2 := hv1.modDie
  clear_value v2
  have hv3 : Keeps s v3 := .ite hv2.modDie.countDie hv2
  clear_value v3
  exact .ite hv (.ite hv3.closeLouvres (.clearHold (.ite hv3.reopenLouvres hv3)))

theorem OutKeeps.execCollectiveHoldTimeout {d : Nat} (h : Keeps s u) : OutKeeps s (execCollectiveHoldTimeout d u) :=
  .act h (.ite h h.modDie.closeLouvres)

theorem Keeps.closePeriod {d : Nat} (h : Keeps s u) : Keeps s (closePeriod u d) := by
  unfold Machine.closePeriod
  exact h.modDie

theorem Keeps.applyPlan {allow sum : Nat} {x : Plan} (h : Keeps s u) : Keeps s (applyPlan allow sum u x) :=
  h.modDie

theorem Keeps.allocate {m : PowerSample} (h : Keeps s u) : Keeps s (allocate u m).1 :=
  h.foldl fun _ _ hv => hv.applyPlan

theorem Keeps.setLimiting {b : Bool} (h : Keeps s u) : Keeps s (setLimiting u b) :=
  .ite (h.rest rfl) (.fire (h.rest rfl))

theorem Keeps.countLimited (h : Keeps s u) : Keeps s (countLimited u) :=
  h.countGlobal fun _ _ hv => hv.rest rfl

theorem Keeps.learnPhase {m : PowerSample} {d : Nat} (h : Keeps s u) : Keeps s (learnPhase m u d) := by
  unfold Machine.learnPhase
  dsimp only
  split
  · exact .ite h h.modPort
  · exact h

theorem OutKeeps.execCapControllerPeriod {m : PowerSample} (h : Keeps s u) :
    OutKeeps s (execCapControllerPeriod m u) := by
  refine .act h ?_
  extract_lets v v1 _ v2 r v3 v4
  have hv : Keeps s v := h.foldl fun _ _ hv => hv.learnPhase
  have hv1 : Keeps s v1 := hv.foldl fun _ _ hv => hv.closePeriod
  clear_value v1
  have hv2 : Keeps s v2 := hv1.rest rfl
  have hv3 : Keeps s v3 := hv2.allocate.setLimiting
  have hv4 : Keeps s v4 := .ite hv3.countLimited hv3
  clear_value v4
  exact hv4.rest rfl

theorem OutKeeps.execUrgentAllocation {m : PowerSample} (h : Keeps s u) : OutKeeps s (execUrgentAllocation m u) := by
  refine .act h (.ite h ?_)
  extract_lets r calm
  have hc : Keeps s calm := h.allocate.foldl fun _ _ hv => hv.modDie
  clear_value calm
  exact .ite hc.setLimiting.countLimited hc

theorem OutKeeps.execRailRampComplete {d : Nat} (h : Keeps s u) : OutKeeps s (execRailRampComplete d u) :=
  .act h h.modDie

theorem OutKeeps.execControllerTakeover (h : Keeps s u) : OutKeeps s (execControllerTakeover u) :=
  .act h (h.rest rfl)

theorem Keeps.setMargin {d v' : Nat} (h : Keeps s u) : Keeps s (setMargin u d v') :=
  .ite (.logOnDie (.ite h.modDie h.modDie.fire)) (.ite h.modDie h.modDie.fire)

theorem OutKeeps.execMarginTrim {d ageingMv : Nat} (h : Keeps s u) : OutKeeps s (execMarginTrim d ageingMv u) :=
  .act h h.modDie.setMargin

theorem OutKeeps.execDroopToNominal {d : Nat} (h : Keeps s u) : OutKeeps s (execDroopToNominal d u) :=
  .act h h.modDie.logOnDie.setMargin

theorem OutKeeps.execHoldUpBankLow (h : Keeps s u) : OutKeeps s (execHoldUpBankLow u) := by
  unfold Machine.execHoldUpBankLow
  refine .act h ?_
  split
  · exact h
  · extract_lets v _
    have hv : Keeps s v := h.foldl fun _ _ hv => hv.modEng
    clear_value v
    exact .fire (.logPlain (hv.rest rfl))

theorem OutKeeps.execHoldUpBankRecovered (h : Keeps s u) : OutKeeps s (execHoldUpBankRecovered u) :=
  .act h (.ite (.fire (h.rest rfl)) h)

theorem Keeps.excursion {mv : Nat} (h : Keeps s u) : Keeps s (excursion u mv) :=
  .rest (.ite (.logPlain (.ite h.logPlain h)) (.ite h.logPlain h)) rfl

theorem Keeps.inputResponse {mv : Nat} (h : Keeps s u) : Keeps s (inputResponse u mv) :=
  .ite h (.ite (.fatal (.excursion (h.rest rfl))) h.excursion)

theorem OutKeeps.execOvervoltageTimeout (h : Keeps s u) : OutKeeps s (execOvervoltageTimeout u) :=
  .actAlways (.ite (.fatal (h.rest rfl)) h)

theorem Keeps.recalibrate {die tempC : Nat} (h : Keeps s u) : Keeps s (recalibrate u die tempC) := by
  unfold Machine.recalibrate
  split
  · exact .ite (h.rest rfl) h
  · exact h

theorem Keeps.thermalTrip {die : Nat} (h : Keeps s u) : Keeps s (thermalTrip u die) :=
  .fatalOn (h.rest rfl)

theorem Keeps.dieThermal {d tempC : Nat} (h : Keeps s u) : Keeps s (dieThermal u d tempC) := by
  unfold Machine.dieThermal
  extract_lets x w c v _ v1 _ v2 v3 v4
  have hv : Keeps s v := h.modDie
  clear_value v
  have hv1 : Keeps s v1 := .ite (.dieEvent (.logOnDie (hv.rest rfl))) hv
  clear_value v1
  have hv2 : Keeps s v2 := .ite (.logOnDie (hv1.rest rfl)) hv1
  clear_value v2
  have hv3 : Keeps s v3 := .ite (hv2.foldl fun _ _ hv3 => hv3.modEng) hv2
  clear_value v3
  have hv4 : Keeps s v4 := .ite hv3.recalibrate hv3
  clear_value v4
  exact .ite hv4.thermalTrip hv4

theorem Keeps.stackThermal {n tempC : Nat} (h : Keeps s u) : Keeps s (stackThermal u n tempC) :=
  .ite (.thermalTrip (.ite h.setStack.logPlain h.setStack)) (.ite h.setStack.logPlain h.setStack)

theorem Keeps.recordTemp {stack : Bool} {n tempC : Nat} (h : Keeps s u) : Keeps s (recordTemp u stack n tempC) :=
  .ite h.setStack h.modDie

theorem OutKeeps.execThermalChange {stack : Bool} {n tempC : Nat} (h : Keeps s u) :
    OutKeeps s (execThermalChange stack n tempC u) :=
  .actAlways (.ite h.recordTemp (.ite h.stackThermal h.dieThermal))

theorem OutKeeps.execThermalTripTimeout {d : Nat} (h : Keeps s u) : OutKeeps s (execThermalTripTimeout d u) :=
  .actAlways (.ite h.thermalTrip h)

theorem Keeps.unpowerDie {d : Nat} (h : Keeps s u) : Keeps s (unpowerDie u d) :=
  .ite (h.modDie.logOnDie.foldl fun _ _ hv => hv.fenceEngine) h.modDie.logOnDie

theorem Keeps.busFailure (h : Keeps s u) : Keeps s (busFailure u) :=
  .fatal (h.rest rfl)

theorem OutKeeps.execPointOfLoadFailure {f : ConversionFailure} (h : Keeps s u) :
    OutKeeps s (execPointOfLoadFailure f u) := by
  unfold Machine.execPointOfLoadFailure
  refine .actAlways ?_
  split
  · exact h
  · split
    · exact .ite h (.ite h.modDie h.unpowerDie)
    · exact h.busFailure
    · exact h.busFailure

theorem Keeps.capWrite {p : Port} {v' : Nat} (h : Keeps s u) : Keeps s (capWrite u p v') :=
  .ite (h.rest rfl) h

theorem OutKeeps.execPwrCapWrite {p : Port} {v' : Nat} (h : Keeps s u) : OutKeeps s (execPwrCapWrite p v' u) :=
  .act h (.overBar (fun _ hv => hv.capWrite) h)

theorem Keeps.powerCtrlWrite {p : Port} {v' : Nat} (h : Keeps s u) : Keeps s (powerCtrlWrite u p v') :=
  .ite (h.rest rfl) h

theorem OutKeeps.execPwrCtrlWrite {p : Port} {v' : Nat} (h : Keeps s u) : OutKeeps s (execPwrCtrlWrite p v' u) :=
  .act h (.overBar (fun _ hv => hv.powerCtrlWrite) h)

theorem Keeps.phaseWrite {p : Port} {n v' : Nat} (h : Keeps s u) : Keeps s (phaseWrite u p n v') := by
  unfold Machine.phaseWrite
  exact h.modPort

theorem OutKeeps.execPwrPhaseWrite {p : Port} {n v' : Nat} (h : Keeps s u) : OutKeeps s (execPwrPhaseWrite p n v' u) :=
  .act h (.overBar (fun _ hv => hv.phaseWrite) h)

end

/-! ### The functions of `Sys2Proof/Machine/Entropy.lean` -/

section
variable {s u t : State}

theorem Keeps.setEnt {h' : Port} {x : Entropy} (h : Keeps s u) : Keeps s (u.setEnt h' x) :=
  h.modHost

theorem Keeps.setEntState {h' : Port} {st : EntState} (h : Keeps s u) : Keeps s (setEntState u h' st) :=
  .ite h h.setEnt.fire

theorem Keeps.takeRequest {h' : Port} {r' : EntRequest} (h : Keeps s u) : Keeps s (takeRequest u h' r') :=
  h.setEnt

theorem Keeps.drawBytes {p : Port} (h : Keeps s u) : Keeps s (drawBytes u p).2 := h.setEnt

theorem Keeps.rngRead {p : Port} {wide inTime : Bool} (h : Keeps s u) : Keeps s (rngRead u p wide inTime) :=
  .ite (h.rest rfl) (.ite (h.rest rfl) (.ite (h.rest rfl) (h.setEnt.rest rfl)))

theorem OutKeeps.execEntRngRead {p : Port} {wide inTime : Bool} (h : Keeps s u) :
    OutKeeps s (execEntRngRead p wide inTime u) :=
  .actAlways (.overBar (fun _ hv => hv.rngRead) h)

theorem OutKeeps.execFailureCountDecay {h' : Port} (h : Keeps s u) : OutKeeps s (execFailureCountDecay h' u) :=
  .actAlways (.ite h h.setEnt)

end

/-! ### The functions of `Sys2Proof/Machine/Hbm.lean` -/

section
variable {s u t : State}

theorem Keeps.faultLaunches {i : Nat} (h : Keeps s u) : Keeps s (faultLaunches u i) :=
  h.foldl fun _ _ hv => hv.faultCmdOpen

theorem Keeps.loseLog {stack : Nat} (h : Keeps s u) : Keeps s (loseLog u stack) :=
  .ite h (.ite (.fatal (h.rest rfl)) (h.rest rfl))

theorem Keeps.loseArea {stack : Nat} {x : UnitArea} (h : Keeps s u) : Keeps s (loseArea u stack x) := by
  unfold Machine.loseArea
  split
  · split
    · exact .faultLaunches (h.rest rfl)
    · exact h
  · split
    · exact h.setGraph
    · exact h
  · exact h.modEng
  · exact h.fatal
  · exact h.loseLog
  · exact h

theorem Keeps.countCorrected (h : Keeps s u) : Keeps s (countCorrected u) :=
  h.countGlobal fun _ _ hv => hv.rest rfl

theorem Keeps.countUncorrected (h : Keeps s u) : Keeps s (countUncorrected u) :=
  h.countGlobal fun _ _ hv => hv.rest rfl

theorem Keeps.poisonUnit {unit : Nat} (h : Keeps s u) : Keeps s (poisonUnit u unit) :=
  .countUncorrected (h.rest rfl)

theorem Keeps.readUnit {unit : Nat} {errors : List Nat} (h : Keeps s u) : Keeps s (readUnit u unit errors) :=
  h.setStack.rest rfl

theorem Keeps.miscorrect {unit : Nat} (h : Keeps s u) : Keeps s (miscorrect u unit) := h.memWrite rfl

theorem Keeps.applyAccess {unit : Nat} {access : UnitAccess} (h : Keeps s u) : Keeps s (applyAccess u unit access) := by
  unfold Machine.applyAccess
  split
  · exact h.rest rfl
  · exact h.memWrite rfl
  · exact h.memWrite rfl

theorem Keeps.decodedAccess {unit : Nat} {access : UnitAccess} {errors : List Nat} {lost : State → State}
    (h : Keeps s u) (hlost : ∀ v, Keeps s v → Keeps s (lost v)) :
    Keeps s (decodedAccess u unit access errors lost) := by
  unfold Machine.decodedAccess
  dsimp only
  split
  · exact h.readUnit.applyAccess
  · exact h.readUnit.countCorrected.applyAccess
  · exact h.readUnit.miscorrect.countCorrected.applyAccess
  · exact hlost _ h.readUnit.poisonUnit

theorem Keeps.commandAccess {unit : Nat} {access : UnitAccess} {errors : List Nat} {c page : Nat} {m : PageMap}
    (h : Keeps s u) :
    Keeps s (commandAccess u unit access errors c page m) :=
  .ite h.faultCmd (.ite h.faultCmd (.ite h.faultCmd (.ite h.applyAccess (h.decodedAccess fun _ hv => hv.faultCmd))))

theorem Keeps.moduleAccess {unit : Nat} {access : UnitAccess} {errors : List Nat} (h : Keeps s u) :
    Keeps s (moduleAccess u unit access errors) := by
  unfold Machine.moduleAccess
  dsimp only
  split
  · exact h
  · split
    · exact h
    · exact .ite h.applyAccess (.ite h.loseArea (h.decodedAccess fun _ hv => hv.loseArea))

theorem Keeps.unitDone {unit : Nat} (h : Keeps s u) : Keeps s (unitDone u unit) := by
  unfold Machine.unitDone
  split
  · exact h.rest rfl
  · exact h

theorem OutKeeps.execHbmAccess {unit : Nat} {access : UnitAccess} {errors : List Nat} {c : Nat} (h : Keeps s u) :
    OutKeeps s (execHbmAccess unit access errors c u) := by
  unfold Machine.execHbmAccess
  refine .act h ?_
  split
  · exact h
  · dsimp only
    split
    · split
      · split
        · exact h.unitDone
        · split
          · exact h.unitDone.commandAccess
          · exact .ite h.unitDone.commandAccess h.unitDone.moduleAccess
      · exact h.unitDone
    · exact h.unitDone.moduleAccess

theorem OutKeeps.execPatrolScrub {unit : Nat} {errors : List Nat} (h : Keeps s u) :
    OutKeeps s (execPatrolScrub unit errors u) := by
  refine .act h (.ite h ?_)
  extract_lets unmark marked area d v
  have hunmark (w : State) (hw : Keeps s w) : Keeps s (unmark w) := hw.rest rfl
  have hmarked (w : State) (hw : Keeps s w) : Keeps s (marked w) :=
    .ite (hw.countCorrected.rest rfl) (hw.countCorrected.rest rfl)
  have hv : Keeps s v := h.readUnit
  clear_value v unmark marked d
  cases d with
  | good => exact hunmark _ hv
  | corrected => exact hmarked _ hv
  | wrong => exact hmarked _ hv.miscorrect
  | lost => exact (hunmark _ hv).poisonUnit.loseArea

theorem Keeps.removePage {stack page : Nat} (h : Keeps s u) : Keeps s (removePage u stack page) := by
  unfold Machine.removePage
  extract_lets k keep _ v
  have hz : (zeroing (u.hbm.job.map fun j => if j.unmap then j else { j with keys := j.keys.filter keep })).Sublist
      (zeroing u.hbm.job) := by
    cases u.hbm.job with
    | none => exact .refl _
    | some j =>
      dsimp only [Option.map_some, zeroing]
      split
      · simp_all
      · simp_all
  have hv : Keeps s v := h.fewer (List.filter_sublist.append hz).subperm rfl
  exact hv.setStack.logPlain

theorem Keeps.unitRetirement {stack range : Nat} (h : Keeps s u) : Keeps s (unitRetirement u stack range) := by
  unfold Machine.unitRetirement
  extract_lets n k _ v v1
  have hv : Keeps s v := h.rest rfl
  clear_value v
  have hv1 : Keeps s v1 := hv.setStack
  clear_value v1
  split
  · exact h
  · split
    · exact hv1.rest rfl
    · split
      · exact hv1.removePage
      · exact .ite (.removePage (hv1.rest rfl)) hv1
      · exact .loseArea (hv1.rest rfl)

theorem OutKeeps.execUnitRetirement {stack range : Nat} (h : Keeps s u) :
    OutKeeps s (execUnitRetirement stack range u) :=
  .act h h.unitRetirement

theorem Keeps.setStackState {n : Nat} {st : StackState} (h : Keeps s u) : Keeps s (setStackState u n st) :=
  .ite h h.setStack.fire

theorem Keeps.fenceStack {n : Nat} (h : Keeps s u) : Keeps s (fenceStack u n) :=
  .loseLog (.foldl (.foldl (.foldl h.setStackState.logPlain fun _ _ hv => hv.loseArea) fun _ _ hv => hv.loseArea)
    fun _ _ hv => hv.loseArea)

theorem Keeps.pinRepair {n pc pin : Nat} {trains : Bool} (h : Keeps s u) : Keeps s (pinRepair u n pc pin trains) :=
  .ite h (.ite (.ite h.setStack.logPlain h.fenceStack) (.ite h.setStack.fenceStack h.setStack.setStackState))

theorem OutKeeps.execPinLaneRepair {stack pc pin : Nat} {trains : Bool} (h : Keeps s u) :
    OutKeeps s (execPinLaneRepair stack pc pin trains u) :=
  .act h h.pinRepair

theorem Keeps.problemAreaWrite {p : Port} {value : Nat} (h : Keeps s u) : Keeps s (problemAreaWrite u p value) :=
  .ite h (h.rest rfl)

theorem OutKeeps.execMemProblemAreaWrite {p : Port} {value : Nat} (h : Keeps s u) :
    OutKeeps s (execMemProblemAreaWrite p value u) :=
  .act h (.overBar (fun _ hv => hv.problemAreaWrite) h)

/-- The state with no map request under way. -/
def State.withoutJob (s : State) : State := { s with hbm := { s.hbm with job := none } }

theorem Keeps.withoutJob (h : Keeps s u) : Keeps s u.withoutJob :=
  h.fewer ((List.Sublist.refl u.hbm.pages).append (List.nil_sublist _)).subperm rfl

/-- The end of a map request drops the request: what it leaves does not depend on what the request held. -/
theorem Keeps.mapDone_of_withoutJob {p : Port} {code : Nat} (h : Keeps s u.withoutJob) : Keeps s (mapDone u p code) :=
  .fire (.modPort (h.rest rfl))

theorem Keeps.mapDone {p : Port} {code : Nat} (h : Keeps s u) : Keeps s (mapDone u p code) :=
  h.withoutJob.mapDone_of_withoutJob

theorem Keeps.mapOk_of_withoutJob {p : Port} {result : Nat} (h : Keeps s u.withoutJob) :
    Keeps s (mapOk u p result) := by
  unfold Machine.mapOk
  split
  · exact Keeps.mapDone_of_withoutJob h.write
  · exact h.mapDone_of_withoutJob

theorem Keeps.mapOk {p : Port} {result : Nat} (h : Keeps s u) : Keeps s (mapOk u p result) :=
  h.withoutJob.mapOk_of_withoutJob

theorem Keeps.mapEnd_of_withoutJob {p : Port} {result : Nat} (h : Keeps s u.withoutJob) :
    Keeps s (mapEnd u p result) := by
  unfold Machine.mapEnd
  split
  · refine h.fewer ?_ rfl
    have hz (j : Option MapJob) :
        zeroing (j.map fun j => { j with keys := [], accesses := [], due := some result }) = [] := by
      revert j
      rintro (_ | j)
      · rfl
      · exact ite_self _
    simp only [holding, hz]
    exact .refl _
  · exact h.mapOk_of_withoutJob

theorem Keeps.mapEnd {p : Port} {result : Nat} (h : Keeps s u) : Keeps s (mapEnd u p result) :=
  h.withoutJob.mapEnd_of_withoutJob

theorem Keeps.finishDue {p : Port} (h : Keeps s u) : Keeps s (finishDue u p) := by
  unfold Machine.finishDue
  split
  · split
    · exact .ite h.mapOk h
    · exact h
  · exact h

theorem mapRequest_job {s : State} {p : Port} {b : List Byte} (e : mapRequest s p = some b) : s.hbm.job = none := by
  unfold mapRequest at e
  extract_lets x at e
  split at e
  · next h => simp_all
  · cases e

theorem Keeps.mapPages {p : Port} {b : List Byte} (h : Keeps s u) (e : mapRequest u p = some b) :
    Keeps s (mapPages u p b) := by
  have hj := mapRequest_job e
  unfold Machine.mapPages
  extract_lets key pages near m room
  refine .ite h.mapDone (.ite h.mapDone ?_)
  split
  · next e =>
    refine ⟨fun hs => ?_, fun hs => ?_⟩
    · have hm := h.memory hs
      rw [MemoryOk, ← placePages_mem e] at hm
      exact hm
    · have hu := h.pages hs
      rw [pagesOnce_iff, holding, hj] at hu
      exact placePages_nodup e hu
  · exact h.mapDone

theorem Keeps.mapOp {p : Port} {op : Nat} {f : State → List Byte → State} (h : Keeps s u)
    (hf : ∀ b, mapRequest u p = some b → Keeps s (f u b)) : Keeps s (mapOp u p op f) := by
  unfold Machine.mapOp
  split
  · next e => exact .ite (hf _ e) h
  · exact h

theorem OutKeeps.execMap {p : Port} (h : Keeps s u) : OutKeeps s (execMap p u) :=
  .act h (h.mapOp fun _ he => h.mapPages he)

theorem jobOf_some {s : State} {p : Port} {unmap : Bool} {j : MapJob} (e : jobOf s p unmap = some j) :
    s.hbm.job = some j ∧ j.unmap = unmap := by
  unfold jobOf at e
  split at e
  · split at e
    · next hj hc =>
      cases e
      simp only [Bool.and_eq_true, beq_iff_eq] at hc
      obtain ⟨⟨_, hunmap⟩, _⟩ := hc
      exact ⟨hj, hunmap⟩
    · cases e
  · cases e

theorem foldl_clear_hbm {α : Type} (sp : α → Space) (l : List α) (s : State) :
    (l.foldl (fun v a => v.clear (sp a)) s).hbm = s.hbm := by
  induction l generalizing s with
  | nil => rfl
  | cons a l ih => exact ih _

/-- The pages that are zero become usable, and the request no longer holds them (R333). -/
theorem Keeps.zeroingComplete {p : Port} {j : MapJob} (h : Keeps s u) (e : jobOf u p false = some j) :
    Keeps s (zeroingComplete u p j) := by
  obtain ⟨hj, hf⟩ := jobOf_some e
  unfold Machine.zeroingComplete
  extract_lets v inPages _ w
  have hv : Keeps s v := h.foldl fun _ _ hv => hv.clear
  have hh : v.hbm = u.hbm := foldl_clear_hbm _ _ _
  clear_value v
  refine .mapEnd_of_withoutJob (hv.fewer ?_ rfl)
  have hz : zeroing v.hbm.job = j.keys := by simp [hh, hj, zeroing, hf]
  rw [holding, holding, hz]
  exact (List.append_nil _).symm ▸ foldl_tblPut_subperm j.keys v.hbm.pages

theorem OutKeeps.execMapZeroingComplete {p : Port} (h : Keeps s u) : OutKeeps s (execMapZeroingComplete p u) := by
  refine .act h ?_
  split
  · next e => exact h.zeroingComplete e
  · exact h

theorem Keeps.unmapPages {p : Port} {b : List Byte} (h : Keeps s u) : Keeps s (unmapPages u p b) := by
  unfold Machine.unmapPages
  extract_lets key found keys
  refine .ite h.mapDone (h.withoutJob.fewer ?_ rfl)
  exact ((foldl_tblDel_sublist keys _).append (.refl [])).subperm

theorem OutKeeps.execUnmap {p : Port} (h : Keeps s u) : OutKeeps s (execUnmap p u) :=
  .act h (h.mapOp fun _ _ => h.unmapPages)

theorem OutKeeps.execUnmapDrainEnd {p : Port} (h : Keeps s u) : OutKeeps s (execUnmapDrainEnd p u) := by
  unfold Machine.execUnmapDrainEnd
  refine .act h ?_
  split
  · exact .mapEnd (h.foldl fun _ _ hv => hv.faultCmd)
  · exact h

theorem OutKeeps.execMapRequestInvalid {p : Port} (h : Keeps s u) : OutKeeps s (execMapRequestInvalid p u) := by
  unfold Machine.execMapRequestInvalid
  refine .act h ?_
  split
  · exact .ite h h.mapDone
  · exact h

end

/-! ### The functions of `Sys2Proof/Machine/Flash.lean` -/

section
variable {s u t : State}

theorem Keeps.setStore {i : Nat} {f : FlashStore} (h : Keeps s u) : Keeps s (u.setStore i f) :=
  h.rest rfl

theorem DoneKeeps.storeCreateBody {x : Cmd} {q : Queue} (h : Keeps s u) : DoneKeeps s (storeCreateBody u x q) := by
  unfold Machine.storeCreateBody
  dsimp only
  refine .within fun _ _ => .within fun _ _ => ?_
  split
  · exact .stop
  · exact .ok (.setStore (h.rest rfl))

theorem OutKeeps.execStoreCreate {c : Nat} (h : Keeps s u) : OutKeeps s (execStoreCreate c u) :=
  .act h (h.runCmd fun _ _ _ hv => .storeCreateBody hv)

theorem DoneKeeps.storeReadBody {x : Cmd} {q : Queue} (h : Keeps s u) : DoneKeeps s (storeReadBody u x q) := by
  unfold Machine.storeReadBody
  dsimp only
  refine .within fun _ _ => .within fun _ _ => .within fun _ _ => .within fun _ _ => ?_
  split
  · exact .badWriting h
  · exact .ok h.pokeVa

theorem OutKeeps.execStoreRead {c : Nat} (h : Keeps s u) : OutKeeps s (execStoreRead c u) :=
  .act h (h.runCmd fun _ _ _ hv => .storeReadBody hv)

theorem DoneKeeps.storeWriteBody {x : Cmd} {q : Queue} (h : Keeps s u) : DoneKeeps s (storeWriteBody u x q) :=
  .within fun _ _ => .within fun _ _ => .within fun _ _ => .within fun _ _ => .within fun _ _ => .run h

theorem OutKeeps.execStoreWrite {c : Nat} (h : Keeps s u) : OutKeeps s (execStoreWrite c u) :=
  .act h (h.runCmd fun _ _ _ hv => .storeWriteBody hv)

theorem DoneKeeps.storeProgramBody {x : Cmd} {q : Queue} (h : Keeps s u) : DoneKeeps s (storeProgramBody u x q) :=
  .writing h fun _ _ => .ok (h.foldl fun _ _ hv => hv.programBlock)

theorem OutKeeps.execStoreProgramComplete {c : Nat} (h : Keeps s u) : OutKeeps s (execStoreProgramComplete c u) :=
  .act h (h.goOn fun _ _ _ hv => .storeProgramBody hv)

theorem Keeps.wipe {sp : Space} {a n : Nat} (h : Keeps s u) : Keeps s (u.wipe sp a n) :=
  ⟨fun hs => memWf_filter _ (h.memory hs), h.pages⟩

theorem DoneKeeps.storeTrimBody {x : Cmd} {q : Queue} (h : Keeps s u) : DoneKeeps s (storeTrimBody u x q) :=
  .within fun _ _ => .within fun _ _ => .within fun _ _ => .ok h.setStore.wipe

theorem OutKeeps.execStoreTrim {c : Nat} (h : Keeps s u) : OutKeeps s (execStoreTrim c u) :=
  .act h (h.runCmd fun _ _ _ hv => .storeTrimBody hv)

theorem DoneKeeps.storeReportBody {x : Cmd} {q : Queue} (h : Keeps s u) : DoneKeeps s (storeReportBody u x q) :=
  .within fun _ _ => .ite (.within fun _ he2 => .ok (h.writeVa he2)) (.within fun _ _ => .within fun _ he3 => .ok
    (h.writeVa he3))

theorem OutKeeps.execStoreReport {c : Nat} (h : Keeps s u) : OutKeeps s (execStoreReport c u) :=
  .act h (h.runCmd fun _ _ _ hv => .storeReportBody hv)

theorem Keeps.dropStore {i : Nat} (h : Keeps s u) : Keeps s (dropStore u i) :=
  .clear (h.rest rfl)

theorem DoneKeeps.storeDestroyBody {x : Cmd} {q : Queue} (h : Keeps s u) : DoneKeeps s (storeDestroyBody u x q) :=
  .within fun _ _ => .within fun _ _ => .within fun _ _ => .ok h.dropStore

theorem OutKeeps.execStoreDestroy {c : Nat} (h : Keeps s u) : OutKeeps s (execStoreDestroy c u) :=
  .act h (h.runCmd fun _ _ _ hv => .storeDestroyBody hv)

theorem Keeps.bindStore {p : Port} {b : List Byte} (h : Keeps s u) : Keeps s (bindStore u p b) := by
  unfold Machine.bindStore
  split
  · exact h.mapDone
  · split
    · exact h.mapDone
    · split
      · exact h.mapDone
      · exact .ite h.mapDone (.mapOk (.setStore (h.rest rfl)))

theorem OutKeeps.execBindStore {p : Port} (h : Keeps s u) : OutKeeps s (execBindStore p u) :=
  .act h (h.mapOp fun _ _ => h.bindStore)

theorem Keeps.listStores {p : Port} {b : List Byte} (h : Keeps s u) : Keeps s (listStores u p b) :=
  .ite h.mapDone h.write.mapOk

theorem OutKeeps.execListStores {p : Port} (h : Keeps s u) : OutKeeps s (execListStores p u) :=
  .act h (h.mapOp fun _ _ => h.listStores)

theorem Keeps.readDump {p : Port} {b : List Byte} (h : Keeps s u) : Keeps s (readDump u p b) :=
  .ite h.mapDone (.ite h.mapDone (.ite h.mapDone h.write.mapOk))

theorem OutKeeps.execReadDump {p : Port} (h : Keeps s u) : OutKeeps s (execReadDump p u) :=
  .act h (h.mapOp fun _ _ => h.readDump)

theorem Keeps.countRead {f : FlashStore} {n : Nat} {outcome : FlashRead} (h : Keeps s u) :
    Keeps s (countRead u f n outcome) := by
  unfold Machine.countRead
  split
  · exact h.rest rfl
  · exact h

theorem Keeps.flashPageRead {i n c : Nat} {outcome : FlashRead} (h : Keeps s u) :
    Keeps s (flashPageRead u i n c outcome) := by
  unfold Machine.flashPageRead
  split
  · exact h
  · extract_lets v v1 _ v2 v3
    have hv : Keeps s v := h.countRead
    clear_value v
    have hv1 : Keeps s v1 := hv.setStore
    clear_value v1
    have hv2 : Keeps s v2 := hv1.rest rfl
    clear_value v2
    have hv3 : Keeps s v3 := hv2.countGlobal fun _ _ hv3 => hv3.rest rfl
    clear_value v3
    split
    · exact hv
    · split
      · split
        · extract_lets v4
          have hv4 : Keeps s v4 := by
            unfold v4
            split
            · exact hv3.scrambleVa
            · exact hv3
          clear_value v4
          exact hv4.faultCmd
        · exact hv1
      · exact hv1

theorem OutKeeps.execFlashPageRead {store block c : Nat} {outcome : FlashRead} (h : Keeps s u) :
    OutKeeps s (execFlashPageRead store block c outcome u) :=
  .act h h.flashPageRead

theorem Keeps.setChannelState {n : Nat} {st : ChannelState} (h : Keeps s u) : Keeps s (setChannelState u n st) :=
  .ite h h.setChannel.fire

theorem Keeps.fenceChannel {n : Nat} (h : Keeps s u) : Keeps s (fenceChannel u n) :=
  .ite h (h.setChannelState.logPlain.rest rfl)

theorem Keeps.flashDieRebuild {n target : Nat} (h : Keeps s u) : Keeps s (flashDieRebuild u n target) :=
  .ite h (.ite h.fenceChannel h.setChannel.setChannelState)

theorem OutKeeps.execFlashDieRebuild {channel target : Nat} (h : Keeps s u) :
    OutKeeps s (execFlashDieRebuild channel target u) :=
  .act h h.flashDieRebuild

theorem OutKeeps.execStandardInterfaceLoss {interface : StdInterface} (h : Keeps s u) :
    OutKeeps s (execStandardInterfaceLoss interface u) := by
  unfold Machine.execStandardInterfaceLoss
  refine .actAlways ?_
  dsimp only
  split
  · exact .fenceChannel (h.rest rfl)
  · exact h.rest rfl

theorem Keeps.spareFloor (h : Keeps s u) : Keeps s (spareFloor u) := by
  unfold Machine.spareFloor
  extract_lets n _ v _
  have hv : Keeps s v := .ite (.fire (h.rest rfl)) h
  clear_value v
  exact .ite (.fire (hv.rest rfl)) hv

theorem OutKeeps.execFlashRebuildComplete {channel : Nat} (h : Keeps s u) :
    OutKeeps s (execFlashRebuildComplete channel u) :=
  .act h (.ite (.spareFloor (.setChannelState (h.rest rfl))) h)

theorem Keeps.programFail {n block : Nat} (h : Keeps s u) : Keeps s (programFail u n block) := by
  unfold Machine.programFail
  extract_lets k e v _ v1 _ v2
  have hv : Keeps s v := .moveData (h.rest rfl)
  clear_value v
  have hv1 : Keeps s v1 := hv.setChannel
  clear_value v1
  have hv2 : Keeps s v2 := hv1.rest rfl
  clear_value v2
  exact .ite h hv2.logPlain.spareFloor

theorem OutKeeps.execFlashProgramFail {channel block : Nat} (h : Keeps s u) :
    OutKeeps s (execFlashProgramFail channel block u) :=
  .act h h.programFail

theorem Keeps.copyBlock {m k : Nat} (h : Keeps s u) : Keeps s (copyBlock u m k) :=
  h.moveData.rest rfl

theorem OutKeeps.execWearLevelCopy {memDie : Nat} (h : Keeps s u) : OutKeeps s (execWearLevelCopy memDie u) :=
  .act h (.ite h.copyBlock h)

theorem Keeps.refreshBlock {m k : Nat} (h : Keeps s u) : Keeps s (refreshBlock u m k) :=
  .copyBlock (h.rest rfl)

theorem OutKeeps.execRetentionRefresh {memDie block : Nat} (h : Keeps s u) :
    OutKeeps s (execRetentionRefresh memDie block u) :=
  .act h (.ite h.refreshBlock.logPlain h)

theorem OutKeeps.execReadDisturbCopy {memDie block : Nat} (h : Keeps s u) :
    OutKeeps s (execReadDisturbCopy memDie block u) :=
  .act h (.ite h.refreshBlock h)

theorem Keeps.dumpMirror {taken : Bool} (h : Keeps s u) : Keeps s (dumpMirror u taken) :=
  .ite h (.ite (h.clear.write.rest rfl) (.logPlain (h.rest rfl)))

theorem OutKeeps.execDumpMirror {taken : Bool} (h : Keeps s u) : OutKeeps s (execDumpMirror taken u) :=
  .actAlways h.dumpMirror

end

/-! ### The functions of `Sys2Proof/Machine/Mesh.lean` -/

section
variable {s u t : State}

theorem Keeps.setOut {d o : Nat} {x : OutPort} (h : Keeps s u) : Keeps s (u.setOut d o x) :=
  h.rest rfl

theorem Keeps.modOut {d o : Nat} {f : OutPort → OutPort} (h : Keeps s u) : Keeps s (u.modOut d o f) :=
  h.setOut

theorem Keeps.setRouter {d : Nat} {x : Router} (h : Keeps s u) : Keeps s (u.setRouter d x) :=
  h.rest rfl

theorem Keeps.modRouter {d : Nat} {f : Router → Router} (h : Keeps s u) : Keeps s (u.modRouter d f) :=
  h.setRouter

theorem Keeps.setPlace {d i : Nat} {ch : Channel} {l : List Held} (h : Keeps s u) : Keeps s (setPlace u d i ch l) := by
  unfold Machine.setPlace
  split
  · exact h.modRouter
  · split
    · exact h.modOut
    · exact h

theorem Keeps.leavePlace {d i : Nat} {ch : Channel} {h' : Held} (h : Keeps s u) : Keeps s (leavePlace u d i ch h') := by
  unfold Machine.leavePlace
  dsimp only
  split
  · exact h.setPlace
  · split
    · exact h.setPlace.modOut
    · exact h.setPlace

theorem Keeps.settleOut {d o : Nat} (h : Keeps s u) : Keeps s (settleOut u d o) := by
  unfold Machine.settleOut
  split
  · exact h
  · exact h.modOut

theorem Keeps.settleAround {d : Nat} (h : Keeps s u) : Keeps s (settleAround u d) := by
  unfold Machine.settleAround
  refine .foldl h fun v a hv => ?_
  dsimp only
  split
  · exact hv.settleOut.settleOut
  · exact hv.settleOut

theorem Keeps.countTops {d : Nat} {losers : List (Nat × Held)} (h : Keeps s u) : Keeps s (countTops u d losers) :=
  h.countDie

theorem Keeps.noteTaken {d : Nat} {p : Packet} (h : Keeps s u) : Keeps s (noteTaken u d p) := by
  unfold Machine.noteTaken
  split
  · exact .ite (h.rest rfl) h
  · split
    · exact h.modBank
    · exact h

theorem Keeps.takePacket {d : Nat} {p : Packet} (h : Keeps s u) : Keeps s (takePacket u d p) :=
  .ite h.modRouter (.ite (h.rest rfl) (.send (.noteTaken (.ite (h.rest rfl) h))))

theorem Keeps.raiseAt {d : Nat} {ch : Channel} {place : Nat → Nat} {losers : List (Nat × Held)} (h : Keeps s u) :
    Keeps s (raiseAt u d ch place losers) :=
  h.foldl fun _ _ hv => hv.setPlace

theorem Keeps.serveEnd {d : Nat} {ch : Channel} {e' : Endpoint} (h : Keeps s u) : Keeps s (serveEnd u d ch e') := by
  unfold Machine.serveEnd
  dsimp only
  split
  · exact h
  · exact .ite (h.leavePlace.takePacket.raiseAt.countTops.rest rfl) h

theorem Keeps.serveEnds {d : Nat} {ch : Channel} (h : Keeps s u) : Keeps s (serveEnds u d ch) := by
  unfold Machine.serveEnds
  dsimp only
  refine .foldl (.ite (h.foldl fun _ _ hv => hv.setStack) h) fun v a hv => ?_
  refine .serveEnd ?_
  split
  · exact hv.setStack
  · exact hv

theorem Keeps.deliverOn {d : Nat} {ch : Channel} (h : Keeps s u) : Keeps s (deliverOn u d ch) :=
  h.serveEnds.foldl fun _ _ hv => hv.foldl fun _ _ hv2 => .ite hv2.leavePlace.takePacket hv2

theorem Keeps.issueOne {st : State × List Packet} {p : Packet} (h : Keeps s st.1) : Keeps s (issueOne st p).1 := by
  unfold Machine.issueOne
  dsimp only
  split
  · exact h
  · split <;> exact h.rest rfl

theorem Keeps.issue {ps : List Packet} (h : Keeps s u) : Keeps s (issue u ps) :=
  (Keeps.foldlOn Prod.fst (b := (u, [])) h fun _ _ hv => hv.issueOne).rest rfl

theorem Keeps.injectOn {d : Nat} {ch : Channel} (h : Keeps s u) : Keeps s (injectOn u d ch) := by
  unfold Machine.injectOn
  dsimp only
  split
  · exact h
  · split
    · exact h
    · exact h.modRouter.countTops

theorem Keeps.markOne {d o : Nat} {ch : Channel} {b : Option Nat × Held} (h : Keeps s u) :
    Keeps s (markOne u d o ch b) := by
  unfold Machine.markOne
  split
  · exact h
  · dsimp only
    refine .countDie ?_
    split
    · exact h.modRouter
    · exact h.setPlace

theorem Keeps.markWait {d o : Nat} {ch : Channel} (h : Keeps s u) : Keeps s (markWait u d o ch) :=
  h.foldl fun _ _ hv => hv.markOne

theorem Keeps.takeHead {d o : Nat} {ch : Channel} {pos : Option Nat} {h' : Held} (h : Keeps s u) :
    Keeps s (takeHead u d o ch pos h') := by
  unfold Machine.takeHead
  split
  · exact h.modRouter
  · exact h.leavePlace.raiseAt.modOut.countTops

theorem Keeps.grantOn {d o : Nat} {ch : Channel} (h : Keeps s u) (e : grantOn u d o ch = some t) : Keeps s t := by
  unfold Machine.grantOn at e
  split at e
  · cases e
  · split at e
    · cases e
      exact h.takeHead.rest rfl
    · cases e

theorem Keeps.serveOut {d o : Nat} (h : Keeps s u) : Keeps s (serveOut u d o) := by
  unfold Machine.serveOut
  split
  · exact h
  extract_lets v first second
  have hv : Keeps s v := h.markWait.markWait
  clear_value v
  split
  · next e => exact hv.grantOn e
  · cases e : Machine.grantOn v d o second with
    | some t => exact hv.grantOn e
    | none => exact hv

theorem Keeps.serveRouter {d : Nat} (h : Keeps s u) : Keeps s (serveRouter u d) :=
  h.foldl fun _ _ hv => hv.serveOut

theorem Keeps.packetForward {d : Nat} {ps : List Packet} (h : Keeps s u) : Keeps s (packetForward u d ps) :=
  h.settleAround.issue.injectOn.injectOn.deliverOn.deliverOn.serveRouter

theorem OutKeeps.execPacketForward {die : Nat} {presented : List Packet} (h : Keeps s u) :
    OutKeeps s (execPacketForward die presented u) :=
  .act h h.packetForward

theorem Keeps.creditToggle {d o : Nat} {ch : Channel} (h : Keeps s u) : Keeps s (creditToggle u d o ch) :=
  .ite h h.modOut.serveOut

theorem OutKeeps.execCreditToggle {die out : Nat} {ch : Channel} (h : Keeps s u) :
    OutKeeps s (execCreditToggle die out ch u) :=
  .act h h.creditToggle

theorem Keeps.failTransfer {d o : Nat} (h : Keeps s u) : Keeps s (failTransfer u d o) := by
  unfold Machine.failTransfer
  split
  · exact h
  · exact h.modOut.modRouter

theorem Keeps.fenceHalf {d o h' : Nat} (h : Keeps s u) : Keeps s (fenceHalf u d o h') := by
  unfold Machine.fenceHalf
  extract_lets mark near marked whole logged failed both
  have hm : Keeps s marked := by
    dsimp only [marked]
    split
    · exact h.modOut.modOut
    · exact h.modOut
  clear_value marked
  have hl : Keeps s logged := hm.logOnDie
  clear_value logged
  have hb : Keeps s both := by
    dsimp only [both]
    split
    · exact hl.failTransfer.failTransfer
    · exact hl.failTransfer
  clear_value both
  exact .ite (.ite hb hb.fatal) hl.logOnDie

theorem Keeps.bridgeTimeout {d o h' : Nat} {passes : Bool} (h : Keeps s u) : Keeps s (bridgeTimeout u d o h' passes) :=
  .ite h (.ite h.setOut h.fenceHalf)

theorem OutKeeps.execBridgeHandshakeTimeout {die out half : Nat} {ch : Channel} {retrainPasses : Bool} (h : Keeps s u) :
    OutKeeps s (execBridgeHandshakeTimeout die out half ch retrainPasses u) :=
  .act h h.bridgeTimeout

theorem Keeps.detourSwitch {d : Nat} {ch : Channel} {bridge table order : Nat} (h : Keeps s u) :
    Keeps s (detourSwitch u d ch bridge table order) :=
  .ite (.serveRouter (h.rest rfl)) h

theorem OutKeeps.execDetourTableSwitch {die : Nat} {ch : Channel} {bridge table order : Nat} (h : Keeps s u) :
    OutKeeps s (execDetourTableSwitch die ch bridge table order u) :=
  .act h h.detourSwitch

end

/-! ### The functions of `Sys2Proof/Machine/Scratchpad.lean` -/

section
variable {s u t : State}

theorem Keeps.countBank {b : Nat} {get : Bank → Stat} {put : Bank → Stat → Bank} {n : Nat} (h : Keeps s u) :
    Keeps s (countBank u b get put n) :=
  .ite h.modBank.dieEvent h.modBank

theorem Keeps.doubleBit {b : Nat} {r' : SpdReq} (h : Keeps s u) : Keeps s (doubleBit u b r') := by
  unfold Machine.doubleBit
  dsimp only
  split
  · split
    · exact h.modBank.faultCmdOpen
    · exact h.modBank.logOnDie
  · split
    · split
      · exact .ite h.modBank.faultCmdOpen.modEng.fenceEngine h.modBank.faultCmdOpen.modEng
      · exact .ite h.modBank.logOnDie.modEng.fenceEngine h.modBank.logOnDie.modEng
    · split
      · refine .fenceEngine ?_
        refine .modEng ?_
        split
        · exact h.modBank.faultCmdOpen
        · exact h.modBank.logOnDie
      · refine .modEng ?_
        split
        · exact h.modBank.faultCmdOpen
        · exact h.modBank.logOnDie

theorem Keeps.answerReq {before : Bank} {b : Nat} {r' : SpdReq} (h : Keeps s u) :
    Keeps s (answerReq before b u r') := by
  unfold Machine.answerReq
  split
  · exact .ite h.logOnDie.send h.logOnDie
  · split
    · exact h.doubleBit
    · dsimp only
      split
      · exact .send (.ite h.countBank h)
      · exact .ite h.countBank h

theorem Keeps.writeReq {before : Bank} {b : Nat} {r' : SpdReq} (h : Keeps s u) : Keeps s (writeReq before b u r') := by
  unfold Machine.writeReq
  split
  · exact h
  · split
    · exact h.modBank
    · exact h

theorem Keeps.countReqTops {b : Nat} {lost : List SpdReq} (h : Keeps s u) : Keeps s (countReqTops u b lost) :=
  h.countDie

theorem Keeps.present {b m : Nat} (h : Keeps s u) : Keeps s (present b u m) := by
  unfold Machine.present
  dsimp only
  split
  · exact h
  · split
    · split
      · exact h
      · exact h.setBank.countReqTops
    · split
      · exact h
      · exact h.setBank

theorem Keeps.handshake {b : Nat} {rs : List SpdReq} (h : Keeps s u) : Keeps s (handshake u b rs) := by
  unfold Machine.handshake
  extract_lets entered presented before order granted lost cut answered written counted tops arrays
  have hp : Keeps s presented := h.modBank.foldl fun _ _ hv => hv.present
  clear_value presented
  have ha : Keeps s answered := hp.modBank.foldl fun _ _ hv => hv.answerReq
  clear_value answered
  have hc : Keeps s counted := .foldl (ha.foldl fun _ _ hv => hv.writeReq) fun _ _ hv => hv.countBank
  clear_value counted
  exact hc.countReqTops.modBank

theorem OutKeeps.execScratchpadHandshake {b : Nat} {requests : List SpdReq} (h : Keeps s u) :
    OutKeeps s (execScratchpadHandshake b requests u) :=
  .act h h.handshake

theorem OutKeeps.execBackgroundPassStart {b : Nat} (h : Keeps s u) : OutKeeps s (execBackgroundPassStart b u) :=
  .act h (.ite h h.setBank)

theorem OutKeeps.execRegionPhaseEnd {b : Nat} {badRows : List Nat} (h : Keeps s u) :
    OutKeeps s (execRegionPhaseEnd b badRows u) := by
  unfold Machine.execRegionPhaseEnd
  refine .act h ?_
  dsimp only
  split
  · exact h
  · split
    · exact h
    · exact h.setBank
    · exact .modBank (h.foldl fun _ _ hv => hv.repairRow)
    · exact h.setBank

theorem Keeps.testCtrlWrite {p : Port} {die value : Nat} (h : Keeps s u) : Keeps s (testCtrlWrite u p die value) :=
  .ite h.modDie h

theorem OutKeeps.execSpdTestCtrlWrite {p : Port} {die value : Nat} (h : Keeps s u) :
    OutKeeps s (execSpdTestCtrlWrite p die value u) :=
  .act h (.overBar (fun _ hv => hv.testCtrlWrite) h)

theorem Keeps.wipeSealed {p : Port} (h : Keeps s u) : Keeps s (wipeSealed u p) := by
  unfold Machine.wipeSealed
  extract_lets b x under old buffer y v v1 v2 _
  have hv : Keeps s v := h.setBank.modHost
  clear_value v
  have hv1 : Keeps s v1 := hv.rest rfl
  clear_value v1
  have hv2 : Keeps s v2 := hv1.logOnDie
  clear_value v2
  exact .ite hv1 (hv2.rest rfl)

end

/-! ### The functions of `Sys2Proof/Machine/Security.lean` -/

section
variable {s u t : State}

theorem Keeps.wipeBoth (h : Keeps s u) : Keeps s (wipeBoth u) :=
  h.wipeSealed.wipeSealed

theorem Keeps.deriveKeys (h : Keeps s u) : Keeps s (deriveKeys u) := by
  unfold Machine.deriveKeys
  exact h.modHost.modHost

theorem Keeps.moveTo {st : Nat} (h : Keeps s u) : Keeps s (moveTo u st) :=
  .refreshPairs (.deriveKeys (.fire (h.wipeBoth.rest rfl)))

theorem Keeps.destroyHallKey (h : Keeps s u) : Keeps s (destroyHallKey u) :=
  .refreshPairs (h.rest rfl)

theorem Keeps.secDone {p : Port} {code : Nat} (h : Keeps s u) : Keeps s (secDone u p code) :=
  .fire (.modPort (h.rest rfl))

theorem Keeps.secAnswer {p : Port} {x : SecRes} (h : Keeps s u) (hx : SecKeeps s x) : Keeps s (secAnswer u p x) := by
  unfold Machine.secAnswer
  cases hx with
  | fail => exact h.secDone
  | done ht => exact ht.write.secDone
  | draw => exact .ite h.consumerError.secDone h.setEnt

theorem Keeps.secOp {p : Port} {op : Nat} {f : State → List Byte → SecRes} (h : Keeps s u)
    (hf : ∀ v a, Keeps s v → SecKeeps s (f v a)) :
    Keeps s (secOp u p op f) := by
  unfold Machine.secOp
  split
  · exact h
  · exact .ite h (h.secAnswer (hf _ _ h))

theorem SecKeeps.attestOp {p : Port} {b : List Byte} (h : Keeps s u) : SecKeeps s (attestOp p u b) := by
  unfold Machine.attestOp
  split
  · exact .fail
  · split
    · exact .fail
    · split
      · exact .fail
      · exact .done h.write

theorem OutKeeps.execAttest {p : Port} (h : Keeps s u) : OutKeeps s (execAttest p u) :=
  .actAlways (h.secOp fun _ _ hv => .attestOp hv)

theorem SecKeeps.certificateOp {p : Port} {b : List Byte} (h : Keeps s u) : SecKeeps s (certificateOp p u b) :=
  .ite .fail (.ite .fail (.done h.write))

theorem OutKeeps.execReadCertificate {p : Port} (h : Keeps s u) : OutKeeps s (execReadCertificate p u) :=
  .actAlways (h.secOp fun _ _ hv => .certificateOp hv)

theorem Keeps.putHallKey {wrap iv k : List Byte} {e' : Nat} (h : Keeps s u) : Keeps s (putHallKey u wrap iv k e') :=
  .ite (h.rest rfl) (h.rest rfl)

theorem SecKeeps.loadKeyOp {drawn : Option (List Byte)} {p : Port} {b : List Byte} (h : Keeps s u) :
    SecKeeps s (loadKeyOp drawn p u b) := by
  obtain ⟨opn, hopn⟩ : ∃ opn, openHallBlob = opn := ⟨_, rfl⟩
  unfold Machine.loadKeyOp
  rw [hopn]
  clear hopn
  refine .ite .fail (.ite .fail (.ite .fail ?_))
  split
  · exact .fail
  · split
    · exact .fail
    · exact .draw
    · exact .done (.refreshPairs (.putHallKey (.ite h.moveTo h)))

theorem SecKeeps.withdrawOp {p : Port} {b : List Byte} (h : Keeps s u) : SecKeeps s (withdrawOp p u b) :=
  .ite .fail (.ite .fail (.ite .fail (.done h.moveTo.destroyHallKey)))

theorem OutKeeps.execWithdrawHallKey {p : Port} (h : Keeps s u) : OutKeeps s (execWithdrawHallKey p u) :=
  .actAlways (h.secOp fun _ _ hv => .withdrawOp hv)

theorem Keeps.destroyStores (h : Keeps s u) : Keeps s (destroyStores u) :=
  .rest (.clear (.clear (h.foldl fun _ _ hv => hv.dropStore))) rfl

theorem SecKeeps.returnOp {p : Port} {b : List Byte} (h : Keeps s u) : SecKeeps s (returnOp p u b) :=
  .ite .fail (.ite .fail (.ite .fail (.done h.moveTo.destroyHallKey.destroyStores)))

theorem OutKeeps.execReturnModule {p : Port} (h : Keeps s u) : OutKeeps s (execReturnModule p u) :=
  .actAlways (h.secOp fun _ _ hv => .returnOp hv)

theorem Keeps.eraseSeed (h : Keeps s u) :
    Keeps s { u with sec := { u.sec with seedErased := true, drawnSeed := none } } := h.rest rfl

theorem SecKeeps.scrapOp {p : Port} {b : List Byte} (h : Keeps s u) : SecKeeps s (scrapOp p u b) := by
  unfold Machine.scrapOp
  exact .ite .fail (.ite .fail (.ite .fail (.ite .fail (.done h.moveTo.destroyHallKey.eraseSeed))))

theorem OutKeeps.execScrap {p : Port} (h : Keeps s u) : OutKeeps s (execScrap p u) :=
  .actAlways (h.secOp fun _ _ hv => .scrapOp hv)

theorem SecKeeps.authoriseOp {drawn : Option (List Byte)} {p : Port} {b : List Byte} (h : Keeps s u) :
    SecKeeps s (authoriseOp drawn p u b) := by
  unfold Machine.authoriseOp
  generalize slhVerify = verify
  refine .ite .fail (.ite .fail (.ite .fail (.ite .fail (.ite (.done h.moveTo) ?_))))
  split
  · exact .draw
  · exact .done (.moveTo (h.rest rfl))

theorem SecKeeps.commitOp {p : Port} {b : List Byte} (h : Keeps s u) : SecKeeps s (commitOp p u b) :=
  .ite .fail (.ite .fail (.ite .fail (.done (h.rest rfl))))

theorem OutKeeps.execCommitSvn {p : Port} (h : Keeps s u) : OutKeeps s (execCommitSvn p u) :=
  .actAlways (h.secOp fun _ _ hv => .commitOp hv)

theorem OutKeeps.execSecurityRequestInvalid {p : Port} (h : Keeps s u) :
    OutKeeps s (execSecurityRequestInvalid p u) := by
  unfold Machine.execSecurityRequestInvalid
  refine .actAlways ?_
  split
  · exact h
  · exact .ite h.secDone h

theorem Keeps.drawFor {p : Port} {op : Nat} {f : Option (List Byte) → State → List Byte → SecRes} (h : Keeps s u)
    (hf : ∀ a v a2, Keeps s v → SecKeeps s (f a v a2)) :
    Keeps s (drawFor u p op f) := by
  unfold Machine.drawFor
  refine .secOp h fun v a hv => ?_
  split
  · exact .ite (hf _ _ _ hv.drawBytes) .draw
  · exact hf _ _ _ hv

theorem OutKeeps.execLoadHallKey {p : Port} (h : Keeps s u) : OutKeeps s (execLoadHallKey p u) :=
  .actAlways (h.drawFor fun _ _ _ hv => .loadKeyOp hv)

theorem OutKeeps.execVendorAuthorisation {p : Port} (h : Keeps s u) : OutKeeps s (execVendorAuthorisation p u) :=
  .actAlways (h.drawFor fun _ _ _ hv => .authoriseOp hv)

theorem Keeps.keyBlockServed {p : Port} {v' : List Byte} (h : Keeps s u) : Keeps s (keyBlockServed u p v') := by
  unfold Machine.keyBlockServed
  split
  · exact h
  · exact .ite (h.secAnswer (.loadKeyOp h)) (.ite (h.secAnswer (.authoriseOp h)) h)

theorem Keeps.serveRequest {v' : List Byte} {x : EntRequest} (h : Keeps s u) : Keeps s (serveRequest u v' x) := by
  unfold Machine.serveRequest
  split
  · exact h.keyBlockServed
  · exact h.giveNonce
  · split
    · exact h.setLaunch
    · exact h

theorem OutKeeps.execGeneratorGrant {h' : Port} (h : Keeps s u) : OutKeeps s (execGeneratorGrant h' u) := by
  unfold Machine.execGeneratorGrant
  refine .actAlways ?_
  dsimp only
  split
  · exact h.setEnt
  · exact .ite h.setEnt h.setEnt.takeRequest.drawBytes.serveRequest

theorem Keeps.requestError {h' : Port} {r' : EntRequest} (h : Keeps s u) : Keeps s (requestError h' u r') := by
  unfold Machine.requestError
  dsimp only
  split
  · exact h.takeRequest.consumerError.secDone
  · exact h.takeRequest.consumerError.modPair
  · exact h.takeRequest.consumerError.faultCmdOpen

theorem OutKeeps.execEntropyStallTimeout {h' : Port} (h : Keeps s u) : OutKeeps s (execEntropyStallTimeout h' u) := by
  unfold Machine.execEntropyStallTimeout
  refine .actAlways ?_
  dsimp only
  split
  · exact .ite h.setEnt.requestError h.setEnt
  · exact h.setEnt

theorem Keeps.zeroGenerator {h' : Port} (h : Keeps s u) : Keeps s (zeroGenerator u h') :=
  h.setEnt

theorem Keeps.countHealth {h' : Port} (h : Keeps s u) : Keeps s (countHealth u h') :=
  .ite h.setEnt.fire h.setEnt

theorem Keeps.permanentFault {h' : Port} (h : Keeps s u) : Keeps s (permanentFault u h') :=
  h.logOnDie.setEntState.foldl fun _ _ hv => hv.requestError

theorem Keeps.healthFailure {h' : Port} {proportion startUp : Bool} (h : Keeps s u) :
    Keeps s (healthFailure u h' proportion startUp) :=
  .ite h (.ite h.zeroGenerator.countHealth.setEnt.logOnDie.permanentFault
    h.zeroGenerator.countHealth.setEnt.logOnDie.setEntState)

theorem OutKeeps.execHealthTestFailure {h' : Port} {proportion startUp : Bool} (h : Keeps s u) :
    OutKeeps s (execHealthTestFailure h' proportion startUp u) :=
  .actAlways h.healthFailure

theorem OutKeeps.execSourceStart {h' : Port} {samples : Vector Byte 128} (h : Keeps s u) :
    OutKeeps s (execSourceStart h' samples u) := by
  unfold Machine.execSourceStart
  refine .actAlways ?_
  dsimp only
  split
  · exact h
  · split
    · exact h.healthFailure
    · exact h.setEnt

theorem OutKeeps.execEntropyBlockReady {h' : Port} {samples : Vector Byte 128} (h : Keeps s u) :
    OutKeeps s (execEntropyBlockReady h' samples u) := by
  unfold Machine.execEntropyBlockReady
  refine .actAlways ?_
  dsimp only
  split
  · exact h
  · split
    · exact h.healthFailure
    · exact h.setEnt.setEntState

theorem Keeps.logTamper {inputs : Nat} (h : Keeps s u) : Keeps s (logTamper u inputs) :=
  h.foldl fun _ _ hv => .ite hv.logPlain hv

theorem Keeps.zeroCipher {k : Nat} (h : Keeps s u) : Keeps s (zeroCipher u k) :=
  h.modPair

theorem Keeps.readTamper {found : Option TamperRecord} (h : Keeps s u) : Keeps s (readTamper u found) := by
  unfold Machine.readTamper
  split
  · exact h.rest rfl
  · exact h

theorem Keeps.tamper {inputs : Nat} (h : Keeps s u) : Keeps s (tamper u inputs) := by
  unfold Machine.tamper
  refine .ite h (.ite h.logTamper ?_)
  extract_lets wiped logged count mesh kept ended
  have hw : Keeps s wiped := h.wipeBoth.zeroGenerator.zeroGenerator.foldl fun _ _ hv => hv.zeroCipher
  clear_value wiped
  have hk : Keeps s kept := hw.logTamper.rest rfl
  clear_value kept
  exact .fatal (.ite (hk.rest rfl) hk)

theorem OutKeeps.execTamperEvent {inputs : Nat} (h : Keeps s u) : OutKeeps s (execTamperEvent inputs u) :=
  .actAlways h.tamper

theorem Keeps.tryImages {d : Nat} {l : List (Bool × List Byte)} (h : Keeps s u) : Keeps s (tryImages d u l).1 := by
  induction l generalizing u with
  | nil => exact h
  | cons e l ih =>
    unfold Machine.tryImages
    split
    · exact h
    · exact ih h.logOnDie

theorem Keeps.bootDone (h : Keeps s u) : Keeps s (bootDone u) := by
  unfold Machine.bootDone
  exact .modPort (.modPort (h.rest rfl))

theorem Keeps.bootFail (h : Keeps s u) : Keeps s (bootFail u) :=
  .bootDone (.logPlain (h.rest rfl))

theorem Keeps.boot {r0 r1 : FlashReading} (h : Keeps s u) : Keeps s (boot u r0 r1) := by
  unfold Machine.boot
  split
  · exact h
  · extract_lets a b tried
    have ht : Keeps s tried := h.tryImages.tryImages
    clear_value tried
    split
    · exact .ite ht.logPlain.bootFail (.refreshPairs (.bootDone (ht.wipeBoth.deriveKeys.rest rfl)))
    · exact ht.bootFail

theorem OutKeeps.execBoot {byH0 byH1 : FlashReading} (h : Keeps s u) : OutKeeps s (execBoot byH0 byH1 u) :=
  .actAlways h.boot

end

/-! ### The functions of `Sys2Proof/Machine/Events.lean` -/

section
variable {s u t : State}

theorem Keeps.onController {h' : Port} {f : HostDie → HostDie} (h : Keeps s u) : Keeps s (onController u h' f) :=
  h.modHost

theorem OutKeeps.execEventMessage {n : Nat} (h : Keeps s u) : OutKeeps s (execEventMessage n u) :=
  .actAlways (.ite h h.fire)

theorem OutKeeps.execWireSourceChange {n : Nat} {high : Bool} {samples : Nat} (h : Keeps s u) :
    OutKeeps s (execWireSourceChange n high samples u) :=
  .actAlways (.ite h (.ite (.hostForward (.ite (.hostForward (h.rest rfl)) (h.rest rfl)))
    (.ite (.hostForward (h.rest rfl)) (h.rest rfl))))

theorem OutKeeps.execEventClaim {h' : Port} {core : Nat} {fast : Bool} (h : Keeps s u) :
    OutKeeps s (execEventClaim h' core fast u) := by
  unfold Machine.execEventClaim
  refine .actAlways ?_
  split
  · exact .ite h.modHost h
  · exact h

theorem OutKeeps.execEventComplete {h' : Port} {core n : Nat} (h : Keeps s u) :
    OutKeeps s (execEventComplete h' core n u) :=
  .actAlways h.modHost

theorem Keeps.takeCount {h' : Port} {n : Nat} {wide : Bool} (h : Keeps s u) : Keeps s (takeCount u h' n wide) := by
  unfold Machine.takeCount
  extract_lets low high v v1
  have hv : Keeps s v := h.onController
  clear_value v
  have hv1 : Keeps s v1 := h.onController
  clear_value v1
  exact .ite (hv.rest rfl) (hv1.rest rfl)

theorem Keeps.hostCountRead {h' : Port} {n : Nat} {wide : Bool} (h : Keeps s u) : Keeps s (hostCountRead u h' n wide) :=
  .ite (h.rest rfl) (.ite (h.rest rfl) h.takeCount)

theorem OutKeeps.execEvcCountRead {h' : Port} {n : Nat} {read : CountRead} (h : Keeps s u) :
    OutKeeps s (execEvcCountRead h' n read u) := by
  unfold Machine.execEvcCountRead
  refine .actAlways ?_
  split
  · exact .overBar (fun _ hv => hv.hostCountRead) h
  · exact .ite h.takeCount h

theorem OutKeeps.execEvcMaskSet {h' : Port} {k word : Nat} (h : Keeps s u) : OutKeeps s (execEvcMaskSet h' k word u) :=
  .actAlways h.modHost

theorem OutKeeps.execEvcMaskClr {h' : Port} {k word : Nat} (h : Keeps s u) : OutKeeps s (execEvcMaskClr h' k word u) :=
  .actAlways h.modHost

theorem Keeps.pendSet {k word : Nat} (h : Keeps s u) : Keeps s (pendSet u k word) :=
  h.foldl fun _ _ hv => hv.fire

theorem OutKeeps.execEvcPendSet {who : Port} {k word : Nat} (h : Keeps s u) :
    OutKeeps s (execEvcPendSet who k word u) :=
  .actAlways h.pendSet

theorem OutKeeps.execEvcPendClr {h' : Port} {k word : Nat} (h : Keeps s u) : OutKeeps s (execEvcPendClr h' k word u) :=
  .actAlways h.onController

theorem OutKeeps.execCoalesceIntervalExpiry {h' : Port} {core : Nat} (h : Keeps s u) :
    OutKeeps s (execCoalesceIntervalExpiry h' core u) :=
  .actAlways (.ite h h.modHost)

theorem OutKeeps.execCoreSleep {h' : Port} {core : Nat} (h : Keeps s u) : OutKeeps s (execCoreSleep h' core u) :=
  .actAlways h.modHost

theorem OutKeeps.execCoreWake {h' : Port} {core : Nat} (h : Keeps s u) : OutKeeps s (execCoreWake h' core u) :=
  .actAlways h.modHost

theorem OutKeeps.execLocalTimerCompare {who : Port} {core : Nat} (h : Keeps s u) :
    OutKeeps s (execLocalTimerCompare who core u) :=
  .actAlways h.fire

theorem Keeps.hostCauseClear {p : Port} {k word : Nat} (h : Keeps s u) : Keeps s (hostCauseClear u p k word) :=
  h.modPort

theorem OutKeeps.execEvcHostCauseClear {p : Port} {k word : Nat} (h : Keeps s u) :
    OutKeeps s (execEvcHostCauseClear p k word u) :=
  .act h (.overBar (fun _ hv => hv.hostCauseClear) h)

theorem OutKeeps.execDieCauseClear {d word : Nat} (h : Keeps s u) : OutKeeps s (execDieCauseClear d word u) :=
  .actAlways h.modDie

theorem OutKeeps.execMsixCoalesceExpiry {p : Port} {v' : Nat} (h : Keeps s u) :
    OutKeeps s (execMsixCoalesceExpiry p v' u) :=
  .actAlways (.ite h (.ite h.msixSend h.setPort))

theorem Keeps.setVectorMask {p : Port} {v' : Nat} {m : Bool} (h : Keeps s u) : Keeps s (setVectorMask u p v' m) :=
  .ite h.setPort.msixSend h.setPort

theorem OutKeeps.execMsixVectorUnmask {p : Port} {v' : Nat} (h : Keeps s u) :
    OutKeeps s (execMsixVectorUnmask p v' u) :=
  .act h (.overBar (fun _ hv => hv.setVectorMask) h)

end

/-! ### The functions of `Sys2Proof/Machine/Frames.lean` -/

section
variable {s u t : State}

theorem Keeps.nextFrame (h : Keeps s u) : Keeps s (nextFrame u) := by
  unfold Machine.nextFrame
  split
  · exact h.rest rfl
  · exact .breakCascade (.logPlain (h.rest rfl))

theorem Keeps.switchSource (h : Keeps s u) : Keeps s (switchSource u) := by
  unfold Machine.switchSource
  split
  · exact h
  · exact .ite (.logPlain (h.rest rfl)) (h.rest rfl)

theorem Keeps.moveStart (h : Keeps s u) : Keeps s (moveStart u) :=
  .ite (.ite (.setTiming (h.rest rfl)) (h.rest rfl)) h

theorem Keeps.holdoverTick (h : Keeps s u) : Keeps s (holdoverTick u) :=
  .ite (h.rest rfl) h

theorem Keeps.flowsAfterTransom (h : Keeps s u) : Keeps s (flowsAfterTransom u) :=
  h.foldl fun _ _ hv => .ite hv.setFlow.breakFlow hv.setFlow

theorem Keeps.exchangeBanks (h : Keeps s u) : Keeps s (exchangeBanks u) :=
  .moveStreams (h.rest rfl)

theorem Keeps.transom (h : Keeps s u) : Keeps s (transom u) :=
  .ite h.exchangeBanks.flowsAfterTransom h

theorem Keeps.armDeadline (h : Keeps s u) : Keeps s (armDeadline u) := by
  unfold Machine.armDeadline
  split
  · exact .ite (.faultCmdOpen (h.tellMembers.rest rfl)) h
  · exact h

theorem Keeps.hallKeyChange (h : Keeps s u) : Keeps s (hallKeyChange u) := by
  unfold Machine.hallKeyChange
  split
  · exact .ite (.refreshPairs (h.rest rfl)) h
  · exact h

theorem Keeps.keyChange {k : Nat} (h : Keeps s u) : Keeps s (keyChange u k) := by
  unfold Machine.keyChange
  dsimp only
  split
  · exact h
  · split
    · exact h.fencePair
    · split
      · exact .ite h.modPair (.ite h.fencePair h.modPair)
      · exact .ite h.fencePair h.modPair

theorem Keeps.nonceTime {k : Nat} (h : Keeps s u) : Keeps s (nonceTime u k) :=
  .ite h.askNonce h

theorem Keeps.takeSlip (h : Keeps s u) : Keeps s (takeSlip u) :=
  .ite (.countSlip (h.rest rfl)) (h.rest rfl)

theorem Keeps.slipCheck (h : Keeps s u) : Keeps s (slipCheck u) := by
  unfold Machine.slipCheck
  dsimp only
  split
  · exact h
  · exact .ite h (.ite (h.rest rfl) (h.rest rfl))

theorem Keeps.sendWord {k pos : Nat} {w : Codeword} (h : Keeps s u) : Keeps s (sendWord u k pos w) :=
  h.send

theorem Keeps.sendWords {k pos : Nat} {words : List (Nat × List Byte)} (h : Keeps s u) :
    Keeps s (sendWords u k pos words) :=
  h.foldl fun _ _ hv => hv.sendWord

theorem Keeps.sendHeader {k : Nat} (h : Keeps s u) : Keeps s (sendHeader u k) := by
  unfold Machine.sendHeader
  split
  · exact h.sendWord.modPair
  · exact h

theorem Keeps.sendOpenAt {k slot : Nat} (h : Keeps s u) : Keeps s (sendOpenAt k u slot) := by
  unfold Machine.sendOpenAt
  split
  · exact h
  · split
    · exact h.sendWord.modPair
    · exact h

theorem Keeps.sendOpen {k : Nat} (h : Keeps s u) : Keeps s (sendOpen u k) :=
  .ite h.modPair (.ite h.modPair.fencePair (h.modPair.foldl fun _ _ hv => hv.sendOpenAt))

theorem Keeps.openTime {k : Nat} (h : Keeps s u) : Keeps s (openTime u k) :=
  .ite h.modPair h.sendOpen

theorem Keeps.remember {k : Nat} {x : SentSlot} (h : Keeps s u) : Keeps s (remember u k x) :=
  h.modPair

theorem Keeps.sendOcc {x : Nat × SchedEntry} (h : Keeps s u) : Keeps s (sendOcc u x) := by
  unfold Machine.sendOcc
  dsimp only
  split
  · exact h
  · split
    · exact h
    · exact h.setTx.sendWords.remember

theorem Keeps.sendRepeat {k : Nat} {a : State × List Nat × List (Nat × Nat)} {r : Nat × Nat} (h : Keeps s a.1) :
    Keeps s (sendRepeat k a r).1 := by
  unfold Machine.sendRepeat
  obtain ⟨v, free, left⟩ := a
  dsimp only
  split
  · exact h
  · split
    · exact Keeps.countRepeat (Keeps.sendWords (Keeps.sendWord h))
    · exact h

theorem Keeps.sendRepeats {k : Nat} (h : Keeps s u) : Keeps s (sendRepeats u k) := by
  unfold Machine.sendRepeats
  refine .ite h ?_
  extract_lets due r
  have hr : Keeps s r.1 := Keeps.foldlOn Prod.fst (b := (u, _)) h fun _ _ ha => ha.sendRepeat
  exact hr.modPair

theorem Keeps.loseOccurrence {k : Nat} {l : LostSlot} (h : Keeps s u) : Keeps s (loseOccurrence u k l) :=
  h.modPair

theorem Keeps.newFrame {k : Nat} (h : Keeps s u) : Keeps s (newFrame u k) :=
  .ite (.modPair (.ite h (h.foldl fun _ _ hv => hv.loseOccurrence))) h

theorem Keeps.awaitFrame (h : Keeps s u) : Keeps s (awaitFrame u) :=
  .ite h (h.foldl fun _ _ hv => .ite hv hv.modPair)

theorem Keeps.frameStart (h : Keeps s u) : Keeps s (frameStart u) := by
  unfold Machine.frameStart
  extract_lets ticked armed keyed framed checked headers occs
  have hk : Keeps s keyed :=
    h.nextFrame.switchSource.moveStart.holdoverTick.armDeadline.transom.hallKeyChange.foldl fun _ _ hv => hv.keyChange
  clear_value keyed
  have hf : Keeps s framed := .foldl (hk.foldl fun _ _ hv => hv.newFrame) fun _ _ hv => hv.nonceTime
  clear_value framed
  have hh : Keeps s headers := hf.takeSlip.awaitFrame.slipCheck.foldl fun _ _ hv => hv.sendHeader
  clear_value headers
  have ho : Keeps s occs := .ite hh (hh.foldl fun _ _ hv => hv.sendOcc)
  clear_value occs
  exact ho.foldl fun _ _ hv => hv.sendRepeats.openTime

theorem OutKeeps.execFrameStart (h : Keeps s u) : OutKeeps s (execFrameStart u) :=
  .act h h.frameStart

theorem Keeps.laneFails {k lane : Nat} {transmit both : Bool} (h : Keeps s u) :
    Keeps s (laneFails u k lane transmit both) := by
  unfold Machine.laneFails
  extract_lets x spare v _ v1 v2
  have hv : Keeps s v := h.modPair
  clear_value v
  have hv1 : Keeps s v1 := hv.rest rfl
  clear_value v1
  have hv2 : Keeps s v2 := hv1.setPairState.logOnPair
  clear_value v2
  exact .ite h (.ite h.fencePair (.ite h (.ite hv2 (.ite hv2.openSend hv2.modPair.send))))

theorem OutKeeps.execLaneFailure {die pair lane : Nat} {why : LaneFault} {both : Bool} (h : Keeps s u) :
    OutKeeps s (execLaneFailure die pair lane why both u) :=
  .act h (.ite h.laneFails h)

theorem Keeps.wordIn {k : Nat} {lanes : List (List Nat)} {r : Option Codeword × State} (h : Keeps s u)
    (e : wordIn u k lanes = r) : Keeps s r.2 := by
  subst e
  unfold Machine.wordIn
  dsimp only
  split
  · dsimp only
    exact h.modPair
  · dsimp only
    exact .modPair (.ite h h.countDie)

theorem Keeps.lateToken {k : Nat} (h : Keeps s u) : Keeps s (lateToken u k) :=
  .ite h.violation (.breakCascade (h.violation.rest rfl))

theorem Keeps.takeToken {k f : Nat} (h : Keeps s u) : Keeps s (takeToken k u f) :=
  .ite h (.ite h.lateToken (h.rest rfl))

theorem Keeps.takeLane {k lane : Nat} (h : Keeps s u) : Keeps s (takeLane u k lane) := by
  unfold Machine.takeLane
  split
  · exact h
  · extract_lets v _ v1
    have hv : Keeps s v := h.modPair
    clear_value v
    have hv1 : Keeps s v1 := hv.rest rfl
    clear_value v1
    exact .ite hv hv1.modPair.setPairState

theorem Keeps.headerTaken {k : Nat} {h' : FrameHeader} (h : Keeps s u) : Keeps s (headerTaken u k h') := by
  unfold Machine.headerTaken
  extract_lets acked taken
  have ht : Keeps s taken := h.modPair.takeLane.foldl fun _ _ hv => hv.takeToken
  clear_value taken
  exact .ite ht.sendOpen ht

theorem Keeps.headerIn {k : Nat} {b : List Byte} (h : Keeps s u) : Keeps s (headerIn u k b) := by
  unfold Machine.headerIn
  dsimp only
  split
  · exact h.violation
  · refine .headerTaken ?_
    split
    · exact h.violation.modPair.foldl fun _ _ hv => hv.breakFlow
    · exact h.modPair

theorem Keeps.headerReceived {k : Nat} {lanes : List (List Nat)} (h : Keeps s u) :
    Keeps s (headerReceived u k lanes) := by
  unfold Machine.headerReceived
  refine .ite h ?_
  split
  · next e =>
    have hv := h.wordIn e
    exact .ite hv.headerIn (.ite hv.violation hv)
  · next e => exact h.wordIn e

theorem OutKeeps.execFrameHeaderReceived {die pair : Nat} {lanes : List (List Nat)} (h : Keeps s u) :
    OutKeeps s (execFrameHeaderReceived die pair lanes u) :=
  .act h h.headerReceived

theorem Keeps.deliver {x : HeldSlot} (h : Keeps s u) : Keeps s (deliver u x) :=
  .ite h (.ite h.setRx h.setRx.handOverFrom)

theorem Keeps.flushHeld {fuel : Nat} (h : Keeps s u) : Keeps s (flushHeld fuel u) := by
  induction fuel generalizing u with
  | zero => exact h
  | succ fuel ih =>
    unfold Machine.flushHeld
    split
    · exact h
    · exact ih (.deliver (h.rest rfl))

theorem Keeps.meetArrived {flow : Nat} (h : Keeps s u) : Keeps s (meetArrived u flow) := by
  unfold Machine.meetArrived
  split
  · exact h
  · exact h.withLaunch fun _ _ _ => .ite h.meetHeaders h

theorem Keeps.flushFlow {flow : Nat} (h : Keeps s u) : Keeps s (flushFlow u flow) :=
  h.flushHeld.meetArrived

theorem Keeps.accept {x : HeldSlot} (h : Keeps s u) : Keeps s (accept u x) :=
  .flushFlow (h.rest rfl)

theorem Keeps.endOcc {k : Nat} {l : LostSlot} (h : Keeps s u) : Keeps s (endOcc u k l) := by
  unfold Machine.endOcc
  dsimp only
  split
  · exact h.modPair.modPair.flushFlow
  · split
    · exact h.modPair.loseOccurrence
    · split
      · exact h.modPair.violation.loseOccurrence
      · exact h.modPair.modPair.modPair.accept

theorem Keeps.takeCodeword {k : Nat} {l : LostSlot} {i : Nat} {w : Option Codeword} (h : Keeps s u) :
    Keeps s (takeCodeword u k l i w) :=
  .ite h.modPair.endOcc h.modPair

theorem Keeps.labelIn {k pos : Nat} {b : List Byte} (h : Keeps s u) : Keeps s (labelIn u k pos b) := by
  unfold Machine.labelIn
  split
  · exact h.violation
  · split
    · exact .ite h.modPair.countRepeat h.violation
    · exact h.violation

theorem Keeps.scheduledIn {k pos : Nat} {w : Option Codeword} (h : Keeps s u) : Keeps s (scheduledIn u k pos w) := by
  unfold Machine.scheduledIn
  split
  · exact h.takeCodeword
  · exact .ite h.labelIn (.ite h.violation h)
  · exact h

theorem Keeps.takeImage {k : Nat} {img : List Byte} (h : Keeps s u) : Keeps s (takeImage u k img) := by
  unfold Machine.takeImage
  dsimp only
  split
  · exact h.openSend
  · exact .ite h.openSend (.openSend (h.rest rfl))

theorem Keeps.takeImagePart {k : Nat} {b : List Byte} (h : Keeps s u) : Keeps s (takeImagePart u k b) :=
  .ite h (.ite h.modPair.takeImage h.modPair)

theorem Keeps.takeArm {k v' f : Nat} (h : Keeps s u) : Keeps s (takeArm u k v' f) :=
  .ite (.openSend (h.rest rfl)) h

theorem Keeps.takeLoaded {m v' code detail : Nat} (h : Keeps s u) : Keeps s (takeLoaded u m v' code detail) := by
  unfold Machine.takeLoaded
  extract_lets _ loaded
  have hl : Keeps s loaded := .ite (h.rest rfl) h
  clear_value loaded
  split
  · exact .ite hl.finishCmd (.ite hl.faultCmd hl.faultCmdOpen)
  · exact hl

theorem Keeps.takeArmed {m v' : Nat} (h : Keeps s u) : Keeps s (takeArmed u m v') := by
  unfold Machine.takeArmed
  split
  · exact h
  · dsimp only
    split
    · exact .ite (.finishCmd (h.rest rfl)) (h.rest rfl)
    · exact h.rest rfl

theorem Keeps.takeMessage {k : Nat} {x : OpenMessage} (h : Keeps s u) : Keeps s (takeMessage u k x) := by
  unfold Machine.takeMessage
  split
  · exact h.modPair
  · exact h.takeImagePart
  · exact h.takeArm
  · exact .ite (h.rest rfl) h
  · exact .ite h.takeArmed h
  · exact .ite h.takeLoaded h
  · exact h.laneFails
  · exact h.violation

theorem Keeps.flushOpen {k type fuel : Nat} (h : Keeps s u) : Keeps s (flushOpen k type fuel u) := by
  induction fuel generalizing u with
  | zero => exact h
  | succ fuel ih =>
    unfold Machine.flushOpen
    dsimp only
    split
    · exact h
    · exact ih h.modPair.takeMessage

theorem Keeps.messageIn {k slot : Nat} {text : List Byte} (h : Keeps s u) : Keeps s (messageIn u k slot text) :=
  .ite h.modPair.modPair.flushOpen h.modPair

theorem Keeps.openIn {k slot : Nat} {w : Codeword} (h : Keeps s u) : Keeps s (openIn u k slot w) := by
  unfold Machine.openIn
  split
  · split
    · exact h.messageIn
    · exact h.violation
  · exact .ite h.violation h

theorem Keeps.openReceived {k slot : Nat} {lanes : List (List Nat)} (h : Keeps s u) :
    Keeps s (openReceived u k slot lanes) := by
  unfold Machine.openReceived
  refine .ite h ?_
  split
  · next e => exact (h.wordIn e).openIn
  · next e => exact h.wordIn e

theorem OutKeeps.execOpenSlotMessage {die pair slot : Nat} {lanes : List (List Nat)} (h : Keeps s u) :
    OutKeeps s (execOpenSlotMessage die pair slot lanes u) :=
  .act h h.openReceived

theorem Keeps.codewordReceived {k pos : Nat} {lanes : List (List Nat)} (h : Keeps s u) :
    Keeps s (codewordReceived u k pos lanes) := by
  unfold Machine.codewordReceived
  refine .ite h.headerReceived (.ite h.openReceived (.ite h ?_))
  split
  next e => exact (h.wordIn e).scheduledIn

theorem OutKeeps.execCodewordReceived {die pair position : Nat} {lanes : List (List Nat)} (h : Keeps s u) :
    OutKeeps s (execCodewordReceived die pair position lanes u) :=
  .act h h.codewordReceived

theorem OutKeeps.execRepeatWindowExpired {die pair position : Nat} (h : Keeps s u) :
    OutKeeps s (execRepeatWindowExpired die pair position u) :=
  .act h (.ite h.fencePair h)

theorem Keeps.tryLock {x3 : Bool} {frame : Nat} (h : Keeps s u) : Keeps s (tryLock u x3 frame) :=
  .ite (h.setTiming.rest rfl) h

theorem Keeps.tryRelock {x3 : Bool} {frame phasePs : Nat} (h : Keeps s u) : Keeps s (tryRelock u x3 frame phasePs) :=
  .ite (h.rest rfl) h

theorem Keeps.chooseSource (h : Keeps s u) : Keeps s (chooseSource u) :=
  .ite h (.ite (h.rest rfl) (.ite (h.rest rfl) (h.rest rfl)))

theorem Keeps.markerReceived {x3 : Bool} {frame periodPs phasePs : Nat} (h : Keeps s u) :
    Keeps s (markerReceived u x3 frame periodPs phasePs) :=
  .chooseSource (.tryRelock (.tryLock (.ite (.setTiming (h.rest rfl)) (h.rest rfl))))

theorem OutKeeps.execMarkerReceived {x3 : Bool} {frame periodPs phasePs : Nat} (h : Keeps s u) :
    OutKeeps s (execMarkerReceived x3 frame periodPs phasePs u) :=
  .act h h.markerReceived

theorem Keeps.markerMissing {x3 : Bool} (h : Keeps s u) : Keeps s (markerMissing u x3) :=
  .ite (.logPlain (.setTiming (h.rest rfl))) (.chooseSource (h.rest rfl))

theorem OutKeeps.execMarkerMissing {x3 : Bool} (h : Keeps s u) : OutKeeps s (execMarkerMissing x3 u) :=
  .act h h.markerMissing

theorem OutKeeps.execHoldoverLimit (h : Keeps s u) : OutKeeps s (execHoldoverLimit u) :=
  .act h (.ite h.setTiming.logPlain h)

theorem OutKeeps.execCalibration {die tempC : Nat} (h : Keeps s u) : OutKeeps s (execCalibration die tempC u) :=
  .act h (h.rest rfl)

theorem Keeps.frameWrite {p : Port} {value : Nat} (h : Keeps s u) : Keeps s (frameWrite u p value) :=
  .ite (h.rest rfl) h

theorem OutKeeps.execOpxFrameWrite {p : Port} {value : Nat} (h : Keeps s u) :
    OutKeeps s (execOpxFrameWrite p value u) :=
  .act h (.overBar (fun _ hv => hv.frameWrite) h)

theorem Keeps.cascadeWrite {p : Port} {value : Nat} (h : Keeps s u) : Keeps s (cascadeWrite u p value) :=
  .ite (h.rest rfl) h

theorem OutKeeps.execOpxCascadeWrite {p : Port} {value : Nat} (h : Keeps s u) :
    OutKeeps s (execOpxCascadeWrite p value u) :=
  .act h (.overBar (fun _ hv => hv.cascadeWrite) h)

theorem Keeps.pairRetrain {p : Port} {die pair value : Nat} (h : Keeps s u) :
    Keeps s (pairRetrain u p die pair value) :=
  .ite (.ite h.bringUp h.refreshPair) h

theorem OutKeeps.execOpxPairRetrain {p : Port} {die pair value : Nat} (h : Keeps s u) :
    OutKeeps s (execOpxPairRetrain p die pair value u) :=
  .act h (.overBar (fun _ hv => hv.pairRetrain) h)

theorem OutKeeps.execLinkNonceRetry {die pair : Nat} (h : Keeps s u) : OutKeeps s (execLinkNonceRetry die pair u) :=
  .act h (.ite h.modPair.askNonce h)

end

/-! ### The functions of `Sys2Proof/Machine/Problem.lean` -/

section
variable {s u t : State}

theorem Keeps.writeReport {q : Queue} {x : Source84} {p : Problem} (h : Keeps s u) (e : writeReport u q x p = .ok t) :
    Keeps s t := by
  unfold Machine.writeReport at e
  split at e
  · cases e
    exact h.rest rfl
  · exact .writeVa (h.rest (by rfl)) e

theorem DoneKeeps.loadBody {x : Cmd} {q : Queue} (h : Keeps s u) : DoneKeeps s (loadBody u x q) := by
  unfold Machine.loadBody
  refine .within fun a _ => .within fun a _ => ?_
  split
  · exact .stop
  · refine .within fun a he3 => ?_
    refine .within fun _ he4 => ?_
    extract_lets v _
    have hv : Keeps s v := .setProblem (h.writeReport he4)
    clear_value v
    exact .ok (hv.rest rfl)

theorem OutKeeps.execLoad {c : Nat} (h : Keeps s u) : OutKeeps s (execLoad c u) :=
  .act h (h.runCmd fun _ _ _ hv => .loadBody hv)

theorem DoneKeeps.rescaleBody {x : Cmd} {q : Queue} (h : Keeps s u) : DoneKeeps s (rescaleBody u x q) :=
  .within fun _ _ => .within fun _ _ => .within fun _ _ => .within fun _ _ => .within fun _ _ => .within fun _ he6 =>
    .ok (.setProblem (h.writeReport he6))

theorem OutKeeps.execRescale {c : Nat} (h : Keeps s u) : OutKeeps s (execRescale c u) :=
  .act h (h.runCmd fun _ _ _ hv => .rescaleBody hv)

theorem DoneKeeps.updateBody {x : Cmd} {q : Queue} (h : Keeps s u) : DoneKeeps s (updateBody u x q) :=
  .within fun _ _ => .within fun _ _ => .within fun _ _ => .within fun _ _ => .within fun _ _ => .within fun _ _ =>
    .within fun _ _ => .ok h.setProblem

theorem OutKeeps.execUpdate {c : Nat} (h : Keeps s u) : OutKeeps s (execUpdate c u) :=
  .act h (h.runCmd fun _ _ _ hv => .updateBody hv)

theorem DoneKeeps.freeBody {x : Cmd} {q : Queue} (h : Keeps s u) : DoneKeeps s (freeBody u x q) :=
  .within fun _ _ => .within fun _ _ => .ok (h.rest rfl)

theorem OutKeeps.execFree {c : Nat} (h : Keeps s u) : OutKeeps s (execFree c u) :=
  .act h (h.runCmd fun _ _ _ hv => .freeBody hv)

theorem DoneKeeps.energyBody {x : Cmd} {q : Queue} (h : Keeps s u) : DoneKeeps s (energyBody u x q) :=
  .within fun _ _ => .within fun _ _ => .within fun _ _ => .within fun _ _ => .within fun _ he5 => .ok
    (.writeVa (h.rest (by rfl)) he5)

theorem OutKeeps.execEnergy {c : Nat} (h : Keeps s u) : OutKeeps s (execEnergy c u) :=
  .act h (h.runCmd fun _ _ _ hv => .energyBody hv)

end

/-! ### The functions of `Sys2Proof/Machine/Neural.lean` -/

section
variable {s u t : State}

theorem DoneKeeps.registerBody {x : Cmd} {q : Queue} (h : Keeps s u) : DoneKeeps s (registerBody u x q) := by
  unfold Machine.registerBody
  dsimp only
  refine .within fun a _ => .within fun a _ => ?_
  split
  · exact .ok h.setProblem
  · refine .within fun a he3 => ?_
    refine .within fun _ _ => .within fun _ _ => .within fun _ _ => .within fun _ _ => .within fun _ _ => ?_
    split
    · exact .stop
    · exact .within fun _ _ => .ok h.setProblem

theorem OutKeeps.execRegisterNeuralTerm {c : Nat} (h : Keeps s u) : OutKeeps s (execRegisterNeuralTerm c u) :=
  .act h (h.runCmd fun _ _ _ hv => .registerBody hv)

end

/-! ### The functions of `Sys2Proof/Machine/Reset.lean` -/

section
variable {s u t : State}

theorem Keeps.logIdxWrite {p : Port} {n : Nat} (h : Keeps s u) : Keeps s (logIdxWrite u p n) :=
  h.modPort

theorem OutKeeps.execFltLogReadIdxWrite {p : Port} {n : Nat} (h : Keeps s u) :
    OutKeeps s (execFltLogReadIdxWrite p n u) :=
  .act h (.overBar (fun _ hv => hv.logIdxWrite) h)

theorem Keeps.countViolation {p : Port} (h : Keeps s u) : Keeps s (countViolation u p) :=
  h.countPort

theorem Keeps.readFault {p : Port} {r' : HostRead} {code : Nat} (h : Keeps s u) : Keeps s (readFault u p r' code) := by
  unfold Machine.readFault
  split
  · exact h.countViolation.faultCmd
  · exact h.pcieViolation

theorem Keeps.aerReport {p : Port} {code : Nat} (h : Keeps s u) : Keeps s (aerReport u p code) :=
  .send (h.modPort.rest rfl)

theorem Keeps.readLost {p : Port} {tag : Nat} (h : Keeps s u) : Keeps s (readLost u p tag) := by
  unfold Machine.readLost
  split
  · exact h
  · exact .ite h.modPort h.modPort.readFault

theorem Keeps.readAnswered {p : Port} {tag : Nat} {poisoned : Bool} {status : Nat} (h : Keeps s u) :
    Keeps s (readAnswered u p tag poisoned status) := by
  unfold Machine.readAnswered
  split
  · exact .ite h.modPort (.ite h.modPort.readFault (.ite h.modPort.readFault h.modPort))
  · exact h.modPort.pcieViolation.aerReport

theorem Keeps.tlpReceived {p : Port} {x : Tlp} (h : Keeps s u) : Keeps s (tlpReceived u p x) := by
  unfold Machine.tlpReceived
  split
  · dsimp only
    split
    · exact h.pcieViolation.aerReport.readLost
    · exact h.pcieViolation.aerReport
  · exact h.readAnswered
  · exact .overBar (fun _ hv => hv.pcieViolation) h
  · exact .overBar (fun _ hv => .ite hv.pcieViolation.send hv.pcieViolation) h
  · exact h.pcieViolation.atsCompletion
  · exact h.pcieViolation.invalidate
  · exact h.pcieViolation

theorem OutKeeps.execPcieTlpReceived {p : Port} {tlp : Tlp} (h : Keeps s u) :
    OutKeeps s (execPcieTlpReceived p tlp u) :=
  .actAlways (.ite h.tlpReceived h)

theorem OutKeeps.execPcieCompletionTimeout {p : Port} {tag : Nat} (h : Keeps s u) :
    OutKeeps s (execPcieCompletionTimeout p tag u) :=
  .actAlways h.readLost

theorem OutKeeps.execPcieTagWithholdExpiry {p : Port} {tag : Nat} (h : Keeps s u) :
    OutKeeps s (execPcieTagWithholdExpiry p tag u) :=
  .actAlways h.modPort

theorem OutKeeps.execPostedCreditsWithheld {p : Port} (h : Keeps s u) : OutKeeps s (execPostedCreditsWithheld p u) := by
  unfold Machine.execPostedCreditsWithheld
  refine .act h ?_
  dsimp only
  refine .foldl h.modPort.pcieViolation fun v a hv => ?_
  split
  · exact .ite hv hv.queueStop
  · exact hv

theorem Keeps.stopQueues {p : Port} (h : Keeps s u) : Keeps s (stopQueues u p) := by
  unfold Machine.stopQueues
  refine .foldl h fun v a hv => ?_
  split
  · exact .foldl (.ite hv.setQueue hv.setQueue.queueStop) fun _ _ hv2 => hv2.startShutter
  · exact hv

theorem OutKeeps.execPortLinkDown {p : Port} (h : Keeps s u) : OutKeeps s (execPortLinkDown p u) :=
  .actAlways (.ite h h.modPort.logOnPort.stopQueues.finishDue)

theorem OutKeeps.execD3hotTransition {p : Port} (h : Keeps s u) : OutKeeps s (execD3hotTransition p u) :=
  .actAlways (.ite h h.modPort.stopQueues)

theorem Keeps.resumeEnds {p : Port} (h : Keeps s u) : Keeps s (resumeEnds u p) :=
  h.foldl fun _ _ hv => hv.endTask

theorem Keeps.writeHeld {p : Port} (h : Keeps s u) : Keeps s (writeHeld u p) := by
  unfold Machine.writeHeld
  refine .foldl h fun v a hv => ?_
  split
  · exact hv.flushRecords
  · exact hv

theorem Keeps.sendPending {p : Port} (h : Keeps s u) : Keeps s (sendPending u p) :=
  h.foldl fun _ _ hv => hv.setVectorMask

theorem Keeps.sendHeld {p : Port} (h : Keeps s u) : Keeps s (sendHeld u p) :=
  h.modPort.rest rfl

theorem Keeps.resumePort {p : Port} (h : Keeps s u) : Keeps s (resumePort u p) :=
  .ite h.sendHeld.writeHeld.resumeEnds.sendPending.finishDue h

theorem OutKeeps.execPortLinkUp {p : Port} (h : Keeps s u) : OutKeeps s (execPortLinkUp p u) :=
  .actAlways (.ite h h.modPort.resumePort)

theorem OutKeeps.execD3hotExit {p : Port} (h : Keeps s u) : OutKeeps s (execD3hotExit p u) :=
  .actAlways h.modPort.resumePort

theorem OutKeeps.execBusMasterEnableChange {p : Port} {on memory parity serr : Bool} {msix : MsixControl}
    {words : List (Nat × Nat)} (h : Keeps s u) :
    OutKeeps s (execBusMasterEnableChange p on memory parity serr msix words u) :=
  .actAlways (.ite h h.modPort.resumePort)

theorem OutKeeps.execHostDieLost {lost : Port} (h : Keeps s u) : OutKeeps s (execHostDieLost lost u) :=
  .act h (.fatal (h.rest rfl))

theorem Keeps.failRequests {p : Port} (h : Keeps s u) : Keeps s (failRequests u p) := by
  unfold Machine.failRequests
  extract_lets x setup map sec end_ v _ v1 _ v2 _
  have hv : Keeps s v := h.setPort
  clear_value v
  have hv1 : Keeps s v1 := .ite (.fire (hv.rest rfl)) hv
  clear_value v1
  have hv2 : Keeps s v2 := .ite (.fire (hv1.rest rfl)) hv1
  clear_value v2
  exact .ite (.fire (hv2.rest rfl)) hv2

theorem Keeps.warnPort {requester : Nat} {p : Port} (h : Keeps s u) : Keeps s (warnPort requester u p) :=
  h.modPort

theorem Keeps.beginReset {requester : Nat} (h : Keeps s u) : Keeps s (beginReset u requester) := by
  unfold Machine.beginReset
  extract_lets _ begun failed warned told
  have hw : Keeps s warned := .warnPort (.warnPort (.failRequests (.failRequests (h.rest rfl))))
  clear_value warned
  have ht : Keeps s told := .ite hw.msixTrigger hw
  clear_value told
  exact .ite ht.msixTrigger ht

theorem Keeps.killStep (h : Keeps s u) : Keeps s (killStep u) :=
  h.killAll.rest rfl

theorem Keeps.resetAck {p : Port} (h : Keeps s u) : Keeps s (resetAck u p) :=
  .ite h (.ite (.killStep (h.rest rfl)) (h.rest rfl))

theorem Keeps.resetRequest {p : Port} {key : Nat} (h : Keeps s u) : Keeps s (resetRequest u p key) :=
  .ite h (.ite h.beginReset h.resetAck)

theorem OutKeeps.execModuleResetRequest {p : Port} {key : Nat} (h : Keeps s u) :
    OutKeeps s (execModuleResetRequest p key u) :=
  .actAlways h.resetRequest

theorem OutKeeps.execResetAck {p : Port} (h : Keeps s u) : OutKeeps s (execResetAck p u) :=
  .actAlways (.ite h.resetAck h)

theorem OutKeeps.execResetGraceExpiry (h : Keeps s u) : OutKeeps s (execResetGraceExpiry u) :=
  .actAlways (.ite h.killStep h)

theorem Keeps.placeAreas (h : Keeps s u) : Keeps s (placeAreas u) := by
  unfold Machine.placeAreas
  extract_lets
  exact h.rest rfl

/-- Of the memory a reset keeps some bytes, and it keeps no page and no map request. -/
theorem Keeps.allReset (h : Keeps s u) : Keeps s (allReset u) := by
  unfold Machine.allReset
  refine .placeAreas ⟨fun hs => ?_, fun _ => ?_⟩
  · exact memWf_filter _ (h.memory hs)
  · exact List.nodup_nil

theorem Keeps.abandonMirror (h : Keeps s u) : Keeps s (abandonMirror u) :=
  .ite (h.rest rfl) h

theorem Keeps.resetMirror (h : Keeps s u) : Keeps s (resetMirror u) :=
  .ite h.abandonMirror.logPlain h

theorem OutKeeps.execResetDies (h : Keeps s u) : OutKeeps s (execResetDies u) :=
  .actAlways (.ite h.resetMirror.allReset h)

theorem Keeps.meshTransition (h : Keeps s u) : Keeps s (meshTransition u) :=
  .ite (.rest (.ite h.moveTo h) rfl) h

theorem Keeps.trainStacks (h : Keeps s u) : Keeps s (trainStacks u) := by
  unfold Machine.trainStacks
  exact h.rest rfl

theorem Keeps.failTraining {n : Nat} (h : Keeps s u) : Keeps s (failTraining u n) :=
  h.setStack

theorem Keeps.powerOn {agree lid : Bool} {record : Option TamperRecord} {absent : List Nat} {a b : March}
    (h : Keeps s u) :
    Keeps s (powerOn u agree record lid absent a b) := by
  unfold Machine.powerOn
  split
  · exact h
  extract_lets _ reset _ _ risen placed marched
  have hr : Keeps s reset := .allReset (h.rest rfl)
  clear_value reset
  have hu : Keeps s risen := hr.rest rfl
  clear_value risen
  have hp : Keeps s placed := .placeAreas (.foldl hu.readTamper.trainStacks fun _ _ hx => hx.failTraining)
  clear_value placed
  have hm : Keeps s marched := hp.wipeBoth.fullMarch.fullMarch.meshTransition
  clear_value marched
  exact .ite hm.fatal (.ite hm.tamper hm)

theorem OutKeeps.execPowerOn {recordsAgree : Bool} {record : Option TamperRecord} {lidOpen : Bool} {absent : List Nat}
    {marchA marchB : March} (h : Keeps s u) :
    OutKeeps s (execPowerOn recordsAgree record lidOpen absent marchA marchB u) :=
  .actAlways h.powerOn

theorem Keeps.collapse (h : Keeps s u) : Keeps s (collapse u) :=
  h.abandonMirror.killAll.rest rfl

theorem OutKeeps.execInputCollapse (h : Keeps s u) : OutKeeps s (execInputCollapse u) :=
  .actAlways (.ite h (.collapse (h.rest rfl)))

theorem Keeps.inputChange {mv : Nat} (h : Keeps s u) : Keeps s (inputChange u mv) := by
  unfold Machine.inputChange
  extract_lets _ v v1
  have hv : Keeps s v := h.rest rfl
  clear_value v
  have hv1 : Keeps s v1 := .ite hv (.ite hv.collapse hv.inputResponse)
  clear_value v1
  exact .ite (hv1.rest rfl) hv1

theorem OutKeeps.execInputVoltageChange {mv : Nat} (h : Keeps s u) : OutKeeps s (execInputVoltageChange mv u) :=
  .actAlways h.inputChange

theorem OutKeeps.execSpiHoldoffChange {high : Bool} (h : Keeps s u) : OutKeeps s (execSpiHoldoffChange high u) :=
  .actAlways (h.rest rfl)

end

/-! ### The functions of `Sys2Proof/Machine/Pmbus.lean` -/

section
variable {s u t : State}

theorem Keeps.overBus {f : State → State} (hf : ∀ v, Keeps s v → Keeps s (f v)) (h : Keeps s u) :
    Keeps s (overBus f u) :=
  .ite (hf _ h) h

theorem OutKeeps.onBus {f : State → State} (h : Keeps s u) (hf : ∀ v, Keeps s v → Keeps s (f v)) :
    OutKeeps s (onBus u f) :=
  .actAlways (.overBus (fun _ hv => hf _ hv) h)

theorem Keeps.answer {v' : Nat} (h : Keeps s u) : Keeps s (u.answer v') :=
  h.rest rfl

theorem OutKeeps.execClearFaults (h : Keeps s u) : OutKeeps s (execClearFaults u) :=
  .onBus h fun _ hv => hv.rest rfl

theorem OutKeeps.execSmbalertMask {status : Nat} {w : Option Nat} (h : Keeps s u) :
    OutKeeps s (execSmbalertMask status w u) := by
  unfold Machine.execSmbalertMask
  refine .actAlways ?_
  refine .overBus (fun v hv => ?_) h
  split
  · exact hv.rest rfl
  · exact hv.answer

theorem OutKeeps.execStatusWord (h : Keeps s u) : OutKeeps s (execStatusWord u) :=
  .onBus h fun _ hv => hv.answer

theorem OutKeeps.execStatusInput (h : Keeps s u) : OutKeeps s (execStatusInput u) :=
  .onBus h fun _ hv => hv.answer

theorem OutKeeps.execStatusTemperature (h : Keeps s u) : OutKeeps s (execStatusTemperature u) :=
  .onBus h fun _ hv => hv.answer

theorem OutKeeps.execReadVin (h : Keeps s u) : OutKeeps s (execReadVin u) :=
  .onBus h fun _ hv => hv.answer

theorem OutKeeps.execReadIin (h : Keeps s u) : OutKeeps s (execReadIin u) :=
  .onBus h fun _ hv => hv.answer

theorem OutKeeps.execReadTemperature1 (h : Keeps s u) : OutKeeps s (execReadTemperature1 u) :=
  .onBus h fun _ hv => hv.answer

theorem OutKeeps.execReadTemperature2 (h : Keeps s u) : OutKeeps s (execReadTemperature2 u) :=
  .onBus h fun _ hv => hv.answer

theorem OutKeeps.execReadPin (h : Keeps s u) : OutKeeps s (execReadPin u) :=
  .onBus h fun _ hv => hv.answer

theorem OutKeeps.execMfrId (h : Keeps s u) : OutKeeps s (execMfrId u) :=
  .onBus h fun _ hv => hv.answer

theorem OutKeeps.execMfrModel (h : Keeps s u) : OutKeeps s (execMfrModel u) :=
  .onBus h fun _ hv => hv.answer

theorem OutKeeps.execMfrSerial (h : Keeps s u) : OutKeeps s (execMfrSerial u) :=
  .onBus h fun _ hv => hv.answer

theorem OutKeeps.execMfrModuleReset {v' : Nat} (h : Keeps s u) : OutKeeps s (execMfrModuleReset v' u) :=
  .actAlways (.overBus (fun _ hv => .ite hv.beginReset hv) h)

theorem OutKeeps.execMfrLifecycle (h : Keeps s u) : OutKeeps s (execMfrLifecycle u) :=
  .onBus h fun _ hv => hv.answer

end

/-! ### The functions of `Sys2Proof/Machine/RegWrite.lean` -/

section
variable {s u t : State}

theorem Keeps.modDieStat {d off : Nat} {f : Stat → Stat} (h : Keeps s u) : Keeps s (modDieStat u d off f) := by
  unfold Machine.modDieStat
  dsimp only
  split
  · exact .ite (.ite h.modEng h) (.ite h.modEng h)
  · split
    · exact .ite (.ite h.modEng h) (.ite (.ite h.modEng h) (.ite (.ite h.modEng h) (.ite (.ite h.modEng h)
        (.ite (.ite h.modEng h) h))))
    · split
      · exact .ite h (.ite h.modBank (.ite h.modBank h))
      · exact .ite h.modDie (.ite h.modDie (.ite h.modDie (.ite h.modDie h)))

theorem Keeps.modStat {p : Port} {off : Nat} {f : Stat → Stat} (h : Keeps s u) : Keeps s (modStat u p off f) :=
  .ite h.modPort (.ite (h.rest rfl) (.ite h.setEnt (.ite h.setEnt (.ite (h.rest rfl) (.ite (h.rest rfl)
    (.ite (h.rest rfl) (.ite (h.rest rfl) (.ite (h.rest rfl) (.ite (h.rest rfl) (.ite h.modPort
    (.ite (.ite h.modDieStat h) h)))))))))))

theorem OutKeeps.execStatisticClear {p : Port} {off v' : Nat} (h : Keeps s u) :
    OutKeeps s (execStatisticClear p off v' u) :=
  .act h (.overBar (fun _ hv => hv.modStat) h)

theorem Keeps.goSetup {p : Port} (h : Keeps s u) : Keeps s (goSetup u p) :=
  .ite h (.ite h.modPort.fire (h.modPort.rest rfl))

theorem Keeps.goMap {p : Port} (h : Keeps s u) : Keeps s (goMap u p) :=
  .ite h (.ite h.modPort.fire (h.modPort.rest rfl))

theorem Keeps.goSec {p : Port} (h : Keeps s u) : Keeps s (goSec u p) :=
  .ite h (.ite h.modPort.fire (h.modPort.rest rfl))

theorem Keeps.writeQfe {p : Port} {off v' : Nat} (h : Keeps s u) : Keeps s (writeQfe u p off v') := by
  unfold Machine.writeQfe
  split
  · exact h.modPort
  · split
    · exact h.modPort
    · split
      · exact .ite h.goSetup h
      · split
        · exact h.timeLimitWrite
        · split
          · exact h.pollWrite
          · split
            · exact h.enginePortWrite
            · split
              · exact h.sillWrite
              · exact h

theorem Keeps.vecCoalWrite {p : Port} {n v' : Nat} (h : Keeps s u) : Keeps s (vecCoalWrite u p n v') :=
  h.modPort

theorem Keeps.writeEvc {p : Port} {off v' : Nat} (h : Keeps s u) : Keeps s (writeEvc u p off v') := by
  unfold Machine.writeEvc
  split
  · exact h.modPort
  · split
    · exact h.hostCauseClear
    · split
      · exact h.modPort
      · split
        · exact h.vecCoalWrite
        · exact h

theorem Keeps.writePwr {p : Port} {off v' : Nat} (h : Keeps s u) : Keeps s (writePwr u p off v') := by
  unfold Machine.writePwr
  split
  · exact h.capWrite
  · split
    · exact h.powerCtrlWrite
    · split
      · exact h.phaseWrite
      · exact h

theorem Keeps.writeSec {p : Port} {off v' : Nat} (h : Keeps s u) : Keeps s (writeSec u p off v') :=
  .ite h.modPort (.ite h.modPort (.ite (.ite h.goSec h) h))

theorem Keeps.writeMem {p : Port} {off v' : Nat} (h : Keeps s u) : Keeps s (writeMem u p off v') :=
  .ite h.modPort (.ite h.modPort (.ite (.ite h.goMap h) (.ite h.problemAreaWrite h)))

theorem Keeps.writeOpx {p : Port} {off v' : Nat} (h : Keeps s u) : Keeps s (writeOpx u p off v') :=
  .ite h (.ite (.refreshPairs (h.rest rfl)) (.ite h.frameWrite (.ite (h.rest rfl) (.ite (h.rest rfl) (.ite (h.rest rfl)
    (.ite (h.rest rfl) (.ite h.cascadeWrite (.ite (.ite (h.rest rfl) h) h))))))))

theorem Keeps.resetWrite {p : Port} {v' : Nat} (h : Keeps s u) : Keeps s (resetWrite u p v') :=
  .ite h.resetRequest.resetAck h.resetRequest

theorem Keeps.writeFlt {p : Port} {off v' : Nat} (h : Keeps s u) : Keeps s (writeFlt u p off v') :=
  .ite h.modPort (.ite h.modPort (.ite h.modPort (.ite h.resetWrite (.ite h (.ite h.logIdxWrite (.ite h.modPort h))))))

theorem Keeps.peerWrite {k v' : Nat} (h : Keeps s u) : Keeps s (peerWrite u k v') :=
  h.modPair.refreshPair

theorem Keeps.writeDie {p : Port} {d off v' : Nat} (h : Keeps s u) : Keeps s (writeDie u p d off v') := by
  unfold Machine.writeDie
  split
  · exact h
  · split
    · split
      · exact h.pairRetrain
      · split
        · exact h.peerWrite
        · exact h
    · exact .ite h.testCtrlWrite h

theorem Keeps.writeMsix {p : Port} {off v' : Nat} (h : Keeps s u) : Keeps s (writeMsix u p off v') :=
  .ite h.modPort (.ite h.modPort (.ite h.modPort h.setVectorMask))

theorem Keeps.writeWindow {p : Port} {off v' : Nat} (h : Keeps s u) : Keeps s (writeWindow u p off v') :=
  .ite h (.ite h.writeQfe (.ite h.writeEvc (.ite h.writePwr
    (.ite h (.ite h.writeSec (.ite h.writeMem
    (.ite h (.ite h.writeOpx (.ite h.writeFlt (.ite h (.ite h.writeDie (.ite h.writeMsix h))))))))))))

theorem Keeps.writeReg {p : Port} {off v' : Nat} (h : Keeps s u) : Keeps s (writeReg p u off v') :=
  .ite h (.ite (.ite h.writeFlt h) (.ite (.ite h.writeSec h) h.writeWindow.modStat))

/-- `coreWrite` and `inArray` are made abstract before the unfolding, so that no check evaluates the search of an array. -/
theorem Keeps.coreWrite {h' : Port} {off v' : Nat} (h : Keeps s u) : Keeps s (coreWrite u h' off v') := by
  obtain ⟨write, hw⟩ : ∃ write, Machine.coreWrite = write := ⟨_, rfl⟩
  obtain ⟨find, hfind⟩ : ∃ find, inArray = find := ⟨_, rfl⟩
  rw [hw]
  delta Machine.coreWrite at hw
  rw [hfind] at hw
  subst hw
  clear hfind
  dsimp only
  split
  · exact h.onController
  · split
    · exact h.modHost
    · split
      · exact .ite h.modHost (.ite h.modHost (.ite h.pendSet h.onController))
      · exact h

theorem OutKeeps.execRegisterWrite {p : Port} {byCore : Bool} {off v' : Nat} {wide : Bool} (h : Keeps s u) :
    OutKeeps s (execRegisterWrite p byCore off v' wide u) :=
  .actAlways (.ite (.ite h.coreWrite.coreWrite h.coreWrite) (.ite h.pcieViolation
    (.overBar (fun _ hv => .ite hv.writeReg.writeReg hv.writeReg) h)))

end

/-! ### The functions of `Sys2Proof/Machine/Vector.lean` -/

section
variable {s u t : State}

theorem DoneKeeps.finishRows {slips : List TagSlip} {x : Cmd} {q : Queue} {os : List Operand}
    {rows : Try (List (List Val))} (h : Keeps s u) :
    DoneKeeps s (finishRows slips u x q os rows) := by
  unfold Machine.finishRows
  split
  · exact .stop
  · exact .paired h fun _ => .writing h fun _ _ => .writing h fun _ he2 => .ok (.writeTensor (h.rest (by rfl)) he2)

theorem DoneKeeps.elementBody {slips : List TagSlip} {x : Cmd} {q : Queue} (h : Keeps s u) :
    DoneKeeps s (elementBody slips u x q) := by
  unfold Machine.elementBody
  dsimp only
  refine .within fun _ _ => .within fun _ _ => .within fun _ _ => ?_
  split
  · exact .stop
  · exact .finishRows h

theorem OutKeeps.execElementWise {c : Nat} {slips : List TagSlip} (h : Keeps s u) :
    OutKeeps s (execElementWise c slips u) :=
  .act h (h.runCmd fun _ _ _ hv => .elementBody hv)

theorem DoneKeeps.normaliseBody {slips : List TagSlip} {x : Cmd} {q : Queue} (h : Keeps s u) :
    DoneKeeps s (normaliseBody slips u x q) :=
  .within fun _ _ => .within fun _ _ => .within fun _ _ => .finishRows h

theorem OutKeeps.execNormalise {c : Nat} {slips : List TagSlip} (h : Keeps s u) :
    OutKeeps s (execNormalise c slips u) :=
  .act h (h.runCmd fun _ _ _ hv => .normaliseBody hv)

theorem DoneKeeps.softmaxBody {slips : List TagSlip} {x : Cmd} {q : Queue} (h : Keeps s u) :
    DoneKeeps s (softmaxBody slips u x q) :=
  .within fun _ _ => .within fun _ _ => .finishRows h

theorem OutKeeps.execSoftmax {c : Nat} {slips : List TagSlip} (h : Keeps s u) : OutKeeps s (execSoftmax c slips u) :=
  .act h (h.runCmd fun _ _ _ hv => .softmaxBody hv)

theorem DoneKeeps.optimiserBody {slips : List TagSlip} {x : Cmd} {q : Queue} (h : Keeps s u) :
    DoneKeeps s (optimiserBody slips u x q) := by
  unfold Machine.optimiserBody
  dsimp only
  refine .within fun a _ => .within fun a _ => ?_
  split
  · exact .stop
  · refine .within fun a he3 => ?_
    refine .paired h fun a => ?_
    split
    · split
      · refine .writing h fun a he4 => ?_
        refine .writing h fun _ he5 => ?_
        split
        · exact .writing h fun _ he6 => .ok (.writeTensor (.writeTensor (.writeTensor (h.rest (by rfl)) he4) he5) he6)
        · exact .ok (.writeTensor (.writeTensor (h.rest (by rfl)) he4) he5)
      · exact .stop
    · exact .badWriting h
    · exact .badWriting h
    · exact .badWriting h
    · exact .badWriting h

theorem OutKeeps.execOptimiserStep {c : Nat} {slips : List TagSlip} (h : Keeps s u) :
    OutKeeps s (execOptimiserStep c slips u) :=
  .act h (h.runCmd fun _ _ _ hv => .optimiserBody hv)

end

/-! ### The functions of `Sys2Proof/Machine/Dispatch.lean` -/

section
variable {s u t : State}

theorem OutKeeps.exec {i : Instr} (h : Keeps s u) : OutKeeps s (exec i u) := by
  unfold Machine.exec
  split
  · exact .execPacketForward h
  · exact .execCreditToggle h
  · exact .execBridgeHandshakeTimeout h
  · exact .execDetourTableSwitch h
  · exact .execNoOp h
  · exact .execFenceWait h
  · exact .execFenceWaitSatisfied h
  · exact .execFenceSignal h
  · exact .execQueueBarrier h
  · exact .execResume h
  · exact .execCopy h
  · exact .execConvert h
  · exact .execMatrixMultiply h
  · exact .execConvolve h
  · exact .execWriteOut h
  · exact .execRelease h
  · exact .execSum h
  · exact .execCombinePartials h
  · exact .execTopK h
  · exact .execElementWise h
  · exact .execNormalise h
  · exact .execSoftmax h
  · exact .execOptimiserStep h
  · exact .execLoad h
  · exact .execRescale h
  · exact .execRegisterNeuralTerm h
  · exact .execUpdate h
  · exact .execFree h
  · exact .execEnergy h
  · exact .execAnnealLaunch h
  · exact .execLadderSet h
  · exact .execResultRead h
  · exact .execGraphCreate h
  · exact .execGraphLaunch h
  · exact .execPatch h
  · exact .execPatchCommit h
  · exact .execGraphDestroy h
  · exact .execGraphNodeStart h
  · exact .execGraphNodeComplete h
  · exact .execStoreCreate h
  · exact .execStoreRead h
  · exact .execStoreWrite h
  · exact .execStoreProgramComplete h
  · exact .execStoreTrim h
  · exact .execStoreReport h
  · exact .execStoreDestroy h
  · exact .execAllReduce h
  · exact .execAllGather h
  · exact .execBoundaryExchange h
  · exact .execSend h
  · exact .execReceive h
  · exact .execScheduleLoad h
  · exact .execScheduleArm h
  · exact .execLaunchTask h
  · exact .execEnqueue h
  · exact .execDeviceFedSpaceAvailable h
  · exact .execStopTask h
  · exact .execTaskHalt h
  · exact .execTaskAdd h
  · exact .execTaskSub h
  · exact .execTaskAnd h
  · exact .execTaskOr h
  · exact .execTaskXor h
  · exact .execTaskShl h
  · exact .execTaskShr h
  · exact .execTaskMul h
  · exact .execTaskAddi h
  · exact .execTaskLdw h
  · exact .execTaskLd h
  · exact .execTaskSt h
  · exact .execTaskAadd h
  · exact .execTaskAswp h
  · exact .execTaskBeq h
  · exact .execTaskBne h
  · exact .execTaskBlt h
  · exact .execTaskBltu h
  · exact .execTaskLoop h
  · exact .execTaskWaitq h
  · exact .execWaitqSatisfied h
  · exact .execTaskEnq h
  · exact .execTaskWaitf h
  · exact .execWaitfSatisfied h
  · exact .execTaskSigf h
  · exact .execTaskDone h
  · exact .execTaskTime h
  · exact .execReservedInstruction h
  · exact .execTaskRanWithoutWaiting h
  · exact .execDoorbellPoll h
  · exact .execDescriptorRead h
  · exact .execCommandStart h
  · exact .execHostAccess h
  · exact .execAtsTranslationCompletion h
  · exact .execPrgResponse h
  · exact .execPageRequestTimeout h
  · exact .execAtsInvalidationRequest h
  · exact .execInvalidationDrainEnd h
  · exact .execCommandTimeLimit h
  · exact .execShutterDrainTimeout h
  · exact .execShutterComplete h
  · exact .execRealtimePreempt h
  · exact .execContextSave h
  · exact .execContextRestore h
  · exact .execSetupCreateQueue h
  · exact .execSetupDestroyQueue h
  · exact .execQueueTeardownComplete h
  · exact .execSetupCreateFence h
  · exact .execSetupDestroyFence h
  · exact .execSetupRequestInvalid h
  · exact .execQfeEnginePortWrite h
  · exact .execQfeSillWrite h
  · exact .execQfeTimeLimitWrite h
  · exact .execQfePollWrite h
  · exact .execGroupSequence h
  · exact .execPartialCombine h
  · exact .execAccumulatorCommit h
  · exact .execStartUpSequence h
  · exact .execTestSequence h
  · exact .execShadowSetExchange h
  · exact .execScratchpadHandshake h
  · exact .execBackgroundPassStart h
  · exact .execRegionPhaseEnd h
  · exact .execSpdTestCtrlWrite h
  · exact .execAnnealBatch h
  · exact .execTableRebuildComplete h
  · exact .execEpochEnd h
  · exact .execBoundaryValuesReceived h
  · exact .execEnergyReduction h
  · exact .execEpochStart h
  · exact .execRunSeedArrival h
  · exact .execBlockPageInComplete h
  · exact .execNeuralEngineEligible h
  · exact .execLaunchComplete h
  · exact .execMap h
  · exact .execMapZeroingComplete h
  · exact .execUnmap h
  · exact .execUnmapDrainEnd h
  · exact .execBindStore h
  · exact .execListStores h
  · exact .execReadDump h
  · exact .execMapRequestInvalid h
  · exact .execHbmAccess h
  · exact .execPatrolScrub h
  · exact .execUnitRetirement h
  · exact .execPinLaneRepair h
  · exact .execMemProblemAreaWrite h
  · exact .execFlashPageRead h
  · exact .execFlashDieRebuild h
  · exact .execFlashProgramFail h
  · exact .execWearLevelCopy h
  · exact .execRetentionRefresh h
  · exact .execReadDisturbCopy h
  · exact .execDumpMirror h
  · exact .execFrameStart h
  · exact .execFrameHeaderReceived h
  · exact .execCodewordReceived h
  · exact .execRepeatWindowExpired h
  · exact .execOpenSlotMessage h
  · exact .execMarkerReceived h
  · exact .execMarkerMissing h
  · exact .execHoldoverLimit h
  · exact .execCalibration h
  · exact .execLaneFailure h
  · exact .execOpxFrameWrite h
  · exact .execOpxCascadeWrite h
  · exact .execOpxPairRetrain h
  · exact .execFastLoop h
  · exact .execCollectiveHoldTimeout h
  · exact .execCapControllerPeriod h
  · exact .execUrgentAllocation h
  · exact .execRailRampComplete h
  · exact .execMarginTrim h
  · exact .execDroopToNominal h
  · exact .execHoldUpBankLow h
  · exact .execInputVoltageChange h
  · exact .execOvervoltageTimeout h
  · exact .execThermalChange h
  · exact .execThermalTripTimeout h
  · exact .execPointOfLoadFailure h
  · exact .execControllerTakeover h
  · exact .execPwrCapWrite h
  · exact .execPwrCtrlWrite h
  · exact .execPwrPhaseWrite h
  · exact .execSourceStart h
  · exact .execEntropyBlockReady h
  · exact .execHealthTestFailure h
  · exact .execFailureCountDecay h
  · exact .execGeneratorGrant h
  · exact .execEntropyStallTimeout h
  · exact .execLinkNonceRetry h
  · exact .execEntRngRead h
  · exact .execBoot h
  · exact .execTamperEvent h
  · exact .execAttest h
  · exact .execReadCertificate h
  · exact .execLoadHallKey h
  · exact .execWithdrawHallKey h
  · exact .execReturnModule h
  · exact .execScrap h
  · exact .execVendorAuthorisation h
  · exact .execCommitSvn h
  · exact .execSecurityRequestInvalid h
  · exact .execEventMessage h
  · exact .execWireSourceChange h
  · exact .execEventClaim h
  · exact .execEventComplete h
  · exact .execEvcCountRead h
  · exact .execEvcMaskSet h
  · exact .execEvcMaskClr h
  · exact .execEvcPendSet h
  · exact .execEvcPendClr h
  · exact .execCoalesceIntervalExpiry h
  · exact .execCoreSleep h
  · exact .execCoreWake h
  · exact .execEvcHostCauseClear h
  · exact .execDieCauseClear h
  · exact .execMsixCoalesceExpiry h
  · exact .execMsixVectorUnmask h
  · exact .execEngineStall h
  · exact .execEngineFence h
  · exact .execEngineReturn h
  · exact .execFltLogReadIdxWrite h
  · exact .execPcieTlpReceived h
  · exact .execPcieCompletionTimeout h
  · exact .execPostedCreditsWithheld h
  · exact .execPortLinkDown h
  · exact .execHostDieLost h
  · exact .execModuleResetRequest h
  · exact .execResetAck h
  · exact .execResetGraceExpiry h
  · exact .execResetDies h
  · exact .execD3hotTransition h
  · exact .execBusMasterEnableChange h
  · exact .execPowerOn h
  · exact .execInputCollapse h
  · exact .execSpiHoldoffChange h
  · exact .execClearFaults h
  · exact .execSmbalertMask h
  · exact .execStatusWord h
  · exact .execStatusInput h
  · exact .execStatusTemperature h
  · exact .execReadVin h
  · exact .execReadIin h
  · exact .execReadTemperature1 h
  · exact .execReadTemperature2 h
  · exact .execReadPin h
  · exact .execMfrId h
  · exact .execMfrModel h
  · exact .execMfrSerial h
  · exact .execMfrModuleReset h
  · exact .execMfrLifecycle h
  · exact .execStatisticClear h
  · exact .execRegisterWrite h
  · exact .execStandardInterfaceLoss h
  · exact .execHoldUpBankRecovered h
  · exact .execPortLinkUp h
  · exact .execD3hotExit h
  · exact .execFlashRebuildComplete h
  · exact .execPcieTagWithholdExpiry h
  · exact .execLocalTimerCompare h

end

/-! ### The functions of `Sys2Proof/Machine/Step.lean` -/

section
variable {s u t : State}

theorem OutKeeps.step (h : Keeps s u) : OutKeeps s (step u) := by
  unfold Machine.step
  split
  · exact Keeps.rest h rfl
  · exact .exec (h.rest rfl)

end

end Sys2Proof.Machine

namespace Sys2Proof

open Machine

/-- Settles O60: every command's function keeps both, as the chain of lemmas `OutKeeps.exec` says. -/
theorem everyStepKeepsTheMemoryForm : Obligations.EveryStepKeepsTheMemoryForm := by
  have hk (s t : State) (h : Steps s t) : Keeps s t := by
    have hstep : OutKeeps s (step s) := .step .refl
    unfold Steps at h
    rwa [h] at hstep
  exact ⟨fun s t hs h => (hk s t h).memory hs, fun s t hs h => (hk s t h).pages hs⟩

end Sys2Proof
end

section
/-! PROOFS. A step runs the front command (R39, log entry 5). -/

namespace Sys2Proof.Machine

theorem step_front (s : State) (c : Instr) (rest : List Instr) :
    step { s with pending := c :: rest } = exec c { s with pending := rest } := rfl

theorem step_idle (s : State) : step { s with pending := [] } = .next { s with pending := [], time := s.time + 10 } := rfl

end Sys2Proof.Machine

namespace Sys2Proof

open Machine

/-- Settles O54, by the two branches of `step`. -/
theorem aStepRunsTheFrontCommand : Obligations.AStepRunsTheFrontCommand :=
  fun s c rest => ⟨step_front s c rest, step_idle s⟩

end Sys2Proof
end

section
/-! PROOFS. What the events, the statistics and the fault log leave as it is (R439-R463).

`s.eventless` is `s` without what a fire of a source can change: the two ports, the two host dies and the messages sent.
`State.fire_eventless` says once that a fire changes nothing else; what it leaves of one field is that equation, read at the
field. -/

namespace Sys2Proof.Machine

/-- A state without what a fire of a source can change (R439-R456). -/
def State.eventless (s : State) : State := { s with sent := [], portA := {}, portB := {}, hostA := {}, hostB := {} }

section
variable (s : State) (p : Port)

@[simp] theorem State.setPort_eventless (x : PortState) : (s.setPort p x).eventless = s.eventless := by
  cases p <;> rfl

@[simp] theorem State.send_eventless (m : OutMsg) : (s.send m).eventless = s.eventless := rfl

@[simp] theorem msixSend_eventless (v : Nat) : (msixSend s p v).eventless = s.eventless := by
  unfold msixSend
  dsimp only
  split
  · simp
  · split <;> simp

@[simp] theorem msixTrigger_eventless (v : Nat) : (msixTrigger s p v).eventless = s.eventless := by
  unfold msixTrigger
  dsimp only
  split
  · rfl
  · split <;> simp

@[simp] theorem hostForward_eventless (n : Nat) : (hostForward s p n).eventless = s.eventless := by
  unfold hostForward
  dsimp only
  split <;> simp

@[simp] theorem State.fire_eventless (n : Nat) : (s.fire n).eventless = s.eventless := by
  unfold State.fire
  split
  · simp only [hostForward_eventless]
    rfl
  · rfl

@[simp] theorem msixTrigger_hbm (v : Nat) : (msixTrigger s p v).hbm = s.hbm :=
  (congrArg State.hbm (msixTrigger_eventless s p v) :)

@[simp] theorem State.fire_mem (n : Nat) : (s.fire n).mem = s.mem := (congrArg State.mem (s.fire_eventless n) :)

@[simp] theorem State.fire_flt (n : Nat) : (s.fire n).flt = s.flt := (congrArg State.flt (s.fire_eventless n) :)

@[simp] theorem State.fire_hbm (n : Nat) : (s.fire n).hbm = s.hbm := (congrArg State.hbm (s.fire_eventless n) :)

/-- A logged fault changes the fault log, beside what its event changes. -/
theorem logFault_eventless (code detail die engine : Nat) (portB : Bool) (who : Option (Nat × Nat × Nat)) :
    (logFault s code detail die engine portB who).eventless =
      { s.eventless with flt := (logFault s code detail die engine portB who).flt } := by
  unfold logFault
  dsimp only
  split
  · rfl
  · rw [State.fire_eventless, State.fire_flt]
    rfl

theorem logPlain_eventless (code detail : Nat) :
    (logPlain s code detail).eventless = { s.eventless with flt := (logPlain s code detail).flt } :=
  logFault_eventless ..

@[simp] theorem logFault_hbm (code detail die engine : Nat) (portB : Bool) (who : Option (Nat × Nat × Nat)) :
    (logFault s code detail die engine portB who).hbm = s.hbm :=
  (congrArg State.hbm (logFault_eventless s code detail die engine portB who) :)

@[simp] theorem logPlain_hbm (code detail : Nat) : (logPlain s code detail).hbm = s.hbm := logFault_hbm ..

@[simp] theorem logOnDie_hbm (code detail die : Nat) : (logOnDie s code detail die).hbm = s.hbm := logFault_hbm ..

@[simp] theorem countCorrected_mem : (countCorrected s).mem = s.mem := by
  unfold countCorrected countGlobal
  dsimp only
  split
  · rw [State.fire_mem]
  · rfl

@[simp] theorem countCorrected_hbm :
    (countCorrected s).hbm = { s.hbm with corrected := (statUp s.hbm.corrected 1).1 } := by
  unfold countCorrected countGlobal
  dsimp only
  split
  · rw [State.fire_hbm]
  · rfl

end

end Sys2Proof.Machine
end

section
/-! PROOFS. The table of stacks: it reads back what was written, and neither a fatal error nor the loss of a log copy or a
context image changes it (R463, R470, R473). -/

namespace Sys2Proof.Machine

@[simp] theorem State.stack_setStack (s : State) (n : Nat) (x : Stack) : (s.setStack n x).stack n = x :=
  tblGet_set_same ..

/-- The entry of a stack depends on the table of stacks alone. -/
theorem State.stack_congr {s t : State} (h : t.hbm.stackTbl = s.hbm.stackTbl) (n : Nat) : t.stack n = s.stack n := by
  unfold State.stack
  rw [h]

@[simp] theorem State.fire_stack (s : State) (source n : Nat) : (s.fire source).stack n = s.stack n :=
  State.stack_congr (by rw [State.fire_hbm]) n

@[simp] theorem logPlain_stack (s : State) (code detail n : Nat) : (logPlain s code detail).stack n = s.stack n :=
  State.stack_congr (by rw [logPlain_hbm]) n

/-- A fold leaves what each of its steps leaves. -/
theorem foldl_leaves {σ α β : Type} (get : σ → β) {f : σ → α → σ} (hf : ∀ s a, get (f s a) = get s) (l : List α) (s : σ) :
    get (l.foldl f s) = get s := by
  induction l generalizing s with
  | nil => rfl
  | cons a l ih => exact (ih (f s a)).trans (hf s a)

section
variable (s : State)

@[simp] theorem unpoison_stackTbl (p : Port) (pasid va len : Nat) :
    (unpoison s p pasid va len).hbm.stackTbl = s.hbm.stackTbl := by
  unfold unpoison
  split <;> rfl

@[simp] theorem pokeVa_stackTbl (p : Port) (pasid va : Nat) (b : List Byte) :
    (pokeVa s p pasid va b).hbm.stackTbl = s.hbm.stackTbl := unpoison_stackTbl ..

@[simp] theorem scrambleVa_stackTbl (p : Port) (pasid va len : Nat) :
    (scrambleVa s p pasid va len).hbm.stackTbl = s.hbm.stackTbl := by
  refine foldl_leaves (·.hbm.stackTbl) (fun u e => ?_) _ s
  dsimp only
  split
  · exact pokeVa_stackTbl ..
  · rfl

@[simp] theorem scrambleDests_stackTbl (x : Cmd) : (scrambleDests s x).hbm.stackTbl = s.hbm.stackTbl := by
  unfold scrambleDests
  split
  · exact foldl_leaves (·.hbm.stackTbl) (fun u r => scrambleVa_stackTbl u ..) _ s
  · rfl

@[simp] theorem placeData_hbm (m : Nat) : (placeData s m).1.hbm = s.hbm := by
  unfold placeData
  extract_lets put fresh
  have hput (u : State) (k : Nat) : (put u k).1.hbm = u.hbm := rfl
  have hfresh : fresh.1.hbm = s.hbm := by
    unfold fresh
    split
    · rw [hput]
      dsimp only [setEraseBlock]
      split <;> rfl
    · rfl
  split
  · split
    · exact hput ..
    · exact hfresh
  · exact hfresh

@[simp] theorem programBlock_hbm (q : Queue) (d : Desc) (k : Nat) : (programBlock q d s k).hbm = s.hbm := by
  unfold programBlock
  split
  · rfl
  · exact placeData_hbm ..

@[simp] theorem cutOffStore_hbm (x : Cmd) : (cutOffStore s x).hbm = s.hbm := by
  unfold cutOffStore
  split
  · split
    · exact foldl_leaves State.hbm (fun u k => programBlock_hbm u ..) _ _
    · rfl
  · rfl

@[simp] theorem releaseFlows_hbm (c : Nat) (failed : Bool) : (releaseFlows s c failed).hbm = s.hbm := by
  unfold releaseFlows
  extract_lets mine u stay v
  have hu : u.hbm = s.hbm := foldl_leaves State.hbm (by intros; rfl) mine s
  have hv : v.hbm = u.hbm := foldl_leaves State.hbm (by intros; rfl) mine u
  split
  · exact hv.trans hu
  · exact hu

@[simp] theorem killAll_stackTbl : (killAll s).hbm.stackTbl = s.hbm.stackTbl :=
  foldl_leaves (·.hbm.stackTbl) (fun u e => by simp) s.cmds s

@[simp] theorem dumpTo_hbm (p : Port) (b : List Byte) : (dumpTo s p b).hbm = s.hbm := by
  unfold dumpTo
  dsimp only
  split
  · simp [State.modPort]
  · split <;> simp [State.modPort]

@[simp] theorem writeDump_hbm (code detail : Nat) (byH1 : Bool) : (writeDump s code detail byH1).hbm = s.hbm := by
  simp [writeDump]

@[simp] theorem fatalOn_stackTbl (code detail die : Nat) : (fatalOn s code detail die).hbm.stackTbl = s.hbm.stackTbl := by
  unfold fatalOn
  extract_lets byH1 u _ v w x
  have hx : x.hbm.stackTbl = s.hbm.stackTbl := by simp [x, w, v, u]
  split
  · rfl
  · split
    · exact hx
    · exact hx

@[simp] theorem loseLog_stackTbl (n : Nat) : (loseLog s n).hbm.stackTbl = s.hbm.stackTbl := by
  unfold loseLog
  dsimp only
  split
  · rfl
  · split
    · exact fatalOn_stackTbl ..
    · rfl

@[simp] theorem loseArea_context_hbm (n e : Nat) : (loseArea s n (.context e)).hbm = s.hbm := rfl

end

end Sys2Proof.Machine
end

section
/-! PROOFS. HBM unit accesses of a command and patrol reads (R37, R326-R328). -/

namespace Sys2Proof.Machine

/-! ### Requests that wait for a unit (R37) -/

theorem unitMay_of_none_won {s : State} {unit : Nat}
    (h : tblFind s.mesh.won (16 * (unit / stackUnits) + unitChannel unit) = none) (access : UnitAccess) :
    unitMay s unit access = true := by
  simp [unitMay, unitNext, channelWon, tblGet, h]

/-- The request that won first is next for its own unit. -/
theorem unitNext_of_won {s : State} {unit : Nat} {p : Packet} {rest : List Packet}
    (h : tblFind s.mesh.won (16 * (unit / stackUnits) + unitChannel unit) = some (p :: rest)) (hp : p.operation / 2 = unit) :
    unitNext s unit = some p := by
  simp [unitNext, channelWon, tblGet, h, hp]

theorem unitMay_read_iff {s : State} {unit : Nat} {p : Packet} (h : unitNext s unit = some p) :
    unitMay s unit .read = true ↔ p.operation % 2 = 0 := by
  simp [unitMay, h, executes]

theorem unitDone_won {s : State} {unit : Nat} {p : Packet} {rest : List Packet}
    (h : tblFind s.mesh.won (16 * (unit / stackUnits) + unitChannel unit) = some (p :: rest)) (hp : p.operation / 2 = unit) :
    tblGet [] (unitDone s unit).mesh.won (16 * (unit / stackUnits) + unitChannel unit) = rest := by
  unfold unitDone
  rw [unitNext_of_won h hp]
  dsimp only
  rw [tblGet_set_same]
  simp [tblGet, h]

/-- A request that has been executed leaves the mesh; nothing else changes. -/
theorem unitDone_eq (s : State) (unit : Nat) : unitDone s unit = { s with mesh := (unitDone s unit).mesh } := by
  unfold unitDone
  split <;> rfl

section
variable (s : State) (unit : Nat)

@[simp] theorem unitDone_pending : (unitDone s unit).pending = s.pending := by rw [unitDone_eq]
@[simp] theorem unitDone_draws : (unitDone s unit).draws = s.draws := by rw [unitDone_eq]
@[simp] theorem unitDone_mem : (unitDone s unit).mem = s.mem := by rw [unitDone_eq]
@[simp] theorem unitDone_cmds : (unitDone s unit).cmds = s.cmds := by rw [unitDone_eq]
@[simp] theorem unitDone_qfe : (unitDone s unit).qfe = s.qfe := by rw [unitDone_eq]
@[simp] theorem unitDone_hbm : (unitDone s unit).hbm = s.hbm := by rw [unitDone_eq]
@[simp] theorem unitDone_stack (n : Nat) : (unitDone s unit).stack n = s.stack n := State.stack_congr (by rw [unitDone_hbm]) n

end

/-! ### A read of a unit (R324, R326) -/

theorem decodeUnit_few {s : State} {unit : Nat} {errors : List Nat} (h : errors ≠ []) (hfew : errors.dedup.length ≤ 2) :
    decodeUnit s unit errors = .corrected := by
  simp [decodeUnit, h, hfew]

theorem decodeUnit_seen {s : State} {unit : Nat} {errors : List Nat} (hmany : 2 < errors.dedup.length)
    (hseen : Config.miscorrected s.draws unit = false) : decodeUnit s unit errors = .lost := by
  have hne : errors ≠ [] := by
    rintro rfl
    simp at hmany
  simp [decodeUnit, hne, hseen, Nat.not_le.2 hmany]

section
variable (s : State) (unit : Nat) (errors : List Nat)

@[simp] theorem readUnit_mem : (readUnit s unit errors).mem = s.mem := rfl

@[simp] theorem readUnit_patrolMarks : (readUnit s unit errors).hbm.patrolMarks = s.hbm.patrolMarks := rfl

@[simp] theorem readUnit_retireDue : (readUnit s unit errors).hbm.retireDue = s.hbm.retireDue := rfl

/-- A read changes the entry of its stack alone. -/
theorem readUnit_hbm : (readUnit s unit errors).hbm = { s.hbm with stackTbl := (readUnit s unit errors).hbm.stackTbl } := rfl

theorem pinErrors_channelReads (ch n : Nat) (pins : List Nat) (k : Stack) :
    (pins.foldl (pinError ch n) k).channelReads = k.channelReads :=
  foldl_leaves Stack.channelReads (by intros; rfl) pins k

theorem readUnit_channelReads :
    tblGet 0 ((readUnit s unit errors).stack (unit / stackUnits)).channelReads (unitChannel unit) =
      tblGet 0 (s.stack (unit / stackUnits)).channelReads (unitChannel unit) + 1 := by
  have hreads : ((readUnit s unit errors).stack (unit / stackUnits)).channelReads =
      tblPut (s.stack (unit / stackUnits)).channelReads (unitChannel unit)
        (tblGet 0 (s.stack (unit / stackUnits)).channelReads (unitChannel unit) + 1) :=
    (congrArg Stack.channelReads (State.stack_setStack ..)).trans (pinErrors_channelReads ..)
  rw [hreads, tblGet, tblFind_put_same, Option.getD_some]

end

/-- A read of a unit whose errors, if any, are corrected, and then counted (R326). -/
def correctedRead (s : State) (unit : Nat) (errors : List Nat) : State :=
  if errors = [] then readUnit s unit errors else countCorrected (readUnit s unit errors)

section
variable (s : State) (unit : Nat) (errors : List Nat)

@[simp] theorem correctedRead_mem : (correctedRead s unit errors).mem = s.mem := by
  unfold correctedRead
  split <;> simp

/-- A corrected read changes the entry of its stack and the count of corrected units. -/
theorem correctedRead_hbm : (correctedRead s unit errors).hbm =
    { s.hbm with stackTbl := (readUnit s unit errors).hbm.stackTbl,
                 corrected := if errors = [] then s.hbm.corrected else (statUp s.hbm.corrected 1).1 } := by
  unfold correctedRead
  split
  · exact readUnit_hbm ..
  · rw [countCorrected_hbm, readUnit_hbm]

theorem correctedRead_channelReads :
    tblGet 0 ((correctedRead s unit errors).stack (unit / stackUnits)).channelReads (unitChannel unit) =
      tblGet 0 (s.stack (unit / stackUnits)).channelReads (unitChannel unit) + 1 := by
  rw [State.stack_congr (s := readUnit s unit errors) (by rw [correctedRead_hbm]), readUnit_channelReads]

end

theorem decodedAccess_few {s : State} {unit : Nat} {errors : List Nat} (hfew : errors.dedup.length ≤ 2)
    (access : UnitAccess) (lost : State → State) :
    decodedAccess s unit access errors lost = applyAccess (correctedRead s unit errors) unit access := by
  unfold decodedAccess correctedRead
  by_cases h : errors = []
  · simp [h, decodeUnit]
  · simp [h, decodeUnit_few h hfew]

theorem decodedAccess_seen {s : State} {unit : Nat} {errors : List Nat} (hmany : 2 < errors.dedup.length)
    (hseen : Config.miscorrected s.draws unit = false) (access : UnitAccess) (lost : State → State) :
    decodedAccess s unit access errors lost = lost (poisonUnit (readUnit s unit errors) unit) := by
  simp only [decodedAccess, decodeUnit_seen hmany hseen]

/-! ### Accesses of a command (R327) -/

section
variable {s : State} {unit : Nat} {access : UnitAccess} {errors : List Nat} {c page : Nat} {m : PageMap}

theorem commandAccess_poisoned (hup : s.stackUp m.stack = true) (hw : access = .read ∨ m.write = true)
    (hold : decodesOld access = true) (hp : unit ∈ s.hbm.poisoned) :
    commandAccess s unit access errors c page m = faultCmd s c 0x2011 page := by
  rcases hw with rfl | hw
  · simp [commandAccess, hup, hold, hp]
  · simp [commandAccess, hup, hw, hold, hp]

theorem commandAccess_good (hup : s.stackUp m.stack = true) (hw : access = .read ∨ m.write = true)
    (hold : decodesOld access = true) (hp : unit ∉ s.hbm.poisoned) :
    commandAccess s unit access errors c page m =
      decodedAccess s unit access errors fun u => faultCmd u c 0x2010 page := by
  rcases hw with rfl | hw
  · simp [commandAccess, hup, hold, hp]
  · simp [commandAccess, hup, hw, hold, hp]

theorem commandAccess_writeWhole (hup : s.stackUp m.stack = true) (hw : m.write = true) (data : List Byte) :
    commandAccess s unit (.writeWhole data) errors c page m = applyAccess s unit (.writeWhole data) := by
  simp [commandAccess, hup, hw, decodesOld, wholeAccess]

end

theorem applyAccess_read (s : State) (unit : Nat) :
    applyAccess s unit .read = { s with reply := leNat (memRead s.mem (unitKey unit) 128) } := rfl

theorem applyAccess_writeWhole {data : List Byte} (h : data.length = 128) (s : State) (unit : Nat) :
    applyAccess s unit (.writeWhole data) =
      { s with mem := memWrite s.mem (unitKey unit) data,
               hbm := { s.hbm with poisoned := s.hbm.poisoned.filter (· != unit) } } := by
  simp [applyAccess, ← h]

theorem applyAccess_writePart {offset : Nat} {data : List Byte} (h : offset + data.length < 128) (s : State) (unit : Nat) :
    applyAccess s unit (.writePart offset data) = { s with mem := memWrite s.mem (unitKey unit + offset) data } := by
  rw [applyAccess, List.take_of_length_le (by omega)]

/-- A write of less than the whole unit decodes what stood there (R327). -/
theorem decodesOld_writePart {offset : Nat} {data : List Byte} (h : offset + data.length < 128) :
    decodesOld (.writePart offset data) = true := by
  have hlen : ¬ 128 ≤ data.length := by omega
  simp [decodesOld, hlen]

theorem reachedPage_stack {s : State} {q : Queue} {unit key : Nat} {m : PageMap} (h : reachedPage s q unit = some (key, m)) :
    m.stack = unit / stackUnits := by
  have hm := List.find?_some h
  simp only [Bool.and_eq_true, beq_iff_eq] at hm
  exact hm.1.1

/-- A unit of the module, and errors of its symbols, on a module that runs work (R326). -/
structure UnitNamed (s : State) (unit : Nat) (errors : List Nat) : Prop where
  works : s.works = true
  inModule : unit < 24 * stackUnits
  symbols : errors.all (· < 68) = true

section
variable {s : State} {unit : Nat} {errors : List Nat}

/-- Its operands name parts of the module. -/
theorem UnitNamed.ok (h : UnitNamed s unit errors) : (decide (unit < 24 * stackUnits) && errors.all (· < 68)) = true := by
  simp only [h.inModule, h.symbols, decide_true, Bool.and_self]

theorem exec_hbmAccess_waits (h : UnitNamed s unit errors) {access : UnitAccess} (hmay : unitMay s unit access = false)
    (c : Nat) : exec (.hbmAccess unit access errors c) s = .next s := by
  change execHbmAccess unit access errors c s = _
  rw [execHbmAccess, act_works h.works h.ok, hmay]
  rfl

end

/-- A unit that a command reaches by its pair's map, on a stack in service (R331). -/
structure UnitReached (s : State) (unit : Nat) (errors : List Nat) (c key : Nat) (m : PageMap) : Prop extends
    UnitNamed s unit errors where
  up : s.stackUp (unit / stackUnits) = true
  reached : ∃ x q, s.cmd? c = some x ∧ s.queue? x.queue = some q ∧ x.shutter = none ∧ reachedPage s q unit = some (key, m)

section
variable {s : State} {unit : Nat} {errors : List Nat} {c key : Nat} {m : PageMap} (h : UnitReached s unit errors c key m)
include h

theorem UnitReached.stackUp : (unitDone s unit).stackUp m.stack = true := by
  obtain ⟨x, q, -, -, -, hpage⟩ := h.reached
  rw [reachedPage_stack hpage, State.stackUp, unitDone_stack]
  exact h.up

/-- The access that may be made now is done with at the mesh, and then made to the page that the command reaches. -/
theorem exec_hbmAccess_reached {access : UnitAccess} (hmay : unitMay s unit access = true) :
    exec (.hbmAccess unit access errors c) s =
      nextKeeping s (commandAccess (unitDone s unit) unit access errors c (key % 2 ^ 26) m) := by
  obtain ⟨x, q, hx, hq, hshut, hpage⟩ := h.reached
  have hx' : (unitDone s unit).cmd? c = some x := by rwa [State.cmd?, unitDone_cmds]
  have hq' : (unitDone s unit).queue? x.queue = some q := by rwa [State.queue?, unitDone_qfe]
  have hpage' : reachedPage (unitDone s unit) q unit = some (key, m) := by rwa [reachedPage, unitDone_hbm]
  change execHbmAccess unit access errors c s = _
  rw [execHbmAccess, act_works h.works h.ok]
  simp [hmay, hx', hq', hshut, hpage']

theorem exec_hbmAccess_read_few (hmay : unitMay s unit .read = true) (hp : unit ∉ s.hbm.poisoned)
    (hfew : errors.dedup.length ≤ 2) :
    exec (.hbmAccess unit .read errors c) s = nextKeeping s
      { correctedRead (unitDone s unit) unit errors with
        mem := s.mem, reply := leNat (memRead s.mem (unitKey unit) 128) } := by
  rw [exec_hbmAccess_reached h hmay, commandAccess_good h.stackUp (.inl rfl) rfl (by rwa [unitDone_hbm]),
    decodedAccess_few hfew, applyAccess_read, correctedRead_mem, unitDone_mem]

theorem exec_hbmAccess_read_seen (hmay : unitMay s unit .read = true) (hp : unit ∉ s.hbm.poisoned)
    (hmany : 2 < errors.dedup.length) (hseen : Config.miscorrected s.draws unit = false) :
    exec (.hbmAccess unit .read errors c) s =
      nextKeeping s (faultCmd (poisonUnit (readUnit (unitDone s unit) unit errors) unit) c 0x2010 (key % 2 ^ 26)) := by
  rw [exec_hbmAccess_reached h hmay, commandAccess_good h.stackUp (.inl rfl) rfl (by rwa [unitDone_hbm]),
    decodedAccess_seen hmany (by rwa [unitDone_draws])]

theorem exec_hbmAccess_read_poisoned (hmay : unitMay s unit .read = true) (hp : unit ∈ s.hbm.poisoned) :
    exec (.hbmAccess unit .read errors c) s =
      nextKeeping s (faultCmd (unitDone s unit) c 0x2011 (key % 2 ^ 26)) := by
  rw [exec_hbmAccess_reached h hmay, commandAccess_poisoned h.stackUp (.inl rfl) rfl (by rwa [unitDone_hbm])]

theorem exec_hbmAccess_writeWhole {data : List Byte} (hmay : unitMay s unit (.writeWhole data) = true)
    (hw : m.write = true) (hlen : data.length = 128) :
    exec (.hbmAccess unit (.writeWhole data) errors c) s = .next { unitDone s unit with
      mem := memWrite s.mem (unitKey unit) data,
      hbm := { s.hbm with poisoned := s.hbm.poisoned.filter (· != unit) } } := by
  rw [exec_hbmAccess_reached h hmay, commandAccess_writeWhole h.stackUp hw, applyAccess_writeWhole hlen, unitDone_mem,
    unitDone_hbm]
  exact nextKeeping_eq (unitDone_pending s unit)

end

theorem exec_hbmAccess_writePart {s : State} {unit c key : Nat} {m : PageMap} (h : UnitReached s unit [] c key m)
    {offset : Nat} {data : List Byte} (hmay : unitMay s unit (.writePart offset data) = true) (hw : m.write = true)
    (hp : unit ∉ s.hbm.poisoned) (hlen : offset + data.length < 128) :
    exec (.hbmAccess unit (.writePart offset data) [] c) s = nextKeeping s
      { readUnit (unitDone s unit) unit [] with mem := memWrite s.mem (unitKey unit + offset) data } := by
  rw [exec_hbmAccess_reached h hmay, commandAccess_good h.stackUp (.inr hw) (decodesOld_writePart hlen)
    (by rwa [unitDone_hbm]), decodedAccess_few (by simp), applyAccess_writePart hlen, correctedRead, if_pos rfl,
    readUnit_mem, unitDone_mem]

/-! ### Patrol reads (R328) -/

section
variable {s : State} {unit : Nat} {errors : List Nat}

/-- A patrol read that needs no correction takes the unit's mark away. -/
theorem exec_patrolScrub_good (h : UnitNamed s unit []) (hup : s.stackUp (unit / stackUnits) = true)
    (hp : unit ∉ s.hbm.poisoned) :
    exec (.patrolScrub unit []) s = nextKeeping s { readUnit s unit [] with
      hbm := { (readUnit s unit []).hbm with patrolMarks := s.hbm.patrolMarks.filter (· != unit) } } := by
  change execPatrolScrub unit [] s = _
  rw [execPatrolScrub, act_works h.works h.ok]
  simp [hup, hp, decodeUnit]

/-- A corrected patrol read of an unmarked unit marks it. -/
theorem exec_patrolScrub_first (h : UnitNamed s unit errors) (hup : s.stackUp (unit / stackUnits) = true)
    (hp : unit ∉ s.hbm.poisoned) (hne : errors ≠ []) (hfew : errors.dedup.length ≤ 2) (hmark : unit ∉ s.hbm.patrolMarks) :
    exec (.patrolScrub unit errors) s = nextKeeping s { correctedRead s unit errors with
      hbm := { (correctedRead s unit errors).hbm with patrolMarks := addOnce unit s.hbm.patrolMarks } } := by
  change execPatrolScrub unit errors s = _
  rw [execPatrolScrub, act_works h.works h.ok]
  simp [hup, hp, decodeUnit_few hne hfew, correctedRead, hne, hmark]

/-- The second in turn has its range retired. -/
theorem exec_patrolScrub_second (h : UnitNamed s unit errors) (hup : s.stackUp (unit / stackUnits) = true)
    (hp : unit ∉ s.hbm.poisoned) (hne : errors ≠ []) (hfew : errors.dedup.length ≤ 2) (hmark : unit ∈ s.hbm.patrolMarks) :
    exec (.patrolScrub unit errors) s = nextKeeping s { correctedRead s unit errors with
      hbm := { (correctedRead s unit errors).hbm with
        patrolMarks := s.hbm.patrolMarks.filter (· != unit),
        retireDue := addOnce (unit / rangeUnits) s.hbm.retireDue } } := by
  change execPatrolScrub unit errors s = _
  rw [execPatrolScrub, act_works h.works h.ok]
  simp [hup, hp, decodeUnit_few hne hfew, correctedRead, hne, hmark]

end

end Sys2Proof.Machine
end

section
/-! PROOFS. Retirement of HBM ranges, and lane repair (R328, R329). -/

namespace Sys2Proof.Machine

theorem mem_addOnce {α : Type} [BEq α] [LawfulBEq α] {a b : α} {l : List α} : b ∈ addOnce a l ↔ b = a ∨ b ∈ l := by
  unfold addOnce
  split
  · next h =>
    have ha : a ∈ l := by simpa using h
    exact ⟨.inr, fun hb => hb.elim (fun e => e ▸ ha) id⟩
  · simp [or_comm]

/-! ### Unit retirement (R328) -/

/-- A range that was due is counted as retired. -/
def countRetired (s : State) (stack range : Nat) : State :=
  { s with hbm := { s.hbm with retireDue := s.hbm.retireDue.filter (· != stack * 36864 + range) } }.setStack stack
    { s.stack stack with unitsRetired := (s.stack stack).unitsRetired + 1 }

section
variable {s : State} {n range : Nat}

theorem unitRetirement_redirects (hdue : n * 36864 + range ∈ s.hbm.retireDue) (hup : s.stackUp n = true)
    (hspare : sparesUsed s n < 64) :
    unitRetirement s n range = redirect (countRetired s n range) n (n * 36864 + range) := by
  have hspare' : sparesUsed (countRetired s n range) n < 64 := hspare
  unfold unitRetirement
  extract_lets m k _ _ v
  have hm : m ∈ s.hbm.retireDue := hdue
  have hv : v = countRetired s n range := rfl
  rw [if_neg (by simp [hup, hm]), hv, if_pos hspare']
  rfl

/-- A mapped page that one of its units lies on holds the unit (R331). -/
theorem unitArea_mapped {unit stack page : Nat} {e : Nat × PageMap} (hs : unit / stackUnits = stack)
    (hp : unit % stackUnits / pageUnits = page) (he : e ∈ s.hbm.pages) (hes : e.2.stack = stack) (hep : e.2.page = page) :
    ∃ key, unitArea s unit = .device key := by
  unfold unitArea
  extract_lets st pg
  cases hfind : s.hbm.pages.find? fun e => e.2.stack == st && e.2.page == pg with
  | some g => exact ⟨g.1, rfl⟩
  | none =>
    have hno := List.find?_eq_none.1 hfind e he
    simp [st, pg, hs, hp, hes, hep] at hno

theorem unitRetirement_unmaps (hrange : range < 36864) (hdue : n * 36864 + range ∈ s.hbm.retireDue)
    (hup : s.stackUp n = true) (hspare : 64 ≤ sparesUsed s n) {e : Nat × PageMap} (he : e ∈ s.hbm.pages)
    (hes : e.2.stack = n) (hep : e.2.page = range / 2) :
    unitRetirement s n range = removePage (countRetired s n range) n (range / 2) := by
  have hspare' : ¬ sparesUsed (countRetired s n range) n < 64 := Nat.not_lt.2 hspare
  obtain ⟨key, harea⟩ := unitArea_mapped (s := countRetired s n range) (unit := n * stackUnits + range * rangeUnits)
    (stack := n) (page := range / 2) (by simp only [stackUnits, rangeUnits]; omega)
    (by simp only [stackUnits, rangeUnits, pageUnits]; omega) he hes hep
  unfold unitRetirement
  extract_lets m k _ _ v
  have hm : m ∈ s.hbm.retireDue := hdue
  have hv : v = countRetired s n range := rfl
  rw [if_neg (by simp [hup, hm]), hv, if_neg hspare', harea]

end

theorem removePage_pages (s : State) (n page : Nat) :
    (removePage s n page).hbm.pages = s.hbm.pages.filter fun e => !(e.2.stack == n && e.2.page == page) := by
  rw [removePage, logPlain_hbm]
  rfl

theorem removePage_redirected (s : State) (n page : Nat) : (removePage s n page).hbm.redirected = s.hbm.redirected := by
  rw [removePage, logPlain_hbm]
  rfl

theorem removePage_stack (s : State) (n page : Nat) : (removePage s n page).stack n =
    { s.stack n with removedPages := addOnce page (s.stack n).removedPages } := by
  rw [removePage, logPlain_stack, State.stack_setStack]

@[simp] theorem countRetired_stack (s : State) (n range : Nat) : (countRetired s n range).stack n =
    { s.stack n with unitsRetired := (s.stack n).unitsRetired + 1 } := State.stack_setStack ..

theorem countRetired_not_due (s : State) (n range : Nat) :
    n * 36864 + range ∉ (countRetired s n range).hbm.retireDue := by
  simp [countRetired, State.setStack]

theorem redirect_lostSpares (s : State) (n k : Nat) : (redirect s n k).hbm.lostSpares =
    s.hbm.lostSpares ++ ((tblFind s.hbm.redirected k).map (64 * n + ·)).toList := by
  unfold redirect
  cases tblFind s.hbm.redirected k <;> simp

/-! ### Lane repair (R329) -/

/-- A pin whose repair was due is dealt with. -/
def pinTaken (k : Stack) (pc pin : Nat) : Stack :=
  { k with pinsDue := k.pinsDue.filter (· != pinKey pc pin), pinErrors := tblDel k.pinErrors (pinKey pc pin) }

/-- A pin takes the next spare lane of its pseudo-channel. -/
def pinSpared (k : Stack) (pc pin : Nat) : Stack :=
  { pinTaken k pc pin with laneMap := tblPut k.laneMap (pc * 64 + pin) (lanesUsed k pc), lanesRepaired := k.lanesRepaired + 1 }

/-- A pin for which no spare lane is left is bad for good. -/
def pinBad (k : Stack) (pc pin : Nat) : Stack :=
  { pinTaken k pc pin with badPins := addOnce (32 * pc + pin) k.badPins }

section
variable {s : State} {n pc pin : Nat}

theorem pinRepair_not_due (h : pinKey pc pin ∉ (s.stack n).pinsDue) (trains : Bool) : pinRepair s n pc pin trains = s := by
  simp [pinRepair, h]

theorem pinRepair_due (hdue : pinKey pc pin ∈ (s.stack n).pinsDue) (hup : s.stackUp n = true) (trains : Bool) :
    pinRepair s n pc pin trains =
      if lanesUsed (s.stack n) pc < 2 then
        if trains then logPlain (s.setStack n (pinSpared (s.stack n) pc pin)) 0x2020 (noDetail 0x2020) else fenceStack s n
      else if 2 ≤ badPinsOf (pinBad (s.stack n) pc pin) pc then fenceStack (s.setStack n (pinBad (s.stack n) pc pin)) n
      else setStackState (s.setStack n (pinBad (s.stack n) pc pin)) n .degraded := by
  have hdue' : (s.stack n).pinsDue.contains (pinKey pc pin) = true := by simpa using hdue
  rw [pinRepair]
  simp only [hup, hdue', Bool.not_true, Bool.or_self]
  rfl

end

theorem setStackState_stack (s : State) (n : Nat) (st : StackState) :
    (setStackState s n st).stack n = { s.stack n with state := st } := by
  unfold setStackState
  split
  · next h =>
    rw [← beq_iff_eq.1 h]
  · rw [State.fire_stack, State.stack_setStack]

theorem setStackState_eventless (s : State) (n : Nat) (st : StackState) :
    (setStackState s n st).eventless = { s.eventless with hbm := (setStackState s n st).hbm } := by
  unfold setStackState
  split
  · rfl
  · rw [State.fire_eventless, State.fire_hbm]
    rfl

/-- A stack that is fenced while no problem and no graph is there ends fenced, whatever becomes of the fault log (R329,
R470). -/
theorem fenceStack_state {s : State} (hproblems : s.spin.problems = []) (hgraphs : s.grf.graphs = []) (n : Nat) :
    ((fenceStack s n).stack n).state = .fenced := by
  unfold fenceStack
  extract_lets u ps gs v w
  have hrest : u.eventless = { s.eventless with hbm := u.hbm, flt := u.flt } := by
    rw [logPlain_eventless, setStackState_eventless, logPlain_hbm]
  have hps : ps = [] := by
    have hspin : u.spin = s.spin := (congrArg State.spin hrest :)
    simp [ps, hspin, hproblems]
  have hgs : gs = [] := by
    have hgrf : u.grf = s.grf := (congrArg State.grf hrest :)
    simp [gs, hgrf, hgraphs]
  have hw : w = u := by simp only [w, v, hps, hgs, List.foldl_nil]
  have hfold := foldl_leaves State.hbm (fun u e => loseArea_context_hbm u n e) ((List.range 32).map (32 * n + ·)) w
  rw [State.stack_congr (s := u) (by rw [loseLog_stackTbl, hfold, hw]), logPlain_stack, setStackState_stack]

/-! ### The commands -/

section
variable {s : State} (hworks : s.works = true) {n : Nat} (hn : n < 24)
include hworks hn

theorem exec_unitRetirement {range : Nat} (hrange : range < 36864) :
    exec (.unitRetirement n range) s = nextKeeping s (unitRetirement s n range) := by
  change execUnitRetirement n range s = _
  rw [execUnitRetirement, act_works hworks (by simp [isStack, hn, hrange])]

theorem exec_pinLaneRepair {pc pin : Nat} (hpc : pc < 32) (hpin : pin < 32) (trains : Bool) :
    exec (.pinLaneRepair n pc pin trains) s = nextKeeping s (pinRepair s n pc pin trains) := by
  change execPinLaneRepair n pc pin trains s = _
  rw [execPinLaneRepair, act_works hworks (by simp [isStack, hn, hpc, hpin])]

section
variable {pc pin : Nat} (hpc : pc < 32) (hpin : pin < 32) (hdue : pinKey pc pin ∈ (s.stack n).pinsDue)
  (hup : s.stackUp n = true)
include hpc hpin hdue hup

theorem exec_pinLaneRepair_spared (hspare : lanesUsed (s.stack n) pc < 2) :
    ∃ t, exec (.pinLaneRepair n pc pin true) s = .next t ∧ t.stack n = pinSpared (s.stack n) pc pin := by
  have hexec := exec_pinLaneRepair hworks hn hpc hpin true
  rw [pinRepair_due hdue hup, if_pos hspare, if_pos rfl] at hexec
  exact ⟨_, hexec, (logPlain_stack ..).trans (State.stack_setStack s n _)⟩

theorem exec_pinLaneRepair_untrained (hspare : lanesUsed (s.stack n) pc < 2) (hproblems : s.spin.problems = [])
    (hgraphs : s.grf.graphs = []) :
    ∃ t, exec (.pinLaneRepair n pc pin false) s = .next t ∧ (t.stack n).state = .fenced := by
  have hexec := exec_pinLaneRepair hworks hn hpc hpin false
  rw [pinRepair_due hdue hup, if_pos hspare, if_neg Bool.false_ne_true] at hexec
  exact ⟨_, hexec, fenceStack_state hproblems hgraphs n⟩

theorem exec_pinLaneRepair_firstBad (hnone : 2 ≤ lanesUsed (s.stack n) pc)
    (hfirst : badPinsOf (pinBad (s.stack n) pc pin) pc < 2) (trains : Bool) :
    ∃ t, exec (.pinLaneRepair n pc pin trains) s = .next t ∧
      t.stack n = { pinBad (s.stack n) pc pin with state := .degraded } := by
  have hexec := exec_pinLaneRepair hworks hn hpc hpin trains
  have hstack := setStackState_stack (s.setStack n (pinBad (s.stack n) pc pin)) n .degraded
  rw [pinRepair_due hdue hup, if_neg (Nat.not_lt.2 hnone), if_neg (Nat.not_le.2 hfirst)] at hexec
  rw [State.stack_setStack] at hstack
  exact ⟨_, hexec, hstack⟩

theorem exec_pinLaneRepair_secondBad (hnone : 2 ≤ lanesUsed (s.stack n) pc)
    (hsecond : 2 ≤ badPinsOf (pinBad (s.stack n) pc pin) pc) (hproblems : s.spin.problems = [])
    (hgraphs : s.grf.graphs = []) (trains : Bool) :
    ∃ t, exec (.pinLaneRepair n pc pin trains) s = .next t ∧ (t.stack n).state = .fenced := by
  have hexec := exec_pinLaneRepair hworks hn hpc hpin trains
  rw [pinRepair_due hdue hup, if_neg (Nat.not_lt.2 hnone), if_pos hsecond] at hexec
  exact ⟨_, hexec, fenceStack_state (s := s.setStack n (pinBad (s.stack n) pc pin)) hproblems hgraphs n⟩

end

end

end Sys2Proof.Machine

namespace Sys2Proof

open Machine

/-- Settles O27: each clause is the equation of its command at the case it names, read at the fields it speaks of. -/
theorem unitAccessesPatrolAndRepair : Obligations.UnitAccessesPatrolAndRepair := by
  unfold Obligations.UnitAccessesPatrolAndRepair
  refine ⟨fun s unit errors hworks hunit hup herrors => ?_, fun s n hworks hn hup => ⟨fun range hrange hdue => ?_,
    fun pc pin hpc hpin => ?_⟩⟩
  · have hnamed : UnitNamed s unit errors := ⟨hworks, hunit, herrors⟩
    refine ⟨fun access c hmay => exec_hbmAccess_waits hnamed hmay c, unitMay_of_none_won, fun p rest hwon hp =>
      ⟨unitMay_read_iff (unitNext_of_won hwon hp), unitDone_won hwon hp⟩, fun c x q key m hx hq hshut hpage => ?_,
      fun hp => ?_, fun hp hne hfew => ?_⟩
    · have h : UnitReached s unit errors c key m := ⟨hnamed, hup, x, q, hx, hq, hshut, hpage⟩
      refine ⟨fun hmay hp hfew => ?_, fun data hmay hw hlen => exec_hbmAccess_writeWhole h hmay hw hlen,
        fun offset data hmay hw hp hnone hlen => ?_, fun hmay hp hmany => ?_, exec_hbmAccess_read_poisoned h⟩
      · have hhbm := correctedRead_hbm (unitDone s unit) unit errors
        have hreads := correctedRead_channelReads (unitDone s unit) unit errors
        rw [unitDone_hbm] at hhbm
        rw [unitDone_stack] at hreads
        exact ⟨_, exec_hbmAccess_read_few h hmay hp hfew, rfl, rfl, (congrArg Hbm.pages hhbm :),
          (congrArg Hbm.poisoned hhbm :), hreads, (congrArg Hbm.corrected hhbm :)⟩
      · subst hnone
        exact ⟨_, exec_hbmAccess_writePart h hmay hw hp hlen, rfl, (congrArg Hbm.poisoned (unitDone_hbm s unit) :)⟩
      · exact ⟨_, exec_hbmAccess_reached h hmay, fun hseen =>
          (exec_hbmAccess_read_seen h hmay hp hmany hseen).symm.trans (exec_hbmAccess_reached h hmay)⟩
    · exact ⟨_, exec_patrolScrub_good ⟨hworks, hunit, rfl⟩ hup hp, rfl, rfl, rfl, rfl⟩
    · have hmem := correctedRead_mem s unit errors
      by_cases hmark : unit ∈ s.hbm.patrolMarks
      · exact ⟨_, exec_patrolScrub_second hnamed hup hp hne hfew hmark, hmem, fun hno => absurd hmark hno,
          fun _ => ⟨by simp, mem_addOnce.2 (.inl rfl)⟩⟩
      · exact ⟨_, exec_patrolScrub_first hnamed hup hp hne hfew hmark, hmem, fun _ => ⟨mem_addOnce.2 (.inl rfl),
          (congrArg Hbm.retireDue (correctedRead_hbm s unit errors) :)⟩, fun hyes => absurd hyes hmark⟩
  · have hexec := exec_unitRetirement hworks hn hrange
    refine ⟨fun hspare => ?_, fun e hspare he hes hep => ?_⟩
    · rw [unitRetirement_redirects hdue hup hspare] at hexec
      exact ⟨_, hexec, congrArg Stack.unitsRetired (countRetired_stack s n range), countRetired_not_due s n range,
        tblFind_put_same .., rfl, redirect_lostSpares ..⟩
    · rw [unitRetirement_unmaps hrange hdue hup hspare he hes hep] at hexec
      have hstack := removePage_stack (countRetired s n range) n (range / 2)
      rw [countRetired_stack] at hstack
      refine ⟨_, hexec, ?_, congrArg Stack.unitsRetired hstack, ?_, removePage_redirected ..⟩
      · exact congrArg Stack.removedPages hstack ▸ mem_addOnce.2 (.inl rfl)
      · intro g hg ⟨hgs, hgp⟩
        have hkept := (removePage_pages (countRetired s n range) n (range / 2)) ▸ hg
        simp [hgs, hgp] at hkept
  · refine ⟨fun hno trains => ?_, fun hdue => ⟨fun hspare => ?_, fun hspare hproblems hgraphs => ?_,
      fun hnone trains => ⟨fun hfirst => ?_, fun hsecond hproblems hgraphs => ?_⟩⟩⟩
    · rw [exec_pinLaneRepair hworks hn hpc hpin, pinRepair_not_due hno]
      exact nextKeeping_eq rfl
    · obtain ⟨t, ht, hk⟩ := exec_pinLaneRepair_spared hworks hn hpc hpin hdue hup hspare
      refine ⟨t, ht, ?_⟩
      rw [hk]
      exact ⟨tblFind_put_same .., by simp [pinSpared, pinTaken], rfl, rfl⟩
    · exact exec_pinLaneRepair_untrained hworks hn hpc hpin hdue hup hspare hproblems hgraphs
    · obtain ⟨t, ht, hk⟩ := exec_pinLaneRepair_firstBad hworks hn hpc hpin hdue hup hnone hfirst trains
      exact ⟨t, ht, congrArg Stack.state hk, congrArg Stack.badPins hk, (congrArg Stack.laneMap hk :)⟩
    · exact exec_pinLaneRepair_secondBad hworks hn hpc hpin hdue hup hnone hsecond hproblems hgraphs trains

end Sys2Proof
end

section
/-! PROOFS. Fence values compare mod 2^64, and a fence wait completes by that rule. -/

namespace Sys2Proof.Machine

/-- The rule of R52 is the sign of the difference. -/
theorem atOrPast_iff (a b : DWord) : atOrPast 64 a.toNat b.toNat = true ↔ (a - b).toNat < 2 ^ 63 := by
  have ha := a.isLt
  have hb := b.isLt
  have hsub : (a.toNat + 2 ^ 64 - b.toNat % 2 ^ 64) % 2 ^ 64 = (a - b).toNat := by
    rw [BitVec.toNat_sub, Nat.mod_eq_of_lt hb]
    congr 1
    omega
  simp only [atOrPast, hsub, decide_eq_true_eq, Nat.reduceSub]

/-- A value that a wait names counts by its 64 bits. -/
theorem atOrPast_ofNat_iff (a : DWord) (n : Nat) :
    atOrPast 64 a.toNat n = true ↔ (a - BitVec.ofNat 64 n).toNat < 2 ^ 63 := by
  rw [← atOrPast_iff]
  simp only [atOrPast, BitVec.toNat_ofNat, Nat.mod_mod]

/-- A fence of the queue's own port is found. -/
theorem needFence_ok {s : State} {p : Port} {h off i : Nat} {f : Fence} (hi : fenceIndex s h = some i)
    (hf : s.fence? i = some f) (hp : f.port = p) : needFence s p h off = .ok (i, f) := by
  simp only [needFence, hi, hf, hp, beq_self_eq_true, if_true]

/-- A wait on such a fence completes when the fence is at or past the value, and runs on before. -/
theorem fenceWaitBody_eq {s : State} {x : Cmd} {q : Queue} {i : Nat} {f : Fence}
    (hi : fenceIndex s (dField x.desc 0x10 8) = some i) (hf : s.fence? i = some f) (hp : f.port = q.port) :
    fenceWaitBody s x q = if atOrPast 64 f.value.toNat (dField x.desc 0x18 8) then .ok s 0 else .run s := by
  simp only [fenceWaitBody, needFence_ok hi hf hp, within]

end Sys2Proof.Machine

namespace Sys2Proof
open Machine

/-- Settles O3: the comparison is the sign of the difference mod 2^64, and a wait's body is that comparison. -/
theorem fenceValuesCompareModulo : Obligations.FenceValuesCompareModulo := by
  refine ⟨atOrPast_iff, fun s c x q i f hr hi hf hp => ⟨fun h => ?_, fun h => ?_⟩⟩
  · refine takeCmd_ok hr ?_
    rw [fenceWaitBody_eq hi hf hp, if_pos ((atOrPast_ofNat_iff _ _).2 h)]
  · refine takeCmd_goes hr ?_
    rw [fenceWaitBody_eq hi hf hp, if_neg (mt (atOrPast_ofNat_iff _ _).1 h)]

end Sys2Proof
end

section
/-! PROOFS. Every command answers a next state, with the same commands waiting, and touches only the parts that
`Instr.touches` lists (R68).

`Touches T s t`: from `s` to `t` the clock stays, and every part that is not one of `T`. Every function of the model that a
step runs has one lemma, which says that its own parts are enough: from `h : Touches T s u`, `h.f : Touches T s (f u)` for
each `T` that lists them (`decide` finds them there). The lemma's proof goes back to a start at `u` (`Touches.then`) and
follows the function's body: `h.f.g` for `g (f u)`, `.ite` at a test, `.foldl` at a fold, `.rest` where fields of parts of
`T` change. -/

namespace Sys2Proof.Machine

-- A thread for each of the many short theorems would take more stack than the check allows.
set_option Elab.async false

/-! ### What a change leaves as it is -/

/-- The fields of a part as `t` has them, every other field as `s` has it, for each part of a list. -/
def State.over (T : List Part) (s t : State) : State where
  pending := t.pending
  time := s.time
  draws := bif T.contains .draws then t.draws else s.draws
  reply := bif T.contains .reply then t.reply else s.reply
  sent := bif T.contains .sent then t.sent else s.sent
  mem := bif T.contains .mem then t.mem else s.mem
  mesh := bif T.contains .mesh then t.mesh else s.mesh
  dies := bif T.contains .dies then t.dies else s.dies
  engines := bif T.contains .engines then t.engines else s.engines
  banks := bif T.contains .banks then t.banks else s.banks
  cmds := bif T.contains .cmds then t.cmds else s.cmds
  jobs := bif T.contains .jobs then t.jobs else s.jobs
  arrays := bif T.contains .arrays then t.arrays else s.arrays
  qfe := bif T.contains .qfe then t.qfe else s.qfe
  portA := bif T.contains .ports then t.portA else s.portA
  portB := bif T.contains .ports then t.portB else s.portB
  spin := bif T.contains .spin then t.spin else s.spin
  grf := bif T.contains .grf then t.grf else s.grf
  hbm := bif T.contains .hbm then t.hbm else s.hbm
  fls := bif T.contains .fls then t.fls else s.fls
  opx := bif T.contains .opx then t.opx else s.opx
  pwr := bif T.contains .pwr then t.pwr else s.pwr
  hostA := bif T.contains .hosts then t.hostA else s.hostA
  hostB := bif T.contains .hosts then t.hostB else s.hostB
  sec := bif T.contains .sec then t.sec else s.sec
  flt := bif T.contains .flt then t.flt else s.flt
  mgmt := bif T.contains .mgmt then t.mgmt else s.mgmt

/-- From `s` to `t` the clock stays, and every part that is not one of `T`. -/
structure Touches (T : List Part) (s t : State) : Prop where
  time : t.time = s.time
  same : ∀ p, p ∉ T → p.same s t

section
variable {T A : List Part} {s u t : State}

theorem Part.same_refl (p : Part) (s : State) : p.same s s := by
  cases p <;> simp [Part.same]

theorem Part.same_trans {p : Part} (h : p.same s u) (h' : p.same u t) : p.same s t := by
  cases p <;> simp_all [Part.same]

theorem Touches.refl : Touches T s s := ⟨rfl, fun p _ => p.same_refl s⟩

theorem Touches.then (h : Touches T s u) (hT : A ⊆ T) (hf : Touches A u u → Touches A u t) : Touches T s t where
  time := (hf .refl).time.trans h.time
  same p hp := Part.same_trans (h.same p hp) ((hf .refl).same p fun hA => hp (hT hA))

theorem Part.mem_all (p : Part) : p ∈ Part.all := by
  cases p <;> decide

/-- A change of every part. -/
theorem Touches.every (h : Touches T s u) (hT : Part.all ⊆ T) (e : t.time = u.time) : Touches T s t where
  time := e.trans h.time
  same p hp := absurd (hT p.mem_all) hp

theorem Touches.over (h : Touches T s u) : Touches T s (u.over T t) where
  time := h.time
  same p hp := by
    refine Part.same_trans (h.same p hp) ?_
    have hc : T.contains p = false := by simpa using hp
    cases p <;> simp_all [Part.same, State.over]

/-- A change of fields of the parts of `T`. -/
theorem Touches.rest (h : Touches T s u) (e : u.over T t = t := by rfl) : Touches T s t := e ▸ h.over

/-- The commands that wait are no part. -/
theorem Touches.pending {l : List Instr} (h : Touches T s u) : Touches T s { u with pending := l } where
  time := h.time
  same p hp := by
    have hs := h.same p hp
    cases p <;> exact hs

theorem Touches.ite {c : Prop} {_ : Decidable c} (h : Touches T s u) (ht : Touches T s t) :
    Touches T s (if c then u else t) := by
  split
  · exact h
  · exact ht

/-- A fold touches what its steps touch. -/
theorem Touches.foldlOn {α β : Type} (get : β → State) {f : β → α → β} {l : List α} {b : β} (h : Touches T s (get b))
    (hf : ∀ b a, Touches T s (get b) → Touches T s (get (f b a))) : Touches T s (get (l.foldl f b)) := by
  induction l generalizing b with
  | nil => exact h
  | cons a l ih => exact ih (hf _ _ h)

theorem Touches.foldl {α : Type} {f : State → α → State} {l : List α} (h : Touches T s u)
    (hf : ∀ v a, Touches T s v → Touches T s (f v a)) : Touches T s (l.foldl f u) := .foldlOn id h hf

theorem Touches.write {sp : Space} {a : Nat} {b : List Byte} (h : Touches T s u) (hT : [.mem] ⊆ T := by decide) :
    Touches T s (u.write sp a b) :=
  h.then hT fun h => h.rest

theorem Touches.clear {sp : Space} (h : Touches T s u) (hT : [.mem] ⊆ T := by decide) : Touches T s (u.clear sp) :=
  h.then hT fun h => h.rest

end

/-- Every state that a body's answer carries is touched in `T` alone. -/
inductive DoneTouches (T : List Part) (s : State) : Done → Prop where
  | ok {t : State} {r : BitVec 128} (h : Touches T s t) : DoneTouches T s (.ok t r)
  | bad {t : State} {code detail : Nat} {r : BitVec 128} {logged : Bool} (h : Touches T s t) :
    DoneTouches T s (.bad t code detail r logged)
  | run {t : State} (h : Touches T s t) : DoneTouches T s (.run t)
  | stop {x : Stop} : DoneTouches T s (.stop x)
  | held {t : State} {x : Stop} (h : Touches T s t) : DoneTouches T s (.held t x)

/-- The state that the answer to a security request carries is touched in `T` alone. -/
inductive SecTouches (T : List Part) (s : State) : SecRes → Prop where
  | fail {code : Nat} : SecTouches T s (.fail code)
  | done {t : State} {bytes : Nat} (h : Touches T s t) : SecTouches T s (.done t bytes)
  | draw : SecTouches T s .draw

/-- A command answers a next state when `ok`; a next state that it answers has the same commands waiting, and only
parts of `T` touched. -/
structure Answering (T : List Part) (ok : Bool) (s : State) (o : Out) : Prop where
  next : ok = true → ∃ t, o = .next t
  pending : ∀ t, o = .next t → t.pending = s.pending
  touches : ∀ t, o = .next t → Touches T s t

section
variable {T A : List Part} {s u : State}

theorem Touches.thenDone {d : Done} (h : Touches T s u) (hT : A ⊆ T) (hd : Touches A u u → DoneTouches A u d) :
    DoneTouches T s d := by
  cases hd .refl with
  | ok ht => exact .ok (h.then hT fun _ => ht)
  | bad ht => exact .bad (h.then hT fun _ => ht)
  | run ht => exact .run (h.then hT fun _ => ht)
  | stop => exact .stop
  | held ht => exact .held (h.then hT fun _ => ht)

theorem Touches.thenSec {x : SecRes} (h : Touches T s u) (hT : A ⊆ T) (hx : Touches A u u → SecTouches A u x) :
    SecTouches T s x := by
  cases hx .refl with
  | fail => exact .fail
  | done ht => exact .done (h.then hT fun _ => ht)
  | draw => exact .draw

theorem DoneTouches.ite {c : Prop} {_ : Decidable c} {d d' : Done} (h : DoneTouches T s d) (h' : DoneTouches T s d') :
    DoneTouches T s (if c then d else d') := by
  split
  · exact h
  · exact h'

theorem SecTouches.ite {c : Prop} {_ : Decidable c} {x y : SecRes} (hx : SecTouches T s x) (hy : SecTouches T s y) :
    SecTouches T s (if c then x else y) := by
  split
  · exact hx
  · exact hy

theorem Answering.act {ok : Bool} {f : State → State} (hf : Touches T u u → Touches T u (f u)) :
    Answering T ok u (act ok u f) where
  next hok := by
    cases hw : u.works
    · exact ⟨u, act_idle hw hok⟩
    · exact ⟨_, act_works hw hok⟩
  pending _ := act_pending
  touches t ht := by
    unfold Machine.act at ht
    split at ht
    · split at ht
      · cases ht
        exact (hf .refl).pending
      · cases ht
        exact .refl
    · cases ht

theorem Answering.actAlways {ok : Bool} {f : State → State} (hf : Touches T u u → Touches T u (f u)) :
    Answering T ok u (actAlways ok u f) where
  next hok := ⟨_, actAlways_ok hok⟩
  pending _ := actAlways_pending
  touches t ht := by
    unfold Machine.actAlways at ht
    split at ht
    · cases ht
      exact (hf .refl).pending
    · cases ht

end

/-! ### The functions of `Sys2Proof/Machine/Ops.lean` -/

section
variable {T : List Part} {s u t : State}

theorem Touches.setEng {e' : Nat} {x : Engine} (h : Touches T s u) (hT : [.engines] ⊆ T := by decide) :
    Touches T s (u.setEng e' x) :=
  h.then hT fun h => h.rest

theorem Touches.modEng {e' : Nat} {f : Engine → Engine} (h : Touches T s u) (hT : [.engines] ⊆ T := by decide) :
    Touches T s (u.modEng e' f) :=
  h.then hT fun h => h.setEng

theorem Touches.setDie {d : Nat} {x : Die} (h : Touches T s u) (hT : [.dies] ⊆ T := by decide) :
    Touches T s (u.setDie d x) :=
  h.then hT fun h => h.rest

theorem Touches.modDie {d : Nat} {f : Die → Die} (h : Touches T s u) (hT : [.dies] ⊆ T := by decide) :
    Touches T s (u.modDie d f) :=
  h.then hT fun h => h.setDie

theorem Touches.setBank {b : Nat} {x : Bank} (h : Touches T s u) (hT : [.banks] ⊆ T := by decide) :
    Touches T s (u.setBank b x) :=
  h.then hT fun h => h.rest

theorem Touches.modBank {b : Nat} {f : Bank → Bank} (h : Touches T s u) (hT : [.banks] ⊆ T := by decide) :
    Touches T s (u.modBank b f) :=
  h.then hT fun h => h.setBank

theorem Touches.setPort {p : Port} {x : PortState} (h : Touches T s u) (hT : [.ports] ⊆ T := by decide) :
    Touches T s (u.setPort p x) := by
  refine h.then hT fun h => ?_
  unfold State.setPort
  split <;> exact h.rest

theorem Touches.modPort {p : Port} {f : PortState → PortState} (h : Touches T s u) (hT : [.ports] ⊆ T := by decide) :
    Touches T s (u.modPort p f) :=
  h.then hT fun h => h.setPort

theorem Touches.setHost {p : Port} {x : HostDie} (h : Touches T s u) (hT : [.hosts] ⊆ T := by decide) :
    Touches T s (u.setHost p x) := by
  refine h.then hT fun h => ?_
  unfold State.setHost
  split <;> exact h.rest

theorem Touches.modHost {p : Port} {f : HostDie → HostDie} (h : Touches T s u) (hT : [.hosts] ⊆ T := by decide) :
    Touches T s (u.modHost p f) :=
  h.then hT fun h => h.setHost

theorem Touches.setQueue {q : Nat} {x : Queue} (h : Touches T s u) (hT : [.qfe] ⊆ T := by decide) :
    Touches T s (u.setQueue q x) :=
  h.then hT fun h => h.rest

theorem Touches.modQueue {q : Nat} {f : Queue → Queue} (h : Touches T s u) (hT : [.qfe] ⊆ T := by decide) :
    Touches T s (u.modQueue q f) := by
  refine h.then hT fun h => ?_
  unfold State.modQueue
  split
  · exact h.setQueue
  · exact h

theorem Touches.setCmd {c : Nat} {x : Cmd} (h : Touches T s u) (hT : [.cmds] ⊆ T := by decide) :
    Touches T s (u.setCmd c x) :=
  h.then hT fun h => h.rest

theorem Touches.dropCmd {c : Nat} (h : Touches T s u) (hT : [.cmds] ⊆ T := by decide) : Touches T s (u.dropCmd c) :=
  h.then hT fun h => h.rest

theorem Touches.modCmd {c : Nat} {f : Cmd → Cmd} (h : Touches T s u) (hT : [.cmds] ⊆ T := by decide) :
    Touches T s (u.modCmd c f) := by
  refine h.then hT fun h => ?_
  unfold State.modCmd
  split
  · exact h.setCmd
  · exact h

theorem Touches.setFence {n : Nat} {x : Fence} (h : Touches T s u) (hT : [.qfe] ⊆ T := by decide) :
    Touches T s (u.setFence n x) :=
  h.then hT fun h => h.rest

theorem Touches.setStack {n : Nat} {x : Stack} (h : Touches T s u) (hT : [.hbm] ⊆ T := by decide) :
    Touches T s (u.setStack n x) :=
  h.then hT fun h => h.rest

theorem Touches.setChannel {n : Nat} {x : FlashChannel} (h : Touches T s u) (hT : [.fls] ⊆ T := by decide) :
    Touches T s (u.setChannel n x) :=
  h.then hT fun h => h.rest

theorem Touches.setPair {k : Nat} {x : Pair} (h : Touches T s u) (hT : [.opx] ⊆ T := by decide) :
    Touches T s (u.setPair k x) :=
  h.then hT fun h => h.rest

theorem Touches.modPair {k : Nat} {f : Pair → Pair} (h : Touches T s u) (hT : [.opx] ⊆ T := by decide) :
    Touches T s (u.modPair k f) :=
  h.then hT fun h => h.setPair

theorem Touches.setFlow {f : Nat} {x : Flow} (h : Touches T s u) (hT : [.opx] ⊆ T := by decide) :
    Touches T s (u.setFlow f x) :=
  h.then hT fun h => h.rest

theorem Touches.send {m : OutMsg} (h : Touches T s u) (hT : [.sent] ⊆ T := by decide) : Touches T s (u.send m) :=
  h.then hT fun h => h.rest

theorem Touches.request {p : Port} {m : OutMsg} (h : Touches T s u) (hT : [.ports, .sent] ⊆ T := by decide) :
    Touches T s (u.request p m) :=
  h.then hT fun h => .ite h.send (.ite h.modPort h)

theorem Touches.overBar {p : Port} {f : State → State} (hf : ∀ v, Touches T s v → Touches T s (f v))
    (h : Touches T s u) (hT : [.sent] ⊆ T := by decide) : Touches T s (overBar p f u) :=
  .ite (hf _ h) (.ite (h.send hT) h)

end

/-! ### The functions of `Sys2Proof/Machine/Flags.lean` -/

section
variable {T : List Part} {s u t : State}

theorem Touches.msixSend {p : Port} {v' : Nat} (h : Touches T s u) (hT : [.ports, .sent] ⊆ T := by decide) :
    Touches T s (msixSend u p v') :=
  h.then hT fun h => .ite h.setPort (.ite h.setPort h.setPort.send)

theorem Touches.msixTrigger {p : Port} {v' : Nat} (h : Touches T s u) (hT : [.ports, .sent] ⊆ T := by decide) :
    Touches T s (msixTrigger u p v') :=
  h.then hT fun h => .ite h (.ite h.msixSend h.setPort)

theorem Touches.hostForward {p : Port} {n : Nat} (h : Touches T s u) (hT : [.ports, .sent] ⊆ T := by decide) :
    Touches T s (hostForward u p n) :=
  h.then hT fun h => .ite h h.setPort.msixTrigger

theorem Touches.fire {n : Nat} (h : Touches T s u) (hT : Part.fires ⊆ T := by decide) : Touches T s (u.fire n) :=
  h.then hT fun h => .ite (.hostForward (.hostForward h.rest)) h

theorem Touches.dieEvent {d b : Nat} (h : Touches T s u) (hT : Part.fires ++ [Part.dies] ⊆ T := by decide) :
    Touches T s (dieEvent u d b) :=
  h.then hT fun h => h.modDie.fire

theorem Touches.countDie {d : Nat} {get : Die → Stat} {put : Die → Stat → Die} {cause n : Nat} (h : Touches T s u)
    (hT : Part.fires ++ [Part.dies] ⊆ T := by decide) : Touches T s (countDie u d get put cause n) :=
  h.then hT fun h => .ite h (.ite h.modDie.dieEvent h.modDie)

theorem Touches.countEngine {e' : Nat} {get : Engine → Stat} {put : Engine → Stat → Engine} {cause n : Nat}
    (h : Touches T s u) (hT : Part.fires ++ [Part.dies, .engines] ⊆ T := by decide) :
    Touches T s (countEngine u e' get put cause n) :=
  h.then hT fun h => .ite h (.ite h.modEng.dieEvent h.modEng)

theorem Touches.countPort {p : Port} {get : PortState → Stat} {put : PortState → Stat → PortState} {source n : Nat}
    (h : Touches T s u) (hT : Part.fires ⊆ T := by decide) : Touches T s (countPort u p get put source n) :=
  h.then hT fun h => .ite h.modPort.fire h.modPort

theorem Touches.countGlobal {get : State → Stat} {put : State → Stat → State} {source n : Nat} (h : Touches T s u)
    (hput : ∀ v a, Touches T s v → Touches T s (put v a)) (hT : Part.fires ⊆ T := by decide) :
    Touches T s (countGlobal u get put source n) :=
  .ite (.fire (hput _ _ h) hT) (hput _ _ h)

theorem Touches.consumerError {h' : Port} (h : Touches T s u) (hT : Part.fires ⊆ T := by decide) :
    Touches T s (consumerError u h') :=
  h.then hT fun h => .ite h.modHost.fire h.modHost

theorem Touches.logFault {code detail die engine : Nat} {portB : Bool} {who : Option (Nat × Nat × Nat)}
    (h : Touches T s u) (hT : Part.fires ++ [Part.flt] ⊆ T := by decide) :
    Touches T s (logFault u code detail die engine portB who) := by
  refine h.then hT fun h => ?_
  unfold Machine.logFault
  dsimp only
  split
  · exact h.rest
  · exact .fire h.rest

theorem Touches.logPlain {code detail : Nat} (h : Touches T s u) (hT : Part.fires ++ [Part.flt] ⊆ T := by decide) :
    Touches T s (logPlain u code detail) :=
  h.then hT fun h => h.logFault

theorem Touches.logOnDie {code detail die : Nat} (h : Touches T s u) (hT : Part.fires ++ [Part.flt] ⊆ T := by decide) :
    Touches T s (logOnDie u code detail die) :=
  h.then hT fun h => h.logFault

theorem Touches.logOnEngine {code detail e' : Nat} (h : Touches T s u)
    (hT : Part.fires ++ [Part.flt] ⊆ T := by decide) : Touches T s (logOnEngine u code detail e') :=
  h.then hT fun h => h.logFault

theorem Touches.logOnPort {code : Nat} {p : Port} (h : Touches T s u) (hT : Part.fires ++ [Part.flt] ⊆ T := by decide) :
    Touches T s (logOnPort u code p) :=
  h.then hT fun h => h.logFault

theorem Touches.logOnQueue {code detail q : Nat} {x : Queue} {seq : Nat} (h : Touches T s u)
    (hT : Part.fires ++ [Part.flt] ⊆ T := by decide) : Touches T s (logOnQueue u code detail q x seq) :=
  h.then hT fun h => h.logFault

end

/-! ### The functions of `Sys2Proof/Machine/Access.lean` -/

section
variable {T : List Part} {s u t : State}

theorem Touches.unpoison {p : Port} {pasid va len : Nat} (h : Touches T s u) (hT : [.hbm] ⊆ T := by decide) :
    Touches T s (unpoison u p pasid va len) :=
  h.then hT fun h => .ite h.rest h

theorem Touches.pokeVa {p : Port} {pasid va : Nat} {b : List Byte} (h : Touches T s u)
    (hT : [.mem, .hbm] ⊆ T := by decide) : Touches T s (pokeVa u p pasid va b) :=
  h.then hT fun h => .unpoison h.rest

theorem Touches.writeVa {p : Port} {pasid va : Nat} {b : List Byte} (h : Touches T s u)
    (e : writeVa u p pasid va b = .ok t) (hT : [.mem, .hbm] ⊆ T := by decide) : Touches T s t := by
  refine h.then hT fun h => ?_
  unfold Machine.writeVa at e
  split at e
  · cases e
    exact h.pokeVa
  · cases e

theorem Touches.scrambleVa {p : Port} {pasid va len : Nat} (h : Touches T s u)
    (hT : [.mem, .hbm, .draws] ⊆ T := by decide) : Touches T s (scrambleVa u p pasid va len) := by
  refine h.then hT fun h => ?_
  unfold Machine.scrambleVa
  refine .foldl h fun v a hv => ?_
  split
  · exact hv.pokeVa.rest
  · exact hv

theorem Touches.askPage {p : Port} {pasid page : Nat} {write : Bool} (h : Touches T s u)
    (hT : [.ports, .sent] ⊆ T := by decide) : Touches T s (askPage u p pasid page write) :=
  h.then hT fun h => .ite h.setPort h.setPort.request

end

/-! ### The functions of `Sys2Proof/Machine/Medium.lean` -/

section
variable {T : List Part} {s u t : State}

theorem Touches.placeData {m : Nat} (h : Touches T s u) (hT : [.fls] ⊆ T := by decide) :
    Touches T s (placeData u m).1 := by
  refine h.then hT fun h => ?_
  unfold Machine.placeData
  split
  · split
    · split
      · split <;> exact h.rest
      · exact h.rest
    · split
      · split <;> exact h.rest
      · exact h.rest
  · split
    · split
      · exact h.rest
      · exact h
    · exact h

theorem Touches.putPlace {i n k : Nat} (h : Touches T s u) (hT : [.fls] ⊆ T := by decide) :
    Touches T s (putPlace u i n k) := by
  refine h.then hT fun h => ?_
  unfold Machine.putPlace
  split
  · exact h.rest
  · exact h

theorem Touches.moveData {m k : Nat} (h : Touches T s u) (hT : [.fls] ⊆ T := by decide) :
    Touches T s (moveData u m k) := by
  refine h.then hT fun h => ?_
  unfold Machine.moveData
  dsimp only
  exact .foldl h.rest fun _ _ hv => hv.placeData.putPlace

end

/-! ### The functions of `Sys2Proof/Machine/Complete.lean` -/

section
variable {T : List Part} {s u t : State}

theorem Touches.pollReset {q : Queue} (h : Touches T s u) (hT : [.qfe] ⊆ T := by decide) :
    Touches T s (pollReset u q) :=
  h.then hT fun h => h.rest

theorem Touches.freeSlots {l : Nat} (h : Touches T s u) (hT : [.engines] ⊆ T := by decide) :
    Touches T s (freeSlots u l) := by
  refine h.then hT fun h => ?_
  unfold Machine.freeSlots
  split
  · exact h.foldl fun _ _ hv => hv.modEng
  · exact h

theorem Touches.dropLaunch {l : Nat} (h : Touches T s u) (hT : [.engines, .spin] ⊆ T := by decide) :
    Touches T s (dropLaunch u l) :=
  h.then hT fun h => h.freeSlots.rest

theorem Touches.freeVersions {g : Nat} (h : Touches T s u) (hT : [.grf] ⊆ T := by decide) :
    Touches T s (freeVersions u g) := by
  refine h.then hT fun h => ?_
  unfold Machine.freeVersions
  split
  · exact h
  · exact .ite h.rest h.rest

theorem Touches.dropGraphLaunch {c : Nat} (h : Touches T s u) (hT : [.grf] ⊆ T := by decide) :
    Touches T s (dropGraphLaunch u c) := by
  refine h.then hT fun h => ?_
  unfold Machine.dropGraphLaunch
  split
  · exact .freeVersions h.rest
  · exact h

theorem Touches.launchWritten {q seq : Nat} (h : Touches T s u) (hT : [.engines, .spin, .grf] ⊆ T := by decide) :
    Touches T s (launchWritten u q seq) := by
  refine h.then hT fun h => ?_
  unfold Machine.launchWritten
  dsimp only
  split
  · refine .dropGraphLaunch ?_
    split
    · exact h.dropLaunch
    · exact h
  · split
    · exact h.dropLaunch
    · exact h

theorem Touches.endLaunch {c : Nat} {x : Cmd} {code : Nat} (h : Touches T s u)
    (hT : [.engines, .spin] ⊆ T := by decide) : Touches T s (endLaunch u c x code) := by
  refine h.then hT fun h => ?_
  unfold Machine.endLaunch
  split
  · exact h
  · exact .ite h.dropLaunch (.rest (.ite h h.freeSlots))

theorem Touches.endGraphLaunch {c : Nat} {x : Cmd} (h : Touches T s u) (hT : [.grf] ⊆ T := by decide) :
    Touches T s (endGraphLaunch u c x) := by
  refine h.then hT fun h => ?_
  unfold Machine.endGraphLaunch
  split
  · exact h
  · exact .ite h.dropGraphLaunch h.rest

theorem Touches.queueStop {q : Nat} {st : QState} {fault seq : Nat} (h : Touches T s u)
    (hT : [.qfe, .ports, .sent] ⊆ T := by decide) : Touches T s (queueStop u q st fault seq) := by
  refine h.then hT fun h => ?_
  unfold Machine.queueStop
  split
  · exact h
  · exact .ite h h.setQueue.msixTrigger

theorem Touches.queueError {q code : Nat} (h : Touches T s u) (hT : Part.fires ++ [Part.qfe, .flt] ⊆ T := by decide) :
    Touches T s (queueError u q code) := by
  refine h.then hT fun h => ?_
  unfold Machine.queueError
  split
  · exact h
  · exact .ite h h.queueStop.logOnQueue

theorem Touches.flushRecords {fuel q : Nat} (h : Touches T s u) (hT : Part.tasked ⊆ T := by decide) :
    Touches T s (flushRecords fuel u q) := by
  induction fuel generalizing u with
  | zero => exact h
  | succ fuel ih =>
    unfold Machine.flushRecords
    split
    · exact h
    · split
      · exact h
      · split
        · next e =>
          extract_lets w1 x w2
          have hw2 : Touches T s w2 := h.then hT fun h => (h.writeVa e).pokeVa.setQueue.pollReset.launchWritten
          exact ih (.ite (hw2.then hT fun h => h.msixTrigger) hw2)
        · exact h.then hT fun h => h.askPage.setQueue
        · exact h
        · exact h.then hT fun h => h.queueError

theorem Touches.haltFor {q fault seq : Nat} (h : Touches T s u) (hT : [.qfe, .ports, .sent] ⊆ T := by decide) :
    Touches T s (haltFor u q fault seq) := by
  refine h.then hT fun h => ?_
  unfold Machine.haltFor
  split
  · exact .ite h.queueStop h
  · exact h

theorem Touches.putRecord {q : Nat} {r' : Record} (h : Touches T s u) (hT : Part.tasked ⊆ T := by decide) :
    Touches T s (putRecord u q r') := by
  refine h.then hT fun h => ?_
  unfold Machine.putRecord
  split
  · exact h
  · exact .ite h h.setQueue.haltFor.flushRecords

theorem Touches.releaseClaims {c : Nat} (h : Touches T s u) (hT : [.engines, .jobs] ⊆ T := by decide) :
    Touches T s (releaseClaims u c) := by
  refine h.then hT fun h => ?_
  unfold Machine.releaseClaims
  split
  · split
    · exact .rest (h.foldl fun _ _ hv => hv.modEng)
    · exact h.rest
  · exact h

theorem Touches.programBlock {q : Queue} {d : Desc} {k : Nat} (h : Touches T s u)
    (hT : [.mem, .hbm, .fls] ⊆ T := by decide) : Touches T s (programBlock q d u k) := by
  refine h.then hT fun h => ?_
  unfold Machine.programBlock
  split
  · exact h
  · dsimp only
    exact h.write.placeData.rest

theorem Touches.cutOffStore {x : Cmd} (h : Touches T s u) (hT : [.mem, .hbm, .fls, .draws] ⊆ T := by decide) :
    Touches T s (cutOffStore u x) := by
  refine h.then hT fun h => ?_
  unfold Machine.cutOffStore
  split
  · exact .ite (.foldl h.rest fun _ _ hv => hv.programBlock) h
  · exact h

theorem Touches.releaseFlows {c : Nat} {failed : Bool} (h : Touches T s u) (hT : [.opx] ⊆ T := by decide) :
    Touches T s (releaseFlows u c failed) := by
  refine h.then hT fun h => ?_
  unfold Machine.releaseFlows
  extract_lets mine v stay w
  have hv : Touches _ u v := h.foldl fun _ _ hv => hv.setFlow
  have hw : Touches _ u w := hv.foldl fun _ _ hv => hv.setFlow
  exact .ite hw.rest hv

theorem Touches.nodeFinish {l n fault detail status : Nat} {result : BitVec 128} (h : Touches T s u)
    (hT : [.grf] ⊆ T := by decide) : Touches T s (nodeFinish u l n fault detail status result) := by
  refine h.then hT fun h => ?_
  unfold Machine.nodeFinish
  split
  · exact h.rest
  · exact h

theorem Touches.finishCmd {c code detail : Nat} {result : BitVec 128} {logged shuttered : Bool} (h : Touches T s u)
    (hT : Part.ended ⊆ T := by decide) : Touches T s (finishCmd u c code detail result logged shuttered) := by
  refine h.then hT fun h => ?_
  unfold Machine.finishCmd
  split
  · exact h
  · extract_lets cut dropped released told
    have hc : Touches Part.ended u cut := .ite h h.cutOffStore
    clear_value cut
    have hr : Touches Part.ended u released :=
      .releaseFlows (.dropCmd (.releaseClaims (.rest hc.endLaunch.endGraphLaunch)))
    clear_value released
    have ht : Touches Part.ended u told := by
      dsimp only [told]
      split
      · exact hr.logOnQueue
      · exact hr
    clear_value told
    split
    · exact ht.nodeFinish
    · split
      · exact ht
      · exact ht.putRecord

theorem Touches.scrambleDests {x : Cmd} (h : Touches T s u) (hT : [.mem, .hbm, .draws] ⊆ T := by decide) :
    Touches T s (scrambleDests u x) := by
  refine h.then hT fun h => ?_
  unfold Machine.scrambleDests
  split
  · exact h.foldl fun _ _ hv => hv.scrambleVa
  · exact h

theorem Touches.faultAs {c code detail : Nat} {logged : Bool} (h : Touches T s u) (hT : Part.ended ⊆ T := by decide) :
    Touches T s (faultAs u c code detail logged) := by
  refine h.then hT fun h => ?_
  unfold Machine.faultAs
  split
  · exact h
  · split
    · exact h
    · split
      · exact h
      · exact .modCmd h.rest
      · exact h.scrambleDests.finishCmd

theorem Touches.faultCmd {c code detail : Nat} (h : Touches T s u) (hT : Part.ended ⊆ T := by decide) :
    Touches T s (faultCmd u c code detail) :=
  h.then hT fun h => h.faultAs

theorem Touches.faultCmdOpen {c code : Nat} (h : Touches T s u) (hT : Part.ended ⊆ T := by decide) :
    Touches T s (faultCmdOpen u c code) :=
  h.then hT fun h => .faultCmd h.rest

theorem DoneTouches.within {α : Type} {x : Try α} {k : α → Done} (hk : ∀ a, x = .ok a → DoneTouches T s (k a)) :
    DoneTouches T s (within x k) := by
  unfold Machine.within
  split
  · exact hk _ rfl
  · exact .stop

theorem DoneTouches.keeping {d : Done} (h : Touches T s u) (hd : DoneTouches T s d) :
    DoneTouches T s (keeping u d) := by
  cases hd with
  | stop => exact .held h
  | ok ht => exact .ok ht
  | bad ht => exact .bad ht
  | run ht => exact .run ht
  | held ht => exact .held ht

theorem Touches.failCmd {c code detail : Nat} {result : BitVec 128} {logged : Bool} (h : Touches T s u)
    (hT : Part.ended ⊆ T := by decide) : Touches T s (failCmd u c code detail result logged) := by
  refine h.then hT fun h => ?_
  unfold Machine.failCmd
  refine .finishCmd ?_
  split
  · exact h.scrambleDests
  · exact h

theorem Touches.stopped {c : Nat} {q : Queue} {x : Stop} (h : Touches T s u) (hT : Part.ended ⊆ T := by decide) :
    Touches T s (stopped u c q x) := by
  refine h.then hT fun h => ?_
  unfold Machine.stopped
  split
  · exact h.failCmd
  · exact .failCmd h.rest
  · exact h.failCmd
  · exact h.askPage.modCmd
  · exact h

theorem Touches.settle {c : Nat} {q : Queue} {d : Done} (h : Touches T s u) (hd : DoneTouches T s d)
    (hT : Part.ended ⊆ T := by decide) : Touches T s (settle u c q d) := by
  unfold Machine.settle
  cases hd with
  | ok ht => exact ht.finishCmd hT
  | bad ht => exact ht.finishCmd hT
  | run ht => exact ht.then hT fun ht => ht.modCmd
  | stop => exact h.stopped hT
  | held ht => exact ht.stopped hT

theorem Touches.issued {e' : Nat} {taken : Bool} (h : Touches T s u) (hT : [.engines] ⊆ T := by decide) :
    Touches T s (issued u e' taken) :=
  h.then hT fun h => h.modEng

theorem Touches.tileWork {e' c : Nat} (h : Touches T s u) (hT : [.dies, .engines, .draws] ⊆ T := by decide) :
    Touches T s (tileWork u e' c) := by
  refine h.then hT fun h => ?_
  unfold Machine.tileWork
  split
  · extract_lets n v
    have hv : Touches _ u v := h.issued.modDie
    clear_value v
    exact hv.rest
  · exact h

theorem Touches.takeCmd {c opcode : Nat} {stages : List Stage} {body : State → Cmd → Queue → Done} (h : Touches T s u)
    (hbody : ∀ v a a2, Touches T s v → DoneTouches T s (body v a a2)) (hT : Part.ended ⊆ T := by decide) :
    Touches T s (takeCmd u c opcode stages body) := by
  unfold Machine.takeCmd
  split
  · exact h
  · split
    · exact h
    · exact .ite (h.settle (hbody _ _ _ h) hT) h

theorem Touches.runCmd {c opcode : Nat} {body : State → Cmd → Queue → Done} (h : Touches T s u)
    (hbody : ∀ v a a2, Touches T s v → DoneTouches T s (body v a a2)) (hT : Part.ended ⊆ T := by decide) :
    Touches T s (runCmd u c opcode body) :=
  h.takeCmd hbody hT

theorem Touches.goOn {c opcode : Nat} {body : State → Cmd → Queue → Done} (h : Touches T s u)
    (hbody : ∀ v a a2, Touches T s v → DoneTouches T s (body v a a2)) (hT : Part.ended ⊆ T := by decide) :
    Touches T s (goOn u c opcode body) :=
  h.takeCmd hbody hT

end

/-! ### The functions of `Sys2Proof/Machine/Writes.lean` -/

section
variable {T : List Part} {s u t : State}

theorem Touches.writeRuns {q : Queue} {l : List (Nat × List Byte)} (h : Touches T s u) (e : writeRuns u q l = .ok t)
    (hT : [.mem, .hbm] ⊆ T := by decide) : Touches T s t := by
  induction l generalizing u with
  | nil =>
    cases e
    exact h
  | cons r l ih =>
    unfold Machine.writeRuns at e
    split at e
    · cases e
    · next e' => exact ih (h.writeVa e' hT) e

theorem Touches.writePlan {q : Queue} {x : WritePlan} {r : State × Tally} (h : Touches T s u)
    (e : writePlan u q x = .ok r) (hT : [.mem, .hbm] ⊆ T := by decide) : Touches T s r.1 := by
  refine h.then hT fun h => ?_
  unfold Machine.writePlan at e
  split at e
  · cases e
  · next e' =>
    cases e
    exact h.writeRuns e'

theorem Touches.writeTensor {q : Queue} {x : Tensor} {vals : List (List Val)} {r : State × Tally} (h : Touches T s u)
    (e : writeTensor u q x vals = .ok r) (hT : [.mem, .hbm, .draws] ⊆ T := by decide) : Touches T s r.1 := by
  refine h.then hT fun h => ?_
  unfold Machine.writeTensor at e
  split at e
  · cases e
  · exact .writePlan h.rest e

theorem DoneTouches.badWriting {q : Queue} {dests : List (Nat × Nat)} {x : Stop} (h : Touches T s u)
    (hT : [.mem, .hbm, .draws] ⊆ T := by decide) : DoneTouches T s (badWriting u q dests x) := by
  refine h.thenDone hT fun h => ?_
  unfold Machine.badWriting
  split
  · exact .bad (h.foldl fun _ _ hv => hv.scrambleVa)
  · exact .bad (.foldl h.rest fun _ _ hv => hv.scrambleVa)
  · exact .bad (h.foldl fun _ _ hv => hv.scrambleVa)
  · exact .stop

theorem DoneTouches.writing {α : Type} {q : Queue} {dests : List (Nat × Nat)} {x : Try α} {k : α → Done}
    (h : Touches T s u) (hk : ∀ a, x = .ok a → DoneTouches T s (k a)) (hT : [.mem, .hbm, .draws] ⊆ T := by decide) :
    DoneTouches T s (writing u q dests x k) := by
  unfold Machine.writing
  split
  · exact hk _ rfl
  · exact .badWriting h hT

theorem Touches.noteSlip {x : Cmd} {q : Queue} {l : TagSlip} (h : Touches T s u)
    (hT : Part.fires ++ [Part.dies, .engines, .flt] ⊆ T := by decide) : Touches T s (noteSlip x q u l) :=
  h.then hT fun h => h.countEngine.logFault

theorem DoneTouches.unslipped {x : Cmd} {q : Queue} {dests : List (Nat × Nat)} {ls : List TagSlip} {k : Unit → Done}
    (h : Touches T s u) (hk : ∀ a, DoneTouches T s (k a))
    (hT : Part.fires ++ [Part.mem, .dies, .engines, .hbm, .flt, .draws] ⊆ T := by decide) :
    DoneTouches T s (unslipped u x q dests ls k) := by
  unfold Machine.unslipped
  split
  · exact hk _
  · exact .bad (h.then hT fun h => .foldl (h.foldl fun _ _ hv => hv.noteSlip) fun _ _ hv => hv.scrambleVa)

theorem DoneTouches.paired {x : Cmd} {q : Queue} {slips : List TagSlip} {os : List Operand} {dests : List (Nat × Nat)}
    {k : Unit → Done} (h : Touches T s u) (hk : ∀ a, DoneTouches T s (k a))
    (hT : Part.fires ++ [Part.mem, .dies, .engines, .hbm, .flt, .draws] ⊆ T := by decide) :
    DoneTouches T s (paired u x q slips os dests k) :=
  .unslipped h hk hT

end

/-! ### The functions of `Sys2Proof/Machine/Spin.lean` -/

section
variable {T : List Part} {s u t : State}

theorem Touches.setProblem {i : Nat} {p : Problem} (h : Touches T s u) (hT : [.spin] ⊆ T := by decide) :
    Touches T s (u.setProblem i p) :=
  h.then hT fun h => h.rest

end

/-! ### The functions of `Sys2Proof/Machine/Streams.lean` -/

section
variable {T : List Part} {s u t : State}

theorem Touches.setTx {k : Nat} {x : Stream} (h : Touches T s u) (hT : [.opx] ⊆ T := by decide) :
    Touches T s (u.setTx k x) :=
  h.then hT fun h => h.rest

theorem Touches.setRx {k : Nat} {x : Stream} (h : Touches T s u) (hT : [.opx] ⊆ T := by decide) :
    Touches T s (u.setRx k x) :=
  h.then hT fun h => h.rest

theorem Touches.handOverFrom {flow origin : Nat} {b : List Byte} (h : Touches T s u) (hT : [.opx] ⊆ T := by decide) :
    Touches T s (handOverFrom u flow origin b) :=
  h.then hT fun h => h.foldl fun _ _ hv => hv.setTx

theorem Touches.handOver {flow : Nat} {b : List Byte} (h : Touches T s u) (hT : [.opx] ⊆ T := by decide) : Touches T s
    (handOver u flow b) :=
  h.then hT fun h => h.handOverFrom

theorem Touches.oweFlow {flow : Nat} (h : Touches T s u) (hT : [.opx] ⊆ T := by decide) :
    Touches T s (oweFlow u flow) :=
  h.then hT fun h => h.foldl fun _ _ hv => hv.setTx

theorem Touches.takeRx {flow origin n : Nat} {r : List Byte × State} (h : Touches T s u)
    (e : takeRx u flow origin n = some r) (hT : [.opx] ⊆ T := by decide) : Touches T s r.2 := by
  refine h.then hT fun h => ?_
  unfold Machine.takeRx at e
  dsimp only at e
  split at e
  · cases e
  · cases e
    exact h.setRx

theorem Touches.claimFlow {c : Nat} {x : Cmd} (h : Touches T s u) (hT : [.opx] ⊆ T := by decide) :
    Touches T s (claimFlow u c x) :=
  h.then hT fun h => .ite h.setFlow.oweFlow h.setFlow

theorem Touches.claimAtStart {c : Nat} {x : Cmd} (h : Touches T s u) (hT : [.opx] ⊆ T := by decide) :
    Touches T s (claimAtStart u c x) := by
  refine h.then hT fun h => ?_
  unfold Machine.claimAtStart
  split
  · exact .ite h h.claimFlow
  · exact h

theorem Touches.moveStream {flow origin : Nat} (h : Touches T s u) (hT : [.opx] ⊆ T := by decide) :
    Touches T s (moveStream u flow origin) := by
  refine h.then hT fun h => ?_
  unfold Machine.moveStream
  dsimp only
  refine .foldl ?_ fun _ _ hv => hv.setTx
  refine .foldl h fun v a hv => ?_
  split
  · exact hv.setTx
  · exact hv

theorem Touches.moveStreams (h : Touches T s u) (hT : [.opx] ⊆ T := by decide) : Touches T s (moveStreams u) :=
  h.then hT fun h => h.foldl fun _ _ hv => hv.moveStream

end

/-! ### The functions of `Sys2Proof/Machine/Anneal.lean` -/

section
variable {T : List Part} {s u t : State}

theorem Touches.setLaunch {c : Nat} {l : Launch} (h : Touches T s u) (hT : [.spin] ⊆ T := by decide) :
    Touches T s (u.setLaunch c l) :=
  h.then hT fun h => h.rest

theorem Touches.withLaunch {c : Nat} {f : Launch → Problem → Queue → State} (h : Touches T s u)
    (hf : ∀ a a1 a2, Touches T s (f a a1 a2)) : Touches T s (withLaunch u c f) := by
  unfold Machine.withLaunch
  split
  · split
    · exact .ite (hf _ _ _) h
    · exact h
  · exact h

theorem Touches.passTurn {e' : Nat} {batch : Bool} (h : Touches T s u) (hT : [.engines] ⊆ T := by decide) :
    Touches T s (passTurn u e' batch) :=
  h.then hT fun h => .ite h.modEng h

theorem Touches.annealBatch {c r' bn : Nat} (h : Touches T s u)
    (hT : Part.fires ++ [Part.dies, .engines, .spin, .draws] ⊆ T := by decide) :
    Touches T s (annealBatch u c r' bn) := by
  refine h.then hT fun h => ?_
  unfold Machine.annealBatch
  refine .withLaunch h fun l p _ => ?_
  split
  · refine .ite h (.ite h.issued ?_)
    extract_lets fresh ok d next run1 e
    split
    extract_lets run3 turned batch deferred refused
    have hb : Touches _ u batch := h.setLaunch.passTurn.tileWork.countEngine
    clear_value batch
    have hd : Touches _ u deferred := .ite hb hb.countEngine
    clear_value deferred
    have hr : Touches _ u refused := .ite hd hd.countEngine
    clear_value refused
    exact .ite hr.countEngine hr
  · exact h

theorem Answering.execAnnealBatch {l r' b : Nat} :
    Answering (Part.fires ++ [Part.dies, .engines, .spin, .draws]) true u (execAnnealBatch l r' b u) :=
  .act fun h => h.annealBatch

theorem Answering.execTableRebuildComplete {l r' b : Nat} :
    Answering [.spin] true u (execTableRebuildComplete l r' b u) := by
  unfold Machine.execTableRebuildComplete
  refine .act fun h => ?_
  refine .withLaunch h fun a a1 a2 => ?_
  split
  · exact .ite h h.setLaunch
  · exact h

theorem Touches.epochEnd {c r' bn : Nat} (h : Touches T s u) (hT : [.spin] ⊆ T := by decide) :
    Touches T s (epochEnd u c r' bn) := by
  refine h.then hT fun h => ?_
  unfold Machine.epochEnd
  refine .withLaunch h fun a a1 a2 => ?_
  split
  · exact .ite h.setLaunch h
  · exact h

theorem Touches.epochStart {c r' bn : Nat} (h : Touches T s u)
    (hT : Part.fires ++ [Part.dies, .engines, .spin, .opx] ⊆ T := by decide) : Touches T s (epochStart u c r' bn) := by
  refine h.then hT fun h => ?_
  unfold Machine.epochStart
  refine .withLaunch h fun a a1 a2 => ?_
  split
  · exact .ite (.ite h h.setLaunch.countEngine) (.ite (.ite h.setLaunch.oweFlow h.setLaunch) h)
  · exact h

theorem Answering.execEpochStart {l r' b : Nat} :
    Answering (Part.fires ++ [Part.dies, .engines, .spin, .opx]) true u (execEpochStart l r' b u) :=
  .act fun h => h.epochStart

theorem Answering.execBlockPageInComplete {l r' b : Nat} :
    Answering [.spin] true u (execBlockPageInComplete l r' b u) := by
  unfold Machine.execBlockPageInComplete
  refine .act fun h => ?_
  refine .withLaunch h fun a a1 a2 => ?_
  split
  · exact .ite h.setLaunch h
  · exact h

theorem Touches.holdSlots {c queue : Nat} {l : Launch} (h : Touches T s u) (hT : [.engines] ⊆ T := by decide) :
    Touches T s (holdSlots u c queue l) :=
  h.then hT fun h => h.foldl fun _ _ hv => hv.modEng

theorem Answering.execNeuralEngineEligible {l : Nat} :
    Answering [.engines, .spin] true u (execNeuralEngineEligible l u) := by
  unfold Machine.execNeuralEngineEligible
  refine .act fun h => ?_
  refine .withLaunch h fun a a1 a2 => ?_
  split
  · exact .ite h.setLaunch.holdSlots h
  · exact h

end

/-! ### The functions of `Sys2Proof/Machine/Links.lean` -/

section
variable {T : List Part} {s u t : State}

theorem Touches.logOnPair {code k : Nat} (h : Touches T s u) (hT : Part.fires ++ [Part.flt] ⊆ T := by decide) :
    Touches T s (logOnPair u code k) :=
  h.then hT fun h => h.logOnDie

theorem Touches.setPairState {k : Nat} {st : PairState} (h : Touches T s u)
    (hT : Part.fires ++ [Part.dies, .opx] ⊆ T := by decide) : Touches T s (setPairState u k st) :=
  h.then hT fun h => .ite h h.modPair.dieEvent

theorem Touches.setTiming {t' : Timing} (h : Touches T s u) (hT : Part.fires ++ [Part.opx] ⊆ T := by decide) :
    Touches T s (setTiming u t') :=
  h.then hT fun h => .ite h (.fire h.rest)

theorem Touches.countSlip (h : Touches T s u) (hT : Part.fires ++ [Part.opx] ⊆ T := by decide) :
    Touches T s (countSlip u) :=
  h.then hT fun h => h.countGlobal fun _ _ hv => hv.rest

theorem Touches.countRepeat (h : Touches T s u) (hT : Part.fires ++ [Part.opx] ⊆ T := by decide) :
    Touches T s (countRepeat u) :=
  h.then hT fun h => h.countGlobal fun _ _ hv => hv.rest

theorem Touches.violation {code k : Nat} (h : Touches T s u) (hT : Part.fires ++ [Part.opx, .flt] ⊆ T := by decide) :
    Touches T s (violation u code k) :=
  h.then hT fun h => .logOnPair (h.countGlobal fun _ _ hv => hv.rest)

theorem Touches.breakFlow {f : Nat} (h : Touches T s u) (hT : Part.ended ⊆ T := by decide) :
    Touches T s (breakFlow u f) := by
  refine h.then hT fun h => ?_
  unfold Machine.breakFlow
  split
  · exact h.faultCmd
  · exact h

theorem Touches.breakCascade (h : Touches T s u) (hT : Part.ended ⊆ T := by decide) : Touches T s (breakCascade u) :=
  h.then hT fun h => h.foldl fun _ _ hv => hv.faultCmdOpen

theorem Touches.fencePair {k : Nat} {noKey : Bool} (h : Touches T s u)
    (hT : Part.ended ++ [Part.dies] ⊆ T := by decide) : Touches T s (fencePair u k noKey) :=
  h.then hT fun h =>
    .ite h (.foldl (.modPair (.logOnPair (.setPairState (.ite h.logOnPair h)))) fun _ _ hv => hv.setFlow.breakFlow)

theorem Touches.bringUp {k : Nat} (h : Touches T s u) (hT : Part.fires ++ [Part.dies, .opx] ⊆ T := by decide) :
    Touches T s (bringUp u k) :=
  h.then hT fun h => h.modPair.setPairState

theorem Touches.refreshPair {k : Nat} (h : Touches T s u) (hT : Part.fires ++ [Part.dies, .opx] ⊆ T := by decide) :
    Touches T s (refreshPair u k) :=
  h.then hT fun h => .ite (.ite h.bringUp h) (.ite h h.modPair.setPairState)

theorem Touches.refreshPairs (h : Touches T s u) (hT : Part.fires ++ [Part.dies, .opx] ⊆ T := by decide) :
    Touches T s (refreshPairs u) :=
  h.then hT fun h => h.foldl fun _ _ hv => hv.refreshPair

theorem Touches.openSend {k : Nat} {m : OpenMessage} (h : Touches T s u) (hT : [.opx] ⊆ T := by decide) :
    Touches T s (openSend u k m) :=
  h.then hT fun h => .ite h.modPair h

theorem Touches.openTo {hall : Nat} {m : OpenMessage} (h : Touches T s u) (hT : [.opx] ⊆ T := by decide) :
    Touches T s (openTo u hall m) := by
  refine h.then hT fun h => ?_
  unfold Machine.openTo
  split
  · exact h.openSend
  · exact h

theorem Touches.imageTo {hall : Nat} {img : List Byte} (h : Touches T s u) (hT : [.opx] ⊆ T := by decide) :
    Touches T s (imageTo u hall img) :=
  h.then hT fun h => h.foldl fun _ _ hv => hv.openTo

theorem Touches.askNonce {k : Nat} (h : Touches T s u) (hT : Part.fires ++ [Part.opx] ⊆ T := by decide) :
    Touches T s (askNonce u k) :=
  h.then hT fun h => .ite h.consumerError.modPair (.ite h h.modHost)

theorem Touches.giveNonce {k : Nat} {v' : List Byte} (h : Touches T s u) (hT : [.opx] ⊆ T := by decide) :
    Touches T s (giveNonce u k v') :=
  h.then hT fun h => .ite h.modPair.openSend h

theorem Touches.tellMembers {m : OpenMessage} (h : Touches T s u) (hT : [.opx] ⊆ T := by decide) :
    Touches T s (tellMembers u m) :=
  h.then hT fun h => h.foldl fun _ _ hv => hv.openTo

end

/-! ### The functions of `Sys2Proof/Machine/Launch.lean` -/

section
variable {T : List Part} {s u t : State}

theorem Touches.askSeed {p : Port} {c : Nat} (h : Touches T s u) (hT : [.hosts] ⊆ T := by decide) :
    Touches T s (askSeed u p c) :=
  h.then hT fun h => h.modHost

theorem DoneTouches.startLaunch {c : Nat} {x : Cmd} {q : Queue} {l : Launch} {p : Problem} {place : Placement}
    {asks : Bool} (h : Touches T s u) (hT : Part.fires ++ [Part.engines, .cmds, .spin, .draws] ⊆ T := by decide) :
    DoneTouches T s (startLaunch c u x q l p place asks) :=
  h.thenDone hT fun h =>
    .ite (.bad (.consumerError h.rest)) (.run (.modCmd (.ite h.setLaunch.holdSlots.askSeed h.setLaunch.holdSlots)))

theorem DoneTouches.annealLaunchBody {c : Nat} {x : Cmd} {q : Queue} (h : Touches T s u)
    (hT : Part.fires ++ [Part.engines, .cmds, .spin, .draws] ⊆ T := by decide) :
    DoneTouches T s (annealLaunchBody c u x q) :=
  h.thenDone hT fun h => .within fun _ _ => .startLaunch h

theorem Answering.execAnnealLaunch {c : Nat} : Answering Part.ended true u (execAnnealLaunch c u) :=
  .act fun h => h.runCmd fun _ _ _ hv => .annealLaunchBody hv

theorem Touches.handPart {l : Launch} {b : List Byte} (h : Touches T s u) (hT : [.opx] ⊆ T := by decide) : Touches T s
    (handPart u l b) :=
  h.then hT fun h => h.handOver

theorem Touches.beginStream {l : Launch} (h : Touches T s u) (hT : [.opx] ⊆ T := by decide) :
    Touches T s (beginStream u l) :=
  h.then hT fun h => .ite h.handOver.oweFlow h.handOver

theorem Answering.execRunSeedArrival {l : Nat} : Answering [.cmds, .spin, .opx] true u (execRunSeedArrival l u) := by
  unfold Machine.execRunSeedArrival
  refine .act fun h => ?_
  refine .withLaunch h fun a a1 a2 => ?_
  split
  · exact .ite h.setLaunch.modCmd.beginStream h.setLaunch.modCmd
  · exact h

theorem DoneTouches.ladderSetBody {x : Cmd} {q : Queue} (h : Touches T s u) (hT : [.spin] ⊆ T := by decide) :
    DoneTouches T s (ladderSetBody u x q) := by
  refine h.thenDone hT fun h => ?_
  unfold Machine.ladderSetBody
  dsimp only
  refine .within fun a _ => ?_
  split
  · exact .ok h.setProblem
  · refine .within fun a he2 => ?_
    refine .within fun _ _ => .within fun _ _ => ?_
    split
    · exact .stop
    · exact .ok h.setProblem

theorem Answering.execLadderSet {c : Nat} : Answering Part.ended true u (execLadderSet c u) :=
  .act fun h => h.runCmd fun _ _ _ hv => .ladderSetBody hv

theorem DoneTouches.writeSnapshot {x : Cmd} {q : Queue} {area : List Byte} (h : Touches T s u)
    (hT : [.mem, .hbm] ⊆ T := by decide) : DoneTouches T s (writeSnapshot u x q area) :=
  h.thenDone hT fun h => .within fun _ he => .ok (h.writeVa he)

theorem DoneTouches.resultReadBody {c : Nat} {x : Cmd} {q : Queue} (h : Touches T s u)
    (hT : [.mem, .cmds, .hbm, .draws] ⊆ T := by decide) : DoneTouches T s (resultReadBody c u x q) := by
  refine h.thenDone hT fun h => ?_
  unfold Machine.resultReadBody
  dsimp only
  split
  · exact .writeSnapshot h
  · refine .within fun a he => ?_
    split
    · exact .stop
    · exact .within fun _ _ => .keeping (.modCmd h.rest) (.writeSnapshot (.modCmd h.rest))

theorem Answering.execResultRead {c : Nat} : Answering Part.ended true u (execResultRead c u) :=
  .act fun h => h.runCmd fun _ _ _ hv => .resultReadBody hv

theorem Touches.sendPart {c : Nat} {l : Launch} {p : Problem} (h : Touches T s u)
    (hT : [.spin, .opx] ⊆ T := by decide) : Touches T s (sendPart u c l p) :=
  h.then hT fun h => .ite (.ite h.setLaunch.handPart h) (.ite h.setLaunch.handPart h)

theorem Touches.sendParts {c : Nat} (h : Touches T s u) (hT : [.spin, .opx] ⊆ T := by decide) :
    Touches T s (sendParts u c) := by
  refine h.then hT fun h => ?_
  unfold Machine.sendParts
  refine .foldl h fun v a hv => ?_
  split
  · split
    · exact .ite hv.sendPart hv
    · exact hv
  · exact hv

theorem Touches.meetHeaders {c : Nat} {p : Problem} (h : Touches T s u) (hT : Part.ended ⊆ T := by decide) :
    Touches T s (meetHeaders u c p) := by
  refine h.then hT fun h => ?_
  unfold Machine.meetHeaders
  refine .foldl h fun v a hv => ?_
  split
  · exact hv
  · split
    · exact hv
    · split
      · exact hv
      · next e =>
        exact .ite (.faultCmd (hv.takeRx e)) (.ite (.modCmd (.setLaunch (hv.takeRx e))) (.setLaunch (hv.takeRx e)))

theorem Touches.takePart {c : Nat} {l : Launch} {m n : Nat} {r : Option (List Byte) × State} (h : Touches T s u)
    (e : takePart u c l m n = r) (hT : Part.ended ⊆ T := by decide) : Touches T s r.2 := by
  refine h.then hT fun h => ?_
  subst e
  unfold Machine.takePart
  split
  · exact h
  · split
    · exact h.faultCmd
    · split
      · exact h
      · next e => exact h.takeRx e

theorem Touches.pullBits {c : Nat} {p : Problem} {m e' : Nat} (h : Touches T s u) (hT : Part.ended ⊆ T := by decide) :
    Touches T s (pullBits u c p m e') := by
  refine h.then hT fun h => ?_
  unfold Machine.pullBits
  split
  · exact h
  · split
    · exact h
    · split
      · next e => exact h.takePart e
      · next e => exact .setLaunch (h.takePart e)

theorem Touches.pullSums {c m e' : Nat} (h : Touches T s u) (hT : Part.ended ⊆ T := by decide) :
    Touches T s (pullSums u c m e') := by
  refine h.then hT fun h => ?_
  unfold Machine.pullSums
  split
  · exact h
  · split
    · exact h
    · split
      · next e => exact h.takePart e
      · next e => exact .setLaunch (h.takePart e)

theorem Touches.boundaryReceived {c r' bn source : Nat} (h : Touches T s u) (hT : Part.ended ⊆ T := by decide) :
    Touches T s (boundaryReceived u c r' bn source) := by
  refine h.then hT fun h => ?_
  unfold Machine.boundaryReceived
  refine .withLaunch h fun a a1 a2 => ?_
  split
  · dsimp only
    split
    · exact h
    · split
      · split
        · exact h.setLaunch.sendParts
        · exact h
      · split
        · exact h.meetHeaders.pullBits
        · split
          · exact h.meetHeaders.pullBits.setLaunch.sendParts
          · exact h.meetHeaders.pullBits
  · exact h

theorem Answering.execBoundaryValuesReceived {l r' b source : Nat} :
    Answering Part.ended true u (execBoundaryValuesReceived l r' b source u) :=
  .act fun h => h.boundaryReceived

theorem Answering.execEpochEnd {l r' b : Nat} : Answering [.spin, .opx] true u (execEpochEnd l r' b u) :=
  .act fun h => h.epochEnd.sendParts

theorem Touches.pullExchange {c : Nat} {l : Launch} {p : Problem} {accepted : List Nat}
    {r : Option (Tbl (List Bool)) × State} (h : Touches T s u) (e : pullExchange u c l p accepted = r)
    (hT : Part.ended ⊆ T := by decide) : Touches T s r.2 := by
  refine h.then hT fun h => ?_
  subst e
  refine Touches.foldlOn Prod.snd (b := (some [], u)) h fun a m ha => ?_
  split
  · exact ha
  · dsimp only
    split
    · next e =>
      have hv := ha.takePart e
      exact .ite h hv
    · next e => exact ha.takePart e

theorem Touches.cascadeExchange {c : Nat} {l : Launch} {p : Problem} {k : Nat} (h : Touches T s u)
    (hT : Part.ended ⊆ T := by decide) : Touches T s (cascadeExchange u c l p k) := by
  refine h.then hT fun h => ?_
  unfold Machine.cascadeExchange
  extract_lets due accepted b l1
  split
  next v l2 e =>
  have hv : Touches Part.ended u v := by
    split at e
    · cases e
      exact h.setLaunch.handPart
    · cases e
      exact h
  refine .ite hv ?_
  split
  · next e => exact hv.pullExchange e
  · next e => exact (hv.pullExchange e).setLaunch

theorem Touches.energyReduction {c r' : Nat} (h : Touches T s u) (hT : Part.ended ⊆ T := by decide) :
    Touches T s (energyReduction u c r') := by
  refine h.then hT fun h => ?_
  unfold Machine.energyReduction
  refine .withLaunch h fun l p _ => ?_
  split
  · split
    · exact h
    · dsimp only
      split
      · exact h.setLaunch
      · exact h
  · extract_lets e pulled
    have hp : Touches _ u pulled := h.meetHeaders.foldl fun _ _ hv => hv.pullBits.pullSums
    clear_value pulled
    split
    · exact hp
    · exact .ite (.ite hp.setLaunch hp.setLaunch) (.ite hp.setLaunch.cascadeExchange hp.setLaunch)

theorem Answering.execEnergyReduction {l r' : Nat} : Answering Part.ended true u (execEnergyReduction l r' u) :=
  .act fun h => h.energyReduction

theorem Touches.meetCompletion {c : Nat} {l : Launch} {p : Problem} (h : Touches T s u)
    (hT : Part.ended ⊆ T := by decide) : Touches T s (meetCompletion u c l p) := by
  refine h.then hT fun h => ?_
  unfold Machine.meetCompletion
  extract_lets me v
  have hv : Touches _ u v := .ite h h.setLaunch.handPart
  refine hv.foldl fun w m hw => ?_
  split
  · exact hw
  · split
    · exact hw
    · split
      · next e => exact hw.takePart e
      · next e => exact (hw.takePart e).setLaunch

theorem Touches.finishLaunch {c : Nat} {q : Queue} {l : Launch} {p : Problem} (h : Touches T s u)
    (hT : Part.ended ⊆ T := by decide) : Touches T s (finishLaunch u c q l p) := by
  refine h.then hT fun h => ?_
  unfold Machine.finishLaunch
  split
  · next e => exact .finishCmd (.writeVa h.rest e)
  · exact h.faultAs
  · exact h.askPage.modCmd
  · exact h

theorem Touches.launchComplete {c : Nat} (h : Touches T s u) (hT : Part.ended ⊆ T := by decide) :
    Touches T s (launchComplete u c) := by
  refine h.then hT fun h => ?_
  refine h.withLaunch fun l p q => .ite h (.ite h.finishLaunch ?_)
  extract_lets v
  have hv : Touches _ u v := h.meetCompletion
  clear_value v
  split
  · exact .ite hv.finishLaunch hv
  · exact hv

theorem Answering.execLaunchComplete {l : Nat} : Answering Part.ended true u (execLaunchComplete l u) :=
  .act fun h => h.launchComplete

end

/-! ### The functions of `Sys2Proof/Machine/Tensor.lean` -/

section
variable {T : List Part} {s u t : State}

theorem DoneTouches.copyBody {slips : List TagSlip} {x : Cmd} {q : Queue} (h : Touches T s u)
    (hT : Part.fires ++ [Part.mem, .dies, .engines, .hbm, .flt, .draws] ⊆ T := by decide) :
    DoneTouches T s (copyBody slips u x q) := by
  refine h.thenDone hT fun h => ?_
  unfold Machine.copyBody
  refine .within fun a _ => ?_
  split
  · dsimp only
    refine .within fun a _ => .within fun a _ => ?_
    split
    · refine .within fun a he4 => ?_
      refine .paired h fun a => ?_
      refine .writing h fun _ _ => ?_
      split
      · exact .ok h
      · exact .writing h fun _ he6 => .ok (h.writeRuns he6)
    · exact .stop

theorem Answering.execCopy {c : Nat} {slips : List TagSlip} :
    Answering (Part.ended ++ [Part.dies]) true u (execCopy c slips u) :=
  .act fun h => h.runCmd fun _ _ _ hv => .copyBody hv

theorem DoneTouches.convertBody {slips : List TagSlip} {x : Cmd} {q : Queue} (h : Touches T s u)
    (hT : Part.fires ++ [Part.mem, .dies, .engines, .hbm, .flt, .draws] ⊆ T := by decide) :
    DoneTouches T s (convertBody slips u x q) := by
  refine h.thenDone hT fun h => ?_
  unfold Machine.convertBody
  refine .within fun a _ => ?_
  split
  · refine .within fun a he2 => ?_
    refine .within fun _ _ => ?_
    split
    · exact .paired h fun _ => .writing h fun _ _ => .writing h fun _ he5 => .ok (h.writeTensor he5)
    · exact .stop

theorem Answering.execConvert {c : Nat} {slips : List TagSlip} :
    Answering (Part.ended ++ [Part.dies]) true u (execConvert c slips u) :=
  .act fun h => h.runCmd fun _ _ _ hv => .convertBody hv

end

/-! ### The functions of `Sys2Proof/Machine/Matrix.lean` -/

section
variable {T : List Part} {s u t : State}

theorem Touches.markSlots {engines : List Nat} {slot : Nat} {x : SlotState} (h : Touches T s u)
    (hT : [.engines] ⊆ T := by decide) : Touches T s (markSlots u engines slot x) :=
  h.then hT fun h => h.foldl fun _ _ hv => hv.modEng

theorem Touches.discardArray {queue slot : Nat} {engines : List Nat} (h : Touches T s u)
    (hT : [.engines, .arrays] ⊆ T := by decide) : Touches T s (discardArray u queue slot engines) :=
  h.then hT fun h => h.markSlots.rest

theorem DoneTouches.startSlot {c : Nat} {x : Cmd} {q : Queue} (h : Touches T s u)
    (hT : [.engines, .cmds, .jobs] ⊆ T := by decide) : DoneTouches T s (startSlot c u x q) :=
  h.thenDone hT fun h =>
    .within fun _ _ => .within fun _ _ => .within fun _ _ => .within fun _ _ => .within fun _ _ => .within fun _ _ =>
    .within fun _ _ => .within fun _ _ => .run (.modCmd (h.markSlots.rest))

theorem Answering.execMatrixMultiply {c : Nat} : Answering Part.ended true u (execMatrixMultiply c u) :=
  .act fun h => h.runCmd fun _ _ _ hv => .startSlot hv

theorem Answering.execConvolve {c : Nat} : Answering Part.ended true u (execConvolve c u) :=
  .act fun h => h.runCmd fun _ _ _ hv => .startSlot hv

theorem Answering.execSum {c : Nat} : Answering Part.ended true u (execSum c u) :=
  .act fun h => h.runCmd fun _ _ _ hv => .startSlot hv

theorem DoneTouches.pause {c : Nat} {q : Queue} {dests : List (Nat × Nat)} {x : Stop} (h : Touches T s u)
    (hT : [.mem, .cmds, .ports, .hbm, .sent, .draws] ⊆ T := by decide) : DoneTouches T s (pause u c q dests x) := by
  refine h.thenDone hT fun h => ?_
  unfold Machine.pause
  split
  · exact .run h.askPage.modCmd
  · exact .badWriting h

theorem DoneTouches.pausing {α : Type} {c : Nat} {q : Queue} {dests : List (Nat × Nat)} {x : Try α} {k : α → Done}
    (h : Touches T s u) (hk : ∀ a, x = .ok a → DoneTouches T s (k a))
    (hT : [.mem, .cmds, .ports, .hbm, .sent, .draws] ⊆ T := by decide) :
    DoneTouches T s (pausing u c q dests x k) := by
  unfold Machine.pausing
  split
  · exact hk _ rfl
  · exact .pause h hT

theorem Touches.countReplays {e' n : Nat} (h : Touches T s u)
    (hT : Part.fires ++ [Part.dies, .engines] ⊆ T := by decide) : Touches T s (countReplays u e' n) :=
  h.then hT fun h => h.countEngine

theorem DoneTouches.sequenceBody {c e' elem elems lo len : Nat} {slips : List TagSlip} {x : Cmd} {q : Queue}
    (h : Touches T s u)
    (hT : Part.fires ++ [Part.mem, .dies, .engines, .cmds, .jobs, .hbm, .flt, .draws] ⊆ T := by decide) :
    DoneTouches T s (sequenceBody c e' elem elems lo len slips u x q) := by
  refine h.thenDone hT fun h => ?_
  unfold Machine.sequenceBody
  split
  · exact .stop
  · refine .ite .stop (.ite (.run h.issued) (.paired h fun _ => .pausing h fun _ _ => .pausing h fun _ _ => ?_))
    extract_lets r worked
    have hw : Touches _ u worked := h.countReplays.passTurn.tileWork
    clear_value worked
    exact .pausing hw fun _ _ => .run hw.rest

theorem Touches.goOnSlot {c : Nat} {stages : List Stage} {body : State → Cmd → Queue → Done} (h : Touches T s u)
    (hbody : ∀ v a a2, Touches T s v → DoneTouches T s (body v a a2)) (hT : Part.ended ⊆ T := by decide) :
    Touches T s (goOnSlot u c stages body) := by
  unfold Machine.goOnSlot
  split
  · exact .ite (h.takeCmd hbody hT) h
  · exact h

theorem Answering.execGroupSequence {c e' elem elems lo len : Nat} {slips : List TagSlip} :
    Answering (Part.ended ++ [Part.dies]) (isEngine e') u (execGroupSequence c e' elem elems lo len slips u) :=
  .act fun h => h.goOnSlot fun _ _ _ hv => .sequenceBody hv

theorem DoneTouches.combineBody {c : Nat} {x : Cmd} {q : Queue} (h : Touches T s u)
    (hT : Part.fires ++ [Part.mem, .dies, .engines, .cmds, .jobs, .hbm, .draws] ⊆ T := by decide) :
    DoneTouches T s (combineBody c u x q) := by
  refine h.thenDone hT fun h => ?_
  unfold Machine.combineBody
  split
  · exact .stop
  · exact .ite .stop (.pausing h.countReplays fun _ _ => .run (h.countReplays.rest))

theorem Answering.execPartialCombine {c : Nat} :
    Answering (Part.ended ++ [Part.dies]) true u (execPartialCombine c u) :=
  .act fun h => h.goOnSlot fun _ _ _ hv => .combineBody hv

theorem Touches.writeDest {q : Queue} {op : Nat} {os : List Operand} {n : Nat} {base : Int} {uniform : Bool}
    {l : List (Int × Nat)} {r : State × Tally} (h : Touches T s u) (e : writeDest u q op os n base uniform l = .ok r)
    (hT : [.mem, .hbm, .draws] ⊆ T := by decide) : Touches T s r.1 := by
  refine h.then hT fun h => ?_
  unfold Machine.writeDest at e
  split at e
  · cases e
  · exact .writePlan h.rest e

theorem Touches.commitArray {x : Cmd} {j : AccJob} {l : List (Int × Nat)} (h : Touches T s u)
    (hT : [.arrays] ⊆ T := by decide) : Touches T s (commitArray u x j l) :=
  h.then hT fun h => .ite h.rest h.rest

theorem DoneTouches.carryOut {c : Nat} {q : Queue} {j : AccJob} {x : WritePlan} {result : Tally → BitVec 128}
    {last : State → State} (h : Touches T s u) (hlast : ∀ v, Touches T s v → Touches T s (last v))
    (hT : [.mem, .cmds, .jobs, .hbm] ⊆ T := by decide) : DoneTouches T s (carryOut c u q j x result last) := by
  unfold Machine.carryOut
  split
  · exact .ok (hlast _ (h.then hT fun h => h.foldl fun _ _ hv => hv.pokeVa))
  · exact .run (h.then hT fun h => .modCmd h.rest)

theorem DoneTouches.planned {c : Nat} {q : Queue} {dests : List (Nat × Nat)}
    {x : Try (WritePlan × Option (List (List Val)) × Nat)} {k : State → WritePlan → Done} (h : Touches T s u)
    (hk : ∀ v p, Touches T s v → DoneTouches T s (k v p))
    (hT : [.mem, .cmds, .ports, .hbm, .sent, .draws] ⊆ T := by decide) :
    DoneTouches T s (planned c u q dests x k) :=
  .pausing h (fun _ _ => .pausing h (fun _ _ => hk _ _ (h.then hT fun h => h.rest)) hT) hT

theorem DoneTouches.pieceBody {c : Nat} {x : Cmd} {q : Queue} {j : AccJob} {l : List (Int × Nat)} (h : Touches T s u)
    (hT : [.mem, .cmds, .jobs, .ports, .hbm, .sent, .draws] ⊆ T := by decide) :
    DoneTouches T s (pieceBody c u x q j l) :=
  h.thenDone hT fun h => .pausing h fun _ _ => .pausing h fun _ he2 => .run (.rest (.writePlan h.rest he2))

theorem DoneTouches.commitBody {c : Nat} {slips : List TagSlip} {x : Cmd} {q : Queue} (h : Touches T s u)
    (hT : Part.fires ++ [Part.mem, .dies, .engines, .cmds, .jobs, .arrays, .hbm, .flt, .draws] ⊆ T := by decide) :
    DoneTouches T s (commitBody c slips u x q) := by
  refine h.thenDone hT fun h => ?_
  unfold Machine.commitBody
  split
  · exact .stop
  · split
    · exact .stop
    · dsimp only
      split
      · exact .carryOut h fun _ hv => hv
      · exact .paired h fun _ => .ite (.pieceBody h) (.planned h fun _ _ hv => .carryOut hv.commitArray fun _ hv2 =>
          hv2)

theorem Answering.execAccumulatorCommit {c : Nat} {slips : List TagSlip} :
    Answering (Part.ended ++ [Part.dies, .arrays]) true u (execAccumulatorCommit c slips u) :=
  .act fun h => h.goOnSlot fun _ _ _ hv => .commitBody hv

theorem DoneTouches.writeOutWrite {c : Nat} {slips : List TagSlip} {x : Cmd} {q : Queue} {j : AccJob}
    (h : Touches T s u)
    (hT : Part.fires ++ [Part.mem, .dies, .engines, .cmds, .jobs, .arrays, .hbm, .flt, .draws] ⊆ T := by decide) :
    DoneTouches T s (writeOutWrite c slips u x q j) := by
  refine h.thenDone hT fun h => ?_
  unfold Machine.writeOutWrite
  dsimp only
  split
  · exact .stop
  · split
    · exact .carryOut h fun _ hv => .ite hv hv.rest
    · exact .paired h fun _ => .planned h fun _ _ hv => .carryOut hv fun _ hv2 => .ite hv2 (hv2.rest)

theorem DoneTouches.writeOutBody {c : Nat} {slips : List TagSlip} {x : Cmd} {q : Queue} (h : Touches T s u)
    (hT : Part.fires ++ [Part.mem, .dies, .engines, .cmds, .jobs, .arrays, .hbm, .flt, .draws] ⊆ T := by decide) :
    DoneTouches T s (writeOutBody c slips u x q) := by
  refine h.thenDone hT fun h => ?_
  unfold Machine.writeOutBody
  dsimp only
  split
  · exact .writeOutWrite h
  · refine .within fun a he => ?_
    refine .within fun _ _ => .within fun _ _ => .within fun _ _ => .within fun _ _ => .within fun _ _ => ?_
    split
    · exact .within fun _ _ => .within fun _ _ => .writeOutWrite (.modCmd (h.markSlots.rest))
    · exact .stop

theorem Answering.execWriteOut {c : Nat} {slips : List TagSlip} :
    Answering (Part.ended ++ [Part.dies, .arrays]) true u (execWriteOut c slips u) :=
  .act fun h => h.takeCmd fun _ _ _ hv => .writeOutBody hv

theorem Answering.execRelease {c : Nat} : Answering (Part.ended ++ [Part.arrays]) true u (execRelease c u) :=
  .act fun h => h.runCmd fun _ _ _ hv => .within fun _ _ => .within fun _ _ => .ok hv.discardArray

theorem DoneTouches.combinePartialsBody {slips : List TagSlip} {x : Cmd} {q : Queue} (h : Touches T s u)
    (hT : Part.fires ++ [Part.mem, .dies, .engines, .hbm, .flt, .draws] ⊆ T := by decide) :
    DoneTouches T s (combinePartialsBody slips u x q) := by
  refine h.thenDone hT fun h => ?_
  unfold Machine.combinePartialsBody
  dsimp only
  refine .within fun _ _ => .within fun _ _ => .within fun _ _ => .within fun _ _ => .within fun _ _ =>
    .within fun _ _ => .within fun _ _ => ?_
  split
  · exact .stop
  · exact .paired h fun _ => .writing h.countReplays fun _ _ => .writing h.countReplays fun _ he9 => .ok
      (h.countReplays.writeDest he9)

theorem Answering.execCombinePartials {c : Nat} {slips : List TagSlip} :
    Answering (Part.ended ++ [Part.dies]) true u (execCombinePartials c slips u) :=
  .act fun h => h.runCmd fun _ _ _ hv => .combinePartialsBody hv

theorem DoneTouches.topKBody {slips : List TagSlip} {x : Cmd} {q : Queue} (h : Touches T s u)
    (hT : Part.fires ++ [Part.mem, .dies, .engines, .hbm, .flt, .draws] ⊆ T := by decide) :
    DoneTouches T s (topKBody slips u x q) := by
  refine h.thenDone hT fun h => ?_
  unfold Machine.topKBody
  dsimp only
  refine .within fun a _ => .within fun a _ => .within fun a _ => .within fun a _ => .within fun a _ =>
    .within fun a _ => ?_
  split
  · refine .within fun a he7 => ?_
    refine .within fun a _ => ?_
    split
    · refine .paired h fun a => ?_
      refine .writing h fun a he9 => ?_
      split
      · exact .badWriting h
      · split
        · refine .writing h fun a he9 => ?_
          split
          · exact .writing h fun _ he10 => .ok (.writeTensor (h.writeTensor he9) he10)
          · exact .ok (h.writeTensor he9)
        · exact .stop
    · exact .stop
  · exact .stop

theorem Answering.execTopK {c : Nat} {slips : List TagSlip} :
    Answering (Part.ended ++ [Part.dies]) true u (execTopK c slips u) :=
  .act fun h => h.runCmd fun _ _ _ hv => .topKBody hv

end

/-! ### The functions of `Sys2Proof/Machine/Collective.lean` -/

section
variable {T : List Part} {s u t : State}

theorem DoneTouches.onFlowOf {c : Nat} {x : Cmd} {fields : List (Nat × Bool)} {k : State → Done} (h : Touches T s u)
    (hk : ∀ v, Touches T s v → DoneTouches T s (k v)) (hT : [.opx] ⊆ T := by decide) :
    DoneTouches T s (onFlowOf u c x fields k) :=
  .within fun _ _ => .within fun _ _ => .keeping (h.claimAtStart hT) (hk _ (h.claimAtStart hT))

theorem Touches.collective {c opcode : Nat} {start further : State → Cmd → Queue → Done} (h : Touches T s u)
    (hstart : ∀ v a a2, Touches T s v → DoneTouches T s (start v a a2))
    (hfurther : ∀ v a a2, Touches T s v → DoneTouches T s (further v a a2)) (hT : Part.ended ⊆ T := by decide) :
    Touches T s (collective u c opcode start further) := by
  unfold Machine.collective
  split
  · exact .ite (h.goOn hfurther hT) (h.runCmd hstart hT)
  · exact h

theorem DoneTouches.pairedWire {x : Cmd} {q : Queue} {xs : List Contribution} {dests : List (Nat × Nat)}
    {k : Unit → Done}
    (h : Touches T s u) (hk : ∀ a, DoneTouches T s (k a))
    (hT : Part.fires ++ [Part.mem, .dies, .engines, .hbm, .flt, .draws] ⊆ T := by decide) :
    DoneTouches T s (pairedWire u x q xs dests k) :=
  .unslipped h hk hT

theorem Touches.offer {flow : Nat} {b : List Byte} (h : Touches T s u) (hT : [.opx] ⊆ T := by decide) :
    Touches T s (offer u flow b) :=
  h.then hT fun h => h.handOver.setRx

theorem Touches.takeContribution {flow m num : Nat} {x : Tensor} {r : Contribution × State} (h : Touches T s u)
    (e : takeContribution u flow m num x = some r) (hT : [.opx] ⊆ T := by decide) : Touches T s r.2 := by
  refine h.then hT fun h => ?_
  unfold Machine.takeContribution at e
  split at e
  · cases e
  · split at e
    · cases e
    · next e' =>
      cases e
      exact h.takeRx e'

theorem Touches.takeAll {flow : Nat} {x : Tensor} {ms : List Nat} {r : List Contribution × State} (h : Touches T s u)
    (e : takeAll flow x u ms = some r) (hT : [.opx] ⊆ T := by decide) : Touches T s r.2 := by
  induction ms generalizing u r with
  | nil =>
    cases e
    exact h
  | cons m ms ih =>
    unfold Machine.takeAll at e
    split at e
    · cases e
    · next e₁ =>
      split at e
      · cases e
      · next e₂ =>
        cases e
        have hl := ih (h.takeContribution e₁ hT) e₂
        exact hl

theorem DoneTouches.sourced {slips : List TagSlip} {x : Cmd} {q : Queue} {a : Operand} {k : List Byte → Done}
    (h : Touches T s u) (hk : ∀ a, DoneTouches T s (k a))
    (hT : Part.fires ++ [Part.mem, .dies, .engines, .hbm, .flt, .draws] ⊆ T := by decide) :
    DoneTouches T s (sourced slips u x q a k) := by
  unfold Machine.sourced
  refine .within fun _ _ => ?_
  split
  · exact .paired h (fun _ => .within fun _ _ => hk _) hT
  · exact .stop

theorem DoneTouches.allReduceStart {c : Nat} {slips : List TagSlip} {x : Cmd} {q : Queue} (h : Touches T s u)
    (hT : Part.fires ++ [Part.mem, .dies, .engines, .jobs, .hbm, .opx, .flt, .draws] ⊆ T := by decide) :
    DoneTouches T s (allReduceStart c slips u x q) := by
  refine h.thenDone hT fun h => ?_
  unfold Machine.allReduceStart
  dsimp only
  refine .onFlowOf h fun v hv => ?_
  refine .within fun _ _ => .within fun _ _ => ?_
  split
  · exact .within fun _ _ => .within fun _ _ => .within fun _ _ => .within fun _ _ => .sourced hv fun _ => .run
      (.offer hv.rest)
  · exact .stop

theorem DoneTouches.allReduceFurther {c : Nat} {slips : List TagSlip} {x : Cmd} {q : Queue} (h : Touches T s u)
    (hT : Part.fires ++ [Part.mem, .dies, .engines, .cmds, .hbm, .opx, .flt, .draws] ⊆ T := by decide) :
    DoneTouches T s (allReduceFurther c slips u x q) := by
  refine h.thenDone hT fun h => ?_
  unfold Machine.allReduceFurther
  dsimp only
  split
  · split
    · exact .badWriting h
    · split
      · exact .stop
      · next e =>
        refine .unslipped (h.takeAll e) fun a => ?_
        split
        · exact .badWriting (.countReplays (h.takeAll e))
        · split
          · next e2 => exact .ok (.writeDest (.countReplays (h.takeAll e)) e2)
          · exact .pause h
          · exact .badWriting (.countReplays (h.takeAll e))
  · exact .stop

theorem Answering.execAllReduce {c : Nat} {slips : List TagSlip} :
    Answering (Part.ended ++ [Part.dies]) true u (execAllReduce c slips u) :=
  .act fun h => h.collective (fun _ _ _ hv => .allReduceStart hv) fun _ _ _ hv => .allReduceFurther hv

theorem DoneTouches.allGatherStart {c : Nat} {slips : List TagSlip} {x : Cmd} {q : Queue} (h : Touches T s u)
    (hT : Part.fires ++ [Part.mem, .dies, .engines, .jobs, .hbm, .opx, .flt, .draws] ⊆ T := by decide) :
    DoneTouches T s (allGatherStart c slips u x q) :=
  h.thenDone hT fun h =>
    .onFlowOf h fun _ hv => .within fun _ _ => .within fun _ _ => .sourced hv fun _ => .run (.offer hv.rest)

theorem Touches.writeParts {q : Queue} {dst : Tensor} {xs : List Contribution} (h : Touches T s u)
    (e : writeParts u q dst xs = .ok t) (hT : [.mem, .hbm, .draws] ⊆ T := by decide) : Touches T s t := by
  refine h.then hT fun h => ?_
  unfold Machine.writeParts at e
  extract_lets side cap im word first w at e
  split at e
  · cases e
  · exact .writeRuns h.rest e

theorem DoneTouches.allGatherFurther {c : Nat} {x : Cmd} {q : Queue} (h : Touches T s u)
    (hT : Part.fires ++ [Part.mem, .dies, .engines, .cmds, .hbm, .opx, .flt, .draws] ⊆ T := by decide) :
    DoneTouches T s (allGatherFurther c u x q) := by
  refine h.thenDone hT fun h => ?_
  unfold Machine.allGatherFurther
  dsimp only
  split
  · split
    · exact .badWriting h
    · split
      · exact .stop
      · next e =>
        exact .pairedWire (h.takeAll e) fun _ => .pausing h fun _ he => .ok (.writeParts (h.takeAll e) he)
  · exact .stop

theorem Answering.execAllGather {c : Nat} {slips : List TagSlip} :
    Answering (Part.ended ++ [Part.dies]) true u (execAllGather c slips u) :=
  .act fun h => h.collective (fun _ _ _ hv => .allGatherStart hv) fun _ _ _ hv => .allGatherFurther hv

theorem DoneTouches.sendStart {c : Nat} {slips : List TagSlip} {x : Cmd} {q : Queue} (h : Touches T s u)
    (hT : Part.fires ++ [Part.mem, .dies, .engines, .hbm, .opx, .flt, .draws] ⊆ T := by decide) :
    DoneTouches T s (sendStart c slips u x q) := by
  refine h.thenDone hT fun h => ?_
  unfold Machine.sendStart
  refine .onFlowOf h fun v hv => ?_
  refine .within fun _ _ => .within fun _ _ => .within fun _ _ => .within fun _ _ => ?_
  split
  · exact .sourced hv fun _ => .run hv.handOver
  · exact .stop

theorem DoneTouches.sendFurther {x : Cmd} {x' : Queue} (h : Touches T s u) : DoneTouches T s (sendFurther u x x') :=
  .ite (.ok h) .stop

theorem Answering.execSend {c : Nat} {slips : List TagSlip} :
    Answering (Part.ended ++ [Part.dies]) true u (execSend c slips u) :=
  .act fun h => h.collective (fun _ _ _ hv => .sendStart hv) fun _ _ _ hv => .sendFurther hv

theorem DoneTouches.receiveStart {c : Nat} {x : Cmd} {q : Queue} (h : Touches T s u)
    (hT : [.jobs, .opx] ⊆ T := by decide) : DoneTouches T s (receiveStart c u x q) :=
  h.thenDone hT fun h =>
    .onFlowOf h fun _ hv => .within fun _ _ => .within fun _ _ => .within fun _ _ => .within fun _ _ => .run hv.rest

theorem DoneTouches.receiveFurther {c : Nat} {x : Cmd} {q : Queue} (h : Touches T s u)
    (hT : Part.fires ++ [Part.mem, .dies, .engines, .cmds, .hbm, .opx, .flt, .draws] ⊆ T := by decide) :
    DoneTouches T s (receiveFurther c u x q) := by
  refine h.thenDone hT fun h => ?_
  unfold Machine.receiveFurther
  dsimp only
  split
  · split
    · exact .badWriting h
    · split
      · exact .stop
      · next e =>
        exact .pairedWire (h.takeContribution e) fun _ => .pausing h fun _ he => .ok
          (.writeParts (h.takeContribution e) he)
  · exact .stop

theorem Answering.execReceive {c : Nat} : Answering (Part.ended ++ [Part.dies]) true u (execReceive c u) :=
  .act fun h => h.collective (fun _ _ _ hv => .receiveStart hv) fun _ _ _ hv => .receiveFurther hv

theorem DoneTouches.boundaryStart {c : Nat} {x : Cmd} {q : Queue} (h : Touches T s u)
    (hT : Part.fires ++ [Part.engines, .cmds, .spin, .opx, .draws] ⊆ T := by decide) :
    DoneTouches T s (boundaryStart c u x q) := by
  refine h.thenDone hT fun h => ?_
  unfold Machine.boundaryStart
  refine .within fun _ _ => .keeping h.claimAtStart (.within fun _ _ => .within fun _ _ => .within fun a _ => ?_)
  obtain ⟨l, p, place⟩ := a
  have hd : ∀ l first, DoneTouches _ u (Machine.startLaunch c (claimAtStart u c x) x q l p place first) :=
    fun _ _ => .startLaunch h.claimAtStart
  dsimp only
  split
  · next e =>
    have hv := e ▸ hd _ _
    cases hv with
    | run ht => exact .ite (.run ht) (.run ht.beginStream)
  · exact hd _ _

theorem Answering.execBoundaryExchange {c : Nat} : Answering Part.ended true u (execBoundaryExchange c u) :=
  .act fun h => h.runCmd fun _ _ _ hv => .boundaryStart hv

theorem DoneTouches.scheduleLoadBody {c : Nat} {x : Cmd} {q : Queue} (h : Touches T s u)
    (hT : [.cmds, .opx] ⊆ T := by decide) : DoneTouches T s (scheduleLoadBody c u x q) := by
  refine h.thenDone hT fun h => ?_
  unfold Machine.scheduleLoadBody
  dsimp only
  refine .within fun _ _ => .within fun _ _ => .within fun _ _ => .within fun _ _ => .within fun _ _ =>
    .within fun _ _ => ?_
  split
  · split
    · exact .stop
    · exact .within fun _ _ => .ok h.rest
  · exact .run h.imageTo.modCmd

theorem Answering.execScheduleLoad {c : Nat} : Answering Part.ended true u (execScheduleLoad c u) :=
  .act fun h => h.runCmd fun _ _ _ hv => .scheduleLoadBody hv

theorem DoneTouches.scheduleArmBody {c : Nat} {x : Cmd} {x' : Queue} (h : Touches T s u)
    (hT : [.cmds, .opx] ⊆ T := by decide) : DoneTouches T s (scheduleArmBody c u x x') := by
  refine h.thenDone hT fun h => ?_
  unfold Machine.scheduleArmBody
  dsimp only
  refine .within fun _ _ => .within fun _ _ => ?_
  split
  · exact .stop
  · exact .within fun _ _ => .ite (.ok h.rest) (.run (.modCmd (.tellMembers h.rest)))

theorem Answering.execScheduleArm {c : Nat} : Answering Part.ended true u (execScheduleArm c u) :=
  .act fun h => h.runCmd fun _ _ _ hv => .scheduleArmBody hv

end

/-! ### The functions of `Sys2Proof/Machine/Control.lean` -/

section
variable {T : List Part} {s u t : State}

theorem Answering.execNoOp {c : Nat} : Answering Part.ended true u (execNoOp c u) :=
  .act fun h => h.runCmd fun _ _ _ hv => .ok hv

theorem DoneTouches.fenceWaitBody {x : Cmd} {q : Queue} (h : Touches T s u) :
    DoneTouches T s (fenceWaitBody u x q) := by
  unfold Machine.fenceWaitBody
  refine .within fun _ _ => ?_
  split
  · exact .ok h
  · exact .run h

theorem Answering.execFenceWait {c : Nat} : Answering Part.ended true u (execFenceWait c u) :=
  .act fun h => h.runCmd fun _ _ _ hv => .fenceWaitBody hv

theorem Answering.execFenceWaitSatisfied {c : Nat} : Answering Part.ended true u (execFenceWaitSatisfied c u) :=
  .act fun h => h.goOn fun _ _ _ hv => .fenceWaitBody hv

theorem Touches.writeMirror {f : Fence} {n : Nat} (h : Touches T s u) (e : writeMirror u f n = .ok t)
    (hT : [.mem, .hbm] ⊆ T := by decide) : Touches T s t := by
  refine h.then hT fun h => ?_
  unfold Machine.writeMirror at e
  split at e
  · cases e
    exact h
  · exact h.writeVa e

theorem DoneTouches.signalMirror {c : Nat} {q : Queue} {f : Fence} {v' : Nat} (h : Touches T s u)
    (hT : [.mem, .cmds, .ports, .hbm, .sent] ⊆ T := by decide) : DoneTouches T s (signalMirror u c q f v') := by
  refine h.thenDone hT fun h => ?_
  unfold Machine.signalMirror
  split
  · next e => exact .ok (h.writeMirror e)
  · exact .bad h
  · exact .run h.askPage.modCmd
  · exact .run h.modCmd
  · exact .stop

theorem DoneTouches.fenceSignalBody {c : Nat} {x : Cmd} {q : Queue} (h : Touches T s u)
    (hT : [.mem, .cmds, .qfe, .ports, .hbm, .sent] ⊆ T := by decide) : DoneTouches T s (fenceSignalBody c u x q) := by
  refine h.thenDone hT fun h => ?_
  unfold Machine.fenceSignalBody
  split
  · exact .stop
  · refine .within fun a he => ?_
    split
    · exact .signalMirror h
    · exact .within fun _ _ => .signalMirror h.setFence

theorem Answering.execFenceSignal {c : Nat} : Answering Part.ended true u (execFenceSignal c u) :=
  .act fun h => h.takeCmd fun _ _ _ hv => .fenceSignalBody hv

theorem Answering.execQueueBarrier {c : Nat} : Answering Part.ended true u (execQueueBarrier c u) := by
  unfold Machine.execQueueBarrier
  refine .act fun h => ?_
  refine .runCmd h fun v a a2 hv => ?_
  split
  · exact .stop
  · exact .ok hv

theorem Answering.execResume {c : Nat} : Answering Part.ended true u (execResume c u) :=
  .act fun h => h.runCmd fun _ _ _ hv => .ok (.ite hv.setQueue hv)

end

/-! ### The functions of `Sys2Proof/Machine/Fatal.lean` -/

section
variable {T : List Part} {s u t : State}

theorem Touches.dumpTo {p : Port} {b : List Byte} (h : Touches T s u) (hT : [.mem, .ports] ⊆ T := by decide) :
    Touches T s (dumpTo u p b) :=
  h.then hT fun h => .ite h.write.modPort (.ite h.modPort h)

theorem Touches.writeDump {code detail : Nat} {byH1 : Bool} (h : Touches T s u)
    (hT : [.mem, .ports, .flt] ⊆ T := by decide) : Touches T s (writeDump u code detail byH1) := by
  refine h.then hT fun h => ?_
  unfold Machine.writeDump
  extract_lets b v v1 _
  have hv : Touches _ u v := h.dumpTo.dumpTo
  clear_value v
  have hv1 : Touches _ u v1 := hv.write
  clear_value v1
  exact hv1.rest

theorem Touches.killAll (h : Touches T s u)
    (hT : [.mem, .cmds, .jobs, .ports, .spin, .grf, .hbm, .fls, .opx, .draws] ⊆ T := by decide) :
    Touches T s (killAll u) :=
  h.then hT fun h => .rest (h.foldl fun _ _ hv => hv.scrambleDests.cutOffStore.releaseFlows)

theorem Touches.fatalOn {code detail die : Nat} (h : Touches T s u) (hT : Part.stops ⊆ T := by decide) :
    Touches T s (fatalOn u code detail die) := by
  refine h.then hT fun h => ?_
  unfold Machine.fatalOn
  split
  · exact h
  · extract_lets byH1 v _ v1 v2 v3
    have hv : Touches _ u v := h.logOnDie
    clear_value v
    have hv1 : Touches _ u v1 := hv.rest
    clear_value v1
    have hv2 : Touches _ u v2 := hv1.msixTrigger.msixTrigger
    clear_value v2
    have hv3 : Touches _ u v3 := hv2.writeDump.killAll
    clear_value v3
    exact .ite (hv3.rest) hv3

theorem Touches.fatal {code detail : Nat} (h : Touches T s u) (hT : Part.stops ⊆ T := by decide) :
    Touches T s (fatal u code detail) :=
  h.then hT fun h => h.fatalOn

end

/-! ### The functions of `Sys2Proof/Machine/Task.lean` -/

section
variable {T : List Part} {s u t : State}

theorem Touches.setTask {e' : Nat} {t' : Task} (h : Touches T s u) (hT : [.engines] ⊆ T := by decide) :
    Touches T s (setTask u e' t') :=
  h.then hT fun h => h.modEng

theorem Touches.undoneRecords {l : List Handed} (h : Touches T s u) (hT : Part.tasked ⊆ T := by decide) :
    Touches T s (undoneRecords u l) := by
  induction l generalizing u with
  | nil => exact h
  | cons r l ih =>
    unfold Machine.undoneRecords
    split
    · exact ih h
    · exact ih (h.putRecord hT)

theorem Touches.dropTask {e' : Nat} (h : Touches T s u) (hT : [.engines] ⊆ T := by decide) :
    Touches T s (dropTask u e') :=
  h.then hT fun h => h.modEng

theorem Touches.endWaits {e' : Nat} {t' : Task} {wait : Option (Nat × Nat) → TaskWait} {u2 : State} {x : Stop}
    (h : Touches T s u) (h2 : Touches T s u2) (hT : [.engines, .ports, .sent] ⊆ T := by decide) :
    Touches T s (endWaits u e' t' wait u2 x) := by
  have hset {k : Task} : Touches T s (Machine.setTask u e' k) := h.then hT fun h => h.setTask
  unfold Machine.endWaits
  split
  · exact h.then hT fun h => h.setTask.askPage
  · exact .ite hset h2
  · exact h2

theorem Touches.mirrorEnd {e' : Nat} {t' : Task} {v' : Nat} (h : Touches T s u)
    (hT : [.mem, .engines, .ports, .hbm, .sent] ⊆ T := by decide) : Touches T s (mirrorEnd u e' t' v') := by
  refine h.then hT fun h => ?_
  unfold Machine.mirrorEnd
  split
  · exact h.dropTask
  · split
    · next e => exact .dropTask (h.writeMirror e)
    · exact h.endWaits h.dropTask

theorem Touches.closeTask {e' : Nat} {t' : Task} (h : Touches T s u) (hT : Part.tasked ⊆ T := by decide) :
    Touches T s (closeTask u e' t') := by
  refine h.then hT fun h => ?_
  unfold Machine.closeTask
  dsimp only
  split
  · exact h.clear.undoneRecords.dropTask
  · split
    · exact h.clear.undoneRecords.dropTask
    · exact h.clear.undoneRecords.setFence.mirrorEnd

theorem Touches.recordEnd {e' : Nat} {t' : Task} {fault : Nat} (h : Touches T s u)
    (hT : Part.tasked ⊆ T := by decide) : Touches T s (recordEnd u e' t' fault) := by
  refine h.then hT fun h => ?_
  unfold Machine.recordEnd
  split
  · exact h.closeTask
  · split
    · exact h.closeTask
    · split
      · next e => exact .closeTask (h.writeVa e)
      · exact h.endWaits h.closeTask

theorem Touches.endTask {e' fault : Nat} (h : Touches T s u) (hT : Part.tasked ⊆ T := by decide) :
    Touches T s (endTask u e' fault) := by
  refine h.then hT fun h => ?_
  unfold Machine.endTask
  split
  · exact h
  · split
    · exact h.recordEnd
    · exact h.mirrorEnd
    · exact h.recordEnd

theorem Touches.taskStop {e' : Nat} {t' : Task} {x : Stop} (h : Touches T s u) (hT : Part.tasked ⊆ T := by decide) :
    Touches T s (taskStop u e' t' x) := by
  refine h.then hT fun h => ?_
  unfold Machine.taskStop
  split
  · exact h.setTask.askPage
  · exact h
  · exact h.endTask
  · exact h.endTask
  · exact h.endTask

theorem Touches.runInstr {e' : Nat} {isOp : Nat → Bool} {f : State → Task → Nat → State} (h : Touches T s u)
    (hf : ∀ v a a2, Touches T s v → Touches T s (f v a a2)) : Touches T s (runInstr u e' isOp f) := by
  unfold Machine.runInstr
  split
  · exact h
  · exact .ite (hf _ _ _ h) h

theorem Touches.regOp {e' op : Nat} {f : DWord → DWord → DWord} (h : Touches T s u)
    (hT : [.engines] ⊆ T := by decide) : Touches T s (regOp u e' op f) :=
  h.then hT fun h => h.runInstr fun _ _ _ hv => hv.setTask

theorem Touches.branchTo {e' : Nat} {t' : Task} {w : Nat} {taken : Bool} (h : Touches T s u)
    (hT : Part.tasked ⊆ T := by decide) : Touches T s (branchTo u e' t' w taken) :=
  h.then hT fun h => .ite h.setTask (.ite h.endTask h.setTask)

theorem Touches.compareBranch {e' op : Nat} {f : DWord → DWord → Bool} (h : Touches T s u)
    (hT : Part.tasked ⊆ T := by decide) : Touches T s (compareBranch u e' op f) :=
  h.then hT fun h => h.runInstr fun _ _ _ hv => hv.branchTo

theorem Touches.atomicOp {e' op : Nat} {f : DWord → DWord → DWord} (h : Touches T s u)
    (hT : Part.tasked ⊆ T := by decide) : Touches T s (atomicOp u e' op f) :=
  h.then hT fun h => h.runInstr fun _ _ _ hv => .ite hv.write.setTask hv.endTask

theorem Answering.execTaskHalt {e' : Nat} : Answering Part.tasked (isEngine e') u (execTaskHalt e' u) :=
  .act fun h => h.runInstr fun _ _ _ hv => hv.endTask

theorem Answering.execTaskAdd {e' : Nat} : Answering [.engines] (isEngine e') u (execTaskAdd e' u) :=
  .act fun h => h.regOp

theorem Answering.execTaskSub {e' : Nat} : Answering [.engines] (isEngine e') u (execTaskSub e' u) :=
  .act fun h => h.regOp

theorem Answering.execTaskAnd {e' : Nat} : Answering [.engines] (isEngine e') u (execTaskAnd e' u) :=
  .act fun h => h.regOp

theorem Answering.execTaskOr {e' : Nat} : Answering [.engines] (isEngine e') u (execTaskOr e' u) :=
  .act fun h => h.regOp

theorem Answering.execTaskXor {e' : Nat} : Answering [.engines] (isEngine e') u (execTaskXor e' u) :=
  .act fun h => h.regOp

theorem Answering.execTaskShl {e' : Nat} : Answering [.engines] (isEngine e') u (execTaskShl e' u) :=
  .act fun h => h.regOp

theorem Answering.execTaskShr {e' : Nat} : Answering [.engines] (isEngine e') u (execTaskShr e' u) :=
  .act fun h => h.regOp

theorem Answering.execTaskMul {e' : Nat} : Answering [.engines] (isEngine e') u (execTaskMul e' u) :=
  .act fun h => h.regOp

theorem Answering.execTaskAddi {e' : Nat} : Answering [.engines] (isEngine e') u (execTaskAddi e' u) :=
  .act fun h => h.runInstr fun _ _ _ hv => hv.setTask

theorem Answering.execTaskLdw {e' : Nat} : Answering [.engines] (isEngine e') u (execTaskLdw e' u) :=
  .act fun h => h.runInstr fun _ _ _ hv => hv.setTask

theorem Answering.execTaskLd {e' : Nat} : Answering Part.tasked (isEngine e') u (execTaskLd e' u) :=
  .act fun h => h.runInstr fun _ _ _ hv => .ite hv.setTask hv.endTask

theorem Answering.execTaskSt {e' : Nat} : Answering Part.tasked (isEngine e') u (execTaskSt e' u) :=
  .act fun h => h.runInstr fun _ _ _ hv => .ite hv.write.setTask hv.endTask

theorem Answering.execTaskAadd {e' : Nat} : Answering Part.tasked (isEngine e') u (execTaskAadd e' u) :=
  .act fun h => h.atomicOp

theorem Answering.execTaskAswp {e' : Nat} : Answering Part.tasked (isEngine e') u (execTaskAswp e' u) :=
  .act fun h => h.atomicOp

theorem Answering.execTaskBeq {e' : Nat} : Answering Part.tasked (isEngine e') u (execTaskBeq e' u) :=
  .act fun h => h.compareBranch

theorem Answering.execTaskBne {e' : Nat} : Answering Part.tasked (isEngine e') u (execTaskBne e' u) :=
  .act fun h => h.compareBranch

theorem Answering.execTaskBlt {e' : Nat} : Answering Part.tasked (isEngine e') u (execTaskBlt e' u) :=
  .act fun h => h.compareBranch

theorem Answering.execTaskBltu {e' : Nat} : Answering Part.tasked (isEngine e') u (execTaskBltu e' u) :=
  .act fun h => h.compareBranch

theorem Answering.execTaskLoop {e' : Nat} : Answering Part.tasked (isEngine e') u (execTaskLoop e' u) :=
  .act fun h => h.runInstr fun _ _ _ hv => hv.branchTo

theorem Touches.handOut {e' : Nat} {t' : Task} {i : Nat} {q : Queue} {addr reg : Nat} (h : Touches T s u)
    (hT : [.mem, .engines, .qfe] ⊆ T := by decide) : Touches T s (handOut u e' t' i q addr reg) := by
  refine h.then hT fun h => ?_
  unfold Machine.handOut
  split
  · exact .ite h.setQueue.write.setTask h.setTask
  · exact h.setTask

theorem Answering.execTaskWaitq {e' : Nat} : Answering Part.tasked (isEngine e') u (execTaskWaitq e' u) := by
  unfold Machine.execTaskWaitq
  refine .act fun h => ?_
  refine .runInstr h fun v a a2 hv => ?_
  split
  · exact hv.endTask
  · exact .ite hv.handOut hv.endTask

theorem Answering.execWaitqSatisfied {e' : Nat} :
    Answering [.mem, .engines, .qfe] (isEngine e') u (execWaitqSatisfied e' u) := by
  unfold Machine.execWaitqSatisfied
  refine .act fun h => ?_
  split
  · split
    · split
      · exact h.handOut
      · exact h
    · exact h
  · exact h

theorem Touches.placeDesc {i : Nat} {q : Queue} {b : List Byte} (h : Touches T s u)
    (e : placeDesc u i q b = .placed t) (hT : [.mem, .qfe, .hbm] ⊆ T := by decide) : Touches T s t := by
  refine h.then hT fun h => ?_
  unfold Machine.placeDesc at e
  split at e
  · cases e
  · split at e
    · next e' =>
      cases e
      exact (h.writeVa e').setQueue
    · cases e

theorem Answering.execTaskEnq {e' : Nat} : Answering Part.tasked (isEngine e') u (execTaskEnq e' u) := by
  unfold Machine.execTaskEnq
  refine .act fun h => ?_
  refine .runInstr h fun v a a2 hv => ?_
  split
  · exact hv.endTask
  · dsimp only
    split
    · exact hv.endTask
    · split
      · next e => exact .setTask (hv.placeDesc e)
      · exact hv.setTask
      · exact hv.taskStop

theorem Answering.execTaskWaitf {e' : Nat} : Answering Part.tasked (isEngine e') u (execTaskWaitf e' u) := by
  unfold Machine.execTaskWaitf
  refine .act fun h => ?_
  refine .runInstr h fun v a a2 hv => ?_
  split
  · exact hv.endTask
  · exact .ite hv.setTask hv.setTask

theorem Answering.execWaitfSatisfied {e' : Nat} :
    Answering Part.tasked (isEngine e') u (execWaitfSatisfied e' u) := by
  unfold Machine.execWaitfSatisfied
  refine .act fun h => ?_
  split
  · split
    · split
      · exact h.endTask
      · split
        · exact h.endTask
        · exact .ite h.setTask h
    · exact h
  · exact h

theorem Answering.execTaskSigf {e' : Nat} : Answering Part.tasked (isEngine e') u (execTaskSigf e' u) := by
  unfold Machine.execTaskSigf
  refine .act fun h => ?_
  refine .runInstr h fun v a a2 hv => ?_
  split
  · exact hv.endTask
  · dsimp only
    split
    · next e => exact .setTask (hv.setFence.writeMirror e)
    · exact hv.setFence.taskStop

theorem Answering.execTaskDone {e' : Nat} : Answering Part.tasked (isEngine e') u (execTaskDone e' u) := by
  unfold Machine.execTaskDone
  refine .act fun h => ?_
  refine .runInstr h fun v a a2 hv => ?_
  split
  · exact hv.endTask
  · dsimp only
    split
    · exact hv.endTask
    · split
      · exact hv.taskStop
      · next e => exact .putRecord (.setTask (hv.writeVa e))

theorem Answering.execTaskTime {e' : Nat} : Answering [.engines] (isEngine e') u (execTaskTime e' u) :=
  .act fun h => h.runInstr fun _ _ _ hv => hv.setTask

theorem Answering.execReservedInstruction {e' : Nat} :
    Answering Part.tasked (isEngine e') u (execReservedInstruction e' u) :=
  .act fun h => h.runInstr fun _ _ _ hv => hv.endTask

theorem Answering.execTaskRanWithoutWaiting {e' : Nat} :
    Answering Part.tasked (isEngine e') u (execTaskRanWithoutWaiting e' u) := by
  unfold Machine.execTaskRanWithoutWaiting
  refine .act fun h => ?_
  split
  · exact .ite h.endTask h
  · exact h

theorem DoneTouches.launchTaskBody {x : Cmd} {q : Queue} (h : Touches T s u)
    (hT : [.mem, .engines, .draws] ⊆ T := by decide) : DoneTouches T s (launchTaskBody u x q) :=
  h.thenDone hT fun h =>
    .within fun _ _ => .within fun _ _ => .within fun _ _ => .within fun _ _ => .within fun _ _ => .within
      fun _ _ => .ok
    (.setTask (h.clear.rest))

theorem Answering.execLaunchTask {c : Nat} : Answering Part.ended true u (execLaunchTask c u) :=
  .act fun h => h.runCmd fun _ _ _ hv => .launchTaskBody hv

theorem DoneTouches.enqueueBody {x : Cmd} {q : Queue} (h : Touches T s u) (hT : [.mem, .qfe, .hbm] ⊆ T := by decide) :
    DoneTouches T s (enqueueBody u x q) := by
  refine h.thenDone hT fun h => ?_
  unfold Machine.enqueueBody
  refine .within fun a _ => ?_
  split
  · refine .within fun a he2 => ?_
    split
    · next e => exact .ok (h.placeDesc e)
    · exact .run h
    · exact .stop

theorem Answering.execEnqueue {c : Nat} : Answering Part.ended true u (execEnqueue c u) :=
  .act fun h => h.runCmd fun _ _ _ hv => .enqueueBody hv

theorem Answering.execDeviceFedSpaceAvailable {c : Nat} :
    Answering Part.ended true u (execDeviceFedSpaceAvailable c u) :=
  .act fun h => h.takeCmd fun _ _ _ hv => .enqueueBody hv

theorem DoneTouches.stopTaskBody {x : Cmd} {q : Queue} (h : Touches T s u) (hT : Part.tasked ⊆ T := by decide) :
    DoneTouches T s (stopTaskBody u x q) := by
  refine h.thenDone hT fun h => ?_
  unfold Machine.stopTaskBody
  refine .within fun _ _ => ?_
  split
  · exact .ok h
  · exact .within fun _ _ => .ite (.ok h.endTask) (.run h.endTask)

theorem Answering.execStopTask {c : Nat} : Answering Part.ended true u (execStopTask c u) :=
  .act fun h => h.takeCmd fun _ _ _ hv => .stopTaskBody hv

end

/-! ### The functions of `Sys2Proof/Machine/Start.lean` -/

section
variable {T : List Part} {s u t : State}

theorem Touches.takeTail {b : List Byte} {e' : Nat × Queue} (h : Touches T s u)
    (hT : Part.fires ++ [Part.qfe, .flt] ⊆ T := by decide) : Touches T s (takeTail b u e') :=
  h.then hT fun h => .ite h.queueError h.setQueue

theorem Touches.waitPage {pg : Nat} {e' : Nat × Queue} (h : Touches T s u) (hT : [.qfe] ⊆ T := by decide) :
    Touches T s (waitPage pg u e') :=
  h.then hT fun h => h.modQueue

theorem Touches.doorbellPoll {e' pasid page : Nat} (h : Touches T s u)
    (hT : Part.fires ++ [Part.qfe, .flt] ⊆ T := by decide) : Touches T s (doorbellPoll u e' pasid page) := by
  refine h.then hT fun h => ?_
  unfold Machine.doorbellPoll
  split
  · exact h
  · dsimp only
    split
    · exact h
    · split
      · exact .rest (h.foldl fun _ _ hv => hv.takeTail)
      · exact h.askPage.foldl fun _ _ hv => hv.waitPage
      · exact h
      · exact h.foldl fun _ _ hv => hv.queueError

theorem Answering.execDoorbellPoll {e' pasid page : Nat} :
    Answering (Part.fires ++ [Part.qfe, .flt]) (isEngine e' && isPasid pasid) u (execDoorbellPoll e' pasid page u) :=
  .act fun h => .ite h.doorbellPoll h

theorem Touches.descriptorRead {i : Nat} (h : Touches T s u)
    (hT : Part.fires ++ [Part.engines, .qfe, .flt] ⊆ T := by decide) : Touches T s (descriptorRead u i) := by
  refine h.then hT fun h => ?_
  unfold Machine.descriptorRead
  split
  · exact h
  · dsimp only
    split
    · exact h
    · split
      · exact h
      · split
        · exact h.modEng.setQueue
        · exact h.modEng.askPage.waitPage
        · exact h.modEng
        · exact h.modEng.queueError

theorem Answering.execDescriptorRead {q : Nat} :
    Answering (Part.fires ++ [Part.engines, .qfe, .flt]) true u (execDescriptorRead q u) :=
  .act fun h => .ite h.descriptorRead h

theorem Touches.startCmd {i : Nat} {q : Queue} {x : Cmd} (h : Touches T s u) (hT : Part.ended ⊆ T := by decide) :
    Touches T s (startCmd u i q x) := by
  refine h.then hT fun h => ?_
  unfold Machine.startCmd
  dsimp only
  split
  · exact .setCmd h.rest
  · exact .settle (.setCmd h.rest) .stop

theorem Touches.commandStart {i : Nat} (h : Touches T s u) (hT : Part.ended ⊆ T := by decide) :
    Touches T s (commandStart u i) := by
  refine h.then hT fun h => ?_
  unfold Machine.commandStart
  split
  · exact h
  · split
    · exact h
    · exact .ite (.ite h (.ite (.ite h.setQueue.startCmd h) h.setQueue.putRecord)) (.ite h.setQueue.startCmd h)

theorem Answering.execCommandStart {q : Nat} : Answering Part.ended true u (execCommandStart q u) :=
  .act fun h => .ite h.commandStart h

theorem Touches.pcieViolation {p : Port} {code : Nat} (h : Touches T s u)
    (hT : Part.fires ++ [Part.flt] ⊆ T := by decide) : Touches T s (pcieViolation u p code) :=
  h.then hT fun h => h.countPort.logOnPort

theorem Touches.hostAccess {c va len : Nat} {write : Bool} (h : Touches T s u) (hT : Part.ended ⊆ T := by decide) :
    Touches T s (hostAccess u c va len write) := by
  refine h.then hT fun h => ?_
  unfold Machine.hostAccess
  split
  · exact h
  · split
    · exact h
    · split
      · exact h
      · split
        · exact h.settle (.badWriting h)
        · split
          · exact h
          · split
            · split
              · exact h
              · dsimp only
                split
                · exact h.setPort
                · exact h
            · exact h.askPage.modCmd
            · exact h

theorem Answering.execHostAccess {c va len : Nat} {write : Bool} :
    Answering Part.ended true u (execHostAccess c va len write u) :=
  .act fun h => h.hostAccess

theorem Touches.taskRefused {code e' : Nat} (h : Touches T s u) (hT : Part.tasked ⊆ T := by decide) :
    Touches T s (taskRefused code u e') := by
  refine h.then hT fun h => ?_
  unfold Machine.taskRefused
  split
  · exact h
  · split
    · exact h.closeTask
    · exact h.dropTask
    · exact h.endTask

theorem Touches.endWait {pasid page : Nat} {write : Bool} {c : Nat} (h : Touches T s u)
    (hT : [.cmds] ⊆ T := by decide) : Touches T s (endWait pasid page write u c) :=
  h.then hT fun h => h.modCmd

theorem Touches.refuseUser {p : Port} {pasid page : Nat} {code : Bool → Nat} {u' : PageUser × Bool}
    (h : Touches T s u) (hT : Part.ended ⊆ T := by decide) : Touches T s (refuseUser p pasid page code u u') := by
  refine h.then hT fun h => ?_
  unfold Machine.refuseUser
  split
  · exact h.endWait.faultCmd
  · exact .ite h.modQueue.queueError h
  · exact .ite h.taskRefused h

theorem Touches.refusePage {p : Port} {pasid page : Nat} {code : Bool → Nat} {us : List (PageUser × Bool)}
    (h : Touches T s u) (hT : Part.ended ⊆ T := by decide) : Touches T s (refusePage u p pasid page code us) :=
  h.then hT fun h => h.foldl fun _ _ hv => hv.refuseUser

theorem Touches.resumeQueue {page : Nat} {write : Bool} {i : Nat} (h : Touches T s u)
    (hT : Part.tasked ⊆ T := by decide) : Touches T s (resumeQueue page write u i) := by
  refine h.then hT fun h => ?_
  unfold Machine.resumeQueue
  split
  · exact .ite h.setQueue.flushRecords h.setQueue
  · exact h

theorem Touches.resumeTask {e' : Nat} (h : Touches T s u) (hT : Part.tasked ⊆ T := by decide) :
    Touches T s (resumeTask u e') := by
  refine h.then hT fun h => ?_
  unfold Machine.resumeTask
  split
  · exact h
  · split
    · exact h.setTask
    · exact h.endTask

theorem Touches.resumeUser {p : Port} {pasid page : Nat} {u' : PageUser × Bool} (h : Touches T s u)
    (hT : Part.tasked ++ [Part.cmds] ⊆ T := by decide) : Touches T s (resumeUser p pasid page u u') := by
  refine h.then hT fun h => ?_
  unfold Machine.resumeUser
  split
  · exact h.endWait
  · exact .ite h.resumeQueue h
  · exact .ite h.resumeTask h

theorem Touches.askRequest {p : Port} {w : PageWait} (h : Touches T s u) (hT : Part.ended ⊆ T := by decide) :
    Touches T s (askRequest u p w) :=
  h.then hT fun h => .ite h.refusePage (.ite h.setPort.request h.setPort)

theorem Touches.dropRequest {p : Port} {w : PageWait} (h : Touches T s u) (hT : [.ports, .sent] ⊆ T := by decide) :
    Touches T s (dropRequest u p w) := by
  refine h.then hT fun h => ?_
  unfold Machine.dropRequest
  dsimp only
  split
  · split
    · exact h.setPort.request
    · exact h.setPort
  · exact h.setPort

theorem Touches.atsCompletion {p : Port} {pasid page : Nat} {readable writable : Bool} (h : Touches T s u)
    (hT : Part.ended ⊆ T := by decide) : Touches T s (atsCompletion u p pasid page readable writable) := by
  refine h.then hT fun h => ?_
  unfold Machine.atsCompletion
  extract_lets x
  split
  · exact h
  · extract_lets erased cached readers writers resumed reads writes left
    have he : Touches _ u erased := h.setPort
    clear_value erased
    have hc : Touches _ u cached := .ite he he.modPort
    clear_value cached
    have hr : Touches _ u resumed := hc.foldl fun _ _ hv => hv.resumeUser
    clear_value resumed
    exact .ite he (.ite hr (.ite hr.refusePage hr.askRequest))

theorem Answering.execAtsTranslationCompletion {p : Port} {pasid page : Nat} {readable writable : Bool} :
    Answering Part.ended (isPasid pasid) u (execAtsTranslationCompletion p pasid page readable writable u) :=
  .act fun h => h.atsCompletion

theorem Touches.prgResponse {p : Port} {pasid page : Nat} {code : PrgCode} (h : Touches T s u)
    (hT : Part.ended ⊆ T := by decide) : Touches T s (prgResponse u p pasid page code) := by
  refine h.then hT fun h => ?_
  unfold Machine.prgResponse
  split
  · exact h.pcieViolation
  · next w _ =>
    extract_lets dropped refuse
    have hd : Touches Part.ended u dropped := h.dropRequest
    clear_value dropped
    have hrefuse (v : State) (hv : Touches Part.ended u v) : Touches Part.ended u (refuse v) := .ite hv hv.refusePage
    clear_value refuse
    split
    · exact .ite hd hd.modPort.request
    · exact hrefuse _ hd
    · exact .foldl (hrefuse _ hd.modPort.pcieViolation.modPort) fun _ _ hv => hv.refusePage

theorem Answering.execPrgResponse {p : Port} {pasid page : Nat} {code : PrgCode} :
    Answering Part.ended (isPasid pasid) u (execPrgResponse p pasid page code u) :=
  .act fun h => h.prgResponse

theorem Answering.execPageRequestTimeout {p : Port} {pasid page : Nat} :
    Answering Part.ended (isPasid pasid) u (execPageRequestTimeout p pasid page u) := by
  unfold Machine.execPageRequestTimeout
  refine .act fun h => ?_
  split
  · exact h
  · exact .ite h.dropRequest h.dropRequest.refusePage

theorem Touches.invalidate {p : Port} {pasid page pages : Nat} (h : Touches T s u) (hT : [.ports] ⊆ T := by decide) :
    Touches T s (invalidate u p pasid page pages) :=
  h.then hT fun h => .ite h.setPort h.setPort

theorem Touches.nextInvalidation {p : Port} (h : Touches T s u) (hT : [.ports] ⊆ T := by decide) :
    Touches T s (nextInvalidation u p) := by
  refine h.then hT fun h => ?_
  unfold Machine.nextInvalidation
  split
  · exact h
  · exact h.modPort.invalidate

theorem Answering.execAtsInvalidationRequest {p : Port} {pasid page pages : Nat} :
    Answering [.ports] (isPasid pasid) u (execAtsInvalidationRequest p pasid page pages u) :=
  .act fun h => h.invalidate

theorem Answering.execInvalidationDrainEnd {p : Port} :
    Answering Part.ended true u (execInvalidationDrainEnd p u) := by
  unfold Machine.execInvalidationDrainEnd
  refine .act fun h => ?_
  split
  · exact h
  · exact .nextInvalidation (.request (h.modPort.foldl fun _ _ hv => hv.modPort.faultCmd))

theorem Touches.contextSave {e' : Nat} (h : Touches T s u) (hT : [.engines, .cmds] ⊆ T := by decide) :
    Touches T s (contextSave u e') :=
  h.then hT fun h => .ite h (h.setEng.foldl fun _ _ hv => hv.modCmd)

theorem Answering.execContextSave {e' : Nat} : Answering [.engines, .cmds] (isEngine e') u (execContextSave e' u) :=
  .act fun h => h.contextSave

theorem Touches.changeArray {f : AccArray → AccArray} {x : SlotState × Nat} (h : Touches T s u)
    (hT : [.arrays] ⊆ T := by decide) : Touches T s (changeArray f u x) := by
  refine h.then hT fun h => ?_
  unfold Machine.changeArray
  split
  · exact h.rest
  · exact h

theorem Touches.loseKept {slots : List SlotState} (h : Touches T s u) (hT : [.arrays] ⊆ T := by decide) :
    Touches T s (loseKept slots u) :=
  h.then hT fun h => h.foldl fun _ _ hv => hv.changeArray

theorem Touches.restartTables {e' : Nat} (h : Touches T s u) (hT : [.spin] ⊆ T := by decide) :
    Touches T s (restartTables e' u) :=
  h.then hT fun h => h.rest

theorem Touches.reloadSums {e' : Nat} {x : SlotState} {im : SlotImage} (h : Touches T s u)
    (hT : [.spin] ⊆ T := by decide) : Touches T s (reloadSums e' u x im) := by
  refine h.then hT fun h => ?_
  unfold Machine.reloadSums
  split
  · split
    · exact h.rest
    · exact h
  · exact h

theorem Touches.reloadImages {e' : Nat} {k : SavedContext} (h : Touches T s u)
    (hT : [.arrays, .spin] ⊆ T := by decide) : Touches T s (reloadImages e' k u) := by
  refine h.then hT fun h => ?_
  unfold Machine.reloadImages
  refine .foldl h fun v a hv => ?_
  refine .reloadSums ?_
  split
  · exact hv.changeArray
  · exact hv

theorem Touches.reloadShadow {k : SavedContext} (h : Touches T s u) (hT : [.jobs] ⊆ T := by decide) :
    Touches T s (reloadShadow k u) := by
  refine h.then hT fun h => ?_
  unfold Machine.reloadShadow
  split
  · exact .ite h.rest h
  · exact h

theorem Touches.contextRestore {e' : Nat} (h : Touches T s u) (hT : Part.ended ++ [Part.arrays] ⊆ T := by decide) :
    Touches T s (contextRestore u e') := by
  refine h.then hT fun h => ?_
  unfold Machine.contextRestore
  extract_lets g
  split
  · exact h
  · refine .ite h ?_
    have hr {x : Engine} : Touches _ u (Machine.restartTables e' (u.setEng e' x)) := h.setEng.restartTables
    exact .ite hr.reloadImages.reloadShadow (hr.loseKept.foldl fun _ _ hv => hv.faultCmdOpen)

theorem Answering.execContextRestore {e' : Nat} :
    Answering (Part.ended ++ [Part.arrays]) (isEngine e') u (execContextRestore e' u) :=
  .act fun h => h.contextRestore

end

/-! ### The functions of `Sys2Proof/Machine/Graph.lean` -/

section
variable {T : List Part} {s u t : State}

theorem Touches.setGraph {i : Nat} {g : Graph} (h : Touches T s u) (hT : [.grf] ⊆ T := by decide) :
    Touches T s (u.setGraph i g) :=
  h.then hT fun h => h.rest

theorem Touches.setGraphLaunch {c : Nat} {l : GraphLaunch} (h : Touches T s u) (hT : [.grf] ⊆ T := by decide) :
    Touches T s (u.setGraphLaunch c l) :=
  h.then hT fun h => h.rest

theorem DoneTouches.graphCreateBody {x : Cmd} {q : Queue} (h : Touches T s u) (hT : [.grf] ⊆ T := by decide) :
    DoneTouches T s (graphCreateBody u x q) := by
  refine h.thenDone hT fun h => ?_
  unfold Machine.graphCreateBody
  refine .within fun a _ => .within fun a _ => ?_
  dsimp only
  refine .within fun _ _ => .within fun _ _ => .within fun _ _ => .within fun _ _ => ?_
  split
  · exact .stop
  · split
    · exact .stop
    · exact .within fun _ _ => .ok (.setGraph h.rest)

theorem Answering.execGraphCreate {c : Nat} : Answering Part.ended true u (execGraphCreate c u) :=
  .act fun h => h.runCmd fun _ _ _ hv => .graphCreateBody hv

theorem DoneTouches.waitAt {i : Nat} {g : Graph} {c : Nat} (h : Touches T s u) (hT : [.grf] ⊆ T := by decide) :
    DoneTouches T s (waitAt u i g c) :=
  h.thenDone hT fun h => .held h.setGraph

theorem Touches.leaveElement {i c : Nat} (h : Touches T s u) (hT : [.grf] ⊆ T := by decide) :
    Touches T s (leaveElement u i c) := by
  refine h.then hT fun h => ?_
  unfold Machine.leaveElement
  split
  · exact h.setGraph
  · exact h

theorem DoneTouches.graphLaunchBody {c : Nat} {x : Cmd} {q : Queue} (h : Touches T s u) (hT : [.grf] ⊆ T := by decide) :
    DoneTouches T s (graphLaunchBody c u x q) :=
  h.thenDone hT fun h =>
    .within fun _ _ => .ite (.waitAt h) (.within fun _ _ => .within fun _ _ => .run h.leaveElement.setGraphLaunch)

theorem Answering.execGraphLaunch {c : Nat} : Answering Part.ended true u (execGraphLaunch c u) :=
  .act fun h => h.runCmd fun _ _ _ hv => .graphLaunchBody hv

theorem Touches.writeAll {q : Queue} {l : List (Nat × List Byte)} (h : Touches T s u) (e : writeAll u q l = .ok t)
    (hT : [.mem, .hbm] ⊆ T := by decide) : Touches T s t := by
  induction l generalizing u with
  | nil =>
    cases e
    exact h
  | cons r l ih =>
    unfold Machine.writeAll at e
    split at e
    · next e' => exact ih (h.writeVa e' hT) e
    · cases e

theorem Touches.endIfIdle {c : Nat} (h : Touches T s u) (hT : Part.ended ⊆ T := by decide) :
    Touches T s (endIfIdle u c) := by
  refine h.then hT fun h => ?_
  unfold Machine.endIfIdle
  split
  · split
    · exact h
    · dsimp only
      split
      · exact h
      · split
        · exact h.finishCmd
        · exact h.finishCmd
        · split
          · next e => exact .finishCmd (h.writeAll e)
          · exact h.askPage.modCmd
          · exact h.finishCmd
          · exact h
  · exact h

theorem Touches.graphNodeStart {c n : Nat} (h : Touches T s u) (hT : Part.ended ⊆ T := by decide) :
    Touches T s (graphNodeStart u c n) := by
  refine h.then hT fun h => ?_
  unfold Machine.graphNodeStart
  split
  · exact h
  · split
    · exact h
    · split
      · exact h.setGraphLaunch
      · split
        · exact .endIfIdle (.setGraphLaunch h.rest)
        · split
          · exact h
          · split
            · exact h
            · exact h.setGraphLaunch.startCmd
      · exact h

theorem Answering.execGraphNodeStart {l node : Nat} : Answering Part.ended true u (execGraphNodeStart l node u) :=
  .act fun h => h.graphNodeStart

theorem Touches.graphNodeComplete {c n : Nat} (h : Touches T s u) (hT : Part.ended ⊆ T := by decide) :
    Touches T s (graphNodeComplete u c n) := by
  refine h.then hT fun h => ?_
  unfold Machine.graphNodeComplete
  split
  · split
    · exact h
    · split
      · exact h
      · split
        · dsimp only
          split
          · exact h.setGraphLaunch.endIfIdle
          · split
            · next e => exact .endIfIdle (.setGraphLaunch (h.writeVa e))
            · exact h.askPage.modCmd
            · exact h.setGraphLaunch.endIfIdle
            · exact h
        · exact h.endIfIdle
        · exact h
  · exact h

theorem Answering.execGraphNodeComplete {l node : Nat} :
    Answering Part.ended true u (execGraphNodeComplete l node u) :=
  .act fun h => h.graphNodeComplete

theorem DoneTouches.patchBody {c : Nat} {x : Cmd} {q : Queue} (h : Touches T s u) (hT : [.grf] ⊆ T := by decide) :
    DoneTouches T s (patchBody c u x q) :=
  h.thenDone hT fun h =>
    .within fun _ _ => .within fun _ _ => .within fun _ _ => .within fun _ _ => .within fun _ _ => .within
      fun _ _ => .run
    (.setGraph h.rest)

theorem Answering.execPatch {c : Nat} : Answering Part.ended true u (execPatch c u) :=
  .act fun h => h.runCmd fun _ _ _ hv => .patchBody hv

theorem DoneTouches.patchCommitBody {c : Nat} {x : Cmd} {x' : Queue} (h : Touches T s u)
    (hT : [.grf] ⊆ T := by decide) : DoneTouches T s (patchCommitBody c u x x') := by
  refine h.thenDone hT fun h => ?_
  unfold Machine.patchCommitBody
  split
  · exact .within fun _ _ => .within fun _ _ => .within fun _ _ => .within fun _ _ => .within fun _ _ =>
      .ok h.setGraph.freeVersions
  · exact .within fun _ _ => .stop
  · exact .stop

theorem Answering.execPatchCommit {c : Nat} : Answering Part.ended true u (execPatchCommit c u) :=
  .act fun h => h.goOn fun _ _ _ hv => .patchCommitBody hv

theorem DoneTouches.graphDestroyBody {c : Nat} {x : Cmd} {q : Queue} (h : Touches T s u)
    (hT : [.grf] ⊆ T := by decide) : DoneTouches T s (graphDestroyBody c u x q) :=
  h.thenDone hT fun h => .within fun _ _ => .ite (.waitAt h) (.ok h.setGraph.freeVersions)

theorem Answering.execGraphDestroy {c : Nat} : Answering Part.ended true u (execGraphDestroy c u) :=
  .act fun h => h.runCmd fun _ _ _ hv => .graphDestroyBody hv

theorem Answering.execRealtimePreempt {q : Nat} : Answering [.engines] true u (execRealtimePreempt q u) := by
  unfold Machine.execRealtimePreempt
  refine .act fun h => ?_
  split
  · exact .ite (h.foldl fun _ _ hv => hv.modEng) h
  · exact h

end

/-! ### The functions of `Sys2Proof/Machine/Setup.lean` -/

section
variable {T : List Part} {s u t : State}

theorem Touches.startShutter {c : Nat} (h : Touches T s u) (hT : [.cmds] ⊆ T := by decide) :
    Touches T s (startShutter u c) :=
  h.then hT fun h => h.modCmd

theorem Touches.commandTimeLimit {c : Nat} (h : Touches T s u) (hT : Part.fires ++ [Part.cmds] ⊆ T := by decide) :
    Touches T s (commandTimeLimit u c) := by
  refine h.then hT fun h => ?_
  unfold Machine.commandTimeLimit
  split
  · exact h
  · split
    · exact h
    · exact .ite h h.startShutter.countPort

theorem Answering.execCommandTimeLimit {c : Nat} :
    Answering (Part.fires ++ [Part.cmds]) true u (execCommandTimeLimit c u) :=
  .act fun h => h.commandTimeLimit

theorem Answering.execShutterDrainTimeout {c e' : Nat} :
    Answering [.cmds] (isEngine e') u (execShutterDrainTimeout c e' u) := by
  unfold Machine.execShutterDrainTimeout
  refine .act fun h => ?_
  split
  · exact h
  · split
    · exact .ite h.setCmd h
    · exact h

theorem Touches.shutterComplete {c : Nat} (h : Touches T s u) (hT : Part.ended ⊆ T := by decide) :
    Touches T s (shutterComplete u c) := by
  refine h.then hT fun h => ?_
  unfold Machine.shutterComplete
  split
  · exact h
  · split
    · exact .ite h.scrambleDests.finishCmd h
    · exact h

theorem Answering.execShutterComplete {c : Nat} : Answering Part.ended true u (execShutterComplete c u) :=
  .act fun h => h.shutterComplete

theorem Touches.setupDone {p : Port} {code : Nat} (h : Touches T s u) (hT : Part.fires ++ [Part.qfe] ⊆ T := by decide) :
    Touches T s (setupDone u p code) :=
  h.then hT fun h => .fire (.modPort h.rest)

theorem Touches.setupOp {p : Port} {op : Nat} {f : State → List Byte → Except Nat State} (h : Touches T s u)
    (hf : ∀ b t, f u b = .ok t → Touches T s t) (hT : Part.fires ++ [Part.qfe] ⊆ T := by decide) :
    Touches T s (setupOp u p op f) := by
  unfold Machine.setupOp
  split
  · exact h
  · split
    · exact h
    · split
      · next e => exact (hf _ _ e).setupDone hT
      · exact h.setupDone hT

theorem Touches.writeHandle {p : Port} {h' : Nat} (h : Touches T s u) (hT : [.mem] ⊆ T := by decide) :
    Touches T s (writeHandle u p h') :=
  h.then hT fun h => h.write

theorem Touches.takeSlot {i e' : Nat} (h : Touches T s u) (hT : [.engines] ⊆ T := by decide) :
    Touches T s (takeSlot i u e') :=
  h.then hT fun h => h.modEng

theorem Touches.usePage {q : Queue} (h : Touches T s u) (hT : [.qfe] ⊆ T := by decide) :
    Touches T s (usePage u q) := by
  refine h.then hT fun h => ?_
  unfold Machine.usePage
  split
  · exact h
  · exact .ite h (.ite (.ite h.rest h) h.rest)

theorem Touches.lowerWindow {e' : Nat} (h : Touches T s u) (hT : [.engines] ⊆ T := by decide) :
    Touches T s (lowerWindow u e') := by
  refine h.then hT fun h => ?_
  unfold Machine.lowerWindow
  exact h.modEng

theorem Touches.createQueue {p : Port} {b : List Byte} (h : Touches T s u) (e : createQueue u p b = .ok t)
    (hT : [.mem, .engines, .qfe] ⊆ T := by decide) : Touches T s t := by
  refine h.then hT fun h => ?_
  unfold Machine.createQueue at e
  extract_lets engines at e
  split at e
  · cases e
  split at e
  · cases e
  split at e
  · cases e
  split at e
  · cases e
  split at e
  · cases e
  · extract_lets q v v1 at e
    have hv : Touches _ u v := .setQueue h.rest
    have hv1 : Touches _ u v1 := .ite (hv.foldl fun _ _ hw => hw.lowerWindow) hv
    exact Except.ok.inj e ▸ (hv1.foldl fun _ _ hw => hw.takeSlot).usePage.writeHandle

theorem Answering.execSetupCreateQueue {p : Port} :
    Answering (Part.fires ++ [Part.mem, .engines, .qfe]) true u (execSetupCreateQueue p u) :=
  .act fun h => h.setupOp fun _ _ he => h.createQueue he

theorem Touches.createFence {p : Port} {b : List Byte} (h : Touches T s u) (e : createFence u p b = .ok t)
    (hT : [.mem, .qfe] ⊆ T := by decide) : Touches T s t := by
  refine h.then hT fun h => ?_
  unfold Machine.createFence at e
  split at e
  · cases e
  split at e
  · cases e
  · cases e
    exact .writeHandle (.setFence h.rest)

theorem Answering.execSetupCreateFence {p : Port} :
    Answering (Part.fires ++ [Part.mem, .qfe]) true u (execSetupCreateFence p u) :=
  .act fun h => h.setupOp fun _ _ he => h.createFence he

theorem Touches.destroyFence {p : Port} {b : List Byte} (h : Touches T s u) (e : destroyFence u p b = .ok t)
    (hT : [.qfe] ⊆ T := by decide) : Touches T s t := by
  refine h.then hT fun h => ?_
  unfold Machine.destroyFence at e
  split at e
  · cases e
  split at e
  · cases e
  split at e
  · cases e
  · cases e
    exact h.rest

theorem Answering.execSetupDestroyFence {p : Port} :
    Answering (Part.fires ++ [Part.qfe]) true u (execSetupDestroyFence p u) :=
  .act fun h => h.setupOp fun _ _ he => h.destroyFence he

theorem Answering.execSetupRequestInvalid {p : Port} :
    Answering (Part.fires ++ [Part.qfe]) true u (execSetupRequestInvalid p u) := by
  unfold Machine.execSetupRequestInvalid
  refine .act fun h => ?_
  split
  · exact .ite h.setupDone h
  · exact h

theorem Touches.destroyQueue {p : Port} {b : List Byte} (h : Touches T s u)
    (hT : Part.tasked ++ [Part.cmds] ⊆ T := by decide) : Touches T s (destroyQueue u p b) := by
  refine h.then hT fun h => ?_
  unfold Machine.destroyQueue
  dsimp only
  split
  · exact h.setupDone
  · split
    · exact h.setupDone
    · exact .ite h.setupDone (.foldl (.foldl (.setQueue h.rest) fun _ _ hv => hv.startShutter) fun _ _ hv =>
        hv.endTask)

theorem Answering.execSetupDestroyQueue {p : Port} :
    Answering (Part.tasked ++ [Part.cmds]) true u (execSetupDestroyQueue p u) := by
  unfold Machine.execSetupDestroyQueue
  refine .act fun h => ?_
  split
  · exact .ite h.destroyQueue h
  · exact h

theorem Touches.freeOwned {i e' : Nat} (h : Touches T s u) (hT : [.engines] ⊆ T := by decide) :
    Touches T s (freeOwned i u e') := by
  refine h.then hT fun h => ?_
  unfold Machine.freeOwned
  exact h.modEng

theorem Touches.endTorn {i c : Nat} (h : Touches T s u) (hT : Part.ended ⊆ T := by decide) :
    Touches T s (endTorn i u c) := by
  refine h.then hT fun h => ?_
  unfold Machine.endTorn
  split
  · exact h
  · exact h.scrambleDests.finishCmd

theorem Touches.dropQueueWork {i : Nat} (h : Touches T s u) (hT : [.engines, .arrays, .spin, .grf] ⊆ T := by decide) :
    Touches T s (dropQueueWork u i) :=
  h.then hT fun h => .rest (.foldl (h.foldl fun _ _ hv => hv.dropLaunch) fun _ _ hv => hv.dropGraphLaunch)

theorem Touches.withdrawPages {p : Port} {pasid : Nat} (h : Touches T s u) (hT : [.ports] ⊆ T := by decide) :
    Touches T s (withdrawPages u p pasid) := by
  refine h.then hT fun h => ?_
  unfold Machine.withdrawPages
  exact h.modPort

theorem Touches.prunePages (h : Touches T s u) (hT : [.qfe] ⊆ T := by decide) : Touches T s (prunePages u) :=
  h.then hT fun h => h.rest

theorem Touches.teardownComplete {p : Port} (h : Touches T s u) (hT : Part.ended ++ [Part.arrays] ⊆ T := by decide) :
    Touches T s (teardownComplete u p) := by
  refine h.then hT fun h => ?_
  unfold Machine.teardownComplete
  split
  · exact h
  · extract_lets cs i killed own v v1
    have hv : Touches _ u v := h.foldl fun _ _ hv => hv.endTorn
    clear_value v
    have hv1 : Touches _ u v1 := hv.foldl fun _ _ hv2 => hv2.endTorn
    clear_value v1
    split
    · exact h
    · split
      · exact h
      · extract_lets v2 _ v3 v4 v5
        have hv2 : Touches _ u v2 := .dropQueueWork (hv1.foldl fun _ _ hv2 => .ite hv2.freeOwned hv2)
        clear_value v2
        have hv3 : Touches _ u v3 := hv2.rest
        clear_value v3
        have hv4 : Touches _ u v4 := hv3.withdrawPages.prunePages
        clear_value v4
        have hv5 : Touches _ u v5 := .ite hv4.write hv4
        clear_value v5
        exact hv5.setupDone

theorem Answering.execQueueTeardownComplete {p : Port} :
    Answering (Part.ended ++ [Part.arrays]) true u (execQueueTeardownComplete p u) :=
  .act fun h => h.teardownComplete

theorem Touches.changeBit {put : Engine → Bool → Engine} {get : Engine → Bool} {n value b : Nat} (h : Touches T s u)
    (hT : [.engines] ⊆ T := by decide) : Touches T s (changeBit put get n value u b) :=
  h.then hT fun h => .ite h (.ite h.setEng h)

theorem Touches.enginePortWrite {p : Port} {n value : Nat} (h : Touches T s u) (hT : [.engines] ⊆ T := by decide) :
    Touches T s (enginePortWrite u p n value) :=
  h.then hT fun h => .ite (h.foldl fun _ _ hv => hv.changeBit) h

theorem Answering.execQfeEnginePortWrite {p : Port} {n value : Nat} :
    Answering [.engines, .sent] (n < 24 && isWord value) u (execQfeEnginePortWrite p n value u) :=
  .act fun h => .overBar (fun _ hv => hv.enginePortWrite) h

theorem Touches.sillWrite {p : Port} {n value : Nat} (h : Touches T s u) (hT : [.engines] ⊆ T := by decide) :
    Touches T s (sillWrite u p n value) :=
  h.then hT fun h => .ite (h.foldl fun _ _ hv => hv.changeBit) h

theorem Answering.execQfeSillWrite {p : Port} {n value : Nat} :
    Answering [.engines, .sent] (n < 24 && isWord value) u (execQfeSillWrite p n value u) :=
  .act fun h => .overBar (fun _ hv => hv.sillWrite) h

theorem Touches.timeLimitWrite {p : Port} {value : Nat} (h : Touches T s u) (hT : [.qfe] ⊆ T := by decide) :
    Touches T s (timeLimitWrite u p value) :=
  h.then hT fun h => .ite h.rest h

theorem Answering.execQfeTimeLimitWrite {p : Port} {value : Nat} :
    Answering [.qfe, .sent] (isWord value) u (execQfeTimeLimitWrite p value u) :=
  .act fun h => .overBar (fun _ hv => hv.timeLimitWrite) h

theorem Touches.pollWrite {p : Port} {value : Nat} (h : Touches T s u) (hT : [.ports] ⊆ T := by decide) :
    Touches T s (pollWrite u p value) := by
  refine h.then hT fun h => ?_
  unfold Machine.pollWrite
  exact h.modPort

theorem Answering.execQfePollWrite {p : Port} {value : Nat} :
    Answering [.ports, .sent] (isWord value) u (execQfePollWrite p value u) :=
  .act fun h => .overBar (fun _ hv => hv.pollWrite) h

end

/-! ### The functions of `Sys2Proof/Machine/Fence.lean` -/

section
variable {T : List Part} {s u t : State}

theorem Touches.moveImages {e' : Nat} {heir : Option Nat} (h : Touches T s u) (hT : [.banks] ⊆ T := by decide) :
    Touches T s (moveImages u e' heir) := by
  refine h.then hT fun h => ?_
  unfold Machine.moveImages
  dsimp only
  split
  · exact .ite h h.setBank.modBank
  · exact h

theorem Touches.moveKept {i k : Nat} (h : Touches T s u) (hT : [.engines, .arrays] ⊆ T := by decide) :
    Touches T s (moveKept u i k) := by
  refine h.then hT fun h => ?_
  unfold Machine.moveKept
  refine .foldl h fun v a hv => ?_
  split
  · exact hv
  · exact .ite hv.modEng hv.rest

theorem Touches.leaveQueue {e' i : Nat} (h : Touches T s u)
    (hT : Part.fires ++ [Part.engines, .arrays, .qfe, .flt] ⊆ T := by decide) : Touches T s (leaveQueue e' u i) := by
  refine h.then hT fun h => ?_
  unfold Machine.leaveQueue
  split
  · exact h
  · dsimp only
    split
    · exact .ite (h.setQueue.usePage.rest) h.setQueue
    · split
      · split
        · exact h.setQueue
        · split
          · exact h.setQueue.takeSlot.moveKept.usePage
          · exact h.setQueue.queueStop.logOnQueue
      · split
        · exact h.setQueue
        · split
          · exact h.setQueue.takeSlot.moveKept.usePage
          · exact h.setQueue.queueStop.logOnQueue

theorem Touches.restartCmd {readable : Bool} {c : Nat} (h : Touches T s u) (hT : Part.ended ⊆ T := by decide) :
    Touches T s (restartCmd readable u c) := by
  refine h.then hT fun h => ?_
  unfold Machine.restartCmd
  split
  · exact h
  · exact .ite h.faultCmdOpen (.modCmd (.ite (h.releaseClaims.rest) h))

theorem Touches.replaceLaunch {c : Nat} (h : Touches T s u) (hT : Part.ended ⊆ T := by decide) :
    Touches T s (replaceLaunch u c) := by
  refine h.then hT fun h => ?_
  unfold Machine.replaceLaunch
  split
  · exact h
  · split
    · split
      · exact h.rest
      · dsimp only
        split
        · exact h.freeSlots.faultCmd
        · split
          · exact h.freeSlots.setLaunch.holdSlots
          · exact h.freeSlots.faultCmd
    · exact h

theorem Touches.fenceEngine {e' cause : Nat} {readable : Bool} (h : Touches T s u)
    (hT : Part.ended ++ [Part.dies, .banks, .arrays] ⊆ T := by decide) :
    Touches T s (fenceEngine u e' cause readable) := by
  refine h.then hT fun h => ?_
  unfold Machine.fenceEngine
  split
  · exact h
  · extract_lets v v1 v2 qs cs ls v3 v4 v5 v6 v7 heir v8
    have hv : Touches _ u v := h.logOnEngine
    clear_value v
    have hv1 : Touches _ u v1 := hv.modEng
    clear_value v1
    have hv2 : Touches _ u v2 := hv1.dieEvent.fire
    clear_value v2
    have hv3 : Touches _ u v3 := hv2.endTask
    clear_value v3
    have hv4 : Touches _ u v4 := .ite hv3 (hv3.foldl fun _ _ hv4 => hv4.rest)
    clear_value v4
    have hv5 : Touches _ u v5 := hv4.foldl fun _ _ hv5 => hv5.restartCmd
    clear_value v5
    have hv6 : Touches _ u v6 := hv5.modEng
    clear_value v6
    have hv7 : Touches _ u v7 := .foldl (hv6.rest) fun _ _ hv7 => hv7.leaveQueue
    clear_value v7
    have hv8 : Touches _ u v8 := .ite hv7.moveImages hv7
    clear_value v8
    exact .prunePages (hv8.foldl fun _ _ hv9 => hv9.replaceLaunch)

theorem Answering.execEngineFence {e' cause : Nat} {cellsReadable : Bool} :
    Answering (Part.ended ++ [Part.dies, .banks, .arrays]) (isEngine e') u (execEngineFence e' cause cellsReadable u) :=
  .act fun h => .ite h.fenceEngine h

theorem Answering.execEngineStall {e' : Nat} {cellsReadable : Bool} :
    Answering (Part.ended ++ [Part.dies, .banks, .arrays]) (isEngine e') u (execEngineStall e' cellsReadable u) :=
  .act fun h => .ite h.logOnEngine.fenceEngine h

theorem Touches.repairRow {b row : Nat} (h : Touches T s u)
    (hT : Part.ended ++ [Part.dies, .banks, .arrays] ⊆ T := by decide) : Touches T s (repairRow b u row) := by
  refine h.then hT fun h => ?_
  unfold Machine.repairRow
  dsimp only
  split
  · exact .dieEvent (.ite h.setBank.logOnEngine h.setBank.logOnDie)
  · exact .ite h.logOnEngine.fenceEngine h.logOnDie

theorem Touches.fullMarch {b : Nat} {m : March} (h : Touches T s u)
    (hT : Part.ended ++ [Part.dies, .banks, .arrays] ⊆ T := by decide) : Touches T s (fullMarch u b m) :=
  h.then hT fun h => h.modBank.foldl fun _ _ hv => hv.repairRow

theorem Answering.execEngineReturn {p : Port} {e' : Nat} {march : March} {passes : Bool} :
    Answering (Part.ended ++ [Part.dies, .banks, .arrays]) (isEngine e') u (execEngineReturn p e' march passes u) :=
  .act fun h => .overBar (fun _ hv => .ite hv (.ite hv.fullMarch.setEng.dieEvent.fire
    (.logOnEngine (.ite hv.fullMarch hv.fullMarch.logOnEngine)))) h

theorem Touches.endSequence {e' : Nat} {passes : Bool} (h : Touches T s u)
    (hT : Part.ended ++ [Part.dies, .banks, .arrays] ⊆ T := by decide) : Touches T s (endSequence u e' passes) :=
  h.then hT fun h => .ite h.modEng h.modEng.logOnEngine.fenceEngine

theorem Answering.execStartUpSequence {e' : Nat} {march : March} {passes : Bool} :
    Answering (Part.ended ++ [Part.dies, .banks, .arrays]) (isEngine e') u (execStartUpSequence e' march passes u) :=
  .act fun h => .ite h (.ite h.fullMarch.endSequence h.fullMarch)

theorem Answering.execTestSequence {e' : Nat} {passes : Bool} :
    Answering (Part.ended ++ [Part.dies, .banks, .arrays]) (isEngine e') u (execTestSequence e' passes u) :=
  .act fun h => .ite h h.endSequence

theorem Answering.execShadowSetExchange {e' : Nat} {good : Bool} :
    Answering (Part.ended ++ [Part.dies, .banks, .arrays]) (isEngine e') u (execShadowSetExchange e' good u) :=
  .act fun h => .ite h (.ite h.endSequence h.modEng)

end

/-! ### The functions of `Sys2Proof/Machine/Power.lean` -/

section
variable {T : List Part} {s u t : State}

theorem Touches.closeSome {quota : Nat} {l : List Nat} (h : Touches T s u) (hT : [.engines] ⊆ T := by decide) :
    Touches T s (closeSome u quota l) := by
  induction l generalizing u quota with
  | nil => exact h
  | cons e l ih => exact ih (h.modEng hT)

theorem Touches.closeLouvres {d : Nat} (h : Touches T s u) (hT : [.engines, .draws] ⊆ T := by decide) :
    Touches T s (closeLouvres u d) :=
  h.then hT fun h => .closeSome h.rest

theorem Touches.reopenLouvres {d : Nat} (h : Touches T s u) (hT : [.engines] ⊆ T := by decide) :
    Touches T s (reopenLouvres u d) :=
  h.then hT fun h => .ite h (h.foldl fun _ _ hv => hv.modEng)

theorem Touches.clearHold {d : Nat} (h : Touches T s u) (hT : [.dies] ⊆ T := by decide) :
    Touches T s (clearHold u d) :=
  h.then hT fun h => .ite h.modDie h

theorem Touches.recordDroop {d mv : Nat} (h : Touches T s u) (hT : [.dies] ⊆ T := by decide) :
    Touches T s (recordDroop u d mv) :=
  h.then hT fun h => h.modDie

theorem Answering.execFastLoop {d meanCw bankMv droopMv : Nat} :
    Answering (Part.fires ++ [Part.dies, .engines, .pwr, .draws]) (isDie d) u
      (execFastLoop d meanCw bankMv droopMv u) := by
  unfold Machine.execFastLoop
  refine .act fun h => ?_
  extract_lets v burst isOver isUnder _ v1 v2 v3
  have hv : Touches _ u v := h.recordDroop
  clear_value v
  have hv1 : Touches _ u v1 := hv.rest
  clear_value v1
  have hv2 : Touches _ u v2 := hv1.modDie
  clear_value v2
  have hv3 : Touches _ u v3 := .ite hv2.modDie.countDie hv2
  clear_value v3
  exact .ite hv (.ite hv3.closeLouvres (.clearHold (.ite hv3.reopenLouvres hv3)))

theorem Answering.execCollectiveHoldTimeout {d : Nat} :
    Answering [.dies, .engines, .draws] (isDie d) u (execCollectiveHoldTimeout d u) :=
  .act fun h => .ite h h.modDie.closeLouvres

theorem Touches.closePeriod {d : Nat} (h : Touches T s u) (hT : [.dies] ⊆ T := by decide) :
    Touches T s (closePeriod u d) := by
  refine h.then hT fun h => ?_
  unfold Machine.closePeriod
  exact h.modDie

theorem Touches.applyPlan {allow sum : Nat} {x : Plan} (h : Touches T s u) (hT : [.dies] ⊆ T := by decide) :
    Touches T s (applyPlan allow sum u x) :=
  h.then hT fun h => h.modDie

theorem Touches.allocate {m : PowerSample} (h : Touches T s u) (hT : [.dies] ⊆ T := by decide) :
    Touches T s (allocate u m).1 :=
  h.then hT fun h => h.foldl fun _ _ hv => hv.applyPlan

theorem Touches.setLimiting {b : Bool} (h : Touches T s u) (hT : Part.fires ++ [Part.pwr] ⊆ T := by decide) :
    Touches T s (setLimiting u b) :=
  h.then hT fun h => .ite h.rest (.fire h.rest)

theorem Touches.countLimited (h : Touches T s u) (hT : Part.fires ++ [Part.pwr] ⊆ T := by decide) :
    Touches T s (countLimited u) :=
  h.then hT fun h => h.countGlobal fun _ _ hv => hv.rest

theorem Touches.learnPhase {m : PowerSample} {d : Nat} (h : Touches T s u) (hT : [.ports] ⊆ T := by decide) :
    Touches T s (learnPhase m u d) := by
  refine h.then hT fun h => ?_
  unfold Machine.learnPhase
  dsimp only
  split
  · exact .ite h h.modPort
  · exact h

theorem Answering.execCapControllerPeriod {m : PowerSample} :
    Answering (Part.fires ++ [Part.dies, .pwr]) true u (execCapControllerPeriod m u) := by
  refine .act fun h => ?_
  extract_lets v v1 _ v2 r v3 v4
  have hv : Touches _ u v := h.foldl fun _ _ hv => hv.learnPhase
  have hv1 : Touches _ u v1 := hv.foldl fun _ _ hv => hv.closePeriod
  clear_value v1
  have hv2 : Touches _ u v2 := hv1.rest
  have hv3 : Touches _ u v3 := hv2.allocate.setLimiting
  have hv4 : Touches _ u v4 := .ite hv3.countLimited hv3
  clear_value v4
  exact hv4.rest

theorem Answering.execUrgentAllocation {m : PowerSample} :
    Answering (Part.fires ++ [Part.dies, .pwr]) true u (execUrgentAllocation m u) := by
  refine .act fun h => .ite h ?_
  extract_lets r calm
  have hc : Touches _ u calm := h.allocate.foldl fun _ _ hv => hv.modDie
  clear_value calm
  exact .ite hc.setLimiting.countLimited hc

theorem Answering.execRailRampComplete {d : Nat} : Answering [.dies] (isDie d) u (execRailRampComplete d u) :=
  .act fun h => h.modDie

theorem Answering.execControllerTakeover : Answering [.pwr] true u (execControllerTakeover u) :=
  .act fun h => h.rest

theorem Touches.setMargin {d v' : Nat} (h : Touches T s u) (hT : Part.fires ++ [Part.dies, .flt] ⊆ T := by decide) :
    Touches T s (setMargin u d v') :=
  h.then hT fun h => .ite (.logOnDie (.ite h.modDie h.modDie.fire)) (.ite h.modDie h.modDie.fire)

theorem Answering.execMarginTrim {d ageingMv : Nat} :
    Answering (Part.fires ++ [Part.dies, .flt]) (isDie d) u (execMarginTrim d ageingMv u) :=
  .act fun h => h.modDie.setMargin

theorem Answering.execDroopToNominal {d : Nat} :
    Answering (Part.fires ++ [Part.dies, .flt]) (isDie d) u (execDroopToNominal d u) :=
  .act fun h => h.modDie.logOnDie.setMargin

/-- A fold over the 768 engines stays a fold over a list here: the kernel would run it. -/
theorem Touches.holdUpBankLow {l : List Nat} (h : Touches T s u)
    (hT : Part.fires ++ [Part.engines, .pwr, .flt] ⊆ T := by decide) : Touches T s
      (let v := l.foldl (fun s e => s.modEng e fun g => { g with louvre := min 4 g.louvre }) u
       (Machine.logPlain { v with pwr := { v.pwr with bankLow := true } } 0x7010 (noDetail 0x7010)).fire 0x043) := by
  refine h.then hT fun h => ?_
  extract_lets v
  have hv : Touches (Part.fires ++ [Part.engines, .pwr, .flt]) u v := h.foldl fun _ _ hv => hv.modEng
  exact .fire (.logPlain hv.rest)

theorem Answering.execHoldUpBankLow :
    Answering (Part.fires ++ [Part.engines, .pwr, .flt]) true u (execHoldUpBankLow u) :=
  .act fun h => .ite h h.holdUpBankLow

theorem Answering.execHoldUpBankRecovered : Answering (Part.fires ++ [Part.pwr]) true u (execHoldUpBankRecovered u) :=
  .act fun h => .ite (.fire h.rest) h

theorem Touches.excursion {mv : Nat} (h : Touches T s u) (hT : Part.fires ++ [Part.pwr, .flt, .mgmt] ⊆ T := by decide) :
    Touches T s (excursion u mv) :=
  h.then hT fun h => .rest (.ite (.logPlain (.ite h.logPlain h)) (.ite h.logPlain h))

theorem Touches.inputResponse {mv : Nat} (h : Touches T s u) (hT : Part.stops ++ [Part.pwr, .mgmt] ⊆ T := by decide) :
    Touches T s (inputResponse u mv) :=
  h.then hT fun h => .ite h (.ite (.fatal (.excursion h.rest)) h.excursion)

theorem Answering.execOvervoltageTimeout : Answering (Part.stops ++ [Part.mgmt]) true u (execOvervoltageTimeout u) :=
  .actAlways fun h => .ite (.fatal h.rest) h

theorem Touches.recalibrate {die tempC : Nat} (h : Touches T s u) (hT : [.opx] ⊆ T := by decide) :
    Touches T s (recalibrate u die tempC) := by
  refine h.then hT fun h => ?_
  unfold Machine.recalibrate
  split
  · exact .ite h.rest h
  · exact h

theorem Touches.thermalTrip {die : Nat} (h : Touches T s u) (hT : Part.stops ++ [Part.mgmt] ⊆ T := by decide) :
    Touches T s (thermalTrip u die) :=
  h.then hT fun h => .fatalOn h.rest

theorem Touches.dieThermal {d tempC : Nat} (h : Touches T s u)
    (hT : Part.stops ++ [Part.dies, .engines, .mgmt] ⊆ T := by decide) : Touches T s (dieThermal u d tempC) := by
  refine h.then hT fun h => ?_
  unfold Machine.dieThermal
  extract_lets x w c v _ v1 _ v2 v3 v4
  have hv : Touches _ u v := h.modDie
  clear_value v
  have hv1 : Touches _ u v1 := .ite (.dieEvent (.logOnDie hv.rest)) hv
  clear_value v1
  have hv2 : Touches _ u v2 := .ite (.logOnDie (hv1.rest)) hv1
  clear_value v2
  have hv3 : Touches _ u v3 := .ite (hv2.foldl fun _ _ hv3 => hv3.modEng) hv2
  clear_value v3
  have hv4 : Touches _ u v4 := .ite hv3.recalibrate hv3
  clear_value v4
  exact .ite hv4.thermalTrip hv4

theorem Touches.stackThermal {n tempC : Nat} (h : Touches T s u) (hT : Part.stops ++ [Part.mgmt] ⊆ T := by decide) :
    Touches T s (stackThermal u n tempC) :=
  h.then hT fun h => .ite (.thermalTrip (.ite h.setStack.logPlain h.setStack)) (.ite h.setStack.logPlain h.setStack)

theorem Touches.recordTemp {stack : Bool} {n tempC : Nat} (h : Touches T s u) (hT : [.dies, .hbm] ⊆ T := by decide) :
    Touches T s (recordTemp u stack n tempC) :=
  h.then hT fun h => .ite h.setStack h.modDie

theorem Answering.execThermalChange {stack : Bool} {n tempC : Nat} :
    Answering (Part.stops ++ [Part.dies, .engines, .mgmt]) (if stack then isStack n else isDie n) u
      (execThermalChange stack n tempC u) :=
  .actAlways fun h => .ite h.recordTemp (.ite h.stackThermal h.dieThermal)

theorem Answering.execThermalTripTimeout {d : Nat} :
    Answering (Part.stops ++ [Part.mgmt]) (isDie d) u (execThermalTripTimeout d u) :=
  .actAlways fun h => .ite h.thermalTrip h

theorem Touches.unpowerDie {d : Nat} (h : Touches T s u)
    (hT : Part.ended ++ [Part.dies, .banks, .arrays] ⊆ T := by decide) : Touches T s (unpowerDie u d) :=
  h.then hT fun h => .ite (h.modDie.logOnDie.foldl fun _ _ hv => hv.fenceEngine) h.modDie.logOnDie

theorem Touches.busFailure (h : Touches T s u) (hT : Part.stops ++ [Part.mgmt] ⊆ T := by decide) :
    Touches T s (busFailure u) :=
  h.then hT fun h => .fatal h.rest

theorem Answering.execPointOfLoadFailure {f : ConversionFailure} :
    Answering (Part.ended ++ [Part.dies, .banks, .arrays, .mgmt]) (Instr.pointOfLoadFailure f).wf u
      (execPointOfLoadFailure f u) := by
  cases f with
  | pointOfLoad => exact .actAlways fun h => .ite h (.ite h (.ite h.modDie h.unpowerDie))
  | sixVoltBus => exact .actAlways fun h => .ite h h.busFailure
  | phaseGroup => exact .actAlways fun h => .ite h h.busFailure

theorem Touches.capWrite {p : Port} {v' : Nat} (h : Touches T s u) (hT : [.pwr] ⊆ T := by decide) :
    Touches T s (capWrite u p v') :=
  h.then hT fun h => .ite h.rest h

theorem Answering.execPwrCapWrite {p : Port} {v' : Nat} :
    Answering [.pwr, .sent] (isWord v') u (execPwrCapWrite p v' u) :=
  .act fun h => .overBar (fun _ hv => hv.capWrite) h

theorem Touches.powerCtrlWrite {p : Port} {v' : Nat} (h : Touches T s u) (hT : [.pwr] ⊆ T := by decide) :
    Touches T s (powerCtrlWrite u p v') :=
  h.then hT fun h => .ite h.rest h

theorem Answering.execPwrCtrlWrite {p : Port} {v' : Nat} :
    Answering [.pwr, .sent] (isWord v') u (execPwrCtrlWrite p v' u) :=
  .act fun h => .overBar (fun _ hv => hv.powerCtrlWrite) h

theorem Touches.phaseWrite {p : Port} {n v' : Nat} (h : Touches T s u) (hT : [.ports] ⊆ T := by decide) :
    Touches T s (phaseWrite u p n v') := by
  refine h.then hT fun h => ?_
  unfold Machine.phaseWrite
  exact h.modPort

theorem Answering.execPwrPhaseWrite {p : Port} {n v' : Nat} :
    Answering [.ports, .sent] (decide (n < 256) && isWord v') u (execPwrPhaseWrite p n v' u) :=
  .act fun h => .overBar (fun _ hv => hv.phaseWrite) h

end

/-! ### The functions of `Sys2Proof/Machine/Entropy.lean` -/

section
variable {T : List Part} {s u t : State}

theorem Touches.setEnt {h' : Port} {x : Entropy} (h : Touches T s u) (hT : [.hosts] ⊆ T := by decide) :
    Touches T s (u.setEnt h' x) :=
  h.then hT fun h => h.modHost

theorem Touches.setEntState {h' : Port} {st : EntState} (h : Touches T s u) (hT : Part.fires ⊆ T := by decide) :
    Touches T s (setEntState u h' st) :=
  h.then hT fun h => .ite h h.setEnt.fire

theorem Touches.takeRequest {h' : Port} {r' : EntRequest} (h : Touches T s u) (hT : [.hosts] ⊆ T := by decide) :
    Touches T s (takeRequest u h' r') :=
  h.then hT fun h => h.setEnt

theorem Touches.drawBytes {p : Port} (h : Touches T s u) (hT : [.hosts] ⊆ T := by decide) :
    Touches T s (drawBytes u p).2 :=
  h.then hT fun h => h.setEnt

theorem Touches.setReply {n : Nat} (h : Touches T s u) (hT : [.reply] ⊆ T := by decide) :
    Touches T s { u with reply := n } :=
  h.then hT fun h => h.rest

theorem Touches.rngRead {p : Port} {wide inTime : Bool} (h : Touches T s u) (hT : [.hosts, .reply] ⊆ T := by decide) :
    Touches T s (rngRead u p wide inTime) :=
  h.then hT fun h => .ite h.setReply (.ite h.setReply (.ite h.setReply h.setEnt.setReply))

theorem Answering.execEntRngRead {p : Port} {wide inTime : Bool} :
    Answering [.hosts, .reply, .sent] true u (execEntRngRead p wide inTime u) :=
  .actAlways fun h => .overBar (fun _ hv => hv.rngRead) h

theorem Answering.execFailureCountDecay {h' : Port} : Answering [.hosts] true u (execFailureCountDecay h' u) :=
  .actAlways fun h => .ite h h.setEnt

end

/-! ### The functions of `Sys2Proof/Machine/Hbm.lean` -/

section
variable {T : List Part} {s u t : State}

theorem Touches.faultLaunches {i : Nat} (h : Touches T s u) (hT : Part.ended ⊆ T := by decide) :
    Touches T s (faultLaunches u i) :=
  h.then hT fun h => h.foldl fun _ _ hv => hv.faultCmdOpen

theorem Touches.loseLog {stack : Nat} (h : Touches T s u) (hT : Part.stops ⊆ T := by decide) :
    Touches T s (loseLog u stack) :=
  h.then hT fun h => .ite h (.ite (.fatal h.rest) h.rest)

theorem Touches.loseArea {stack : Nat} {x : UnitArea} (h : Touches T s u) (hT : Part.ended ⊆ T := by decide) :
    Touches T s (loseArea u stack x) := by
  refine h.then hT fun h => ?_
  unfold Machine.loseArea
  split
  · split
    · exact .faultLaunches h.rest
    · exact h
  · split
    · exact h.setGraph
    · exact h
  · exact h.modEng
  · exact h.fatal
  · exact h.loseLog
  · exact h

theorem Touches.countCorrected (h : Touches T s u) (hT : Part.fires ++ [Part.hbm] ⊆ T := by decide) :
    Touches T s (countCorrected u) :=
  h.then hT fun h => h.countGlobal fun _ _ hv => hv.rest

theorem Touches.countUncorrected (h : Touches T s u) (hT : Part.fires ++ [Part.hbm] ⊆ T := by decide) :
    Touches T s (countUncorrected u) :=
  h.then hT fun h => h.countGlobal fun _ _ hv => hv.rest

theorem Touches.poisonUnit {unit : Nat} (h : Touches T s u) (hT : Part.fires ++ [Part.hbm] ⊆ T := by decide) :
    Touches T s (poisonUnit u unit) :=
  h.then hT fun h => .countUncorrected h.rest

theorem Touches.readUnit {unit : Nat} {errors : List Nat} (h : Touches T s u) (hT : [.hbm, .draws] ⊆ T := by decide) :
    Touches T s (readUnit u unit errors) :=
  h.then hT fun h => h.setStack.rest

theorem Touches.miscorrect {unit : Nat} (h : Touches T s u) (hT : [.mem, .draws] ⊆ T := by decide) :
    Touches T s (miscorrect u unit) :=
  h.then hT fun h => h.rest

theorem Touches.applyAccess {unit : Nat} {access : UnitAccess} (h : Touches T s u)
    (hT : [.mem, .hbm, .reply] ⊆ T := by decide) : Touches T s (applyAccess u unit access) := by
  refine h.then hT fun h => ?_
  unfold Machine.applyAccess
  split
  · exact h.rest
  · exact h.rest
  · exact h.rest

theorem Touches.decodedAccess {unit : Nat} {access : UnitAccess} {errors : List Nat} {lost : State → State}
    (h : Touches T s u) (hlost : ∀ v, Touches T s v → Touches T s (lost v))
    (hT : Part.fires ++ [Part.mem, .hbm, .reply, .draws] ⊆ T := by decide) :
    Touches T s (decodedAccess u unit access errors lost) := by
  unfold Machine.decodedAccess
  dsimp only
  split
  · exact h.then hT fun h => h.readUnit.applyAccess
  · exact h.then hT fun h => h.readUnit.countCorrected.applyAccess
  · exact h.then hT fun h => h.readUnit.miscorrect.countCorrected.applyAccess
  · exact hlost _ (h.then hT fun h => h.readUnit.poisonUnit)

theorem Touches.commandAccess {unit : Nat} {access : UnitAccess} {errors : List Nat} {c page : Nat} {m : PageMap}
    (h : Touches T s u) (hT : Part.ended ++ [Part.reply] ⊆ T := by decide) :
    Touches T s (commandAccess u unit access errors c page m) :=
  h.then hT fun h =>
    .ite h.faultCmd (.ite h.faultCmd (.ite h.faultCmd (.ite h.applyAccess (h.decodedAccess fun _ hv => hv.faultCmd))))

theorem Touches.moduleAccess {unit : Nat} {access : UnitAccess} {errors : List Nat} (h : Touches T s u)
    (hT : Part.ended ++ [Part.reply] ⊆ T := by decide) : Touches T s (moduleAccess u unit access errors) := by
  refine h.then hT fun h => ?_
  unfold Machine.moduleAccess
  dsimp only
  split
  · exact h
  · split
    · exact h
    · exact .ite h.applyAccess (.ite h.loseArea (h.decodedAccess fun _ hv => hv.loseArea))

theorem Touches.unitDone {unit : Nat} (h : Touches T s u) (hT : [.mesh] ⊆ T := by decide) :
    Touches T s (unitDone u unit) := by
  refine h.then hT fun h => ?_
  unfold Machine.unitDone
  split
  · exact h.rest
  · exact h

theorem Answering.execHbmAccess {unit : Nat} {access : UnitAccess} {errors : List Nat} {c : Nat} :
    Answering (Part.ended ++ [Part.mesh, .reply]) (unit < 24 * stackUnits && errors.all (· < 68)) u
      (execHbmAccess unit access errors c u) := by
  unfold Machine.execHbmAccess
  refine .act fun h => ?_
  split
  · exact h
  · dsimp only
    split
    · split
      · split
        · exact h.unitDone
        · split
          · exact h.unitDone.commandAccess
          · exact .ite h.unitDone.commandAccess h.unitDone.moduleAccess
      · exact h.unitDone
    · exact h.unitDone.moduleAccess

theorem Answering.execPatrolScrub {unit : Nat} {errors : List Nat} :
    Answering Part.ended (unit < 24 * stackUnits && errors.all (· < 68)) u (execPatrolScrub unit errors u) := by
  refine .act fun h => .ite h ?_
  extract_lets unmark marked area d v
  have hunmark (w : State) (hw : Touches Part.ended u w) : Touches Part.ended u (unmark w) := hw.rest
  have hmarked (w : State) (hw : Touches Part.ended u w) : Touches Part.ended u (marked w) :=
    .ite (hw.countCorrected.rest) (hw.countCorrected.rest)
  have hv : Touches Part.ended u v := h.readUnit
  clear_value v unmark marked d
  cases d with
  | good => exact hunmark _ hv
  | corrected => exact hmarked _ hv
  | wrong => exact hmarked _ hv.miscorrect
  | lost => exact (hunmark _ hv).poisonUnit.loseArea

theorem Touches.removePage {stack page : Nat} (h : Touches T s u)
    (hT : Part.fires ++ [Part.hbm, .flt] ⊆ T := by decide) : Touches T s (removePage u stack page) := by
  refine h.then hT fun h => ?_
  unfold Machine.removePage
  extract_lets k keep _ v
  have hv : Touches _ u v := h.rest
  exact hv.setStack.logPlain

theorem Touches.unitRetirement {stack range : Nat} (h : Touches T s u) (hT : Part.ended ⊆ T := by decide) :
    Touches T s (unitRetirement u stack range) := by
  refine h.then hT fun h => ?_
  unfold Machine.unitRetirement
  extract_lets n k _ v v1
  have hv : Touches _ u v := h.rest
  clear_value v
  have hv1 : Touches _ u v1 := hv.setStack
  clear_value v1
  split
  · exact h
  · split
    · exact hv1.rest
    · split
      · exact hv1.removePage
      · exact .ite (.removePage (hv1.rest)) hv1
      · exact .loseArea (hv1.rest)

theorem Answering.execUnitRetirement {stack range : Nat} :
    Answering Part.ended (isStack stack && range < 36864) u (execUnitRetirement stack range u) :=
  .act fun h => h.unitRetirement

theorem Touches.setStackState {n : Nat} {st : StackState} (h : Touches T s u)
    (hT : Part.fires ++ [Part.hbm] ⊆ T := by decide) : Touches T s (setStackState u n st) :=
  h.then hT fun h => .ite h h.setStack.fire

theorem Touches.fenceStack {n : Nat} (h : Touches T s u) (hT : Part.ended ⊆ T := by decide) :
    Touches T s (fenceStack u n) :=
  h.then hT fun h =>
    .loseLog (.foldl (.foldl (.foldl h.setStackState.logPlain fun _ _ hv => hv.loseArea) fun _ _ hv => hv.loseArea)
    fun _ _ hv => hv.loseArea)

theorem Touches.pinRepair {n pc pin : Nat} {trains : Bool} (h : Touches T s u) (hT : Part.ended ⊆ T := by decide) :
    Touches T s (pinRepair u n pc pin trains) :=
  h.then hT fun h =>
    .ite h (.ite (.ite h.setStack.logPlain h.fenceStack) (.ite h.setStack.fenceStack h.setStack.setStackState))

theorem Answering.execPinLaneRepair {stack pc pin : Nat} {trains : Bool} :
    Answering Part.ended (isStack stack && pc < 32 && pin < 32) u (execPinLaneRepair stack pc pin trains u) :=
  .act fun h => h.pinRepair

theorem Touches.problemAreaWrite {p : Port} {value : Nat} (h : Touches T s u) (hT : [.hbm] ⊆ T := by decide) :
    Touches T s (problemAreaWrite u p value) :=
  h.then hT fun h => .ite h h.rest

theorem Answering.execMemProblemAreaWrite {p : Port} {value : Nat} :
    Answering [.hbm, .sent] (isWord value) u (execMemProblemAreaWrite p value u) :=
  .act fun h => .overBar (fun _ hv => hv.problemAreaWrite) h

theorem Touches.mapDone {p : Port} {code : Nat} (h : Touches T s u) (hT : Part.fires ++ [Part.hbm] ⊆ T := by decide) :
    Touches T s (mapDone u p code) :=
  h.then hT fun h => .fire (.modPort h.rest)

theorem Touches.mapOk {p : Port} {result : Nat} (h : Touches T s u)
    (hT : Part.fires ++ [Part.mem, .hbm] ⊆ T := by decide) :
    Touches T s (mapOk u p result) :=
  h.then hT fun h => .mapDone (.ite h.write h)

theorem Touches.mapEnd {p : Port} {result : Nat} (h : Touches T s u)
    (hT : Part.fires ++ [Part.mem, .hbm] ⊆ T := by decide) : Touches T s (mapEnd u p result) :=
  h.then hT fun h => .ite h.rest h.mapOk

theorem Touches.finishDue {p : Port} (h : Touches T s u) (hT : Part.fires ++ [Part.mem, .hbm] ⊆ T := by decide) :
    Touches T s (finishDue u p) := by
  refine h.then hT fun h => ?_
  unfold Machine.finishDue
  split
  · split
    · exact .ite h.mapOk h
    · exact h
  · exact h

theorem Touches.placePages {key : Nat → Nat} {write near : Bool} {m : Nat} {l : List Nat}
    {taken : List (Nat × PageMap)} {r : State × List (Nat × PageMap)} (h : Touches T s u)
    (e : placePages key write near m l u taken = some r) (hT : [.hbm] ⊆ T := by decide) : Touches T s r.1 := by
  induction l generalizing u taken with
  | nil =>
    cases e
    exact h
  | cons pg l ih =>
    unfold Machine.placePages at e
    dsimp only at e
    split at e
    · cases e
    · exact ih (h.then hT fun h => h.rest) e

theorem Touches.mapPages {p : Port} {b : List Byte} (h : Touches T s u)
    (hT : Part.fires ++ [Part.hbm] ⊆ T := by decide) : Touches T s (mapPages u p b) := by
  refine h.then hT fun h => ?_
  unfold Machine.mapPages
  extract_lets key pages near m room
  refine .ite h.mapDone (.ite h.mapDone ?_)
  split
  · next e => exact (h.placePages e).rest
  · exact h.mapDone

theorem Touches.mapOp {p : Port} {op : Nat} {f : State → List Byte → State} (h : Touches T s u)
    (hf : ∀ b, Touches T s (f u b)) : Touches T s (mapOp u p op f) := by
  unfold Machine.mapOp
  split
  · exact .ite (hf _) h
  · exact h

theorem Answering.execMap {p : Port} : Answering (Part.fires ++ [Part.hbm]) true u (execMap p u) :=
  .act fun h => h.mapOp fun _ => h.mapPages

theorem Touches.zeroingComplete {p : Port} {j : MapJob} (h : Touches T s u)
    (hT : Part.fires ++ [Part.mem, .hbm] ⊆ T := by decide) : Touches T s (zeroingComplete u p j) := by
  refine h.then hT fun h => ?_
  unfold Machine.zeroingComplete
  extract_lets v inPages _ w
  have hv : Touches _ u v := h.foldl fun _ _ hv => hv.clear
  clear_value v
  exact .mapEnd hv.rest

theorem Answering.execMapZeroingComplete {p : Port} :
    Answering (Part.fires ++ [Part.mem, .hbm]) true u (execMapZeroingComplete p u) := by
  refine .act fun h => ?_
  split
  · exact h.zeroingComplete
  · exact h

theorem Touches.unmapPages {p : Port} {b : List Byte} (h : Touches T s u)
    (hT : Part.fires ++ [Part.hbm] ⊆ T := by decide) : Touches T s (unmapPages u p b) :=
  h.then hT fun h => .ite h.mapDone h.rest

theorem Answering.execUnmap {p : Port} : Answering (Part.fires ++ [Part.hbm]) true u (execUnmap p u) :=
  .act fun h => h.mapOp fun _ => h.unmapPages

theorem Answering.execUnmapDrainEnd {p : Port} : Answering Part.ended true u (execUnmapDrainEnd p u) := by
  unfold Machine.execUnmapDrainEnd
  refine .act fun h => ?_
  split
  · exact .mapEnd (h.foldl fun _ _ hv => hv.faultCmd)
  · exact h

theorem Answering.execMapRequestInvalid {p : Port} :
    Answering (Part.fires ++ [Part.hbm]) true u (execMapRequestInvalid p u) := by
  unfold Machine.execMapRequestInvalid
  refine .act fun h => ?_
  split
  · exact .ite h h.mapDone
  · exact h

end

/-! ### The functions of `Sys2Proof/Machine/Flash.lean` -/

section
variable {T : List Part} {s u t : State}

theorem Touches.setStore {i : Nat} {f : FlashStore} (h : Touches T s u) (hT : [.fls] ⊆ T := by decide) :
    Touches T s (u.setStore i f) :=
  h.then hT fun h => h.rest

theorem DoneTouches.storeCreateBody {x : Cmd} {q : Queue} (h : Touches T s u) (hT : [.fls] ⊆ T := by decide) :
    DoneTouches T s (storeCreateBody u x q) := by
  refine h.thenDone hT fun h => ?_
  unfold Machine.storeCreateBody
  dsimp only
  refine .within fun _ _ => .within fun _ _ => ?_
  split
  · exact .stop
  · exact .ok (.setStore h.rest)

theorem Answering.execStoreCreate {c : Nat} : Answering Part.ended true u (execStoreCreate c u) :=
  .act fun h => h.runCmd fun _ _ _ hv => .storeCreateBody hv

theorem DoneTouches.storeReadBody {x : Cmd} {q : Queue} (h : Touches T s u)
    (hT : [.mem, .hbm, .draws] ⊆ T := by decide) : DoneTouches T s (storeReadBody u x q) := by
  refine h.thenDone hT fun h => ?_
  unfold Machine.storeReadBody
  dsimp only
  refine .within fun _ _ => .within fun _ _ => .within fun _ _ => .within fun _ _ => ?_
  split
  · exact .badWriting h
  · exact .ok h.pokeVa

theorem Answering.execStoreRead {c : Nat} : Answering Part.ended true u (execStoreRead c u) :=
  .act fun h => h.runCmd fun _ _ _ hv => .storeReadBody hv

theorem DoneTouches.storeWriteBody {x : Cmd} {q : Queue} (h : Touches T s u) :
    DoneTouches T s (storeWriteBody u x q) :=
  .within fun _ _ => .within fun _ _ => .within fun _ _ => .within fun _ _ => .within fun _ _ => .run h

theorem Answering.execStoreWrite {c : Nat} : Answering Part.ended true u (execStoreWrite c u) :=
  .act fun h => h.runCmd fun _ _ _ hv => .storeWriteBody hv

theorem DoneTouches.storeProgramBody {x : Cmd} {q : Queue} (h : Touches T s u)
    (hT : [.mem, .hbm, .fls, .draws] ⊆ T := by decide) : DoneTouches T s (storeProgramBody u x q) :=
  h.thenDone hT fun h => .writing h fun _ _ => .ok (h.foldl fun _ _ hv => hv.programBlock)

theorem Answering.execStoreProgramComplete {c : Nat} : Answering Part.ended true u (execStoreProgramComplete c u) :=
  .act fun h => h.goOn fun _ _ _ hv => .storeProgramBody hv

theorem Touches.wipe {sp : Space} {a n : Nat} (h : Touches T s u) (hT : [.mem] ⊆ T := by decide) :
    Touches T s (u.wipe sp a n) :=
  h.then hT fun h => h.rest

theorem DoneTouches.storeTrimBody {x : Cmd} {q : Queue} (h : Touches T s u) (hT : [.mem, .fls] ⊆ T := by decide) :
    DoneTouches T s (storeTrimBody u x q) :=
  h.thenDone hT fun h => .within fun _ _ => .within fun _ _ => .within fun _ _ => .ok h.setStore.wipe

theorem Answering.execStoreTrim {c : Nat} : Answering Part.ended true u (execStoreTrim c u) :=
  .act fun h => h.runCmd fun _ _ _ hv => .storeTrimBody hv

theorem DoneTouches.storeReportBody {x : Cmd} {q : Queue} (h : Touches T s u) (hT : [.mem, .hbm] ⊆ T := by decide) :
    DoneTouches T s (storeReportBody u x q) :=
  h.thenDone hT fun h =>
    .within fun _ _ => .ite (.within fun _ he2 => .ok (h.writeVa he2)) (.within fun _ _ => .within fun _ he3 => .ok
    (h.writeVa he3))

theorem Answering.execStoreReport {c : Nat} : Answering Part.ended true u (execStoreReport c u) :=
  .act fun h => h.runCmd fun _ _ _ hv => .storeReportBody hv

theorem Touches.dropStore {i : Nat} (h : Touches T s u) (hT : [.mem, .fls] ⊆ T := by decide) :
    Touches T s (dropStore u i) :=
  h.then hT fun h => .clear h.rest

theorem DoneTouches.storeDestroyBody {x : Cmd} {q : Queue} (h : Touches T s u) (hT : [.mem, .fls] ⊆ T := by decide) :
    DoneTouches T s (storeDestroyBody u x q) :=
  h.thenDone hT fun h => .within fun _ _ => .within fun _ _ => .within fun _ _ => .ok h.dropStore

theorem Answering.execStoreDestroy {c : Nat} : Answering Part.ended true u (execStoreDestroy c u) :=
  .act fun h => h.runCmd fun _ _ _ hv => .storeDestroyBody hv

theorem Touches.bindStore {p : Port} {b : List Byte} (h : Touches T s u)
    (hT : Part.fires ++ [Part.mem, .hbm, .fls, .draws] ⊆ T := by decide) : Touches T s (bindStore u p b) := by
  refine h.then hT fun h => ?_
  unfold Machine.bindStore
  split
  · exact h.mapDone
  · split
    · exact h.mapDone
    · split
      · exact h.mapDone
      · exact .ite h.mapDone (.mapOk (.setStore h.rest))

theorem Answering.execBindStore {p : Port} :
    Answering (Part.fires ++ [Part.mem, .hbm, .fls, .draws]) true u (execBindStore p u) :=
  .act fun h => h.mapOp fun _ => h.bindStore

theorem Touches.listStores {p : Port} {b : List Byte} (h : Touches T s u)
    (hT : Part.fires ++ [Part.mem, .hbm] ⊆ T := by decide) : Touches T s (listStores u p b) :=
  h.then hT fun h => .ite h.mapDone h.write.mapOk

theorem Answering.execListStores {p : Port} : Answering (Part.fires ++ [Part.mem, .hbm]) true u (execListStores p u) :=
  .act fun h => h.mapOp fun _ => h.listStores

theorem Touches.readDump {p : Port} {b : List Byte} (h : Touches T s u)
    (hT : Part.fires ++ [Part.mem, .hbm] ⊆ T := by decide) : Touches T s (readDump u p b) :=
  h.then hT fun h => .ite h.mapDone (.ite h.mapDone (.ite h.mapDone h.write.mapOk))

theorem Answering.execReadDump {p : Port} : Answering (Part.fires ++ [Part.mem, .hbm]) true u (execReadDump p u) :=
  .act fun h => h.mapOp fun _ => h.readDump

theorem Touches.countRead {f : FlashStore} {n : Nat} {outcome : FlashRead} (h : Touches T s u)
    (hT : [.fls] ⊆ T := by decide) : Touches T s (countRead u f n outcome) := by
  refine h.then hT fun h => ?_
  unfold Machine.countRead
  split
  · exact h.rest
  · exact h

theorem Touches.flashPageRead {i n c : Nat} {outcome : FlashRead} (h : Touches T s u)
    (hT : Part.ended ⊆ T := by decide) : Touches T s (flashPageRead u i n c outcome) := by
  refine h.then hT fun h => ?_
  unfold Machine.flashPageRead
  split
  · exact h
  · extract_lets v v1 _ v2 v3
    have hv : Touches Part.ended u v := h.countRead
    clear_value v
    have hv1 : Touches Part.ended u v1 := hv.setStore
    clear_value v1
    have hv2 : Touches Part.ended u v2 := hv1.rest
    clear_value v2
    have hv3 : Touches Part.ended u v3 := hv2.countGlobal fun _ _ hv3 => hv3.rest
    clear_value v3
    split
    · exact hv
    · split
      · split
        · extract_lets v4
          have hv4 : Touches Part.ended u v4 := by
            unfold v4
            split
            · exact hv3.scrambleVa
            · exact hv3
          clear_value v4
          exact hv4.faultCmd
        · exact hv1
      · exact hv1

theorem Answering.execFlashPageRead {store block c : Nat} {outcome : FlashRead} :
    Answering Part.ended true u (execFlashPageRead store block c outcome u) :=
  .act fun h => h.flashPageRead

theorem Touches.setChannelState {n : Nat} {st : ChannelState} (h : Touches T s u)
    (hT : Part.fires ++ [Part.fls] ⊆ T := by decide) : Touches T s (setChannelState u n st) :=
  h.then hT fun h => .ite h h.setChannel.fire

theorem Touches.fenceChannel {n : Nat} (h : Touches T s u) (hT : Part.fires ++ [Part.fls, .flt] ⊆ T := by decide) :
    Touches T s (fenceChannel u n) :=
  h.then hT fun h => .ite h (h.setChannelState.logPlain.rest)

theorem Touches.flashDieRebuild {n target : Nat} (h : Touches T s u)
    (hT : Part.fires ++ [Part.fls, .flt] ⊆ T := by decide) : Touches T s (flashDieRebuild u n target) :=
  h.then hT fun h => .ite h (.ite h.fenceChannel h.setChannel.setChannelState)

theorem Answering.execFlashDieRebuild {channel target : Nat} :
    Answering (Part.fires ++ [Part.fls, .flt]) (isFlashChannel channel && target < 8) u
      (execFlashDieRebuild channel target u) :=
  .act fun h => h.flashDieRebuild

theorem Answering.execStandardInterfaceLoss {interface : StdInterface} :
    Answering (Part.fires ++ [Part.fls, .flt, .mgmt]) interface.wf u (execStandardInterfaceLoss interface u) := by
  unfold Machine.execStandardInterfaceLoss
  refine .actAlways fun h => ?_
  dsimp only
  split
  · exact .fenceChannel h.rest
  · exact h.rest

theorem Touches.spareFloor (h : Touches T s u) (hT : Part.fires ++ [Part.fls] ⊆ T := by decide) :
    Touches T s (spareFloor u) := by
  refine h.then hT fun h => ?_
  unfold Machine.spareFloor
  extract_lets n _ v _
  have hv : Touches _ u v := .ite (.fire h.rest) h
  clear_value v
  exact .ite (.fire hv.rest) hv

theorem Answering.execFlashRebuildComplete {channel : Nat} :
    Answering (Part.fires ++ [Part.fls]) (isFlashChannel channel) u (execFlashRebuildComplete channel u) :=
  .act fun h => .ite (.spareFloor (.setChannelState h.rest)) h

theorem Touches.programFail {n block : Nat} (h : Touches T s u) (hT : Part.fires ++ [Part.fls, .flt] ⊆ T := by decide) :
    Touches T s (programFail u n block) := by
  refine h.then hT fun h => ?_
  unfold Machine.programFail
  extract_lets k e v _ v1 _ v2
  have hv : Touches _ u v := .moveData h.rest
  clear_value v
  have hv1 : Touches _ u v1 := hv.setChannel
  clear_value v1
  have hv2 : Touches _ u v2 := hv1.rest
  clear_value v2
  exact .ite h hv2.logPlain.spareFloor

theorem Answering.execFlashProgramFail {channel block : Nat} :
    Answering (Part.fires ++ [Part.fls, .flt]) (isFlashChannel channel) u (execFlashProgramFail channel block u) :=
  .act fun h => h.programFail

theorem Touches.copyBlock {m k : Nat} (h : Touches T s u) (hT : [.fls] ⊆ T := by decide) :
    Touches T s (copyBlock u m k) :=
  h.then hT fun h => h.moveData.rest

theorem Answering.execWearLevelCopy {memDie : Nat} : Answering [.fls] (memDie < 8) u (execWearLevelCopy memDie u) :=
  .act fun h => .ite h.copyBlock h

theorem Touches.refreshBlock {m k : Nat} (h : Touches T s u) (hT : [.fls] ⊆ T := by decide) :
    Touches T s (refreshBlock u m k) :=
  h.then hT fun h => .copyBlock h.rest

theorem Answering.execRetentionRefresh {memDie block : Nat} :
    Answering (Part.fires ++ [Part.fls, .flt]) (memDie < 8) u (execRetentionRefresh memDie block u) :=
  .act fun h => .ite h.refreshBlock.logPlain h

theorem Answering.execReadDisturbCopy {memDie block : Nat} :
    Answering [.fls] (memDie < 8) u (execReadDisturbCopy memDie block u) :=
  .act fun h => .ite h.refreshBlock h

theorem Touches.setDump {k : Nat} {x : DumpSlot} (h : Touches T s u) (hT : [.fls] ⊆ T := by decide) :
    Touches T s (setDump u k x) :=
  h.then hT fun h => h.rest

theorem Touches.dumpMirror {taken : Bool} (h : Touches T s u)
    (hT : Part.fires ++ [Part.mem, .fls, .flt] ⊆ T := by decide) : Touches T s (dumpMirror u taken) := by
  refine h.then hT fun h => ?_
  unfold Machine.dumpMirror
  extract_lets k v w
  have hw : Touches (Part.fires ++ [Part.mem, .fls, .flt]) u w := h.clear.write.setDump
  clear_value w
  exact .ite h (.ite hw.rest (.logPlain h.rest))

theorem Answering.execDumpMirror {taken : Bool} :
    Answering (Part.fires ++ [Part.mem, .fls, .flt]) true u (execDumpMirror taken u) :=
  .actAlways fun h => h.dumpMirror

end

/-! ### The functions of `Sys2Proof/Machine/Mesh.lean` -/

section
variable {T : List Part} {s u t : State}

theorem Touches.setOut {d o : Nat} {x : OutPort} (h : Touches T s u) (hT : [.mesh] ⊆ T := by decide) :
    Touches T s (u.setOut d o x) :=
  h.then hT fun h => h.rest

theorem Touches.modOut {d o : Nat} {f : OutPort → OutPort} (h : Touches T s u) (hT : [.mesh] ⊆ T := by decide) :
    Touches T s (u.modOut d o f) :=
  h.then hT fun h => h.setOut

theorem Touches.setRouter {d : Nat} {x : Router} (h : Touches T s u) (hT : [.mesh] ⊆ T := by decide) :
    Touches T s (u.setRouter d x) :=
  h.then hT fun h => h.rest

theorem Touches.modRouter {d : Nat} {f : Router → Router} (h : Touches T s u) (hT : [.mesh] ⊆ T := by decide) :
    Touches T s (u.modRouter d f) :=
  h.then hT fun h => h.setRouter

theorem Touches.setPlace {d i : Nat} {ch : Channel} {l : List Held} (h : Touches T s u)
    (hT : [.mesh] ⊆ T := by decide) : Touches T s (setPlace u d i ch l) := by
  refine h.then hT fun h => ?_
  unfold Machine.setPlace
  split
  · exact h.modRouter
  · split
    · exact h.modOut
    · exact h

theorem Touches.leavePlace {d i : Nat} {ch : Channel} {h' : Held} (h : Touches T s u)
    (hT : [.mesh] ⊆ T := by decide) : Touches T s (leavePlace u d i ch h') := by
  refine h.then hT fun h => ?_
  unfold Machine.leavePlace
  dsimp only
  split
  · exact h.setPlace
  · split
    · exact h.setPlace.modOut
    · exact h.setPlace

theorem Touches.settleOut {d o : Nat} (h : Touches T s u) (hT : [.mesh] ⊆ T := by decide) :
    Touches T s (settleOut u d o) := by
  refine h.then hT fun h => ?_
  unfold Machine.settleOut
  split
  · exact h
  · exact h.modOut

theorem Touches.settleAround {d : Nat} (h : Touches T s u) (hT : [.mesh] ⊆ T := by decide) :
    Touches T s (settleAround u d) := by
  refine h.then hT fun h => ?_
  unfold Machine.settleAround
  refine .foldl h fun v a hv => ?_
  dsimp only
  split
  · exact hv.settleOut.settleOut
  · exact hv.settleOut

theorem Touches.countTops {d : Nat} {losers : List (Nat × Held)} (h : Touches T s u)
    (hT : Part.fires ++ [Part.dies] ⊆ T := by decide) : Touches T s (countTops u d losers) :=
  h.then hT fun h => h.countDie

theorem Touches.noteTaken {d : Nat} {p : Packet} (h : Touches T s u) (hT : [.mesh, .banks] ⊆ T := by decide) :
    Touches T s (noteTaken u d p) := by
  refine h.then hT fun h => ?_
  unfold Machine.noteTaken
  split
  · exact .ite h.rest h
  · split
    · exact h.modBank
    · exact h

theorem Touches.takePacket {d : Nat} {p : Packet} (h : Touches T s u) (hT : [.mesh, .banks, .sent] ⊆ T := by decide) :
    Touches T s (takePacket u d p) :=
  h.then hT fun h => .ite h.modRouter (.ite h.rest (.send (.noteTaken (.ite h.rest h))))

theorem Touches.raiseAt {d : Nat} {ch : Channel} {place : Nat → Nat} {losers : List (Nat × Held)} (h : Touches T s u)
    (hT : [.mesh] ⊆ T := by decide) : Touches T s (raiseAt u d ch place losers) :=
  h.then hT fun h => h.foldl fun _ _ hv => hv.setPlace

theorem Touches.serveEnd {d : Nat} {ch : Channel} {e' : Endpoint} (h : Touches T s u)
    (hT : Part.fires ++ [Part.mesh, .dies, .banks] ⊆ T := by decide) : Touches T s (serveEnd u d ch e') := by
  refine h.then hT fun h => ?_
  unfold Machine.serveEnd
  dsimp only
  split
  · exact h
  · exact .ite (h.leavePlace.takePacket.raiseAt.countTops.rest) h

theorem Touches.serveEnds {d : Nat} {ch : Channel} (h : Touches T s u)
    (hT : Part.fires ++ [Part.mesh, .dies, .banks, .hbm] ⊆ T := by decide) : Touches T s (serveEnds u d ch) := by
  refine h.then hT fun h => ?_
  unfold Machine.serveEnds
  dsimp only
  refine .foldl (.ite (h.foldl fun _ _ hv => hv.setStack) h) fun v a hv => ?_
  refine .serveEnd ?_
  split
  · exact hv.setStack
  · exact hv

theorem Touches.deliverOn {d : Nat} {ch : Channel} (h : Touches T s u)
    (hT : Part.fires ++ [Part.mesh, .dies, .banks, .hbm] ⊆ T := by decide) : Touches T s (deliverOn u d ch) :=
  h.then hT fun h => h.serveEnds.foldl fun _ _ hv => hv.foldl fun _ _ hv2 => .ite hv2.leavePlace.takePacket hv2

theorem Touches.issueOne {st : State × List Packet} {p : Packet} (h : Touches T s st.1)
    (hT : [.mesh] ⊆ T := by decide) :
    Touches T s (issueOne st p).1 := by
  refine h.then hT fun h => ?_
  unfold Machine.issueOne
  dsimp only
  split
  · exact h
  · split <;> exact h.rest

theorem Touches.issue {ps : List Packet} (h : Touches T s u) (hT : [.mesh] ⊆ T := by decide) :
    Touches T s (issue u ps) :=
  h.then hT fun h => (Touches.foldlOn Prod.fst (b := (u, [])) h fun _ _ hv => hv.issueOne).rest

theorem Touches.injectOn {d : Nat} {ch : Channel} (h : Touches T s u)
    (hT : Part.fires ++ [Part.mesh, .dies] ⊆ T := by decide) : Touches T s (injectOn u d ch) := by
  refine h.then hT fun h => ?_
  unfold Machine.injectOn
  dsimp only
  split
  · exact h
  · split
    · exact h
    · exact h.modRouter.countTops

theorem Touches.markOne {d o : Nat} {ch : Channel} {b : Option Nat × Held} (h : Touches T s u)
    (hT : Part.fires ++ [Part.mesh, .dies] ⊆ T := by decide) : Touches T s (markOne u d o ch b) := by
  refine h.then hT fun h => ?_
  unfold Machine.markOne
  split
  · exact h
  · dsimp only
    refine .countDie ?_
    split
    · exact h.modRouter
    · exact h.setPlace

theorem Touches.markWait {d o : Nat} {ch : Channel} (h : Touches T s u)
    (hT : Part.fires ++ [Part.mesh, .dies] ⊆ T := by decide) : Touches T s (markWait u d o ch) :=
  h.then hT fun h => h.foldl fun _ _ hv => hv.markOne

theorem Touches.takeHead {d o : Nat} {ch : Channel} {pos : Option Nat} {h' : Held} (h : Touches T s u)
    (hT : Part.fires ++ [Part.mesh, .dies] ⊆ T := by decide) : Touches T s (takeHead u d o ch pos h') := by
  refine h.then hT fun h => ?_
  unfold Machine.takeHead
  split
  · exact h.modRouter
  · exact h.leavePlace.raiseAt.modOut.countTops

theorem Touches.grantOn {d o : Nat} {ch : Channel} (h : Touches T s u) (e : grantOn u d o ch = some t)
    (hT : Part.fires ++ [Part.mesh, .dies] ⊆ T := by decide) : Touches T s t := by
  refine h.then hT fun h => ?_
  unfold Machine.grantOn at e
  split at e
  · cases e
  · split at e
    · cases e
      exact h.takeHead.rest
    · cases e

theorem Touches.serveOut {d o : Nat} (h : Touches T s u) (hT : Part.fires ++ [Part.mesh, .dies] ⊆ T := by decide) :
    Touches T s (serveOut u d o) := by
  refine h.then hT fun h => ?_
  unfold Machine.serveOut
  split
  · exact h
  extract_lets v first second
  have hv : Touches _ u v := h.markWait.markWait
  clear_value v
  split
  · next e => exact hv.grantOn e
  · cases e : Machine.grantOn v d o second with
    | some t => exact hv.grantOn e
    | none => exact hv

theorem Touches.serveRouter {d : Nat} (h : Touches T s u) (hT : Part.fires ++ [Part.mesh, .dies] ⊆ T := by decide) :
    Touches T s (serveRouter u d) :=
  h.then hT fun h => h.foldl fun _ _ hv => hv.serveOut

theorem Touches.packetForward {d : Nat} {ps : List Packet} (h : Touches T s u)
    (hT : Part.fires ++ [Part.mesh, .dies, .banks, .hbm] ⊆ T := by decide) : Touches T s (packetForward u d ps) :=
  h.then hT fun h => h.settleAround.issue.injectOn.injectOn.deliverOn.deliverOn.serveRouter

theorem Answering.execPacketForward {die : Nat} {presented : List Packet} :
    Answering (Part.fires ++ [Part.mesh, .dies, .banks, .hbm])
      (isDie die && presented.all fun p => p.wf && p.src == die) u (execPacketForward die presented u) :=
  .act fun h => h.packetForward

theorem Touches.creditToggle {d o : Nat} {ch : Channel} (h : Touches T s u)
    (hT : Part.fires ++ [Part.mesh, .dies] ⊆ T := by decide) : Touches T s (creditToggle u d o ch) :=
  h.then hT fun h => .ite h h.modOut.serveOut

theorem Answering.execCreditToggle {die out : Nat} {ch : Channel} :
    Answering (Part.fires ++ [Part.mesh, .dies]) (isDie die && isOutput out) u (execCreditToggle die out ch u) :=
  .act fun h => h.creditToggle

theorem Touches.failTransfer {d o : Nat} (h : Touches T s u) (hT : [.mesh] ⊆ T := by decide) :
    Touches T s (failTransfer u d o) := by
  refine h.then hT fun h => ?_
  unfold Machine.failTransfer
  split
  · exact h
  · exact h.modOut.modRouter

theorem Touches.fenceHalf {d o h' : Nat} (h : Touches T s u) (hT : Part.stops ++ [Part.mesh] ⊆ T := by decide) :
    Touches T s (fenceHalf u d o h') := by
  refine h.then hT fun h => ?_
  unfold Machine.fenceHalf
  extract_lets mark near marked whole logged failed both
  have hm : Touches (Part.stops ++ [Part.mesh]) u marked := by
    dsimp only [marked]
    split
    · exact h.modOut.modOut
    · exact h.modOut
  clear_value marked
  have hl : Touches (Part.stops ++ [Part.mesh]) u logged := hm.logOnDie
  clear_value logged
  have hb : Touches (Part.stops ++ [Part.mesh]) u both := by
    dsimp only [both]
    split
    · exact hl.failTransfer.failTransfer
    · exact hl.failTransfer
  clear_value both
  exact .ite (.ite hb hb.fatal) hl.logOnDie

theorem Touches.bridgeTimeout {d o h' : Nat} {passes : Bool} (h : Touches T s u)
    (hT : Part.stops ++ [Part.mesh] ⊆ T := by decide) : Touches T s (bridgeTimeout u d o h' passes) :=
  h.then hT fun h => .ite h (.ite h.setOut h.fenceHalf)

theorem Answering.execBridgeHandshakeTimeout {die out half : Nat} {ch : Channel} {retrainPasses : Bool} :
    Answering (Part.stops ++ [Part.mesh]) (isDie die && isOutput out && half < 2) u
      (execBridgeHandshakeTimeout die out half ch retrainPasses u) :=
  .act fun h => h.bridgeTimeout

theorem Touches.detourSwitch {d : Nat} {ch : Channel} {bridge table order : Nat} (h : Touches T s u)
    (hT : Part.fires ++ [Part.mesh, .dies] ⊆ T := by decide) : Touches T s (detourSwitch u d ch bridge table order) :=
  h.then hT fun h => .ite (.serveRouter h.rest) h

theorem Answering.execDetourTableSwitch {die : Nat} {ch : Channel} {bridge table order : Nat} :
    Answering (Part.fires ++ [Part.mesh, .dies]) (isDie die && bridge < 512) u
      (execDetourTableSwitch die ch bridge table order u) :=
  .act fun h => h.detourSwitch

end

/-! ### The functions of `Sys2Proof/Machine/Scratchpad.lean` -/

section
variable {T : List Part} {s u t : State}

theorem Touches.countBank {b : Nat} {get : Bank → Stat} {put : Bank → Stat → Bank} {n : Nat} (h : Touches T s u)
    (hT : Part.fires ++ [Part.dies, .banks] ⊆ T := by decide) : Touches T s (countBank u b get put n) :=
  h.then hT fun h => .ite h.modBank.dieEvent h.modBank

theorem Touches.doubleBit {b : Nat} {r' : SpdReq} (h : Touches T s u)
    (hT : Part.ended ++ [Part.dies, .banks, .arrays] ⊆ T := by decide) : Touches T s (doubleBit u b r') := by
  refine h.then hT fun h => ?_
  unfold Machine.doubleBit
  dsimp only
  split
  · split
    · exact h.modBank.faultCmdOpen
    · exact h.modBank.logOnDie
  · split
    · split
      · exact .ite h.modBank.faultCmdOpen.modEng.fenceEngine h.modBank.faultCmdOpen.modEng
      · exact .ite h.modBank.logOnDie.modEng.fenceEngine h.modBank.logOnDie.modEng
    · split
      · refine .fenceEngine ?_
        refine .modEng ?_
        split
        · exact h.modBank.faultCmdOpen
        · exact h.modBank.logOnDie
      · refine .modEng ?_
        split
        · exact h.modBank.faultCmdOpen
        · exact h.modBank.logOnDie

theorem Touches.answerReq {before : Bank} {b : Nat} {r' : SpdReq} (h : Touches T s u)
    (hT : Part.ended ++ [Part.dies, .banks, .arrays] ⊆ T := by decide) : Touches T s (answerReq before b u r') := by
  refine h.then hT fun h => ?_
  unfold Machine.answerReq
  split
  · exact .ite h.logOnDie.send h.logOnDie
  · split
    · exact h.doubleBit
    · dsimp only
      split
      · exact .send (.ite h.countBank h)
      · exact .ite h.countBank h

theorem Touches.writeReq {before : Bank} {b : Nat} {r' : SpdReq} (h : Touches T s u)
    (hT : [.banks] ⊆ T := by decide) : Touches T s (writeReq before b u r') := by
  refine h.then hT fun h => ?_
  unfold Machine.writeReq
  split
  · exact h
  · split
    · exact h.modBank
    · exact h

theorem Touches.countReqTops {b : Nat} {lost : List SpdReq} (h : Touches T s u)
    (hT : Part.fires ++ [Part.dies] ⊆ T := by decide) : Touches T s (countReqTops u b lost) :=
  h.then hT fun h => h.countDie

theorem Touches.present {b m : Nat} (h : Touches T s u) (hT : Part.fires ++ [Part.dies, .banks] ⊆ T := by decide) :
    Touches T s (present b u m) := by
  refine h.then hT fun h => ?_
  unfold Machine.present
  dsimp only
  split
  · exact h
  · split
    · split
      · exact h
      · exact h.setBank.countReqTops
    · split
      · exact h
      · exact h.setBank

theorem Touches.handshake {b : Nat} {rs : List SpdReq} (h : Touches T s u)
    (hT : Part.ended ++ [Part.dies, .banks, .arrays] ⊆ T := by decide) : Touches T s (handshake u b rs) := by
  refine h.then hT fun h => ?_
  unfold Machine.handshake
  extract_lets entered presented before order granted lost cut answered written counted tops arrays
  have hp : Touches _ u presented := h.modBank.foldl fun _ _ hv => hv.present
  clear_value presented
  have ha : Touches _ u answered := hp.modBank.foldl fun _ _ hv => hv.answerReq
  clear_value answered
  have hc : Touches _ u counted := .foldl (ha.foldl fun _ _ hv => hv.writeReq) fun _ _ hv => hv.countBank
  clear_value counted
  exact hc.countReqTops.modBank

theorem Answering.execScratchpadHandshake {b : Nat} {requests : List SpdReq} :
    Answering (Part.ended ++ [Part.dies, .banks, .arrays])
      (isBank b && requests.all SpdReq.wf && (b < 768 || requests.all fun r => r.word < 16384)) u
      (execScratchpadHandshake b requests u) :=
  .act fun h => h.handshake

theorem Answering.execBackgroundPassStart {b : Nat} : Answering [.banks] (isBank b) u (execBackgroundPassStart b u) :=
  .act fun h => .ite h h.setBank

theorem Answering.execRegionPhaseEnd {b : Nat} {badRows : List Nat} :
    Answering (Part.ended ++ [Part.dies, .banks, .arrays]) (isBank b) u (execRegionPhaseEnd b badRows u) := by
  unfold Machine.execRegionPhaseEnd
  refine .act fun h => ?_
  dsimp only
  split
  · exact h
  · split
    · exact h
    · exact h.setBank
    · exact .modBank (h.foldl fun _ _ hv => hv.repairRow)
    · exact h.setBank

theorem Touches.testCtrlWrite {p : Port} {die value : Nat} (h : Touches T s u) (hT : [.dies] ⊆ T := by decide) :
    Touches T s (testCtrlWrite u p die value) :=
  h.then hT fun h => .ite h.modDie h

theorem Answering.execSpdTestCtrlWrite {p : Port} {die value : Nat} :
    Answering [.dies, .sent] (isDie die && isWord value) u (execSpdTestCtrlWrite p die value u) :=
  .act fun h => .overBar (fun _ hv => hv.testCtrlWrite) h

theorem Touches.wipeSealed {p : Port} (h : Touches T s u)
    (hT : Part.fires ++ [Part.banks, .sec, .flt, .draws] ⊆ T := by decide) : Touches T s (wipeSealed u p) := by
  refine h.then hT fun h => ?_
  unfold Machine.wipeSealed
  extract_lets b x under old buffer y v v1 v2 _
  have hv : Touches _ u v := h.setBank.modHost
  clear_value v
  have hv1 : Touches _ u v1 := hv.rest
  clear_value v1
  have hv2 : Touches _ u v2 := hv1.logOnDie
  clear_value v2
  exact .ite hv1 (hv2.rest)

end

/-! ### The functions of `Sys2Proof/Machine/Security.lean` -/

section
variable {T : List Part} {s u t : State}

theorem Touches.wipeBoth (h : Touches T s u) (hT : Part.fires ++ [Part.banks, .sec, .flt, .draws] ⊆ T := by decide) :
    Touches T s (wipeBoth u) :=
  h.then hT fun h => h.wipeSealed.wipeSealed

theorem Touches.deriveKeys (h : Touches T s u) (hT : [.hosts] ⊆ T := by decide) : Touches T s (deriveKeys u) := by
  refine h.then hT fun h => ?_
  unfold Machine.deriveKeys
  exact h.modHost.modHost

theorem Touches.moveTo {st : Nat} (h : Touches T s u)
    (hT : Part.fires ++ [Part.dies, .banks, .opx, .sec, .flt, .draws] ⊆ T := by decide) : Touches T s (moveTo u st) :=
  h.then hT fun h => .refreshPairs (.deriveKeys (.fire (h.wipeBoth.rest)))

theorem Touches.destroyHallKey (h : Touches T s u) (hT : Part.fires ++ [Part.dies, .opx, .sec] ⊆ T := by decide) :
    Touches T s (destroyHallKey u) :=
  h.then hT fun h => .refreshPairs h.rest

theorem Touches.secDone {p : Port} {code : Nat} (h : Touches T s u) (hT : Part.fires ++ [Part.sec] ⊆ T := by decide) :
    Touches T s (secDone u p code) :=
  h.then hT fun h => .fire (.modPort h.rest)

theorem Touches.secAnswer {p : Port} {x : SecRes} (h : Touches T s u) (hx : SecTouches T s x)
    (hT : Part.fires ++ [Part.mem, .sec] ⊆ T := by decide) : Touches T s (secAnswer u p x) := by
  unfold Machine.secAnswer
  cases hx with
  | fail => exact h.then hT fun h => h.secDone
  | done ht => exact ht.then hT fun h => h.write.secDone
  | draw => exact h.then hT fun h => .ite h.consumerError.secDone h.setEnt

theorem Touches.secOp {p : Port} {op : Nat} {f : State → List Byte → SecRes} (h : Touches T s u)
    (hf : ∀ v a, Touches T s v → SecTouches T s (f v a)) (hT : Part.fires ++ [Part.mem, .sec] ⊆ T := by decide) :
    Touches T s (secOp u p op f) := by
  unfold Machine.secOp
  split
  · exact h
  · exact .ite h (h.secAnswer (hf _ _ h) hT)

theorem SecTouches.attestOp {p : Port} {b : List Byte} (h : Touches T s u) (hT : [.mem] ⊆ T := by decide) :
    SecTouches T s (attestOp p u b) := by
  refine h.thenSec hT fun h => ?_
  unfold Machine.attestOp
  split
  · exact .fail
  · split
    · exact .fail
    · split
      · exact .fail
      · exact .done h.write

theorem Answering.execAttest {p : Port} : Answering (Part.fires ++ [Part.mem, .sec]) true u (execAttest p u) :=
  .actAlways fun h => h.secOp fun _ _ hv => .attestOp hv

theorem SecTouches.certificateOp {p : Port} {b : List Byte} (h : Touches T s u) (hT : [.mem] ⊆ T := by decide) :
    SecTouches T s (certificateOp p u b) :=
  h.thenSec hT fun h => .ite .fail (.ite .fail (.done h.write))

theorem Answering.execReadCertificate {p : Port} :
    Answering (Part.fires ++ [Part.mem, .sec]) true u (execReadCertificate p u) :=
  .actAlways fun h => h.secOp fun _ _ hv => .certificateOp hv

theorem Touches.putHallKey {wrap iv k : List Byte} {e' : Nat} (h : Touches T s u) (hT : [.sec] ⊆ T := by decide) :
    Touches T s (putHallKey u wrap iv k e') :=
  h.then hT fun h => .ite h.rest h.rest

theorem SecTouches.loadKeyOp {drawn : Option (List Byte)} {p : Port} {b : List Byte} (h : Touches T s u)
    (hT : Part.fires ++ [Part.dies, .banks, .opx, .sec, .flt, .draws] ⊆ T := by decide) :
    SecTouches T s (loadKeyOp drawn p u b) := by
  refine h.thenSec hT fun h => ?_
  obtain ⟨opn, hopn⟩ : ∃ opn, openHallBlob = opn := ⟨_, rfl⟩
  unfold Machine.loadKeyOp
  rw [hopn]
  clear hopn
  refine .ite .fail (.ite .fail (.ite .fail ?_))
  split
  · exact .fail
  · split
    · exact .fail
    · exact .draw
    · exact .done (.refreshPairs (.putHallKey (.ite h.moveTo h)))

theorem SecTouches.withdrawOp {p : Port} {b : List Byte} (h : Touches T s u)
    (hT : Part.fires ++ [Part.dies, .banks, .opx, .sec, .flt, .draws] ⊆ T := by decide) :
    SecTouches T s (withdrawOp p u b) :=
  h.thenSec hT fun h => .ite .fail (.ite .fail (.ite .fail (.done h.moveTo.destroyHallKey)))

theorem Answering.execWithdrawHallKey {p : Port} :
    Answering (Part.fires ++ [Part.mem, .dies, .banks, .opx, .sec, .flt, .draws]) true u (execWithdrawHallKey p u) :=
  .actAlways fun h => h.secOp fun _ _ hv => .withdrawOp hv

theorem Touches.destroyStores (h : Touches T s u) (hT : [.mem, .fls] ⊆ T := by decide) :
    Touches T s (destroyStores u) :=
  h.then hT fun h => .rest (.clear (.clear (h.foldl fun _ _ hv => hv.dropStore)))

theorem SecTouches.returnOp {p : Port} {b : List Byte} (h : Touches T s u)
    (hT : Part.fires ++ [Part.mem, .dies, .banks, .fls, .opx, .sec, .flt, .draws] ⊆ T := by decide) :
    SecTouches T s (returnOp p u b) :=
  h.thenSec hT fun h => .ite .fail (.ite .fail (.ite .fail (.done h.moveTo.destroyHallKey.destroyStores)))

theorem Answering.execReturnModule {p : Port} :
    Answering (Part.fires ++ [Part.mem, .dies, .banks, .fls, .opx, .sec, .flt, .draws]) true u (execReturnModule p u) :=
  .actAlways fun h => h.secOp fun _ _ hv => .returnOp hv

theorem Touches.eraseSeed (h : Touches T s u) (hT : [.sec] ⊆ T := by decide) :
    Touches T s { u with sec := { u.sec with seedErased := true, drawnSeed := none } } :=
  h.then hT fun h => h.rest

theorem SecTouches.scrapOp {p : Port} {b : List Byte} (h : Touches T s u)
    (hT : Part.fires ++ [Part.dies, .banks, .opx, .sec, .flt, .draws] ⊆ T := by decide) :
    SecTouches T s (scrapOp p u b) := by
  refine h.thenSec hT fun h => ?_
  unfold Machine.scrapOp
  exact .ite .fail (.ite .fail (.ite .fail (.ite .fail (.done h.moveTo.destroyHallKey.eraseSeed))))

theorem Answering.execScrap {p : Port} :
    Answering (Part.fires ++ [Part.mem, .dies, .banks, .opx, .sec, .flt, .draws]) true u (execScrap p u) :=
  .actAlways fun h => h.secOp fun _ _ hv => .scrapOp hv

theorem SecTouches.authoriseOp {drawn : Option (List Byte)} {p : Port} {b : List Byte} (h : Touches T s u)
    (hT : Part.fires ++ [Part.dies, .banks, .opx, .sec, .flt, .draws] ⊆ T := by decide) :
    SecTouches T s (authoriseOp drawn p u b) := by
  refine h.thenSec hT fun h => ?_
  unfold Machine.authoriseOp
  generalize slhVerify = verify
  refine .ite .fail (.ite .fail (.ite .fail (.ite .fail (.ite (.done h.moveTo) ?_))))
  split
  · exact .draw
  · exact .done (.moveTo h.rest)

theorem SecTouches.commitOp {p : Port} {b : List Byte} (h : Touches T s u) (hT : [.sec] ⊆ T := by decide) :
    SecTouches T s (commitOp p u b) :=
  h.thenSec hT fun h => .ite .fail (.ite .fail (.ite .fail (.done h.rest)))

theorem Answering.execCommitSvn {p : Port} : Answering (Part.fires ++ [Part.mem, .sec]) true u (execCommitSvn p u) :=
  .actAlways fun h => h.secOp fun _ _ hv => .commitOp hv

theorem Answering.execSecurityRequestInvalid {p : Port} :
    Answering (Part.fires ++ [Part.sec]) true u (execSecurityRequestInvalid p u) := by
  unfold Machine.execSecurityRequestInvalid
  refine .actAlways fun h => ?_
  split
  · exact h
  · exact .ite h.secDone h

theorem Touches.drawFor {p : Port} {op : Nat} {f : Option (List Byte) → State → List Byte → SecRes}
    (h : Touches T s u) (hf : ∀ a v a2, Touches T s v → SecTouches T s (f a v a2))
    (hT : Part.fires ++ [Part.mem, .sec] ⊆ T := by decide) : Touches T s (drawFor u p op f) := by
  unfold Machine.drawFor
  refine .secOp h (fun v a hv => ?_) hT
  split
  · exact .ite (hf _ _ _ (hv.then hT fun h => h.drawBytes)) .draw
  · exact hf _ _ _ hv

theorem Answering.execLoadHallKey {p : Port} :
    Answering (Part.fires ++ [Part.mem, .dies, .banks, .opx, .sec, .flt, .draws]) true u (execLoadHallKey p u) :=
  .actAlways fun h => h.drawFor fun _ _ _ hv => .loadKeyOp hv

theorem Answering.execVendorAuthorisation {p : Port} :
    Answering (Part.fires ++ [Part.mem, .dies, .banks, .opx, .sec, .flt, .draws]) true u
      (execVendorAuthorisation p u) :=
  .actAlways fun h => h.drawFor fun _ _ _ hv => .authoriseOp hv

theorem Touches.keyBlockServed {p : Port} {v' : List Byte} (h : Touches T s u)
    (hT : Part.fires ++ [Part.mem, .dies, .banks, .opx, .sec, .flt, .draws] ⊆ T := by decide) :
    Touches T s (keyBlockServed u p v') := by
  refine h.then hT fun h => ?_
  unfold Machine.keyBlockServed
  split
  · exact h
  · exact .ite (h.secAnswer (.loadKeyOp h)) (.ite (h.secAnswer (.authoriseOp h)) h)

theorem Touches.serveRequest {v' : List Byte} {x : EntRequest} (h : Touches T s u)
    (hT : Part.fires ++ [Part.mem, .dies, .banks, .spin, .opx, .sec, .flt, .draws] ⊆ T := by decide) :
    Touches T s (serveRequest u v' x) := by
  refine h.then hT fun h => ?_
  unfold Machine.serveRequest
  split
  · exact h.keyBlockServed
  · exact h.giveNonce
  · split
    · exact h.setLaunch
    · exact h

theorem Answering.execGeneratorGrant {h' : Port} :
    Answering (Part.fires ++ [Part.mem, .dies, .banks, .spin, .opx, .sec, .flt, .draws]) true u
      (execGeneratorGrant h' u) := by
  unfold Machine.execGeneratorGrant
  refine .actAlways fun h => ?_
  dsimp only
  split
  · exact h.setEnt
  · exact .ite h.setEnt h.setEnt.takeRequest.drawBytes.serveRequest

theorem Touches.requestError {h' : Port} {r' : EntRequest} (h : Touches T s u)
    (hT : Part.ended ++ [Part.sec] ⊆ T := by decide) : Touches T s (requestError h' u r') := by
  refine h.then hT fun h => ?_
  unfold Machine.requestError
  dsimp only
  split
  · exact h.takeRequest.consumerError.secDone
  · exact h.takeRequest.consumerError.modPair
  · exact h.takeRequest.consumerError.faultCmdOpen

theorem Answering.execEntropyStallTimeout {h' : Port} :
    Answering (Part.ended ++ [Part.sec]) true u (execEntropyStallTimeout h' u) := by
  unfold Machine.execEntropyStallTimeout
  refine .actAlways fun h => ?_
  dsimp only
  split
  · exact .ite h.setEnt.requestError h.setEnt
  · exact h.setEnt

theorem Touches.zeroGenerator {h' : Port} (h : Touches T s u) (hT : [.hosts] ⊆ T := by decide) :
    Touches T s (zeroGenerator u h') :=
  h.then hT fun h => h.setEnt

theorem Touches.countHealth {h' : Port} (h : Touches T s u) (hT : Part.fires ⊆ T := by decide) :
    Touches T s (countHealth u h') :=
  h.then hT fun h => .ite h.setEnt.fire h.setEnt

theorem Touches.permanentFault {h' : Port} (h : Touches T s u) (hT : Part.ended ++ [Part.sec] ⊆ T := by decide) :
    Touches T s (permanentFault u h') :=
  h.then hT fun h => h.logOnDie.setEntState.foldl fun _ _ hv => hv.requestError

theorem Touches.healthFailure {h' : Port} {proportion startUp : Bool} (h : Touches T s u)
    (hT : Part.ended ++ [Part.sec] ⊆ T := by decide) : Touches T s (healthFailure u h' proportion startUp) :=
  h.then hT fun h => .ite h (.ite h.zeroGenerator.countHealth.setEnt.logOnDie.permanentFault
    h.zeroGenerator.countHealth.setEnt.logOnDie.setEntState)

theorem Answering.execHealthTestFailure {h' : Port} {proportion startUp : Bool} :
    Answering (Part.ended ++ [Part.sec]) true u (execHealthTestFailure h' proportion startUp u) :=
  .actAlways fun h => h.healthFailure

theorem Answering.execSourceStart {h' : Port} {samples : Vector Byte 128} :
    Answering (Part.ended ++ [Part.sec]) true u (execSourceStart h' samples u) := by
  unfold Machine.execSourceStart
  refine .actAlways fun h => ?_
  dsimp only
  split
  · exact h
  · split
    · exact h.healthFailure
    · exact h.setEnt

theorem Answering.execEntropyBlockReady {h' : Port} {samples : Vector Byte 128} :
    Answering (Part.ended ++ [Part.sec]) true u (execEntropyBlockReady h' samples u) := by
  unfold Machine.execEntropyBlockReady
  refine .actAlways fun h => ?_
  dsimp only
  split
  · exact h
  · split
    · exact h.healthFailure
    · exact h.setEnt.setEntState

theorem Touches.logTamper {inputs : Nat} (h : Touches T s u) (hT : Part.fires ++ [Part.flt] ⊆ T := by decide) :
    Touches T s (logTamper u inputs) :=
  h.then hT fun h => h.foldl fun _ _ hv => .ite hv.logPlain hv

theorem Touches.zeroCipher {k : Nat} (h : Touches T s u) (hT : [.opx] ⊆ T := by decide) :
    Touches T s (zeroCipher u k) :=
  h.then hT fun h => h.modPair

theorem Touches.readTamper {found : Option TamperRecord} (h : Touches T s u) (hT : [.sec] ⊆ T := by decide) :
    Touches T s (readTamper u found) := by
  refine h.then hT fun h => ?_
  unfold Machine.readTamper
  split
  · exact h.rest
  · exact h

theorem Touches.tamper {inputs : Nat} (h : Touches T s u) (hT : Part.stops ++ [Part.banks, .sec] ⊆ T := by decide) :
    Touches T s (tamper u inputs) := by
  refine h.then hT fun h => ?_
  unfold Machine.tamper
  refine .ite h (.ite h.logTamper ?_)
  extract_lets wiped logged count mesh kept ended
  have hw : Touches _ u wiped := h.wipeBoth.zeroGenerator.zeroGenerator.foldl fun _ _ hv => hv.zeroCipher
  clear_value wiped
  have hk : Touches _ u kept := hw.logTamper.rest
  clear_value kept
  exact .fatal (.ite (hk.rest) hk)

theorem Answering.execTamperEvent {inputs : Nat} :
    Answering (Part.stops ++ [Part.banks, .sec]) (decide (inputs < 16)) u (execTamperEvent inputs u) :=
  .actAlways fun h => h.tamper

theorem Touches.tryImages {d : Nat} {l : List (Bool × List Byte)} (h : Touches T s u)
    (hT : Part.fires ++ [Part.flt] ⊆ T := by decide) : Touches T s (tryImages d u l).1 := by
  induction l generalizing u with
  | nil => exact h
  | cons e l ih =>
    unfold Machine.tryImages
    split
    · exact h
    · exact ih (h.logOnDie hT)

theorem Touches.bootDone (h : Touches T s u) (hT : [.ports, .flt] ⊆ T := by decide) : Touches T s (bootDone u) := by
  refine h.then hT fun h => ?_
  unfold Machine.bootDone
  exact .modPort (.modPort h.rest)

theorem Touches.bootFail (h : Touches T s u) (hT : Part.fires ++ [Part.sec, .flt] ⊆ T := by decide) :
    Touches T s (bootFail u) :=
  h.then hT fun h => .bootDone (.logPlain h.rest)

theorem Touches.boot {r0 r1 : FlashReading} (h : Touches T s u)
    (hT : Part.fires ++ [Part.dies, .banks, .opx, .sec, .flt, .draws] ⊆ T := by decide) :
    Touches T s (boot u r0 r1) := by
  refine h.then hT fun h => ?_
  unfold Machine.boot
  split
  · exact h
  · extract_lets a b tried
    have ht : Touches _ u tried := h.tryImages.tryImages
    clear_value tried
    split
    · exact .ite ht.logPlain.bootFail (.refreshPairs (.bootDone (ht.wipeBoth.deriveKeys.rest)))
    · exact ht.bootFail

theorem Answering.execBoot {byH0 byH1 : FlashReading} :
    Answering (Part.fires ++ [Part.dies, .banks, .opx, .sec, .flt, .draws]) true u (execBoot byH0 byH1 u) :=
  .actAlways fun h => h.boot

end

/-! ### The functions of `Sys2Proof/Machine/Events.lean` -/

section
variable {T : List Part} {s u t : State}

theorem Touches.onController {h' : Port} {f : HostDie → HostDie} (h : Touches T s u)
    (hT : [.hosts] ⊆ T := by decide) : Touches T s (onController u h' f) :=
  h.then hT fun h => h.modHost

theorem Answering.execEventMessage {n : Nat} : Answering Part.fires (decide (n < 1024)) u (execEventMessage n u) :=
  .actAlways fun h => .ite h h.fire

theorem Answering.execWireSourceChange {n : Nat} {high : Bool} {samples : Nat} :
    Answering Part.fires (decide (n < 1024)) u (execWireSourceChange n high samples u) :=
  .actAlways fun h => .ite h (.ite (.hostForward (.ite (.hostForward h.rest) h.rest))
    (.ite (.hostForward h.rest) h.rest))

theorem Answering.execEventClaim {h' : Port} {core : Nat} {fast : Bool} :
    Answering [.hosts] (isCore core) u (execEventClaim h' core fast u) := by
  unfold Machine.execEventClaim
  refine .actAlways fun h => ?_
  split
  · exact .ite h.modHost h
  · exact h

theorem Answering.execEventComplete {h' : Port} {core n : Nat} :
    Answering [.hosts] (isCore core && decide (n < 1024)) u (execEventComplete h' core n u) :=
  .actAlways fun h => h.modHost

theorem Touches.takeCount {h' : Port} {n : Nat} {wide : Bool} (h : Touches T s u)
    (hT : [.hosts, .reply] ⊆ T := by decide) : Touches T s (takeCount u h' n wide) := by
  refine h.then hT fun h => ?_
  unfold Machine.takeCount
  extract_lets low high v v1
  have hv : Touches _ u v := h.onController
  clear_value v
  have hv1 : Touches _ u v1 := h.onController
  clear_value v1
  exact .ite hv.rest (hv1.rest)

theorem Touches.hostCountRead {h' : Port} {n : Nat} {wide : Bool} (h : Touches T s u)
    (hT : [.hosts, .reply] ⊆ T := by decide) : Touches T s (hostCountRead u h' n wide) :=
  h.then hT fun h => .ite h.rest (.ite h.rest h.takeCount)

theorem Answering.execEvcCountRead {h' : Port} {n : Nat} {read : CountRead} :
    Answering [.hosts, .reply, .sent] (decide (n < 1024) && (!read.wide || n % 2 == 0)) u
      (execEvcCountRead h' n read u) := by
  unfold Machine.execEvcCountRead
  refine .actAlways fun h => ?_
  split
  · exact .overBar (fun _ hv => hv.hostCountRead) h
  · exact .ite h.takeCount h

theorem Answering.execEvcMaskSet {h' : Port} {k word : Nat} :
    Answering [.hosts] (isWordOf32 k && isWord word) u (execEvcMaskSet h' k word u) :=
  .actAlways fun h => h.modHost

theorem Answering.execEvcMaskClr {h' : Port} {k word : Nat} :
    Answering [.hosts] (isWordOf32 k && isWord word) u (execEvcMaskClr h' k word u) :=
  .actAlways fun h => h.modHost

theorem Touches.pendSet {k word : Nat} (h : Touches T s u) (hT : Part.fires ⊆ T := by decide) :
    Touches T s (pendSet u k word) :=
  h.then hT fun h => h.foldl fun _ _ hv => hv.fire

theorem Answering.execEvcPendSet {who : Port} {k word : Nat} :
    Answering Part.fires (isWordOf32 k && isWord word) u (execEvcPendSet who k word u) :=
  .actAlways fun h => h.pendSet

theorem Answering.execEvcPendClr {h' : Port} {k word : Nat} :
    Answering [.hosts] (isWordOf32 k && isWord word) u (execEvcPendClr h' k word u) :=
  .actAlways fun h => h.onController

theorem Answering.execCoalesceIntervalExpiry {h' : Port} {core : Nat} :
    Answering [.hosts] (isCore core) u (execCoalesceIntervalExpiry h' core u) :=
  .actAlways fun h => .ite h h.modHost

theorem Answering.execCoreSleep {h' : Port} {core : Nat} :
    Answering [.hosts] (isCore core) u (execCoreSleep h' core u) :=
  .actAlways fun h => h.modHost

theorem Answering.execCoreWake {h' : Port} {core : Nat} :
    Answering [.hosts] (isCore core) u (execCoreWake h' core u) :=
  .actAlways fun h => h.modHost

theorem Answering.execLocalTimerCompare {who : Port} {core : Nat} :
    Answering Part.fires (isCore core) u (execLocalTimerCompare who core u) :=
  .actAlways fun h => h.fire

theorem Touches.hostCauseClear {p : Port} {k word : Nat} (h : Touches T s u) (hT : [.ports] ⊆ T := by decide) :
    Touches T s (hostCauseClear u p k word) :=
  h.then hT fun h => h.modPort

theorem Answering.execEvcHostCauseClear {p : Port} {k word : Nat} :
    Answering [.ports, .sent] (isWordOf32 k && isWord word) u (execEvcHostCauseClear p k word u) :=
  .act fun h => .overBar (fun _ hv => hv.hostCauseClear) h

theorem Answering.execDieCauseClear {d word : Nat} : Answering [.dies] (isDie d) u (execDieCauseClear d word u) :=
  .actAlways fun h => h.modDie

theorem Answering.execMsixCoalesceExpiry {p : Port} {v' : Nat} :
    Answering [.ports, .sent] (decide (v' < 2048)) u (execMsixCoalesceExpiry p v' u) :=
  .actAlways fun h => .ite h (.ite h.msixSend h.setPort)

theorem Touches.setVectorMask {p : Port} {v' : Nat} {m : Bool} (h : Touches T s u)
    (hT : [.ports, .sent] ⊆ T := by decide) : Touches T s (setVectorMask u p v' m) :=
  h.then hT fun h => .ite h.setPort.msixSend h.setPort

theorem Answering.execMsixVectorUnmask {p : Port} {v' : Nat} :
    Answering [.ports, .sent] (decide (v' < 2048)) u (execMsixVectorUnmask p v' u) :=
  .act fun h => .overBar (fun _ hv => hv.setVectorMask) h

end

/-! ### The functions of `Sys2Proof/Machine/Frames.lean` -/

section
variable {T : List Part} {s u t : State}

theorem Touches.nextFrame (h : Touches T s u) (hT : Part.ended ⊆ T := by decide) : Touches T s (nextFrame u) := by
  refine h.then hT fun h => ?_
  unfold Machine.nextFrame
  split
  · exact h.rest
  · exact .breakCascade (.logPlain h.rest)

theorem Touches.switchSource (h : Touches T s u) (hT : Part.fires ++ [Part.opx, .flt] ⊆ T := by decide) :
    Touches T s (switchSource u) := by
  refine h.then hT fun h => ?_
  unfold Machine.switchSource
  split
  · exact h
  · exact .ite (.logPlain h.rest) h.rest

theorem Touches.moveStart (h : Touches T s u) (hT : Part.fires ++ [Part.opx] ⊆ T := by decide) :
    Touches T s (moveStart u) :=
  h.then hT fun h => .ite (.ite (.setTiming h.rest) h.rest) h

theorem Touches.holdoverTick (h : Touches T s u) (hT : [.opx] ⊆ T := by decide) : Touches T s (holdoverTick u) :=
  h.then hT fun h => .ite h.rest h

theorem Touches.flowsAfterTransom (h : Touches T s u) (hT : Part.ended ⊆ T := by decide) :
    Touches T s (flowsAfterTransom u) :=
  h.then hT fun h => h.foldl fun _ _ hv => .ite hv.setFlow.breakFlow hv.setFlow

theorem Touches.exchangeBanks (h : Touches T s u) (hT : [.opx] ⊆ T := by decide) : Touches T s (exchangeBanks u) :=
  h.then hT fun h => .moveStreams h.rest

theorem Touches.transom (h : Touches T s u) (hT : Part.ended ⊆ T := by decide) : Touches T s (transom u) :=
  h.then hT fun h => .ite h.exchangeBanks.flowsAfterTransom h

theorem Touches.armDeadline (h : Touches T s u) (hT : Part.ended ⊆ T := by decide) : Touches T s (armDeadline u) := by
  refine h.then hT fun h => ?_
  unfold Machine.armDeadline
  split
  · exact .ite (.faultCmdOpen (h.tellMembers.rest)) h
  · exact h

theorem Touches.hallKeyChange (h : Touches T s u) (hT : Part.fires ++ [Part.dies, .opx, .sec] ⊆ T := by decide) :
    Touches T s (hallKeyChange u) := by
  refine h.then hT fun h => ?_
  unfold Machine.hallKeyChange
  split
  · exact .ite (.refreshPairs h.rest) h
  · exact h

theorem Touches.keyChange {k : Nat} (h : Touches T s u) (hT : Part.ended ++ [Part.dies] ⊆ T := by decide) :
    Touches T s (keyChange u k) := by
  refine h.then hT fun h => ?_
  unfold Machine.keyChange
  dsimp only
  split
  · exact h
  · split
    · exact h.fencePair
    · split
      · exact .ite h.modPair (.ite h.fencePair h.modPair)
      · exact .ite h.fencePair h.modPair

theorem Touches.nonceTime {k : Nat} (h : Touches T s u) (hT : Part.fires ++ [Part.opx] ⊆ T := by decide) :
    Touches T s (nonceTime u k) :=
  h.then hT fun h => .ite h.askNonce h

theorem Touches.takeSlip (h : Touches T s u) (hT : Part.fires ++ [Part.opx] ⊆ T := by decide) :
    Touches T s (takeSlip u) :=
  h.then hT fun h => .ite (.countSlip h.rest) h.rest

theorem Touches.slipCheck (h : Touches T s u) (hT : [.opx] ⊆ T := by decide) : Touches T s (slipCheck u) := by
  refine h.then hT fun h => ?_
  unfold Machine.slipCheck
  dsimp only
  split
  · exact h
  · exact .ite h (.ite h.rest h.rest)

theorem Touches.sendWord {k pos : Nat} {w : Codeword} (h : Touches T s u) (hT : [.sent] ⊆ T := by decide) :
    Touches T s (sendWord u k pos w) :=
  h.then hT fun h => h.send

theorem Touches.sendWords {k pos : Nat} {words : List (Nat × List Byte)} (h : Touches T s u)
    (hT : [.sent] ⊆ T := by decide) : Touches T s (sendWords u k pos words) :=
  h.then hT fun h => h.foldl fun _ _ hv => hv.sendWord

theorem Touches.sendHeader {k : Nat} (h : Touches T s u) (hT : [.opx, .sent] ⊆ T := by decide) :
    Touches T s (sendHeader u k) := by
  refine h.then hT fun h => ?_
  unfold Machine.sendHeader
  split
  · exact h.sendWord.modPair
  · exact h

theorem Touches.sendOpenAt {k slot : Nat} (h : Touches T s u) (hT : [.opx, .sent] ⊆ T := by decide) :
    Touches T s (sendOpenAt k u slot) := by
  refine h.then hT fun h => ?_
  unfold Machine.sendOpenAt
  split
  · exact h
  · split
    · exact h.sendWord.modPair
    · exact h

theorem Touches.sendOpen {k : Nat} (h : Touches T s u) (hT : Part.ended ++ [Part.dies] ⊆ T := by decide) :
    Touches T s (sendOpen u k) :=
  h.then hT fun h => .ite h.modPair (.ite h.modPair.fencePair (h.modPair.foldl fun _ _ hv => hv.sendOpenAt))

theorem Touches.openTime {k : Nat} (h : Touches T s u) (hT : Part.ended ++ [Part.dies] ⊆ T := by decide) :
    Touches T s (openTime u k) :=
  h.then hT fun h => .ite h.modPair h.sendOpen

theorem Touches.remember {k : Nat} {x : SentSlot} (h : Touches T s u) (hT : [.opx] ⊆ T := by decide) :
    Touches T s (remember u k x) :=
  h.then hT fun h => h.modPair

theorem Touches.sendOcc {x : Nat × SchedEntry} (h : Touches T s u) (hT : [.opx, .sent] ⊆ T := by decide) :
    Touches T s (sendOcc u x) := by
  refine h.then hT fun h => ?_
  unfold Machine.sendOcc
  dsimp only
  split
  · exact h
  · split
    · exact h
    · exact h.setTx.sendWords.remember

theorem Touches.sendRepeat {k : Nat} {a : State × List Nat × List (Nat × Nat)} {r : Nat × Nat} (h : Touches T s a.1)
    (hT : Part.fires ++ [Part.opx] ⊆ T := by decide) : Touches T s (sendRepeat k a r).1 := by
  refine h.then hT fun h => ?_
  unfold Machine.sendRepeat
  obtain ⟨v, free, left⟩ := a
  dsimp only
  split
  · exact h
  · split
    · exact Touches.countRepeat (Touches.sendWords (Touches.sendWord h))
    · exact h

theorem Touches.sendRepeats {k : Nat} (h : Touches T s u) (hT : Part.fires ++ [Part.opx] ⊆ T := by decide) :
    Touches T s (sendRepeats u k) := by
  refine h.then hT fun h => ?_
  unfold Machine.sendRepeats
  refine .ite h ?_
  extract_lets due r
  have hr : Touches _ u r.1 := Touches.foldlOn Prod.fst (b := (u, _)) h fun _ _ ha => ha.sendRepeat
  exact hr.modPair

theorem Touches.loseOccurrence {k : Nat} {l : LostSlot} (h : Touches T s u) (hT : [.opx] ⊆ T := by decide) :
    Touches T s (loseOccurrence u k l) :=
  h.then hT fun h => h.modPair

theorem Touches.newFrame {k : Nat} (h : Touches T s u) (hT : [.opx] ⊆ T := by decide) : Touches T s (newFrame u k) :=
  h.then hT fun h => .ite (.modPair (.ite h (h.foldl fun _ _ hv => hv.loseOccurrence))) h

theorem Touches.awaitFrame (h : Touches T s u) (hT : [.opx] ⊆ T := by decide) : Touches T s (awaitFrame u) :=
  h.then hT fun h => .ite h (h.foldl fun _ _ hv => .ite hv hv.modPair)

theorem Touches.frameStart (h : Touches T s u) (hT : Part.ended ++ [Part.dies, .sec] ⊆ T := by decide) :
    Touches T s (frameStart u) := by
  refine h.then hT fun h => ?_
  unfold Machine.frameStart
  extract_lets ticked armed keyed framed checked headers occs
  have hk : Touches _ u keyed :=
    h.nextFrame.switchSource.moveStart.holdoverTick.armDeadline.transom.hallKeyChange.foldl fun _ _ hv => hv.keyChange
  clear_value keyed
  have hf : Touches _ u framed := .foldl (hk.foldl fun _ _ hv => hv.newFrame) fun _ _ hv => hv.nonceTime
  clear_value framed
  have hh : Touches _ u headers := hf.takeSlip.awaitFrame.slipCheck.foldl fun _ _ hv => hv.sendHeader
  clear_value headers
  have ho : Touches _ u occs := .ite hh (hh.foldl fun _ _ hv => hv.sendOcc)
  clear_value occs
  exact ho.foldl fun _ _ hv => hv.sendRepeats.openTime

theorem Answering.execFrameStart : Answering (Part.ended ++ [Part.dies, .sec]) true u (execFrameStart u) :=
  .act fun h => h.frameStart

theorem Touches.laneFails {k lane : Nat} {transmit both : Bool} (h : Touches T s u)
    (hT : Part.ended ++ [Part.dies] ⊆ T := by decide) : Touches T s (laneFails u k lane transmit both) := by
  refine h.then hT fun h => ?_
  unfold Machine.laneFails
  extract_lets x spare v _ v1 v2
  have hv : Touches _ u v := h.modPair
  clear_value v
  have hv1 : Touches _ u v1 := hv.rest
  clear_value v1
  have hv2 : Touches _ u v2 := hv1.setPairState.logOnPair
  clear_value v2
  exact .ite h (.ite h.fencePair (.ite h (.ite hv2 (.ite hv2.openSend hv2.modPair.send))))

theorem Answering.execLaneFailure {die pair lane : Nat} {why : LaneFault} {both : Bool} :
    Answering (Part.ended ++ [Part.dies]) (isPair die pair && lane < 9) u (execLaneFailure die pair lane why both u) :=
  .act fun h => .ite h.laneFails h

theorem Touches.wordIn {k : Nat} {lanes : List (List Nat)} {r : Option Codeword × State} (h : Touches T s u)
    (e : wordIn u k lanes = r) (hT : Part.fires ++ [Part.dies, .opx] ⊆ T := by decide) : Touches T s r.2 := by
  refine h.then hT fun h => ?_
  subst e
  unfold Machine.wordIn
  dsimp only
  split
  · dsimp only
    exact h.modPair
  · dsimp only
    exact .modPair (.ite h h.countDie)

theorem Touches.lateToken {k : Nat} (h : Touches T s u) (hT : Part.ended ⊆ T := by decide) :
    Touches T s (lateToken u k) :=
  h.then hT fun h => .ite h.violation (.breakCascade (h.violation.rest))

theorem Touches.takeToken {k f : Nat} (h : Touches T s u) (hT : Part.ended ⊆ T := by decide) :
    Touches T s (takeToken k u f) :=
  h.then hT fun h => .ite h (.ite h.lateToken h.rest)

theorem Touches.takeLane {k lane : Nat} (h : Touches T s u) (hT : Part.fires ++ [Part.dies, .opx] ⊆ T := by decide) :
    Touches T s (takeLane u k lane) := by
  refine h.then hT fun h => ?_
  unfold Machine.takeLane
  split
  · exact h
  · extract_lets v _ v1
    have hv : Touches _ u v := h.modPair
    clear_value v
    have hv1 : Touches _ u v1 := hv.rest
    clear_value v1
    exact .ite hv hv1.modPair.setPairState

theorem Touches.headerTaken {k : Nat} {h' : FrameHeader} (h : Touches T s u)
    (hT : Part.ended ++ [Part.dies] ⊆ T := by decide) : Touches T s (headerTaken u k h') := by
  refine h.then hT fun h => ?_
  unfold Machine.headerTaken
  extract_lets acked taken
  have ht : Touches _ u taken := h.modPair.takeLane.foldl fun _ _ hv => hv.takeToken
  clear_value taken
  exact .ite ht.sendOpen ht

theorem Touches.headerIn {k : Nat} {b : List Byte} (h : Touches T s u)
    (hT : Part.ended ++ [Part.dies] ⊆ T := by decide) : Touches T s (headerIn u k b) := by
  refine h.then hT fun h => ?_
  unfold Machine.headerIn
  dsimp only
  split
  · exact h.violation
  · refine .headerTaken ?_
    split
    · exact h.violation.modPair.foldl fun _ _ hv => hv.breakFlow
    · exact h.modPair

theorem Touches.headerReceived {k : Nat} {lanes : List (List Nat)} (h : Touches T s u)
    (hT : Part.ended ++ [Part.dies] ⊆ T := by decide) : Touches T s (headerReceived u k lanes) := by
  refine h.then hT fun h => ?_
  unfold Machine.headerReceived
  refine .ite h ?_
  split
  · next e =>
    have hv := h.wordIn e
    exact .ite hv.headerIn (.ite hv.violation hv)
  · next e => exact h.wordIn e

theorem Answering.execFrameHeaderReceived {die pair : Nat} {lanes : List (List Nat)} :
    Answering (Part.ended ++ [Part.dies]) (isPair die pair && lanesWf lanes) u
      (execFrameHeaderReceived die pair lanes u) :=
  .act fun h => h.headerReceived

theorem Touches.deliver {x : HeldSlot} (h : Touches T s u) (hT : [.opx] ⊆ T := by decide) :
    Touches T s (deliver u x) :=
  h.then hT fun h => .ite h (.ite h.setRx h.setRx.handOverFrom)

theorem Touches.flushHeld {fuel : Nat} (h : Touches T s u) (hT : [.opx] ⊆ T := by decide) :
    Touches T s (flushHeld fuel u) := by
  induction fuel generalizing u with
  | zero => exact h
  | succ fuel ih =>
    unfold Machine.flushHeld
    split
    · exact h
    · exact ih (.deliver (h.then hT fun h => h.rest) hT)

theorem Touches.meetArrived {flow : Nat} (h : Touches T s u) (hT : Part.ended ⊆ T := by decide) :
    Touches T s (meetArrived u flow) := by
  refine h.then hT fun h => ?_
  unfold Machine.meetArrived
  split
  · exact h
  · exact h.withLaunch fun _ _ _ => .ite h.meetHeaders h

theorem Touches.flushFlow {flow : Nat} (h : Touches T s u) (hT : Part.ended ⊆ T := by decide) :
    Touches T s (flushFlow u flow) :=
  h.then hT fun h => h.flushHeld.meetArrived

theorem Touches.accept {x : HeldSlot} (h : Touches T s u) (hT : Part.ended ⊆ T := by decide) :
    Touches T s (accept u x) :=
  h.then hT fun h => .flushFlow h.rest

theorem Touches.endOcc {k : Nat} {l : LostSlot} (h : Touches T s u) (hT : Part.ended ⊆ T := by decide) :
    Touches T s (endOcc u k l) := by
  refine h.then hT fun h => ?_
  unfold Machine.endOcc
  dsimp only
  split
  · exact h.modPair.modPair.flushFlow
  · split
    · exact h.modPair.loseOccurrence
    · split
      · exact h.modPair.violation.loseOccurrence
      · exact h.modPair.modPair.modPair.accept

theorem Touches.takeCodeword {k : Nat} {l : LostSlot} {i : Nat} {w : Option Codeword} (h : Touches T s u)
    (hT : Part.ended ⊆ T := by decide) : Touches T s (takeCodeword u k l i w) :=
  h.then hT fun h => .ite h.modPair.endOcc h.modPair

theorem Touches.labelIn {k pos : Nat} {b : List Byte} (h : Touches T s u)
    (hT : Part.fires ++ [Part.opx, .flt] ⊆ T := by decide) : Touches T s (labelIn u k pos b) := by
  refine h.then hT fun h => ?_
  unfold Machine.labelIn
  split
  · exact h.violation
  · split
    · exact .ite h.modPair.countRepeat h.violation
    · exact h.violation

theorem Touches.scheduledIn {k pos : Nat} {w : Option Codeword} (h : Touches T s u)
    (hT : Part.ended ⊆ T := by decide) : Touches T s (scheduledIn u k pos w) := by
  refine h.then hT fun h => ?_
  unfold Machine.scheduledIn
  split
  · exact h.takeCodeword
  · exact .ite h.labelIn (.ite h.violation h)
  · exact h

theorem Touches.takeImage {k : Nat} {img : List Byte} (h : Touches T s u) (hT : [.opx] ⊆ T := by decide) :
    Touches T s (takeImage u k img) := by
  refine h.then hT fun h => ?_
  unfold Machine.takeImage
  dsimp only
  split
  · exact h.openSend
  · exact .ite h.openSend (.openSend h.rest)

theorem Touches.takeImagePart {k : Nat} {b : List Byte} (h : Touches T s u) (hT : [.opx] ⊆ T := by decide) :
    Touches T s (takeImagePart u k b) :=
  h.then hT fun h => .ite h (.ite h.modPair.takeImage h.modPair)

theorem Touches.takeArm {k v' f : Nat} (h : Touches T s u) (hT : [.opx] ⊆ T := by decide) :
    Touches T s (takeArm u k v' f) :=
  h.then hT fun h => .ite (.openSend h.rest) h

theorem Touches.takeLoaded {m v' code detail : Nat} (h : Touches T s u) (hT : Part.ended ⊆ T := by decide) :
    Touches T s (takeLoaded u m v' code detail) := by
  refine h.then hT fun h => ?_
  unfold Machine.takeLoaded
  extract_lets _ loaded
  have hl : Touches _ u loaded := .ite h.rest h
  clear_value loaded
  split
  · exact .ite hl.finishCmd (.ite hl.faultCmd hl.faultCmdOpen)
  · exact hl

theorem Touches.takeArmed {m v' : Nat} (h : Touches T s u) (hT : Part.ended ⊆ T := by decide) :
    Touches T s (takeArmed u m v') := by
  refine h.then hT fun h => ?_
  unfold Machine.takeArmed
  split
  · exact h
  · dsimp only
    split
    · exact .ite (.finishCmd h.rest) h.rest
    · exact h.rest

theorem Touches.takeMessage {k : Nat} {x : OpenMessage} (h : Touches T s u)
    (hT : Part.ended ++ [Part.dies] ⊆ T := by decide) : Touches T s (takeMessage u k x) := by
  refine h.then hT fun h => ?_
  unfold Machine.takeMessage
  split
  · exact h.modPair
  · exact h.takeImagePart
  · exact h.takeArm
  · exact .ite h.rest h
  · exact .ite h.takeArmed h
  · exact .ite h.takeLoaded h
  · exact h.laneFails
  · exact h.violation

theorem Touches.flushOpen {k type fuel : Nat} (h : Touches T s u) (hT : Part.ended ++ [Part.dies] ⊆ T := by decide) :
    Touches T s (flushOpen k type fuel u) := by
  induction fuel generalizing u with
  | zero => exact h
  | succ fuel ih =>
    unfold Machine.flushOpen
    dsimp only
    split
    · exact h
    · exact ih (h.then hT fun h => h.modPair.takeMessage)

theorem Touches.messageIn {k slot : Nat} {text : List Byte} (h : Touches T s u)
    (hT : Part.ended ++ [Part.dies] ⊆ T := by decide) : Touches T s (messageIn u k slot text) :=
  h.then hT fun h => .ite h.modPair.modPair.flushOpen h.modPair

theorem Touches.openIn {k slot : Nat} {w : Codeword} (h : Touches T s u)
    (hT : Part.ended ++ [Part.dies] ⊆ T := by decide) : Touches T s (openIn u k slot w) := by
  refine h.then hT fun h => ?_
  unfold Machine.openIn
  split
  · split
    · exact h.messageIn
    · exact h.violation
  · exact .ite h.violation h

theorem Touches.openReceived {k slot : Nat} {lanes : List (List Nat)} (h : Touches T s u)
    (hT : Part.ended ++ [Part.dies] ⊆ T := by decide) : Touches T s (openReceived u k slot lanes) := by
  refine h.then hT fun h => ?_
  unfold Machine.openReceived
  refine .ite h ?_
  split
  · next e => exact (h.wordIn e).openIn
  · next e => exact h.wordIn e

theorem Answering.execOpenSlotMessage {die pair slot : Nat} {lanes : List (List Nat)} :
    Answering (Part.ended ++ [Part.dies]) (isPair die pair && slot < 16 && lanesWf lanes) u
      (execOpenSlotMessage die pair slot lanes u) :=
  .act fun h => h.openReceived

theorem Touches.codewordReceived {k pos : Nat} {lanes : List (List Nat)} (h : Touches T s u)
    (hT : Part.ended ++ [Part.dies] ⊆ T := by decide) : Touches T s (codewordReceived u k pos lanes) := by
  refine h.then hT fun h => ?_
  unfold Machine.codewordReceived
  refine .ite h.headerReceived (.ite h.openReceived (.ite h ?_))
  split
  next e => exact (h.wordIn e).scheduledIn

theorem Answering.execCodewordReceived {die pair position : Nat} {lanes : List (List Nat)} :
    Answering (Part.ended ++ [Part.dies]) (isPair die pair && lanesWf lanes) u
      (execCodewordReceived die pair position lanes u) :=
  .act fun h => h.codewordReceived

theorem Answering.execRepeatWindowExpired {die pair position : Nat} :
    Answering (Part.ended ++ [Part.dies]) (isPair die pair) u (execRepeatWindowExpired die pair position u) :=
  .act fun h => .ite h.fencePair h

theorem Touches.tryLock {x3 : Bool} {frame : Nat} (h : Touches T s u) (hT : Part.fires ++ [Part.opx] ⊆ T := by decide) :
    Touches T s (tryLock u x3 frame) :=
  h.then hT fun h => .ite (h.setTiming.rest) h

theorem Touches.tryRelock {x3 : Bool} {frame phasePs : Nat} (h : Touches T s u) (hT : [.opx] ⊆ T := by decide) :
    Touches T s (tryRelock u x3 frame phasePs) :=
  h.then hT fun h => .ite h.rest h

theorem Touches.chooseSource (h : Touches T s u) (hT : [.opx] ⊆ T := by decide) : Touches T s (chooseSource u) :=
  h.then hT fun h => .ite h (.ite h.rest (.ite h.rest h.rest))

theorem Touches.markerReceived {x3 : Bool} {frame periodPs phasePs : Nat} (h : Touches T s u)
    (hT : Part.fires ++ [Part.opx] ⊆ T := by decide) : Touches T s (markerReceived u x3 frame periodPs phasePs) :=
  h.then hT fun h => .chooseSource (.tryRelock (.tryLock (.ite (.setTiming h.rest) h.rest)))

theorem Answering.execMarkerReceived {x3 : Bool} {frame periodPs phasePs : Nat} :
    Answering (Part.fires ++ [Part.opx]) true u (execMarkerReceived x3 frame periodPs phasePs u) :=
  .act fun h => h.markerReceived

theorem Touches.markerMissing {x3 : Bool} (h : Touches T s u) (hT : Part.fires ++ [Part.opx, .flt] ⊆ T := by decide) :
    Touches T s (markerMissing u x3) :=
  h.then hT fun h => .ite (.logPlain (.setTiming h.rest)) (.chooseSource h.rest)

theorem Answering.execMarkerMissing {x3 : Bool} :
    Answering (Part.fires ++ [Part.opx, .flt]) true u (execMarkerMissing x3 u) :=
  .act fun h => h.markerMissing

theorem Answering.execHoldoverLimit : Answering (Part.fires ++ [Part.opx, .flt]) true u (execHoldoverLimit u) :=
  .act fun h => .ite h.setTiming.logPlain h

theorem Answering.execCalibration {die tempC : Nat} : Answering [.opx] (die < 6) u (execCalibration die tempC u) :=
  .act fun h => h.rest

theorem Touches.frameWrite {p : Port} {value : Nat} (h : Touches T s u) (hT : [.opx] ⊆ T := by decide) :
    Touches T s (frameWrite u p value) :=
  h.then hT fun h => .ite h.rest h

theorem Answering.execOpxFrameWrite {p : Port} {value : Nat} :
    Answering [.opx, .sent] (isWord value) u (execOpxFrameWrite p value u) :=
  .act fun h => .overBar (fun _ hv => hv.frameWrite) h

theorem Touches.cascadeWrite {p : Port} {value : Nat} (h : Touches T s u) (hT : [.opx] ⊆ T := by decide) :
    Touches T s (cascadeWrite u p value) :=
  h.then hT fun h => .ite h.rest h

theorem Answering.execOpxCascadeWrite {p : Port} {value : Nat} :
    Answering [.opx, .sent] (isWord value) u (execOpxCascadeWrite p value u) :=
  .act fun h => .overBar (fun _ hv => hv.cascadeWrite) h

theorem Touches.pairRetrain {p : Port} {die pair value : Nat} (h : Touches T s u)
    (hT : Part.fires ++ [Part.dies, .opx] ⊆ T := by decide) : Touches T s (pairRetrain u p die pair value) :=
  h.then hT fun h => .ite (.ite h.bringUp h.refreshPair) h

theorem Answering.execOpxPairRetrain {p : Port} {die pair value : Nat} :
    Answering (Part.fires ++ [Part.dies, .opx]) (isPair die pair && isWord value) u
      (execOpxPairRetrain p die pair value u) :=
  .act fun h => .overBar (fun _ hv => hv.pairRetrain) h

theorem Answering.execLinkNonceRetry {die pair : Nat} :
    Answering (Part.fires ++ [Part.opx]) (isPair die pair) u (execLinkNonceRetry die pair u) :=
  .act fun h => .ite h.modPair.askNonce h

end

/-! ### The functions of `Sys2Proof/Machine/Problem.lean` -/

section
variable {T : List Part} {s u t : State}

theorem Touches.writeReport {q : Queue} {x : Source84} {p : Problem} (h : Touches T s u)
    (e : writeReport u q x p = .ok t) (hT : [.mem, .hbm, .draws] ⊆ T := by decide) : Touches T s t := by
  refine h.then hT fun h => ?_
  unfold Machine.writeReport at e
  split at e
  · cases e
    exact h.rest
  · exact .writeVa h.rest e

theorem DoneTouches.loadBody {x : Cmd} {q : Queue} (h : Touches T s u)
    (hT : [.mem, .spin, .hbm, .draws] ⊆ T := by decide) : DoneTouches T s (loadBody u x q) := by
  refine h.thenDone hT fun h => ?_
  unfold Machine.loadBody
  refine .within fun a _ => .within fun a _ => ?_
  split
  · exact .stop
  · refine .within fun a he3 => ?_
    refine .within fun _ he4 => ?_
    extract_lets v _
    have hv : Touches _ u v := .setProblem (h.writeReport he4)
    clear_value v
    exact .ok hv.rest

theorem Answering.execLoad {c : Nat} : Answering Part.ended true u (execLoad c u) :=
  .act fun h => h.runCmd fun _ _ _ hv => .loadBody hv

theorem DoneTouches.rescaleBody {x : Cmd} {q : Queue} (h : Touches T s u)
    (hT : [.mem, .spin, .hbm, .draws] ⊆ T := by decide) : DoneTouches T s (rescaleBody u x q) :=
  h.thenDone hT fun h =>
    .within fun _ _ => .within fun _ _ => .within fun _ _ => .within fun _ _ => .within fun _ _ => .within
      fun _ he6 =>
    .ok (.setProblem (h.writeReport he6))

theorem Answering.execRescale {c : Nat} : Answering Part.ended true u (execRescale c u) :=
  .act fun h => h.runCmd fun _ _ _ hv => .rescaleBody hv

theorem DoneTouches.updateBody {x : Cmd} {q : Queue} (h : Touches T s u) (hT : [.spin] ⊆ T := by decide) :
    DoneTouches T s (updateBody u x q) :=
  h.thenDone hT fun h =>
    .within fun _ _ => .within fun _ _ => .within fun _ _ => .within fun _ _ => .within fun _ _ => .within fun _ _ =>
    .within fun _ _ => .ok h.setProblem

theorem Answering.execUpdate {c : Nat} : Answering Part.ended true u (execUpdate c u) :=
  .act fun h => h.runCmd fun _ _ _ hv => .updateBody hv

theorem DoneTouches.freeBody {x : Cmd} {q : Queue} (h : Touches T s u) (hT : [.spin] ⊆ T := by decide) :
    DoneTouches T s (freeBody u x q) :=
  h.thenDone hT fun h => .within fun _ _ => .within fun _ _ => .ok h.rest

theorem Answering.execFree {c : Nat} : Answering Part.ended true u (execFree c u) :=
  .act fun h => h.runCmd fun _ _ _ hv => .freeBody hv

theorem DoneTouches.energyBody {x : Cmd} {q : Queue} (h : Touches T s u) (hT : [.mem, .hbm, .draws] ⊆ T := by decide) :
    DoneTouches T s (energyBody u x q) :=
  h.thenDone hT fun h =>
    .within fun _ _ => .within fun _ _ => .within fun _ _ => .within fun _ _ => .within fun _ he5 => .ok
    (.writeVa h.rest he5)

theorem Answering.execEnergy {c : Nat} : Answering Part.ended true u (execEnergy c u) :=
  .act fun h => h.runCmd fun _ _ _ hv => .energyBody hv

end

/-! ### The functions of `Sys2Proof/Machine/Neural.lean` -/

section
variable {T : List Part} {s u t : State}

theorem DoneTouches.registerBody {x : Cmd} {q : Queue} (h : Touches T s u) (hT : [.spin] ⊆ T := by decide) :
    DoneTouches T s (registerBody u x q) := by
  refine h.thenDone hT fun h => ?_
  unfold Machine.registerBody
  dsimp only
  refine .within fun a _ => .within fun a _ => ?_
  split
  · exact .ok h.setProblem
  · refine .within fun a he3 => ?_
    refine .within fun _ _ => .within fun _ _ => .within fun _ _ => .within fun _ _ => .within fun _ _ => ?_
    split
    · exact .stop
    · exact .within fun _ _ => .ok h.setProblem

theorem Answering.execRegisterNeuralTerm {c : Nat} : Answering Part.ended true u (execRegisterNeuralTerm c u) :=
  .act fun h => h.runCmd fun _ _ _ hv => .registerBody hv

end

/-! ### The functions of `Sys2Proof/Machine/Reset.lean` -/

section
variable {T : List Part} {s u t : State}

theorem Touches.logIdxWrite {p : Port} {n : Nat} (h : Touches T s u) (hT : [.ports] ⊆ T := by decide) :
    Touches T s (logIdxWrite u p n) :=
  h.then hT fun h => h.modPort

theorem Answering.execFltLogReadIdxWrite {p : Port} {n : Nat} :
    Answering [.ports, .sent] (isWord n) u (execFltLogReadIdxWrite p n u) :=
  .act fun h => .overBar (fun _ hv => hv.logIdxWrite) h

theorem Touches.countViolation {p : Port} (h : Touches T s u) (hT : Part.fires ⊆ T := by decide) :
    Touches T s (countViolation u p) :=
  h.then hT fun h => h.countPort

theorem Touches.readFault {p : Port} {r' : HostRead} {code : Nat} (h : Touches T s u)
    (hT : Part.ended ⊆ T := by decide) : Touches T s (readFault u p r' code) := by
  refine h.then hT fun h => ?_
  unfold Machine.readFault
  split
  · exact h.countViolation.faultCmd
  · exact h.pcieViolation

theorem Touches.aerReport {p : Port} {code : Nat} (h : Touches T s u)
    (hT : [.ports, .sent, .draws] ⊆ T := by decide) : Touches T s (aerReport u p code) :=
  h.then hT fun h => .send (h.modPort.rest)

theorem Touches.readLost {p : Port} {tag : Nat} (h : Touches T s u) (hT : Part.ended ⊆ T := by decide) :
    Touches T s (readLost u p tag) := by
  refine h.then hT fun h => ?_
  unfold Machine.readLost
  split
  · exact h
  · exact .ite h.modPort h.modPort.readFault

theorem Touches.readAnswered {p : Port} {tag : Nat} {poisoned : Bool} {status : Nat} (h : Touches T s u)
    (hT : Part.ended ⊆ T := by decide) : Touches T s (readAnswered u p tag poisoned status) := by
  refine h.then hT fun h => ?_
  unfold Machine.readAnswered
  split
  · exact .ite h.modPort (.ite h.modPort.readFault (.ite h.modPort.readFault h.modPort))
  · exact h.modPort.pcieViolation.aerReport

theorem Touches.tlpReceived {p : Port} {x : Tlp} (h : Touches T s u) (hT : Part.ended ⊆ T := by decide) :
    Touches T s (tlpReceived u p x) := by
  refine h.then hT fun h => ?_
  unfold Machine.tlpReceived
  split
  · dsimp only
    split
    · exact h.pcieViolation.aerReport.readLost
    · exact h.pcieViolation.aerReport
  · exact h.readAnswered
  · exact .overBar (fun _ hv => hv.pcieViolation) h
  · exact .overBar (fun _ hv => .ite hv.pcieViolation.send hv.pcieViolation) h
  · exact h.pcieViolation.atsCompletion
  · exact h.pcieViolation.invalidate
  · exact h.pcieViolation

theorem Answering.execPcieTlpReceived {p : Port} {tlp : Tlp} :
    Answering Part.ended true u (execPcieTlpReceived p tlp u) :=
  .actAlways fun h => .ite h.tlpReceived h

theorem Answering.execPcieCompletionTimeout {p : Port} {tag : Nat} :
    Answering Part.ended true u (execPcieCompletionTimeout p tag u) :=
  .actAlways fun h => h.readLost

theorem Answering.execPcieTagWithholdExpiry {p : Port} {tag : Nat} :
    Answering [.ports] true u (execPcieTagWithholdExpiry p tag u) :=
  .actAlways fun h => h.modPort

theorem Answering.execPostedCreditsWithheld {p : Port} :
    Answering (Part.fires ++ [Part.qfe, .flt]) true u (execPostedCreditsWithheld p u) := by
  unfold Machine.execPostedCreditsWithheld
  refine .act fun h => ?_
  dsimp only
  refine .foldl h.modPort.pcieViolation fun v a hv => ?_
  split
  · exact .ite hv hv.queueStop
  · exact hv

theorem Touches.stopQueues {p : Port} (h : Touches T s u) (hT : [.cmds, .qfe, .ports, .sent] ⊆ T := by decide) :
    Touches T s (stopQueues u p) := by
  refine h.then hT fun h => ?_
  unfold Machine.stopQueues
  refine .foldl h fun v a hv => ?_
  split
  · exact .foldl (.ite hv.setQueue hv.setQueue.queueStop) fun _ _ hv2 => hv2.startShutter
  · exact hv

theorem Answering.execPortLinkDown {p : Port} :
    Answering (Part.fires ++ [Part.mem, .cmds, .qfe, .hbm, .flt]) true u (execPortLinkDown p u) :=
  .actAlways fun h => .ite h h.modPort.logOnPort.stopQueues.finishDue

theorem Answering.execD3hotTransition {p : Port} :
    Answering [.cmds, .qfe, .ports, .sent] true u (execD3hotTransition p u) :=
  .actAlways fun h => .ite h h.modPort.stopQueues

theorem Touches.resumeEnds {p : Port} (h : Touches T s u) (hT : Part.tasked ⊆ T := by decide) :
    Touches T s (resumeEnds u p) :=
  h.then hT fun h => h.foldl fun _ _ hv => hv.endTask

theorem Touches.writeHeld {p : Port} (h : Touches T s u) (hT : Part.tasked ⊆ T := by decide) :
    Touches T s (writeHeld u p) := by
  refine h.then hT fun h => ?_
  unfold Machine.writeHeld
  refine .foldl h fun v a hv => ?_
  split
  · exact hv.flushRecords
  · exact hv

theorem Touches.sendPending {p : Port} (h : Touches T s u) (hT : [.ports, .sent] ⊆ T := by decide) :
    Touches T s (sendPending u p) :=
  h.then hT fun h => h.foldl fun _ _ hv => hv.setVectorMask

theorem Touches.sendHeld {p : Port} (h : Touches T s u) (hT : [.ports, .sent] ⊆ T := by decide) :
    Touches T s (sendHeld u p) :=
  h.then hT fun h => h.modPort.rest

theorem Touches.resumePort {p : Port} (h : Touches T s u) (hT : Part.tasked ⊆ T := by decide) :
    Touches T s (resumePort u p) :=
  h.then hT fun h => .ite h.sendHeld.writeHeld.resumeEnds.sendPending.finishDue h

theorem Answering.execPortLinkUp {p : Port} : Answering Part.tasked true u (execPortLinkUp p u) :=
  .actAlways fun h => .ite h h.modPort.resumePort

theorem Answering.execD3hotExit {p : Port} : Answering Part.tasked true u (execD3hotExit p u) :=
  .actAlways fun h => h.modPort.resumePort

theorem Answering.execBusMasterEnableChange {p : Port} {on memory parity serr : Bool} {msix : MsixControl}
    {words : List (Nat × Nat)} :
    Answering Part.tasked true u (execBusMasterEnableChange p on memory parity serr msix words u) :=
  .actAlways fun h => .ite h h.modPort.resumePort

theorem Answering.execHostDieLost {lost : Port} : Answering Part.stops true u (execHostDieLost lost u) :=
  .act fun h => .fatal h.rest

theorem Touches.failRequests {p : Port} (h : Touches T s u)
    (hT : Part.fires ++ [Part.qfe, .hbm, .sec] ⊆ T := by decide) : Touches T s (failRequests u p) := by
  refine h.then hT fun h => ?_
  unfold Machine.failRequests
  extract_lets x setup map sec end_ v _ v1 _ v2 _
  have hv : Touches _ u v := h.setPort
  clear_value v
  have hv1 : Touches _ u v1 := .ite (.fire hv.rest) hv
  clear_value v1
  have hv2 : Touches _ u v2 := .ite (.fire (hv1.rest)) hv1
  clear_value v2
  exact .ite (.fire (hv2.rest)) hv2

theorem Touches.warnPort {requester : Nat} {p : Port} (h : Touches T s u) (hT : [.ports] ⊆ T := by decide) :
    Touches T s (warnPort requester u p) :=
  h.then hT fun h => h.modPort

theorem Touches.beginReset {requester : Nat} (h : Touches T s u)
    (hT : Part.fires ++ [Part.qfe, .hbm, .sec, .flt] ⊆ T := by decide) : Touches T s (beginReset u requester) := by
  refine h.then hT fun h => ?_
  unfold Machine.beginReset
  extract_lets _ begun failed warned told
  have hw : Touches _ u warned := .warnPort (.warnPort (.failRequests (.failRequests h.rest)))
  clear_value warned
  have ht : Touches _ u told := .ite hw.msixTrigger hw
  clear_value told
  exact .ite ht.msixTrigger ht

theorem Touches.killStep (h : Touches T s u)
    (hT : [.mem, .cmds, .jobs, .ports, .spin, .grf, .hbm, .fls, .opx, .flt, .draws] ⊆ T := by decide) :
    Touches T s (killStep u) :=
  h.then hT fun h => h.killAll.rest

theorem Touches.resetAck {p : Port} (h : Touches T s u)
    (hT : [.mem, .cmds, .jobs, .ports, .spin, .grf, .hbm, .fls, .opx, .flt, .draws] ⊆ T := by decide) :
    Touches T s (resetAck u p) :=
  h.then hT fun h => .ite h (.ite (.killStep h.rest) h.rest)

theorem Touches.resetRequest {p : Port} {key : Nat} (h : Touches T s u)
    (hT : Part.stops ++ [Part.qfe, .sec] ⊆ T := by decide) : Touches T s (resetRequest u p key) :=
  h.then hT fun h => .ite h (.ite h.beginReset h.resetAck)

theorem Answering.execModuleResetRequest {p : Port} {key : Nat} :
    Answering (Part.stops ++ [Part.qfe, .sec]) true u (execModuleResetRequest p key u) :=
  .actAlways fun h => h.resetRequest

theorem Answering.execResetAck {p : Port} :
    Answering [.mem, .cmds, .jobs, .ports, .spin, .grf, .hbm, .fls, .opx, .flt, .draws] true u (execResetAck p u) :=
  .actAlways fun h => .ite h.resetAck h

theorem Answering.execResetGraceExpiry :
    Answering [.mem, .cmds, .jobs, .ports, .spin, .grf, .hbm, .fls, .opx, .flt, .draws] true u
      (execResetGraceExpiry u) :=
  .actAlways fun h => .ite h.killStep h

theorem Touches.placeAreas (h : Touches T s u) (hT : [.hbm] ⊆ T := by decide) : Touches T s (placeAreas u) := by
  refine h.then hT fun h => ?_
  unfold Machine.placeAreas
  extract_lets
  exact h.rest

theorem Touches.allReset (h : Touches T s u) (hT : Part.all ⊆ T := by decide) : Touches T s (allReset u) := 
  h.every hT rfl

theorem Touches.abandonMirror (h : Touches T s u) (hT : [.fls] ⊆ T := by decide) : Touches T s (abandonMirror u) :=
  h.then hT fun h => .ite h.rest h

theorem Touches.resetMirror (h : Touches T s u) (hT : Part.fires ++ [Part.fls, .flt] ⊆ T := by decide) :
    Touches T s (resetMirror u) :=
  h.then hT fun h => .ite h.abandonMirror.logPlain h

theorem Answering.execResetDies : Answering Part.all true u (execResetDies u) :=
  .actAlways fun h => .ite h.resetMirror.allReset h

theorem Touches.meshTransition (h : Touches T s u)
    (hT : Part.fires ++ [Part.dies, .banks, .opx, .sec, .flt, .draws] ⊆ T := by decide) :
    Touches T s (meshTransition u) :=
  h.then hT fun h => .ite (.rest (.ite h.moveTo h)) h

theorem Touches.trainStacks (h : Touches T s u) (hT : [.hbm] ⊆ T := by decide) : Touches T s (trainStacks u) := by
  refine h.then hT fun h => ?_
  unfold Machine.trainStacks
  exact h.rest

theorem Touches.failTraining {n : Nat} (h : Touches T s u) (hT : [.hbm] ⊆ T := by decide) :
    Touches T s (failTraining u n) :=
  h.then hT fun h => h.setStack

theorem Touches.powerOn {agree lid : Bool} {record : Option TamperRecord} {absent : List Nat} {a b : March}
    (h : Touches T s u) (hT : Part.all ⊆ T := by decide) : Touches T s (powerOn u agree record lid absent a b) := by
  refine h.then hT fun h => ?_
  unfold Machine.powerOn
  split
  · exact h
  extract_lets _ reset _ _ risen placed marched
  have hr : Touches _ u reset := .allReset h.rest
  clear_value reset
  have hu : Touches _ u risen := hr.rest
  clear_value risen
  have hp : Touches _ u placed := .placeAreas (.foldl hu.readTamper.trainStacks fun _ _ hx => hx.failTraining)
  clear_value placed
  have hm : Touches _ u marched := hp.wipeBoth.fullMarch.fullMarch.meshTransition
  clear_value marched
  exact .ite hm.fatal (.ite hm.tamper hm)

theorem Answering.execPowerOn {recordsAgree : Bool} {record : Option TamperRecord} {lidOpen : Bool}
    {absent : List Nat} {marchA marchB : March} :
    Answering Part.all (absent.all isStack) u (execPowerOn recordsAgree record lidOpen absent marchA marchB u) :=
  .actAlways fun h => h.powerOn

theorem Touches.collapse (h : Touches T s u)
    (hT : [.mem, .cmds, .jobs, .ports, .spin, .grf, .hbm, .fls, .opx, .hosts, .flt, .mgmt, .draws] ⊆ T := by decide) :
    Touches T s (collapse u) :=
  h.then hT fun h => h.abandonMirror.killAll.rest

theorem Answering.execInputCollapse :
    Answering [.mem, .cmds, .jobs, .ports, .spin, .grf, .hbm, .fls, .opx, .pwr, .hosts, .flt, .mgmt, .draws] true u
      (execInputCollapse u) :=
  .actAlways fun h => .ite h (.collapse h.rest)

theorem Touches.inputChange {mv : Nat} (h : Touches T s u) (hT : Part.stops ++ [Part.pwr, .mgmt] ⊆ T := by decide) :
    Touches T s (inputChange u mv) := by
  refine h.then hT fun h => ?_
  unfold Machine.inputChange
  extract_lets _ v v1
  have hv : Touches _ u v := h.rest
  clear_value v
  have hv1 : Touches _ u v1 := .ite hv (.ite hv.collapse hv.inputResponse)
  clear_value v1
  exact .ite (hv1.rest) hv1

theorem Answering.execInputVoltageChange {mv : Nat} :
    Answering (Part.stops ++ [Part.pwr, .mgmt]) true u (execInputVoltageChange mv u) :=
  .actAlways fun h => h.inputChange

theorem Answering.execSpiHoldoffChange {high : Bool} : Answering [.mgmt] true u (execSpiHoldoffChange high u) :=
  .actAlways fun h => h.rest

end

/-! ### The functions of `Sys2Proof/Machine/Pmbus.lean` -/

section
variable {T : List Part} {s u t : State}

theorem Touches.overBus {f : State → State} (hf : ∀ v, Touches T s v → Touches T s (f v)) (h : Touches T s u) :
    Touches T s (overBus f u) :=
  .ite (hf _ h) h

theorem Answering.onBus {f : State → State} (hf : ∀ v, Touches T u v → Touches T u (f v)) :
    Answering T true u (onBus u f) :=
  .actAlways fun h => .overBus hf h

theorem Touches.answer {v' : Nat} (h : Touches T s u) (hT : [.reply] ⊆ T := by decide) : Touches T s (u.answer v') :=
  h.then hT fun h => h.rest

theorem Answering.execClearFaults : Answering [.mgmt] true u (execClearFaults u) :=
  .onBus fun _ hv => hv.rest

theorem Answering.execSmbalertMask {status : Nat} {w : Option Nat} :
    Answering [.mgmt, .reply] (decide (status < 256) && w.all fun v => decide (v < 256)) u
      (execSmbalertMask status w u) := by
  unfold Machine.execSmbalertMask
  refine .actAlways fun h => ?_
  refine .overBus (fun v hv => ?_) h
  split
  · exact hv.rest
  · exact hv.answer

theorem Answering.execStatusWord : Answering [.reply] true u (execStatusWord u) :=
  .onBus fun _ hv => hv.answer

theorem Answering.execStatusInput : Answering [.reply] true u (execStatusInput u) :=
  .onBus fun _ hv => hv.answer

theorem Answering.execStatusTemperature : Answering [.reply] true u (execStatusTemperature u) :=
  .onBus fun _ hv => hv.answer

theorem Answering.execReadVin : Answering [.reply] true u (execReadVin u) :=
  .onBus fun _ hv => hv.answer

theorem Answering.execReadIin : Answering [.reply] true u (execReadIin u) :=
  .onBus fun _ hv => hv.answer

theorem Answering.execReadTemperature1 : Answering [.reply] true u (execReadTemperature1 u) :=
  .onBus fun _ hv => hv.answer

theorem Answering.execReadTemperature2 : Answering [.reply] true u (execReadTemperature2 u) :=
  .onBus fun _ hv => hv.answer

theorem Answering.execReadPin : Answering [.reply] true u (execReadPin u) :=
  .onBus fun _ hv => hv.answer

theorem Answering.execMfrId : Answering [.reply] true u (execMfrId u) :=
  .onBus fun _ hv => hv.answer

theorem Answering.execMfrModel : Answering [.reply] true u (execMfrModel u) :=
  .onBus fun _ hv => hv.answer

theorem Answering.execMfrSerial : Answering [.reply] true u (execMfrSerial u) :=
  .onBus fun _ hv => hv.answer

theorem Answering.execMfrModuleReset {v' : Nat} :
    Answering (Part.fires ++ [Part.qfe, .hbm, .sec, .flt]) (decide (v' < 2 ^ 16)) u (execMfrModuleReset v' u) :=
  .actAlways fun h => .overBus (fun _ hv => .ite hv.beginReset hv) h

theorem Answering.execMfrLifecycle : Answering [.reply] true u (execMfrLifecycle u) :=
  .onBus fun _ hv => hv.answer

end

/-! ### The functions of `Sys2Proof/Machine/RegWrite.lean` -/

section
variable {T : List Part} {s u t : State}

theorem Touches.modDieStat {d off : Nat} {f : Stat → Stat} (h : Touches T s u)
    (hT : [.dies, .engines, .banks] ⊆ T := by decide) : Touches T s (modDieStat u d off f) := by
  refine h.then hT fun h => ?_
  unfold Machine.modDieStat
  dsimp only
  split
  · exact .ite (.ite h.modEng h) (.ite h.modEng h)
  · split
    · exact .ite (.ite h.modEng h) (.ite (.ite h.modEng h) (.ite (.ite h.modEng h) (.ite (.ite h.modEng h)
        (.ite (.ite h.modEng h) h))))
    · split
      · exact .ite h (.ite h.modBank (.ite h.modBank h))
      · exact .ite h.modDie (.ite h.modDie (.ite h.modDie (.ite h.modDie h)))

theorem Touches.modStat {p : Port} {off : Nat} {f : Stat → Stat} (h : Touches T s u)
    (hT : [.dies, .engines, .banks, .ports, .hbm, .fls, .opx, .pwr, .hosts] ⊆ T := by decide) :
    Touches T s (modStat u p off f) :=
  h.then hT fun h => .ite h.modPort (.ite h.rest (.ite h.setEnt (.ite h.setEnt (.ite h.rest (.ite h.rest
    (.ite h.rest (.ite h.rest (.ite h.rest (.ite h.rest (.ite h.modPort
    (.ite (.ite h.modDieStat h) h)))))))))))

theorem Answering.execStatisticClear {p : Port} {off v' : Nat} :
    Answering (Part.fires ++ [Part.dies, .engines, .banks, .hbm, .fls, .opx, .pwr])
      (decide (off < 2 ^ 26) && isWord v') u (execStatisticClear p off v' u) :=
  .act fun h => .overBar (fun _ hv => hv.modStat) h

theorem Touches.goSetup {p : Port} (h : Touches T s u) (hT : Part.fires ++ [Part.qfe] ⊆ T := by decide) :
    Touches T s (goSetup u p) :=
  h.then hT fun h => .ite h (.ite h.modPort.fire (h.modPort.rest))

theorem Touches.goMap {p : Port} (h : Touches T s u) (hT : Part.fires ++ [Part.hbm] ⊆ T := by decide) :
    Touches T s (goMap u p) :=
  h.then hT fun h => .ite h (.ite h.modPort.fire (h.modPort.rest))

theorem Touches.goSec {p : Port} (h : Touches T s u) (hT : Part.fires ++ [Part.sec] ⊆ T := by decide) :
    Touches T s (goSec u p) :=
  h.then hT fun h => .ite h (.ite h.modPort.fire (h.modPort.rest))

theorem Touches.writeQfe {p : Port} {off v' : Nat} (h : Touches T s u)
    (hT : Part.fires ++ [Part.engines, .qfe] ⊆ T := by decide) : Touches T s (writeQfe u p off v') := by
  refine h.then hT fun h => ?_
  unfold Machine.writeQfe
  split
  · exact h.modPort
  · split
    · exact h.modPort
    · split
      · exact .ite h.goSetup h
      · split
        · exact h.timeLimitWrite
        · split
          · exact h.pollWrite
          · split
            · exact h.enginePortWrite
            · split
              · exact h.sillWrite
              · exact h

theorem Touches.vecCoalWrite {p : Port} {n v' : Nat} (h : Touches T s u) (hT : [.ports] ⊆ T := by decide) :
    Touches T s (vecCoalWrite u p n v') :=
  h.then hT fun h => h.modPort

theorem Touches.writeEvc {p : Port} {off v' : Nat} (h : Touches T s u) (hT : [.ports] ⊆ T := by decide) :
    Touches T s (writeEvc u p off v') := by
  refine h.then hT fun h => ?_
  unfold Machine.writeEvc
  split
  · exact h.modPort
  · split
    · exact h.hostCauseClear
    · split
      · exact h.modPort
      · split
        · exact h.vecCoalWrite
        · exact h

theorem Touches.writePwr {p : Port} {off v' : Nat} (h : Touches T s u) (hT : [.ports, .pwr] ⊆ T := by decide) :
    Touches T s (writePwr u p off v') := by
  refine h.then hT fun h => ?_
  unfold Machine.writePwr
  split
  · exact h.capWrite
  · split
    · exact h.powerCtrlWrite
    · split
      · exact h.phaseWrite
      · exact h

theorem Touches.writeSec {p : Port} {off v' : Nat} (h : Touches T s u)
    (hT : Part.fires ++ [Part.sec] ⊆ T := by decide) : Touches T s (writeSec u p off v') :=
  h.then hT fun h => .ite h.modPort (.ite h.modPort (.ite (.ite h.goSec h) h))

theorem Touches.writeMem {p : Port} {off v' : Nat} (h : Touches T s u)
    (hT : Part.fires ++ [Part.hbm] ⊆ T := by decide) : Touches T s (writeMem u p off v') :=
  h.then hT fun h => .ite h.modPort (.ite h.modPort (.ite (.ite h.goMap h) (.ite h.problemAreaWrite h)))

theorem Touches.writeOpx {p : Port} {off v' : Nat} (h : Touches T s u)
    (hT : Part.fires ++ [Part.dies, .opx] ⊆ T := by decide) : Touches T s (writeOpx u p off v') :=
  h.then hT fun h =>
    .ite h (.ite (.refreshPairs h.rest) (.ite h.frameWrite (.ite h.rest (.ite h.rest (.ite h.rest
    (.ite h.rest (.ite h.cascadeWrite (.ite (.ite h.rest h) h))))))))

theorem Touches.resetWrite {p : Port} {v' : Nat} (h : Touches T s u)
    (hT : Part.stops ++ [Part.qfe, .sec] ⊆ T := by decide) : Touches T s (resetWrite u p v') :=
  h.then hT fun h => .ite h.resetRequest.resetAck h.resetRequest

theorem Touches.writeFlt {p : Port} {off v' : Nat} (h : Touches T s u)
    (hT : Part.stops ++ [Part.qfe, .sec] ⊆ T := by decide) : Touches T s (writeFlt u p off v') :=
  h.then hT fun h =>
    .ite h.modPort (.ite h.modPort (.ite h.modPort (.ite h.resetWrite (.ite h (.ite h.logIdxWrite
      (.ite h.modPort h))))))

theorem Touches.peerWrite {k v' : Nat} (h : Touches T s u) (hT : Part.fires ++ [Part.dies, .opx] ⊆ T := by decide) :
    Touches T s (peerWrite u k v') :=
  h.then hT fun h => h.modPair.refreshPair

theorem Touches.writeDie {p : Port} {d off v' : Nat} (h : Touches T s u)
    (hT : Part.fires ++ [Part.dies, .opx] ⊆ T := by decide) : Touches T s (writeDie u p d off v') := by
  refine h.then hT fun h => ?_
  unfold Machine.writeDie
  split
  · exact h
  · split
    · split
      · exact h.pairRetrain
      · split
        · exact h.peerWrite
        · exact h
    · exact .ite h.testCtrlWrite h

theorem Touches.writeMsix {p : Port} {off v' : Nat} (h : Touches T s u) (hT : [.ports, .sent] ⊆ T := by decide) :
    Touches T s (writeMsix u p off v') :=
  h.then hT fun h => .ite h.modPort (.ite h.modPort (.ite h.modPort h.setVectorMask))

theorem Touches.writeWindow {p : Port} {off v' : Nat} (h : Touches T s u)
    (hT : Part.ended ++ [Part.dies, .pwr, .sec] ⊆ T := by decide) : Touches T s (writeWindow u p off v') :=
  h.then hT fun h => .ite h (.ite h.writeQfe (.ite h.writeEvc (.ite h.writePwr
    (.ite h (.ite h.writeSec (.ite h.writeMem
    (.ite h (.ite h.writeOpx (.ite h.writeFlt (.ite h (.ite h.writeDie (.ite h.writeMsix h))))))))))))

theorem Touches.writeReg {p : Port} {off v' : Nat} (h : Touches T s u)
    (hT : Part.ended ++ [Part.dies, .banks, .pwr, .sec] ⊆ T := by decide) : Touches T s (writeReg p u off v') :=
  h.then hT fun h => .ite h (.ite (.ite h.writeFlt h) (.ite (.ite h.writeSec h) h.writeWindow.modStat))

theorem Touches.coreWrite {h' : Port} {off v' : Nat} (h : Touches T s u) (hT : Part.fires ⊆ T := by decide) :
    Touches T s (coreWrite u h' off v') := by
  refine h.then hT fun h => ?_
  obtain ⟨write, hw⟩ : ∃ write, Machine.coreWrite = write := ⟨_, rfl⟩
  obtain ⟨find, hfind⟩ : ∃ find, inArray = find := ⟨_, rfl⟩
  rw [hw]
  delta Machine.coreWrite at hw
  rw [hfind] at hw
  subst hw
  clear hfind
  dsimp only
  split
  · exact h.onController
  · split
    · exact h.modHost
    · split
      · exact .ite h.modHost (.ite h.modHost (.ite h.pendSet h.onController))
      · exact h

theorem Answering.execRegisterWrite {p : Port} {byCore : Bool} {off v' : Nat} {wide : Bool} :
    Answering (Part.ended ++ [Part.dies, .banks, .pwr, .sec])
      (decide (off < 2 ^ 26) && (if wide then decide (v' < 2 ^ 64) else isWord v')) u
      (execRegisterWrite p byCore off v' wide u) :=
  .actAlways fun h => .ite (.ite h.coreWrite.coreWrite h.coreWrite) (.ite h.pcieViolation
    (.overBar (fun _ hv => .ite hv.writeReg.writeReg hv.writeReg) h))

end

/-! ### The functions of `Sys2Proof/Machine/Vector.lean` -/

section
variable {T : List Part} {s u t : State}

theorem DoneTouches.finishRows {slips : List TagSlip} {x : Cmd} {q : Queue} {os : List Operand}
    {rows : Try (List (List Val))} (h : Touches T s u)
    (hT : Part.fires ++ [Part.mem, .dies, .engines, .hbm, .flt, .draws] ⊆ T := by decide) :
    DoneTouches T s (finishRows slips u x q os rows) := by
  refine h.thenDone hT fun h => ?_
  unfold Machine.finishRows
  split
  · exact .stop
  · exact .paired h fun _ => .writing h fun _ _ => .writing h fun _ he2 => .ok (.writeTensor h.rest he2)

theorem DoneTouches.elementBody {slips : List TagSlip} {x : Cmd} {q : Queue} (h : Touches T s u)
    (hT : Part.fires ++ [Part.mem, .dies, .engines, .hbm, .flt, .draws] ⊆ T := by decide) :
    DoneTouches T s (elementBody slips u x q) := by
  refine h.thenDone hT fun h => ?_
  unfold Machine.elementBody
  dsimp only
  refine .within fun _ _ => .within fun _ _ => .within fun _ _ => ?_
  split
  · exact .stop
  · exact .finishRows h

theorem Answering.execElementWise {c : Nat} {slips : List TagSlip} :
    Answering (Part.ended ++ [Part.dies]) true u (execElementWise c slips u) :=
  .act fun h => h.runCmd fun _ _ _ hv => .elementBody hv

theorem DoneTouches.normaliseBody {slips : List TagSlip} {x : Cmd} {q : Queue} (h : Touches T s u)
    (hT : Part.fires ++ [Part.mem, .dies, .engines, .hbm, .flt, .draws] ⊆ T := by decide) :
    DoneTouches T s (normaliseBody slips u x q) :=
  h.thenDone hT fun h => .within fun _ _ => .within fun _ _ => .within fun _ _ => .finishRows h

theorem Answering.execNormalise {c : Nat} {slips : List TagSlip} :
    Answering (Part.ended ++ [Part.dies]) true u (execNormalise c slips u) :=
  .act fun h => h.runCmd fun _ _ _ hv => .normaliseBody hv

theorem DoneTouches.softmaxBody {slips : List TagSlip} {x : Cmd} {q : Queue} (h : Touches T s u)
    (hT : Part.fires ++ [Part.mem, .dies, .engines, .hbm, .flt, .draws] ⊆ T := by decide) :
    DoneTouches T s (softmaxBody slips u x q) :=
  h.thenDone hT fun h => .within fun _ _ => .within fun _ _ => .finishRows h

theorem Answering.execSoftmax {c : Nat} {slips : List TagSlip} :
    Answering (Part.ended ++ [Part.dies]) true u (execSoftmax c slips u) :=
  .act fun h => h.runCmd fun _ _ _ hv => .softmaxBody hv

theorem DoneTouches.optimiserBody {slips : List TagSlip} {x : Cmd} {q : Queue} (h : Touches T s u)
    (hT : Part.fires ++ [Part.mem, .dies, .engines, .hbm, .flt, .draws] ⊆ T := by decide) :
    DoneTouches T s (optimiserBody slips u x q) := by
  refine h.thenDone hT fun h => ?_
  unfold Machine.optimiserBody
  dsimp only
  refine .within fun a _ => .within fun a _ => ?_
  split
  · exact .stop
  · refine .within fun a he3 => ?_
    refine .paired h fun a => ?_
    split
    · split
      · refine .writing h fun a he4 => ?_
        refine .writing h fun _ he5 => ?_
        split
        · exact .writing h fun _ he6 => .ok (.writeTensor (.writeTensor (.writeTensor h.rest he4) he5) he6)
        · exact .ok (.writeTensor (.writeTensor h.rest he4) he5)
      · exact .stop
    · exact .badWriting h
    · exact .badWriting h
    · exact .badWriting h
    · exact .badWriting h

theorem Answering.execOptimiserStep {c : Nat} {slips : List TagSlip} :
    Answering (Part.ended ++ [Part.dies]) true u (execOptimiserStep c slips u) :=
  .act fun h => h.runCmd fun _ _ _ hv => .optimiserBody hv

end

/-! ### Every command -/

section
variable {s u t : State}

theorem Answering.exec {i : Instr} : Answering i.touches i.wf u (exec i u) := by
  cases i with
  | packetForward => exact .execPacketForward
  | creditToggle => exact .execCreditToggle
  | bridgeHandshakeTimeout _ _ _ ch => exact .execBridgeHandshakeTimeout (ch := ch)
  | detourTableSwitch => exact .execDetourTableSwitch
  | noOp => exact .execNoOp
  | fenceWait => exact .execFenceWait
  | fenceWaitSatisfied => exact .execFenceWaitSatisfied
  | fenceSignal => exact .execFenceSignal
  | queueBarrier => exact .execQueueBarrier
  | resume => exact .execResume
  | copy => exact .execCopy
  | convert => exact .execConvert
  | matrixMultiply => exact .execMatrixMultiply
  | convolve => exact .execConvolve
  | writeOut => exact .execWriteOut
  | release => exact .execRelease
  | sum => exact .execSum
  | combinePartials => exact .execCombinePartials
  | topK => exact .execTopK
  | elementWise => exact .execElementWise
  | normalise => exact .execNormalise
  | softmax => exact .execSoftmax
  | optimiserStep => exact .execOptimiserStep
  | load => exact .execLoad
  | rescale => exact .execRescale
  | registerNeuralTerm => exact .execRegisterNeuralTerm
  | update => exact .execUpdate
  | free => exact .execFree
  | energy => exact .execEnergy
  | annealLaunch => exact .execAnnealLaunch
  | ladderSet => exact .execLadderSet
  | resultRead => exact .execResultRead
  | graphCreate => exact .execGraphCreate
  | graphLaunch => exact .execGraphLaunch
  | patch => exact .execPatch
  | patchCommit => exact .execPatchCommit
  | graphDestroy => exact .execGraphDestroy
  | graphNodeStart => exact .execGraphNodeStart
  | graphNodeComplete => exact .execGraphNodeComplete
  | storeCreate => exact .execStoreCreate
  | storeRead => exact .execStoreRead
  | storeWrite => exact .execStoreWrite
  | storeProgramComplete => exact .execStoreProgramComplete
  | storeTrim => exact .execStoreTrim
  | storeReport => exact .execStoreReport
  | storeDestroy => exact .execStoreDestroy
  | allReduce => exact .execAllReduce
  | allGather => exact .execAllGather
  | boundaryExchange => exact .execBoundaryExchange
  | send => exact .execSend
  | receive => exact .execReceive
  | scheduleLoad => exact .execScheduleLoad
  | scheduleArm => exact .execScheduleArm
  | launchTask => exact .execLaunchTask
  | enqueue => exact .execEnqueue
  | deviceFedSpaceAvailable => exact .execDeviceFedSpaceAvailable
  | stopTask => exact .execStopTask
  | taskHalt => exact .execTaskHalt
  | taskAdd => exact .execTaskAdd
  | taskSub => exact .execTaskSub
  | taskAnd => exact .execTaskAnd
  | taskOr => exact .execTaskOr
  | taskXor => exact .execTaskXor
  | taskShl => exact .execTaskShl
  | taskShr => exact .execTaskShr
  | taskMul => exact .execTaskMul
  | taskAddi => exact .execTaskAddi
  | taskLdw => exact .execTaskLdw
  | taskLd => exact .execTaskLd
  | taskSt => exact .execTaskSt
  | taskAadd => exact .execTaskAadd
  | taskAswp => exact .execTaskAswp
  | taskBeq => exact .execTaskBeq
  | taskBne => exact .execTaskBne
  | taskBlt => exact .execTaskBlt
  | taskBltu => exact .execTaskBltu
  | taskLoop => exact .execTaskLoop
  | taskWaitq => exact .execTaskWaitq
  | waitqSatisfied => exact .execWaitqSatisfied
  | taskEnq => exact .execTaskEnq
  | taskWaitf => exact .execTaskWaitf
  | waitfSatisfied => exact .execWaitfSatisfied
  | taskSigf => exact .execTaskSigf
  | taskDone => exact .execTaskDone
  | taskTime => exact .execTaskTime
  | reservedInstruction => exact .execReservedInstruction
  | taskRanWithoutWaiting => exact .execTaskRanWithoutWaiting
  | doorbellPoll => exact .execDoorbellPoll
  | descriptorRead => exact .execDescriptorRead
  | commandStart => exact .execCommandStart
  | hostAccess => exact .execHostAccess
  | atsTranslationCompletion => exact .execAtsTranslationCompletion
  | prgResponse => exact .execPrgResponse
  | pageRequestTimeout => exact .execPageRequestTimeout
  | atsInvalidationRequest => exact .execAtsInvalidationRequest
  | invalidationDrainEnd => exact .execInvalidationDrainEnd
  | commandTimeLimit => exact .execCommandTimeLimit
  | shutterDrainTimeout => exact .execShutterDrainTimeout
  | shutterComplete => exact .execShutterComplete
  | realtimePreempt => exact .execRealtimePreempt
  | contextSave => exact .execContextSave
  | contextRestore => exact .execContextRestore
  | setupCreateQueue => exact .execSetupCreateQueue
  | setupDestroyQueue => exact .execSetupDestroyQueue
  | queueTeardownComplete => exact .execQueueTeardownComplete
  | setupCreateFence => exact .execSetupCreateFence
  | setupDestroyFence => exact .execSetupDestroyFence
  | setupRequestInvalid => exact .execSetupRequestInvalid
  | qfeEnginePortWrite => exact .execQfeEnginePortWrite
  | qfeSillWrite => exact .execQfeSillWrite
  | qfeTimeLimitWrite => exact .execQfeTimeLimitWrite
  | qfePollWrite => exact .execQfePollWrite
  | groupSequence => exact .execGroupSequence
  | partialCombine => exact .execPartialCombine
  | accumulatorCommit => exact .execAccumulatorCommit
  | startUpSequence => exact .execStartUpSequence
  | testSequence => exact .execTestSequence
  | shadowSetExchange => exact .execShadowSetExchange
  | scratchpadHandshake => exact .execScratchpadHandshake
  | backgroundPassStart => exact .execBackgroundPassStart
  | regionPhaseEnd => exact .execRegionPhaseEnd
  | spdTestCtrlWrite => exact .execSpdTestCtrlWrite
  | annealBatch => exact .execAnnealBatch
  | tableRebuildComplete => exact .execTableRebuildComplete
  | epochEnd => exact .execEpochEnd
  | boundaryValuesReceived => exact .execBoundaryValuesReceived
  | energyReduction => exact .execEnergyReduction
  | epochStart => exact .execEpochStart
  | runSeedArrival => exact .execRunSeedArrival
  | blockPageInComplete => exact .execBlockPageInComplete
  | neuralEngineEligible => exact .execNeuralEngineEligible
  | launchComplete => exact .execLaunchComplete
  | map => exact .execMap
  | mapZeroingComplete => exact .execMapZeroingComplete
  | unmap => exact .execUnmap
  | unmapDrainEnd => exact .execUnmapDrainEnd
  | bindStore => exact .execBindStore
  | listStores => exact .execListStores
  | readDump => exact .execReadDump
  | mapRequestInvalid => exact .execMapRequestInvalid
  | hbmAccess => exact .execHbmAccess
  | patrolScrub => exact .execPatrolScrub
  | unitRetirement => exact .execUnitRetirement
  | pinLaneRepair => exact .execPinLaneRepair
  | memProblemAreaWrite => exact .execMemProblemAreaWrite
  | flashPageRead => exact .execFlashPageRead
  | flashDieRebuild => exact .execFlashDieRebuild
  | flashProgramFail => exact .execFlashProgramFail
  | wearLevelCopy => exact .execWearLevelCopy
  | retentionRefresh => exact .execRetentionRefresh
  | readDisturbCopy => exact .execReadDisturbCopy
  | dumpMirror => exact .execDumpMirror
  | frameStart => exact .execFrameStart
  | frameHeaderReceived => exact .execFrameHeaderReceived
  | codewordReceived => exact .execCodewordReceived
  | repeatWindowExpired => exact .execRepeatWindowExpired
  | openSlotMessage => exact .execOpenSlotMessage
  | markerReceived => exact .execMarkerReceived
  | markerMissing => exact .execMarkerMissing
  | holdoverLimit => exact .execHoldoverLimit
  | calibration => exact .execCalibration
  | laneFailure => exact .execLaneFailure
  | opxFrameWrite => exact .execOpxFrameWrite
  | opxCascadeWrite => exact .execOpxCascadeWrite
  | opxPairRetrain => exact .execOpxPairRetrain
  | fastLoop => exact .execFastLoop
  | collectiveHoldTimeout => exact .execCollectiveHoldTimeout
  | capControllerPeriod => exact .execCapControllerPeriod
  | urgentAllocation => exact .execUrgentAllocation
  | railRampComplete => exact .execRailRampComplete
  | marginTrim => exact .execMarginTrim
  | droopToNominal => exact .execDroopToNominal
  | holdUpBankLow => exact .execHoldUpBankLow
  | inputVoltageChange => exact .execInputVoltageChange
  | overvoltageTimeout => exact .execOvervoltageTimeout
  | thermalChange => exact .execThermalChange
  | thermalTripTimeout => exact .execThermalTripTimeout
  | pointOfLoadFailure => exact .execPointOfLoadFailure
  | controllerTakeover => exact .execControllerTakeover
  | pwrCapWrite => exact .execPwrCapWrite
  | pwrCtrlWrite => exact .execPwrCtrlWrite
  | pwrPhaseWrite => exact .execPwrPhaseWrite
  | sourceStart => exact .execSourceStart
  | entropyBlockReady => exact .execEntropyBlockReady
  | healthTestFailure => exact .execHealthTestFailure
  | failureCountDecay => exact .execFailureCountDecay
  | generatorGrant => exact .execGeneratorGrant
  | entropyStallTimeout => exact .execEntropyStallTimeout
  | linkNonceRetry => exact .execLinkNonceRetry
  | entRngRead => exact .execEntRngRead
  | boot => exact .execBoot
  | tamperEvent => exact .execTamperEvent
  | attest => exact .execAttest
  | readCertificate => exact .execReadCertificate
  | loadHallKey => exact .execLoadHallKey
  | withdrawHallKey => exact .execWithdrawHallKey
  | returnModule => exact .execReturnModule
  | scrap => exact .execScrap
  | vendorAuthorisation => exact .execVendorAuthorisation
  | commitSvn => exact .execCommitSvn
  | securityRequestInvalid => exact .execSecurityRequestInvalid
  | eventMessage => exact .execEventMessage
  | wireSourceChange => exact .execWireSourceChange
  | eventClaim => exact .execEventClaim
  | eventComplete => exact .execEventComplete
  | evcCountRead => exact .execEvcCountRead
  | evcMaskSet => exact .execEvcMaskSet
  | evcMaskClr => exact .execEvcMaskClr
  | evcPendSet who => exact .execEvcPendSet (who := who)
  | evcPendClr => exact .execEvcPendClr
  | coalesceIntervalExpiry => exact .execCoalesceIntervalExpiry
  | coreSleep => exact .execCoreSleep
  | coreWake => exact .execCoreWake
  | evcHostCauseClear => exact .execEvcHostCauseClear
  | dieCauseClear => exact .execDieCauseClear
  | msixCoalesceExpiry => exact .execMsixCoalesceExpiry
  | msixVectorUnmask => exact .execMsixVectorUnmask
  | engineStall => exact .execEngineStall
  | engineFence => exact .execEngineFence
  | engineReturn => exact .execEngineReturn
  | fltLogReadIdxWrite => exact .execFltLogReadIdxWrite
  | pcieTlpReceived => exact .execPcieTlpReceived
  | pcieCompletionTimeout => exact .execPcieCompletionTimeout
  | postedCreditsWithheld => exact .execPostedCreditsWithheld
  | portLinkDown => exact .execPortLinkDown
  | hostDieLost => exact .execHostDieLost
  | moduleResetRequest => exact .execModuleResetRequest
  | resetAck => exact .execResetAck
  | resetGraceExpiry => exact .execResetGraceExpiry
  | resetDies => exact .execResetDies
  | d3hotTransition => exact .execD3hotTransition
  | busMasterEnableChange => exact .execBusMasterEnableChange
  | powerOn => exact .execPowerOn
  | inputCollapse => exact .execInputCollapse
  | spiHoldoffChange => exact .execSpiHoldoffChange
  | clearFaults => exact .execClearFaults
  | smbalertMask => exact .execSmbalertMask
  | statusWord => exact .execStatusWord
  | statusInput => exact .execStatusInput
  | statusTemperature => exact .execStatusTemperature
  | readVin => exact .execReadVin
  | readIin => exact .execReadIin
  | readTemperature1 => exact .execReadTemperature1
  | readTemperature2 => exact .execReadTemperature2
  | readPin => exact .execReadPin
  | mfrId => exact .execMfrId
  | mfrModel => exact .execMfrModel
  | mfrSerial => exact .execMfrSerial
  | mfrModuleReset => exact .execMfrModuleReset
  | mfrLifecycle => exact .execMfrLifecycle
  | statisticClear => exact .execStatisticClear
  | registerWrite => exact .execRegisterWrite
  | standardInterfaceLoss => exact .execStandardInterfaceLoss
  | holdUpBankRecovered => exact .execHoldUpBankRecovered
  | portLinkUp => exact .execPortLinkUp
  | d3hotExit => exact .execD3hotExit
  | flashRebuildComplete => exact .execFlashRebuildComplete
  | pcieTagWithholdExpiry => exact .execPcieTagWithholdExpiry
  | localTimerCompare h => exact .execLocalTimerCompare (who := h)

/-- A command that names only parts the module has answers a next state, in which what waits stays. -/
theorem exec_next {c : Instr} (hc : c.wf = true) : ∃ t, exec c u = .next t ∧ t.pending = u.pending :=
  have ⟨t, ht⟩ := Answering.exec.next hc
  ⟨t, ht, Answering.exec.pending t ht⟩

end

end Sys2Proof.Machine

namespace Sys2Proof
open Machine

/-- Settles O59: an idle step lets time pass, and the front command of a good queue answers by `exec_next`. -/
theorem theBlockNeverStops : Obligations.TheBlockNeverStops := by
  intro s hs
  cases hp : s.pending with
  | nil =>
    refine ⟨{ s with time := s.time + 10 }, ?_, ?_, hp⟩
    · simp only [Steps, step, hp]
    · exact hs
  | cons c rest =>
    unfold QueueOk at hs
    rw [hp, List.forall_mem_cons] at hs
    obtain ⟨hc, hrest⟩ := hs
    obtain ⟨t, ht, hpt⟩ := exec_next (u := { s with pending := rest }) hc
    refine ⟨t, ?_, ?_, hpt⟩
    · simp only [Steps, step, hp, ht]
    · unfold QueueOk
      rwa [hpt]

end Sys2Proof
end

section
/-! PROOFS. Every command keeps the parts and the bytes that it does not touch (R68).

The parts come from `Answering.exec`. For the bytes, `Spares P s t` says that from `s` to `t` only bytes of `P` change and
that what the next bytes' places depend on stays: where pages are mapped, where each port's requests lie, and the places
that each queue, fence, command and task writes to. Every function that a command of `Instr.mayWrite`'s list runs has one
lemma, from `h : Spares P s u` to `h.f : Spares P s (f u)`, with a hypothesis for each kind of byte that it writes; a
function that changes none of the parts that say where bytes lie has it from its `Touches` (`Spares.apart`). Where a change
does move a place, it is the last, and the weaker `BytesKept` goes on alone. -/

namespace Sys2Proof.Machine

-- A thread for each of the many short theorems would take more stack than the check allows.
set_option Elab.async false

/-! ### Which bytes a change writes, and where the next ones will lie -/

/-- What the bytes of a record, of a mirror, of a command and of a task depend on. -/
def Queue.place (q : Queue) : Port × Nat × Nat × Nat := (q.port, q.pasid, q.cpl, q.ringLog2)
def Fence.place (f : Fence) : Port × Nat × Nat := (f.port, f.pasid, f.mirror)
def Cmd.place (x : Cmd) : Nat × Desc × List (Nat × Nat) × Stage := (x.queue, x.desc, x.dests, x.stage)
def Task.place (t : Task) : Nat × Nat := (t.queue, t.endAddr)
def PortState.place (x : PortState) : Nat × Nat × Nat := (x.setup.addr, x.map.addr, x.sec.addr)

/-- From `s` to `t` only bytes of `P` change. -/
def BytesKept (P : Nat → Prop) (s t : State) : Prop := ∀ k, ¬ P k → memGet t.mem k = memGet s.mem k

/-- From `s` to `t` only bytes of `P` change, pages stay where they are mapped, and every queue, fence, command and task
of `t` writes where that of `s` did. -/
structure Spares (P : Nat → Prop) (s t : State) : Prop where
  bytes : BytesKept P s t
  pages : t.hbm.pages = s.hbm.pages
  ports : ∀ p, (t.port p).place = (s.port p).place
  queues : ∀ {i q}, t.queue? i = some q → (s.queue? i).map Queue.place = some q.place
  fences : ∀ {i f}, t.fence? i = some f → (s.fence? i).map Fence.place = some f.place
  cmds : ∀ {c x}, t.cmd? c = some x → (s.cmd? c).map Cmd.place = some x.place
  tasks : ∀ {e k}, (t.eng e).task = some k → ((s.eng e).task).map Task.place = some k.place

/-- The parts that say where bytes lie. -/
def Part.placed : List Part := [.mem, .hbm, .ports, .qfe, .cmds, .engines]

section
variable {P : Nat → Prop} {A : List Part} {s u t : State}

theorem BytesKept.refl : BytesKept P s s := fun _ _ => rfl

theorem BytesKept.trans (h : BytesKept P s u) (h' : BytesKept P u t) : BytesKept P s t :=
  fun k hk => (h' k hk).trans (h k hk)

/-- A change that leaves the memory. -/
theorem BytesKept.rest (h : BytesKept P s u) (e : t.mem = u.mem := by rfl) : BytesKept P s t :=
  fun k hk => (congrArg (memGet · k) e).trans (h k hk)

theorem BytesKept.apart (h : BytesKept P s u) (ht : Touches A u t) (hA : .mem ∉ A := by decide) : BytesKept P s t :=
  h.rest (ht.same .mem hA)

theorem BytesKept.ite {c : Prop} {_ : Decidable c} (h : BytesKept P s u) (ht : BytesKept P s t) :
    BytesKept P s (if c then u else t) := by
  split
  · exact h
  · exact ht

theorem Spares.refl : Spares P s s where
  bytes := .refl
  pages := rfl
  ports _ := rfl
  queues h := by simp [h]
  fences h := by simp [h]
  cmds h := by simp [h]
  tasks h := by simp [h]

/-- A change of other fields. -/
theorem Spares.rest (h : Spares P s u) (hm : t.mem = u.mem := by rfl) (hp : t.hbm.pages = u.hbm.pages := by rfl)
    (hA : t.portA.place = u.portA.place := by rfl) (hB : t.portB.place = u.portB.place := by rfl)
    (hq : t.qfe.queues = u.qfe.queues := by rfl) (hf : t.qfe.fences = u.qfe.fences := by rfl)
    (hc : t.cmds = u.cmds := by rfl) (he : t.engines = u.engines := by rfl) : Spares P s t where
  bytes := h.bytes.rest hm
  pages := hp.trans h.pages
  ports
    | .A => hA.trans (h.ports .A)
    | .B => hB.trans (h.ports .B)
  queues := fun e => h.queues (by simpa only [State.queue?, hq] using e)
  fences := fun e => h.fences (by simpa only [State.fence?, hf] using e)
  cmds := fun e => h.cmds (by simpa only [State.cmd?, hc] using e)
  tasks := fun e => h.tasks (by simpa only [State.eng, he] using e)

/-- A change of parts that say nothing of where bytes lie. -/
theorem Spares.apart (h : Spares P s u) (ht : Touches A u t) (hA : ∀ p ∈ Part.placed, p ∉ A := by decide) :
    Spares P s t := by
  have hs (p : Part) (hp : p ∈ Part.placed) : p.same u t := ht.same p (hA p hp)
  obtain ⟨hpA, hpB⟩ := hs .ports (by decide)
  have hhbm := hs .hbm (by decide)
  have hqfe := hs .qfe (by decide)
  exact h.rest (hs .mem (by decide)) (congrArg Hbm.pages hhbm) (congrArg _ hpA) (congrArg _ hpB)
    (congrArg Qfe.queues hqfe) (congrArg Qfe.fences hqfe) (hs .cmds (by decide)) (hs .engines (by decide))

theorem Spares.ite {c : Prop} {_ : Decidable c} (h : Spares P s u) (ht : Spares P s t) :
    Spares P s (if c then u else t) := by
  split
  · exact h
  · exact ht

theorem Spares.foldl {α : Type} {f : State → α → State} {l : List α} (h : Spares P s u)
    (hf : ∀ v a, Spares P s v → Spares P s (f v a)) : Spares P s (l.foldl f u) := by
  induction l generalizing u with
  | nil => exact h
  | cons a l ih => exact ih (hf _ _ h)

theorem Spares.foldlMem {α : Type} {f : State → α → State} {l : List α} (h : Spares P s u)
    (hf : ∀ v, ∀ a ∈ l, Spares P s v → Spares P s (f v a)) : Spares P s (l.foldl f u) := by
  induction l generalizing u with
  | nil => exact h
  | cons a l ih =>
    obtain ⟨ha, hl⟩ : (∀ v, Spares P s v → Spares P s (f v a)) ∧ ∀ v, ∀ b ∈ l, Spares P s v → Spares P s (f v b) := by
      simpa only [List.forall_mem_cons, forall_and] using hf
    exact ih (ha _ h) hl

/-! ### The parts by number -/

/-- The queue that writes where one does. -/
theorem queue_of_place {i : Nat} {q : Queue} (h : (s.queue? i).map Queue.place = some q.place) :
    ∃ x, s.queue? i = some x ∧ x.port = q.port ∧ x.pasid = q.pasid ∧ x.cpl = q.cpl ∧ x.ringLog2 = q.ringLog2 := by
  simpa [Queue.place] using h

theorem fence_of_place {i : Nat} {f : Fence} (h : (s.fence? i).map Fence.place = some f.place) :
    ∃ x, s.fence? i = some x ∧ x.port = f.port ∧ x.pasid = f.pasid ∧ x.mirror = f.mirror := by
  simpa [Fence.place] using h

theorem cmd_of_place {c : Nat} {y : Cmd} (h : (s.cmd? c).map Cmd.place = some y.place) :
    ∃ x, s.cmd? c = some x ∧ x.queue = y.queue ∧ x.desc = y.desc ∧ x.dests = y.dests ∧ x.stage = y.stage := by
  simpa [Cmd.place] using h

theorem task_of_place {e : Nat} {k : Task} (h : ((s.eng e).task).map Task.place = some k.place) :
    ∃ x, (s.eng e).task = some x ∧ x.queue = k.queue ∧ x.endAddr = k.endAddr := by
  simpa [Task.place] using h

theorem Spares.setQueue {i : Nat} {q : Queue} (h : Spares P s u) (hq : (s.queue? i).map Queue.place = some q.place) :
    Spares P s (u.setQueue i q) :=
  { h with
    queues := fun {j _} e => by
      by_cases hj : j = i
      · subst hj
        cases (tblFind_put_same u.qfe.queues j q).symm.trans e
        exact hq
      · exact h.queues ((tblFind_put_ne u.qfe.queues q hj).symm.trans e) }

/-- A queue that was found there writes where it did. -/
theorem Spares.putQueue {i : Nat} {x q : Queue} (h : Spares P s u) (e : u.queue? i = some x)
    (hx : q.place = x.place := by rfl) : Spares P s (u.setQueue i q) :=
  h.setQueue (hx ▸ h.queues e)

theorem Spares.modQueue {i : Nat} {f : Queue → Queue} (h : Spares P s u)
    (hf : ∀ q, (f q).place = q.place := by intro; rfl) : Spares P s (u.modQueue i f) := by
  unfold State.modQueue
  split
  · next e => exact h.setQueue (by rw [hf]; exact h.queues e)
  · exact h

theorem Spares.setFence {i : Nat} {f : Fence} (h : Spares P s u) (hf : (s.fence? i).map Fence.place = some f.place) :
    Spares P s (u.setFence i f) :=
  { h with
    fences := fun {j _} e => by
      by_cases hj : j = i
      · subst hj
        cases (tblFind_put_same u.qfe.fences j f).symm.trans e
        exact hf
      · exact h.fences ((tblFind_put_ne u.qfe.fences f hj).symm.trans e) }

theorem Spares.setFenceValue {i : Nat} {f : Fence} {v : DWord} (h : Spares P s u) (e : u.fence? i = some f) :
    Spares P s (u.setFence i { f with value := v }) := by
  have hplace := h.fences e
  exact h.setFence hplace

theorem Spares.setCmd {c : Nat} {x : Cmd} (h : Spares P s u) (hx : (s.cmd? c).map Cmd.place = some x.place) :
    Spares P s (u.setCmd c x) :=
  { h with
    cmds := fun {j _} e => by
      by_cases hj : j = c
      · subst hj
        cases (tblFind_put_same u.cmds j x).symm.trans e
        exact hx
      · exact h.cmds ((tblFind_put_ne u.cmds x hj).symm.trans e) }

theorem Spares.modCmd {c : Nat} {f : Cmd → Cmd} (h : Spares P s u)
    (hf : ∀ x, (f x).place = x.place := by intro; rfl) : Spares P s (u.modCmd c f) := by
  unfold State.modCmd
  split
  · next e => exact h.setCmd (by rw [hf]; exact h.cmds e)
  · exact h

theorem Spares.dropCmd {c : Nat} (h : Spares P s u) : Spares P s (u.dropCmd c) :=
  { h with
    cmds := fun {j _} e => by
      by_cases hj : j = c
      · subst hj
        exact absurd ((tblFind_del_same u.cmds j).symm.trans e) (by simp)
      · exact h.cmds ((tblFind_del_ne u.cmds hj).symm.trans e) }

theorem Spares.setEng {n : Nat} {x : Engine} (h : Spares P s u)
    (hx : ∀ k, x.task = some k → ((s.eng n).task).map Task.place = some k.place) : Spares P s (u.setEng n x) :=
  { h with
    tasks := fun {j k} e => by
      unfold State.setEng State.eng at e
      by_cases hj : j = n
      · subst hj
        rw [tblGet_set_same] at e
        exact hx k e
      · rw [tblGet_set_ne _ _ _ hj] at e
        exact h.tasks e }

/-- A change of an engine that leaves its task. -/
theorem Spares.modEng {n : Nat} {f : Engine → Engine} (h : Spares P s u)
    (hf : ∀ g, (f g).task = g.task := by intro; rfl) : Spares P s (u.modEng n f) :=
  h.setEng fun _ e => h.tasks ((hf _).symm.trans e)

theorem Spares.setPort {p : Port} {x : PortState} (h : Spares P s u) (hx : x.place = (u.port p).place := by rfl) :
    Spares P s (u.setPort p x) := by
  cases p
  · exact h.rest (hA := hx)
  · exact h.rest (hB := hx)

theorem Spares.modPort {p : Port} {f : PortState → PortState} (h : Spares P s u)
    (hf : ∀ x, (f x).place = x.place := by intro; rfl) : Spares P s (u.modPort p f) :=
  h.setPort (hf _)

end

/-! ### Writes -/

/-- A piece lies in the range, and in one page of it. -/
theorem mem_piecesOf {size va len j : Nat} {e : Nat × Nat} (he : e ∈ piecesOf size va len) (hj : j < e.2) :
    va ≤ e.1 ∧ e.1 + j < va + len ∧ (e.1 + j) / size = e.1 / size := by
  simp only [piecesOf, List.mem_map] at he
  obtain ⟨k, -, rfl⟩ := he
  simp only at hj ⊢
  have hsize : 0 < size := by
    rcases Nat.eq_zero_or_pos size with rfl | h
    · simp at hj
    · exact h
  have hk (a : Nat) (ha : k * size ≤ a) (hb : a < (k + 1) * size) : a / size = k :=
    Nat.div_eq_of_lt_le ha hb
  refine ⟨by omega, by omega, ?_⟩
  rw [hk _ (by omega) (by omega), hk _ (by omega) (by omega)]

/-- In a page, places follow the addresses (R331). -/
theorem vaKey_add {s : State} {p : Port} {pasid va j : Nat} (h : (va + j) / 2 ^ 21 = va / 2 ^ 21) :
    vaKey s p pasid (va + j) = vaKey s p pasid va + j := by
  have hbase : deviceBase ≤ va + j ↔ deviceBase ≤ va := by
    simp only [deviceBase]
    omega
  unfold vaKey
  simp only [hbase]
  split
  · next hva =>
    have hpage : devicePage (va + j) = devicePage va := by
      simp only [devicePage, deviceBase] at hva ⊢
      omega
    have hin : (va + j - deviceBase) % 2 ^ 21 = (va - deviceBase) % 2 ^ 21 + j := by
      simp only [deviceBase] at hva ⊢
      omega
    rw [hpage]
    split
    · simp only [memKey, hin, Nat.add_assoc]
    · simp only [memKey, Nat.add_assoc]
  · simp only [memKey, Nat.add_assoc]

theorem vaKey_congr {s t : State} {p : Port} {pasid va : Nat} (h : t.hbm.pages = s.hbm.pages) :
    vaKey t p pasid va = vaKey s p pasid va := by
  simp only [vaKey, h]

/-- A filter that keeps an entry keeps what it says. -/
theorem tblFind_filter {α : Type} {t : Tbl α} {f : Nat × α → Bool} {a : Nat} (h : ∀ x, f (a, x) = true) :
    tblFind (t.filter f) a = tblFind t a := by
  induction t with
  | nil => rfl
  | cons e t ih =>
    obtain ⟨b, x⟩ := e
    by_cases hb : b = a
    · subst hb
      simp [h, tblFind]
    · rw [List.filter_cons]
      split
      · simp [tblFind, hb, ih]
      · simp [tblFind, hb, ih]

theorem memGet_pokePieces {m : List Host.Cell} {key : Nat → Nat} {l : List (Nat × Nat)} {b : List Byte} {k : Nat}
    (h : ∀ e ∈ l, ∀ j < e.2, k ≠ key e.1 + j) : memGet (pokePieces m key l b) k = memGet m k := by
  induction l generalizing m b with
  | nil => rfl
  | cons e l ih =>
    obtain ⟨he, hl⟩ := List.forall_mem_cons.1 h
    refine (ih hl).trans (memGet_write_out _ _ _ _ ?_)
    by_contra hk
    push Not at hk
    obtain ⟨hlo, hhi⟩ := hk
    have hlen : (b.take e.2).length ≤ e.2 := List.length_take_le _ _
    exact he (k - key e.1) (by omega) (by omega)

section
variable {P : Nat → Prop} {s u t : State}

theorem BytesKept.write {sp : Space} {a : Nat} {b : List Byte} (h : BytesKept P s u)
    (hP : ∀ j < b.length, P (memKey sp a + j)) : BytesKept P s (u.write sp a b) := by
  intro k hk
  refine (memGet_write_out _ _ _ _ ?_).trans (h k hk)
  by_contra hin
  push Not at hin
  obtain ⟨hlo, hhi⟩ := hin
  exact hk (Nat.add_sub_cancel' hlo ▸ hP (k - memKey sp a) (by omega))

theorem BytesKept.clear {sp : Space} (h : BytesKept P s u) (hP : ∀ k, SpaceByte sp k → P k) :
    BytesKept P s (u.clear sp) := by
  intro k hk
  refine Eq.trans ?_ (h k hk)
  have hout : ¬ SpaceByte sp k := fun hb => hk (hP k hb)
  unfold memGet tblGet
  rw [State.clear, tblFind_filter fun _ => ?_]
  rwa [Bool.not_eq_true', ← Bool.not_eq_true, Bool.and_eq_true, decide_eq_true_eq, decide_eq_true_eq]

theorem BytesKept.pokeVa {p : Port} {pasid va : Nat} {b : List Byte} (h : BytesKept P s u)
    (hP : ∀ k, VaByte u p pasid va b.length k → P k) : BytesKept P s (pokeVa u p pasid va b) := by
  intro k hk
  unfold Machine.pokeVa
  rw [unpoison_mem]
  refine (memGet_pokePieces fun e he j hj hkey => hk (hP k ?_)).trans (h k hk)
  obtain ⟨hlo, hhi, hpage⟩ := mem_piecesOf he hj
  refine ⟨e.1 + j - va, by omega, ?_⟩
  rw [Nat.add_sub_cancel' (by omega), vaKey_add hpage, hkey]

theorem Spares.write {sp : Space} {a : Nat} {b : List Byte} (h : Spares P s u)
    (hP : ∀ j < b.length, P (memKey sp a + j)) : Spares P s (u.write sp a b) :=
  { h with bytes := h.bytes.write hP }

theorem Spares.clear {sp : Space} (h : Spares P s u) (hP : ∀ k, SpaceByte sp k → P k) : Spares P s (u.clear sp) :=
  { h with bytes := h.bytes.clear hP }

theorem Spares.vaByte {p : Port} {pasid va n k : Nat} (h : Spares P s u) :
    VaByte u p pasid va n k ↔ VaByte s p pasid va n k := by
  simp only [VaByte, vaKey_congr h.pages]

theorem Spares.unpoison {p : Port} {pasid va n : Nat} (h : Spares P s u) : Spares P s (unpoison u p pasid va n) :=
  .ite h.rest h

theorem Spares.pokeVa {p : Port} {pasid va : Nat} {b : List Byte} (h : Spares P s u)
    (hP : ∀ k, VaByte s p pasid va b.length k → P k) : Spares P s (pokeVa u p pasid va b) :=
  .unpoison { h with bytes := (h.bytes.pokeVa fun k hk => hP k (h.vaByte.1 hk)).rest (unpoison_mem ..).symm }

theorem Spares.writeVa {p : Port} {pasid va : Nat} {b : List Byte} (h : Spares P s u)
    (e : writeVa u p pasid va b = .ok t) (hP : ∀ k, VaByte s p pasid va b.length k → P k) : Spares P s t := by
  unfold Machine.writeVa at e
  split at e
  · cases e
    exact h.pokeVa hP
  · cases e

/-- Free values go where a range may be written. -/
theorem Spares.scrambleVa {p : Port} {pasid va n : Nat} (h : Spares P s u) (hP : ∀ k, VaByte s p pasid va n k → P k) :
    Spares P s (scrambleVa u p pasid va n) := by
  unfold Machine.scrambleVa
  have hin (e) (he : e ∈ piecesOf 4096 va n) (k) (hk : VaByte s p pasid e.1 e.2 k) : P k := by
    obtain ⟨j, hj, rfl⟩ := hk
    obtain ⟨hlo, hhi, -⟩ := mem_piecesOf he hj
    exact hP _ ⟨e.1 + j - va, by omega, by rw [Nat.add_sub_cancel' (by omega)]⟩
  generalize piecesOf 4096 va n = l at hin
  induction l generalizing u with
  | nil => exact h
  | cons e l ih =>
    obtain ⟨he, hl⟩ := List.forall_mem_cons.1 hin
    refine ih ?_ hl
    dsimp only
    split
    · have hlen (d n : Nat) : (freeBytes d n).length = n := by simp [freeBytes]
      exact (h.pokeVa (b := freeBytes _ _) (by simpa only [hlen] using he)).rest
    · exact h

end

/-! ### Events, the fault log and the ports -/

section
variable {P : Nat → Prop} {s u t : State}

theorem Spares.send {m : OutMsg} (h : Spares P s u) : Spares P s (u.send m) := h.rest

theorem Spares.request {p : Port} {m : OutMsg} (h : Spares P s u) : Spares P s (u.request p m) :=
  .ite h.rest (.ite h.modPort h)

theorem Spares.msixSend {p : Port} {n : Nat} (h : Spares P s u) : Spares P s (msixSend u p n) :=
  .ite h.setPort (.ite h.setPort h.setPort.send)

theorem Spares.msixTrigger {p : Port} {n : Nat} (h : Spares P s u) : Spares P s (msixTrigger u p n) :=
  .ite h (.ite h.msixSend h.setPort)

theorem Spares.hostForward {p : Port} {n : Nat} (h : Spares P s u) : Spares P s (hostForward u p n) :=
  .ite h h.setPort.msixTrigger

theorem Spares.fire {n : Nat} (h : Spares P s u) : Spares P s (u.fire n) :=
  .ite (.hostForward (.hostForward h.rest)) h

theorem Spares.dieEvent {d b : Nat} (h : Spares P s u) : Spares P s (dieEvent u d b) := .fire h.rest

theorem Spares.countPort {p : Port} {get : PortState → Stat} {put : PortState → Stat → PortState} {source n : Nat}
    (h : Spares P s u) (hput : ∀ x v, (put x v).place = x.place := by intros; rfl) :
    Spares P s (countPort u p get put source n) :=
  .ite (h.modPort fun _ => hput _ _).fire (h.modPort fun _ => hput _ _)

theorem Spares.consumerError {p : Port} (h : Spares P s u) : Spares P s (consumerError u p) :=
  have hh := h.apart (A := [.hosts]) (.modHost .refl)
  .ite hh.fire hh

theorem Spares.logFault {code detail die engine : Nat} {portB : Bool} {who : Option (Nat × Nat × Nat)}
    (h : Spares P s u) : Spares P s (logFault u code detail die engine portB who) := by
  unfold Machine.logFault
  dsimp only
  split
  · exact h.rest
  · exact .fire h.rest

theorem Spares.logOnDie {code detail die : Nat} (h : Spares P s u) : Spares P s (logOnDie u code detail die) :=
  h.logFault

theorem Spares.logOnPort {code : Nat} {p : Port} (h : Spares P s u) : Spares P s (logOnPort u code p) := h.logFault

theorem Spares.logOnQueue {code detail i seq : Nat} {q : Queue} (h : Spares P s u) :
    Spares P s (logOnQueue u code detail i q seq) := h.logFault

theorem Spares.askPage {p : Port} {pasid page : Nat} {write : Bool} (h : Spares P s u) :
    Spares P s (askPage u p pasid page write) :=
  .ite h.setPort h.setPort.request

theorem Spares.pcieViolation {p : Port} {code : Nat} (h : Spares P s u) : Spares P s (pcieViolation u p code) :=
  h.countPort.logOnPort

theorem Spares.dropRequest {p : Port} {w : PageWait} (h : Spares P s u) : Spares P s (dropRequest u p w) := by
  have hp : Spares P s (u.setPort p { u.port p with pageReqs := (u.port p).pageReqs.erase w }) := h.setPort
  refine .ite ?_ hp
  split
  · exact hp.request
  · exact hp

theorem Spares.withdrawPages {p : Port} {pasid : Nat} (h : Spares P s u) : Spares P s (withdrawPages u p pasid) := by
  unfold Machine.withdrawPages
  exact h.modPort

theorem Spares.setupDone {p : Port} {code : Nat} (h : Spares P s u) : Spares P s (setupDone u p code) :=
  .fire (.modPort h.rest)

/-! ### Launches and claims -/

theorem Spares.freeSlots {l : Nat} (h : Spares P s u) : Spares P s (freeSlots u l) := by
  unfold Machine.freeSlots
  split
  · exact h.foldl fun _ _ hv => hv.modEng
  · exact h

theorem Spares.dropLaunch {l : Nat} (h : Spares P s u) : Spares P s (dropLaunch u l) := h.freeSlots.rest

theorem Spares.dropGraphLaunch {c : Nat} (h : Spares P s u) : Spares P s (dropGraphLaunch u c) :=
  h.apart (A := [.grf]) (.dropGraphLaunch .refl)

theorem Spares.launchWritten {q seq : Nat} (h : Spares P s u) : Spares P s (launchWritten u q seq) := by
  unfold Machine.launchWritten
  extract_lets v
  have hv : Spares P s v := by
    dsimp only [v]
    split
    · exact h.dropLaunch
    · exact h
  clear_value v
  split
  · exact hv.dropGraphLaunch
  · exact hv

theorem Spares.endLaunch {c code : Nat} {x : Cmd} (h : Spares P s u) : Spares P s (endLaunch u c x code) := by
  unfold Machine.endLaunch
  split
  · exact h
  · exact .ite h.dropLaunch (.rest (.ite h h.freeSlots))

theorem Spares.endGraphLaunch {c : Nat} {x : Cmd} (h : Spares P s u) : Spares P s (endGraphLaunch u c x) :=
  h.apart (A := [.grf]) (.endGraphLaunch .refl)

theorem Spares.releaseClaims {c : Nat} (h : Spares P s u) : Spares P s (releaseClaims u c) := by
  unfold Machine.releaseClaims
  split
  · split
    · extract_lets w
      have hw : Spares P s w := h.foldl fun _ _ hv => hv.modEng
      exact hw.rest
    · exact h.rest
  · exact h

theorem Spares.releaseFlows {c : Nat} {failed : Bool} (h : Spares P s u) : Spares P s (releaseFlows u c failed) :=
  h.apart (A := [.opx]) (.releaseFlows .refl)

theorem Spares.nodeFinish {l n fault detail status : Nat} {result : BitVec 128} (h : Spares P s u) :
    Spares P s (nodeFinish u l n fault detail status result) :=
  h.apart (A := [.grf]) (.nodeFinish .refl)

/-! ### Completion records (R278) -/

theorem Spares.queueStop {i fault seq : Nat} {st : QState} (h : Spares P s u) :
    Spares P s (queueStop u i st fault seq) := by
  unfold Machine.queueStop
  split
  · exact h
  · next e => exact .ite h (.msixTrigger (h.putQueue e))

theorem Spares.queueError {i code : Nat} (h : Spares P s u) : Spares P s (queueError u i code) := by
  unfold Machine.queueError
  split
  · exact h
  · exact .ite h h.queueStop.logOnQueue

theorem Spares.haltFor {i fault seq : Nat} (h : Spares P s u) : Spares P s (haltFor u i fault seq) := by
  unfold Machine.haltFor
  split
  · exact .ite h.queueStop h
  · exact h

theorem recordLow_length (r : Record) : (recordLow r).length = 8 := by
  simp [recordLow, natLe]

theorem recordHigh_length (r : Record) : (recordHigh r).length = 24 := by
  simp [recordHigh, natLe]

/-- The place of a record of a queue that writes where one of `s` did. -/
theorem recordByte_of {i seq n off k : Nat} {q : Queue} (hq : (s.queue? i).map Queue.place = some q.place)
    (hn : off + n ≤ 32) (hk : VaByte s q.port q.pasid (cplAddr q seq + off) n k) : RecordByte s k := by
  obtain ⟨q', hq', hport, hpasid, hcpl, hlog⟩ := queue_of_place hq
  obtain ⟨j, hj, rfl⟩ := hk
  refine ⟨i, q', seq, hq', off + j, by omega, ?_⟩
  rw [hport, hpasid, cplAddr, cplAddr, hcpl, hlog, Nat.add_assoc]

theorem Spares.flushRecords {fuel i : Nat} (h : Spares P s u) (hR : ∀ k, RecordByte s k → P k) :
    Spares P s (flushRecords fuel u i) := by
  induction fuel generalizing u with
  | zero => exact h
  | succ fuel ih =>
    unfold Machine.flushRecords
    split
    · exact h
    · next q hq =>
      have hplace := h.queues hq
      split
      · exact h
      · next r _ =>
        split
        · next e =>
          extract_lets w q' v
          have hw : Spares P s w := .pokeVa
            (h.writeVa e fun k hk => hR k (recordByte_of hplace (by rw [recordHigh_length]) hk))
            fun k hk => hR k (recordByte_of (off := 0) hplace (by rw [recordLow_length]; decide) hk)
          clear_value w
          have hv : Spares P s v := (Spares.rest (hw.setQueue (q := q') hplace)).launchWritten
          exact ih (.ite hv.msixTrigger hv)
        · exact h.askPage.setQueue hplace
        · exact h
        · exact h.queueError

theorem Spares.putRecord {i : Nat} {r : Record} (h : Spares P s u) (hR : ∀ k, RecordByte s k → P k) :
    Spares P s (putRecord u i r) := by
  unfold Machine.putRecord
  split
  · exact h
  · next hq => exact .ite h (.flushRecords (.haltFor (h.putQueue hq)) hR)

end

/-! ### Ends of commands -/

/-- A byte of what one command that has started is writing. -/
def DestOf (s : State) (c k : Nat) : Prop :=
  ∃ x q r, s.cmd? c = some x ∧ s.queue? x.queue = some q ∧ r ∈ x.dests ∧ VaByte s q.port q.pasid r.1 r.2 k

/-- Store bytes may change, or a command is no store write under way. -/
def MayCut (P : Nat → Prop) (s : State) (c : Nat) : Prop :=
  (∀ k, StoreByte k → P k) ∨ ∀ x, s.cmd? c = some x → dOpcode x.desc = 0x82 → x.stage ≠ .running

/-- What the end of a command with a fault writes may change. -/
structure MayFault (P : Nat → Prop) (s : State) (c : Nat) : Prop where
  record : ∀ k, RecordByte s k → P k
  dests : ∀ k, DestOf s c k → P k
  cut : MayCut P s c

section
variable {P : Nat → Prop} {s u t : State}

theorem storeByte_memKey (n a j : Nat) : StoreByte (memKey (.store n) a + j) := by
  simp only [StoreByte, memKey, spaceNum]
  omega

theorem Spares.placeData {n : Nat} (h : Spares P s u) : Spares P s (placeData u n).1 :=
  h.apart (A := [.fls]) (.placeData .refl)

theorem Spares.programBlock {q : Queue} {d : Desc} {k : Nat} (h : Spares P s u) (hP : ∀ k, StoreByte k → P k) :
    Spares P s (programBlock q d u k) := by
  unfold Machine.programBlock
  split
  · exact h
  · extract_lets n v
    have hv : Spares P s v := h.write fun _ _ => hP _ (storeByte_memKey ..)
    exact hv.placeData.rest

theorem Spares.cutOffStore {c : Nat} {x : Cmd} (h : Spares P s u) (e : u.cmd? c = some x) (hcut : MayCut P s c) :
    Spares P s (cutOffStore u x) := by
  unfold Machine.cutOffStore
  split
  · split
    · next hx =>
      obtain ⟨hop, hst⟩ : dOpcode x.desc = 0x82 ∧ x.stage = .running := by simpa using hx
      rcases hcut with hP | hnot
      · exact .foldl h.rest fun _ _ hv => hv.programBlock hP
      · obtain ⟨x', hx', -, hdesc, -, hstage⟩ := cmd_of_place (h.cmds e)
        exact absurd (hstage.trans hst) (hnot x' hx' (hdesc ▸ hop))
    · exact h
  · exact h

theorem Spares.releaseGraph {c : Nat} (h : Spares P s u) : Spares P s (releaseGraph u c) := h.rest

theorem Spares.finishCmd {c code detail : Nat} {result : BitVec 128} {logged shuttered : Bool} (h : Spares P s u)
    (hR : ∀ k, RecordByte s k → P k) (hcut : code = 0 ∨ MayCut P s c) :
    Spares P s (finishCmd u c code detail result logged shuttered) := by
  unfold Machine.finishCmd
  split
  · exact h
  · next x e =>
    extract_lets cut dropped released told
    have hc : Spares P s cut := by
      dsimp only [cut]
      split
      · exact h
      · next hcode => exact h.cutOffStore e (hcut.resolve_left fun h0 => hcode (by simp [h0]))
    clear_value cut
    have hr : Spares P s released := .releaseFlows (.dropCmd (.releaseClaims hc.endLaunch.endGraphLaunch.releaseGraph))
    clear_value released
    have ht : Spares P s told := by
      dsimp only [told]
      split
      · exact hr.logOnQueue
      · exact hr
    clear_value told
    split
    · exact ht.nodeFinish
    · split
      · exact ht
      · exact ht.putRecord hR

theorem Spares.scrambleDests {c : Nat} {x : Cmd} (h : Spares P s u) (e : u.cmd? c = some x)
    (hD : ∀ k, DestOf s c k → P k) : Spares P s (scrambleDests u x) := by
  unfold Machine.scrambleDests
  split
  · next q hq =>
    obtain ⟨x', hx', hqueue, -, hdests, -⟩ := cmd_of_place (h.cmds e)
    obtain ⟨q', hq', hport, hpasid, -⟩ := queue_of_place (h.queues hq)
    exact h.foldlMem fun v r hr hv => hv.scrambleVa fun k hk =>
      hD k ⟨x', q', r, hx', hqueue ▸ hq', hdests ▸ hr, by rwa [hport, hpasid]⟩
  · exact h

/-- A command's end with what it was writing undefined. -/
theorem Spares.finishScrambled {c code detail : Nat} {result : BitVec 128} {logged shuttered : Bool} {x : Cmd}
    (h : Spares P s u) (e : u.cmd? c = some x) (hE : MayFault P s c) :
    Spares P s (Machine.finishCmd (Machine.scrambleDests u x) c code detail result logged shuttered) :=
  (h.scrambleDests e hE.dests).finishCmd hE.record (.inr hE.cut)

theorem Spares.failCmd {c code detail : Nat} {result : BitVec 128} {logged : Bool} (h : Spares P s u)
    (hE : MayFault P s c) : Spares P s (failCmd u c code detail result logged) := by
  unfold Machine.failCmd
  split
  · next e => exact h.finishScrambled e hE
  · exact h.finishCmd hE.record (.inr hE.cut)

theorem Spares.faultAs {c code detail : Nat} {logged : Bool} (h : Spares P s u) (hE : MayFault P s c) :
    Spares P s (faultAs u c code detail logged) := by
  unfold Machine.faultAs
  split
  · exact h
  · next e =>
    split
    · exact h
    · split
      · exact h
      · exact .modCmd h.rest
      · exact h.finishScrambled e hE

theorem Spares.faultCmd {c code detail : Nat} (h : Spares P s u) (hE : MayFault P s c) :
    Spares P s (faultCmd u c code detail) :=
  h.faultAs hE

/-! ### Runs of commands -/

/-- What a stop brings about writes only what the end of its command may. -/
theorem Spares.stopped {c : Nat} {q : Queue} {x : Stop} (h : Spares P s u) (hE : MayFault P s c) :
    BytesKept P s (stopped u c q x) := by
  unfold Machine.stopped
  split
  · exact (h.failCmd hE).bytes
  · exact (Spares.failCmd h.rest hE).bytes
  · exact (h.failCmd hE).bytes
  · exact h.askPage.bytes.apart (A := [.cmds]) (.modCmd .refl)
  · exact h.bytes

/-- What a body's answer has written, and will write, may change. -/
inductive DoneSpares (P : Nat → Prop) (s : State) (c : Nat) : Done → Prop where
  | ok {t : State} {r : BitVec 128} (h : Spares P s t) : DoneSpares P s c (.ok t r)
  | bad {t : State} {code detail : Nat} {r : BitVec 128} {logged : Bool} (h : Spares P s t) (hcut : MayCut P s c) :
    DoneSpares P s c (.bad t code detail r logged)
  | run {t : State} (h : Spares P s t) : DoneSpares P s c (.run t)
  | hold : DoneSpares P s c (.stop .hold)
  | stop {x : Stop} (hE : MayFault P s c) : DoneSpares P s c (.stop x)
  | held {t : State} {x : Stop} (h : Spares P s t) (hE : MayFault P s c) : DoneSpares P s c (.held t x)

/-- A body that changes no part that says where bytes lie. -/
theorem DoneSpares.apart {A : List Part} {c : Nat} {d : Done} (hE : MayFault P s c) (hd : DoneTouches A s d)
    (hA : ∀ p ∈ Part.placed, p ∉ A := by decide) : DoneSpares P s c d := by
  cases hd with
  | ok ht => exact .ok (Spares.refl.apart ht hA)
  | bad ht => exact .bad (Spares.refl.apart ht hA) hE.cut
  | run ht => exact .run (Spares.refl.apart ht hA)
  | stop => exact .stop hE
  | held ht => exact .held (Spares.refl.apart ht hA) hE

theorem DoneSpares.within {α : Type} {c : Nat} {x : Try α} {k : α → Done} (hE : MayFault P s c)
    (hk : ∀ a, x = .ok a → DoneSpares P s c (k a)) : DoneSpares P s c (within x k) := by
  unfold Machine.within
  split
  · exact hk _ rfl
  · exact .stop hE

theorem DoneSpares.settle {c : Nat} {q : Queue} {d : Done} (hd : DoneSpares P s c d) (hR : ∀ k, RecordByte s k → P k) :
    BytesKept P s (settle s c q d) := by
  cases hd with
  | ok h => exact (h.finishCmd hR (.inl rfl)).bytes
  | bad h hcut => exact (h.finishCmd hR (.inr hcut)).bytes
  | run h => exact h.bytes.apart (A := [.cmds]) (.modCmd .refl)
  | hold => exact .refl
  | stop hE => exact Spares.refl.stopped hE
  | held h hE => exact h.stopped hE

theorem BytesKept.takeCmd {c opcode : Nat} {stages : List Stage} {body : State → Cmd → Queue → Done}
    (hR : ∀ k, RecordByte s k → P k)
    (hbody : ∀ x q, s.cmd? c = some x → dOpcode x.desc = opcode → s.queue? x.queue = some q →
      DoneSpares P s c (body s x q)) :
    BytesKept P s (takeCmd s c opcode stages body) := by
  unfold Machine.takeCmd
  split
  · exact .refl
  · next x hx =>
    split
    · exact .refl
    · next q hq =>
      split
      · next hmay =>
        have hop : dOpcode x.desc = opcode := by
          simp only [Bool.and_eq_true, beq_iff_eq] at hmay
          exact hmay.1.1
        exact (hbody x q hx hop hq).settle hR
      · exact .refl

end

/-! ### Control commands, and commands that store nothing (09 R284-R287) -/

section
variable {P : Nat → Prop} {s u t : State}

theorem BytesKept.act {ok : Bool} {f : State → State} (hf : BytesKept P s (f s)) (e : act ok s f = .next t) :
    BytesKept P s t := by
  unfold Machine.act at e
  split at e
  · split at e
    · cases e
      exact hf
    · cases e
      exact .refl
  · cases e

theorem BytesKept.actAlways {ok : Bool} {f : State → State} (hf : BytesKept P s (f s))
    (e : actAlways ok s f = .next t) : BytesKept P s t := by
  unfold Machine.actAlways at e
  split at e
  · cases e
    exact hf
  · cases e

theorem destOf_destByte {c k : Nat} (h : DestOf s c k) : DestByte s k := ⟨c, h⟩

/-- The end of a command that is no store write. -/
theorem MayFault.of_opcode {c opcode : Nat} {x : Cmd} (hR : ∀ k, RecordByte s k → P k) (hD : ∀ k, DestByte s k → P k)
    (hx : s.cmd? c = some x) (hop : dOpcode x.desc = opcode) (hne : opcode ≠ 0x82) : MayFault P s c where
  record := hR
  dests k hk := hD k (destOf_destByte hk)
  cut := .inr fun y hy h82 => by
    cases hx.symm.trans hy
    exact absurd (hop.symm.trans h82) hne

/-- The end of any command. -/
theorem MayFault.of_bytes {c : Nat} (hR : ∀ k, RecordByte s k → P k) (hD : ∀ k, DestByte s k → P k)
    (hS : ∀ k, StoreByte k → P k) : MayFault P s c :=
  ⟨hR, fun k hk => hD k (destOf_destByte hk), .inl hS⟩

/-- A command whose body stores nothing writes its record, and what a fault leaves undefined. -/
theorem BytesKept.takeApart {A : List Part} {c opcode : Nat} {stages : List Stage} {body : State → Cmd → Queue → Done}
    (hbody : ∀ x q, DoneTouches A s (body s x q)) (hA : ∀ p ∈ Part.placed, p ∉ A := by decide)
    (hne : opcode ≠ 0x82 := by decide) :
    BytesKept (fun k => RecordByte s k ∨ DestByte s k) s (Machine.takeCmd s c opcode stages body) :=
  .takeCmd (fun _ => .inl) fun x q hx hop _ =>
    .apart (.of_opcode (fun _ => .inl) (fun _ => .inr) hx hop hne) (hbody x q) hA

/-- The step of such a command. -/
theorem BytesKept.actApart {A : List Part} {c opcode : Nat} {stages : List Stage} {body : State → Cmd → Queue → Done}
    (e : Machine.act true s (fun s => Machine.takeCmd s c opcode stages body) = .next t)
    (hbody : ∀ x q, DoneTouches A s (body s x q)) (hA : ∀ p ∈ Part.placed, p ∉ A := by decide)
    (hne : opcode ≠ 0x82 := by decide) : BytesKept (fun k => RecordByte s k ∨ DestByte s k) s t :=
  .act (.takeApart hbody hA hne) e

theorem execNoOp_bytes {c : Nat} (e : execNoOp c s = .next t) : BytesKept (RecordByte s) s t :=
  .act (.takeCmd (fun _ h => h) fun _ _ _ _ _ => .ok .refl) e

theorem execQueueBarrier_bytes {c : Nat} (e : execQueueBarrier c s = .next t) : BytesKept (RecordByte s) s t := by
  refine .act (.takeCmd (fun _ h => h) fun _ _ _ _ _ => ?_) e
  split
  · exact .hold
  · exact .ok .refl

theorem execResume_bytes {c : Nat} (e : execResume c s = .next t) : BytesKept (RecordByte s) s t :=
  .act (.takeCmd (fun _ h => h) fun _ _ _ _ hq => .ok (.ite (Spares.refl.putQueue hq) .refl)) e

/-! ### Fences (R285) -/

theorem needFence_fence {p : Port} {h off : Nat} {f : Nat × Fence} (e : needFence s p h off = .ok f) :
    s.fence? f.1 = some f.2 := by
  unfold needFence at e
  split at e
  · cases e
  · split at e
    · cases e
    · next hf =>
      split at e
      · cases e
        exact hf
      · cases e

theorem Spares.writeMirror {i v : Nat} {f : Fence} (h : Spares P s u) (e : writeMirror u f v = .ok t)
    (hf : (s.fence? i).map Fence.place = some f.place) (hM : ∀ k, MirrorByte s k → P k) : Spares P s t := by
  unfold Machine.writeMirror at e
  split at e
  · cases e
    exact h
  · obtain ⟨f', hf', hport, hpasid, hmirror⟩ := fence_of_place hf
    exact h.writeVa e fun k hk => hM k ⟨i, f', hf', by rwa [hport, hpasid, hmirror]⟩

theorem DoneSpares.signalMirror {c i v : Nat} {q : Queue} {f : Fence} (h : Spares P s u) (hE : MayFault P s c)
    (hf : (s.fence? i).map Fence.place = some f.place) (hM : ∀ k, MirrorByte s k → P k) :
    DoneSpares P s c (signalMirror u c q f v) := by
  unfold Machine.signalMirror
  split
  · next e => exact .ok (h.writeMirror e hf hM)
  · exact .bad h hE.cut
  · exact .run h.askPage.modCmd
  · exact .run h.modCmd
  · exact .stop hE

theorem DoneSpares.fenceSignalBody {c : Nat} {x : Cmd} {q : Queue} (hE : MayFault P s c)
    (hM : ∀ k, MirrorByte s k → P k) : DoneSpares P s c (fenceSignalBody c s x q) := by
  unfold Machine.fenceSignalBody
  split
  · exact .hold
  · refine .within hE fun f e => ?_
    have hf : (s.fence? f.1).map Fence.place = some f.2.place := by rw [needFence_fence e]; rfl
    split
    · exact .signalMirror .refl hE hf hM
    · exact .within hE fun _ _ => .signalMirror (Spares.refl.setFenceValue (needFence_fence e)) hE hf hM

theorem execFenceSignal_bytes {c : Nat} (e : execFenceSignal c s = .next t) :
    BytesKept (fun k => RecordByte s k ∨ DestByte s k ∨ MirrorByte s k) s t :=
  .act (.takeCmd (fun _ => .inl) fun _ _ hx hop _ =>
    .fenceSignalBody (.of_opcode (fun _ => .inl) (fun _ h => .inr (.inl h)) hx hop (by decide))
      fun _ h => .inr (.inr h)) e

/-! ### Starts of commands (R282) -/

theorem Spares.recordByte {k : Nat} (h : Spares P s u) (hk : RecordByte u k) : RecordByte s k := by
  obtain ⟨i, q, seq, hq, hb⟩ := hk
  exact recordByte_of (off := 0) (h.queues hq) (by decide) (h.vaByte.1 hb)

/-- A command that starts writes nothing, but a record when its header is refused. -/
theorem startCmd_bytes {i : Nat} {q : Queue} {x : Cmd} (hR : ∀ k, RecordByte u k → P k) (hd : x.dests = [])
    (hst : x.stage = .started) : BytesKept P u (startCmd u i q x) := by
  unfold startCmd
  extract_lets c _ w
  have hw : BytesKept P u w := BytesKept.refl.rest
  split
  · exact hw
  · refine hw.trans (DoneSpares.settle (.stop ⟨hR, fun k hk => ?_, .inr fun y hy _ => ?_⟩) hR)
    · obtain ⟨y, q, r, hy, -, hr, -⟩ := hk
      cases (tblFind_put_same u.cmds c x).symm.trans hy
      simp [hd] at hr
    · cases (tblFind_put_same u.cmds c x).symm.trans hy
      simp [hst]

theorem commandStart_bytes {i : Nat} : BytesKept (RecordByte s) s (commandStart s i) := by
  unfold commandStart
  split
  · exact .refl
  · next q hq =>
    split
    · exact .refl
    · next seq d rest _ =>
      extract_lets q' x
      have hs : Spares (RecordByte s) s (s.setQueue i q') := Spares.refl.putQueue hq
      have hstart : BytesKept (RecordByte s) s (startCmd (s.setQueue i q') i q' x) :=
        hs.bytes.trans (startCmd_bytes (fun _ => hs.recordByte) rfl rfl)
      clear_value q'
      split
      · split
        · exact .refl
        · split
          · split
            · exact hstart
            · exact .refl
          · exact (hs.putRecord fun _ hk => hk).bytes
      · split
        · exact hstart
        · exact .refl

theorem execCommandStart_bytes {i : Nat} (e : execCommandStart i s = .next t) : BytesKept (RecordByte s) s t :=
  .act (.ite commandStart_bytes .refl) e

/-! ### The end of a shuttered command (R292) -/

theorem shutterComplete_bytes {c : Nat} :
    BytesKept (fun k => RecordByte s k ∨ DestByte s k ∨ StoreByte k) s (shutterComplete s c) := by
  unfold shutterComplete
  split
  · exact .refl
  · next e =>
    split
    · split
      · exact (Spares.refl.finishScrambled e
          (.of_bytes (fun _ => .inl) (fun _ h => .inr (.inl h)) fun _ h => .inr (.inr h))).bytes
      · exact .refl
    · exact .refl

theorem execShutterComplete_bytes {c : Nat} (e : execShutterComplete c s = .next t) :
    BytesKept (fun k => RecordByte s k ∨ DestByte s k ∨ StoreByte k) s t := .act shutterComplete_bytes e

end

/-! ### Ends of tasks (R250) -/

section
variable {P : Nat → Prop} {s u t : State}

theorem Spares.dropTask {e : Nat} (h : Spares P s u) : Spares P s (dropTask u e) :=
  h.setEng fun _ hk => by cases hk

theorem Spares.setTask {e : Nat} {k : Task} (h : Spares P s u) (hk : ((s.eng e).task).map Task.place = some k.place) :
    Spares P s (setTask u e k) :=
  h.setEng fun _ hx => by
    cases hx
    exact hk

theorem Spares.undoneRecords {l : List Handed} (h : Spares P s u) (hR : ∀ k, RecordByte s k → P k) :
    Spares P s (undoneRecords u l) := by
  induction l generalizing u with
  | nil => exact h
  | cons r l ih =>
    unfold Machine.undoneRecords
    split
    · exact ih h
    · exact ih (h.putRecord hR)

theorem Spares.endWaits {e : Nat} {k : Task} {wait : Option (Nat × Nat) → TaskWait} {v : State} {x : Stop}
    (h : Spares P s u) (hv : Spares P s v) (hk : ((s.eng e).task).map Task.place = some k.place) :
    Spares P s (endWaits u e k wait v x) := by
  unfold Machine.endWaits
  split
  · exact .askPage (h.setTask hk)
  · exact .ite (h.setTask hk) hv
  · exact hv

theorem Spares.mirrorEnd {e v : Nat} {k : Task} (h : Spares P s u)
    (hk : ((s.eng e).task).map Task.place = some k.place) (hM : ∀ k, MirrorByte s k → P k) :
    Spares P s (mirrorEnd u e k v) := by
  unfold Machine.mirrorEnd
  split
  · exact h.dropTask
  · next hf =>
    obtain ⟨i, -, hf⟩ := Option.bind_eq_some_iff.1 hf
    split
    · next hw => exact (h.writeMirror hw (h.fences hf) hM).dropTask
    · exact h.endWaits h.dropTask hk

theorem Spares.closeTask {e : Nat} {k : Task} (h : Spares P s u)
    (hk : ((s.eng e).task).map Task.place = some k.place) (hR : ∀ k, RecordByte s k → P k)
    (hT : ∀ k, TaskByte s k → P k) : Spares P s (closeTask u e k) := by
  unfold Machine.closeTask
  obtain ⟨k', hk', -⟩ := task_of_place hk
  extract_lets v k₀
  have hv : Spares P s v := (h.clear fun _ hb => hT _ (.inr ⟨e, k', hk', .inl hb⟩)).undoneRecords hR
  clear_value v
  split
  · exact hv.dropTask
  · split
    · exact hv.dropTask
    · next hf => exact .mirrorEnd (hv.setFenceValue hf) hk fun _ hb => hT _ (.inl hb)

theorem endRecord_length (s : State) (e : Nat) (k : Task) (fault : Nat) : (endRecord s e k fault).length = 16 := by
  simp [endRecord, natLe, zeros]

theorem Spares.recordEnd {e fault : Nat} {k : Task} (h : Spares P s u)
    (hk : ((s.eng e).task).map Task.place = some k.place) (hR : ∀ k, RecordByte s k → P k)
    (hT : ∀ k, TaskByte s k → P k) : Spares P s (recordEnd u e k fault) := by
  unfold Machine.recordEnd
  split
  · exact h.closeTask hk hR hT
  · next q hq =>
    split
    · exact h.closeTask hk hR hT
    · split
      · next hw =>
        refine (h.writeVa hw fun a ha => hT a ?_).closeTask hk hR hT
        obtain ⟨k', hk', hqueue, hend⟩ := task_of_place hk
        obtain ⟨q', hq', hport, hpasid, -⟩ := queue_of_place (h.queues hq)
        rw [endRecord_length] at ha
        exact .inr ⟨e, k', hk', .inr ⟨q', hqueue ▸ hq', by rwa [hport, hpasid, hend]⟩⟩
      · exact h.endWaits (h.closeTask hk hR hT) hk

theorem Spares.endTask {e fault : Nat} (h : Spares P s u) (hR : ∀ k, RecordByte s k → P k)
    (hT : ∀ k, TaskByte s k → P k) : Spares P s (endTask u e fault) := by
  unfold Machine.endTask
  split
  · exact h
  · next hk =>
    split
    · exact h.recordEnd (h.tasks hk) hR hT
    · exact h.mirrorEnd (h.tasks hk) fun _ hb => hT _ (.inl hb)
    · exact h.recordEnd (h.tasks hk) hR hT

/-! ### Answers to translations (R270) -/

/-- What the answer to a translation or page request writes may change. -/
structure MayAnswer (P : Nat → Prop) (s : State) : Prop where
  fault : ∀ c, MayFault P s c
  record : ∀ k, RecordByte s k → P k
  task : ∀ k, TaskByte s k → P k

theorem Spares.taskRefused {code e : Nat} (h : Spares P s u) (hA : MayAnswer P s) :
    Spares P s (taskRefused code u e) := by
  unfold Machine.taskRefused
  split
  · exact h
  · next hk =>
    split
    · exact h.closeTask (h.tasks hk) hA.record hA.task
    · exact h.dropTask
    · exact h.endTask hA.record hA.task

theorem Spares.endWait {pasid page c : Nat} {write : Bool} (h : Spares P s u) :
    Spares P s (endWait pasid page write u c) :=
  h.modCmd fun y => by split <;> rfl

theorem Spares.refuseUser {p : Port} {pasid page : Nat} {code : Bool → Nat} {w : PageUser × Bool} (h : Spares P s u)
    (hA : MayAnswer P s) : Spares P s (refuseUser p pasid page code u w) := by
  unfold Machine.refuseUser
  split
  · exact h.endWait.faultCmd (hA.fault _)
  · exact .ite (.queueError h.modQueue) h
  · exact .ite (h.taskRefused hA) h

theorem Spares.refusePage {p : Port} {pasid page : Nat} {code : Bool → Nat} {l : List (PageUser × Bool)}
    (h : Spares P s u) (hA : MayAnswer P s) : Spares P s (refusePage u p pasid page code l) :=
  h.foldl fun _ _ hv => hv.refuseUser hA

theorem Spares.resumeQueue {page i : Nat} {write : Bool} (h : Spares P s u) (hA : MayAnswer P s) :
    Spares P s (resumeQueue page write u i) := by
  unfold Machine.resumeQueue
  split
  · next hq => exact .ite (.flushRecords (h.putQueue hq) hA.record) (h.putQueue hq)
  · exact h

theorem Spares.resumeTask {e : Nat} (h : Spares P s u) (hA : MayAnswer P s) : Spares P s (resumeTask u e) := by
  unfold Machine.resumeTask
  split
  · exact h
  · next hk =>
    have hplace := h.tasks hk
    split
    · exact h.setTask hplace
    · exact h.endTask hA.record hA.task

theorem Spares.resumeUser {p : Port} {pasid page : Nat} {w : PageUser × Bool} (h : Spares P s u) (hA : MayAnswer P s) :
    Spares P s (resumeUser p pasid page u w) := by
  unfold Machine.resumeUser
  split
  · exact h.endWait
  · exact .ite (h.resumeQueue hA) h
  · exact .ite (h.resumeTask hA) h

theorem Spares.askRequest {p : Port} {w : PageWait} (h : Spares P s u) (hA : MayAnswer P s) :
    Spares P s (askRequest u p w) :=
  .ite (h.refusePage hA) (.ite (.request h.setPort) h.setPort)

theorem Spares.atsCompletion {p : Port} {pasid page : Nat} {readable writable : Bool} (h : Spares P s u)
    (hA : MayAnswer P s) : Spares P s (atsCompletion u p pasid page readable writable) := by
  unfold Machine.atsCompletion
  extract_lets x
  split
  · exact h
  · extract_lets erased cached readers writers resumed reads writes left
    have he : Spares P s erased := h.setPort
    clear_value erased
    have hc : Spares P s cached := .ite he he.modPort
    clear_value cached
    have hr : Spares P s resumed := hc.foldl fun _ _ hv => hv.resumeUser hA
    clear_value resumed
    exact .ite he (.ite hr (.ite (hr.refusePage hA) (hr.askRequest hA)))

theorem Spares.prgResponse {p : Port} {pasid page : Nat} {code : PrgCode} (h : Spares P s u) (hA : MayAnswer P s) :
    Spares P s (prgResponse u p pasid page code) := by
  unfold Machine.prgResponse
  split
  · exact h.pcieViolation
  · next w _ =>
    extract_lets dropped refuse
    have hd : Spares P s dropped := h.dropRequest
    clear_value dropped
    have hrefuse (v : State) (hv : Spares P s v) : Spares P s (refuse v) := .ite hv (hv.refusePage hA)
    clear_value refuse
    split
    · exact .ite hd (.request hd.modPort)
    · exact hrefuse _ hd
    · exact .foldl (hrefuse _ (.modPort (.pcieViolation hd.modPort))) fun _ _ hv => hv.refusePage hA

/-- The bytes of a command that answers a translation or a page request. -/
theorem mayAnswer : MayAnswer (fun k => RecordByte s k ∨ DestByte s k ∨ StoreByte k ∨ TaskByte s k) s where
  fault _ := .of_bytes (fun _ => .inl) (fun _ h => .inr (.inl h)) fun _ h => .inr (.inr (.inl h))
  record _ := .inl
  task _ h := .inr (.inr (.inr h))

theorem execPageRequestTimeout_bytes {p : Port} {pasid page : Nat}
    (e : execPageRequestTimeout p pasid page s = .next t) :
    BytesKept (fun k => RecordByte s k ∨ DestByte s k ∨ StoreByte k ∨ TaskByte s k) s t := by
  refine .act ?_ e
  split
  · exact .refl
  · exact (Spares.ite Spares.refl.dropRequest (Spares.refl.dropRequest.refusePage mayAnswer)).bytes

theorem execAtsTranslationCompletion_bytes {p : Port} {pasid page : Nat} {readable writable : Bool}
    (e : execAtsTranslationCompletion p pasid page readable writable s = .next t) :
    BytesKept (fun k => RecordByte s k ∨ DestByte s k ∨ StoreByte k ∨ TaskByte s k) s t :=
  .act (Spares.refl.atsCompletion mayAnswer).bytes e

theorem execPrgResponse_bytes {p : Port} {pasid page : Nat} {code : PrgCode}
    (e : execPrgResponse p pasid page code s = .next t) :
    BytesKept (fun k => RecordByte s k ∨ DestByte s k ∨ StoreByte k ∨ TaskByte s k) s t :=
  .act (Spares.refl.prgResponse mayAnswer).bytes e

end

/-! ### Nodes of graphs (R310-R314) -/

section
variable {P : Nat → Prop} {s u t : State}

theorem nodeRecord_length (s : State) (l : GraphLaunch) (n fault detail status : Nat) (r : BitVec 128) :
    (nodeRecord s l n fault detail status r).length = 32 := by
  simp only [nodeRecord, List.length_append, recordLow_length, recordHigh_length]

theorem Spares.writeAll {q : Queue} {l : List (Nat × List Byte)} (h : Spares P s u) (e : writeAll u q l = .ok t)
    (hl : ∀ r ∈ l, ∀ k, VaByte s q.port q.pasid r.1 r.2.length k → P k) : Spares P s t := by
  induction l generalizing u with
  | nil =>
    cases e
    exact h
  | cons r l ih =>
    obtain ⟨hr, hl⟩ := List.forall_mem_cons.1 hl
    unfold Machine.writeAll at e
    split at e
    · next hw => exact ih (h.writeVa hw hr) e hl
    · cases e

/-- A record of a node that never started lies at the node's place. -/
theorem mem_notRun {l : GraphLaunch} {first : Nat} {r : Nat × List Byte} (h : r ∈ notRun s l first) :
    ∃ n < l.nodes.length, r.1 = l.recordsAddr + 32 * n ∧ r.2.length = 32 := by
  simp only [notRun, List.mem_map, List.mem_filter, List.mem_range] at h
  obtain ⟨n, ⟨hn, -⟩, rfl⟩ := h
  exact ⟨n, hn, rfl, nodeRecord_length ..⟩

theorem Spares.setGraphLaunch {c : Nat} {l : GraphLaunch} (h : Spares P s u) :
    Spares P s (u.setGraphLaunch c l) := h.rest

theorem Spares.endIfIdle {c : Nat} (h : Spares P s u) (hR : ∀ k, RecordByte s k → P k) (hS : ∀ k, StoreByte k → P k)
    (hN : ∀ k, NodeByte u c k → P k) : Spares P s (endIfIdle u c) := by
  have hcut : MayCut P s c := .inl hS
  unfold Machine.endIfIdle
  split
  · next l x hl hx =>
    split
    · exact h
    · next q hq =>
      dsimp only
      split
      · exact h
      · split
        · exact h.finishCmd hR (.inr hcut)
        · exact h.finishCmd hR (.inr hcut)
        · split
          · next e =>
            refine (h.writeAll e fun r hr k hk => ?_).finishCmd hR (.inr hcut)
            split at hr
            · cases hr
            · obtain ⟨n, hn, haddr, hlen⟩ := mem_notRun hr
              rw [haddr, hlen] at hk
              exact hN k ⟨l, x, q, n, hl, hx, hq, hn, h.vaByte.2 hk⟩
          · exact .modCmd h.askPage
          · exact h.finishCmd hR (.inr hcut)
          · exact h
  · exact h

/-- A change of a launch's nodes leaves the places of their records. -/
theorem nodeByte_of {c k : Nat} {l l' : GraphLaunch} (h : Spares P s u) (hl : tblFind s.grf.launches c = some l)
    (hk : NodeByte (u.setGraphLaunch c l') c k) (haddr : l'.recordsAddr = l.recordsAddr := by rfl)
    (hlen : l'.nodes.length = l.nodes.length := by simp [setNth]) : NodeByte s c k := by
  obtain ⟨g, x, q, n, hg, hx, hq, hn, hb⟩ := hk
  cases (tblFind_put_same u.grf.launches c l').symm.trans hg
  obtain ⟨x', hx', hqueue, -⟩ := cmd_of_place (h.cmds hx)
  obtain ⟨q', hq', hport, hpasid, -⟩ := queue_of_place (h.queues hq)
  refine ⟨l, x', q', n, hl, hx', hqueue ▸ hq', hlen ▸ hn, ?_⟩
  rw [hport, hpasid, ← haddr]
  exact h.setGraphLaunch.vaByte.1 hb

theorem graphNodeStart_bytes {c n : Nat} (hR : ∀ k, RecordByte s k → P k) (hS : ∀ k, StoreByte k → P k)
    (hN : ∀ k, NodeByte s c k → P k) : BytesKept P s (graphNodeStart s c n) := by
  unfold graphNodeStart
  split
  · exact .refl
  · next l hl =>
    split
    · exact .refl
    · split
      · exact BytesKept.refl.rest
      · split
        · have hs : Spares P s { s with draws := s.draws + 1 } := Spares.refl.rest
          exact (hs.setGraphLaunch.endIfIdle hR hS fun k hk => hN k (nodeByte_of hs hl hk)).bytes
        · split
          · exact .refl
          · split
            · exact .refl
            · exact BytesKept.trans BytesKept.refl.rest (startCmd_bytes hR rfl rfl)
      · exact .refl

theorem graphNodeComplete_bytes {c n : Nat} (hR : ∀ k, RecordByte s k → P k) (hS : ∀ k, StoreByte k → P k)
    (hN : ∀ k, NodeByte s c k → P k) : BytesKept P s (graphNodeComplete s c n) := by
  unfold graphNodeComplete
  split
  · next l x hl hx =>
    split
    · exact .refl
    · next q hq =>
      split
      · exact .refl
      · split
        · next f d st r hn =>
          have hlt : n < l.nodes.length := by
            by_contra hge
            rw [nth, List.getElem?_eq_none (by omega)] at hn
            cases hn
          have hdone (v : State) (own : Option (Nat × Nat × Bool)) (hv : Spares P s v) : BytesKept P s
              (endIfIdle (v.setGraphLaunch c
                { l with nodes := setNth l.nodes n (.completed f d st r), ownFault := own }) c) :=
            (hv.setGraphLaunch.endIfIdle hR hS fun k hk => hN k (nodeByte_of hv hl hk)).bytes
          dsimp only
          split
          · exact hdone _ _ .refl
          · split
            · next e =>
              refine hdone _ _ (Spares.refl.writeVa e fun k hk => hN k ⟨l, x, q, n, hl, hx, hq, hlt, ?_⟩)
              rwa [nodeRecord_length] at hk
            · exact (Spares.modCmd Spares.refl.askPage).bytes
            · exact hdone _ _ .refl
            · exact .refl
        · exact (Spares.refl.endIfIdle hR hS hN).bytes
        · exact .refl
  · exact .refl

theorem execGraphNodeStart_bytes {c n : Nat} (e : execGraphNodeStart c n s = .next t) :
    BytesKept (fun k => RecordByte s k ∨ StoreByte k ∨ NodeByte s c k) s t :=
  .act (graphNodeStart_bytes (fun _ => .inl) (fun _ h => .inr (.inl h)) fun _ h => .inr (.inr h)) e

theorem execGraphNodeComplete_bytes {c n : Nat} (e : execGraphNodeComplete c n s = .next t) :
    BytesKept (fun k => RecordByte s k ∨ StoreByte k ∨ NodeByte s c k) s t :=
  .act (graphNodeComplete_bytes (fun _ => .inl) (fun _ h => .inr (.inl h)) fun _ h => .inr (.inr h)) e

end

/-! ### Set-up requests (R293-R297) -/

section
variable {P : Nat → Prop} {s u t : State}

/-- The result field of a request. -/
theorem portByte_memKey {p : Port} {a n j : Nat} (h : j < n) : PortByte p a n (memKey (.untranslated p) a + j) :=
  ⟨Nat.le_add_right _ _, Nat.add_lt_add_left h _⟩

theorem BytesKept.portWrite {p : Port} {a n : Nat} {b : List Byte} (h : BytesKept P s u)
    (hP : ∀ k, PortByte p a n k → P k) (hn : b.length ≤ n) : BytesKept P s (u.write (.untranslated p) a b) :=
  h.write fun _ hj => hP _ (portByte_memKey (Nat.lt_of_lt_of_le hj hn))

theorem natLe_length (n v : Nat) : (natLe n v).length = n := by
  induction n generalizing v with
  | zero => rfl
  | succ n ih => simp only [natLe, List.length_cons, ih]

theorem BytesKept.setupDone {p : Port} {code : Nat} (h : BytesKept P s u) : BytesKept P s (setupDone u p code) :=
  h.apart (A := Part.fires ++ [Part.qfe]) (.setupDone .refl)

theorem BytesKept.setupOp {p : Port} {op : Nat} {f : State → List Byte → Except Nat State}
    (hf : ∀ b v, f s b = .ok v → BytesKept P s v) : BytesKept P s (setupOp s p op f) := by
  unfold Machine.setupOp
  split
  · exact .refl
  · split
    · exact .refl
    · split
      · next e => exact (hf _ _ e).setupDone
      · exact BytesKept.refl.setupDone

/-- A handle is written in the request, whose place is as the port had it. -/
theorem writeHandle_bytes {A : List Part} {p : Port} {n : Nat} (h : Touches A s u) (hm : .mem ∉ A := by decide)
    (hp : .ports ∉ A := by decide) :
    BytesKept (PortByte p ((s.port p).setup.addr + 0x70) 8) s (writeHandle u p n) := by
  have hport : u.port p = s.port p := by
    obtain ⟨hA, hB⟩ := h.same .ports hp
    cases p
    · exact hA
    · exact hB
  unfold writeHandle
  rw [hport]
  exact (BytesKept.refl.apart h hm).portWrite (fun _ hk => hk) (natLe_length ..).le

theorem createQueue_bytes {p : Port} {b : List Byte} (e : createQueue s p b = .ok t) :
    BytesKept (PortByte p ((s.port p).setup.addr + 0x70) 8) s t := by
  unfold createQueue at e
  extract_lets engines at e
  split at e
  · cases e
  split at e
  · cases e
  split at e
  · cases e
  split at e
  · cases e
  split at e
  · cases e
  · extract_lets q v v1 at e
    have hv : Touches [.engines, .qfe] s v := .setQueue (Touches.refl.rest)
    have hv1 : Touches [.engines, .qfe] s v1 := .ite (hv.foldl fun _ _ hw => hw.lowerWindow) hv
    exact Except.ok.inj e ▸ writeHandle_bytes (hv1.foldl fun _ _ hw => hw.takeSlot).usePage

theorem createFence_bytes {p : Port} {b : List Byte} (e : createFence s p b = .ok t) :
    BytesKept (PortByte p ((s.port p).setup.addr + 0x70) 8) s t := by
  unfold createFence at e
  split at e
  · cases e
  split at e
  · cases e
  · cases e
    exact writeHandle_bytes (A := [.qfe]) (.setFence (Touches.refl.rest))

theorem execSetupCreateQueue_bytes {p : Port} (e : execSetupCreateQueue p s = .next t) :
    BytesKept (PortByte p ((s.port p).setup.addr + 0x70) 8) s t :=
  .act (.setupOp fun _ _ he => createQueue_bytes he) e

theorem execSetupCreateFence_bytes {p : Port} (e : execSetupCreateFence p s = .next t) :
    BytesKept (PortByte p ((s.port p).setup.addr + 0x70) 8) s t :=
  .act (.setupOp fun _ _ he => createFence_bytes he) e

theorem Spares.startShutter {c : Nat} (h : Spares P s u) : Spares P s (startShutter u c) :=
  h.modCmd fun x => by split <;> rfl

theorem execSetupDestroyQueue_bytes {p : Port} (e : execSetupDestroyQueue p s = .next t) :
    BytesKept (fun k => RecordByte s k ∨ TaskByte s k) s t := by
  refine .act ?_ e
  split
  · split
    · unfold destroyQueue
      extract_lets h
      split
      · exact BytesKept.refl.setupDone
      · split
        · exact BytesKept.refl.setupDone
        · next q hq =>
          split
          · exact BytesKept.refl.setupDone
          · extract_lets cs td ts v
            have hv : Spares (fun k => RecordByte s k ∨ TaskByte s k) s v :=
              Spares.putQueue (x := q) Spares.refl.rest hq
            clear_value v
            exact ((hv.foldl fun _ _ hw => hw.startShutter).foldl fun _ _ hw =>
              hw.endTask (fun _ => .inl) fun _ => .inr).bytes
    · exact .refl
  · exact .refl

/-! ### Teardown (R296, R297) -/

theorem Spares.endTorn {i c : Nat} (h : Spares P s u) (hE : MayFault P s c) : Spares P s (endTorn i u c) := by
  unfold Machine.endTorn
  split
  · exact h
  · next e => exact h.finishScrambled e hE

theorem Spares.freeOwned {i e : Nat} (h : Spares P s u) : Spares P s (freeOwned i u e) := by
  unfold Machine.freeOwned
  exact h.modEng

theorem Spares.dropQueueWork {i : Nat} (h : Spares P s u) : Spares P s (dropQueueWork u i) := by
  unfold Machine.dropQueueWork
  extract_lets v w
  have hw : Spares P s w := (h.foldl fun _ _ hv => hv.dropLaunch).foldl fun _ _ hv => hv.dropGraphLaunch
  clear_value w
  exact hw.rest

/-- A queue goes. -/
theorem Spares.dropQueue {i : Nat} {td : Option (Port × Teardown)} (h : Spares P s u) :
    Spares P s { u with qfe := { u.qfe with queues := tblDel u.qfe.queues i, teardown := td } } :=
  { h with
    queues := fun {j _} e => by
      by_cases hj : j = i
      · subst hj
        exact absurd ((tblFind_del_same u.qfe.queues j).symm.trans e) (by simp)
      · exact h.queues ((tblFind_del_ne u.qfe.queues hj).symm.trans e) }

theorem teardownReport_length (s : State) (q : Queue) (k : Teardown) (l : List Nat) :
    (teardownReport s q k l).length = 16 := by
  simp [teardownReport, natLe_length, zeros]

theorem teardownComplete_bytes {p : Port} (hE : ∀ c, MayFault P s c)
    (hP : ∀ k, PortByte p ((s.port p).setup.addr + 0x40) 16 k → P k) : BytesKept P s (teardownComplete s p) := by
  unfold teardownComplete
  split
  · exact .refl
  · extract_lets cs i killed own v1 v2
    split
    · exact .refl
    · next q hq =>
      refine .ite .refl ?_
      extract_lets v3 _ v4 v5 v6
      have h1 : Spares P s v1 := Spares.refl.foldl fun _ _ hw => hw.endTorn (hE _)
      clear_value v1
      have h2 : Spares P s v2 := h1.foldl fun _ _ hw => hw.endTorn (hE _)
      clear_value v2
      have h3 : Spares P s v3 := .dropQueueWork (h2.foldl fun _ _ hw => .ite hw.freeOwned hw)
      clear_value v3
      have h4 : Spares P s v4 := h3.dropQueue
      clear_value v4
      have h5 : Spares P s v5 := Spares.rest h4.withdrawPages
      clear_value v5
      have hport : (v5.port p).setup.addr = (s.port p).setup.addr := congrArg Prod.fst (h5.ports p)
      have h6 : BytesKept P s v6 := by
        dsimp only [v6]
        split
        · rw [hport]
          exact h5.bytes.portWrite hP (teardownReport_length ..).le
        · exact h5.bytes
      exact h6.setupDone

theorem execQueueTeardownComplete_bytes {p : Port} (e : execQueueTeardownComplete p s = .next t) :
    BytesKept (fun k => RecordByte s k ∨ DestByte s k ∨ StoreByte k ∨
      PortByte p ((s.port p).setup.addr + 0x40) 16 k) s t :=
  .act (teardownComplete_bytes
    (fun _ => .of_bytes (fun _ => .inl) (fun _ h => .inr (.inl h)) fun _ h => .inr (.inr (.inl h)))
    fun _ h => .inr (.inr (.inr h))) e

end

/-! ### Map requests (R332-R335, R343, R347) -/

section
variable {P : Nat → Prop} {s u t : State}

theorem BytesKept.mapDone {p : Port} {code : Nat} (h : BytesKept P s u) : BytesKept P s (mapDone u p code) :=
  h.apart (A := Part.fires ++ [Part.hbm]) (.mapDone .refl)

theorem BytesKept.mapOk {p : Port} {n : Nat} (h : BytesKept P s u)
    (hP : ∀ k, PortByte p ((u.port p).map.addr + 0x70) 8 k → P k) : BytesKept P s (mapOk u p n) :=
  .mapDone (.ite (h.portWrite hP (natLe_length ..).le) h)

theorem BytesKept.mapEnd {p : Port} {n : Nat} (h : BytesKept P s u)
    (hP : ∀ k, PortByte p ((u.port p).map.addr + 0x70) 8 k → P k) : BytesKept P s (mapEnd u p n) :=
  .ite h.rest (h.mapOk hP)

theorem BytesKept.mapOp {p : Port} {op : Nat} {f : State → List Byte → State}
    (hf : ∀ b, mapRequest s p = some b → BytesKept P s (f s b)) : BytesKept P s (mapOp s p op f) := by
  unfold Machine.mapOp
  split
  · next e => exact .ite (hf _ e) .refl
  · exact .refl

theorem mapRequest_eq {p : Port} {b : List Byte} (e : mapRequest s p = some b) :
    b = s.read (.untranslated p) (s.port p).map.addr 128 := by
  unfold mapRequest at e
  dsimp only at e
  split at e
  · exact (Option.some.inj e).symm
  · cases e

theorem leNat_lt (l : List Byte) : leNat l < 256 ^ l.length := by
  induction l with
  | nil => decide
  | cons b l ih =>
    have hb := b.isLt
    simp only [leNat, List.length_cons, Nat.pow_succ]
    omega

theorem fieldOf_lt (b : List Byte) (off n : Nat) : fieldOf b off n < 256 ^ n :=
  (leNat_lt _).trans_le (Nat.pow_le_pow_right (by decide) (List.length_take_le _ _))

/-- A write in the window that a request names. -/
theorem BytesKept.windowWrite {p : Port} {addr n : Nat} {b w : List Byte} (h : BytesKept P s s)
    (hP : ∀ k, WindowByte s p addr n k → P k) (hb : b = s.read (.untranslated p) addr 128)
    (hn : w.length ≤ n) (hw : w.length ≤ fieldOf b 0x10 8) :
    BytesKept P s (s.write (.untranslated p) (fieldOf b 8 8) w) := by
  subst hb
  exact h.portWrite (fun k hk => hP k hk) (le_min hn hw)

theorem execBindStore_bytes {p : Port} (e : execBindStore p s = .next t) :
    BytesKept (PortByte p ((s.port p).map.addr + 0x70) 8) s t := by
  refine .act (.mapOp fun b _ => ?_) e
  have hdone {code : Nat} : BytesKept (PortByte p ((s.port p).map.addr + 0x70) 8) s (mapDone s p code) :=
    BytesKept.refl.mapDone
  unfold bindStore
  refine .ite hdone ?_
  split
  · exact hdone
  · split
    · exact hdone
    · exact .ite hdone (.mapOk BytesKept.refl.rest fun _ hk => hk)

/-- What a request that fills its window writes. -/
def MapWindow (s : State) (p : Port) (k : Nat) : Prop :=
  PortByte p ((s.port p).map.addr + 0x70) 8 k ∨ WindowByte s p (s.port p).map.addr (2 ^ 64) k

theorem mapWindow_bytes {p : Port} {n : Nat} {b w : List Byte} (e : mapRequest s p = some b)
    (hw : w.length ≤ fieldOf b 0x10 8) :
    BytesKept (MapWindow s p) s (mapOk (s.write (.untranslated p) (fieldOf b 8 8) w) p n) :=
  .mapOk (BytesKept.refl.windowWrite (fun _ => .inr) (mapRequest_eq e) (hw.trans (fieldOf_lt b 0x10 8).le) hw)
    fun _ => .inl

theorem storeEntry_length (i : Nat) (f : FlashStore) (own : Nat) : (storeEntry i f own).length = 32 := by
  simp only [storeEntry, List.length_append, natLe_length, zeros, List.length_replicate]

theorem execListStores_bytes {p : Port} (e : execListStores p s = .next t) : BytesKept (MapWindow s p) s t := by
  refine .act (.mapOp fun b he => .ite BytesKept.refl.mapDone (mapWindow_bytes he ?_)) e
  rw [List.length_flatMap, List.map_congr_left fun _ _ => storeEntry_length .., List.map_const', List.sum_replicate,
    List.length_take, smul_eq_mul]
  have hmin := Nat.min_le_left (fieldOf b 0x10 8 / 32) (s.fls.stores.filter fun e => match e.2.bound with
    | some (o, _) => o == p
    | none => true).length
  omega

theorem execReadDump_bytes {p : Port} (e : execReadDump p s = .next t) : BytesKept (MapWindow s p) s t := by
  refine .act (.mapOp fun b he => ?_) e
  unfold readDump
  refine .ite BytesKept.refl.mapDone ?_
  extract_lets k slot
  refine .ite BytesKept.refl.mapDone ?_
  split
  · exact BytesKept.refl.mapDone
  · next hlen => exact mapWindow_bytes he (by rw [State.read, memRead_length]; omega)

/-- What the end of zeroing writes. -/
def ZeroedByte (s : State) (p : Port) (k : Nat) : Prop :=
  PortByte p ((s.port p).map.addr + 0x70) 8 k ∨
    ∃ j e, s.hbm.job = some j ∧ e ∈ j.keys ∧ SpaceByte (.page e.2.stack e.2.page) k

theorem execMapZeroingComplete_bytes {p : Port} (e : execMapZeroingComplete p s = .next t) :
    BytesKept (ZeroedByte s p) s t := by
  refine .act ?_ e
  split
  · next j hj =>
    unfold zeroingComplete
    extract_lets v inPages _ w
    have hv : Spares (ZeroedByte s p) s v :=
      Spares.refl.foldlMem fun _ e he hw => hw.clear fun _ hk => .inr ⟨j, e, (jobOf_some hj).1, he, hk⟩
    clear_value v
    have hport : (w.port p).map.addr = (s.port p).map.addr := congrArg (·.2.1) (hv.ports p)
    exact .mapEnd hv.bytes.rest fun k hk => .inl (hport ▸ hk)
  · exact .refl

/-- What the end of a drain writes. -/
def DrainByte (s : State) (p : Port) (k : Nat) : Prop :=
  RecordByte s k ∨ DestByte s k ∨ StoreByte k ∨ PortByte p ((s.port p).map.addr + 0x70) 8 k

theorem execUnmapDrainEnd_bytes {p : Port} (e : execUnmapDrainEnd p s = .next t) : BytesKept (DrainByte s p) s t := by
  refine .act ?_ e
  split
  · next j _ =>
    extract_lets v
    have hv : Spares (DrainByte s p) s v := Spares.refl.foldl fun _ _ hw => hw.faultCmd
      (.of_bytes (fun _ => .inl) (fun _ h => .inr (.inl h)) fun _ h => .inr (.inr (.inl h)))
    clear_value v
    have hport : (v.port p).map.addr = (s.port p).map.addr := congrArg (·.2.1) (hv.ports p)
    exact .mapEnd hv.bytes fun k hk => .inr (.inr (.inr (hport ▸ hk)))
  · exact .refl

end

/-! ### Security requests (R425-R436) -/

section
variable {P : Nat → Prop} {s u t : State}

theorem Spares.modHost {p : Port} {f : HostDie → HostDie} (h : Spares P s u) : Spares P s (u.modHost p f) :=
  h.apart (A := [.hosts]) (.modHost .refl)

theorem Spares.wipeSealed {p : Port} (h : Spares P s u) : Spares P s (wipeSealed u p) := by
  unfold Machine.wipeSealed
  extract_lets b x under old buffer y v v1 v2 _
  have hv : Spares P s v := .modHost h.rest
  clear_value v
  have hv1 : Spares P s v1 := hv.rest
  clear_value v1
  have hv2 : Spares P s v2 := hv1.logOnDie
  clear_value v2
  exact .ite hv1 hv2.rest

theorem Spares.setPairState {k : Nat} {st : PairState} (h : Spares P s u) : Spares P s (setPairState u k st) :=
  .ite h (.dieEvent h.rest)

theorem Spares.modPair {k : Nat} {f : Pair → Pair} (h : Spares P s u) : Spares P s (u.modPair k f) := h.rest

theorem Spares.refreshPair {k : Nat} (h : Spares P s u) : Spares P s (refreshPair u k) :=
  .ite (.ite h.modPair.setPairState h) (.ite h h.modPair.setPairState)

theorem Spares.refreshPairs (h : Spares P s u) : Spares P s (refreshPairs u) := h.foldl fun _ _ hv => hv.refreshPair

theorem Spares.deriveKeys (h : Spares P s u) : Spares P s (deriveKeys u) := h.apart (A := [.hosts]) (.deriveKeys .refl)

theorem Spares.moveTo {st : Nat} (h : Spares P s u) : Spares P s (moveTo u st) := by
  have hw : Spares P s (wipeBoth u) := h.wipeSealed.wipeSealed
  exact .refreshPairs (.deriveKeys (.fire hw.rest))

theorem Spares.destroyHallKey (h : Spares P s u) : Spares P s (destroyHallKey u) := .refreshPairs h.rest

theorem Spares.eraseSeed (h : Spares P s u) :
    Spares P s { u with sec := { u.sec with seedErased := true, drawnSeed := none } } := h.rest

theorem Spares.drawBytes {p : Port} (h : Spares P s u) : Spares P s (drawBytes u p).2 :=
  h.apart (A := [.hosts]) (.drawBytes .refl)

/-- What a security op has written may change. -/
inductive SecSpares (P : Nat → Prop) (s : State) : SecRes → Prop where
  | fail {code : Nat} : SecSpares P s (.fail code)
  | done {t : State} {n : Nat} (h : Spares P s t) : SecSpares P s (.done t n)
  | draw : SecSpares P s .draw

theorem SecSpares.ite {c : Prop} {_ : Decidable c} {x y : SecRes} (hx : SecSpares P s x) (hy : SecSpares P s y) :
    SecSpares P s (if c then x else y) := by
  split
  · exact hx
  · exact hy

/-- What a security request's answer writes. -/
def SecByte (s : State) (p : Port) : Nat → Prop := PortByte p ((s.port p).sec.addr + 0x70) 8

theorem BytesKept.secDone {p : Port} {code : Nat} (h : BytesKept P s u) : BytesKept P s (secDone u p code) :=
  h.apart (A := Part.fires ++ [Part.sec]) (.secDone .refl)

theorem BytesKept.secAnswer {p : Port} {x : SecRes} (hx : SecSpares P s x)
    (hP : ∀ k, SecByte s p k → P k) : BytesKept P s (secAnswer s p x) := by
  unfold Machine.secAnswer
  cases hx with
  | fail => exact BytesKept.refl.secDone
  | done h =>
    have hport : (State.port _ p).sec.addr = (s.port p).sec.addr := congrArg (·.2.2) (h.ports p)
    exact (h.bytes.portWrite (fun k hk => hP k (by rwa [hport] at hk)) (natLe_length ..).le).secDone
  | draw =>
    exact .ite (BytesKept.refl.apart (A := Part.fires) (.consumerError .refl)).secDone
      (BytesKept.refl.apart (A := [.hosts]) (.setEnt .refl))

theorem BytesKept.secOp {p : Port} {op : Nat} {f : State → List Byte → SecRes}
    (hf : ∀ b, secRequest s p = some b → SecSpares P s (f s b))
    (hP : ∀ k, SecByte s p k → P k) : BytesKept P s (secOp s p op f) := by
  unfold Machine.secOp
  split
  · exact .refl
  · next e => exact .ite .refl (.secAnswer (hf _ e) hP)

theorem BytesKept.drawFor {p : Port} {op : Nat} {f : Option (List Byte) → State → List Byte → SecRes}
    (hf : ∀ d b u, Spares P s u → SecSpares P s (f d u b))
    (hP : ∀ k, SecByte s p k → P k) : BytesKept P s (drawFor s p op f) := by
  refine .secOp (fun b _ => ?_) hP
  split
  · exact .ite (hf _ _ _ Spares.refl.drawBytes) .draw
  · exact hf _ _ _ .refl

theorem secRequest_eq {p : Port} {b : List Byte} (e : secRequest s p = some b) :
    b = s.read (.untranslated p) (s.port p).sec.addr 128 := by
  unfold secRequest at e
  dsimp only at e
  split at e
  · exact (Option.some.inj e).symm
  · cases e

/-- What a request that answers in its window writes. -/
def SecWindow (s : State) (p : Port) (k : Nat) : Prop :=
  SecByte s p k ∨ WindowByte s p (s.port p).sec.addr 50480 k

theorem SecSpares.window {p : Port} {n : Nat} {b w : List Byte} (e : secRequest s p = some b) (hn : w.length ≤ 50480)
    (hw : w.length ≤ fieldOf b 0x10 8) :
    SecSpares (SecWindow s p) s (.done (s.write (.untranslated p) (fieldOf b 8 8) w) n) :=
  have hs : Spares (SecWindow s p) s s := .refl
  .done { hs with bytes := hs.bytes.windowWrite (fun _ => .inr) (secRequest_eq e) hn hw }

theorem exactly_length (n : Nat) (b : List Byte) : (exactly n b).length = n := by
  simp [exactly, zeros]

theorem report_length (s : State) (p : Port) (nonce : List Byte) : (report s p nonce).length = 624 := by
  unfold report
  simp only [List.length_append, natLe_length, exactly_length, zeros, List.length_replicate]
  split
  · simp only [exactly_length]
  · simp only [List.length_replicate]

theorem execAttest_bytes {p : Port} (e : execAttest p s = .next t) : BytesKept (SecWindow s p) s t := by
  refine .actAlways (.secOp (fun b he => ?_) fun _ => .inl) e
  unfold attestOp
  split
  · exact .fail
  · next hbad =>
    refine .ite .fail ?_
    split
    · exact .fail
    · have hlen : ¬ fieldOf b 0x10 8 < 50480 := by
        simp only [Bool.or_eq_true, decide_eq_true_eq, not_or] at hbad
        exact hbad.2
      refine .window he ?_ ?_
      · simp only [List.length_append, report_length, exactly_length, Nat.reduceAdd, le_refl]
      · simp only [List.length_append, report_length, exactly_length, Nat.reduceAdd]
        omega

theorem shake256_length_le (n : Nat) (m : List Byte) : (shake256 n m).length ≤ n := by
  unfold shake256 sponge
  exact List.length_take_le _ _

theorem certificate_length_le (s : State) : (certificate s).length ≤ 31480 := by
  have hkey := shake256_length_le 32 Config.manufacturingKey
  unfold certificate
  extract_lets b
  have hb : b.length = 1656 + (shake256 32 Config.manufacturingKey).length := by
    dsimp only [b]
    iterate 7 rw [List.length_append]
    rw [natLe_length, natLe_length, natLe_length, exactly_length, exactly_length, exactly_length, zeros,
      List.length_replicate]
  rw [List.length_append, exactly_length]
  omega

theorem execReadCertificate_bytes {p : Port} (e : execReadCertificate p s = .next t) :
    BytesKept (SecWindow s p) s t := by
  refine .actAlways (.secOp (fun b he => ?_) fun _ => .inl) e
  unfold certificateOp
  split
  · exact .fail
  · next hbad =>
    have hlen : ¬ fieldOf b 0x10 8 < 31480 := by
      simp only [Bool.or_eq_true, decide_eq_true_eq, not_or] at hbad
      exact hbad.2
    have hcert := certificate_length_le s
    exact .ite .fail (.window he (by omega) (by omega))

theorem Spares.putHallKey {wrap iv k : List Byte} {epoch : Nat} (h : Spares P s u) :
    Spares P s (putHallKey u wrap iv k epoch) :=
  h.apart (A := [.sec]) (.putHallKey .refl)

theorem SecSpares.loadKeyOp {p : Port} {d : Option (List Byte)} {b : List Byte} (h : Spares P s u) :
    SecSpares P s (loadKeyOp d p u b) := by
  obtain ⟨opened, hopened⟩ : ∃ opened, openHallBlob = opened := ⟨_, rfl⟩
  unfold Machine.loadKeyOp
  rw [hopened]
  clear hopened
  refine .ite .fail (.ite .fail (.ite .fail ?_))
  split
  · exact .fail
  · split
    · exact .fail
    · exact .draw
    · exact .done (.refreshPairs (.putHallKey (.ite h.moveTo h)))

theorem SecSpares.authoriseOp {p : Port} {d : Option (List Byte)} {b : List Byte} (h : Spares P s u) :
    SecSpares P s (authoriseOp d p u b) := by
  unfold Machine.authoriseOp
  generalize slhVerify = verify
  refine .ite .fail (.ite .fail (.ite .fail (.ite .fail (.ite (.done h.moveTo) ?_))))
  split
  · exact .draw
  · exact .done (.moveTo h.rest)

theorem execLoadHallKey_bytes {p : Port} (e : execLoadHallKey p s = .next t) : BytesKept (SecByte s p) s t :=
  .actAlways (.drawFor (fun _ _ _ => .loadKeyOp) fun _ hk => hk) e

theorem execVendorAuthorisation_bytes {p : Port} (e : execVendorAuthorisation p s = .next t) :
    BytesKept (SecByte s p) s t :=
  .actAlways (.drawFor (fun _ _ _ => .authoriseOp) fun _ hk => hk) e

theorem execWithdrawHallKey_bytes {p : Port} (e : execWithdrawHallKey p s = .next t) : BytesKept (SecByte s p) s t :=
  .actAlways (.secOp (fun _ _ => .ite .fail (.ite .fail (.ite .fail (.done Spares.refl.moveTo.destroyHallKey))))
    fun _ hk => hk) e

theorem execScrap_bytes {p : Port} (e : execScrap p s = .next t) : BytesKept (SecByte s p) s t :=
  .actAlways (.secOp (fun _ _ => .ite .fail (.ite .fail (.ite .fail (.ite .fail
    (.done Spares.refl.moveTo.destroyHallKey.eraseSeed))))) fun _ hk => hk) e

theorem execCommitSvn_bytes {p : Port} (e : execCommitSvn p s = .next t) : BytesKept (SecByte s p) s t :=
  .actAlways (.secOp (fun _ _ => .ite .fail (.ite .fail (.ite .fail (.done Spares.refl.rest)))) fun _ hk => hk) e

end

/-! ### Every command -/

section
variable {s t : State}

/-- A next state has only the bytes changed that `Instr.mayWrite` names. -/
theorem exec_bytes {c : Instr} (e : exec c s = .next t) : BytesKept (fun k => c.mayWrite s k) s t := by
  cases c with
  | noOp => exact execNoOp_bytes e
  | queueBarrier => exact execQueueBarrier_bytes e
  | resume => exact execResume_bytes e
  | commandStart => exact execCommandStart_bytes e
  | fenceWait => exact .actApart (A := []) e fun _ _ => .fenceWaitBody .refl
  | fenceWaitSatisfied => exact .actApart (A := []) e fun _ _ => .fenceWaitBody .refl
  | update => exact .actApart (A := [.spin]) e fun _ _ => .updateBody .refl
  | free => exact .actApart (A := [.spin]) e fun _ _ => .freeBody .refl
  | registerNeuralTerm => exact .actApart (A := [.spin]) e fun _ _ => .registerBody .refl
  | ladderSet => exact .actApart (A := [.spin]) e fun _ _ => .ladderSetBody .refl
  | patch => exact .actApart (A := [.grf]) e fun _ _ => .patchBody .refl
  | patchCommit => exact .actApart (A := [.grf]) e fun _ _ => .patchCommitBody .refl
  | graphDestroy => exact .actApart (A := [.grf]) e fun _ _ => .graphDestroyBody .refl
  | storeCreate => exact .actApart (A := [.fls]) e fun _ _ => .storeCreateBody .refl
  | fenceSignal => exact execFenceSignal_bytes e
  | shutterComplete => exact execShutterComplete_bytes e
  | atsTranslationCompletion => exact execAtsTranslationCompletion_bytes e
  | prgResponse => exact execPrgResponse_bytes e
  | pageRequestTimeout => exact execPageRequestTimeout_bytes e
  | graphNodeStart => exact execGraphNodeStart_bytes e
  | graphNodeComplete => exact execGraphNodeComplete_bytes e
  | setupCreateQueue => exact execSetupCreateQueue_bytes e
  | setupCreateFence => exact execSetupCreateFence_bytes e
  | setupDestroyQueue => exact execSetupDestroyQueue_bytes e
  | queueTeardownComplete => exact execQueueTeardownComplete_bytes e
  | bindStore => exact execBindStore_bytes e
  | listStores => exact execListStores_bytes e
  | readDump => exact execReadDump_bytes e
  | mapZeroingComplete => exact execMapZeroingComplete_bytes e
  | unmapDrainEnd => exact execUnmapDrainEnd_bytes e
  | attest => exact execAttest_bytes e
  | readCertificate => exact execReadCertificate_bytes e
  | commitSvn => exact execCommitSvn_bytes e
  | loadHallKey => exact execLoadHallKey_bytes e
  | withdrawHallKey => exact execWithdrawHallKey_bytes e
  | scrap => exact execScrap_bytes e
  | vendorAuthorisation => exact execVendorAuthorisation_bytes e
  | _ => exact fun _ hk => absurd trivial hk

end

end Sys2Proof.Machine

namespace Sys2Proof
open Machine

/-- Settles O57: parts by `Answering.exec`, bytes by `exec_bytes`. -/
theorem commandsKeepTheOtherParts : Obligations.CommandsKeepTheOtherParts := by
  intro c s t e
  have hparts := Answering.exec.touches t e
  exact ⟨hparts.time, Answering.exec.pending t e, hparts.same, exec_bytes e⟩

end Sys2Proof
end

section
/-! PROOFS. Groups, moves and batches (R86, R94-R104). -/

namespace Sys2Proof.Machine

/-! ### Elements of lists -/

theorem nth_setNth_same {α : Type} {d x : α} {l : List α} {k : Nat} (h : k < l.length) : nth d (setNth l k x) k = x := by
  simp [nth, setNth, h]

theorem nth_setNth_ne {α : Type} {d x : α} {l : List α} {j k : Nat} (h : j ≠ k) :
    nth d (setNth l k x) j = nth d l j := by
  simp [nth, setNth, List.getElem?_set_ne (Ne.symm h)]

@[simp] theorem length_setNth {α : Type} {x : α} {l : List α} {k : Nat} : (setNth l k x).length = l.length := by
  simp [setNth]

/-! ### Moves (R94) -/

@[simp] theorem length_applyMove (bits : List Bool) (move : List Nat) : (applyMove bits move).length = bits.length := by
  unfold applyMove
  induction move generalizing bits with
  | nil => rfl
  | cons i move ih => rw [List.foldl_cons, ih, length_setNth]

theorem nth_applyMove_of_notMem {bits : List Bool} {move : List Nat} {k : Nat} (h : k ∉ move) :
    nth false (applyMove bits move) k = nth false bits k := by
  unfold applyMove
  induction move generalizing bits with
  | nil => rfl
  | cons i move ih =>
    obtain ⟨hi, hmove⟩ := List.ne_and_not_mem_of_not_mem_cons h
    rw [List.foldl_cons, ih hmove, nth_setNth_ne hi]

/-- A flip of one variable. -/
theorem nth_applyMove_flip {bits : List Bool} {i : Nat} (hi : i < bits.length) :
    nth false (applyMove bits [i]) i = !nth false bits i := nth_setNth_same hi

/-- A pair move flips both of its variables. -/
theorem nth_applyMove_pair {bits : List Bool} {h i k : Nat} (hne : h ≠ i) (hh : h < bits.length) (hi : i < bits.length)
    (hk : k = h ∨ k = i) : nth false (applyMove bits [h, i]) k = !nth false bits k := by
  have hpair : applyMove bits [h, i] = applyMove (applyMove bits [h]) [i] := rfl
  rcases hk with rfl | rfl
  · rw [hpair, nth_applyMove_of_notMem (by simpa using hne), nth_applyMove_flip hh]
  · rw [hpair, nth_applyMove_flip (by simpa using hi), nth_applyMove_of_notMem (by simpa using hne.symm)]

@[simp] theorem length_foldl_applyMove (moves : List (List Nat)) (bits : List Bool) :
    (moves.foldl applyMove bits).length = bits.length := by
  induction moves generalizing bits with
  | nil => rfl
  | cons m moves ih => rw [List.foldl_cons, ih, length_applyMove]

theorem nth_foldl_applyMove_of_notMem {moves : List (List Nat)} {bits : List Bool} {k : Nat} (h : ∀ m ∈ moves, k ∉ m) :
    nth false (moves.foldl applyMove bits) k = nth false bits k := by
  induction moves generalizing bits with
  | nil => rfl
  | cons m moves ih =>
    obtain ⟨hm, hmoves⟩ := List.forall_mem_cons.1 h
    rw [List.foldl_cons, ih hmoves, nth_applyMove_of_notMem hm]

/-! ### Groups with one hot member (R86, R98) -/

/-- Member `a` of a group is hot and no other. -/
def HotAt (g : List Nat) (bits : List Bool) (a : Nat) : Prop := a ∈ g ∧ ∀ k ∈ g, nth false bits k = true ↔ k = a

theorem oneHot_group_iff {g : List Nat} {bits : List Bool} (hg : g.Nodup) :
    (g.filter fun k => nth false bits k).length = 1 ↔ ∃ a, HotAt g bits a := by
  rw [List.length_eq_one_iff]
  refine exists_congr fun a => ⟨fun h => ?_, fun ⟨ha, h⟩ => ?_⟩
  · have hmem (k : Nat) : k ∈ g ∧ nth false bits k = true ↔ k = a := by
      rw [← List.mem_filter (p := fun k => nth false bits k), h, List.mem_singleton]
    exact ⟨((hmem a).2 rfl).1, fun k hk => by simpa [hk] using hmem k⟩
  · refine List.perm_singleton.1 ((List.perm_ext_iff_of_nodup (hg.filter _) (List.nodup_singleton a)).2 fun k => ?_)
    rw [List.mem_filter, List.mem_singleton]
    exact ⟨fun ⟨hk, hb⟩ => (h k hk).1 hb, fun hk => hk ▸ ⟨ha, (h a ha).2 rfl⟩⟩

theorem HotAt.congr {g : List Nat} {bits bits' : List Bool} {a : Nat} (h : HotAt g bits a)
    (e : ∀ k ∈ g, nth false bits' k = nth false bits k) : HotAt g bits' a :=
  ⟨h.1, fun k hk => by rw [e k hk]; exact h.2 k hk⟩

theorem hotOf_eq {g : List Nat} {bits : List Bool} {a : Nat} (h : HotAt g bits a) : hotOf bits g = a := by
  obtain ⟨ha, hhot⟩ := h
  unfold hotOf
  cases e : g.find? fun k => nth false bits k with
  | none => exact absurd ((hhot a ha).2 rfl) (by simpa using List.find?_eq_none.1 e a ha)
  | some k => exact (hhot k (List.mem_of_find?_eq_some e)).1 (List.find?_some e)

section
variable {b : Block} {bits : List Bool} {n i : Nat}

/-- The groups of a block, by number, with the same member are one. -/
theorem GroupsOk.eq_of_mem {groups : List (Nat × List Nat)} (h : GroupsOk groups n) {g g' : Nat × List Nat}
    (hg : g ∈ groups) (hg' : g' ∈ groups) {k : Nat} (hk : k ∈ g.2) (hk' : k ∈ g'.2) : g = g' := by
  by_contra hne
  have hsym : Std.Symm fun a b : Nat × List Nat => ∀ k ∈ a.2, k ∉ b.2 := ⟨fun _ _ hab k hb ha => hab k ha hb⟩
  exact h.2.forall hg hg' hne k hk hk'

theorem groupAt_none (h : groupAt b i = none) : ∀ g ∈ b.groups, i ∉ g.2 := by
  simpa [groupAt] using h

theorem groupAt_some {l : List Nat} (h : groupAt b i = some l) : ∃ g ∈ b.groups, g.2 = l ∧ i ∈ g.2 := by
  obtain ⟨g, hg, rfl⟩ := Option.map_eq_some_iff.1 h
  exact ⟨g, List.mem_of_find?_eq_some hg, rfl, by simpa using List.find?_some hg⟩

theorem OneHot.hotAt (h : OneHot b.groups bits) (hg : GroupsOk b.groups n) {g : Nat × List Nat} (hm : g ∈ b.groups) :
    ∃ a, HotAt g.2 bits a :=
  (oneHot_group_iff (hg.1 g hm).1).1 (h g hm)

/-- A visit of another group, or of none, leaves a group alone. -/
theorem notMem_moveOf (hg : GroupsOk b.groups n) (h1 : OneHot b.groups bits) {g : Nat × List Nat} (hm : g ∈ b.groups)
    (hne : groupAt b i ≠ some g.2) {k : Nat} (hk : k ∈ g.2) : k ∉ moveOf b bits i := by
  unfold moveOf
  split
  · next e =>
    rw [List.mem_singleton]
    rintro rfl
    exact groupAt_none e g hm hk
  · next l e =>
    obtain ⟨g', hm', rfl, hi⟩ := groupAt_some e
    obtain ⟨a, ha⟩ := h1.hotAt hg hm'
    have hother : k ∉ g'.2 := fun hk' => hne (by rw [e, hg.eq_of_mem hm' hm hk' hk])
    split
    · exact List.not_mem_nil
    · rw [hotOf_eq ha]
      simp only [List.mem_cons, List.not_mem_nil, or_false, not_or]
      exact ⟨fun h => hother (h ▸ ha.1), fun h => hother (h ▸ hi)⟩

/-- A visit that moves within a group makes its variable the hot member. -/
theorem hotAt_applyMove {bits' : List Bool} (hg : GroupsOk b.groups bits'.length) (h1 : OneHot b.groups bits)
    {g : Nat × List Nat} (hm : g ∈ b.groups) (e : groupAt b i = some g.2) (hmove : moveOf b bits i ≠ [])
    (hsame : ∀ k ∈ g.2, nth false bits' k = nth false bits k) : HotAt g.2 (applyMove bits' (moveOf b bits i)) i := by
  obtain ⟨a, ha⟩ := h1.hotAt hg hm
  obtain ⟨g', hm', hgg', hi⟩ := groupAt_some e
  rw [hgg'] at hi
  unfold moveOf at hmove ⊢
  rw [e] at hmove ⊢
  dsimp only at hmove ⊢
  split at hmove
  · exact absurd rfl hmove
  · next hoff =>
    rw [if_neg hoff, hotOf_eq ha]
    have hai : a ≠ i := fun h => hoff (h ▸ (ha.2 a ha.1).2 rfl)
    have hlen := (hg.1 g hm).2
    refine ⟨hi, fun k hk => ?_⟩
    by_cases hki : k = a ∨ k = i
    · rw [nth_applyMove_pair hai (hlen a ha.1) (hlen i hi) hki, hsame k hk]
      rcases hki with rfl | rfl
      · simp [(ha.2 k hk).2 rfl, hai]
      · simp [hoff]
    · rw [nth_applyMove_of_notMem (by simpa using hki), hsame k hk, ha.2 k hk]
      simp [not_or.1 hki]

/-- Moves of different groups, all found on one state, keep one hot member in every group. -/
theorem oneHot_foldl_applyMove {l : List Nat} (hg : GroupsOk b.groups bits.length) (h1 : OneHot b.groups bits)
    (hmoves : ∀ i ∈ l, moveOf b bits i ≠ [])
    (hpair : l.Pairwise fun i j => groupAt b i = none ∨ groupAt b i ≠ groupAt b j) :
    OneHot b.groups ((l.map (moveOf b bits)).foldl applyMove bits) := by
  intro g hm
  have hn := (hg.1 g hm).1
  rw [oneHot_group_iff hn]
  by_cases hmine : ∃ i ∈ l, groupAt b i = some g.2
  · obtain ⟨i, hi, e⟩ := hmine
    obtain ⟨l1, l2, rfl⟩ := List.append_of_mem hi
    rw [List.pairwise_append, List.pairwise_cons] at hpair
    obtain ⟨-, ⟨hafter, -⟩, hbefore⟩ := hpair
    have hleft : ∀ k ∈ g.2, nth false ((l1.map (moveOf b bits)).foldl applyMove bits) k = nth false bits k := by
      refine fun k hk => nth_foldl_applyMove_of_notMem fun m hmem => ?_
      obtain ⟨j, hj, rfl⟩ := List.mem_map.1 hmem
      refine notMem_moveOf hg h1 hm (fun ej => ?_) hk
      rcases hbefore j hj i List.mem_cons_self with h | h
      · simp [h] at ej
      · exact h (ej.trans e.symm)
    refine ⟨i, ?_⟩
    rw [List.map_append, List.map_cons, List.foldl_append, List.foldl_cons]
    refine (hotAt_applyMove (by simpa using hg) h1 hm e (hmoves i hi) hleft).congr fun k hk =>
      nth_foldl_applyMove_of_notMem fun m hmem => ?_
    obtain ⟨j, hj, rfl⟩ := List.mem_map.1 hmem
    refine notMem_moveOf hg h1 hm (fun ej => ?_) hk
    rcases hafter j hj with h | h
    · simp [h] at e
    · exact h (e.trans ej.symm)
  · obtain ⟨a, ha⟩ := h1.hotAt hg hm
    refine ⟨a, ha.congr fun k hk => nth_foldl_applyMove_of_notMem fun m hmem => ?_⟩
    obtain ⟨j, hj, rfl⟩ := List.mem_map.1 hmem
    exact notMem_moveOf hg h1 hm (fun ej => hmine ⟨j, hj, ej⟩) hk

end

/-! ### Batches (R100-R103) -/

/-- Candidates of one group interact (R100). -/
theorem interacts_of_groupAt_eq {p : Problem} {bn i j : Nat} {g : List Nat} (hi : groupAt (p.block bn) i = some g)
    (hj : groupAt (p.block bn) j = some g) : interacts p bn i j = true := by
  obtain ⟨g', -, rfl, hmem⟩ := groupAt_some hi
  simp only [interacts, candidateVars, hi, hj, Option.getD_some, Bool.or_eq_true, List.any_eq_true, beq_iff_eq]
  exact .inr ⟨i, hmem, i, hmem, .inl rfl⟩

theorem decideSeq_accepted {p : Problem} {bn : Nat} {ok : Nat → Bool} {hot cands : List Nat} :
    (∀ i ∈ (decideSeq p bn ok hot cands).accepted, ok i = true ∧ ∀ j ∈ hot, interacts p bn i j = false) ∧
      (decideSeq p bn ok hot cands).accepted.Pairwise fun i j => interacts p bn j i = false := by
  induction cands generalizing hot with
  | nil => simp [decideSeq]
  | cons i rest ih =>
    unfold decideSeq
    split
    · obtain ⟨hall, hpair⟩ := ih (hot := i :: hot)
      exact ⟨fun k hk => ⟨(hall k hk).1, fun j hj => (hall k hk).2 j (List.mem_cons_of_mem _ hj)⟩, hpair⟩
    · next hfree =>
      cases hok : ok i
      · exact ih
      · obtain ⟨hall, hpair⟩ := ih (hot := i :: hot)
        simp only [if_true, List.forall_mem_cons, List.pairwise_cons]
        refine ⟨⟨⟨hok, by simpa using hfree⟩, fun k hk => ⟨(hall k hk).1, fun j hj => ?_⟩⟩, fun k hk => ?_, hpair⟩
        · exact (hall k hk).2 j (List.mem_cons_of_mem _ hj)
        · exact (hall k hk).2 i List.mem_cons_self

theorem decideConc_accepted {b : Block} {ok : Nat → Bool} {taken : List (List Nat)} {cands : List Nat} :
    (∀ i ∈ (decideConc b ok taken cands).accepted, ok i = true ∧ ∀ g ∈ taken, groupAt b i ≠ some g) ∧
      (decideConc b ok taken cands).accepted.Pairwise fun i j => groupAt b i = none ∨ groupAt b i ≠ groupAt b j := by
  induction cands generalizing taken with
  | nil => simp [decideConc]
  | cons i rest ih =>
    unfold decideConc
    cases hok : ok i <;> cases hg : groupAt b i
    · simpa using ih
    · simpa using ih
    · obtain ⟨hall, hpair⟩ := ih (taken := taken)
      simpa [hg, hok, hpair] using hall
    · next g =>
      obtain ⟨hall, hpair⟩ := ih (taken := g :: taken)
      have hrest : ∀ k ∈ (decideConc b ok (g :: taken) rest).accepted,
          ok k = true ∧ ∀ g ∈ taken, groupAt b k ≠ some g :=
        fun k hk => ⟨(hall k hk).1, fun j hj => (hall k hk).2 j (List.mem_cons_of_mem _ hj)⟩
      by_cases hclash : g ∈ taken
      · simpa [hclash, hpair] using hrest
      · have hfirst : ∀ j ∈ taken, g ≠ j := fun j hj e => hclash (e ▸ hj)
        have hlater : ∀ k ∈ (decideConc b ok (g :: taken) rest).accepted, ¬some g = groupAt b k :=
          fun k hk e => (hall k hk).2 g List.mem_cons_self e.symm
        simpa [hclash, hpair, hg, hok] using ⟨⟨hfirst, hrest⟩, hlater⟩

@[simp] theorem withSums_bits (p : Problem) (bn : Nat) (run : BlockRun) : (withSums p bn run).bits = run.bits := by
  unfold withSums
  split <;> rfl

@[simp] theorem commitBatch_bits (p : Problem) (bn : Nat) (run : BlockRun) (d : Decided) (next : Nat) :
    (commitBatch p bn run d next).bits = (d.accepted.map (moveOf (p.block bn) run.bits)).foldl applyMove run.bits :=
  withSums_bits ..

section
variable {p : Problem} {bn : Nat} {run : BlockRun} {ok : Nat → Bool}
  (hg : GroupsOk (p.block bn).groups run.bits.length) (h1 : OneHot (p.block bn).groups run.bits)
  (hok : ∀ i, ok i = true → moveOf (p.block bn) run.bits i ≠ [])
include hg h1 hok

theorem oneHot_commitBatch_seq (cands : List Nat) (next : Nat) :
    OneHot (p.block bn).groups (commitBatch p bn run (decideSeq p bn ok [] cands) next).bits := by
  obtain ⟨hall, hpair⟩ := decideSeq_accepted (p := p) (bn := bn) (ok := ok) (hot := []) (cands := cands)
  rw [commitBatch_bits]
  refine oneHot_foldl_applyMove hg h1 (fun i hi => hok i (hall i hi).1) (hpair.imp fun {i j} hij => ?_)
  by_contra hsame
  obtain ⟨hsome, heq⟩ := not_or.1 hsame
  obtain ⟨g, hi⟩ := Option.ne_none_iff_exists'.1 hsome
  rw [interacts_of_groupAt_eq ((not_not.1 heq).symm.trans hi) hi] at hij
  cases hij

theorem oneHot_commitBatch_conc (cands : List Nat) (next : Nat) :
    OneHot (p.block bn).groups (commitBatch p bn run (decideConc (p.block bn) ok [] cands) next).bits := by
  obtain ⟨hall, hpair⟩ := decideConc_accepted (b := p.block bn) (ok := ok) (taken := []) (cands := cands)
  rw [commitBatch_bits]
  exact oneHot_foldl_applyMove hg h1 (fun i hi => hok i (hall i hi).1) hpair

end

end Sys2Proof.Machine
end

section
/-! PROOFS. What a problem source that is accepted keeps, and the groups of stored problems (R74-R77, R86, R89, R91). -/

namespace Sys2Proof.Machine

/-! ### Reading a source (R84-R86) -/

@[simp] theorem length_wordsOf (w n : Nat) (b : List Byte) : (wordsOf w n b).length = n := by
  induction n generalizing b with
  | zero => rfl
  | succ n ih => rw [wordsOf, List.length_cons, ih]

theorem readArray_length {s : State} {q : Queue} {va w n : Nat} {l : List Nat} (h : readArray s q va w n = .ok l) :
    l.length = n := by
  unfold readArray at h
  split at h
  · cases h
    exact length_wordsOf ..
  · cases h

theorem tryMap_mem {α β : Type} {f : α → Try β} {l : List α} {r : List β} (h : tryMap f l = .ok r) :
    ∀ b ∈ r, ∃ a ∈ l, f a = .ok b := by
  induction l generalizing r with
  | nil =>
    cases h
    exact List.forall_mem_nil _
  | cons a l ih =>
    unfold tryMap at h
    split at h
    · cases h
    · next b hb =>
      split at h
      · cases h
      · next t ht =>
        cases h
        refine List.forall_mem_cons.2 ⟨⟨a, List.mem_cons_self, hb⟩, fun c hc => ?_⟩
        obtain ⟨d, hd, e⟩ := ih ht c hc
        exact ⟨d, List.mem_cons_of_mem _ hd, e⟩

theorem readMap_length {s : State} {q : Queue} {h : List Byte} {old : Option Problem} {bad : List (Nat × Bool)}
    {m : List Nat} (e : readMap s q h old bad = .ok m) : m.length = hVars h := by
  unfold readMap at e
  split at e
  · split at e
    · cases e
    · cases e
      simp
  · split at e
    · cases e
    · next l hl =>
      dsimp only at e
      split at e <;> cases e
      exact readArray_length hl

/-- A group that reads has a member, unless its count is out of range. -/
theorem readGroup_nonempty {s : State} {q : Queue} {h : List Byte} {r : Nat} {g : List Nat × Bool}
    (e : readGroup s q h r = .ok g) : g.2 = true ∨ g.1 ≠ [] := by
  unfold readGroup at e
  dsimp only at e
  split at e
  · cases e
    exact .inl rfl
  · next hcount =>
    split at e
    · next l hl =>
      cases e
      have hlen := readArray_length hl
      simp only [Bool.or_eq_true, decide_eq_true_eq, not_or, not_lt] at hcount
      refine .inr fun (hnil : l = []) => ?_
      rw [hnil, List.length_nil] at hlen
      omega
    · cases e

/-- What a source that was read keeps before its checks: a block for every variable, and members in every group whose count
is in range. -/
structure SourceRead (x : Source84) : Prop where
  map : x.blockOf.length = x.n
  counts : x.groups.length = x.countBad.length
  members : ∀ e ∈ x.groups.zip x.countBad, e.2 = true ∨ e.1 ≠ []

theorem sourceRead_of_readSource {s : State} {q : Queue} {d : Desc} {old : Option Problem} {x : Source84}
    (h : readSource s q d old = .ok x) : SourceRead x := by
  unfold readSource at h
  split at h
  · cases h
  split at h
  · cases h
  split at h
  · cases h
  next m hm =>
  dsimp only at h
  split at h
  · split at h
    · cases h
    · next groups hgroups =>
      cases h
      refine ⟨readMap_length hm, by simp, fun e he => ?_⟩
      rw [List.zip_map', List.mem_map] at he
      obtain ⟨g, hg, rfl⟩ := he
      obtain ⟨r, -, hr⟩ := tryMap_mem hgroups g hg
      exact readGroup_nonempty hr
  all_goals cases h

/-! ### The checks of a source (R89, R108) -/

theorem ok_of_ne_error {x : Try Unit} (h : ∀ e, x = .error e → False) : x = .ok () := by
  cases x with
  | error e => exact (h e rfl).elim
  | ok => rfl

theorem checkEntries_ok {n k : Nat} {seen : List (Nat × Nat)} {l : List (Nat × Nat × Nat)}
    (h : checkEntries n k seen l = .ok ()) : ∀ e ∈ l, e.1 < e.2.1 ∧ e.2.1 < n := by
  induction l generalizing k seen with
  | nil => exact List.forall_mem_nil _
  | cons e l ih =>
    obtain ⟨i, j, v⟩ := e
    unfold checkEntries at h
    split at h
    · cases h
    · next hbad =>
      simp only [Bool.or_eq_true, decide_eq_true_eq, not_or, not_le] at hbad
      obtain ⟨⟨hij, hj⟩, -⟩ := hbad
      exact List.forall_mem_cons.2 ⟨⟨hij, hj⟩, ih h⟩

theorem le_foldl_max {l : List Nat} {m : Nat} : m ≤ l.foldl max m ∧ ∀ a ∈ l, a ≤ l.foldl max m := by
  induction l generalizing m with
  | nil => simp
  | cons a l ih =>
    obtain ⟨hm, hall⟩ := ih (m := max m a)
    rw [List.foldl_cons, List.forall_mem_cons]
    exact ⟨(Nat.le_max_left ..).trans hm, (Nat.le_max_right ..).trans hm, hall⟩

theorem nth_blockOf_lt (x : Source84) (i : Nat) : nth 0 x.blockOf i < blockCount x := by
  unfold nth blockCount
  cases h : x.blockOf[i]? with
  | none => exact Nat.succ_pos _
  | some b => exact Nat.lt_succ_of_le (le_foldl_max.2 b (List.mem_of_getElem? h))

/-- Every block of a source whose partition passes has 1 to 2048 variables, those past the number of variables too (R75). -/
theorem checkPartition_ok {x : Source84} (hmap : x.blockOf.length = x.n) (h : checkPartition x = .ok ()) {b : Nat}
    (hb : b < blockCount x) : 1 ≤ x.blockOf.count b ∧ x.blockOf.count b ≤ 2048 := by
  unfold checkPartition at h
  split at h
  · cases h
  · next hnone =>
    have hgood (k : Nat) (hk : k < blockCount x) (hn : k < x.n + 1) : 1 ≤ x.blockOf.count k ∧ x.blockOf.count k ≤ 2048 := by
      have hk := List.find?_eq_none.1 hnone k (by simpa using ⟨hk, Nat.le_of_lt_succ hn⟩)
      simp only [Bool.or_eq_true, beq_iff_eq, decide_eq_true_eq, not_or] at hk
      omega
    refine hgood b hb (Nat.lt_of_not_le fun hle => ?_)
    have hsub : List.range (x.n + 1) ⊆ x.blockOf := fun k hk =>
      List.count_pos_iff.1 (hgood k ((List.mem_range.1 hk).trans_le (hle.trans hb.le)) (List.mem_range.1 hk)).1
    have hlen := (List.nodup_range.subperm hsub).length_le
    rw [List.length_range, hmap] at hlen
    omega

/-- The block of a group's first member. -/
def groupBlock (x : Source84) (g : List Nat) : Nat := nth 0 x.blockOf (g.head?.getD 0)

/-- A group's members: variables of one block, each named once (R86). -/
def MembersOk (x : Source84) (g : List Nat) : Prop := g.Nodup ∧ ∀ i ∈ g, i < x.n ∧ nth 0 x.blockOf i = groupBlock x g

theorem groupBad_false {x : Source84} {before : List (List Nat)} {g : List Nat} {cb : Bool}
    (h : groupBad x before g cb = false) : cb = false ∧ MembersOk x g ∧ (∀ o ∈ before, ∀ i ∈ o, i ∉ g) ∧
      (before.filter fun o => groupBlock x o == groupBlock x g).length < 256 := by
  unfold groupBad at h
  simp only [Bool.or_eq_false_iff] at h
  obtain ⟨⟨⟨⟨⟨hcb, hn⟩, hdup⟩, hseen⟩, hblk⟩, hfew⟩ := h
  have hnodup : g.Nodup := by
    have e : g.dedup.length = g.length := by simpa using hdup
    exact (List.dedup_sublist g).eq_of_length e ▸ List.nodup_dedup g
  refine ⟨hcb, ⟨hnodup, fun i hi => ⟨?_, ?_⟩⟩, fun o ho i hi hg => ?_, ?_⟩
  · simpa using List.any_eq_false.1 hn i hi
  · simpa [groupBlock] using List.any_eq_false.1 hblk i hi
  · have hi' := List.any_eq_false.1 hseen i hg
    simp only [List.any_eq_true, not_exists, not_and] at hi'
    exact hi' o ho (by simpa using hi)
  · simpa [groupBlock] using hfew

theorem checkGroups_ok {x : Source84} {k : Nat} {before : List (List Nat)} {l : List (List Nat × Bool)}
    (h : checkGroups x k before l = .ok ()) :
    (∀ e ∈ l, e.2 = false ∧ MembersOk x e.1 ∧ ∀ o ∈ before, ∀ i ∈ o, i ∉ e.1) ∧
      (l.map (·.1)).Pairwise (fun a b => ∀ i ∈ a, i ∉ b) ∧
      ∀ b, ((before ++ l.map (·.1)).filter fun o => groupBlock x o == b).length ≤
        max 256 (before.filter fun o => groupBlock x o == b).length := by
  induction l generalizing k before with
  | nil => simp
  | cons e l ih =>
    obtain ⟨g, cb⟩ := e
    unfold checkGroups at h
    split at h
    · cases h
    · next hbad =>
      obtain ⟨hcb, hmem, hbefore, hfew⟩ := groupBad_false (Bool.eq_false_iff.2 hbad)
      obtain ⟨hall, hpair, hcount⟩ := ih h
      refine ⟨List.forall_mem_cons.2 ⟨⟨hcb, hmem, hbefore⟩, fun e he => ?_⟩, ?_, fun b => ?_⟩
      · obtain ⟨h1, h2, h3⟩ := hall e he
        exact ⟨h1, h2, fun o ho => h3 o (List.mem_append_left _ ho)⟩
      · refine List.pairwise_cons.2 ⟨fun o ho i hi => ?_, hpair⟩
        obtain ⟨e, he, rfl⟩ := List.mem_map.1 ho
        exact (hall e he).2.2 g (List.mem_append_right _ List.mem_cons_self) i hi
      · have hb := hcount b
        rw [List.append_assoc, List.filter_append (l₁ := before) (l₂ := [g]), List.length_append] at hb
        refine hb.trans ?_
        by_cases hg : groupBlock x g = b
        · subst hg
          simp only [List.filter_singleton, beq_self_eq_true, cond_true, List.length_singleton]
          omega
        · simp [hg]

/-- What a source that passes every check keeps (R75-R77, R86, R89). -/
structure SourceOk (x : Source84) : Prop where
  map : x.blockOf.length = x.n
  sizes : ∀ b, b < blockCount x → 1 ≤ x.blockOf.count b ∧ x.blockOf.count b ≤ 2048
  entries : ∀ e ∈ x.entries, e.1 < e.2.1 ∧ e.2.1 < x.n
  groups : ∀ g ∈ x.groups, g ≠ [] ∧ MembersOk x g
  apart : x.groups.Pairwise fun a b => ∀ i ∈ a, i ∉ b
  few : ∀ b, (x.groups.filter fun g => groupBlock x g == b).length ≤ 256
  neighbours : ∀ b, b < blockCount x → (neighboursOf x (interOf x (nonzeroEntries x) b) b).length ≤ 64
  inter : ∀ b, b < blockCount x → (interOf x (nonzeroEntries x) b).length ≤ 2 ^ 20

theorem sourceOk_of_checks {x : Source84} (hr : SourceRead x) (h : checkSource x = .ok ()) : SourceOk x := by
  obtain ⟨hmap, hcounts, hmembers⟩ := hr
  unfold checkSource at h
  split at h
  iterate 4 cases h
  next hentries hpart hgroups =>
  dsimp only at h
  split at h
  · cases h
  next hneighbours =>
  split at h
  · cases h
  next hinter =>
  obtain ⟨hall, hpair, hcount⟩ := checkGroups_ok (ok_of_ne_error hgroups)
  have hfst : (x.groups.zip x.countBad).map (·.1) = x.groups := List.map_fst_zip hcounts.le
  rw [hfst] at hpair hcount
  have hin (b : Nat) (hb : b < blockCount x) : b ∈ List.range (blockCount x) := List.mem_range.2 hb
  refine ⟨hmap, fun b hb => checkPartition_ok hmap (ok_of_ne_error hpart) hb, checkEntries_ok (ok_of_ne_error hentries),
    fun g hg => ?_, hpair, fun b => ?_, fun b hb => ?_, fun b hb => ?_⟩
  · rw [← hfst] at hg
    obtain ⟨e, he, rfl⟩ := List.mem_map.1 hg
    obtain ⟨hcb, hmem, -⟩ := hall e he
    exact ⟨(hmembers e he).resolve_left (by simp [hcb]), hmem⟩
  · simpa using hcount b
  · simpa using List.find?_eq_none.1 hneighbours b (hin b hb)
  · simpa using List.find?_eq_none.1 hinter b (hin b hb)

/-! ### The blocks of a source (R74-R77, R86) -/

theorem localIdx_lt {vars : List Nat} {i : Nat} (h : i ∈ vars) : localIdx vars i < vars.length :=
  List.idxOf_lt_length_iff.2 h

theorem localIdx_inj {vars : List Nat} {i j : Nat} (hi : i ∈ vars) (h : localIdx vars i = localIdx vars j) : i = j :=
  (List.idxOf_inj hi).1 h

theorem nth_local {b : Block} {bits : List Bool} {k : Nat} (hk : k < b.vars.length) :
    nth false (b.local bits) k = nth false bits (nth 0 b.vars k) := by
  simp [nth, Block.local, hk]

theorem nth_localIdx {vars : List Nat} {i : Nat} (h : i ∈ vars) : nth 0 vars (localIdx vars i) = i := by
  simp [nth, localIdx, List.getElem?_idxOf h]

/-- Hot members of a group by local indices are those by global indices. -/
theorem hot_local {b : Block} {bits : List Bool} {g : List Nat} (hg : ∀ k ∈ g, k < b.vars.length) :
    (g.filter fun k => nth false (b.local bits) k).length =
      ((g.map fun k => nth 0 b.vars k).filter fun i => nth false bits i).length := by
  rw [List.filter_map, List.length_map]
  exact congrArg _ (List.filter_congr fun k hk => nth_local (hg k hk))

theorem badGroup_none {groups : List (Nat × List Nat)} {bits : List Bool} :
    badGroup groups bits = none ↔ OneHot groups bits := by
  simp [badGroup, OneHot]

theorem checkState_ok {groups : List (Nat × List Nat)} {bits : List Bool} (h : checkState groups bits = .ok ()) :
    OneHot groups bits := by
  unfold checkState at h
  split at h
  · cases h
  · next e => exact badGroup_none.1 e

theorem mem_sortCouplings {c : Coupling} {l : List Coupling} : c ∈ sortCouplings l ↔ c ∈ l := by
  have hins (x : Coupling) (t : List Coupling) : c ∈ insertCoupling x t ↔ c = x ∨ c ∈ t := by
    induction t with
    | nil => simp [insertCoupling]
    | cons y t ih =>
      unfold insertCoupling
      split
      · simp
      · simp only [List.mem_cons, ih]
        exact or_left_comm
  induction l with
  | nil => simp [sortCouplings]
  | cons x l ih =>
    unfold sortCouplings at ih ⊢
    rw [List.foldr_cons, hins, List.mem_cons]
    exact or_congr_right ih

theorem nonzeroEntries_mem {x : Source84} (hx : SourceOk x) {e : Nat × Nat × Rat} (he : e ∈ nonzeroEntries x) :
    e.1 < e.2.1 ∧ e.2.1 < x.n := by
  unfold nonzeroEntries at he
  obtain ⟨y, hy, rfl⟩ := List.mem_map.1 (List.mem_filter.1 he).1
  exact hx.entries y hy

section
variable {x : Source84} {ex : Exponents} {b : Nat}

theorem mem_blockVars {es : List (Nat × Nat × Rat)} {i : Nat} :
    i ∈ (buildBlock x ex es b).vars ↔ i < x.n ∧ nth 0 x.blockOf i = b := by
  simp [buildBlock]

theorem length_blockVars {es : List (Nat × Nat × Rat)} (hmap : x.blockOf.length = x.n) :
    (buildBlock x ex es b).vars.length = x.blockOf.count b := by
  have hlist : x.blockOf = (List.range x.n).map (nth 0 x.blockOf) := by
    refine List.ext_getElem (by simp [hmap]) fun i h1 h2 => ?_
    simp [nth, h1]
  calc (buildBlock x ex es b).vars.length
    _ = ((List.range x.n).map (nth 0 x.blockOf)).countP (· == b) := by
      rw [List.countP_map, List.countP_eq_length_filter]
      rfl
    _ = x.blockOf.count b := by rw [← hlist, List.count_eq_countP]

/-- The groups of a block with their numbers, by global indices. -/
def sourceGroups (x : Source84) (b : Nat) : List (List Nat × Nat) :=
  (x.groups.zip (List.range x.groups.length)).filter fun g => groupBlock x g.1 == b

theorem mem_groups_of_zip {g : List Nat × Nat} (hg : g ∈ x.groups.zip (List.range x.groups.length)) :
    g.1 ∈ x.groups ∧ g.2 < x.groups.length := by
  obtain ⟨h1, h2⟩ := List.of_mem_zip (a := g.1) (b := g.2) hg
  exact ⟨h1, List.mem_range.1 h2⟩

theorem mem_vars_of_sourceGroups {es : List (Nat × Nat × Rat)} (hx : SourceOk x) {g : List Nat × Nat}
    (hg : g ∈ sourceGroups x b) {i : Nat} (hi : i ∈ g.1) : i ∈ (buildBlock x ex es b).vars := by
  obtain ⟨hz, hb⟩ := List.mem_filter.1 hg
  obtain ⟨-, -, hmem⟩ := hx.groups g.1 (mem_groups_of_zip hz).1
  exact mem_blockVars.2 ⟨(hmem i hi).1, (hmem i hi).2.trans (by simpa using hb)⟩

/-- A block holds the groups whose members lie in it, by local indices. -/
theorem buildBlock_groups {es : List (Nat × Nat × Rat)} (hx : SourceOk x) :
    (buildBlock x ex es b).groups =
      (sourceGroups x b).map fun g => (g.2, g.1.map (localIdx (buildBlock x ex es b).vars)) := by
  refine congrArg (List.map _) (List.filter_congr fun g hg => Bool.eq_iff_iff.2 ?_)
  obtain ⟨hne, -, hmem⟩ := hx.groups g.1 (mem_groups_of_zip hg).1
  obtain ⟨i, t, hcons⟩ := List.exists_cons_of_ne_nil hne
  have hi := (hmem i (by simp [hcons])).1
  simp [groupBlock, hcons, hi]

theorem buildBlock_groupsOk {es : List (Nat × Nat × Rat)} (hx : SourceOk x) :
    GroupsOk (buildBlock x ex es b).groups (buildBlock x ex es b).vars.length := by
  rw [buildBlock_groups hx]
  refine ⟨fun e he => ?_, List.pairwise_map.2 ?_⟩
  · obtain ⟨g, hg, rfl⟩ := List.mem_map.1 he
    have hv : ∀ i ∈ g.1, i ∈ (buildBlock x ex es b).vars := fun i => mem_vars_of_sourceGroups hx hg
    obtain ⟨-, hnodup, -⟩ := hx.groups g.1 (mem_groups_of_zip (List.mem_filter.1 hg).1).1
    refine ⟨hnodup.map_on fun i hi j _ e => localIdx_inj (hv i hi) e, fun k hk => ?_⟩
    obtain ⟨i, hi, rfl⟩ := List.mem_map.1 hk
    exact localIdx_lt (hv i hi)
  · have happart : (x.groups.zip (List.range x.groups.length)).Pairwise fun a b => ∀ i ∈ a.1, i ∉ b.1 := by
      rw [← List.pairwise_map (f := Prod.fst) (R := fun a b : List Nat => ∀ i ∈ a, i ∉ b), List.map_fst_zip (by simp)]
      exact hx.apart
    refine (happart.filter _).imp_of_mem fun {u v} hu hv hij k hk hk' => ?_
    obtain ⟨i, hi, rfl⟩ := List.mem_map.1 hk
    obtain ⟨j, hj, e⟩ := List.mem_map.1 hk'
    have hji := localIdx_inj (mem_vars_of_sourceGroups (ex := ex) (es := es) hx hv hj) e
    exact hij i hi (hji ▸ hj)

theorem buildBlock_oneHot {es : List (Nat × Nat × Rat)} {init : List Bool} (hx : SourceOk x)
    (h : OneHot ((List.range x.groups.length).zip x.groups) init) :
    OneHot (buildBlock x ex es b).groups ((buildBlock x ex es b).local init) := by
  rw [buildBlock_groups hx]
  intro e he
  obtain ⟨g, hg, rfl⟩ := List.mem_map.1 he
  have hv : ∀ i ∈ g.1, i ∈ (buildBlock x ex es b).vars := fun i => mem_vars_of_sourceGroups hx hg
  rw [hot_local fun k hk => ?_]
  · have hglobal : (g.1.map (localIdx (buildBlock x ex es b).vars)).map (fun k => nth 0 (buildBlock x ex es b).vars k) =
        g.1 := by
      rw [List.map_map]
      exact (List.map_congr_left (g := fun i => i) fun i hi => nth_localIdx (hv i hi)).trans (List.map_id' _)
    rw [hglobal]
    refine h (g.2, g.1) ?_
    rw [← List.zip_swap]
    exact List.mem_map_of_mem (f := Prod.swap) (List.mem_filter.1 hg).1
  · obtain ⟨i, hi, rfl⟩ := List.mem_map.1 hk
    exact localIdx_lt (hv i hi)

theorem buildBlock_couplingsOk (hx : SourceOk x) : CouplingsOk (buildBlock x ex (nonzeroEntries x) b) := by
  intro c hc
  obtain ⟨hc, -⟩ := List.mem_filter.1 (mem_sortCouplings.1 hc)
  obtain ⟨u, hu, rfl⟩ := List.mem_map.1 hc
  obtain ⟨e, he, rfl⟩ := List.mem_map.1 hu
  obtain ⟨hmem, hin⟩ := List.mem_filter.1 he
  simp only [Bool.and_eq_true, beq_iff_eq] at hin
  obtain ⟨hlt, hn⟩ := nonzeroEntries_mem hx hmem
  have h1 : e.1 ∈ (buildBlock x ex (nonzeroEntries x) b).vars := mem_blockVars.2 ⟨hlt.trans hn, hin.1⟩
  have h2 : e.2.1 ∈ (buildBlock x ex (nonzeroEntries x) b).vars := mem_blockVars.2 ⟨hn, hin.2⟩
  exact ⟨fun h => hlt.ne (localIdx_inj h1 h), localIdx_lt h1, localIdx_lt h2⟩

theorem buildBlock_groups_length {es : List (Nat × Nat × Rat)} (hx : SourceOk x) :
    (buildBlock x ex es b).groups.length ≤ 256 := by
  have hfst : (sourceGroups x b).map (·.1) = x.groups.filter fun g => groupBlock x g == b := by
    conv_rhs => rw [← List.map_fst_zip (l₁ := x.groups) (l₂ := List.range x.groups.length) (by simp)]
    rw [List.filter_map]
    rfl
  rw [buildBlock_groups hx, List.length_map, ← List.length_map (·.1), hfst]
  exact hx.few b

end

/-! ### The problem of a source (R88) -/

theorem buildProblem_ok {s : State} {q : Queue} {d : Desc} {x : Source84} {p : Problem}
    (h : buildProblem s q d x = .ok p) : checkSource x = .ok () ∧
      p.blocks = (List.range (blockCount x)).map (buildBlock x (exponentsOf x (dBias d)) (nonzeroEntries x)) ∧
      OneHot ((List.range x.groups.length).zip x.groups) p.init := by
  unfold buildProblem at h
  split at h
  · cases h
  next hsource =>
  dsimp only at h
  split at h
  · cases h
  split at h
  · cases h
  split at h
  · cases h
  split at h
  · cases h
  next hstate =>
  cases h
  exact ⟨hsource, rfl, checkState_ok hstate⟩

theorem block_mem {p : Problem} {b : Nat} (hb : b < p.nb) : p.block b ∈ p.blocks := by
  simp only [Problem.block, nth, List.getElem?_eq_getElem (show b < p.blocks.length from hb), Option.getD_some]
  exact List.getElem_mem hb

/-- The groups of a source, over its blocks, are numbered 0, 1, 2, … -/
theorem numbers_ok (x : Source84) :
    let numbers := (List.range (blockCount x)).flatMap fun b => (sourceGroups x b).map (·.2)
    numbers.Nodup ∧ ∀ k ∈ numbers, k < numbers.length := by
  intro numbers
  have hsnd : ((x.groups.zip (List.range x.groups.length)).map (·.2)) = List.range x.groups.length :=
    List.map_snd_zip (by simp)
  have hzip : ((x.groups.zip (List.range x.groups.length)).map (·.2)).Nodup := by
    rw [hsnd]
    exact List.nodup_range
  have hnodup : numbers.Nodup := by
    refine List.nodup_flatMap.2 ⟨fun b _ => hzip.sublist (List.filter_sublist.map _), ?_⟩
    refine List.nodup_range.imp fun {a b} hab k hk hk' => hab ?_
    obtain ⟨u, hu, rfl⟩ := List.mem_map.1 hk
    obtain ⟨v, hv, e⟩ := List.mem_map.1 hk'
    obtain ⟨huz, hua⟩ := List.mem_filter.1 hu
    obtain ⟨hvz, hvb⟩ := List.mem_filter.1 hv
    have huv := List.inj_on_of_nodup_map hzip hvz huz e
    subst huv
    exact (beq_iff_eq.1 hua).symm.trans (beq_iff_eq.1 hvb)
  have hmem (k : Nat) : k ∈ numbers ↔ k ∈ List.range x.groups.length := by
    rw [← hsnd, List.mem_flatMap]
    refine ⟨fun ⟨b, _, hk⟩ => (List.filter_sublist.map _).subset hk, fun hk => ?_⟩
    obtain ⟨g, hg, rfl⟩ := List.mem_map.1 hk
    exact ⟨groupBlock x g.1, List.mem_range.2 (nth_blockOf_lt x _),
      List.mem_map_of_mem (List.mem_filter.2 ⟨hg, beq_self_eq_true _⟩)⟩
  have hlen : numbers.length = x.groups.length := by
    rw [((List.perm_ext_iff_of_nodup hnodup List.nodup_range).2 hmem).length_eq, List.length_range]
  exact ⟨hnodup, fun k hk => hlen ▸ List.mem_range.1 ((hmem k).1 hk)⟩

theorem ProblemOk.congr {p p' : Problem} (h : ProblemOk p) (hblocks : p'.blocks = p.blocks) (hinit : p'.init = p.init) :
    ProblemOk p' := by
  unfold ProblemOk
  rw [hblocks, hinit]
  exact h

theorem problemOk_of_source {s : State} {q : Queue} {d : Desc} {old : Option Problem} {x : Source84} {p : Problem}
    (hread : readSource s q d old = .ok x) (hbuild : buildProblem s q d x = .ok p) : ProblemOk p := by
  obtain ⟨hcheck, hblocks, hinit⟩ := buildProblem_ok hbuild
  have hx := sourceOk_of_checks (sourceRead_of_readSource hread) hcheck
  unfold ProblemOk
  rw [hblocks]
  refine ⟨fun b hb => ?_, ?_⟩
  · obtain ⟨k, -, rfl⟩ := List.mem_map.1 hb
    exact ⟨buildBlock_groupsOk hx, buildBlock_oneHot hx hinit⟩
  · have hnumbers : (((List.range (blockCount x)).map
        (buildBlock x (exponentsOf x (dBias d)) (nonzeroEntries x))).flatMap fun b => b.groups.map (·.1)) =
        (List.range (blockCount x)).flatMap fun b => (sourceGroups x b).map (·.2) := by
      rw [List.flatMap_map]
      refine List.flatMap_congr fun b _ => ?_
      rw [buildBlock_groups hx, List.map_map]
      rfl
    rw [hnumbers]
    exact numbers_ok x

end Sys2Proof.Machine

namespace Sys2Proof
open Machine

/-- Settles O48: the checks of a source give `SourceOk`, from which each limit of a block follows. -/
theorem acceptedSourcesMakeSoundBlocks : Obligations.AcceptedSourcesMakeSoundBlocks := by
  intro s q d old x p hread hbuild b hb
  obtain ⟨hcheck, hblocks, hinit⟩ := buildProblem_ok hbuild
  have hx := sourceOk_of_checks (sourceRead_of_readSource hread) hcheck
  have hcount : b < blockCount x := by simpa [hblocks] using hb
  have hblock : p.block b = buildBlock x (exponentsOf x (dBias d)) (nonzeroEntries x) b := by
    simp [Problem.block, nth, hblocks, hcount]
  obtain ⟨hone, hmost⟩ := hx.sizes b hcount
  dsimp only
  rw [hblock, length_blockVars hx.map]
  refine ⟨hone, hmost, hx.neighbours b hcount, hx.inter b hcount, buildBlock_groups_length hx, buildBlock_couplingsOk hx, ?_,
    buildBlock_oneHot hx hinit⟩
  exact length_blockVars hx.map ▸ buildBlock_groupsOk hx

end Sys2Proof
end

section
/-! PROOFS. Every step keeps one hot member in each group (R98).

`HotFor K s`: every problem stored is sound, every launch is of one and, if no cascade shares it, keeps one hot member in each
group, and the launches of `K` are shared. Every function of the model that changes the spin fabric's part, or calls one that
does, has one lemma: from `h : HotFor K u`, `h.f : HotFor K (f u)`. A function that leaves that part has it from its
`Touches` (`HotFor.apart`). -/

namespace Sys2Proof.Machine

-- A thread for each of the many short theorems would take more stack than the check allows.
set_option Elab.async false

/-! ### Problems and launches -/

/-- A run of a block: a bit for each variable, and one hot member in each group. -/
def RunOk (b : Block) (run : BlockRun) : Prop := run.bits.length = b.vars.length ∧ OneHot b.groups run.bits

/-- The runs of a launch of a problem are sound when no cascade shares it. -/
def RunsOk (p : Problem) (l : Launch) : Prop :=
  l.partition = none → ∀ y ∈ l.runs, RunOk (p.block (y.1 % p.nb)) y.2

/-- A launch of a stored problem, with sound runs. -/
def LaunchOk (s : State) (l : Launch) : Prop := ∃ p, tblFind s.spin.problems l.problem = some p ∧ RunsOk p l

/-- The invariant of the spin fabric, with the launches of `K` known to be shared. -/
structure HotFor (K : Nat → Prop) (s : State) : Prop where
  problems : ∀ e ∈ s.spin.problems, ProblemOk e.2
  launches : ∀ e ∈ s.spin.launches, LaunchOk s e.2
  shared : ∀ c l, K c → tblFind s.spin.launches c = some l → l.partition ≠ none

theorem hotOk_iff {s : State} : HotOk s ↔ HotFor (fun _ => False) s :=
  ⟨fun ⟨hp, hl⟩ => ⟨hp, hl, fun _ _ h => h.elim⟩, fun h => ⟨h.problems, h.launches⟩⟩

/-- Launches with the same problem and members, and the bits of the runs under each number. -/
structure Alike (l l' : Launch) : Prop where
  problem : l'.problem = l.problem
  partition : l'.partition = l.partition
  runs : ∀ y ∈ l'.runs, ∃ z ∈ l.runs, z.1 = y.1 ∧ z.2.bits = y.2.bits

/-- The parts but that of the spin fabric. -/
def Part.still : List Part :=
  [.mem, .mesh, .dies, .engines, .banks, .cmds, .jobs, .arrays, .qfe, .ports, .grf, .hbm, .fls, .opx, .pwr, .hosts, .sec,
    .flt, .mgmt, .reply, .sent, .draws]

section
variable {K : Nat → Prop} {s u t : State} {l l' : Launch} {c : Nat}

theorem Touches.spin (h : Touches Part.still u t) : t.spin = u.spin := h.same .spin (by decide)

theorem Alike.refl : Alike l l := ⟨rfl, rfl, fun y hy => ⟨y, hy, rfl, rfl⟩⟩

theorem Alike.trans {l2 : Launch} (h : Alike l l') (h' : Alike l' l2) : Alike l l2 where
  problem := h'.problem.trans h.problem
  partition := h'.partition.trans h.partition
  runs y hy := by
    obtain ⟨z, hz, hk, hb⟩ := h'.runs y hy
    obtain ⟨w, hw, hk', hb'⟩ := h.runs z hz
    exact ⟨w, hw, hk'.trans hk, hb'.trans hb⟩

/-- A change of other fields than the problem, the members and the runs. -/
theorem Alike.rest (h : l'.problem = l.problem := by rfl) (hp : l'.partition = l.partition := by rfl)
    (hr : l'.runs = l.runs := by rfl) : Alike l l' :=
  ⟨h, hp, fun y hy => ⟨y, hr ▸ hy, rfl, rfl⟩⟩

/-- A change of the runs that leaves their numbers and bits. -/
theorem Alike.map {f : Nat × BlockRun → Nat × BlockRun} (hf : ∀ y, (f y).1 = y.1 ∧ (f y).2.bits = y.2.bits) :
    Alike l { l with runs := l.runs.map f } where
  problem := rfl
  partition := rfl
  runs y hy := by
    obtain ⟨z, hz, rfl⟩ := List.mem_map.1 hy
    exact ⟨z, hz, (hf z).1.symm, (hf z).2.symm⟩

theorem run?_some {p : Problem} {r b : Nat} {run : BlockRun} (h : l.run? p r b = some run) :
    b < p.nb ∧ tblFind l.runs (r * p.nb + b) = some run := by
  unfold Launch.run? at h
  split at h
  · next hb => exact ⟨hb, h⟩
  · cases h

theorem pair_mod {p : Problem} {r b : Nat} (hb : b < p.nb) : (r * p.nb + b) % p.nb = b := by
  rw [Nat.mul_comm, Nat.mul_add_mod, Nat.mod_eq_of_lt hb]

theorem Alike.setRun {p : Problem} {r b : Nat} {run run' : BlockRun} (h : l.run? p r b = some run)
    (hb : run'.bits = run.bits) : Alike l (l.setRun p r b run') where
  problem := rfl
  partition := rfl
  runs y hy := by
    rcases tblPut_mem hy with rfl | hy
    · exact ⟨_, tblFind_mem (run?_some h).2, rfl, hb.symm⟩
    · exact ⟨y, hy, rfl, rfl⟩

theorem RunsOk.alike {p : Problem} (h : RunsOk p l) (ha : Alike l l') : RunsOk p l' := by
  intro hnone y hy
  obtain ⟨z, hz, hk, hb⟩ := ha.runs y hy
  have hrun := h (ha.partition ▸ hnone) z hz
  unfold RunOk at hrun ⊢
  rwa [hk, hb] at hrun

theorem RunsOk.setRun {p : Problem} {r b : Nat} {run : BlockRun} (h : RunsOk p l) (hb : b < p.nb)
    (hrun : l.partition = none → RunOk (p.block b) run) : RunsOk p (l.setRun p r b run) := by
  intro hnone y hy
  rcases tblPut_mem hy with rfl | hy
  · dsimp only
    rw [pair_mod hb]
    exact hrun hnone
  · exact h hnone y hy

theorem RunsOk.run {p : Problem} {r b : Nat} {run : BlockRun} (h : RunsOk p l) (e : l.run? p r b = some run)
    (hnone : l.partition = none) : RunOk (p.block b) run := by
  obtain ⟨hb, e⟩ := run?_some e
  have hrun := h hnone _ (tblFind_mem e)
  dsimp only at hrun
  rwa [pair_mod hb] at hrun

theorem LaunchOk.alike (h : LaunchOk s l) (ha : Alike l l') : LaunchOk s l' := by
  obtain ⟨p, hp, hruns⟩ := h
  exact ⟨p, ha.problem ▸ hp, hruns.alike ha⟩

theorem LaunchOk.runs {p : Problem} (h : LaunchOk s l) (hp : tblFind s.spin.problems l.problem = some p) : RunsOk p l := by
  obtain ⟨p', hp', hruns⟩ := h
  cases hp'.symm.trans hp
  exact hruns

/-- Nothing is asked of the runs of a launch that a cascade shares. -/
theorem LaunchOk.shared (h : LaunchOk s l) (hproblem : l'.problem = l.problem) (hpart : l'.partition = l.partition)
    (hl : l.partition ≠ none) : LaunchOk s l' := by
  obtain ⟨p, hp, -⟩ := h
  exact ⟨p, hproblem ▸ hp, fun hnone => absurd (hpart ▸ hnone) hl⟩

theorem LaunchOk.spin (h : LaunchOk s l) (e : t.spin.problems = s.spin.problems) : LaunchOk t l := by
  unfold LaunchOk
  rwa [e]

/-- A change that leaves the spin fabric's part. -/
theorem HotFor.rest (h : HotFor K u) (e : t.spin = u.spin := by rfl) : HotFor K t where
  problems := e ▸ h.problems
  launches x hx := (h.launches x (e ▸ hx)).spin (congrArg Spin.problems e)
  shared c l hc hl := h.shared c l hc (e ▸ hl)

theorem HotFor.apart (h : HotFor K u) (ht : Touches Part.still u u → Touches Part.still u t) : HotFor K t :=
  h.rest (ht .refl).spin

theorem HotFor.ite {p : Prop} {_ : Decidable p} (h : HotFor K u) (ht : HotFor K t) : HotFor K (if p then u else t) := by
  split
  · exact h
  · exact ht

theorem HotFor.foldl {α : Type} {f : State → α → State} {l : List α} (h : HotFor K u)
    (hf : ∀ v a, HotFor K v → HotFor K (f v a)) : HotFor K (l.foldl f u) := by
  induction l generalizing u with
  | nil => exact h
  | cons a l ih => exact ih (hf _ _ h)

theorem HotFor.ok (h : HotFor K u) (e : tblFind u.spin.launches c = some l) : LaunchOk u l :=
  h.launches _ (tblFind_mem e)

/-- A launch is put in. -/
theorem HotFor.setLaunch (h : HotFor K u) (hl : LaunchOk u l) (hk : K c → l.partition ≠ none) :
    HotFor K (u.setLaunch c l) where
  problems := h.problems
  launches e he := by
    rcases tblPut_mem he with rfl | he
    · exact hl
    · exact h.launches e he
  shared c' l' hc' e := by
    by_cases hcc : c' = c
    · subst hcc
      cases (tblFind_put_same ..).symm.trans e
      exact hk hc'
    · exact h.shared c' l' hc' ((tblFind_put_ne _ _ hcc).symm.trans e)

/-- A launch is changed in other things than its problem, its members and the bits of its runs. -/
theorem HotFor.setAlike (h : HotFor K u) (e : tblFind u.spin.launches c = some l) (ha : Alike l l') :
    HotFor K (u.setLaunch c l') :=
  h.setLaunch ((h.ok e).alike ha) fun hc => ha.partition ▸ h.shared c l hc e

theorem HotFor.mono {J : Nat → Prop} (h : HotFor K u) (hJ : ∀ c, J c → K c) : HotFor J u :=
  ⟨h.problems, h.launches, fun c l hc => h.shared c l (hJ c hc)⟩

/-- One more launch is known to be shared. -/
theorem HotFor.sharing (h : HotFor K u) (e : tblFind u.spin.launches c = some l) (hl : l.partition ≠ none) :
    HotFor (fun k => K k ∨ k = c) u := by
  refine ⟨h.problems, h.launches, fun k l' hk e' => ?_⟩
  rcases hk with hk | rfl
  · exact h.shared k l' hk e'
  · cases e.symm.trans e'
    exact hl

/-- Launches end. -/
theorem HotFor.keepLaunches (h : HotFor K u) (hp : t.spin.problems = u.spin.problems)
    (hsub : ∀ e ∈ t.spin.launches, e ∈ u.spin.launches)
    (hfind : ∀ c l, tblFind t.spin.launches c = some l → tblFind u.spin.launches c = some l) : HotFor K t where
  problems := hp ▸ h.problems
  launches e he := (h.launches e (hsub e he)).spin hp
  shared c l hc e := h.shared c l hc (hfind c l e)

theorem tblFind_of_del {α : Type} {t : Tbl α} {a b : Nat} {x : α} (h : tblFind (tblDel t a) b = some x) :
    tblFind t b = some x := by
  by_cases hb : b = a
  · subst hb
    rw [tblFind_del_same] at h
    cases h
  · rwa [tblFind_del_ne t hb] at h

/-- No launch is left. -/
theorem HotFor.noLaunches (h : HotFor K u) (hp : t.spin.problems = u.spin.problems) (hl : t.spin.launches = []) :
    HotFor K t :=
  h.keepLaunches hp (by simp [hl]) (by simp [hl, tblFind])

/-- Every launch is changed in other things than its problem, its members and the bits of its runs. -/
theorem HotFor.mapLaunches {f : Launch → Launch} (h : HotFor K u) (hf : ∀ l, Alike l (f l))
    (hp : t.spin.problems = u.spin.problems) (hl : t.spin.launches = u.spin.launches.map fun e => (e.1, f e.2)) :
    HotFor K t where
  problems := hp ▸ h.problems
  launches e he := by
    rw [hl] at he
    obtain ⟨x, hx, rfl⟩ := List.mem_map.1 he
    exact ((h.launches x hx).alike (hf x.2)).spin hp
  shared c l hc e := by
    have hmap (t : Tbl Launch) : tblFind (t.map fun e => (e.1, f e.2)) c = (tblFind t c).map f := by
      induction t with
      | nil => rfl
      | cons a t ih =>
        rw [List.map_cons, tblFind, tblFind]
        split
        · rfl
        · exact ih
    rw [hl, hmap] at e
    obtain ⟨l', e', rfl⟩ := Option.map_eq_some_iff.1 e
    exact (hf l').partition ▸ h.shared c l' hc e'

/-- A sound problem is put in: one that no launch is of, or one that leaves what the launches' runs rest on. -/
theorem HotFor.setProblem {i : Nat} {p : Problem} (h : HotFor K u) (hp : ProblemOk p)
    (hl : ∀ e ∈ u.spin.launches, e.2.problem = i → ∃ q, tblFind u.spin.problems i = some q ∧ q.blocks = p.blocks) :
    HotFor K (u.setProblem i p) where
  problems e he := by
    rcases tblPut_mem he with rfl | he
    · exact hp
    · exact h.problems e he
  launches e he := by
    obtain ⟨q, hq, hruns⟩ := h.launches e he
    by_cases hi : e.2.problem = i
    · obtain ⟨q', hq', hblocks⟩ := hl e he hi
      rw [hi, hq'] at hq
      cases hq
      refine ⟨p, by rw [hi]; exact tblFind_put_same .., fun hnone y hy => ?_⟩
      have hrun := hruns hnone y hy
      unfold Problem.block Problem.nb at hrun ⊢
      rwa [hblocks] at hrun
    · exact ⟨q, (tblFind_put_ne _ _ hi).trans hq, hruns⟩
  shared := h.shared

end

end Sys2Proof.Machine
end

section
/-! PROOFS. Ends of commands and of tasks, fatal stops, and pages keep one hot member in each group (R98). -/

namespace Sys2Proof.Machine

-- A thread for each of the many short theorems would take more stack than the check allows.
set_option Elab.async false

/-! ### Ends of commands (R278, R281) -/

/-- Every state that a body's answer carries meets the invariant. -/
inductive DoneHot (K : Nat → Prop) : Done → Prop where
  | ok {t : State} {r : BitVec 128} (h : HotFor K t) : DoneHot K (.ok t r)
  | bad {t : State} {code detail : Nat} {r : BitVec 128} {logged : Bool} (h : HotFor K t) :
    DoneHot K (.bad t code detail r logged)
  | run {t : State} (h : HotFor K t) : DoneHot K (.run t)
  | stop {x : Stop} : DoneHot K (.stop x)
  | held {t : State} {x : Stop} (h : HotFor K t) : DoneHot K (.held t x)

section
variable {K : Nat → Prop} {s u t : State}

theorem HotFor.dropLaunch {l : Nat} (h : HotFor K u) : HotFor K (dropLaunch u l) := by
  have hf : HotFor K (freeSlots u l) := h.apart fun h => h.freeSlots
  unfold Machine.dropLaunch
  exact hf.keepLaunches rfl (fun e he => tblDel_mem he) fun _ _ e => tblFind_of_del e

theorem HotFor.launchWritten {q seq : Nat} (h : HotFor K u) : HotFor K (launchWritten u q seq) := by
  unfold Machine.launchWritten
  extract_lets v
  have hv : HotFor K v := by
    unfold v
    split
    · exact h.dropLaunch
    · exact h
  clear_value v
  split
  · exact hv.apart fun h => h.dropGraphLaunch
  · exact hv

theorem HotFor.endLaunch {c : Nat} {x : Cmd} {code : Nat} (h : HotFor K u) : HotFor K (endLaunch u c x code) := by
  unfold Machine.endLaunch
  split
  · exact h
  · next l e =>
    refine .ite h.dropLaunch ?_
    extract_lets v
    have hs : v.spin = u.spin := Touches.spin (.ite .refl (Touches.refl.freeSlots))
    exact (h.rest hs).setAlike (hs ▸ e) .rest

theorem HotFor.flushRecords {fuel q : Nat} (h : HotFor K u) : HotFor K (flushRecords fuel u q) := by
  induction fuel generalizing u with
  | zero => exact h
  | succ fuel ih =>
    unfold Machine.flushRecords
    split
    · exact h
    · split
      · exact h
      · split
        · next e =>
          extract_lets w1 x w2
          have hw1 : HotFor K w1 := h.apart fun h => (h.writeVa e).pokeVa
          have hw2 : HotFor K w2 := .launchWritten (hw1.apart fun h => h.setQueue.pollReset)
          exact ih (.ite (hw2.apart fun h => h.msixTrigger) hw2)
        · exact h.apart fun h => h.askPage.setQueue
        · exact h
        · exact h.apart fun h => h.queueError

theorem HotFor.putRecord {q : Nat} {r : Record} (h : HotFor K u) : HotFor K (putRecord u q r) := by
  unfold Machine.putRecord
  split
  · exact h
  · exact .ite h (.flushRecords (h.apart fun h => h.setQueue.haltFor))

theorem HotFor.finishCmd {c code detail : Nat} {result : BitVec 128} {logged shuttered : Bool} (h : HotFor K u) :
    HotFor K (finishCmd u c code detail result logged shuttered) := by
  unfold Machine.finishCmd
  split
  · exact h
  · extract_lets cut dropped released told
    have hc : HotFor K cut := .ite h (h.apart fun h => h.cutOffStore)
    clear_value cut
    have hd : HotFor K dropped := hc.endLaunch.apart fun h => .dropCmd (.releaseClaims (.rest h.endGraphLaunch))
    clear_value dropped
    have ht : HotFor K told := by
      refine hd.apart fun h => ?_
      dsimp only [told]
      split
      · exact h.releaseFlows.logOnQueue
      · exact h.releaseFlows
    clear_value told
    split
    · exact ht.apart fun h => h.nodeFinish
    · split
      · exact ht
      · exact ht.putRecord

theorem HotFor.faultAs {c code detail : Nat} {logged : Bool} (h : HotFor K u) :
    HotFor K (faultAs u c code detail logged) := by
  unfold Machine.faultAs
  split
  · exact h
  · split
    · exact h
    · split
      · exact h
      · exact h.apart fun h => .modCmd h.rest
      · exact .finishCmd (h.apart fun h => h.scrambleDests)

theorem HotFor.faultCmd {c code detail : Nat} (h : HotFor K u) : HotFor K (faultCmd u c code detail) := h.faultAs

theorem HotFor.faultCmdOpen {c code : Nat} (h : HotFor K u) : HotFor K (faultCmdOpen u c code) := .faultCmd h.rest

theorem DoneHot.within {α : Type} {x : Try α} {k : α → Done} (hk : ∀ a, x = .ok a → DoneHot K (k a)) :
    DoneHot K (within x k) := by
  unfold Machine.within
  split
  · exact hk _ rfl
  · exact .stop

theorem DoneHot.keeping {d : Done} (h : HotFor K u) (hd : DoneHot K d) : DoneHot K (keeping u d) := by
  cases hd with
  | stop => exact .held h
  | ok ht => exact .ok ht
  | bad ht => exact .bad ht
  | run ht => exact .run ht
  | held ht => exact .held ht

/-- A body that leaves the spin fabric's part. -/
theorem DoneHot.apart {d : Done} (h : HotFor K u) (hd : Touches Part.still u u → DoneTouches Part.still u d) :
    DoneHot K d := by
  cases hd .refl with
  | ok ht => exact .ok (h.apart fun _ => ht)
  | bad ht => exact .bad (h.apart fun _ => ht)
  | run ht => exact .run (h.apart fun _ => ht)
  | stop => exact .stop
  | held ht => exact .held (h.apart fun _ => ht)

theorem HotFor.failCmd {c code detail : Nat} {result : BitVec 128} {logged : Bool} (h : HotFor K u) :
    HotFor K (failCmd u c code detail result logged) := by
  unfold Machine.failCmd
  refine .finishCmd ?_
  split
  · exact h.apart fun h => h.scrambleDests
  · exact h

theorem HotFor.stopped {c : Nat} {q : Queue} {x : Stop} (h : HotFor K u) : HotFor K (stopped u c q x) := by
  unfold Machine.stopped
  split
  · exact h.failCmd
  · exact .failCmd h.rest
  · exact h.failCmd
  · exact h.apart fun h => h.askPage.modCmd
  · exact h

theorem HotFor.settle {c : Nat} {q : Queue} {d : Done} (h : HotFor K u) (hd : DoneHot K d) :
    HotFor K (settle u c q d) := by
  unfold Machine.settle
  cases hd with
  | ok ht => exact ht.finishCmd
  | bad ht => exact ht.finishCmd
  | run ht => exact ht.apart fun h => h.modCmd
  | stop => exact h.stopped
  | held ht => exact ht.stopped

theorem HotFor.takeCmd {c opcode : Nat} {stages : List Stage} {body : State → Cmd → Queue → Done} (h : HotFor K u)
    (hbody : ∀ x q, DoneHot K (body u x q)) : HotFor K (takeCmd u c opcode stages body) := by
  unfold Machine.takeCmd
  split
  · exact h
  · split
    · exact h
    · exact .ite (h.settle (hbody _ _)) h

theorem HotFor.goOnSlot {c : Nat} {stages : List Stage} {body : State → Cmd → Queue → Done} (h : HotFor K u)
    (hbody : ∀ x q, DoneHot K (body u x q)) : HotFor K (goOnSlot u c stages body) := by
  unfold Machine.goOnSlot
  split
  · exact .ite (h.takeCmd hbody) h
  · exact h

theorem HotFor.collective {c opcode : Nat} {start further : State → Cmd → Queue → Done} (h : HotFor K u)
    (hstart : ∀ x q, DoneHot K (start u x q)) (hfurther : ∀ x q, DoneHot K (further u x q)) :
    HotFor K (collective u c opcode start further) := by
  unfold Machine.collective
  split
  · exact .ite (h.takeCmd hfurther) (h.takeCmd hstart)
  · exact h

/-! ### Fatal stops (R473) -/

theorem HotFor.killAll (h : HotFor K u) : HotFor K (killAll u) := by
  unfold Machine.killAll
  extract_lets v
  have hv : HotFor K v := h.apart fun h => h.foldl fun _ _ hv => hv.scrambleDests.cutOffStore.releaseFlows
  exact hv.noLaunches rfl rfl

theorem HotFor.fatalOn {code detail die : Nat} (h : HotFor K u) : HotFor K (fatalOn u code detail die) := by
  unfold Machine.fatalOn
  split
  · exact h
  · extract_lets byH1 v _ v1 v2 v3
    have hv2 : HotFor K v2 := by
      refine h.apart fun h => ?_
      have hv1 : Touches Part.still u v1 := .rest (h.logOnDie)
      exact hv1.msixTrigger.msixTrigger
    clear_value v2
    have hv3 : HotFor K v3 := .killAll (hv2.apart fun h => h.writeDump)
    clear_value v3
    exact .ite hv3.rest hv3

theorem HotFor.fatal {code detail : Nat} (h : HotFor K u) : HotFor K (fatal u code detail) := h.fatalOn

/-! ### Ends of tasks (R250) -/

theorem HotFor.undoneRecords {l : List Handed} (h : HotFor K u) : HotFor K (undoneRecords u l) := by
  induction l generalizing u with
  | nil => exact h
  | cons r l ih =>
    unfold Machine.undoneRecords
    split
    · exact ih h
    · exact ih h.putRecord

theorem HotFor.closeTask {e : Nat} {t : Task} (h : HotFor K u) : HotFor K (closeTask u e t) := by
  unfold Machine.closeTask
  extract_lets v
  have hv : HotFor K v := .undoneRecords (h.apart fun h => h.clear)
  clear_value v
  dsimp only
  split
  · exact hv.apart fun h => h.dropTask
  · split
    · exact hv.apart fun h => h.dropTask
    · exact hv.apart fun h => h.setFence.mirrorEnd

theorem HotFor.endWaits {e : Nat} {t : Task} {wait : Option (Nat × Nat) → TaskWait} {x : Stop} {v : State}
    (h : HotFor K u) (hv : HotFor K v) : HotFor K (endWaits u e t wait v x) := by
  unfold Machine.endWaits
  split
  · exact h.apart fun h => h.setTask.askPage
  · exact .ite (h.apart fun h => h.setTask) hv
  · exact hv

theorem HotFor.recordEnd {e : Nat} {t : Task} {fault : Nat} (h : HotFor K u) : HotFor K (recordEnd u e t fault) := by
  unfold Machine.recordEnd
  split
  · exact h.closeTask
  · split
    · exact h.closeTask
    · split
      · next e => exact .closeTask (h.apart fun h => h.writeVa e)
      · exact h.endWaits h.closeTask

theorem HotFor.endTask {e fault : Nat} (h : HotFor K u) : HotFor K (endTask u e fault) := by
  unfold Machine.endTask
  split
  · exact h
  · split
    · exact h.recordEnd
    · exact h.apart fun h => h.mirrorEnd
    · exact h.recordEnd

theorem HotFor.taskStop {e : Nat} {t : Task} {x : Stop} (h : HotFor K u) : HotFor K (taskStop u e t x) := by
  unfold Machine.taskStop
  split
  · exact h.apart fun h => h.setTask.askPage
  · exact h
  · exact h.endTask
  · exact h.endTask
  · exact h.endTask

theorem HotFor.runInstr {e : Nat} {isOp : Nat → Bool} {f : State → Task → Nat → State} (h : HotFor K u)
    (hf : ∀ t w, HotFor K (f u t w)) : HotFor K (runInstr u e isOp f) := by
  unfold Machine.runInstr
  split
  · exact h
  · exact .ite (hf _ _) h

theorem HotFor.branchTo {e : Nat} {t : Task} {w : Nat} {taken : Bool} (h : HotFor K u) :
    HotFor K (branchTo u e t w taken) :=
  .ite (h.apart fun h => h.setTask) (.ite h.endTask (h.apart fun h => h.setTask))

theorem HotFor.compareBranch {e op : Nat} {f : DWord → DWord → Bool} (h : HotFor K u) :
    HotFor K (compareBranch u e op f) :=
  h.runInstr fun _ _ => h.branchTo

theorem HotFor.atomicOp {e op : Nat} {f : DWord → DWord → DWord} (h : HotFor K u) : HotFor K (atomicOp u e op f) :=
  h.runInstr fun _ _ => .ite (h.apart fun h => h.write.setTask) h.endTask

theorem DoneHot.stopTaskBody {x : Cmd} {q : Queue} (h : HotFor K u) : DoneHot K (stopTaskBody u x q) := by
  unfold Machine.stopTaskBody
  refine .within fun _ _ => ?_
  split
  · exact .ok h
  · refine .within fun _ _ => ?_
    extract_lets v
    have hv : HotFor K v := h.endTask
    clear_value v
    split
    · exact .ok hv
    · exact .run hv

/-! ### Starts, accesses and pages (R270, R282) -/

theorem HotFor.startCmd {i : Nat} {q : Queue} {x : Cmd} (h : HotFor K u) : HotFor K (startCmd u i q x) := by
  unfold Machine.startCmd
  dsimp only
  split
  · exact h.apart fun h => .setCmd h.rest
  · exact .settle (h.apart fun h => .setCmd h.rest) .stop

theorem HotFor.commandStart {i : Nat} (h : HotFor K u) : HotFor K (commandStart u i) := by
  unfold Machine.commandStart
  split
  · exact h
  · split
    · exact h
    · have hq {x : Queue} : HotFor K (u.setQueue i x) := h.apart fun h => h.setQueue
      exact .ite (.ite h (.ite (.ite hq.startCmd h) hq.putRecord)) (.ite hq.startCmd h)

theorem HotFor.hostAccess {c va len : Nat} {write : Bool} (h : HotFor K u) : HotFor K (hostAccess u c va len write) := by
  unfold Machine.hostAccess
  split
  · exact h
  · split
    · exact h
    · split
      · exact h
      · split
        · exact h.settle (.apart h fun h => .badWriting h)
        · split
          · exact h
          · split
            · split
              · exact h
              · dsimp only
                split
                · exact h.apart fun h => h.setPort
                · exact h
            · exact h.apart fun h => h.askPage.modCmd
            · exact h

theorem HotFor.taskRefused {code e : Nat} (h : HotFor K u) : HotFor K (taskRefused code u e) := by
  unfold Machine.taskRefused
  split
  · exact h
  · split
    · exact h.closeTask
    · exact h.apart fun h => h.dropTask
    · exact h.endTask

theorem HotFor.refuseUser {p : Port} {pasid page : Nat} {code : Bool → Nat} {x : PageUser × Bool} (h : HotFor K u) :
    HotFor K (refuseUser p pasid page code u x) := by
  unfold Machine.refuseUser
  split
  · exact .faultCmd (h.apart fun h => h.endWait)
  · exact h.apart fun h => .ite h.modQueue.queueError h
  · exact .ite h.taskRefused h

theorem HotFor.refusePage {p : Port} {pasid page : Nat} {code : Bool → Nat} {us : List (PageUser × Bool)}
    (h : HotFor K u) : HotFor K (refusePage u p pasid page code us) :=
  h.foldl fun _ _ hv => hv.refuseUser

theorem HotFor.resumeQueue {page : Nat} {write : Bool} {i : Nat} (h : HotFor K u) :
    HotFor K (resumeQueue page write u i) := by
  unfold Machine.resumeQueue
  split
  · have hq {x : Queue} : HotFor K (u.setQueue i x) := h.apart fun h => h.setQueue
    exact .ite hq.flushRecords hq
  · exact h

theorem HotFor.resumeTask {e : Nat} (h : HotFor K u) : HotFor K (resumeTask u e) := by
  unfold Machine.resumeTask
  split
  · exact h
  · split
    · exact h.apart fun h => h.setTask
    · exact h.endTask

theorem HotFor.resumeUser {p : Port} {pasid page : Nat} {x : PageUser × Bool} (h : HotFor K u) :
    HotFor K (resumeUser p pasid page u x) := by
  unfold Machine.resumeUser
  split
  · exact h.apart fun h => h.endWait
  · exact .ite h.resumeQueue h
  · exact .ite h.resumeTask h

theorem HotFor.askRequest {p : Port} {w : PageWait} (h : HotFor K u) : HotFor K (askRequest u p w) :=
  .ite h.refusePage (h.apart fun h => .ite h.setPort.request h.setPort)

theorem HotFor.atsCompletion {p : Port} {pasid page : Nat} {readable writable : Bool} (h : HotFor K u) :
    HotFor K (atsCompletion u p pasid page readable writable) := by
  unfold Machine.atsCompletion
  extract_lets x
  split
  · exact h
  · extract_lets erased cached readers writers resumed reads writes left
    have he : HotFor K erased := h.apart fun h => h.setPort
    clear_value erased
    have hc : HotFor K cached := .ite he (he.apart fun h => h.modPort)
    clear_value cached
    have hr : HotFor K resumed := hc.foldl fun _ _ hv => hv.resumeUser
    clear_value resumed
    exact .ite he (.ite hr (.ite hr.refusePage hr.askRequest))

theorem HotFor.prgResponse {p : Port} {pasid page : Nat} {code : PrgCode} (h : HotFor K u) :
    HotFor K (prgResponse u p pasid page code) := by
  unfold Machine.prgResponse
  split
  · exact h.apart fun h => h.pcieViolation
  · next w _ =>
    extract_lets dropped refuse
    have hd : HotFor K dropped := h.apart fun h => h.dropRequest
    clear_value dropped
    have hrefuse (v : State) (hv : HotFor K v) : HotFor K (refuse v) := .ite hv hv.refusePage
    clear_value refuse
    split
    · exact .ite hd (hd.apart fun h => h.modPort.request)
    · exact hrefuse _ hd
    · exact .foldl (hrefuse _ (hd.apart fun h => h.modPort.pcieViolation.modPort)) fun _ _ hv => hv.refusePage

/-! ### Graphs, shutters and teardown (R292, R296, R310-R314) -/

theorem HotFor.endIfIdle {c : Nat} (h : HotFor K u) : HotFor K (endIfIdle u c) := by
  unfold Machine.endIfIdle
  split
  · split
    · exact h
    · dsimp only
      split
      · exact h
      · split
        · exact h.finishCmd
        · exact h.finishCmd
        · split
          · next e => exact .finishCmd (h.apart fun h => h.writeAll e)
          · exact h.apart fun h => h.askPage.modCmd
          · exact h.finishCmd
          · exact h
  · exact h

theorem HotFor.graphNodeStart {c n : Nat} (h : HotFor K u) : HotFor K (graphNodeStart u c n) := by
  unfold Machine.graphNodeStart
  split
  · exact h
  · split
    · exact h
    · split
      · exact h.apart fun h => h.setGraphLaunch
      · split
        · exact .endIfIdle (h.apart fun h => .setGraphLaunch h.rest)
        · split
          · exact h
          · split
            · exact h
            · exact .startCmd (h.apart fun h => h.setGraphLaunch)
      · exact h

theorem HotFor.graphNodeComplete {c n : Nat} (h : HotFor K u) : HotFor K (graphNodeComplete u c n) := by
  unfold Machine.graphNodeComplete
  split
  · split
    · exact h
    · split
      · exact h
      · split
        · dsimp only
          split
          · exact .endIfIdle (h.apart fun h => h.setGraphLaunch)
          · split
            · next e => exact .endIfIdle (h.apart fun h => .setGraphLaunch (h.writeVa e))
            · exact h.apart fun h => h.askPage.modCmd
            · exact .endIfIdle (h.apart fun h => h.setGraphLaunch)
            · exact h
        · exact h.endIfIdle
        · exact h
  · exact h

theorem HotFor.shutterComplete {c : Nat} (h : HotFor K u) : HotFor K (shutterComplete u c) := by
  unfold Machine.shutterComplete
  split
  · exact h
  · split
    · exact .ite (.finishCmd (h.apart fun h => h.scrambleDests)) h
    · exact h

theorem HotFor.destroyQueue {p : Port} {b : List Byte} (h : HotFor K u) : HotFor K (destroyQueue u p b) := by
  unfold Machine.destroyQueue
  dsimp only
  split
  · exact h.apart fun h => h.setupDone
  · split
    · exact h.apart fun h => h.setupDone
    · refine .ite (h.apart fun h => h.setupDone) (.foldl (h.apart fun h => ?_) fun _ _ hv => hv.endTask)
      exact .foldl (.setQueue h.rest) fun _ _ hv => hv.startShutter

theorem HotFor.endTorn {i c : Nat} (h : HotFor K u) : HotFor K (endTorn i u c) := by
  unfold Machine.endTorn
  split
  · exact h
  · exact .finishCmd (h.apart fun h => h.scrambleDests)

theorem HotFor.dropQueueWork {i : Nat} (h : HotFor K u) : HotFor K (dropQueueWork u i) := by
  unfold Machine.dropQueueWork
  extract_lets v w
  have hv : HotFor K v := h.foldl fun _ _ hv => hv.dropLaunch
  clear_value v
  exact hv.apart fun h => .rest (.foldl h fun _ _ hv => hv.dropGraphLaunch)

theorem HotFor.teardownComplete {p : Port} (h : HotFor K u) : HotFor K (teardownComplete u p) := by
  unfold Machine.teardownComplete
  split
  · exact h
  · extract_lets cs i killed own v v1
    have hv1 : HotFor K v1 := .foldl (h.foldl fun _ _ hv => hv.endTorn) fun _ _ hv => hv.endTorn
    clear_value v1
    split
    · exact h
    · split
      · exact h
      · extract_lets v2 _ v3 v4 v5
        have hv2 : HotFor K v2 := .dropQueueWork (hv1.apart fun h => h.foldl fun _ _ hv2 => .ite hv2.freeOwned hv2)
        clear_value v2
        refine hv2.apart fun h => ?_
        have hv4 : Touches _ v2 v4 := (Touches.rest h (t := v3)).withdrawPages.prunePages
        clear_value v4
        exact .setupDone (.ite hv4.write hv4)

end

end Sys2Proof.Machine
end

section
/-! PROOFS. Anneal runs, launches and the problem commands keep one hot member in each group (R90, R98, R124, R129, R141). -/

namespace Sys2Proof.Machine

-- A thread for each of the many short theorems would take more stack than the check allows.
set_option Elab.async false

/-! ### The bits of a run -/

@[simp] theorem stepTable_bits (l : Launch) (run : BlockRun) : (stepTable l run).1.bits = run.bits := by
  unfold stepTable
  split
  · rfl
  · split <;> rfl

@[simp] theorem endSweep_bits (l : Launch) (p : Problem) (bn : Nat) (run : BlockRun) :
    (endSweep l p bn run).1.bits = run.bits :=
  stepTable_bits ..

@[simp] theorem tally_bits (run : BlockRun) (e : Nat) (f : EpochTally → EpochTally) : (run.tally e f).bits = run.bits := rfl

@[simp] theorem contribute_bits (p : Problem) (bn : Nat) (run : BlockRun) : (contribute p bn run).bits = run.bits := by
  unfold contribute
  split <;> rfl

@[simp] theorem receiveValues_bits (p : Problem) (bn : Nat) (run : BlockRun) (source epoch : Nat) (v : List Bool) :
    (receiveValues p bn run source epoch v).bits = run.bits :=
  contribute_bits ..

@[simp] theorem beginEpoch_bits (l : Launch) (p : Problem) (bn e : Nat) (look : Nat → Bool) (run : BlockRun) :
    (beginEpoch l p bn e look run).bits = run.bits := rfl

@[simp] theorem firstRun_bits (l : Launch) (p : Problem) (r b e : Nat) :
    (firstRun l p r b e).bits = (p.block b).local (l.rep r).finalBits := by
  unfold firstRun
  dsimp only
  split <;> simp

theorem accepts_move {l : Launch} {p : Problem} {seed : DWord} {r bn i : Nat} {run : BlockRun}
    (h : accepts l p seed r bn run i = true) : moveOf (p.block bn) run.bits i ≠ [] := by
  unfold accepts at h
  dsimp only at h
  split at h
  · cases h
  · intro hnil
    simp [hnil] at h

/-! ### Changes of a launch -/

theorem RunOk.congr {b : Block} {run run' : BlockRun} (h : RunOk b run) (e : run'.bits = run.bits) : RunOk b run' := by
  unfold RunOk
  rwa [e]

section
variable {K : Nat → Prop} {s u t : State} {l l' : Launch} {p : Problem} {c : Nat}

theorem Alike.foldl {α : Type} {f : Launch → α → Launch} {a : List α} (hf : ∀ l x, Alike l (f l x)) :
    Alike l (a.foldl f l) := by
  induction a generalizing l with
  | nil => exact .refl
  | cons x a ih => exact (hf l x).trans ih

theorem Alike.setRep {r : Nat} {x : Replica} : Alike l (l.setRep r x) := .rest

theorem Alike.completeEpoch {r e : Nat} {quad neural : Int} {bits : List Bool} :
    Alike l (completeEpoch l r e quad neural bits) := .rest

theorem Alike.capture {r e : Nat} : Alike l (capture l p r e) := by
  unfold Machine.capture
  refine .trans (.map fun y => ?_) .setRep
  split <;> exact ⟨rfl, rfl⟩

theorem Alike.reduceWith {r e : Nat} {twice neural : Int} : Alike l (reduceWith l p r e twice neural) := by
  unfold Machine.reduceWith
  refine .trans (.map fun y => ?_) .setRep
  split <;> exact ⟨rfl, rfl⟩

theorem Alike.withEngines {a : List (Nat × Nat)} : Alike l { l with runs := withEngines l a } := .map fun _ => ⟨rfl, rfl⟩

theorem Alike.withPaging : Alike l { l with runs := withPaging l } := .map fun _ => ⟨rfl, rfl⟩

theorem Alike.placed {engines : List Nat} {x : Placement} : Alike l (placed l engines x) := by
  unfold Machine.placed
  extract_lets l1 l2
  have h1 : Alike l l1 := .rest
  have h2 : Alike l1 l2 := .withEngines
  exact (h1.trans h2).trans .withPaging

theorem Alike.mergePairs {keys : List Nat} {b : List Byte} : Alike l (mergePairs p keys b l) := by
  induction keys generalizing b l with
  | nil => exact .refl
  | cons k rest ih => exact .trans .setRep ih

theorem Alike.mergeMember {m : Nat} {b : List Byte} : Alike l (mergeMember l p m b) :=
  .trans .mergePairs (.foldl fun _ _ => .setRep)

/-- What stays of a launch when its positions trade states. -/
structure Traded (p : Problem) (l l' : Launch) : Prop where
  problem : l'.problem = l.problem
  partition : l'.partition = l.partition
  runs : RunsOk p l → RunsOk p l'

theorem Alike.traded (h : Alike l l') : Traded p l l' := ⟨h.problem, h.partition, fun hr => hr.alike h⟩

theorem Traded.trans {l2 : Launch} (h : Traded p l l') (h' : Traded p l' l2) : Traded p l l2 :=
  ⟨h'.problem.trans h.problem, h'.partition.trans h.partition, fun hr => h'.runs (h.runs hr)⟩

/-- Two positions trade a block's states: each takes over bits of the same block (R129). -/
theorem Traded.swapBlock {r b : Nat} {x y : BlockRun} (hx : l.run? p r b = some x) (hy : l.run? p (r + 1) b = some y) :
    Traded p l ((l.setRun p r b (takeState x y)).setRun p (r + 1) b (takeState y x)) where
  problem := rfl
  partition := rfl
  runs h := by
    have hb := (run?_some hx).1
    refine .setRun (.setRun h hb fun hnone => ?_) hb fun hnone => ?_
    · exact (h.run hy hnone).congr rfl
    · exact (h.run hx hnone).congr rfl

theorem Traded.swapStates {r : Nat} : Traded p l (swapStates l p r) := by
  unfold Machine.swapStates
  generalize List.range p.nb = bs
  induction bs generalizing l with
  | nil => exact Alike.refl.traded
  | cons b bs ih =>
    rw [List.foldl_cons]
    refine .trans ?_ ih
    split
    · next hx hy => exact .swapBlock hx hy
    · exact Alike.refl.traded

theorem Traded.exchange {r e : Nat} : Traded p l (exchange l p r e) := by
  unfold Machine.exchange
  extract_lets yes l1 a b sa sb l2
  have h2 : Traded p l l2 := ((Alike.capture.trans .capture).trans .setRep).traded
  clear_value l2
  split
  · exact (h2.trans .swapStates).trans (Alike.completeEpoch.trans .completeEpoch).traded
  · exact h2.trans (Alike.completeEpoch.trans .completeEpoch).traded

theorem Traded.afterReduction {r e : Nat} : Traded p l (afterReduction l p r e) := by
  unfold Machine.afterReduction
  split
  · exact (Alike.capture.trans .completeEpoch).traded
  · split
    · exact .exchange
    · exact Alike.refl.traded

theorem HotFor.withLaunch {f : Launch → Problem → Queue → State} (h : HotFor K u)
    (hf : ∀ l p q, tblFind u.spin.launches c = some l → tblFind u.spin.problems l.problem = some p → HotFor K (f l p q)) :
    HotFor K (withLaunch u c f) := by
  unfold Machine.withLaunch
  split
  · next l _ hl _ =>
    split
    · next p q hp _ => exact .ite (hf l p q hl hp) h
    · exact h
  · exact h

theorem block_groupsOk (hp : ProblemOk p) {b : Nat} (hb : b < p.nb) :
    GroupsOk (p.block b).groups (p.block b).vars.length :=
  (hp.1 _ (block_mem hb)).1

/-! ### Batches, tables and epochs (R101, R117, R124) -/

/-- A batch keeps a run sound. -/
theorem RunOk.commitBatch {r bn : Nat} {seed : DWord} {run : BlockRun} (hp : ProblemOk p) (hb : bn < p.nb)
    (h : RunOk (p.block bn) run) (fresh : List Nat) (next : Nat) :
    RunOk (p.block bn) (commitBatch p bn run (if l.concurrent then
        decideConc (p.block bn) (accepts l p seed r bn run) [] fresh
      else decideSeq p bn (accepts l p seed r bn run) [] (run.pending ++ fresh)) next) := by
  obtain ⟨hlen, hhot⟩ := h
  have hgroups := hlen ▸ block_groupsOk hp hb
  refine ⟨by simpa using hlen, ?_⟩
  split
  · exact oneHot_commitBatch_conc hgroups hhot (fun _ => accepts_move) _ _
  · exact oneHot_commitBatch_seq hgroups hhot (fun _ => accepts_move) _ _

theorem HotFor.annealBatch {r bn : Nat} (h : HotFor K u) : HotFor K (annealBatch u c r bn) := by
  unfold Machine.annealBatch
  refine h.withLaunch fun l p q hl hp => ?_
  split
  · next run seed hrun _ =>
    refine .ite h (.ite (h.apart fun h => h.issued) ?_)
    extract_lets fresh ok d next run1 e
    split
    next run2 residue late hsweep =>
    extract_lets run3 turned batch deferred refused
    have hbits : run3.bits = run1.bits := by
      unfold run3
      rw [tally_bits]
      split at hsweep
      · exact (congrArg (·.1.bits) hsweep).symm.trans (endSweep_bits ..)
      · exact (congrArg (·.1.bits) hsweep).symm
    have hlaunch : LaunchOk u (l.setRun p r bn run3) := by
      have hruns := (h.ok hl).runs hp
      have hb := (run?_some hrun).1
      refine ⟨p, hp, hruns.setRun hb fun hnone => .congr ?_ hbits⟩
      exact (hruns.run hrun hnone).commitBatch (h.problems _ (tblFind_mem hp)) hb ..
    have hset : HotFor K (u.setLaunch c (l.setRun p r bn run3)) := h.setLaunch hlaunch fun hc => h.shared c l hc hl
    have hb : HotFor K batch := hset.apart fun h => h.passTurn.tileWork.countEngine
    clear_value batch
    have hd : HotFor K deferred := .ite hb (hb.apart fun h => h.countEngine)
    clear_value deferred
    have hr : HotFor K refused := .ite hd (hd.apart fun h => h.countEngine)
    clear_value refused
    exact .ite (hr.apart fun h => h.countEngine) hr
  · exact h

theorem HotFor.epochEnd {r bn : Nat} (h : HotFor K u) : HotFor K (epochEnd u c r bn) := by
  unfold Machine.epochEnd
  refine h.withLaunch fun l p q hl _ => ?_
  split
  · next hrun => exact .ite (h.setAlike hl (.setRun hrun (contribute_bits ..))) h
  · exact h

theorem HotFor.epochStart {r bn : Nat} (h : HotFor K u) : HotFor K (epochStart u c r bn) := by
  unfold Machine.epochStart
  refine h.withLaunch fun l p q hl _ => ?_
  split
  · next run hrun =>
    have hset {run' : BlockRun} (e : run'.bits = run.bits) : HotFor K (u.setLaunch c (l.setRun p r bn run')) :=
      h.setAlike hl (.setRun hrun e)
    dsimp only
    refine .ite (.ite h ?_) (.ite ?_ h)
    · refine .apart (u := u.setLaunch c (l.setRun p r bn _)) (hset ?_) fun h => h.countEngine
      rfl
    · have hbegun := hset (beginEpoch_bits l p bn (run.epoch + 1) (lookInbound p run run.epoch) run)
      exact .ite (hbegun.apart fun h => h.oweFlow) hbegun
  · exact h

end

end Sys2Proof.Machine
end

section
/-! PROOFS. Launches, what a cascade exchanges, and the problem commands keep one hot member in each group (R90, R98, R141,
R381). -/

namespace Sys2Proof.Machine

-- A thread for each of the many short theorems would take more stack than the check allows.
set_option Elab.async false

/-! ### Exchanges of a cascade (R377, R381) -/

theorem going_some {s : State} {c : Nat} {l : Launch} (h : going s c = some l) : tblFind s.spin.launches c = some l :=
  (Option.filter_eq_some_iff.1 h).1

section
variable {K : Nat → Prop} {s u t : State} {l l' : Launch} {p : Problem} {c : Nat}

theorem spin_takeRx {flow origin n : Nat} {r : List Byte × State} (e : takeRx u flow origin n = some r) :
    r.2.spin = u.spin :=
  (Touches.refl.takeRx e).spin

theorem HotFor.sendPart (h : HotFor K u) (e : tblFind u.spin.launches c = some l) : HotFor K (sendPart u c l p) := by
  have hs : HotFor K (u.setLaunch c { l with sent := l.sent + 1 }) := h.setAlike e .rest
  exact .ite (.ite (hs.apart fun h => h.handPart) h) (.ite (hs.apart fun h => h.handPart) h)

theorem HotFor.sendParts (h : HotFor K u) : HotFor K (sendParts u c) := by
  unfold Machine.sendParts
  refine .foldl h fun v a hv => ?_
  split
  · next e =>
    split
    · exact .ite (hv.sendPart e) hv
    · exact hv
  · exact hv

theorem HotFor.meetHeaders (h : HotFor K u) : HotFor K (meetHeaders u c p) := by
  unfold Machine.meetHeaders
  refine .foldl h fun v a hv => ?_
  split
  · exact hv
  · next l hl =>
    split
    · exact hv
    · split
      · exact hv
      · next b w e =>
        have hs := spin_takeRx e
        have hw : HotFor K w := hv.rest hs
        have hset {l' : Launch} (ha : Alike l l') : HotFor K (w.setLaunch c l') :=
          hw.setAlike (hs ▸ going_some hl) ha
        exact .ite hw.faultCmd (.ite ((hset .rest).apart fun h => h.modCmd) (hset .rest))

theorem HotFor.takePart {m n : Nat} (h : HotFor K u) : HotFor K (takePart u c l m n).2 := by
  unfold Machine.takePart
  split
  · exact h
  · split
    · exact h.faultCmd
    · split
      · exact h
      · next e => exact h.rest (spin_takeRx e)

/-- A message that is taken leaves the spin fabric's part. -/
theorem spin_takePart {m n : Nat} {b : List Byte} {v : State} (e : takePart u c l m n = (some b, v)) :
    v.spin = u.spin := by
  unfold Machine.takePart at e
  split at e
  · cases e
  · split at e
    · cases e
    · split at e
      · cases e
      · next hrx =>
        cases e
        exact spin_takeRx hrx

theorem HotFor.pullBits {m e : Nat} (h : HotFor K u) : HotFor K (pullBits u c p m e) := by
  unfold Machine.pullBits
  split
  · exact h
  · next l hl =>
    split
    · exact h
    · have ht := h.takePart (c := c) (l := l) (m := m) (n := boundaryLen l p m)
      split
      · next e =>
        rw [e] at ht
        exact ht
      · next e =>
        rw [e] at ht
        exact ht.setAlike (spin_takePart e ▸ going_some hl) .rest

theorem HotFor.pullSums {m e : Nat} (h : HotFor K u) : HotFor K (pullSums u c m e) := by
  unfold Machine.pullSums
  split
  · exact h
  · next l hl =>
    split
    · exact h
    · have ht := h.takePart (c := c) (l := l) (m := m) (n := 16 * l.replicas)
      split
      · next e =>
        rw [e] at ht
        exact ht
      · next e =>
        rw [e] at ht
        exact ht.setAlike (spin_takePart e ▸ going_some hl) .rest

theorem own_false {r b : Nat} (h : ¬l.own s p r b = true) : l.partition ≠ none := by
  intro hnone
  simp [Launch.own, hnone] at h

theorem HotFor.boundaryReceived {r bn source : Nat} (h : HotFor K u) : HotFor K (boundaryReceived u c r bn source) := by
  unfold Machine.boundaryReceived
  refine h.withLaunch fun l p q hl _ => ?_
  split
  · next run _ hrun _ =>
    dsimp only
    split
    · exact h
    · split
      · split
        · exact .sendParts (h.setAlike hl (.setRun hrun (receiveValues_bits ..)))
        · exact h
      · next hown =>
        have hpulled := (h.sharing hl (own_false hown)).meetHeaders (c := c) (p := p) |>.pullBits (c := c) (p := p)
          (m := memberOf l (r * p.nb + source)) (e := nextInbound run source)
        split
        · exact hpulled.mono fun _ hk => .inl hk
        · next l2 hl2 =>
          split
          · have hshared := hpulled.shared c l2 (.inr rfl) (going_some hl2)
            have hok {run' : BlockRun} := (hpulled.ok (going_some hl2)).shared (l' := l2.setRun p r bn run') rfl rfl hshared
            exact .sendParts ((hpulled.setLaunch hok fun _ => hshared).mono fun _ hk => .inl hk)
          · exact hpulled.mono fun _ hk => .inl hk
  · exact h

theorem HotFor.pullExchange {accepted : List Nat} (h : HotFor K u) : HotFor K (pullExchange u c l p accepted).2 := by
  unfold Machine.pullExchange
  refine List.foldlRecOn (motive := fun a : Option (Tbl (List Bool)) × State => HotFor K a.2) _ _ h fun a ha m _ => ?_
  obtain ⟨_ | t, v⟩ := a
  · exact ha
  · have ht := ha.takePart (c := c) (l := l) (m := m) (n := blocksLen p (exchangeKeys l p accepted m))
    dsimp only
    split
    · next e =>
      rw [e] at ht
      exact .ite h ht
    · next e =>
      rw [e] at ht
      exact ht

/-- An exchange whose messages have all come leaves the spin fabric's part. -/
theorem spin_pullExchange {accepted : List Nat} {got : Tbl (List Bool)} {v : State}
    (e : pullExchange u c l p accepted = (some got, v)) : v.spin = u.spin := by
  have hall : ∀ a ∈ (pullExchange u c l p accepted).1, (pullExchange u c l p accepted).2.spin = u.spin := by
    unfold Machine.pullExchange
    refine List.foldlRecOn (motive := fun a : Option (Tbl (List Bool)) × State => ∀ t ∈ a.1, a.2.spin = u.spin) _ _
      (fun _ _ => rfl) fun a ha m _ => ?_
    obtain ⟨_ | t, v⟩ := a
    · exact fun _ h => absurd h (Option.not_mem_none _)
    · dsimp only
      split
      · exact fun _ h => absurd h (Option.not_mem_none _)
      · next e => exact fun _ _ => (spin_takePart e).trans (ha t rfl)
  rw [e] at hall
  exact hall got rfl

/-- The exchange of a cascade, on a launch that it shares. -/
theorem HotFor.cascadeExchange {k : Nat} (h : HotFor K u) (e : tblFind u.spin.launches c = some l)
    (hl : l.partition ≠ none) : HotFor K (cascadeExchange u c l p k) := by
  unfold Machine.cascadeExchange
  extract_lets due accepted b l1
  split
  next v l2 hsent =>
  have hv : HotFor K v ∧ ∃ l0, tblFind v.spin.launches c = some l0 ∧ l0.partition ≠ none ∧
      l2.problem = l0.problem ∧ l2.partition = l0.partition := by
    split at hsent
    · cases hsent
      have hset : HotFor K (u.setLaunch c l1) := h.setAlike e .rest
      refine ⟨hset.apart fun h => h.handPart, l1, ?_, hl, rfl, rfl⟩
      rw [(Touches.refl.handPart : Touches Part.still _ (Machine.handPart (u.setLaunch c l1) l1 b)).spin]
      exact tblFind_put_same ..
    · cases hsent
      exact ⟨h, l, e, hl, rfl, rfl⟩
  clear hsent
  obtain ⟨hv, l0, hfind, hpart, hproblem2, hpart2⟩ := hv
  refine .ite hv ?_
  have hpull := hv.pullExchange (c := c) (l := l2) (p := p) (accepted := accepted)
  split
  · next e =>
    rw [e] at hpull
    exact hpull
  · next got w hgot =>
    rw [hgot] at hpull
    extract_lets l3 old l4 l5
    have h3 : Alike l2 l3 := .foldl fun _ _ => .capture
    clear_value l3
    have h5 : Alike l4 l5 := by
      unfold l5
      exact .foldl fun _ _ => Alike.setRep.trans .completeEpoch
    clear_value l5
    have hpart5 : l5.partition = l0.partition := (h5.partition.trans h3.partition).trans hpart2
    have hok : LaunchOk w l0 := hpull.ok (spin_pullExchange hgot ▸ hfind)
    exact hpull.setLaunch (hok.shared ((h5.problem.trans h3.problem).trans hproblem2) hpart5 hpart) fun _ => hpart5 ▸ hpart

theorem HotFor.setTraded (h : HotFor K u) (hl : tblFind u.spin.launches c = some l)
    (hp : tblFind u.spin.problems l.problem = some p) (ht : Traded p l l') : HotFor K (u.setLaunch c l') :=
  h.setLaunch ⟨p, ht.problem ▸ hp, ht.runs ((h.ok hl).runs hp)⟩ fun hc => ht.partition ▸ h.shared c l hc hl

theorem HotFor.energyReduction {r : Nat} (h : HotFor K u) : HotFor K (energyReduction u c r) := by
  unfold Machine.energyReduction
  refine h.withLaunch fun l p q hl hp => ?_
  split
  · refine .ite h ?_
    dsimp only
    split
    · exact h.setTraded hl hp (Alike.reduceWith.traded.trans .afterReduction)
    · exact h
  · next hpart =>
    extract_lets e v
    have hv : HotFor (fun k => K k ∨ k = c) v :=
      .foldl (h.sharing hl (by simpa using hpart)).meetHeaders fun _ _ hv => hv.pullBits.pullSums
    clear_value v
    refine .mono (K := fun k => K k ∨ k = c) ?_ fun _ hk => .inl hk
    split
    · exact hv
    · next l1 hl1 =>
      extract_lets l2
      have hl1 := going_some hl1
      have h2 : Alike l1 l2 := by
        unfold l2
        split
        · exact .refl
        · split
          · exact .reduceWith
          · exact .refl
      clear_value l2
      have hset {l3 : Launch} (h3 : Alike l2 l3) := hv.setAlike hl1 (h2.trans h3)
      refine .ite (.ite (hset (Alike.capture.trans .completeEpoch)) (hset .refl)) (.ite ?_ (hset .refl))
      exact (hset .refl).cascadeExchange (tblFind_put_same ..) (h2.partition ▸ hv.shared c l1 (.inr rfl) hl1)

/-! ### Ends of launches (R135, R381) -/

theorem HotFor.meetCompletion (h : HotFor K u) (e : tblFind u.spin.launches c = some l) :
    HotFor K (meetCompletion u c l p) := by
  unfold Machine.meetCompletion
  extract_lets me v
  have hv : HotFor K v := by
    unfold v
    refine .ite h (.apart (u := u.setLaunch c { l with merged := me :: l.merged }) ?_ fun h => h.handPart)
    exact h.setAlike e .rest
  clear_value v
  refine .foldl hv fun w m hw => ?_
  split
  · exact hw
  · next l1 hl1 =>
    refine .ite hw ?_
    have ht := hw.takePart (c := c) (l := l1) (m := m)
      (n := 2 * blocksLen p (keysOf l1 p m) + l1.replicas * (16 + 16 * l1.steps))
    split
    · next e =>
      rw [e] at ht
      exact ht
    · next e =>
      rw [e] at ht
      exact ht.setAlike (spin_takePart e ▸ going_some hl1) (Alike.mergeMember.trans .rest)

theorem HotFor.finishLaunch {q : Queue} (h : HotFor K u) : HotFor K (finishLaunch u c q l p) := by
  unfold Machine.finishLaunch
  split
  · next e => exact .finishCmd (h.apart fun h => .writeVa h.rest e)
  · exact h.faultAs
  · exact h.apart fun h => h.askPage.modCmd
  · exact h

theorem HotFor.launchComplete (h : HotFor K u) : HotFor K (launchComplete u c) := by
  unfold Machine.launchComplete
  refine h.withLaunch fun l p q hl _ => .ite h (.ite h.finishLaunch ?_)
  extract_lets v
  have hv : HotFor K v := h.meetCompletion hl
  clear_value v
  split
  · exact .ite hv.finishLaunch hv
  · exact hv

end

end Sys2Proof.Machine
end

section
/-! PROOFS. Starts of launches and the problem commands keep one hot member in each group (R86, R90, R91, R98, R127, R141). -/

namespace Sys2Proof.Machine

-- A thread for each of the many short theorems would take more stack than the check allows.
set_option Elab.async false

/-! ### The groups of a problem (R86) -/

/-- One hot member in each group of a problem is one in each group of each of its blocks. -/
theorem ProblemOk.oneHot_local {p : Problem} {bits : List Bool} (hp : ProblemOk p) (h : OneHot p.groupsOf bits) :
    ∀ b ∈ p.blocks, OneHot b.groups (b.local bits) := by
  obtain ⟨hgroups, hnodup, hlt⟩ := hp
  intro b hb g hg
  rw [hot_local ((hgroups b hb).1.1 g hg).2]
  have hnumbers : p.blocks.flatMap (fun b => b.groups.map (·.1)) =
      (p.blocks.flatMap fun b => b.groups.map fun g => (g.1, g.2.map fun k => nth 0 b.vars k)).map (·.1) := by
    simp [List.map_flatMap, Function.comp_def]
  rw [hnumbers] at hnodup hlt
  generalize e : (p.blocks.flatMap fun b => b.groups.map fun g => (g.1, g.2.map fun k => nth 0 b.vars k)) = all at hnodup hlt
  have hmem : (g.1, g.2.map fun k => nth 0 b.vars k) ∈ all :=
    e ▸ List.mem_flatMap.2 ⟨b, hb, List.mem_map_of_mem hg⟩
  have hfind : (all.find? fun x => x.1 == g.1) = some (g.1, g.2.map fun k => nth 0 b.vars k) := by
    cases hx : all.find? fun x => x.1 == g.1 with
    | none => simpa using List.find?_eq_none.1 hx _ hmem
    | some x =>
      have hkey : x.1 = g.1 := by simpa using List.find?_some hx
      rw [List.inj_on_of_nodup_map hnodup (List.mem_of_find?_eq_some hx) hmem hkey]
  refine h (g.1, g.2.map fun k => nth 0 b.vars k) ?_
  unfold Problem.groupsOf
  dsimp only
  rw [e]
  refine List.mem_map.2 ⟨g.1, List.mem_range.2 ?_, by rw [hfind]; rfl⟩
  simpa using hlt _ (List.mem_map_of_mem hmem)

theorem ProblemOk.withInit {p : Problem} {bits : List Bool} (hp : ProblemOk p) (h : OneHot p.groupsOf bits)
    {p' : Problem} (hblocks : p'.blocks = p.blocks) (hinit : p'.init = bits) : ProblemOk p' := by
  unfold ProblemOk
  rw [hblocks, hinit]
  exact ⟨fun b hb => ⟨(hp.1 b hb).1, hp.oneHot_local h b hb⟩, hp.2⟩

section
variable {s u : State} {q : Queue} {x : Cmd} {l : Launch} {p : Problem}

/-! ### A problem that a command names (R51, R91) -/

theorem needProblem_ok {port : Port} {h : Nat} {free : Bool} {a : Nat × Problem} (e : needProblem s port h free = .ok a) :
    tblFind s.spin.problems a.1 = some a.2 := by
  unfold needProblem at e
  split at e
  · cases e
  · split at e
    · cases e
    · next hp =>
      split at e
      · cases e
      · split at e
        · cases e
        · cases e
          exact hp

theorem needIdle_ok {port : Port} {h : Nat} {free : Bool} {a : Nat × Problem} (e : needIdle s port h free = .ok a) :
    tblFind s.spin.problems a.1 = some a.2 ∧ ∀ e ∈ s.spin.launches, e.2.problem ≠ a.1 := by
  unfold needIdle at e
  split at e
  · cases e
  · next hp =>
    split at e
    · cases e
    · next hidle =>
      cases e
      exact ⟨needProblem_ok hp, by simpa [problemBusy] using hidle⟩

/-! ### A launch that is accepted (R133, R136, R141) -/

theorem readPrior_ok {a : Ask} {seed : Nat} {y : Nat × Nat × Nat × List Replica}
    (e : readPrior s q a seed l p = .ok (some y)) :
    y.2.2.2.length = l.replicas ∧ ∀ z ∈ y.2.2.2, OneHot p.groupsOf z.finalBits := by
  unfold readPrior at e
  dsimp only at e
  split at e
  · cases e
  · split at e
    · cases e
    · split at e
      · cases e
      · split at e
        · cases e
        · split at e
          · cases e
          · next hgood =>
            cases e
            exact ⟨by simp, fun z hz => badGroup_none.1 (List.findSome?_eq_none_iff.1 hgood z hz)⟩

/-- What holds of a launch that is accepted. -/
structure Accepted (s : State) (l : Launch) (p : Problem) (partition : Option (List Nat)) : Prop where
  problem : tblFind s.spin.problems l.problem = some p
  partition_eq : l.partition = partition
  runs : ∀ y ∈ l.runs, y.1 < l.replicas * p.nb ∧ y.2.bits = (p.block (y.1 % p.nb)).local (l.rep (y.1 / p.nb)).finalBits
  reps : l.reps.length = l.replicas
  states : ∀ z ∈ l.reps, z.finalBits = p.init ∨ OneHot p.groupsOf z.finalBits

theorem acceptLaunch_ok {partition : Option (List Nat)} {flow : Nat} {place : Placement}
    (e : acceptLaunch s x q partition flow = .ok (l, p, place)) : Accepted s l p partition := by
  unfold acceptLaunch at e
  dsimp only at e
  split at e
  · cases e
  next hp =>
  iterate 6
    split at e
    · cases e
  split at e
  · cases e
  next prior hprior =>
  split at e
  · cases e
  cases e
  refine ⟨needProblem_ok hp, rfl, fun y hy => ?_, ?_, ?_⟩
  · obtain ⟨k, hk, rfl⟩ := List.mem_map.1 hy
    exact ⟨List.mem_range.1 (List.mem_filter.1 hk).1, firstRun_bits ..⟩
  · cases prior with
    | none => exact List.length_replicate
    | some y => exact (readPrior_ok hprior).1
  · cases prior with
    | none => exact fun z hz => .inl (List.eq_of_mem_replicate hz ▸ rfl)
    | some y => exact fun z hz => .inr ((readPrior_ok hprior).2 z hz)

theorem Accepted.launchOk {partition : Option (List Nat)} (h : Accepted s l p partition) (hp : ProblemOk p) :
    LaunchOk s l := by
  refine ⟨p, h.problem, fun _ y hy => ?_⟩
  obtain ⟨hlt, hbits⟩ := h.runs y hy
  have hnb : 0 < p.nb := Nat.pos_of_ne_zero fun h0 => by simp [h0] at hlt
  have hb := Nat.mod_lt y.1 hnb
  have hr : y.1 / p.nb < l.reps.length := h.reps ▸ Nat.div_lt_of_lt_mul (by rwa [Nat.mul_comm])
  have hrep : l.rep (y.1 / p.nb) ∈ l.reps := by
    unfold Launch.rep nth
    rw [List.getElem?_eq_getElem hr]
    exact List.getElem_mem hr
  unfold RunOk
  rw [hbits]
  refine ⟨by simp [Block.local], ?_⟩
  rcases h.states _ hrep with hinit | hhot
  · rw [hinit]
    exact (hp.1 _ (block_mem hb)).2
  · exact hp.oneHot_local hhot _ (block_mem hb)

/-! ### The problem commands (R88-R91, R127, R153) -/

/-- A problem that no launch is of goes. -/
theorem HotFor.dropProblem {K : Nat → Prop} {i : Nat} (h : HotFor K u) (hidle : ∀ e ∈ u.spin.launches, e.2.problem ≠ i) :
    HotFor K { u with spin := { u.spin with problems := tblDel u.spin.problems i } } where
  problems e he := h.problems e (tblDel_mem he)
  launches e he := by
    obtain ⟨p, hp, hruns⟩ := h.launches e he
    exact ⟨p, (tblFind_del_ne _ (hidle e he)).trans hp, hruns⟩
  shared := h.shared

/-- A sound problem takes the place of one that no launch is of. -/
theorem HotFor.setIdle {K : Nat → Prop} {port : Port} {hd : Nat} {free : Bool} {a : Nat × Problem} (h : HotFor K u)
    (e : needIdle u port hd free = .ok a) (hp : ProblemOk p) : HotFor K (u.setProblem a.1 p) :=
  h.setProblem hp fun y hy hi => absurd hi ((needIdle_ok e).2 y hy)

theorem HotFor.named {K : Nat → Prop} {port : Port} {hd : Nat} {free : Bool} {a : Nat × Problem} (h : HotFor K u)
    (e : needIdle u port hd free = .ok a) : ProblemOk a.2 :=
  h.problems _ (tblFind_mem (needIdle_ok e).1)

section
variable {K : Nat → Prop}

theorem DoneHot.loadBody (h : HotFor K u) : DoneHot K (loadBody u x q) := by
  unfold Machine.loadBody
  refine .within fun src hread => .within fun p hbuild => ?_
  split
  · exact .stop
  · next i g hnew =>
    refine .within fun _ _ => .within fun v hv => ?_
    have hspin : v.spin = u.spin := (Touches.refl.writeReport hv : Touches Part.still u v).spin
    have hfree : tblFind v.spin.problems i = none := by
      unfold newIndex at hnew
      split at hnew
      · next hlow =>
        cases hnew
        have hunused := lowestFree_some hlow
        simp only [Bool.or_eq_false_iff, Option.isSome_eq_false_iff, Option.isNone_iff_eq_none] at hunused
        rw [hspin, hunused.1]
      · cases hnew
    have hset : HotFor K (v.setProblem i { p with gen := g }) := by
      refine (h.rest hspin).setProblem ((problemOk_of_source hread hbuild).congr rfl rfl) fun e he hi => ?_
      obtain ⟨p', hp', -⟩ := (h.rest hspin).launches e he
      rw [hi, hfree] at hp'
      cases hp'
    exact .ok (hset.keepLaunches rfl (fun _ he => he) fun _ _ e => e)

theorem DoneHot.rescaleBody (h : HotFor K u) : DoneHot K (rescaleBody u x q) := by
  unfold Machine.rescaleBody
  refine .within fun a hidle => .within fun src hread => .within fun p hbuild => .within fun nets _ => .within fun _ _ =>
    .within fun v hv => ?_
  have hspin : v.spin = u.spin := (Touches.refl.writeReport hv : Touches Part.still u v).spin
  refine .ok ((h.rest hspin).setProblem ((problemOk_of_source hread hbuild).congr rfl rfl) fun e he hi => ?_)
  exact absurd hi ((needIdle_ok hidle).2 e (hspin ▸ he))

theorem DoneHot.updateBody (h : HotFor K u) : DoneHot K (updateBody u x q) := by
  unfold Machine.updateBody
  refine .within fun a hidle => .within fun _ _ => .within fun _ _ => .within fun _ _ => .within fun _ _ =>
    .within fun init _ => .within fun _ hstate => ?_
  exact .ok (h.setIdle hidle ((h.named hidle).withInit (checkState_ok hstate) rfl rfl))

theorem DoneHot.freeBody (h : HotFor K u) : DoneHot K (freeBody u x q) := by
  unfold Machine.freeBody
  exact .within fun _ hidle => .within fun _ _ => .ok (h.dropProblem (needIdle_ok hidle).2)

theorem DoneHot.registerBody (h : HotFor K u) : DoneHot K (registerBody u x q) := by
  unfold Machine.registerBody
  refine .within fun a hidle => .within fun _ _ => ?_
  split
  · exact .ok (h.setIdle hidle ((h.named hidle).congr rfl rfl))
  · refine .within fun _ _ => .within fun _ _ => .within fun _ _ => .within fun _ _ => .within fun _ _ => .within fun _ _ => ?_
    split
    · exact .stop
    · exact .within fun _ _ => .ok (h.setIdle hidle ((h.named hidle).congr rfl rfl))

theorem DoneHot.ladderSetBody (h : HotFor K u) : DoneHot K (ladderSetBody u x q) := by
  unfold Machine.ladderSetBody
  dsimp only
  refine .within fun a hidle => ?_
  have hset {ladder : Option (List Nat)} : HotFor K (u.setProblem a.1 { a.2 with ladder := ladder }) :=
    h.setIdle hidle ((h.named hidle).congr rfl rfl)
  split
  · exact .ok hset
  · refine .within fun _ _ => .within fun _ _ => .within fun _ _ => ?_
    split
    · exact .stop
    · exact .ok hset

end

/-! ### Starts of launches, and the steps of one that runs (R110, R117, R122, R161, R336) -/

theorem DoneHot.startLaunch {c : Nat} {place : Placement} {asks : Bool} (h : HotFor (fun _ => False) u)
    (hl : LaunchOk u l) : DoneHot (fun _ => False) (startLaunch c u x q l p place asks) := by
  unfold Machine.startLaunch
  split
  · exact .bad (h.apart fun h => .consumerError h.rest)
  · have hset : HotFor (fun _ => False) (u.setLaunch c (placed l q.engines place)) :=
      h.setLaunch (hl.alike .placed) False.elim
    exact .run (hset.apart fun h => .modCmd (.ite h.holdSlots.askSeed h.holdSlots))

theorem DoneHot.annealLaunchBody {c : Nat} (h : HotFor (fun _ => False) u) :
    DoneHot (fun _ => False) (annealLaunchBody c u x q) := by
  unfold Machine.annealLaunchBody
  refine .within fun ⟨l, p, place⟩ e => ?_
  have ha := acceptLaunch_ok e
  exact .startLaunch h (ha.launchOk (h.problems _ (tblFind_mem ha.problem)))

theorem DoneHot.boundaryStart {c : Nat} (h : HotFor (fun _ => False) u) :
    DoneHot (fun _ => False) (boundaryStart c u x q) := by
  unfold Machine.boundaryStart
  refine .within fun _ _ => ?_
  dsimp only
  have hv : HotFor (fun _ => False) (claimAtStart u c x) := h.apart fun h => h.claimAtStart
  refine .keeping hv (.within fun m _ => .within fun _ _ => .within fun ⟨l, p, place⟩ e => ?_)
  have ha := acceptLaunch_ok e
  have hl := ha.launchOk (hv.problems _ (tblFind_mem ha.problem))
  have hstart (digest : List Byte) (asks : Bool) := DoneHot.startLaunch (c := c) (x := x) (q := q) (p := p) (place := place)
    (asks := asks) hv (hl.alike (l' := { l with digest := digest }) .rest)
  dsimp only
  split
  · next e =>
    cases e ▸ hstart _ _ with
    | run ht =>
      split
      · exact .run ht
      · exact .run (ht.apart fun h => h.beginStream)
  · exact hstart _ _

end

end Sys2Proof.Machine
end

section
/-! PROOFS. Contexts, fences, power, memory, the scratchpad and security keep one hot member in each group (R98). -/

namespace Sys2Proof.Machine

-- A thread for each of the many short theorems would take more stack than the check allows.
set_option Elab.async false

section
variable {K : Nat → Prop} {s u t : State}

/-! ### Cascades and flows (R353, R381) -/

theorem HotFor.breakFlow {f : Nat} (h : HotFor K u) : HotFor K (breakFlow u f) := by
  unfold Machine.breakFlow
  split
  · exact h.faultCmd
  · exact h

theorem HotFor.breakCascade (h : HotFor K u) : HotFor K (breakCascade u) := h.foldl fun _ _ hv => hv.faultCmdOpen

theorem HotFor.fencePair {k : Nat} {noKey : Bool} (h : HotFor K u) : HotFor K (fencePair u k noKey) :=
  .ite h (.foldl (h.apart fun h => .modPair (.logOnPair (.setPairState (.ite h.logOnPair h)))) fun _ _ hv =>
    (hv.apart fun h => h.setFlow).breakFlow)

/-! ### Contexts (R229-R231) -/

theorem HotFor.restartTables {e : Nat} (h : HotFor K u) : HotFor K (restartTables e u) := by
  refine h.mapLaunches (f := fun l => { l with runs := l.runs.map fun r =>
    (r.1, if r.2.engine == e then { r.2 with backgroundDone := false } else r.2) }) (fun l => .map fun y => ?_) rfl rfl
  split <;> exact ⟨rfl, rfl⟩

theorem HotFor.reloadSums {e : Nat} {x : SlotState} {im : SlotImage} (h : HotFor K u) :
    HotFor K (reloadSums e u x im) := by
  unfold Machine.reloadSums
  split
  · split
    · next hl =>
      refine h.setAlike hl (.map fun y => ?_)
      dsimp only
      split <;> exact ⟨rfl, rfl⟩
    · exact h
  · exact h

theorem HotFor.reloadImages {e : Nat} {k : SavedContext} (h : HotFor K u) : HotFor K (reloadImages e k u) := by
  unfold Machine.reloadImages
  refine .foldl h fun v a hv => .reloadSums ?_
  split
  · exact hv.apart fun h => h.changeArray
  · exact hv

theorem HotFor.contextRestore {e : Nat} (h : HotFor K u) : HotFor K (contextRestore u e) := by
  unfold Machine.contextRestore
  extract_lets g
  split
  · exact h
  · refine .ite h ?_
    have hr {x : Engine} : HotFor K (Machine.restartTables e (u.setEng e x)) := (h.apart fun h => h.setEng).restartTables
    exact .ite (hr.reloadImages.apart fun h => h.reloadShadow)
      (.foldl (hr.apart fun h => h.loseKept) fun _ _ hv => hv.faultCmdOpen)

/-! ### Engine fences (R211, R212) -/

theorem HotFor.restartCmd {readable : Bool} {c : Nat} (h : HotFor K u) : HotFor K (restartCmd readable u c) := by
  unfold Machine.restartCmd
  split
  · exact h
  · exact .ite h.faultCmdOpen (h.apart fun h => .modCmd (.ite h.releaseClaims.rest h))

theorem HotFor.replaceLaunch {c : Nat} (h : HotFor K u) : HotFor K (replaceLaunch u c) := by
  unfold Machine.replaceLaunch
  split
  · exact h
  · next l hl =>
    split
    · split
      · exact h.setAlike hl .rest
      · dsimp only
        have hf : HotFor K (freeSlots u c) := h.apart fun h => h.freeSlots
        have hs : (freeSlots u c).spin = u.spin := Touches.spin Touches.refl.freeSlots
        split
        · exact hf.faultCmd
        · split
          · refine .apart (u := (freeSlots u c).setLaunch c _) ?_ fun h => h.holdSlots
            refine hf.setAlike (hs ▸ hl) (Alike.placed.trans (.map fun y => ⟨rfl, ?_⟩))
            exact withSums_bits ..
          · exact hf.faultCmd
    · exact h

theorem HotFor.fenceEngine {e cause : Nat} {readable : Bool} (h : HotFor K u) :
    HotFor K (fenceEngine u e cause readable) := by
  unfold Machine.fenceEngine
  split
  · exact h
  · extract_lets v v1 v2 qs cs ls v3 v4 v5 v6 v7 heir v8
    have hv2 : HotFor K v2 := h.apart fun h => by
      have hv : Touches Part.still u v := h.logOnEngine
      have hv1 : Touches Part.still u v1 := hv.modEng
      exact hv1.dieEvent.fire
    clear_value v2
    have hv3 : HotFor K v3 := hv2.endTask
    clear_value v3
    have hv4 : HotFor K v4 := .ite hv3 (hv3.foldl fun _ _ hv4 => hv4.rest)
    clear_value v4
    have hv5 : HotFor K v5 := hv4.foldl fun _ _ hv5 => hv5.restartCmd
    clear_value v5
    have hv6 : HotFor K v6 := hv5.apart fun h => h.modEng
    clear_value v6
    have hv7 : HotFor K v7 := .foldl hv6.rest fun _ _ hv7 => hv7.apart fun h => h.leaveQueue
    clear_value v7
    have hv8 : HotFor K v8 := .ite (hv7.apart fun h => h.moveImages) hv7
    clear_value v8
    exact (hv8.foldl fun _ _ hv9 => hv9.replaceLaunch).apart fun h => h.prunePages

theorem HotFor.repairRow {b row : Nat} (h : HotFor K u) : HotFor K (repairRow b u row) := by
  unfold Machine.repairRow
  dsimp only
  split
  · exact h.apart fun h => .dieEvent (.ite h.setBank.logOnEngine h.setBank.logOnDie)
  · exact .ite (h.apart fun h => h.logOnEngine).fenceEngine (h.apart fun h => h.logOnDie)

theorem HotFor.fullMarch {b : Nat} {m : March} (h : HotFor K u) : HotFor K (fullMarch u b m) :=
  .foldl (h.apart fun h => h.modBank) fun _ _ hv => hv.repairRow

theorem HotFor.endSequence {e : Nat} {passes : Bool} (h : HotFor K u) : HotFor K (endSequence u e passes) :=
  .ite (h.apart fun h => h.modEng) (h.apart fun h => h.modEng.logOnEngine).fenceEngine

/-! ### Power and heat (R397-R410, R505) -/

theorem HotFor.inputResponse {mv : Nat} (h : HotFor K u) : HotFor K (inputResponse u mv) :=
  .ite h (.ite (h.apart fun h => .excursion h.rest).fatal (h.apart fun h => h.excursion))

theorem HotFor.thermalTrip {die : Nat} (h : HotFor K u) : HotFor K (thermalTrip u die) := .fatalOn h.rest

theorem HotFor.dieThermal {d tempC : Nat} (h : HotFor K u) : HotFor K (dieThermal u d tempC) := by
  unfold Machine.dieThermal
  extract_lets x w c v _ v1 _ v2 v3 v4
  have hv : HotFor K v := h.apart fun h => h.modDie
  clear_value v
  have hv1 : HotFor K v1 := .ite (hv.apart fun h => .dieEvent (.logOnDie h.rest)) hv
  clear_value v1
  have hv2 : HotFor K v2 := .ite (hv1.apart fun h => .logOnDie h.rest) hv1
  clear_value v2
  have hv3 : HotFor K v3 := .ite (hv2.apart fun h => h.foldl fun _ _ hv3 => hv3.modEng) hv2
  clear_value v3
  have hv4 : HotFor K v4 := .ite (hv3.apart fun h => h.recalibrate) hv3
  clear_value v4
  exact .ite hv4.thermalTrip hv4

theorem HotFor.stackThermal {n tempC : Nat} (h : HotFor K u) : HotFor K (stackThermal u n tempC) :=
  .ite (.thermalTrip (h.apart fun h => .ite h.setStack.logPlain h.setStack))
    (h.apart fun h => .ite h.setStack.logPlain h.setStack)

theorem HotFor.unpowerDie {d : Nat} (h : HotFor K u) : HotFor K (unpowerDie u d) :=
  .ite (.foldl (h.apart fun h => h.modDie.logOnDie) fun _ _ hv => hv.fenceEngine) (h.apart fun h => h.modDie.logOnDie)

theorem HotFor.busFailure (h : HotFor K u) : HotFor K (busFailure u) := .fatal h.rest

/-! ### Memory and flash (R326-R339) -/

theorem HotFor.faultLaunches {i : Nat} (h : HotFor K u) : HotFor K (faultLaunches u i) :=
  h.foldl fun _ _ hv => hv.faultCmdOpen

theorem HotFor.loseLog {stack : Nat} (h : HotFor K u) : HotFor K (loseLog u stack) :=
  .ite h (.ite (.fatal h.rest) h.rest)

theorem HotFor.loseArea {stack : Nat} {x : UnitArea} (h : HotFor K u) : HotFor K (loseArea u stack x) := by
  unfold Machine.loseArea
  split
  · split
    · next i p hp =>
      exact .faultLaunches (h.setProblem (p := { p with lost := true }) ((h.problems _ (tblFind_mem hp)).congr rfl rfl)
        fun _ _ _ => ⟨p, hp, rfl⟩)
    · exact h
  · split
    · exact h.apart fun h => h.setGraph
    · exact h
  · exact h.apart fun h => h.modEng
  · exact h.fatal
  · exact h.loseLog
  · exact h

theorem HotFor.decodedAccess {unit : Nat} {access : UnitAccess} {errors : List Nat} {lost : State → State}
    (h : HotFor K u) (hlost : ∀ v, HotFor K v → HotFor K (lost v)) :
    HotFor K (decodedAccess u unit access errors lost) := by
  unfold Machine.decodedAccess
  dsimp only
  split
  · exact h.apart fun h => h.readUnit.applyAccess
  · exact h.apart fun h => h.readUnit.countCorrected.applyAccess
  · exact h.apart fun h => h.readUnit.miscorrect.countCorrected.applyAccess
  · exact hlost _ (h.apart fun h => h.readUnit.poisonUnit)

theorem HotFor.commandAccess {unit : Nat} {access : UnitAccess} {errors : List Nat} {c page : Nat} {m : PageMap}
    (h : HotFor K u) : HotFor K (commandAccess u unit access errors c page m) :=
  .ite h.faultCmd (.ite h.faultCmd (.ite h.faultCmd (.ite (h.apart fun h => h.applyAccess)
    (h.decodedAccess fun _ hv => hv.faultCmd))))

theorem HotFor.moduleAccess {unit : Nat} {access : UnitAccess} {errors : List Nat} (h : HotFor K u) :
    HotFor K (moduleAccess u unit access errors) := by
  unfold Machine.moduleAccess
  dsimp only
  split
  · exact h
  · split
    · exact h
    · exact .ite (h.apart fun h => h.applyAccess) (.ite h.loseArea (h.decodedAccess fun _ hv => hv.loseArea))

theorem HotFor.unitRetirement {stack range : Nat} (h : HotFor K u) : HotFor K (unitRetirement u stack range) := by
  unfold Machine.unitRetirement
  extract_lets n k _ v v1
  have hv1 : HotFor K v1 := h.apart fun h => by
    have hv : Touches Part.still u v := h.rest
    exact hv.setStack
  clear_value v1
  split
  · exact h
  · split
    · exact hv1.rest
    · split
      · exact hv1.apart fun h => h.removePage
      · exact .ite (hv1.apart fun h => .removePage h.rest) hv1
      · exact .loseArea hv1.rest

theorem HotFor.fenceStack {n : Nat} (h : HotFor K u) : HotFor K (fenceStack u n) :=
  .loseLog (.foldl (.foldl (.foldl (h.apart fun h => h.setStackState.logPlain) fun _ _ hv => hv.loseArea)
    fun _ _ hv => hv.loseArea) fun _ _ hv => hv.loseArea)

theorem HotFor.pinRepair {n pc pin : Nat} {trains : Bool} (h : HotFor K u) : HotFor K (pinRepair u n pc pin trains) :=
  .ite h (.ite (.ite (h.apart fun h => h.setStack.logPlain) h.fenceStack)
    (.ite (h.apart fun h => h.setStack).fenceStack (h.apart fun h => h.setStack.setStackState)))

theorem HotFor.flashPageRead {i n c : Nat} {outcome : FlashRead} (h : HotFor K u) :
    HotFor K (flashPageRead u i n c outcome) := by
  unfold Machine.flashPageRead
  split
  · exact h
  · extract_lets v v1 _ v2 v3
    have hv : HotFor K v := h.apart fun h => h.countRead
    clear_value v
    have hv1 : HotFor K v1 := hv.apart fun h => h.setStore
    clear_value v1
    have hv3 : HotFor K v3 := hv1.apart fun h => by
      have hv2 : Touches Part.still v1 v2 := h.rest
      exact hv2.countGlobal fun _ _ hv3 => hv3.rest
    clear_value v3
    split
    · exact hv
    · split
      · split
        · refine .faultCmd ?_
          split
          · exact hv3.apart fun h => h.scrambleVa
          · exact hv3
        · exact hv1
      · exact hv1

/-! ### The mesh and the scratchpad (R26-R44, R215-R221) -/

theorem HotFor.fenceHalf {d o half : Nat} (h : HotFor K u) : HotFor K (fenceHalf u d o half) := by
  unfold Machine.fenceHalf
  extract_lets mark near marked whole logged failed both
  have hm : HotFor K marked := by
    dsimp only [marked]
    split
    · exact h.apart fun h => h.modOut.modOut
    · exact h.apart fun h => h.modOut
  clear_value marked
  have hl : HotFor K logged := hm.apart fun h => h.logOnDie
  clear_value logged
  have hb : HotFor K both := by
    dsimp only [both]
    split
    · exact hl.apart fun h => h.failTransfer.failTransfer
    · exact hl.apart fun h => h.failTransfer
  clear_value both
  exact .ite (.ite hb hb.fatal) (hl.apart fun h => h.logOnDie)

theorem HotFor.bridgeTimeout {d o half : Nat} {passes : Bool} (h : HotFor K u) :
    HotFor K (bridgeTimeout u d o half passes) :=
  .ite h (.ite (h.apart fun h => h.setOut) h.fenceHalf)

theorem HotFor.doubleBit {b : Nat} {r : SpdReq} (h : HotFor K u) : HotFor K (doubleBit u b r) := by
  unfold Machine.doubleBit
  extract_lets marked told again ended
  have ht : HotFor K told := by
    unfold told
    split
    · exact (h.apart fun h => h.modBank).faultCmdOpen
    · exact h.apart fun h => h.modBank.logOnDie
  clear_value told
  have he : HotFor K ended := ht.apart fun h => h.modEng
  clear_value ended
  exact .ite ht (.ite he.fenceEngine he)

theorem HotFor.answerReq {before : Bank} {b : Nat} {r : SpdReq} (h : HotFor K u) :
    HotFor K (answerReq before b u r) := by
  unfold Machine.answerReq
  split
  · exact h.apart fun h => .ite h.logOnDie.send h.logOnDie
  · split
    · exact h.doubleBit
    · refine h.apart fun h => ?_
      dsimp only
      split
      · exact .send (.ite h.countBank h)
      · exact .ite h.countBank h

theorem HotFor.handshake {b : Nat} {rs : List SpdReq} (h : HotFor K u) : HotFor K (handshake u b rs) := by
  unfold Machine.handshake
  extract_lets entered presented before order granted lost cut answered written counted tops arrays
  have hp : HotFor K presented := h.apart fun h => h.modBank.foldl fun _ _ hv => hv.present
  clear_value presented
  have ha : HotFor K answered := .foldl (hp.apart fun h => h.modBank) fun _ _ hv => hv.answerReq
  clear_value answered
  refine ha.apart fun h => ?_
  have hc : Touches Part.still answered counted := .foldl (h.foldl fun _ _ hv => hv.writeReq) fun _ _ hv => hv.countBank
  clear_value counted
  exact hc.countReqTops.modBank

/-! ### Entropy and tampering (R413-R423, R426-R432) -/

theorem HotFor.serveRequest {v : List Byte} {x : EntRequest} (h : HotFor K u) : HotFor K (serveRequest u v x) := by
  unfold Machine.serveRequest
  split
  · exact h.apart fun h => h.keyBlockServed
  · exact h.apart fun h => h.giveNonce
  · split
    · next hl => exact h.setAlike hl .rest
    · exact h

theorem HotFor.requestError {port : Port} {r : EntRequest} (h : HotFor K u) : HotFor K (requestError port u r) := by
  unfold Machine.requestError
  dsimp only
  split
  · exact h.apart fun h => h.takeRequest.consumerError.secDone
  · exact h.apart fun h => h.takeRequest.consumerError.modPair
  · exact (h.apart fun h => h.takeRequest.consumerError).faultCmdOpen

theorem HotFor.permanentFault {port : Port} (h : HotFor K u) : HotFor K (permanentFault u port) :=
  .foldl (h.apart fun h => h.logOnDie.setEntState) fun _ _ hv => hv.requestError

theorem HotFor.healthFailure {port : Port} {proportion startUp : Bool} (h : HotFor K u) :
    HotFor K (healthFailure u port proportion startUp) :=
  .ite h (.ite (h.apart fun h => h.zeroGenerator.countHealth.setEnt.logOnDie).permanentFault
    (h.apart fun h => h.zeroGenerator.countHealth.setEnt.logOnDie.setEntState))

theorem HotFor.tamper {inputs : Nat} (h : HotFor K u) : HotFor K (tamper u inputs) := by
  unfold Machine.tamper
  refine .ite h (.ite (h.apart fun h => h.logTamper) ?_)
  extract_lets wiped logged count mesh kept ended
  have hk : HotFor K kept := h.apart fun h => by
    have hw : Touches Part.still u wiped := h.wipeBoth.zeroGenerator.zeroGenerator.foldl fun _ _ hv => hv.zeroCipher
    exact hw.logTamper.rest
  clear_value kept
  exact .fatal (.ite hk.rest hk)

end

end Sys2Proof.Machine
end

section
/-! PROOFS. Frames, links, resets and register writes keep one hot member in each group (R98). -/

namespace Sys2Proof.Machine

-- A thread for each of the many short theorems would take more stack than the check allows.
set_option Elab.async false

section
variable {K : Nat → Prop} {s u t : State}

/-! ### Frame starts (R353-R365) -/

theorem HotFor.nextFrame (h : HotFor K u) : HotFor K (nextFrame u) := by
  unfold Machine.nextFrame
  split
  · exact h.rest
  · exact .breakCascade (h.apart fun h => .logPlain h.rest)

theorem HotFor.flowsAfterTransom (h : HotFor K u) : HotFor K (flowsAfterTransom u) := by
  refine h.foldl fun v a hv => ?_
  have hs {x : Flow} : HotFor K (v.setFlow a.1 x) := hv.apart fun h => h.setFlow
  exact .ite hs.breakFlow hs

theorem HotFor.transom (h : HotFor K u) : HotFor K (transom u) :=
  .ite (h.apart fun h => h.exchangeBanks).flowsAfterTransom h

theorem HotFor.armDeadline (h : HotFor K u) : HotFor K (armDeadline u) := by
  unfold Machine.armDeadline
  split
  · exact .ite (.faultCmdOpen (.rest (h.apart fun h => h.tellMembers))) h
  · exact h

theorem HotFor.keyChange {k : Nat} (h : HotFor K u) : HotFor K (keyChange u k) := by
  unfold Machine.keyChange
  dsimp only
  split
  · exact h
  · split
    · exact h.fencePair
    · split
      · exact .ite (h.apart fun h => h.modPair) (.ite h.fencePair (h.apart fun h => h.modPair))
      · exact .ite h.fencePair (h.apart fun h => h.modPair)

theorem HotFor.sendOpen {k : Nat} (h : HotFor K u) : HotFor K (sendOpen u k) :=
  .ite (h.apart fun h => h.modPair)
    (.ite (h.apart fun h => h.modPair).fencePair (h.apart fun h => h.modPair.foldl fun _ _ hv => hv.sendOpenAt))

theorem HotFor.openTime {k : Nat} (h : HotFor K u) : HotFor K (openTime u k) :=
  .ite (h.apart fun h => h.modPair) h.sendOpen

theorem HotFor.frameStart (h : HotFor K u) : HotFor K (frameStart u) := by
  unfold Machine.frameStart
  extract_lets ticked armed keyed framed checked headers occs
  have ht : HotFor K ticked := h.nextFrame.apart fun h => h.switchSource.moveStart.holdoverTick
  clear_value ticked
  have hk : HotFor K keyed := .foldl (ht.armDeadline.transom.apart fun h => h.hallKeyChange) fun _ _ hv => hv.keyChange
  clear_value keyed
  have ho : HotFor K occs := hk.apart fun h => by
    have hf : Touches Part.still keyed framed := .foldl (h.foldl fun _ _ hv => hv.newFrame) fun _ _ hv => hv.nonceTime
    clear_value framed
    have hh : Touches Part.still keyed headers := hf.takeSlip.awaitFrame.slipCheck.foldl fun _ _ hv => hv.sendHeader
    clear_value headers
    exact .ite hh (hh.foldl fun _ _ hv => hv.sendOcc)
  clear_value occs
  exact ho.foldl fun _ _ hv => (hv.apart fun h => h.sendRepeats).openTime

/-! ### What a link receives (R356-R373) -/

theorem HotFor.laneFails {k lane : Nat} {transmit both : Bool} (h : HotFor K u) :
    HotFor K (laneFails u k lane transmit both) := by
  unfold Machine.laneFails
  extract_lets x spare v _ v1 v2
  refine .ite h (.ite h.fencePair (.ite h (h.apart fun h => ?_)))
  have hv : Touches Part.still u v := h.modPair
  clear_value v
  have hv1 : Touches Part.still u v1 := hv.rest
  clear_value v1
  have hv2 : Touches Part.still u v2 := hv1.setPairState.logOnPair
  clear_value v2
  exact .ite hv2 (.ite hv2.openSend hv2.modPair.send)

theorem HotFor.lateToken {k : Nat} (h : HotFor K u) : HotFor K (lateToken u k) :=
  .ite (h.apart fun h => h.violation) (.breakCascade (.rest (h.apart fun h => h.violation)))

theorem HotFor.takeToken {k f : Nat} (h : HotFor K u) : HotFor K (takeToken k u f) := .ite h (.ite h.lateToken h.rest)

theorem HotFor.headerTaken {k : Nat} {x : FrameHeader} (h : HotFor K u) : HotFor K (headerTaken u k x) := by
  unfold Machine.headerTaken
  extract_lets acked taken
  have ht : HotFor K taken := .foldl (h.apart fun h => by
    have ha : Touches Part.still u acked := h.modPair
    exact ha.takeLane) fun _ _ hv => hv.takeToken
  clear_value taken
  exact .ite ht.sendOpen ht

theorem HotFor.headerIn {k : Nat} {b : List Byte} (h : HotFor K u) : HotFor K (headerIn u k b) := by
  unfold Machine.headerIn
  dsimp only
  split
  · exact h.apart fun h => h.violation
  · refine .headerTaken ?_
    split
    · exact (h.apart fun h => h.violation.modPair).foldl fun _ _ hv => hv.breakFlow
    · exact h.apart fun h => h.modPair

theorem HotFor.headerReceived {k : Nat} {lanes : List (List Nat)} (h : HotFor K u) :
    HotFor K (headerReceived u k lanes) := by
  unfold Machine.headerReceived
  refine .ite h ?_
  split
  · next e =>
    have hv := h.apart fun h => h.wordIn e
    exact .ite hv.headerIn (.ite (hv.apart fun h => h.violation) hv)
  · next e => exact h.apart fun h => h.wordIn e

theorem HotFor.meetArrived {flow : Nat} (h : HotFor K u) : HotFor K (meetArrived u flow) := by
  unfold Machine.meetArrived
  split
  · exact h
  · exact h.withLaunch fun _ _ _ _ _ => .ite h.meetHeaders h

theorem HotFor.flushFlow {flow : Nat} (h : HotFor K u) : HotFor K (flushFlow u flow) :=
  (h.apart fun h => h.flushHeld).meetArrived

theorem HotFor.accept {x : HeldSlot} (h : HotFor K u) : HotFor K (accept u x) := .flushFlow h.rest

theorem HotFor.endOcc {k : Nat} {l : LostSlot} (h : HotFor K u) : HotFor K (endOcc u k l) := by
  unfold Machine.endOcc
  dsimp only
  split
  · exact (h.apart fun h => h.modPair.modPair).flushFlow
  · split
    · exact h.apart fun h => h.modPair.loseOccurrence
    · split
      · exact h.apart fun h => h.modPair.violation.loseOccurrence
      · exact (h.apart fun h => h.modPair.modPair.modPair).accept

theorem HotFor.takeCodeword {k : Nat} {l : LostSlot} {i : Nat} {w : Option Codeword} (h : HotFor K u) :
    HotFor K (takeCodeword u k l i w) :=
  .ite (h.apart fun h => h.modPair).endOcc (h.apart fun h => h.modPair)

theorem HotFor.scheduledIn {k pos : Nat} {w : Option Codeword} (h : HotFor K u) : HotFor K (scheduledIn u k pos w) := by
  unfold Machine.scheduledIn
  split
  · exact h.takeCodeword
  · exact h.apart fun h => .ite h.labelIn (.ite h.violation h)
  · exact h

theorem HotFor.takeLoaded {m v code detail : Nat} (h : HotFor K u) : HotFor K (takeLoaded u m v code detail) := by
  unfold Machine.takeLoaded
  extract_lets _ loaded
  have hl : HotFor K loaded := .ite h.rest h
  clear_value loaded
  split
  · exact .ite hl.finishCmd (.ite hl.faultCmd hl.faultCmdOpen)
  · exact hl

theorem HotFor.takeArmed {m v : Nat} (h : HotFor K u) : HotFor K (takeArmed u m v) := by
  unfold Machine.takeArmed
  split
  · exact h
  · dsimp only
    split
    · exact .ite (.finishCmd h.rest) h.rest
    · exact h.rest

theorem HotFor.takeMessage {k : Nat} {x : OpenMessage} (h : HotFor K u) : HotFor K (takeMessage u k x) := by
  unfold Machine.takeMessage
  split
  · exact h.apart fun h => h.modPair
  · exact h.apart fun h => h.takeImagePart
  · exact h.apart fun h => h.takeArm
  · exact .ite h.rest h
  · exact .ite h.takeArmed h
  · exact .ite h.takeLoaded h
  · exact h.laneFails
  · exact h.apart fun h => h.violation

theorem HotFor.flushOpen {k type fuel : Nat} (h : HotFor K u) : HotFor K (flushOpen k type fuel u) := by
  induction fuel generalizing u with
  | zero => exact h
  | succ fuel ih =>
    unfold Machine.flushOpen
    dsimp only
    split
    · exact h
    · exact ih (h.apart fun h => h.modPair).takeMessage

theorem HotFor.messageIn {k slot : Nat} {text : List Byte} (h : HotFor K u) : HotFor K (messageIn u k slot text) :=
  .ite (h.apart fun h => h.modPair.modPair).flushOpen (h.apart fun h => h.modPair)

theorem HotFor.openIn {k slot : Nat} {w : Codeword} (h : HotFor K u) : HotFor K (openIn u k slot w) := by
  unfold Machine.openIn
  split
  · split
    · exact h.messageIn
    · exact h.apart fun h => h.violation
  · exact h.apart fun h => .ite h.violation h

theorem HotFor.openReceived {k slot : Nat} {lanes : List (List Nat)} (h : HotFor K u) :
    HotFor K (openReceived u k slot lanes) := by
  unfold Machine.openReceived
  refine .ite h ?_
  split
  · next e => exact (h.apart fun h => h.wordIn e).openIn
  · next e => exact h.apart fun h => h.wordIn e

theorem HotFor.codewordReceived {k pos : Nat} {lanes : List (List Nat)} (h : HotFor K u) :
    HotFor K (codewordReceived u k pos lanes) := by
  unfold Machine.codewordReceived
  refine .ite h.headerReceived (.ite h.openReceived (.ite h ?_))
  split
  next e => exact (h.apart fun h => h.wordIn e).scheduledIn

/-! ### The ports (R266-R271, R484, R499-R502) -/

theorem HotFor.readFault {p : Port} {r : HostRead} {code : Nat} (h : HotFor K u) : HotFor K (readFault u p r code) := by
  unfold Machine.readFault
  split
  · exact (h.apart fun h => h.countViolation).faultCmd
  · exact h.apart fun h => h.pcieViolation

theorem HotFor.readLost {p : Port} {tag : Nat} (h : HotFor K u) : HotFor K (readLost u p tag) := by
  unfold Machine.readLost
  split
  · exact h
  · exact .ite (h.apart fun h => h.modPort) (h.apart fun h => h.modPort).readFault

theorem HotFor.readAnswered {p : Port} {tag : Nat} {poisoned : Bool} {status : Nat} (h : HotFor K u) :
    HotFor K (readAnswered u p tag poisoned status) := by
  unfold Machine.readAnswered
  split
  · have hm {x : PortState → PortState} : HotFor K (u.modPort p x) := h.apart fun h => h.modPort
    exact .ite hm (.ite hm.readFault (.ite hm.readFault hm))
  · exact h.apart fun h => h.modPort.pcieViolation.aerReport

theorem HotFor.tlpReceived {p : Port} {x : Tlp} (h : HotFor K u) : HotFor K (tlpReceived u p x) := by
  unfold Machine.tlpReceived
  split
  · dsimp only
    split
    · exact (h.apart fun h => h.pcieViolation.aerReport).readLost
    · exact h.apart fun h => h.pcieViolation.aerReport
  · exact h.readAnswered
  · exact h.apart fun h => .overBar (fun _ hv => hv.pcieViolation) h
  · exact h.apart fun h => .overBar (fun _ hv => .ite hv.pcieViolation.send hv.pcieViolation) h
  · exact (h.apart fun h => h.pcieViolation).atsCompletion
  · exact h.apart fun h => h.pcieViolation.invalidate
  · exact h.apart fun h => h.pcieViolation

theorem HotFor.writeHeld {p : Port} (h : HotFor K u) : HotFor K (writeHeld u p) := by
  unfold Machine.writeHeld
  refine .foldl h fun v a hv => ?_
  split
  · exact hv.flushRecords
  · exact hv

theorem HotFor.resumeEnds {p : Port} (h : HotFor K u) : HotFor K (resumeEnds u p) := h.foldl fun _ _ hv => hv.endTask

theorem HotFor.resumePort {p : Port} (h : HotFor K u) : HotFor K (resumePort u p) :=
  .ite ((h.apart fun h => h.sendHeld).writeHeld.resumeEnds.apart fun h => h.sendPending.finishDue) h

/-! ### Resets and power (R473-R480, R505) -/

theorem HotFor.killStep (h : HotFor K u) : HotFor K (killStep u) := h.killAll.rest

theorem HotFor.resetAck {p : Port} (h : HotFor K u) : HotFor K (resetAck u p) := .ite h (.ite (.killStep h.rest) h.rest)

theorem HotFor.resetRequest {p : Port} {key : Nat} (h : HotFor K u) : HotFor K (resetRequest u p key) :=
  .ite h (.ite (h.apart fun h => h.beginReset) h.resetAck)

/-- After a reset no problem is stored and no launch runs. -/
theorem HotFor.allReset : HotFor K (allReset u) := by
  unfold Machine.allReset
  exact .apart ⟨List.forall_mem_nil _, List.forall_mem_nil _, fun _ _ _ h => by cases h⟩ fun h => h.placeAreas

theorem HotFor.powerOn {agree lid : Bool} {record : Option TamperRecord} {absent : List Nat} {a b : March}
    (h : HotFor K u) : HotFor K (powerOn u agree record lid absent a b) := by
  unfold Machine.powerOn
  split
  · exact h
  extract_lets _ reset _ _ risen placed marched
  have hr : HotFor K reset := .allReset
  clear_value reset
  have hu : HotFor K risen := hr.rest
  clear_value risen
  have hp : HotFor K placed :=
    hu.apart fun h => .placeAreas (.foldl h.readTamper.trainStacks fun _ _ hx => hx.failTraining)
  clear_value placed
  have hm : HotFor K marched := (hp.apart fun h => h.wipeBoth).fullMarch.fullMarch.apart fun h => h.meshTransition
  clear_value marched
  exact .ite hm.fatal (.ite hm.tamper hm)

theorem HotFor.collapse (h : HotFor K u) : HotFor K (collapse u) := .rest (h.apart fun h => h.abandonMirror).killAll

theorem HotFor.inputChange {mv : Nat} (h : HotFor K u) : HotFor K (inputChange u mv) := by
  unfold Machine.inputChange
  extract_lets _ v v1
  have hv : HotFor K v := h.rest
  clear_value v
  have hv1 : HotFor K v1 := .ite hv (.ite hv.collapse hv.inputResponse)
  clear_value v1
  exact .ite hv1.rest hv1

/-! ### Register writes -/

theorem HotFor.overBar {p : Port} {f : State → State} (hf : ∀ v, HotFor K v → HotFor K (f v)) (h : HotFor K u) :
    HotFor K (overBar p f u) :=
  .ite (hf _ h) (.ite h.rest h)

theorem HotFor.resetWrite {p : Port} {v : Nat} (h : HotFor K u) : HotFor K (resetWrite u p v) :=
  .ite h.resetRequest.resetAck h.resetRequest

theorem HotFor.writeFlt {p : Port} {off v : Nat} (h : HotFor K u) : HotFor K (writeFlt u p off v) :=
  .ite (h.apart fun h => h.modPort) (.ite (h.apart fun h => h.modPort) (.ite (h.apart fun h => h.modPort)
    (.ite h.resetWrite (.ite h (.ite (h.apart fun h => h.logIdxWrite) (.ite (h.apart fun h => h.modPort) h))))))

theorem HotFor.writeWindow {p : Port} {off v : Nat} (h : HotFor K u) : HotFor K (writeWindow u p off v) :=
  .ite h (.ite (h.apart fun h => h.writeQfe) (.ite (h.apart fun h => h.writeEvc) (.ite (h.apart fun h => h.writePwr)
    (.ite h (.ite (h.apart fun h => h.writeSec) (.ite (h.apart fun h => h.writeMem)
      (.ite h (.ite (h.apart fun h => h.writeOpx) (.ite h.writeFlt (.ite h (.ite (h.apart fun h => h.writeDie)
        (.ite (h.apart fun h => h.writeMsix) h))))))))))))

theorem HotFor.writeReg {p : Port} {off v : Nat} (h : HotFor K u) : HotFor K (writeReg p u off v) :=
  .ite h (.ite (.ite h.writeFlt h) (.ite (.ite (h.apart fun h => h.writeSec) h) (h.writeWindow.apart fun h => h.modStat)))

end

end Sys2Proof.Machine
end

section
/-! PROOFS. Every command keeps one hot member in each group (R98). -/

namespace Sys2Proof.Machine

-- A thread for each of the many short theorems would take more stack than the check allows.
set_option Elab.async false

/-- A next state meets the invariant. -/
def OutHot (o : Out) : Prop := ∀ t, o = .next t → HotFor (fun _ => False) t

section
variable {u : State} {ok : Bool} {f : State → State}

theorem OutHot.act (h : HotFor (fun _ => False) u) (hf : HotFor (fun _ => False) u → HotFor (fun _ => False) (f u)) :
    OutHot (act ok u f) := by
  unfold Machine.act
  split
  · split
    · rintro _ ⟨⟩
      exact (hf h).rest
    · rintro _ ⟨⟩
      exact h
  · rintro _ ⟨⟩

theorem OutHot.actAlways (h : HotFor (fun _ => False) u)
    (hf : HotFor (fun _ => False) u → HotFor (fun _ => False) (f u)) : OutHot (actAlways ok u f) := by
  unfold Machine.actAlways
  split
  · rintro _ ⟨⟩
    exact (hf h).rest
  · rintro _ ⟨⟩

/-- A command that does not touch the spin fabric. -/
theorem OutHot.apart {c : Instr} (h : HotFor (fun _ => False) u) (hc : c.touches.contains .spin = false := by rfl) :
    OutHot (exec c u) :=
  fun t e => h.rest ((Answering.exec.touches t e).same .spin (by simpa using hc))

/-- A command whose body leaves the spin fabric's part. -/
theorem OutHot.body {c opcode : Nat} {stages : List Stage} {body : State → Cmd → Queue → Done}
    (h : HotFor (fun _ => False) u) (hbody : ∀ x q, Touches Part.still u u → DoneTouches Part.still u (body u x q)) :
    OutHot (Machine.act true u fun s => takeCmd s c opcode stages body) :=
  .act h fun h => h.takeCmd fun x q => .apart h (hbody x q)

section
variable (h : HotFor (fun _ => False) u)
include h

theorem OutHot.execQueueBarrier {c : Nat} : OutHot (execQueueBarrier c u) := by
  refine .body h fun x q h => ?_
  split
  · exact .stop
  · exact .ok h

/-! ### Launches (R117, R122, R161, R336) -/

theorem OutHot.execTableRebuildComplete {l r b : Nat} : OutHot (execTableRebuildComplete l r b u) := by
  refine .act h fun h => h.withLaunch fun x p q hl _ => ?_
  split
  · next run hrun =>
    refine .ite h (h.setAlike hl (.setRun hrun ?_))
    split
    · exact stepTable_bits ..
    · rfl
  · exact h

theorem OutHot.execBlockPageInComplete {l r b : Nat} : OutHot (execBlockPageInComplete l r b u) := by
  refine .act h fun h => h.withLaunch fun x p q hl _ => ?_
  split
  · next run hrun =>
    refine .ite (h.setAlike hl (.setRun hrun ?_)) h
    rfl
  · exact h

theorem OutHot.execNeuralEngineEligible {l : Nat} : OutHot (execNeuralEngineEligible l u) := by
  refine .act h fun h => h.withLaunch fun x p q hl _ => ?_
  split
  · next y _ =>
    have hset : HotFor (fun _ => False) (u.setLaunch l (placed x x.engines y)) := h.setAlike hl .placed
    exact .ite (hset.apart fun h => h.holdSlots) h
  · exact h

theorem OutHot.execRunSeedArrival {l : Nat} : OutHot (execRunSeedArrival l u) := by
  refine .act h fun h => h.withLaunch fun x p q hl _ => ?_
  split
  · next v _ _ =>
    have hset : HotFor (fun _ => False) (u.setLaunch l { x with seed := some v, seedSent := none }) := h.setAlike hl .rest
    exact .ite (hset.apart fun h => h.modCmd.beginStream) (hset.apart fun h => h.modCmd)
  · exact h

/-! ### Tasks (R243-R251) -/

theorem OutHot.execTaskWaitq {e : Nat} : OutHot (execTaskWaitq e u) := by
  refine .act h fun h => h.runInstr fun t w => ?_
  split
  · exact h.endTask
  · exact .ite (h.apart fun h => h.handOut) h.endTask

theorem OutHot.execTaskEnq {e : Nat} : OutHot (execTaskEnq e u) := by
  refine .act h fun h => h.runInstr fun t w => ?_
  split
  · exact h.endTask
  · dsimp only
    split
    · exact h.endTask
    · split
      · next e => exact h.apart fun h => .setTask (h.placeDesc e)
      · exact h.apart fun h => h.setTask
      · exact h.taskStop

theorem OutHot.execTaskWaitf {e : Nat} : OutHot (execTaskWaitf e u) := by
  refine .act h fun h => h.runInstr fun t w => ?_
  split
  · exact h.endTask
  · exact h.apart fun h => .ite h.setTask h.setTask

theorem OutHot.execWaitfSatisfied {e : Nat} : OutHot (execWaitfSatisfied e u) := by
  refine .act h fun h => ?_
  split
  · split
    · split
      · exact h.endTask
      · split
        · exact h.endTask
        · exact h.apart fun h => .ite h.setTask h
    · exact h
  · exact h

theorem OutHot.execTaskSigf {e : Nat} : OutHot (execTaskSigf e u) := by
  refine .act h fun h => h.runInstr fun t w => ?_
  split
  · exact h.endTask
  · dsimp only
    split
    · next e => exact h.apart fun h => .setTask (h.setFence.writeMirror e)
    · exact (h.apart fun h => h.setFence).taskStop

theorem OutHot.execTaskDone {e : Nat} : OutHot (execTaskDone e u) := by
  refine .act h fun h => h.runInstr fun t w => ?_
  split
  · exact h.endTask
  · dsimp only
    split
    · exact h.endTask
    · split
      · exact h.taskStop
      · next e => exact .putRecord (h.apart fun h => .setTask (h.writeVa e))

theorem OutHot.execTaskRanWithoutWaiting {e : Nat} : OutHot (execTaskRanWithoutWaiting e u) := by
  refine .act h fun h => ?_
  split
  · exact .ite h.endTask h
  · exact h

/-! ### Ports and pages (R270, R271, R294) -/

theorem OutHot.execPageRequestTimeout {p : Port} {pasid page : Nat} : OutHot (execPageRequestTimeout p pasid page u) := by
  refine .act h fun h => ?_
  split
  · exact h
  · exact .ite (h.apart fun h => h.dropRequest) (h.apart fun h => h.dropRequest).refusePage

theorem OutHot.execInvalidationDrainEnd {p : Port} : OutHot (execInvalidationDrainEnd p u) := by
  refine .act h fun h => ?_
  split
  · exact h
  · exact .apart (.foldl (h.apart fun h => h.modPort) fun _ _ hv => (hv.apart fun h => h.modPort).faultCmd) fun h =>
      .nextInvalidation h.request

theorem OutHot.execSetupDestroyQueue {p : Port} : OutHot (execSetupDestroyQueue p u) := by
  refine .act h fun h => ?_
  split
  · exact .ite h.destroyQueue h
  · exact h

/-! ### Engines and power (R211, R212, R409) -/

theorem OutHot.execEngineReturn {p : Port} {e : Nat} {march : March} {passes : Bool} :
    OutHot (execEngineReturn p e march passes u) := by
  refine .act h fun h => .overBar (fun v hv => .ite hv ?_) h
  have hm : HotFor (fun _ => False) (fullMarch v e march) := hv.fullMarch
  exact .ite (hm.apart fun h => h.setEng.dieEvent.fire)
    (.apart (.ite hm (hm.apart fun h => h.logOnEngine)) fun h => h.logOnEngine)

theorem OutHot.execPointOfLoadFailure {f : ConversionFailure} : OutHot (execPointOfLoadFailure f u) := by
  cases f with
  | pointOfLoad => exact .actAlways h fun h => .ite h (.ite h (.ite (h.apart fun h => h.modDie) h.unpowerDie))
  | sixVoltBus => exact .actAlways h fun h => .ite h h.busFailure
  | phaseGroup => exact .actAlways h fun h => .ite h h.busFailure

/-! ### Memory and the scratchpad (R217, R326-R335) -/

theorem OutHot.execHbmAccess {unit : Nat} {access : UnitAccess} {errors : List Nat} {c : Nat} :
    OutHot (execHbmAccess unit access errors c u) := by
  refine .act h fun h => ?_
  have hdone : HotFor (fun _ => False) (unitDone u unit) := h.apart fun h => h.unitDone
  split
  · exact h
  · dsimp only
    split
    · split
      · split
        · exact hdone
        · split
          · exact hdone.commandAccess
          · exact .ite hdone.commandAccess hdone.moduleAccess
      · exact hdone
    · exact hdone.moduleAccess

theorem OutHot.execPatrolScrub {unit : Nat} {errors : List Nat} : OutHot (execPatrolScrub unit errors u) := by
  refine .act h fun h => .ite h ?_
  extract_lets unmark marked area d v
  have hunmark (w : State) (hw : HotFor (fun _ => False) w) : HotFor (fun _ => False) (unmark w) := hw.rest
  have hmarked (w : State) (hw : HotFor (fun _ => False) w) : HotFor (fun _ => False) (marked w) :=
    hw.apart fun h => .ite h.countCorrected.rest h.countCorrected.rest
  have hv : HotFor (fun _ => False) v := h.apart fun h => h.readUnit
  clear_value v unmark marked d
  cases d with
  | good => exact hunmark _ hv
  | corrected => exact hmarked _ hv
  | wrong => exact hmarked _ (hv.apart fun h => h.miscorrect)
  | lost => exact ((hunmark _ hv).apart fun h => h.poisonUnit).loseArea

theorem OutHot.execUnmapDrainEnd {p : Port} : OutHot (execUnmapDrainEnd p u) := by
  refine .act h fun h => ?_
  split
  · exact .apart (h.foldl fun _ _ hv => hv.faultCmd) fun h => h.mapEnd
  · exact h

theorem OutHot.execRegionPhaseEnd {b : Nat} {badRows : List Nat} : OutHot (execRegionPhaseEnd b badRows u) := by
  refine .act h fun h => ?_
  dsimp only
  split
  · exact h
  · split
    · exact h
    · exact h.apart fun h => h.setBank
    · exact .apart (h.foldl fun _ _ hv => hv.repairRow) fun h => h.modBank
    · exact h.apart fun h => h.setBank

/-! ### Entropy (R413-R421) -/

theorem OutHot.execGeneratorGrant {port : Port} : OutHot (execGeneratorGrant port u) := by
  refine .actAlways h fun h => ?_
  dsimp only
  split
  · exact h.apart fun h => h.setEnt
  · exact .ite (h.apart fun h => h.setEnt) (h.apart fun h => h.setEnt.takeRequest.drawBytes).serveRequest

theorem OutHot.execEntropyStallTimeout {port : Port} : OutHot (execEntropyStallTimeout port u) := by
  refine .actAlways h fun h => ?_
  dsimp only
  split
  · exact .ite (h.apart fun h => h.setEnt).requestError (h.apart fun h => h.setEnt)
  · exact h.apart fun h => h.setEnt

theorem OutHot.execSourceStart {port : Port} {samples : Vector Byte 128} : OutHot (execSourceStart port samples u) := by
  refine .actAlways h fun h => ?_
  dsimp only
  split
  · exact h
  · split
    · exact h.healthFailure
    · exact h.apart fun h => h.setEnt

theorem OutHot.execEntropyBlockReady {port : Port} {samples : Vector Byte 128} :
    OutHot (execEntropyBlockReady port samples u) := by
  refine .actAlways h fun h => ?_
  dsimp only
  split
  · exact h
  · split
    · exact h.healthFailure
    · exact h.apart fun h => h.setEnt.setEntState

theorem OutHot.execRegisterWrite {p : Port} {byCore : Bool} {off v : Nat} {wide : Bool} :
    OutHot (execRegisterWrite p byCore off v wide u) :=
  .actAlways h fun h => .ite (h.apart fun h => .ite h.coreWrite.coreWrite h.coreWrite) (.ite (h.apart fun h => h.pcieViolation)
    (.overBar (fun _ hv => .ite hv.writeReg.writeReg hv.writeReg) h))

end

end

end Sys2Proof.Machine
end

section
/-! PROOFS. Each group keeps one hot member through every step (R98). -/

namespace Sys2Proof.Machine

theorem HotFor.exec {u : State} (h : HotFor (fun _ => False) u) (c : Instr) : OutHot (exec c u) := by
  by_cases hc : c.touches.contains .spin = false
  · exact .apart h hc
  unfold Machine.exec
  cases c with
  | bridgeHandshakeTimeout => exact .act h fun h => h.bridgeTimeout
  | noOp => exact .body h fun _ _ h => .ok h
  | fenceWait | fenceWaitSatisfied => exact .body h fun _ _ h => .fenceWaitBody h
  | fenceSignal => exact .body h fun _ _ h => .fenceSignalBody h
  | queueBarrier => exact .execQueueBarrier h
  | resume => exact .body h fun _ _ h => .ok (.ite h.setQueue h)
  | copy => exact .body h fun _ _ h => .copyBody h
  | convert => exact .body h fun _ _ h => .convertBody h
  | matrixMultiply | convolve | sum => exact .body h fun _ _ h => .startSlot h
  | writeOut => exact .body h fun _ _ h => .writeOutBody h
  | release => exact .body h fun _ _ h => .within fun _ _ => .within fun _ _ => .ok h.discardArray
  | combinePartials => exact .body h fun _ _ h => .combinePartialsBody h
  | topK => exact .body h fun _ _ h => .topKBody h
  | elementWise => exact .body h fun _ _ h => .elementBody h
  | normalise => exact .body h fun _ _ h => .normaliseBody h
  | softmax => exact .body h fun _ _ h => .softmaxBody h
  | optimiserStep => exact .body h fun _ _ h => .optimiserBody h
  | load => exact .act h fun h => h.takeCmd fun _ _ => .loadBody h
  | rescale => exact .act h fun h => h.takeCmd fun _ _ => .rescaleBody h
  | registerNeuralTerm => exact .act h fun h => h.takeCmd fun _ _ => .registerBody h
  | update => exact .act h fun h => h.takeCmd fun _ _ => .updateBody h
  | free => exact .act h fun h => h.takeCmd fun _ _ => .freeBody h
  | energy => exact .body h fun _ _ h => .energyBody h
  | annealLaunch => exact .act h fun h => h.takeCmd fun _ _ => .annealLaunchBody h
  | ladderSet => exact .act h fun h => h.takeCmd fun _ _ => .ladderSetBody h
  | resultRead => exact .body h fun _ _ h => .resultReadBody h
  | graphCreate => exact .body h fun _ _ h => .graphCreateBody h
  | graphLaunch => exact .body h fun _ _ h => .graphLaunchBody h
  | patch => exact .body h fun _ _ h => .patchBody h
  | patchCommit => exact .body h fun _ _ h => .patchCommitBody h
  | graphDestroy => exact .body h fun _ _ h => .graphDestroyBody h
  | graphNodeStart => exact .act h fun h => h.graphNodeStart
  | graphNodeComplete => exact .act h fun h => h.graphNodeComplete
  | storeCreate => exact .body h fun _ _ h => .storeCreateBody h
  | storeRead => exact .body h fun _ _ h => .storeReadBody h
  | storeWrite => exact .body h fun _ _ h => .storeWriteBody h
  | storeProgramComplete => exact .body h fun _ _ h => .storeProgramBody h
  | storeTrim => exact .body h fun _ _ h => .storeTrimBody h
  | storeReport => exact .body h fun _ _ h => .storeReportBody h
  | storeDestroy => exact .body h fun _ _ h => .storeDestroyBody h
  | allReduce =>
    exact .act h fun h => h.collective (fun _ _ => .apart h fun h => .allReduceStart h) fun _ _ =>
      .apart h fun h => .allReduceFurther h
  | allGather =>
    exact .act h fun h => h.collective (fun _ _ => .apart h fun h => .allGatherStart h) fun _ _ =>
      .apart h fun h => .allGatherFurther h
  | boundaryExchange => exact .act h fun h => h.takeCmd fun _ _ => .boundaryStart h
  | send =>
    exact .act h fun h => h.collective (fun _ _ => .apart h fun h => .sendStart h) fun _ _ => .apart h fun h => .sendFurther h
  | receive =>
    exact .act h fun h => h.collective (fun _ _ => .apart h fun h => .receiveStart h) fun _ _ =>
      .apart h fun h => .receiveFurther h
  | scheduleLoad => exact .body h fun _ _ h => .scheduleLoadBody h
  | scheduleArm => exact .body h fun _ _ h => .scheduleArmBody h
  | launchTask => exact .body h fun _ _ h => .launchTaskBody h
  | enqueue | deviceFedSpaceAvailable => exact .body h fun _ _ h => .enqueueBody h
  | stopTask => exact .act h fun h => h.takeCmd fun _ _ => .stopTaskBody h
  | taskHalt | reservedInstruction => exact .act h fun h => h.runInstr fun _ _ => h.endTask
  | taskLd => exact .act h fun h => h.runInstr fun _ _ => .ite (h.apart fun h => h.setTask) h.endTask
  | taskSt => exact .act h fun h => h.runInstr fun _ _ => .ite (h.apart fun h => h.write.setTask) h.endTask
  | taskAadd | taskAswp => exact .act h fun h => h.atomicOp
  | taskBeq | taskBne | taskBlt | taskBltu => exact .act h fun h => h.compareBranch
  | taskLoop => exact .act h fun h => h.runInstr fun _ _ => h.branchTo
  | taskWaitq => exact .execTaskWaitq h
  | taskEnq => exact .execTaskEnq h
  | taskWaitf => exact .execTaskWaitf h
  | waitfSatisfied => exact .execWaitfSatisfied h
  | taskSigf => exact .execTaskSigf h
  | taskDone => exact .execTaskDone h
  | taskRanWithoutWaiting => exact .execTaskRanWithoutWaiting h
  | commandStart => exact .act h fun h => .ite h.commandStart h
  | hostAccess => exact .act h fun h => h.hostAccess
  | atsTranslationCompletion => exact .act h fun h => h.atsCompletion
  | prgResponse => exact .act h fun h => h.prgResponse
  | pageRequestTimeout => exact .execPageRequestTimeout h
  | invalidationDrainEnd => exact .execInvalidationDrainEnd h
  | shutterComplete => exact .act h fun h => h.shutterComplete
  | contextRestore => exact .act h fun h => h.contextRestore
  | setupDestroyQueue => exact .execSetupDestroyQueue h
  | queueTeardownComplete => exact .act h fun h => h.teardownComplete
  | groupSequence => exact .act h fun h => h.goOnSlot fun _ _ => .apart h fun h => .sequenceBody h
  | partialCombine => exact .act h fun h => h.goOnSlot fun _ _ => .apart h fun h => .combineBody h
  | accumulatorCommit => exact .act h fun h => h.goOnSlot fun _ _ => .apart h fun h => .commitBody h
  | engineFence => exact .act h fun h => .ite h.fenceEngine h
  | engineStall => exact .act h fun h => .ite (h.apart fun h => h.logOnEngine).fenceEngine h
  | engineReturn => exact .execEngineReturn h
  | startUpSequence => exact .act h fun h => .ite h (.ite h.fullMarch.endSequence h.fullMarch)
  | testSequence => exact .act h fun h => .ite h h.endSequence
  | shadowSetExchange => exact .act h fun h => .ite h (.ite h.endSequence (h.apart fun h => h.modEng))
  | scratchpadHandshake => exact .act h fun h => h.handshake
  | regionPhaseEnd => exact .execRegionPhaseEnd h
  | annealBatch => exact .act h fun h => h.annealBatch
  | tableRebuildComplete => exact .execTableRebuildComplete h
  | blockPageInComplete => exact .execBlockPageInComplete h
  | epochEnd => exact .act h fun h => h.epochEnd.sendParts
  | epochStart => exact .act h fun h => h.epochStart
  | boundaryValuesReceived => exact .act h fun h => h.boundaryReceived
  | energyReduction => exact .act h fun h => h.energyReduction
  | launchComplete => exact .act h fun h => h.launchComplete
  | runSeedArrival => exact .execRunSeedArrival h
  | neuralEngineEligible => exact .execNeuralEngineEligible h
  | unmapDrainEnd => exact .execUnmapDrainEnd h
  | hbmAccess => exact .execHbmAccess h
  | patrolScrub => exact .execPatrolScrub h
  | unitRetirement => exact .act h fun h => h.unitRetirement
  | pinLaneRepair => exact .act h fun h => h.pinRepair
  | flashPageRead => exact .act h fun h => h.flashPageRead
  | frameStart => exact .act h fun h => h.frameStart
  | frameHeaderReceived => exact .act h fun h => h.headerReceived
  | codewordReceived => exact .act h fun h => h.codewordReceived
  | repeatWindowExpired => exact .act h fun h => .ite h.fencePair h
  | openSlotMessage => exact .act h fun h => h.openReceived
  | laneFailure => exact .act h fun h => .ite h.laneFails h
  | pointOfLoadFailure => exact .execPointOfLoadFailure h
  | inputVoltageChange => exact .actAlways h fun h => h.inputChange
  | overvoltageTimeout => exact .actAlways h fun h => .ite (.fatal h.rest) h
  | thermalTripTimeout => exact .actAlways h fun h => .ite h.thermalTrip h
  | thermalChange => exact .actAlways h fun h => .ite (h.apart fun h => h.recordTemp) (.ite h.stackThermal h.dieThermal)
  | sourceStart => exact .execSourceStart h
  | entropyBlockReady => exact .execEntropyBlockReady h
  | healthTestFailure => exact .actAlways h fun h => h.healthFailure
  | entropyStallTimeout => exact .execEntropyStallTimeout h
  | generatorGrant => exact .execGeneratorGrant h
  | tamperEvent => exact .actAlways h fun h => h.tamper
  | pcieTlpReceived => exact .actAlways h fun h => .ite h.tlpReceived h
  | pcieCompletionTimeout => exact .actAlways h fun h => h.readLost
  | busMasterEnableChange => exact .actAlways h fun h => .ite h (h.apart fun h => h.modPort).resumePort
  | d3hotExit => exact .actAlways h fun h => (h.apart fun h => h.modPort).resumePort
  | portLinkUp => exact .actAlways h fun h => .ite h (h.apart fun h => h.modPort).resumePort
  | hostDieLost => exact .act h fun h => .fatal h.rest
  | moduleResetRequest => exact .actAlways h fun h => h.resetRequest
  | resetAck => exact .actAlways h fun h => .ite h.resetAck h
  | resetGraceExpiry => exact .actAlways h fun h => .ite h.killStep h
  | resetDies => exact .actAlways h fun h => .ite .allReset h
  | powerOn => exact .actAlways h fun h => h.powerOn
  | inputCollapse => exact .actAlways h fun h => .ite h (.collapse h.rest)
  | registerWrite => exact .execRegisterWrite h
  | _ => exact absurd rfl hc

/-- A step keeps the invariant: the idle tick changes the clock alone, a command has `HotFor.exec`. -/
theorem HotOk.step {s t : State} (h : HotOk s) (e : Steps s t) : HotOk t := by
  rw [hotOk_iff] at h ⊢
  unfold Steps Machine.step at e
  split at e
  · cases e
    exact h.rest
  · next c rest _ => exact HotFor.exec (u := { s with pending := rest }) h.rest c t e

end Sys2Proof.Machine

namespace Sys2Proof
open Machine

/-- Settles O52: the moves of a batch are of different groups, and every step keeps the invariant `HotFor`. -/
theorem groupsKeepOneHotMember : Obligations.GroupsKeepOneHotMember :=
  ⟨fun _ _ _ _ cands next hg h1 hok =>
      ⟨oneHot_commitBatch_seq hg h1 hok cands next, oneHot_commitBatch_conc hg h1 hok cands next⟩,
    fun _ _ h e => h.step e⟩

end Sys2Proof
end

section
/-! PROOFS. The energy change of a move is the exact change (R72, R73, R105). -/

namespace Sys2Proof.Machine

/-! ### The values of the variables after a flip -/

section
variable {p : Problem} {b : Block} {bits : List Bool} {x : List Int} {h i k : Nat}

/-- The value of a variable. -/
def valueAt (p : Problem) (bits : List Bool) (k : Nat) : Int := spinVal p.spin (nth false bits k)

theorem valueAt_flip_self (hi : i < bits.length) :
    valueAt p (applyMove bits [i]) i = valueAt p bits i + deltaOf p bits i := by
  unfold valueAt deltaOf
  rw [nth_applyMove_flip hi]
  ring

theorem valueAt_flip_ne (hk : k ≠ i) : valueAt p (applyMove bits [i]) k = valueAt p bits k := by
  unfold valueAt
  rw [nth_applyMove_of_notMem (by simpa using hk)]

theorem deltaOf_flip_ne (hk : k ≠ i) : deltaOf p (applyMove bits [i]) k = deltaOf p bits k := by
  unfold deltaOf
  rw [nth_applyMove_of_notMem (by simpa using hk)]

theorem deltaOf_bit (hp : p.spin = false) : deltaOf p bits k = 1 - 2 * valueAt p bits k := by
  unfold deltaOf valueAt
  cases nth false bits k <;> simp [spinVal, hp]

theorem deltaOf_spin (hp : p.spin = true) : deltaOf p bits k = -2 * valueAt p bits k := by
  unfold deltaOf valueAt
  cases nth false bits k <;> simp [spinVal, hp]

/-! ### Couplings and fields (R72) -/

theorem couplingAt_comm : couplingAt b h i = couplingAt b i h := by
  unfold couplingAt
  simp only [Bool.or_comm]

/-- What a coupling adds to the field of a variable. -/
def fieldTerm (p : Problem) (bits : List Bool) (k : Nat) (c : Coupling) : Int :=
  if c.i == k then c.value * valueAt p bits c.j else if c.j == k then c.value * valueAt p bits c.i else 0

theorem fieldAt_eq : fieldAt p b bits x k = nth 0 p.h (nth 0 b.vars k) + nth 0 x k + (b.intra.map (fieldTerm p bits k)).sum :=
  rfl

/-- A flip changes the field of another variable by their coupling. -/
theorem fieldAt_flip (hi : i < bits.length) (hk : k ≠ i) :
    fieldAt p b (applyMove bits [i]) x k = fieldAt p b bits x k + couplingAt b k i * deltaOf p bits i := by
  have hterm (c : Coupling) : fieldTerm p (applyMove bits [i]) k c = fieldTerm p bits k c +
      (if (c.i == k && c.j == i) || (c.i == i && c.j == k) then c.value else 0) * deltaOf p bits i := by
    have hval (j : Nat) : valueAt p (applyMove bits [i]) j = valueAt p bits j + if j = i then deltaOf p bits i else 0 := by
      by_cases hj : j = i
      · rw [if_pos hj, hj, valueAt_flip_self hi]
      · rw [if_neg hj, valueAt_flip_ne hj, add_zero]
    unfold fieldTerm
    rw [hval, hval]
    by_cases h1 : c.i = k
    · simp [h1, hk, mul_add]
    · by_cases h2 : c.j = k <;> simp [h1, h2, mul_add]
  rw [fieldAt_eq, fieldAt_eq, List.map_congr_left fun c _ => hterm c, List.sum_map_add, List.sum_map_mul_right, couplingAt]
  ring

/-! ### Sums over the variables (R105) -/

theorem sum_zip_setNth {α : Type} {d : α} {a : List α} {g : α → Bool → Int} {v : Bool} (ha : i < a.length)
    (hi : i < bits.length) : ((a.zip (setNth bits i v)).map fun e => g e.1 e.2).sum =
      ((a.zip bits).map fun e => g e.1 e.2).sum + (g (nth d a i) v - g (nth d a i) (nth false bits i)) := by
  unfold setNth nth
  induction a generalizing bits i with
  | nil => simp at ha
  | cons y a ih =>
    cases bits with
    | nil => simp at hi
    | cons c bits =>
      cases i with
      | zero =>
        simp only [List.set_cons_zero, List.zip_cons_cons, List.map_cons, List.sum_cons, List.getElem?_cons_zero,
          Option.getD_some]
        ring
      | succ i =>
        have hrest := ih (bits := bits) (i := i) (by simpa using ha) (by simpa using hi)
        simp only [List.set_cons_succ, List.zip_cons_cons, List.map_cons, List.sum_cons, List.getElem?_cons_succ, hrest]
        ring

theorem blockP_flip (hi : i < bits.length) (hx : i < x.length) :
    blockP p (applyMove bits [i]) x = blockP p bits x + deltaOf p bits i * nth 0 x i := by
  have hswap (l : List Bool) : blockP p l x = ((x.zip l).map fun e => spinVal p.spin e.2 * e.1).sum := by
    rw [← List.zip_swap, List.map_map]
    rfl
  rw [hswap, hswap]
  refine (sum_zip_setNth (d := 0) (g := fun y c => spinVal p.spin c * y) hx hi).trans ?_
  unfold deltaOf
  ring

theorem blockOwn_flip (hc : CouplingsOk b) (hi : i < bits.length) (hv : i < b.vars.length) :
    blockOwn p b (applyMove bits [i]) = blockOwn p b bits +
      deltaOf p bits i * (nth 0 p.h (nth 0 b.vars i) + (b.intra.map (fieldTerm p bits i)).sum) := by
  have hterm (c : Coupling) (hmem : c ∈ b.intra) :
      c.value * valueAt p (applyMove bits [i]) c.i * valueAt p (applyMove bits [i]) c.j =
        c.value * valueAt p bits c.i * valueAt p bits c.j + deltaOf p bits i * fieldTerm p bits i c := by
    obtain ⟨hne, -⟩ := hc c hmem
    unfold fieldTerm
    by_cases h1 : c.i = i
    · subst h1
      rw [valueAt_flip_self hi, valueAt_flip_ne (Ne.symm hne), if_pos (by simp)]
      ring
    · rw [valueAt_flip_ne h1, if_neg (by simpa using h1)]
      by_cases h2 : c.j = i
      · subst h2
        rw [valueAt_flip_self hi, if_pos (by simp)]
        ring
      · rw [valueAt_flip_ne h2, if_neg (by simpa using h2)]
        ring
  have hlinear := sum_zip_setNth (d := 0) (g := fun y c => nth 0 p.h y * spinVal p.spin c) (v := !nth false bits i) hv hi
  have hown (l : List Bool) : blockOwn p b l = (b.intra.map fun c => c.value * valueAt p l c.i * valueAt p l c.j).sum +
      ((b.vars.zip l).map fun e => nth 0 p.h e.1 * spinVal p.spin e.2).sum := rfl
  have hset : applyMove bits [i] = setNth bits i !nth false bits i := rfl
  rw [hown, hown, List.map_congr_left hterm, List.sum_map_add, List.sum_map_mul_left, hset, hlinear]
  unfold deltaOf
  ring

end

/-! ### The change of a block's energy (R73, R105) -/

section
variable {p : Problem} {b : Block} {bits : List Bool} {x : List Int} {h i : Nat} (hc : CouplingsOk b)
  (hbits : bits.length = b.vars.length) (hx : x.length = b.vars.length)
include hc hbits hx

theorem energy_flip (hi : i < b.vars.length) : blockOwn p b (applyMove bits [i]) + blockP p (applyMove bits [i]) x =
    blockOwn p b bits + blockP p bits x + moveEnergy p b bits x [i] := by
  have hlen : i < bits.length := hbits ▸ hi
  rw [blockOwn_flip hc hlen hi, blockP_flip hlen (hx ▸ hi), moveEnergy, fieldAt_eq]
  ring

/-- A pair move is two flips: the second finds the field that the first has changed by their coupling. -/
theorem energy_pair (hne : h ≠ i) (hh : h < b.vars.length) (hi : i < b.vars.length) :
    blockOwn p b (applyMove bits [h, i]) + blockP p (applyMove bits [h, i]) x =
      blockOwn p b bits + blockP p bits x + moveEnergy p b bits x [h, i] := by
  have hfirst := energy_flip (p := p) hc hbits hx hh
  have hsecond := energy_flip (p := p) (bits := applyMove bits [h]) hc (by simpa using hbits) hx hi
  have htwo : applyMove (applyMove bits [h]) [i] = applyMove bits [h, i] := rfl
  rw [htwo, hfirst] at hsecond
  rw [hsecond]
  simp only [moveEnergy]
  rw [deltaOf_flip_ne hne.symm, fieldAt_flip (hbits ▸ hh) hne.symm, couplingAt_comm]
  ring

end

theorem moveTotal_eq {p : Problem} {bn : Nat} {run : BlockRun} {move : List Nat} (hmove : move ≠ [])
    (hn : run.neural = blockNeural p bn run.bits) : moveTotal p bn run move =
      moveEnergy p (p.block bn) run.bits run.x move +
        (blockNeural p bn (applyMove run.bits move) - blockNeural p bn run.bits) := by
  unfold moveTotal
  rw [if_neg (by simpa using hmove)]
  cases e : p.netOf bn with
  | some t => rw [hn]
  | none => simp [blockNeural, e]

end Sys2Proof.Machine

namespace Sys2Proof
open Machine

/-- Settles O49: a flip changes each sum of the energy by the variable's change times its field; a pair move is two flips. -/
theorem moveEnergyIsTheChange : Obligations.MoveEnergyIsTheChange := by
  intro p bn run b n F v J hc hbits hx
  refine ⟨fun i hi => ⟨fun hp => ?_, fun hp => ?_, fun k _ hk => ?_⟩, fun h i _ _ hh hi => ⟨fun hp => ?_, fun hp => ?_⟩,
    fun move hmove => ⟨fun hn => moveTotal_eq ?_ hn, ?_⟩⟩
  · exact congrArg (· * F run.bits i) (deltaOf_bit hp)
  · exact congrArg (· * F run.bits i) (deltaOf_spin hp)
  · have hlen : i < run.bits.length := hbits ▸ hi
    have hvalue : v (applyMove run.bits [i]) i - v run.bits i = deltaOf p run.bits i := by
      have hself := valueAt_flip_self (p := p) hlen
      unfold valueAt at hself
      unfold v
      rw [hself]
      ring
    rw [hvalue]
    exact fieldAt_flip hlen hk
  · simp only [moveEnergy, deltaOf, hh, hi, hp, spinVal]
    simp only [F, J]
    norm_num
    ring
  · simp only [moveEnergy, deltaOf, hh, hi, hp, spinVal]
    simp only [F, J]
    norm_num
    ring
  · rcases hmove with ⟨i, -, rfl⟩ | ⟨h, i, -, -, -, rfl⟩ <;> simp
  · rcases hmove with ⟨i, hi, rfl⟩ | ⟨h, i, hne, hh, hi, rfl⟩
    · exact energy_flip hc hbits hx hi
    · exact energy_pair hc hbits hx hne hh hi

end Sys2Proof
end

section
/-! PROOFS. What a batch does, and what a table that is complete does (R97, R101-R104, R117, R118, R399). -/

namespace Sys2Proof.Machine

/-! ### Engines and their counters -/

section
variable {s : State} {e : Nat}

theorem eng_modEng {f : Engine → Engine} : (s.modEng e f).eng e = f (s.eng e) := tblGet_set_same ..

theorem eng_dieEvent {d cause : Nat} : (dieEvent s d cause).eng e = s.eng e := by
  have h : Touches (Part.fires ++ [.dies]) s (dieEvent s d cause) := Touches.refl.dieEvent
  exact congrArg (tblGet {} · e) (h.same .engines (by decide))

/-- Counting in an engine's statistic changes that engine by the statistic alone. -/
theorem eng_countEngine {get : Engine → Stat} {put : Engine → Stat → Engine} {cause n : Nat} (hn : n ≠ 0) :
    (countEngine s e get put cause n).eng e = put (s.eng e) (statUp (get (s.eng e)) n).1 := by
  unfold countEngine
  rw [if_neg (by simpa using hn)]
  dsimp only
  split
  · rw [eng_dieEvent, eng_modEng]
  · exact eng_modEng

/-- Counting in another statistic leaves the batches counted. -/
theorem batches_countEngine {get : Engine → Stat} {put : Engine → Stat → Engine} {cause n : Nat}
    (hput : ∀ g k, (put g k).batches = g.batches := by exact fun _ _ => rfl) :
    ((countEngine s e get put cause n).eng e).batches = (s.eng e).batches := by
  by_cases hn : n = 0
  · rw [hn]
    rfl
  · rw [eng_countEngine hn, hput]

theorem batches_passTurn {turn : Bool} : ((passTurn s e turn).eng e).batches = (s.eng e).batches := by
  unfold passTurn
  split
  · rw [eng_modEng]
  · rfl

theorem batches_tileWork {c : Nat} : ((tileWork s e c).eng e).batches = (s.eng e).batches := by
  unfold tileWork
  split
  · change ((issued s e true).eng e).batches = _
    unfold issued
    rw [eng_modEng]
  · rfl

end

/-! ### The tallies of a run -/

@[simp] theorem withSums_tallies (p : Problem) (bn : Nat) (run : BlockRun) : (withSums p bn run).tallies = run.tallies := by
  unfold withSums
  split <;> rfl

@[simp] theorem commitBatch_tallies (p : Problem) (bn : Nat) (run : BlockRun) (d : Decided) (next : Nat) :
    (commitBatch p bn run d next).tallies = run.tallies :=
  withSums_tallies ..

@[simp] theorem stepTable_tallies (l : Launch) (run : BlockRun) : (stepTable l run).1.tallies = run.tallies := by
  unfold stepTable
  split
  · rfl
  · split <;> rfl

@[simp] theorem endSweep_tallies (l : Launch) (p : Problem) (bn : Nat) (run : BlockRun) :
    (endSweep l p bn run).1.tallies = run.tallies :=
  stepTable_tallies ..

/-! ### A batch of a launch that runs (R101, R399) -/

/-- What the block's run is when a batch and, where it ends, the sweep are over, but for its tallies. -/
def batchRun (l : Launch) (p : Problem) (b : Nat) (run : BlockRun) (d : Decided) (fetched : Nat) : BlockRun :=
  let run1 := commitBatch p b run d (run.next + fetched)
  if (p.block b).vars.length ≤ run.next + fetched ∧ d.deferred = [] then (endSweep l p b run1).1 else run1

/-- The run that a batch leaves, as the model forms it. -/
theorem batchRun_eq (l : Launch) (p : Problem) (b : Nat) (run : BlockRun) (d : Decided) (fetched : Nat) :
    (if (p.block b).vars.length ≤ run.next + fetched && d.deferred.isEmpty then
        endSweep l p b (commitBatch p b run d (run.next + fetched))
      else (commitBatch p b run d (run.next + fetched), 0, false)).1 = batchRun l p b run d fetched := by
  simp only [batchRun, Bool.and_eq_true, decide_eq_true_eq, List.isEmpty_iff]
  split <;> rfl

@[simp] theorem batchRun_bits (l : Launch) (p : Problem) (b : Nat) (run : BlockRun) (d : Decided) (fetched : Nat) :
    (batchRun l p b run d fetched).bits = (d.accepted.map (moveOf (p.block b) run.bits)).foldl applyMove run.bits := by
  unfold batchRun
  dsimp only
  split
  · rw [endSweep_bits, commitBatch_bits]
  · exact commitBatch_bits ..

@[simp] theorem batchRun_tallies (l : Launch) (p : Problem) (b : Nat) (run : BlockRun) (d : Decided) (fetched : Nat) :
    (batchRun l p b run d fetched).tallies = run.tallies := by
  unfold batchRun
  dsimp only
  split
  · rw [endSweep_tallies, commitBatch_tallies]
  · exact commitBatch_tallies ..

/-- What a batch decides on. -/
def batchDecided (l : Launch) (p : Problem) (seed : DWord) (r b : Nat) (run : BlockRun) (fresh : List Nat) : Decided :=
  if l.concurrent then decideConc (p.block b) (accepts l p seed r b run) [] fresh
  else decideSeq p b (accepts l p seed r b run) [] (run.pending ++ fresh)

section
variable {s : State} {c r b : Nat} {x : Cmd} {q : Queue} {l : Launch} {p : Problem} {run : BlockRun} {seed : DWord}

theorem LaunchAt.withLaunch {f : Launch → Problem → Queue → State} (h : LaunchAt s c l p x q) :
    withLaunch s c f = f l p q := by
  obtain ⟨-, hl, hx, hp, hq, hrecord, hstage, hshutter⟩ := h
  simp [Machine.withLaunch, hl, hx, hp, hq, hrecord, hstage, hshutter]

theorem LaunchAt.act {f : State → State} (h : LaunchAt s c l p x q) :
    act true s f = .next { f s with pending := s.pending } := by
  rw [Machine.act, if_pos rfl, if_pos h.1]

variable (h : LaunchAt s c l p x q) (hrun : l.run? p r b = some run) (hseed : l.seed = some seed)
  (hmay : batchMay s q l (r * p.nb + b) run = true) (hturn : batchTurn s run.engine = true)
include h hrun hseed hmay hturn

/-- An opportunity that the louvre does not leave passes with no batch. -/
theorem annealBatch_shut (hshut : (s.eng run.engine).louvre ≤ ((s.eng run.engine).issues.filter id).length) :
    annealBatch s c r b = issued s run.engine false := by
  have hissue : mayIssue s run.engine = false := by simpa [mayIssue] using hshut
  unfold annealBatch
  rw [h.withLaunch]
  simp [hrun, hseed, hmay, hturn, hissue]

/-- A batch puts its block's run into the launch and counts itself; it touches no other part. -/
theorem annealBatch_open (hopen : ((s.eng run.engine).issues.filter id).length < (s.eng run.engine).louvre) :
    let fresh := fetchVisits run.next (p.block b).vars.length (64 - run.pending.length)
    let d := batchDecided l p seed r b run fresh
    ∃ y, y = { batchRun l p b run d fresh.length with tallies := y.tallies } ∧
      (tblGet {} y.tallies run.epoch).deferrals = (tblGet {} run.tallies run.epoch).deferrals + d.deferred.length ∧
      Touches (Part.fires ++ [.dies, .engines, .draws]) (s.setLaunch c (l.setRun p r b y)) (annealBatch s c r b) ∧
      ((annealBatch s c r b).eng run.engine).batches = (statUp (s.eng run.engine).batches 1).1 := by
  intro fresh d
  have hissue : mayIssue s run.engine = true := by simpa [mayIssue] using hopen
  generalize hann : annealBatch s c r b = t
  unfold annealBatch at hann
  rw [h.withLaunch] at hann
  split at hann
  swap
  · next hnot => exact absurd hseed (hnot _ _ hrun)
  next run' seed' hrun' hseed' =>
  cases hrun.symm.trans hrun'
  cases hseed.symm.trans hseed'
  extract_lets k n fresh' ok d' next run1 e at hann
  rw [if_neg (by simp [hmay, hturn]), if_neg (by simp [hissue])] at hann
  split at hann
  next run2 residue late hsweep =>
  extract_lets run3 turned counted deferred refused at hann
  have hrun2 : run2 = batchRun l p b run d fresh.length :=
    (congrArg (·.1) hsweep).symm.trans (batchRun_eq l p b run d fresh.length)
  have hcounted : (counted.eng e).batches = (statUp (s.eng e).batches 1).1 := by
    unfold counted turned
    rw [eng_countEngine one_ne_zero, batches_tileWork, batches_passTurn]
    rfl
  have htouched : Touches (Part.fires ++ [.dies, .engines, .draws]) (s.setLaunch c (l.setRun p r b run3)) counted :=
    Touches.refl.passTurn.tileWork.countEngine
  clear_value counted
  have hdeferred : (deferred.eng e).batches = (counted.eng e).batches := by
    unfold deferred
    split
    · rfl
    · exact batches_countEngine
  have htdeferred : Touches _ _ deferred := .ite htouched htouched.countEngine
  clear_value deferred
  have hrefused : (refused.eng e).batches = (deferred.eng e).batches := by
    unfold refused
    split
    · rfl
    · exact batches_countEngine
  have htrefused : Touches _ _ refused := .ite htdeferred htdeferred.countEngine
  clear_value refused
  have hfinal : (t.eng e).batches = (refused.eng e).batches := by
    rw [← hann]
    split
    · exact batches_countEngine
    · rfl
  refine ⟨run3, ?_, ?_, hann ▸ .ite htrefused.countEngine htrefused, ?_⟩
  · rw [← hrun2]
    rfl
  · unfold run3 BlockRun.tally
    rw [hrun2, batchRun_tallies]
    simp [tblGet]
    rfl
  · exact ((hfinal.trans hrefused).trans hdeferred).trans hcounted

end

theorem Launch.run?_setRun {l : Launch} {p : Problem} {r b : Nat} {run : BlockRun} (hb : b < p.nb) :
    (l.setRun p r b run).run? p r b = some run := by
  unfold Launch.run?
  rw [if_pos hb]
  exact tblFind_put_same ..

/-! ### A table that is complete (R117, R118) -/

section
variable {s : State} {c r b : Nat} {x : Cmd} {q : Queue} {l : Launch} {p : Problem} {run : BlockRun}

theorem exec_annealBatch : exec (.annealBatch c r b) s = act true s fun s => annealBatch s c r b := rfl

theorem exec_tableRebuildComplete : exec (.tableRebuildComplete c r b) s = execTableRebuildComplete c r b s := rfl

theorem tableRebuildComplete_of_saved (h : LaunchAt s c l p x q) (hrun : l.run? p r b = some run)
    (hsaved : engineSaved s q run.engine = true) : exec (.tableRebuildComplete c r b) s = .next s := by
  rw [exec_tableRebuildComplete, execTableRebuildComplete, h.act, h.withLaunch, hrun]
  simp [hsaved]

theorem tableRebuildComplete_of_open (h : LaunchAt s c l p x q) (hrun : l.run? p r b = some run)
    (hdone : run.backgroundDone = false) (hsteps : run.foreground + 1 < l.schedule.length)
    (hsaved : engineSaved s q run.engine = false) : exec (.tableRebuildComplete c r b) s =
      .next (s.setLaunch c (l.setRun p r b (if run.lateHeld then (stepTable l { run with backgroundDone := true }).1
        else { run with backgroundDone := true }))) := by
  rw [exec_tableRebuildComplete, execTableRebuildComplete, h.act, h.withLaunch, hrun]
  simp only [hdone, hsaved, Bool.false_or, Bool.or_false, decide_eq_true_eq, if_neg (Nat.not_le.2 hsteps)]
  rfl

/-- At a sweep boundary of another step a table that is complete is swapped in. -/
theorem stepTable_of_done (hdone : run.backgroundDone = true) (hsweep : run.sweep < l.totalSweeps)
    (hstep : stepOf l.schedule run.sweep ≠ run.foreground) : (stepTable l run).1 =
      { run with foreground := run.foreground + 1, backgroundDone := false, lateHeld := false } := by
  unfold stepTable
  rw [if_neg (by simp [hsweep, hstep]), if_pos hdone]

end

end Sys2Proof.Machine

namespace Sys2Proof
open Machine

/-- Settles O51: `annealBatch_open` gives the block's new run and what else a batch touches. -/
theorem batchesCommitTheirMoves : Obligations.BatchesCommitTheirMoves := by
  intro s c r b x q l p run h hrun
  have hb := (run?_some hrun).1
  refine ⟨fun seed hseed hmay hturn => ⟨fun hshut => ?_, fun hopen => ?_⟩, fun hdone hsteps =>
    ⟨tableRebuildComplete_of_saved h hrun, fun hsaved hheld => ?_, fun hsaved hheld hsweep hstep => ?_⟩⟩
  · rw [exec_annealBatch, h.act, annealBatch_shut h hrun hseed hmay hturn hshut]
    rfl
  · obtain ⟨y, hy, hdeferrals, ht, hbatches⟩ := annealBatch_open h hrun hseed hmay hturn hopen
    refine ⟨_, l.setRun p r b y, y, exec_annealBatch.trans h.act, ?_, Launch.run?_setRun hb, hy, ?_, hdeferrals,
      fun j hj => tblFind_put_ne _ _ hj, ht.same .mem (by decide), hbatches⟩
    · have hspin : (annealBatch s c r b).spin = (s.setLaunch c (l.setRun p r b y)).spin := ht.same .spin (by decide)
      exact hspin ▸ tblFind_put_same ..
    · exact (congrArg BlockRun.bits hy).trans (batchRun_bits ..)
  · rw [tableRebuildComplete_of_open h hrun hdone hsteps hsaved, if_neg (by simp [hheld])]
  · rw [tableRebuildComplete_of_open h hrun hdone hsteps hsaved, if_pos hheld,
      stepTable_of_done (run := { run with backgroundDone := true }) rfl hsweep hstep]

end Sys2Proof
end

section
/-! PROOFS. The problem commands, registration, the ladder and the result read complete (R88-R93, R127, R138, R153). -/

namespace Sys2Proof.Machine

/-! ### Checks that pass -/

@[simp] theorem within_ok {α : Type} (a : α) (k : α → Done) : within (.ok a) k = k a := rfl

theorem need_ok {ok : Bool} {code detail : Nat} (h : ok = true) : need ok code detail = .ok () := by simp [need, h]

/-! ### The bodies of the commands -/

section
variable {s v : State} {c : Nat} {x : Cmd} {q : Queue} {i : Nat} {old p : Problem} {src : Source84}

theorem loadBody_ok {g : Nat} (hread : readSource s q x.desc none = .ok src) (hbuild : buildProblem s q x.desc src = .ok p)
    (hnew : newIndex 65536 (fun i => (tblFind s.spin.problems i).isSome) s.spin.gens = some (i, g))
    (hroom : p.storedBytes ≤ s.areaFree) (hreport : writeReport s q src p = .ok v) : loadBody s x q =
      let w := v.setProblem i { p with gen := g }
      .ok { w with spin := { w.spin with gens := tblPut w.spin.gens i g } }
        (BitVec.ofNat 128 (mkHandle 2 g i + p.blocks.length * 2 ^ 64 + expByte s.draws p.eps * 2 ^ 96)) := by
  simp only [loadBody, hread, hbuild, hnew, need_ok (decide_eq_true hroom), hreport, within_ok]

theorem rescaleBody_ok {nets : Tbl Net} (hidle : needIdle s q.port (dField x.desc 0x20 8) false = .ok (i, old))
    (hread : readSource s q x.desc (some old) = .ok src) (hbuild : buildProblem s q x.desc src = .ok p)
    (hnets : rebind old p = .ok nets) (hroom : p.storedBytes ≤ s.areaFree + old.storedBytes)
    (hreport : writeReport s q src p = .ok v) : rescaleBody s x q =
      .ok (v.setProblem i { p with gen := old.gen, port := old.port, pasid := old.pasid, ladder := old.ladder, nets := nets,
                                   blockNet := old.blockNet }) 0 := by
  simp only [rescaleBody, hidle, hread, hbuild, hnets, need_ok (decide_eq_true hroom), hreport, within_ok]

theorem registerBody_remove (hidle : needIdle s q.port (dField x.desc 0x20 8) false = .ok (i, old))
    (hfields : needFields 0x6C20 (termFields x.desc old.blocks.length) = .ok ()) (haddr : dField x.desc 0x10 8 = 0) :
    registerBody s x q = .ok (s.setProblem i (detachNet old (dField x.desc 0x18 4) (dField x.desc 0x1C 4))) 0 := by
  simp only [registerBody, hidle, hfields, haddr, within_ok, beq_self_eq_true, if_true]

theorem registerBody_attach {r : List Byte} {ls : List Layer} {t : Net}
    (hidle : needIdle s q.port (dField x.desc 0x20 8) false = .ok (i, old))
    (hfields : needFields 0x6C20 (termFields x.desc old.blocks.length) = .ok ()) (haddr : dField x.desc 0x10 8 ≠ 0)
    (hrecord : readVa s q.port q.pasid (dField x.desc 0x10 8) 64 = .ok r) (hnet : needFields 0x6C20 (netFields r) = .ok ())
    (hsizes : ∀ k, k < dField x.desc 0x1C 4 →
      (old.blocks[dField x.desc 0x18 4 + k]?).map (·.vars.length) = some (fieldOf r 0 4))
    (hlayers : readLayers s q r = .ok ls) (hcheck : checkLayers 1 ls = .ok ())
    (hbiases : checkBiases 1 [(quantNet old.spin r ls).b1, (quantNet old.spin r ls).b2, [(quantNet old.spin r ls).b3]] = .ok ())
    (hbind : bindNet (quantNet old.spin r ls) old.eps = some t) (hroom : t.bytes ≤ s.areaFree) : registerBody s x q =
      .ok (s.setProblem i (attachNet old (dField x.desc 0x18 4) (dField x.desc 0x1C 4) t)) (netResult t) := by
  have hnone : ((List.range (dField x.desc 0x1C 4)).find? fun k =>
      ((old.blocks[dField x.desc 0x18 4 + k]?).map fun b => b.vars.length) != some (fieldOf r 0 4)) = none := by
    refine List.find?_eq_none.2 fun k hk => ?_
    rw [hsizes k (List.mem_range.1 hk)]
    simp
  simp only [registerBody, hidle, hfields, beq_eq_false_iff_ne.2 haddr, Bool.false_eq_true, if_false, hrecord, hnet, hnone,
    hlayers, hcheck, hbiases, hbind, need_ok (decide_eq_true hroom), within_ok]

theorem updateBody_ok {h : List Int} {lost : Nat} {init : List Bool}
    (hidle : needIdle s q.port (dField x.desc 0x20 8) false = .ok (i, old))
    (hdesc : needDesc x.desc 0x6C01 [(0x2C, decide (8 ≤ dField x.desc 0x2C 1))] = .ok ())
    (hlinear : updateLinear s q x.desc old = .ok (h, lost))
    (hconstant : bit (dField x.desc 0x2C 1) 2 = true → (fpRat (dField x.desc 0x28 4)).isSome = true)
    (hrange : checkRange old.blockOf old.blocks h = .ok ())
    (hinit : (if bit (dField x.desc 0x2C 1) 1 then readState s q (dField x.desc 0x18 8) old.n old.groupsOf else .ok old.init) =
      .ok init)
    (hstate : checkState old.groupsOf init = .ok ()) : updateBody s x q =
      .ok (s.setProblem i { old with
        h := h, vanishedLinear := lost, init := init,
        constant := if bit (dField x.desc 0x2C 1) 2 then dField x.desc 0x28 4 else old.constant }) 0 := by
  have hneed : (!bit (dField x.desc 0x2C 1) 2 || (fpRat (dField x.desc 0x28 4)).isSome) = true := by
    simpa [Bool.or_eq_true, imp_iff_not_or] using hconstant
  simp only [updateBody, hidle, hdesc, hlinear, need_ok hneed, hrange, hinit, hstate, within_ok]

theorem freeBody_ok (hidle : needIdle s q.port (dField x.desc 0x20 8) true = .ok (i, old))
    (hdesc : needDesc x.desc 0x6C01 [] = .ok ()) :
    freeBody s x q = .ok { s with spin := { s.spin with problems := tblDel s.spin.problems i } } 0 := by
  simp only [freeBody, hidle, hdesc, within_ok]

theorem energyBody_ok {bits : List Bool} (hproblem : needProblem s q.port (dField x.desc 0x20 8) false = .ok (i, old))
    (hdesc : needDesc x.desc 0x6C01 [] = .ok ())
    (hbits : readState s q (dField x.desc 0x10 8) old.n old.groupsOf = .ok bits) (hstate : checkState old.groupsOf bits = .ok ())
    (hwrite : writeVa { s with draws := s.draws + 1 } q.port q.pasid (dField x.desc 0x18 8) (energyRecord s.draws old bits) =
      .ok v) : energyBody s x q = .ok v 0 := by
  simp only [energyBody, hproblem, hdesc, hbits, hstate, hwrite, within_ok]

theorem ladderSetBody_remove (hidle : needIdle s q.port (dField x.desc 0x20 8) false = .ok (i, old))
    (haddr : dField x.desc 0x10 8 = 0) : ladderSetBody s x q = .ok (s.setProblem i { old with ladder := none }) 0 := by
  simp only [ladderSetBody, hidle, haddr, within_ok, beq_self_eq_true, if_true]

theorem ladderSetBody_store {n : Nat} {l : List Nat} (hidle : needIdle s q.port (dField x.desc 0x20 8) false = .ok (i, old))
    (haddr : dField x.desc 0x10 8 ≠ 0) (hcount : readArray s q (dField x.desc 0x10 8) 4 1 = .ok [n]) (hpos : n ≠ 0)
    (hmost : n ≤ 64) (hread : readArray s q (dField x.desc 0x10 8 + 4) 4 n = .ok l)
    (hgood : ∀ k, k < n → badMultiplier l k = false) :
    ladderSetBody s x q = .ok (s.setProblem i { old with ladder := some l }) 0 := by
  have hn : nth 0 [n] 0 = n := rfl
  have hneed : (n != 0 && decide (n ≤ 64)) = true := by simp [hpos, hmost]
  have hnone : (List.range n).find? (badMultiplier l) = none :=
    List.find?_eq_none.2 fun k hk => by simp [hgood k (List.mem_range.1 hk)]
  simp only [ladderSetBody, hidle, beq_eq_false_iff_ne.2 haddr, Bool.false_eq_true, if_false, hcount, hn, need_ok hneed, hread,
    hnone, within_ok]

theorem resultReadBody_kept {n : Nat} {area : List Byte} {rest : List (Nat × List Byte)} (hkept : x.kept = (n, area) :: rest)
    (hwrite : writeVa s q.port q.pasid (dField x.desc 0x18 8) area = .ok v) : resultReadBody c s x q = .ok v 0 := by
  simp only [resultReadBody, hkept, writeSnapshot, hwrite, within_ok]

theorem resultReadBody_taken {l : Launch} {k : Nat}
    (hproblem : needProblem s q.port (dField x.desc 0x20 8) false = .ok (i, old)) (hkept : x.kept = [])
    (hfind : s.spin.launches.find? (fun e => e.2.problem == i && e.2.resultAddr == dField x.desc 0x10 8) = some (k, l))
    (hroom : l.areaSize old ≤ dField x.desc 0x28 8)
    (hwrite : writeVa ({ s with draws := s.draws + 1 }.modCmd c fun y => { y with kept := [(0, resultArea s.draws l old false)] })
      q.port q.pasid (dField x.desc 0x18 8) (resultArea s.draws l old false) = .ok v) :
    resultReadBody c s x q = .ok v 0 := by
  simp only [resultReadBody, hkept, hproblem, hfind, need_ok (decide_eq_true hroom), writeSnapshot, hwrite, within_ok]
  rfl

end

end Sys2Proof.Machine

namespace Sys2Proof
open Machine

/-- Settles O47: each command's body completes, and so does the command (`takeCmd_ok`). -/
theorem problemCommandsComplete : Obligations.ProblemCommandsComplete := by
  intro s c x q i old p src v d
  refine ⟨fun g hc hread hbuild hnew hroom hreport => takeCmd_ok hc (loadBody_ok hread hbuild hnew hroom hreport),
    fun hidle => ⟨?_, ?_, ?_, ?_, ?_, ?_⟩, fun hidle hdesc hc => takeCmd_ok hc (freeBody_ok hidle hdesc),
    fun hproblem => ⟨?_, ?_⟩, fun n area rest hc hkept hwrite => takeCmd_ok hc (resultReadBody_kept hkept hwrite)⟩
  · exact fun nets hc hread hbuild hnets hroom hreport =>
      takeCmd_ok hc (rescaleBody_ok hidle hread hbuild hnets hroom hreport)
  · exact fun hc hfields haddr => takeCmd_ok hc (registerBody_remove hidle hfields haddr)
  · exact fun r ls t hc hfields haddr hrecord hnet hsizes hlayers hcheck hbiases hbind hroom =>
      takeCmd_ok hc (registerBody_attach hidle hfields haddr hrecord hnet hsizes hlayers hcheck hbiases hbind hroom)
  · exact fun h lost init hc hdesc hlinear hconstant hrange hinit hstate =>
      takeCmd_ok hc (updateBody_ok hidle hdesc hlinear hconstant hrange hinit hstate)
  · exact fun hc haddr => takeCmd_ok hc (ladderSetBody_remove hidle haddr)
  · exact fun n l hc haddr hcount hpos hmost hread hgood =>
      takeCmd_ok hc (ladderSetBody_store hidle haddr hcount hpos hmost hread hgood)
  · exact fun bits hc hdesc hbits hstate hwrite => takeCmd_ok hc (energyBody_ok hproblem hdesc hbits hstate hwrite)
  · exact fun l k hc hkept hfind hroom hwrite =>
      takeCmd_ok hc (resultReadBody_taken hproblem hkept hfind hroom hwrite)

end Sys2Proof
end

section
/-! PROOFS. A launch starts, takes its seed and its engines, and completes (R110, R111, R122, R135, R141, R161). -/

namespace Sys2Proof.Machine

@[simp] theorem placed_seed (l : Launch) (engines : List Nat) (place : Placement) :
    (placed l engines place).seed = l.seed := rfl

section
variable {s t v : State} {c : Nat} {x : Cmd} {q : Queue} {l : Launch} {p : Problem}

/-- A command of a launch that runs answers what its meaning makes of the state. -/
theorem LaunchAt.act_keeping {f : State → State} (h : LaunchAt s c l p x q) (hf : f s = t) :
    Machine.act true s f = nextKeeping s t :=
  h.act.trans (congrArg (nextKeeping s) hf)

/-- It is the whole next state where the meaning leaves the queue of waiting commands. -/
theorem LaunchAt.act_next {f : State → State} (h : LaunchAt s c l p x q) (hf : f s = t)
    (hpending : t.pending = s.pending := by rfl) : Machine.act true s f = .next t :=
  (h.act_keeping hf).trans (nextKeeping_eq hpending)

/-! ### Start (R110, R122, R141) -/

/-- A launch starts unless it needs a seed and its port's generator has failed for good. -/
theorem startLaunch_run {place : Placement} (hseed : l.seed ≠ none ∨ (s.host q.port).ent.state ≠ .permanentFault) :
    startLaunch c s x q l p place true =
      let k := placed l q.engines place
      let v := holdSlots (s.setLaunch c k) c x.queue k
      .run ((if l.seed = none then askSeed v q.port c else v).modCmd c fun y =>
        { y with dests := if l.seed = none then [] else resultDest k p }) := by
  unfold startLaunch
  cases e : l.seed with
  | none =>
    have hgood : (s.host q.port).ent.state ≠ .permanentFault := hseed.resolve_left (not_not_intro e)
    simp [e, hgood]
  | some v => simp [e]

theorem annealLaunchBody_run {place : Placement} (haccept : acceptLaunch s x q none 0 = .ok (l, p, place))
    (hstart : startLaunch c s x q l p place true = .run v) : annealLaunchBody c s x q = .run v := by
  rw [annealLaunchBody, haccept, within_ok]
  exact hstart

theorem exec_annealLaunch : exec (.annealLaunch c) s =
    act true s fun s => takeCmd s c 0x60 [.started, .waiting] (annealLaunchBody c) := rfl

theorem exec_runSeedArrival : exec (.runSeedArrival c) s = execRunSeedArrival c s := rfl

theorem exec_neuralEngineEligible : exec (.neuralEngineEligible c) s = execNeuralEngineEligible c s := rfl

theorem exec_launchComplete : exec (.launchComplete c) s = act true s fun s => launchComplete s c := rfl

/-! ### Seed and engines (R122, R161) -/

theorem exec_runSeedArrival_of_none {seed : DWord} (h : LaunchAt s c l p x q) (hseed : l.seed = none)
    (hsent : l.seedSent = some seed) (hpart : l.partition = none) : exec (.runSeedArrival c) s =
      .next ((s.setLaunch c { l with seed := some seed, seedSent := none }).modCmd c fun y =>
        { y with dests := resultDest l p }) := by
  refine exec_runSeedArrival.trans (h.act_next ?_ (State.modCmd_pending ..))
  rw [h.withLaunch]
  simp [hseed, hsent, hpart]

theorem exec_neuralEngineEligible_of_waiting {y : Placement} (h : LaunchAt s c l p x q) (hwaiting : l.waitingEngine = true)
    (hplace : placeLaunch s l.queue (realTime q) l.engines { p with placement := 2 } l.keys = .ok y)
    (hready : y.waits = false) : exec (.neuralEngineEligible c) s =
      nextKeeping s (holdSlots (s.setLaunch c (placed l l.engines y)) c l.queue (placed l l.engines y)) := by
  refine exec_neuralEngineEligible.trans (h.act_keeping ?_)
  rw [h.withLaunch]
  simp [hplace, hwaiting, hready]

/-! ### Completion (R111, R135) -/

theorem finishLaunch_of_written (hwrite : writeVa { s with draws := s.draws + 1 } q.port q.pasid l.resultAddr
      (resultArea s.draws l p (l.stop == l.totalEpochs)) = .ok v) :
    finishLaunch s c q l p = finishCmd v c 0 0 (launchResult l) false false := by
  rw [finishLaunch, hwrite]

theorem exec_launchComplete_of_done (h : LaunchAt s c l p x q) (hpart : l.partition = none) (hseed : l.seed ≠ none)
    (hdone : l.stop ≤ l.epochsDone) : exec (.launchComplete c) s = nextKeeping s (finishLaunch s c q l p) := by
  refine exec_launchComplete.trans (h.act_keeping ?_)
  rw [launchComplete, h.withLaunch, if_neg (by simp [hseed, hdone]), if_pos (by simp [hpart])]

theorem exec_launchComplete_of_open (h : LaunchAt s c l p x q) (hopen : l.seed = none ∨ l.epochsDone < l.stop) :
    exec (.launchComplete c) s = .next s := by
  refine exec_launchComplete.trans (h.act_next ?_)
  rw [launchComplete, h.withLaunch, if_pos (by simpa using hopen)]

end

end Sys2Proof.Machine

namespace Sys2Proof
open Machine

/-- Settles O50: an accepted launch's body runs on (`startLaunch_run`), and each later command is the equation of its case. -/
theorem launchesStartAndComplete : Obligations.LaunchesStartAndComplete := by
  refine ⟨fun s c x q l p => ⟨fun place hc haccept hseed => ?_, fun v h hseed hsent hpart => ?_,
    fun y h hwaiting hplace hready => ?_⟩, fun s v c x q l p h hpart => ⟨fun hseed hdone hwrite => ?_, ?_⟩⟩
  · exact exec_annealLaunch.trans (takeCmd_goes hc (annealLaunchBody_run haccept (startLaunch_run hseed)))
  · exact exec_runSeedArrival_of_none h hseed hsent hpart
  · exact exec_neuralEngineEligible_of_waiting h hwaiting hplace hready
  · rw [exec_launchComplete_of_done h hpart hseed hdone, finishLaunch_of_written hwrite]
    rfl
  · exact exec_launchComplete_of_open h

end Sys2Proof
end

section
/-! PROOFS. Epoch ends, boundary values, reductions and epoch starts (R123-R125, R133, R336). -/

namespace Sys2Proof.Machine

theorem tblFind_setLaunch {s : State} {c : Nat} {l : Launch} :
    tblFind (s.setLaunch c l).spin.launches c = some l := tblFind_put_same ..

/-! ### Contributions and snapshots of a run (R124) -/

section
variable {p : Problem} {bn : Nat} {run : BlockRun}

@[simp] theorem contribute_snapshots (p : Problem) (bn : Nat) (run : BlockRun) :
    (contribute p bn run).snapshots = run.snapshots := by
  unfold contribute
  split <;> rfl

@[simp] theorem contribute_inbound (p : Problem) (bn : Nat) (run : BlockRun) :
    (contribute p bn run).inbound = run.inbound := by
  unfold contribute
  split <;> rfl

theorem contribute_phase_of_held (hphase : run.phase = .ended) (hheld : holdsAll p bn run run.epoch = true) :
    (contribute p bn run).phase = .contributed := by
  rw [contribute, if_pos (by simp [hphase, hheld])]

/-- A block that lacks a neighbour's values does not contribute. -/
theorem contribute_phase_of_lacking (hphase : run.phase = .ended) (hheld : holdsAll p bn run run.epoch = false) :
    (contribute p bn run).phase = .ended := by
  rw [contribute, if_neg (by simp [hheld]), hphase]

/-- Values that come are found under their neighbour and epoch. -/
theorem inboundOf_receiveValues {source epoch : Nat} {v : List Bool} (hnone : inboundOf run source epoch = none) :
    inboundOf (receiveValues p bn run source epoch v) source epoch = some v := by
  unfold inboundOf at hnone ⊢
  rw [receiveValues, contribute_inbound, List.find?_append, Option.map_eq_none_iff.1 hnone]
  simp

end

/-- The run of a block whose epoch ends: its snapshot taken, a streamed pair paged out, its contribution formed if it can be. -/
def endedRun (l : Launch) (p : Problem) (r bn : Nat) (run : BlockRun) : BlockRun :=
  contribute p bn { run with
    phase := .ended,
    snapshots := tblPut (run.snapshots.filter fun e => run.epoch ≤ e.1 + 1 || (l.rep r).epochsDone ≤ e.1) run.epoch run.bits,
    pagedIn := !(l.streamed && 1 < pairsOn l run.engine) }

section
variable {l : Launch} {p : Problem} {r bn : Nat} {run : BlockRun}

theorem endedRun_bits : (endedRun l p r bn run).bits = run.bits := contribute_bits ..

theorem endedRun_snapshot : tblFind (endedRun l p r bn run).snapshots run.epoch = some run.bits := by
  rw [endedRun, contribute_snapshots]
  exact tblFind_put_same ..

theorem endedRun_phase_of_held (hheld : holdsAll p bn run run.epoch = true) :
    (endedRun l p r bn run).phase = .contributed := contribute_phase_of_held rfl hheld

theorem endedRun_phase_of_lacking (hheld : holdsAll p bn run run.epoch = false) :
    (endedRun l p r bn run).phase = .ended := contribute_phase_of_lacking rfl hheld

end

/-- The run of a block whose start waits, counted once. -/
def waitedRun (run : BlockRun) : BlockRun :=
  { run with waited := true }.tally (run.epoch + 1) fun t => { t with waits := t.waits + 1 }

/-! ### The commands of an epoch -/

section
variable {s : State} {c r b : Nat}

theorem exec_epochEnd : exec (.epochEnd c r b) s = act true s fun s => sendParts (epochEnd s c r b) c := rfl

theorem exec_boundaryValuesReceived {source : Nat} :
    exec (.boundaryValuesReceived c r b source) s = act true s fun s => boundaryReceived s c r b source := rfl

theorem exec_epochStart : exec (.epochStart c r b) s = act true s fun s => epochStart s c r b := rfl

theorem exec_blockPageInComplete : exec (.blockPageInComplete c r b) s = execBlockPageInComplete c r b s := rfl

theorem exec_energyReduction : exec (.energyReduction c r) s = act true s fun s => energyReduction s c r := rfl

end

/-- A launch that no cascade shares has no message to send. -/
theorem sendParts_of_alone {s : State} {c : Nat} {l : Launch} (hl : tblFind s.spin.launches c = some l)
    (hpart : l.partition = none) : sendParts s c = s := by
  unfold sendParts
  refine List.foldl_fixed' (fun _ => ?_) _
  rw [hl]
  dsimp only
  cases tblFind s.spin.problems l.problem with
  | none => rfl
  | some p => simp [hpart]

section
variable {s : State} {c r b : Nat} {x : Cmd} {q : Queue} {l : Launch} {p : Problem} {run : BlockRun}
  (h : LaunchAt s c l p x q)
include h

theorem exec_epochEnd_of_swept (hpart : l.partition = none) (hrun : l.run? p r b = some run)
    (hphase : run.phase = .sweeping) (hsweep : run.sweep = l.epochEnd run.epoch) :
    exec (.epochEnd c r b) s = .next (s.setLaunch c (l.setRun p r b (endedRun l p r b run))) := by
  have hend : epochEnd s c r b = s.setLaunch c (l.setRun p r b (endedRun l p r b run)) := by
    rw [epochEnd, h.withLaunch, hrun]
    simp only [hphase, hsweep, beq_self_eq_true, Bool.and_self, if_true, endedRun]
  refine exec_epochEnd.trans (h.act_next ?_)
  rw [hend]
  exact sendParts_of_alone tblFind_setLaunch hpart

theorem exec_boundaryValuesReceived_of_sent {source : Nat} {other : BlockRun} {v : List Bool} (hpart : l.partition = none)
    (hrun : l.run? p r b = some run) (hneighbour : (p.block b).neighbours.contains source = true)
    (hnone : inboundOf run source (nextInbound run source) = none) (hother : l.run? p r source = some other)
    (hsent : tblFind other.snapshots (nextInbound run source) = some v) :
    exec (.boundaryValuesReceived c r b source) s =
      .next (s.setLaunch c (l.setRun p r b (receiveValues p b run source (nextInbound run source) v))) := by
  have hown : l.own s p r source = true := by rw [Launch.own, hpart]
  have hcmd : s.cmd? c = some x := h.2.2.1
  refine exec_boundaryValuesReceived.trans (h.act_next ?_)
  rw [boundaryReceived, h.withLaunch, hrun, hcmd]
  simp only [hneighbour, hnone, hown, hother, hsent, Option.isSome_none, Bool.not_true, Bool.or_self, Bool.false_eq_true,
    if_false, if_true, Option.bind_some]
  exact sendParts_of_alone tblFind_setLaunch hpart

theorem exec_epochStart_of_contributed (hpart : l.partition = none) (hrun : l.run? p r b = some run)
    (hphase : run.phase = .contributed) (hmore : run.epoch + 1 < l.stop) (hheld : run.lateHeld = false)
    (hpassed : exchangePassed l r run.epoch = true) (hended : engineEnded l run = true)
    (htaken : engineTaken s q run.engine = false) : exec (.epochStart c r b) s =
      .next (s.setLaunch c (l.setRun p r b (beginEpoch l p b (run.epoch + 1) (lookInbound p run run.epoch) run))) := by
  have halone : (l.setRun p r b (beginEpoch l p b (run.epoch + 1) (lookInbound p run run.epoch) run)).partition = none := hpart
  refine exec_epochStart.trans (h.act_next ?_)
  rw [epochStart, h.withLaunch, hrun]
  simp [hphase, hmore, hheld, hpassed, hended, htaken, halone]

theorem exec_epochStart_of_waiting (hrun : l.run? p r b = some run) (hphase : run.phase = .ended)
    (hwaited : run.waited = false) (hmore : run.epoch + 1 < l.stop) : exec (.epochStart c r b) s =
      nextKeeping s (countEngine (s.setLaunch c (l.setRun p r b (waitedRun run))) run.engine (·.epochWaits)
        (fun g k => { g with epochWaits := k }) causeAnl 1) := by
  refine exec_epochStart.trans (h.act_keeping ?_)
  rw [epochStart, h.withLaunch, hrun]
  dsimp only
  rw [if_pos (by simp [hphase]), if_neg (by simp [hwaited, hmore])]
  rfl

theorem exec_blockPageInComplete_of_next (hrun : l.run? p r b = some run) (hstreamed : l.streamed = true)
    (hpaged : run.pagedIn = false) (hrank : pairRank l (r * p.nb + b) run ≤ 1) :
    exec (.blockPageInComplete c r b) s = .next (s.setLaunch c (l.setRun p r b { run with pagedIn := true })) := by
  refine exec_blockPageInComplete.trans (h.act_next ?_)
  rw [h.withLaunch, hrun]
  simp [hstreamed, hpaged, hrank]

theorem exec_energyReduction_of_contributed {twice n : Int} (hpart : l.partition = none) (hreducible : reducible l r = true)
    (hsums : ownSums l p r (l.rep r).reduced = some (twice, n)) : exec (.energyReduction c r) s =
      .next (s.setLaunch c (afterReduction (reduceWith l p r (l.rep r).reduced twice n) p r (l.rep r).reduced)) := by
  refine exec_energyReduction.trans (h.act_next ?_)
  rw [energyReduction, h.withLaunch]
  simp [hpart, hreducible, hsums]

end

/-! ### A position's record (R124 step 4, R132, R133) -/

section
variable {l : Launch} {p : Problem} {r e : Nat} {record : Replica}

theorem Launch.rep_setRep_same (hr : r < l.reps.length) : (l.setRep r record).rep r = record := nth_setNth_same hr

theorem Launch.rep_setRep_ne {j : Nat} (hj : j ≠ r) : (l.setRep r record).rep j = l.rep j := nth_setNth_ne hj

theorem capture_reps_length : (capture l p r e).reps.length = l.reps.length := length_setNth

theorem reduceWith_reps_length {twice n : Int} : (reduceWith l p r e twice n).reps.length = l.reps.length := length_setNth

theorem rep_reduceWith_same {twice n : Int} (hr : r < l.reps.length) : (reduceWith l p r e twice n).rep r =
    { l.rep r with reduced := e + 1, reducedQuad := twice / 2, reducedNeural := n } := nth_setNth_same hr

/-- The capture keeps the reduced sums, and the better of them and the best so far (R133). -/
theorem rep_capture_same (hr : r < l.reps.length) :
    let old := l.rep r
    let new := (capture l p r e).rep r
    new.reducedQuad = old.reducedQuad ∧ new.reducedNeural = old.reducedNeural ∧
      new.bestQuad + new.bestNeural = min (old.bestQuad + old.bestNeural) (old.reducedQuad + old.reducedNeural) := by
  unfold capture
  extract_lets old bits sum better best traced delta ts counted runs new
  have hnew : new = counted := nth_setNth_same hr
  have hbest : best.reducedQuad = old.reducedQuad ∧ best.reducedNeural = old.reducedNeural ∧
      best.bestQuad + best.bestNeural = min (old.bestQuad + old.bestNeural) sum := by
    unfold best
    split
    · next hless => exact ⟨rfl, rfl, (min_eq_right hless.le).symm⟩
    · next hless => exact ⟨rfl, rfl, (min_eq_left (not_lt.1 hless)).symm⟩
  have htraced : traced.reducedQuad = best.reducedQuad ∧ traced.reducedNeural = best.reducedNeural ∧
      traced.bestQuad = best.bestQuad ∧ traced.bestNeural = best.bestNeural := by
    unfold traced
    split <;> exact ⟨rfl, rfl, rfl, rfl⟩
  obtain ⟨hquad, hneural, hbestQuad, hbestNeural⟩ := htraced
  rw [hnew]
  unfold counted
  dsimp only
  rw [hquad, hneural, hbestQuad, hbestNeural]
  exact hbest

/-- Where no exchange is due, a reduction captures and completes the epoch. -/
theorem afterReduction_of_alone (hpartner : exchangePartner l e r = none) : afterReduction l p r e =
    completeEpoch (capture l p r e) r e ((capture l p r e).rep r).reducedQuad ((capture l p r e).rep r).reducedNeural
      (stateAt (capture l p r e) p r e) := by
  rw [afterReduction, hpartner]

/-- The other positions keep their records. -/
theorem rep_afterReduction_ne {twice n : Int} {j : Nat} (hpartner : exchangePartner l e r = none) (hj : j ≠ r) :
    (afterReduction (reduceWith l p r e twice n) p r e).rep j = l.rep j := by
  have hpartner' : exchangePartner (reduceWith l p r e twice n) e r = none := hpartner
  rw [afterReduction_of_alone hpartner', completeEpoch, Launch.rep_setRep_ne hj]
  exact (nth_setNth_ne hj).trans (nth_setNth_ne hj)

/-- The position's record once its energy is reduced and no exchange is due. -/
theorem rep_afterReduction_same {twice n : Int} (hr : r < l.reps.length) (hpartner : exchangePartner l e r = none) :
    let new := (afterReduction (reduceWith l p r e twice n) p r e).rep r
    new.epochsDone = e + 1 ∧ new.finalQuad = twice / 2 ∧ new.finalNeural = n ∧
      new.bestQuad + new.bestNeural = min ((l.rep r).bestQuad + (l.rep r).bestNeural) (twice / 2 + n) := by
  have hpartner' : exchangePartner (reduceWith l p r e twice n) e r = none := hpartner
  have hr' : r < (reduceWith l p r e twice n).reps.length := reduceWith_reps_length.symm ▸ hr
  obtain ⟨hquad, hneural, hbest⟩ := rep_capture_same (p := p) (e := e) hr'
  rw [rep_reduceWith_same hr] at hquad hneural hbest
  rw [afterReduction_of_alone hpartner', completeEpoch, Launch.rep_setRep_same (capture_reps_length.symm ▸ hr')]
  exact ⟨rfl, hquad, hneural, hbest⟩

end

end Sys2Proof.Machine

namespace Sys2Proof
open Machine

/-- Settles O53: each command's equation at its case gives the next state, and the block's new run what the clause says. -/
theorem epochsOfALaunch : Obligations.EpochsOfALaunch := by
  intro s c r b x q l p h hpart
  refine ⟨fun run hrun => ?_, fun e twice n hreducible he hsums hpartner => ?_⟩
  · have hb := (run?_some hrun).1
    refine ⟨fun hphase hsweep => ?_, fun source other v hneighbour hnone hother hsent => ?_,
      fun hphase hmore hheld hpassed hended htaken => ?_, fun hphase hwaited hmore => ?_,
      fun hstreamed hpaged hrank => exec_blockPageInComplete_of_next h hrun hstreamed hpaged hrank⟩
    · exact ⟨_, _, _, exec_epochEnd_of_swept h hpart hrun hphase hsweep, tblFind_setLaunch, Launch.run?_setRun hb,
        endedRun_snapshot, endedRun_bits, rfl, endedRun_phase_of_held, endedRun_phase_of_lacking⟩
    · exact ⟨_, _, _, exec_boundaryValuesReceived_of_sent h hpart hrun hneighbour hnone hother hsent, tblFind_setLaunch,
        Launch.run?_setRun hb, inboundOf_receiveValues hnone, receiveValues_bits .., rfl⟩
    · exact ⟨_, _, _, exec_epochStart_of_contributed h hpart hrun hphase hmore hheld hpassed hended htaken,
        tblFind_setLaunch, Launch.run?_setRun hb, rfl, rfl, rfl, rfl, rfl, rfl⟩
    · have hcount : Touches (Part.fires ++ [.dies, .engines]) (s.setLaunch c (l.setRun p r b (waitedRun run)))
          (countEngine (s.setLaunch c (l.setRun p r b (waitedRun run))) run.engine (·.epochWaits)
            (fun g k => { g with epochWaits := k }) causeAnl 1) := Touches.refl.countEngine
      refine ⟨_, l.setRun p r b (waitedRun run), _, exec_epochStart_of_waiting h hrun hphase hwaited hmore, ?_,
        Launch.run?_setRun hb, rfl, hphase, rfl, hcount.same .mem (by decide), ?_⟩
      · exact (congrArg (fun v : Spin => tblFind v.launches c) (hcount.same .spin (by decide))).trans tblFind_setLaunch
      · exact congrArg Engine.epochWaits (eng_countEngine one_ne_zero)
  · subst he
    have hr : r < l.reps.length := by
      rw [reducible, Bool.and_eq_true, decide_eq_true_eq] at hreducible
      exact hreducible.1
    obtain ⟨hdone, hquad, hneural, hbest⟩ := rep_afterReduction_same (twice := twice) (n := n) (p := p) hr hpartner
    exact ⟨_, _, exec_energyReduction_of_contributed h hpart hreducible hsums, tblFind_setLaunch, hdone, hquad, hneural,
      hbest, fun j hj => rep_afterReduction_ne hpartner hj, rfl⟩

end Sys2Proof
end

section
/-! PROOFS. Slots of scale streams: the check of a stream, and the slots a copy writes (R173, R174, R187, R194). -/

namespace Sys2Proof.Machine

theorem drop_eq_nth_cons {α : Type} {d : α} {l : List α} {k : Nat} (h : k < l.length) :
    l.drop k = nth d l k :: l.drop (k + 1) := by
  rw [List.drop_eq_getElem_cons h, nth, List.getElem?_eq_getElem h, Option.getD_some]

/-! ### The stream check (R187) -/

/-- A slot that the stream check passes as that of block `k`. -/
def SlotGood (k x : Nat) : Prop := slotTag x = blockTag k ∧ slotExp x ≤ 247

section
variable {num k x : Nat} {rest : List Nat}

theorem checkSlots_cons_of_good (h : SlotGood k x) : checkSlots num k (x :: rest) = checkSlots num (k + 1) rest := by
  obtain ⟨htag, hexp⟩ := h
  rw [checkSlots, if_neg (by simp [htag]), if_neg (Nat.not_lt.mpr hexp)]

theorem checkSlots_cons_of_tag (h : slotTag x ≠ blockTag k) : checkSlots num k (x :: rest) =
    .error (.record 0x6001 (k % 2 ^ 32) (tagRecord k num 0 (slotTag x))) := by
  rw [checkSlots, if_pos (by simp [h])]

theorem checkSlots_cons_of_exp (htag : slotTag x = blockTag k) (hexp : 247 < slotExp x) :
    checkSlots num k (x :: rest) = .error (.fault 0x6002 (k % 2 ^ 32) false) := by
  rw [checkSlots, if_neg (by simp [htag]), if_pos hexp]
  rfl

end

/-- Good slots are passed over. -/
theorem checkSlots_drop {num i : Nat} {slots : List Nat} {k : Nat} (hi : i ≤ slots.length)
    (h : ∀ j < i, SlotGood (k + j) (nth 0 slots j)) : checkSlots num k slots = checkSlots num (k + i) (slots.drop i) := by
  induction i generalizing slots k with
  | zero => rfl
  | succ i ih =>
    cases slots with
    | nil => exact absurd hi (Nat.not_succ_le_zero i)
    | cons x rest =>
      have hx : SlotGood k x := h 0 i.succ_pos
      have hrest : ∀ j < i, SlotGood (k + 1 + j) (nth 0 rest j) := fun j hj =>
        Nat.add_right_comm k j 1 ▸ h (j + 1) (Nat.succ_lt_succ hj)
      rw [checkSlots_cons_of_good hx, ih (Nat.le_of_succ_le_succ hi) hrest, Nat.add_right_comm k 1 i]
      rfl

/-! ### The slots of a copy (R173, R174, R194) -/

theorem blockTag_lt (k : Nat) : blockTag k < 2 ^ 4 := by
  unfold blockTag
  omega

theorem slotExp_lt (x : Nat) : slotExp x < 2 ^ 8 := Nat.mod_lt _ (by decide)

theorem slotEscapes_lt (x : Nat) : slotEscapes x < 2 ^ 4 := Nat.mod_lt _ (by decide)

/-- A slot of an escape count, an exponent code and a tag has these fields (R173). -/
theorem slot_fields {escapes code tag : Nat} (hescapes : escapes < 2 ^ 4) (hcode : code < 2 ^ 8) (htag : tag < 2 ^ 4) :
    let x := escapes * 2 ^ 12 + code * 2 ^ 4 + tag
    slotTag x = tag ∧ slotExp x = code ∧ slotEscapes x = escapes := by
  simp only [slotTag, slotExp, slotEscapes, bits]
  omega

@[simp] theorem length_retag (slots : List Nat) : (retag slots).length = slots.length := by
  simp [retag]

theorem nth_retag {slots : List Nat} {k : Nat} (h : k < slots.length) : nth 0 (retag slots) k =
    slotEscapes (nth 0 slots k) * 2 ^ 12 + slotExp (nth 0 slots k) * 2 ^ 4 + blockTag k := by
  simp [nth, retag, h]

end Sys2Proof.Machine

namespace Sys2Proof
open Machine

/-- Settles O38: the good slots before one are passed over (`checkSlots_drop`), and the check stops at the first bad one. -/
theorem streamsAreCheckedInOrder : Obligations.StreamsAreCheckedInOrder := by
  intro num slots
  refine ⟨fun hgood => ?_, fun k hk hgood => ?_⟩
  · rw [checkSlots_drop le_rfl (by simpa [SlotGood] using hgood), List.drop_length]
    rfl
  · have hfirst : checkSlots num 0 slots = checkSlots num k (nth 0 slots k :: slots.drop (k + 1)) := by
      rw [checkSlots_drop hk.le (by simpa [SlotGood] using hgood), Nat.zero_add, drop_eq_nth_cons hk]
    exact ⟨fun htag => hfirst.trans (checkSlots_cons_of_tag htag),
      fun htag hexp => hfirst.trans (checkSlots_cons_of_exp htag hexp)⟩

end Sys2Proof
end

section
/-! PROOFS. Copy and convert, and the slips that pairing finds (R185, R188, R190, R194, R195). -/

namespace Sys2Proof.Machine

/-! ### The slip that is reported (R190) -/

/-- A slip of an operand and block no higher than another's. -/
def SlipLe (k y : TagSlip) : Prop := k.operand < y.operand ∨ (k.operand = y.operand ∧ k.block ≤ y.block)

theorem SlipLe.refl (k : TagSlip) : SlipLe k k := .inr ⟨rfl, le_rfl⟩

theorem SlipLe.trans {k l y : TagSlip} (h : SlipLe k l) (h' : SlipLe l y) : SlipLe k y := by
  unfold SlipLe at *
  omega

/-- Of a slip and the lowest of the slips behind it, the lower is reported. -/
theorem lowestSlip_cons (l : TagSlip) (rest : List TagSlip) :
    (lowestSlip rest = none ∧ lowestSlip (l :: rest) = some l) ∨
    ∃ y, lowestSlip rest = some y ∧
      ((lowestSlip (l :: rest) = some y ∧ SlipLe y l) ∨ (lowestSlip (l :: rest) = some l ∧ SlipLe l y)) := by
  rw [lowestSlip]
  cases lowestSlip rest with
  | none => exact .inl ⟨rfl, rfl⟩
  | some y =>
    refine .inr ⟨y, rfl, ?_⟩
    dsimp only
    split
    · next hlower =>
      simp only [Bool.or_eq_true, Bool.and_eq_true, decide_eq_true_eq, beq_iff_eq] at hlower
      exact .inl ⟨rfl, hlower.imp_right fun h => ⟨h.1, h.2.le⟩⟩
    · next hlower =>
      simp only [Bool.or_eq_true, Bool.and_eq_true, decide_eq_true_eq, beq_iff_eq] at hlower
      refine .inr ⟨rfl, ?_⟩
      unfold SlipLe
      omega

theorem lowestSlip_eq_none {l : List TagSlip} : lowestSlip l = none ↔ l = [] := by
  cases l with
  | nil => simp [lowestSlip]
  | cons l rest =>
    obtain ⟨-, h⟩ | ⟨y, -, ⟨h, -⟩ | ⟨h, -⟩⟩ := lowestSlip_cons l rest <;> simp [h]

/-- The slip reported is one of those found, and none of them is lower. -/
theorem lowestSlip_eq_some {l : List TagSlip} {k : TagSlip} (h : lowestSlip l = some k) : k ∈ l ∧ ∀ y ∈ l, SlipLe k y := by
  induction l generalizing k with
  | nil => cases h
  | cons l rest ih =>
    simp only [List.forall_mem_cons]
    obtain ⟨hnone, hl⟩ | ⟨y, hy, hcase⟩ := lowestSlip_cons l rest
    · obtain rfl : l = k := Option.some.inj (hl.symm.trans h)
      rw [lowestSlip_eq_none.mp hnone]
      exact ⟨List.mem_cons_self, .refl l, List.forall_mem_nil _⟩
    · obtain ⟨hmem, hle⟩ := ih hy
      obtain ⟨hl, hlow⟩ | ⟨hl, hlow⟩ := hcase
      · obtain rfl : y = k := Option.some.inj (hl.symm.trans h)
        exact ⟨List.mem_cons_of_mem _ hmem, hlow, hle⟩
      · obtain rfl : l = k := Option.some.inj (hl.symm.trans h)
        exact ⟨List.mem_cons_self, .refl l, fun z hz => hlow.trans (hle z hz)⟩

/-! ### Slips counted and logged (R188) -/

section
variable {s : State} {x : Cmd} {q : Queue} {slips : List TagSlip}

theorem eng_logFault {e code detail die engine : Nat} {portB : Bool} {who : Option (Nat × Nat × Nat)} :
    (logFault s code detail die engine portB who).eng e = s.eng e := by
  have h : Touches (Part.fires ++ [.flt]) s (logFault s code detail die engine portB who) := Touches.refl.logFault
  exact congrArg (tblGet {} · e) (h.same .engines (by decide))

theorem streamTag_noteSlip {k : TagSlip} :
    ((noteSlip x q s k).eng k.engine).streamTag = (statUp (s.eng k.engine).streamTag 1).1 := by
  unfold noteSlip
  rw [eng_logFault, eng_countEngine one_ne_zero]

theorem mem_foldl_noteSlip : (slips.foldl (noteSlip x q) s).mem = s.mem := by
  have h : Touches (Part.fires ++ [.dies, .engines, .flt]) s (slips.foldl (noteSlip x q) s) :=
    Touches.refl.foldl fun _ _ hv => hv.noteSlip
  exact h.same .mem (by decide)

/-! ### Pairing (R188) -/

variable {os : List Operand} {dests : List (Nat × Nat)} {k : Unit → Done}

theorem paired_of_clean (h : slips.filter (slipReal q os) = []) : paired s x q slips os dests k = k () := by
  rw [paired, h]
  rfl

theorem paired_of_slip {l : TagSlip} (h : lowestSlip (slips.filter (slipReal q os)) = some l) :
    paired s x q slips os dests k =
      .bad (dests.foldl (fun s r => scrambleVa s q.port q.pasid r.1 r.2) ((slips.filter (slipReal q os)).foldl (noteSlip x q) s))
        0x6001 (l.block % 2 ^ 32) (tagRecord l.block l.operand (if l.moduleCrossing then 2 else 1) l.found) false := by
  rw [paired, unslipped, h]

@[simp] theorem writing_ok {α : Type} (a : α) (k : α → Done) : writing s q dests (.ok a) k = k a := rfl

end

/-! ### The bodies of copy and convert (R194) -/

/-- A body that faults with an effect of its own ends its command with the fault. -/
theorem takeCmd_bad {s u : State} {c opcode : Nat} {stages : List Stage} {x : Cmd} {q : Queue} {code detail : Nat}
    {r : BitVec 128} {logged : Bool} {body : State → Cmd → Queue → Done} (h : CommandAt s c opcode stages x q)
    (hb : body s x q = .bad u code detail r logged) :
    act true s (fun s => takeCmd s c opcode stages body) = nextKeeping s (finishCmd u c code detail r logged false) := by
  rw [takeCmd_run h, hb]
  rfl

section
variable {s v : State} {c : Nat} {x : Cmd} {q : Queue} {a b : Operand} {l : Loaded} {slips : List TagSlip}

theorem exec_copy : exec (.copy c slips) s =
    act true s fun s => takeCmd s c 0x10 [.started, .waiting] (copyBody slips) := rfl

theorem exec_convert : exec (.convert c slips) s =
    act true s fun s => takeCmd s c 0x11 [.started, .waiting] (convertBody slips) := rfl

section
variable (hpair : tensorPair s x q copyRefused = .ok (a, b)) (hload : loadOperands s q [a] = .ok [l])
include hpair hload

/-- A copy onto its own record goes on to pairing, with nothing to write. -/
theorem copyBody_of_same (hsame : a.t.raw = b.t.raw) : copyBody slips s x q =
    paired s x q slips [a] [] fun _ => writing s q [] (copyWrites s q l b.t) fun _ => .ok s 0 := by
  simp [copyBody, hpair, hload, hsame]

theorem copyBody_of_written {ws : List (Nat × List Byte)} (hclean : slips.filter (slipReal q [a]) = [])
    (hws : copyWrites s q l b.t = .ok ws) (hother : a.t.raw ≠ b.t.raw) (hover : overlapWith s q b.t [a] = .ok ())
    (hroom : l.side.length ≤ if b.t.sideAddr = 0 then 0 else b.t.sideCap) (hwrite : writeRuns s q ws = .ok v) :
    copyBody slips s x q = .ok v 0 := by
  simp [copyBody, hpair, hload, hother, hover, hroom, paired_of_clean hclean, hws, hwrite]

end

theorem convertBody_of_written {vals : List (List Val)} {tally : Tally}
    (hpair : tensorPair s x q convertRefused = .ok (a, b)) (hover : overlapWith s q b.t [a] = .ok ())
    (hload : loadOperands s q [a] = .ok [l]) (hclean : slips.filter (slipReal q [a]) = [])
    (hvals : readValues s q l = .ok vals) (hwrite : writeTensor s q b.t vals = .ok (v, tally)) :
    convertBody slips s x q = .ok v tally.result := by
  simp only [convertBody, hpair, hover, hload, paired_of_clean hclean, hvals, hwrite, within_ok, writing_ok]

end

end Sys2Proof.Machine

namespace Sys2Proof
open Machine

/-- Settles O37: a checked body completes or faults at pairing, and its command ends with it; the slip reported and the slots of
a copy are lemmas of their own (`lowestSlip_eq_some`, `nth_retag`). -/
theorem copiesKeepTheTensor : Obligations.CopiesKeepTheTensor := by
  refine ⟨fun s c x q a b l slips => ⟨fun hc hpair hload => ⟨fun ws hclean hws => ⟨fun hsame => ?_, ?_⟩,
    fun k hk hsame => ⟨?_, mem_foldl_noteSlip, fun hone => ?_⟩⟩, ?_⟩,
    fun l => ⟨lowestSlip_eq_none, fun k hk => lowestSlip_eq_some hk⟩, fun slots k _ hk => ?_⟩
  · refine exec_copy.trans (takeCmd_ok hc ?_)
    rw [copyBody_of_same hpair hload hsame, paired_of_clean hclean, hws, writing_ok]
  · exact fun v hother hover hroom hwrite =>
      exec_copy.trans (takeCmd_ok hc (copyBody_of_written hpair hload hclean hws hother hover hroom hwrite))
  · refine exec_copy.trans (takeCmd_bad hc ?_)
    rw [copyBody_of_same hpair hload hsame, paired_of_slip hk]
    rfl
  · rw [hone]
    exact streamTag_noteSlip
  · exact fun vals v tally hc hpair hover hload hclean hvals hwrite =>
      exec_convert.trans (takeCmd_ok hc (convertBody_of_written hpair hover hload hclean hvals hwrite))
  · rw [nth_retag hk]
    exact ⟨length_retag slots, slot_fields (slotEscapes_lt _) (slotExp_lt _) (blockTag_lt k)⟩

end Sys2Proof
end

section
/-! PROOFS. The time limit and the shutter, and the context switch for real-time queues (R229-R231, R290-R292). -/

namespace Sys2Proof.Machine

/-! ### Counting below the top (R457, R458) -/

theorem statUp_of_lt {y : Stat} {n : Nat} (h : y.count + n < statTop) :
    statUp y n = ({ y with count := y.count + n }, false) := by
  have hmin : min statTop (y.count + n) = y.count + n := Nat.min_eq_right h.le
  simp [statUp, hmin, h.ne]

section
variable {s : State} {c : Nat} {x : Cmd}

theorem countPort_of_lt {p : Port} {get : PortState → Stat} {put : PortState → Stat → PortState} {source n : Nat}
    (h : (get (s.port p)).count + n < statTop) : countPort s p get put source n =
      s.modPort p fun y => put y { get y with count := (get y).count + n } := by
  rw [countPort, statUp_of_lt h]
  rfl

@[simp] theorem State.port_setCmd {p : Port} : (s.setCmd c x).port p = s.port p := by
  cases p <;> rfl

theorem State.modCmd_of_some {f : Cmd → Cmd} (h : s.cmd? c = some x) : s.modCmd c f = s.setCmd c (f x) := by
  rw [State.modCmd, h]

/-! ### The shutter (R291, R292) -/

section
variable {q : Queue} {h : Shutter}

theorem startShutter_of_none (hx : s.cmd? c = some x) (hq : s.queue? x.queue = some q) (hnone : x.shutter = none) :
    startShutter s c = s.setCmd c { x with shutter := some { left := q.engines } } := by
  rw [startShutter, State.modCmd_of_some hx]
  simp [hnone, hq]

/-- A command past its limit gets the shutter, and its port counts it. -/
theorem commandTimeLimit_of_limited (hx : s.cmd? c = some x) (hq : s.queue? x.queue = some q) (hstage : x.stage ≠ .committing)
    (hnone : x.shutter = none) (hdead : q.state ≠ .dead) (hop : dOpcode x.desc ≠ 0x71)
    (hpaused : ∀ g ∈ q.engines, ∀ k, (s.eng g).context = some k → c ∉ k.paused)
    (hcount : (s.port q.port).shutter.count + 1 < statTop) : commandTimeLimit s c =
      (s.setCmd c { x with shutter := some { left := q.engines } }).modPort q.port fun y =>
        { y with shutter := { y.shutter with count := y.shutter.count + 1 } } := by
  have hfree : (q.engines.any fun e => (s.eng e).context.any fun k => k.paused.contains c) = false := by
    simpa [Option.any_eq_false] using hpaused
  simp only [commandTimeLimit, hx, hq, hfree, beq_eq_false_iff_ne.2 hstage, hnone, beq_eq_false_iff_ne.2 hdead,
    beq_eq_false_iff_ne.2 hop, Option.isSome_none, Bool.or_self, Bool.false_eq_true, if_false]
  rw [startShutter_of_none hx hq hnone, countPort_of_lt (by rwa [State.port_setCmd])]

/-- An engine whose accesses do not drain is killed. -/
theorem execShutterDrainTimeout_of_left {e : Nat} (hworks : s.works = true) (he : isEngine e = true) (hx : s.cmd? c = some x)
    (hshut : x.shutter = some h) (hleft : e ∈ h.left) (hout : outstanding s c x = true) :
    execShutterDrainTimeout c e s = nextKeeping s
      (s.setCmd c { x with shutter := some { left := h.left.filter (· != e), killed := h.killed ++ [e] } }) := by
  rw [execShutterDrainTimeout, act_works hworks he]
  simp [hx, hshut, hleft, hout]

/-- Once all engines have acknowledged, the record says 0x4020, and whether an engine was killed. -/
theorem shutterComplete_of_acknowledged (hx : s.cmd? c = some x) (hq : s.queue? x.queue = some q) (hshut : x.shutter = some h)
    (hdead : q.state ≠ .dead) (hack : acknowledged s c x = true) : shutterComplete s c =
      finishCmd (scrambleDests s x) c 0x4020 (if h.killed = [] then 0 else 1) 0 (!q.silent) true := by
  have hkilled : bit01 (!h.killed.isEmpty) = if h.killed = [] then 0 else 1 := by
    cases h.killed <;> rfl
  simp [shutterComplete, hx, hq, hshut, hdead, hack, hkilled]

end

/-! ### Context save (R229, R290) -/

/-- A change of one command changes the table of commands alone. -/
theorem State.modCmd_eq {f : Cmd → Cmd} : s.modCmd c f = { s with cmds := (s.modCmd c f).cmds } := by
  unfold State.modCmd
  split <;> rfl

theorem foldl_modCmd_eq {f : Cmd → Cmd} {l : List (Nat × Cmd)} : l.foldl (fun s x => s.modCmd x.1 f) s =
    { s with cmds := (l.foldl (fun s x => s.modCmd x.1 f) s).cmds } := by
  induction l generalizing s with
  | nil => rfl
  | cons y l ih =>
    rw [List.foldl_cons, ih, State.modCmd_eq]

/-- The context that a save of an engine keeps. -/
def savedContext (s : State) (e : Nat) : SavedContext :=
  let command := ((normalOn s e).find? fun x => (tblFind s.jobs x.1).any fun j => j.slot < 4).map (·.1)
  { slots := (s.eng e).slots, paused := (normalOn s e).map (·.1), command := command,
    images := ((s.eng e).slots.zip [0, 1, 2, 3]).map (slotImage s e), shadow := command.bind (tblFind s.jobs) }

section
variable {e : Nat}

theorem State.eng_setEng {g : Engine} : (s.setEng e g).eng e = g := tblGet_set_same ..

theorem contextSave_of_preempting (hpre : (s.eng e).preempting = true) (hnone : (s.eng e).context = none)
    (hstage : ∀ y ∈ normalOn s e, y.2.stage ≠ .committing) : contextSave s e =
      (normalOn s e).foldl (fun s x => s.modCmd x.1 fun y => { y with preempted := true })
        (s.setEng e { s.eng e with
          context := some (savedContext s e), slots := [.free, .free, .free, .free], preempting := false }) := by
  have hcommits : ((normalOn s e).any fun x => x.2.stage == .committing) = false := by
    simpa using hstage
  simp only [contextSave, hpre, hnone, hcommits, Bool.not_true, Option.isSome_none, Bool.or_self, Bool.false_eq_true, if_false]
  rfl

/-! ### Context restore (R230) -/

theorem contextRestore_of_good {k : SavedContext} (hk : (s.eng e).context = some k) (hreal : realTimeOn s e = false)
    (hpre : (s.eng e).preempting = false) (hfree : ∀ y ∈ (s.eng e).slots, y = .free) (hgood : k.imagesGood = true) :
    contextRestore s e = reloadShadow k (reloadImages e k
      (restartTables e (s.setEng e { s.eng e with context := none, slots := k.slots }))) := by
  have hslots : ((s.eng e).slots.any fun y => y != .free) = false := by
    simpa using hfree
  simp only [contextRestore, hk, hreal, hpre, hslots, hgood, Bool.or_self, Bool.false_eq_true, if_false, if_true]

end

/-! ### The commands -/

theorem exec_commandTimeLimit : exec (.commandTimeLimit c) s = act true s fun s => commandTimeLimit s c := rfl

theorem exec_shutterDrainTimeout {e : Nat} : exec (.shutterDrainTimeout c e) s = execShutterDrainTimeout c e s := rfl

theorem exec_shutterComplete : exec (.shutterComplete c) s = act true s fun s => shutterComplete s c := rfl

theorem exec_contextSave {e : Nat} : exec (.contextSave e) s = act (isEngine e) s fun s => contextSave s e := rfl

theorem exec_contextRestore {e : Nat} : exec (.contextRestore e) s = act (isEngine e) s fun s => contextRestore s e := rfl

end

end Sys2Proof.Machine

namespace Sys2Proof
open Machine

/-- Settles O9: each command is the equation of its case; a save leaves the engine with its context, and marks commands. -/
theorem shutterAndContextSwitch : Obligations.ShutterAndContextSwitch := by
  intro s c x q e hworks hx hq
  refine ⟨fun hstage hnone hdead hop hpaused hcount => ?_, fun h he hshut hleft hout => ?_, fun h hshut hdead hack => ?_,
    fun he hpre hnone hstage => ?_, fun k he hk hreal hpre hfree hgood => ?_⟩
  · rw [exec_commandTimeLimit, act_works hworks rfl, commandTimeLimit_of_limited hx hq hstage hnone hdead hop hpaused hcount]
    exact nextKeeping_eq (State.modPort_pending ..)
  · exact exec_shutterDrainTimeout.trans (execShutterDrainTimeout_of_left hworks he hx hshut hleft hout)
  · rw [exec_shutterComplete, act_works hworks rfl, shutterComplete_of_acknowledged hx hq hshut hdead hack]
  · have hsave := (contextSave_of_preempting hpre hnone hstage).trans foldl_modCmd_eq
    have hkept : contextSave s e = { s with engines := (contextSave s e).engines, cmds := (contextSave s e).cmds } := by
      rw [hsave]
      rfl
    refine ⟨contextSave s e, savedContext s e, ?_, rfl, rfl, rfl, rfl, rfl, ?_, hkept⟩
    · rw [exec_contextSave, act_works hworks he]
      exact nextKeeping_eq (by rw [hkept])
    · exact (congrArg (State.eng · e) hsave).trans State.eng_setEng
  · rw [exec_contextRestore, act_works hworks he, contextRestore_of_good hk hreal hpre hfree hgood]

end Sys2Proof
end

section
/-! PROOFS. Group sequences sum exactly or overflow, and combine to the exact sum under any split (R202, R203, R205). -/

namespace Sys2Proof.Machine

/-! ### Aligned products (R201, R202) -/

theorem rne_intCast (n : Int) : rne (n : Rat) = n := by
  simp [rne]

theorem pow2_zero : pow2 0 = 1 := by
  simp [pow2]

/-- A product at a scale, rounded to an integer (R202). -/
def aligned (scale : Int) (p : Rat) : Int := rne (p * pow2 (-scale))

/-! ### The accumulator of a group sequence (R202, R203) -/

/-- From a start, a term leaves int64, or the sum after a group. -/
def GroupsOverflow (g : Nat) (acc : Int) (al : List Int) : Prop :=
  (∃ a ∈ al, outside64 a = true) ∨ ∃ k, k * g < al.length ∧ outside64 (acc + (al.take ((k + 1) * g)).sum) = true

theorem not_groupsOverflow_nil {g : Nat} {acc : Int} : ¬ GroupsOverflow g acc [] := by
  simp [GroupsOverflow]

section
variable {g : Nat} {acc : Int} {al : List Int}

/-- The sums after a group: the first group's, and those from its sum on. -/
theorem exists_groupSum_iff (hal : al ≠ []) :
    (∃ k, k * g < al.length ∧ outside64 (acc + (al.take ((k + 1) * g)).sum) = true) ↔
      outside64 (acc + (al.take g).sum) = true ∨
        ∃ k, k * g < (al.drop g).length ∧ outside64 (acc + (al.take g).sum + ((al.drop g).take ((k + 1) * g)).sum) = true := by
  have hshift (k : Nat) : (k + 1) * g < al.length ↔ k * g < (al.drop g).length := by
    rw [List.length_drop, Nat.succ_mul]
    omega
  have hsum (k : Nat) : (al.take ((k + 1 + 1) * g)).sum = (al.take g).sum + ((al.drop g).take ((k + 1) * g)).sum := by
    rw [Nat.succ_mul, Nat.add_comm, List.take_add, List.sum_append]
  rw [← Nat.or_exists_add_one]
  simp only [hshift, hsum, Nat.zero_mul, Nat.zero_add, Nat.one_mul, List.length_pos_iff, hal, ne_eq, not_false_eq_true, true_and,
    Int.add_assoc]

/-- The first group overflows, or those behind it do from its sum on. -/
theorem groupsOverflow_iff (hal : al ≠ []) : GroupsOverflow g acc al ↔
    ((∃ a ∈ al.take g, outside64 a = true) ∨ outside64 (acc + (al.take g).sum) = true) ∨
      GroupsOverflow g (acc + (al.take g).sum) (al.drop g) := by
  have hterms : (∃ a ∈ al, outside64 a = true) ↔
      (∃ a ∈ al.take g, outside64 a = true) ∨ ∃ a ∈ al.drop g, outside64 a = true := by
    conv_lhs => rw [← List.take_append_drop g al]
    simp only [List.mem_append, or_and_right, exists_or]
  rw [GroupsOverflow, GroupsOverflow, hterms, exists_groupSum_iff hal]
  exact or_or_or_comm

end

section
variable {scale : Int} {g : Nat} {terms : List Rat}

/-- One group is added where terms are left. -/
theorem addGroups_of_ne_nil {fuel : Nat} {acc : Int} (h : terms ≠ []) : addGroups scale g (fuel + 1) acc terms =
    let al := (terms.map (aligned scale)).take g
    if (∃ a ∈ al, outside64 a = true) ∨ outside64 (acc + al.sum) = true then none
    else addGroups scale g fuel (acc + al.sum) (terms.drop g) := by
  simp only [addGroups, List.isEmpty_iff, h, if_false, List.map_take, Bool.or_eq_true, List.any_eq_true]
  rfl

/-- With fuel for every group, a sequence overflows where a term or the sum after a group does. -/
theorem addGroups_eq_none_iff {fuel : Nat} {acc : Int} (hg : 0 < g) (hfuel : terms.length < fuel) :
    addGroups scale g fuel acc terms = none ↔ GroupsOverflow g acc (terms.map (aligned scale)) := by
  induction fuel generalizing acc terms with
  | zero => exact absurd hfuel (Nat.not_lt_zero _)
  | succ fuel ih =>
    by_cases h : terms = []
    · subst h
      exact iff_of_false (by simp [addGroups]) not_groupsOverflow_nil
    · have hlen := List.length_pos_of_ne_nil h
      rw [addGroups_of_ne_nil h, groupsOverflow_iff (by simpa using h)]
      dsimp only
      split
      · next hbad => exact iff_of_true rfl (.inl hbad)
      · next hgood =>
        rw [ih (by rw [List.length_drop]; omega), List.map_drop]
        exact (or_iff_right hgood).symm

/-- A sequence that does not overflow gives the exact sum of the aligned products, whatever the group size. -/
theorem addGroups_eq_sum {fuel : Nat} {acc v : Int} (hg : 0 < g) (hfuel : terms.length < fuel)
    (hv : addGroups scale g fuel acc terms = some v) : v = acc + (terms.map (aligned scale)).sum := by
  induction fuel generalizing acc terms with
  | zero => exact absurd hfuel (Nat.not_lt_zero _)
  | succ fuel ih =>
    by_cases h : terms = []
    · subst h
      simpa [addGroups] using hv.symm
    · have hlen := List.length_pos_of_ne_nil h
      rw [addGroups_of_ne_nil h] at hv
      dsimp only at hv
      split at hv
      · cases hv
      · rw [ih (by rw [List.length_drop]; omega) hv, Int.add_assoc, List.map_drop, ← List.sum_append, List.take_append_drop]

end

/-! ### Partials of a split combine exactly (R205) -/

/-- Partials at the base scale combine to their sum when that is in int64. -/
theorem combine_of_base {strict : Bool} {base : Int} {vs : List Int} (h : outside64 vs.sum = false) :
    combine strict base (vs.map fun v => (v, base)) 3 base 0 = (0, .ok (vs.sum, base)) := by
  have htotal : ((vs.map fun v => (v, base)).map fun p => rne ((p.1 : Rat) * pow2 (p.2 - base))).sum = vs.sum := by
    simp [pow2_zero, rne_intCast, Function.comp_def]
  simp only [combine, htotal, h, Bool.not_false, if_true]

/-- The partials of a split add up to the exact sum of the whole range. -/
theorem sum_partials {base : Int} {pieces : List (Nat × List Rat)} {vs : List Int} (hg : ∀ p ∈ pieces, 0 < p.1)
    (hvs : pieces.map (fun p => addGroups base p.1 (p.2.length + 1) 0 p.2) = vs.map some) :
    vs.sum = ((pieces.flatMap (·.2)).map (aligned base)).sum := by
  induction pieces generalizing vs with
  | nil =>
    obtain rfl : vs = [] := List.map_eq_nil_iff.1 hvs.symm
    rfl
  | cons p pieces ih =>
    obtain ⟨v, vs, rfl, hv, hrest⟩ := List.map_eq_cons_iff.1 hvs.symm
    rw [List.forall_mem_cons] at hg
    rw [List.sum_cons, ih hg.2 hrest.symm, addGroups_eq_sum hg.1 (Nat.lt_succ_self _) hv.symm, Int.zero_add, List.flatMap_cons,
      List.map_append, List.sum_append]

end Sys2Proof.Machine

namespace Sys2Proof
open Machine

/-- Settles O39: a group sequence is followed group by group, and partials of one scale combine to their sum. -/
theorem sumsAreExactUnderAnySplit : Obligations.SumsAreExactUnderAnySplit := by
  refine ⟨fun scale g terms hg => ⟨?_, fun v hv => ?_⟩, fun strict base pieces vs hg hvs => ?_⟩
  · rw [addGroups_eq_none_iff hg (Nat.lt_succ_self _)]
    simp only [GroupsOverflow, Int.zero_add]
    rfl
  · exact (addGroups_eq_sum hg (Nat.lt_succ_self _) hv).trans (Int.zero_add _)
  · intro total htotal
    have hsum : vs.sum = total := sum_partials hg hvs
    rw [← hsum] at htotal ⊢
    exact combine_of_base htotal

end Sys2Proof
end

section
/-! PROOFS. Matrix multiply, convolve and sum start, run and commit (R200-R210, R216-R222, R233, R399). -/

namespace Sys2Proof.Machine

/-! ### The end of a command changes of an engine only its slots and its saved context (R228, R278) -/

/-- From `s` to `t` every engine keeps all but its slots and its saved context. -/
def SlotsOnly (s t : State) : Prop := ∀ e, ∃ slots context, t.eng e = { s.eng e with slots := slots, context := context }

section
variable {s u t : State}

theorem SlotsOnly.refl : SlotsOnly s s := fun e => ⟨(s.eng e).slots, (s.eng e).context, rfl⟩

/-- A change of other parts than the engines. -/
theorem SlotsOnly.apart (h : SlotsOnly s u)
    (ht : Touches (Part.stops ++ [.qfe]) u u → Touches (Part.stops ++ [.qfe]) u t) : SlotsOnly s t := by
  have heng : t.engines = u.engines := (ht .refl).same .engines (by decide)
  intro e
  rw [State.eng, heng]
  exact h e

theorem SlotsOnly.ite {p : Prop} {_ : Decidable p} (h : SlotsOnly s u) (h' : SlotsOnly s t) :
    SlotsOnly s (if p then u else t) := by
  split
  · exact h
  · exact h'

theorem SlotsOnly.foldl {α : Type} {f : State → α → State} {l : List α} (h : SlotsOnly s u)
    (hf : ∀ v a, SlotsOnly s v → SlotsOnly s (f v a)) : SlotsOnly s (l.foldl f u) := by
  induction l generalizing u with
  | nil => exact h
  | cons a l ih => exact ih (hf _ _ h)

theorem SlotsOnly.modEng {i : Nat} {slots : Engine → List SlotState} {context : Engine → Option SavedContext}
    (h : SlotsOnly s u) : SlotsOnly s (u.modEng i fun g => { g with slots := slots g, context := context g }) := by
  intro e
  by_cases he : e = i
  · subst he
    obtain ⟨sl, cx, hu⟩ := h e
    exact ⟨slots (u.eng e), context (u.eng e), by rw [eng_modEng]; dsimp only; rw [hu]⟩
  · obtain ⟨sl, cx, hu⟩ := h e
    exact ⟨sl, cx, (tblGet_set_ne _ _ _ he).trans hu⟩

theorem SlotsOnly.freeSlots {l : Nat} (h : SlotsOnly s u) : SlotsOnly s (freeSlots u l) := by
  unfold Machine.freeSlots
  split
  · exact h.foldl fun _ _ hv => hv.modEng
  · exact h

theorem SlotsOnly.dropLaunch {l : Nat} (h : SlotsOnly s u) : SlotsOnly s (dropLaunch u l) := by
  unfold Machine.dropLaunch
  exact h.freeSlots.apart fun h => h.rest

theorem SlotsOnly.launchWritten {q seq : Nat} (h : SlotsOnly s u) : SlotsOnly s (launchWritten u q seq) := by
  unfold Machine.launchWritten
  extract_lets v
  have hv : SlotsOnly s v := by
    unfold v
    split
    · exact h.dropLaunch
    · exact h
  clear_value v
  split
  · exact hv.apart fun h => h.dropGraphLaunch
  · exact hv

theorem SlotsOnly.endLaunch {c : Nat} {x : Cmd} {code : Nat} (h : SlotsOnly s u) : SlotsOnly s (endLaunch u c x code) := by
  unfold Machine.endLaunch
  split
  · exact h
  · extract_lets v
    have hv : SlotsOnly s v := .ite h h.freeSlots
    exact .ite h.dropLaunch (hv.apart fun h => h.rest)

theorem SlotsOnly.releaseClaims {c : Nat} (h : SlotsOnly s u) : SlotsOnly s (releaseClaims u c) := by
  unfold Machine.releaseClaims
  split
  · split
    · extract_lets v
      have hv : SlotsOnly s v := h.foldl fun _ _ hv => hv.modEng
      exact hv.apart fun h => h.rest
    · exact h.apart fun h => h.rest
  · exact h

theorem SlotsOnly.flushRecords {fuel q : Nat} (h : SlotsOnly s u) : SlotsOnly s (flushRecords fuel u q) := by
  induction fuel generalizing u with
  | zero => exact h
  | succ fuel ih =>
    unfold Machine.flushRecords
    split
    · exact h
    · split
      · exact h
      · split
        · next e =>
          extract_lets w1 x w2
          have hw2 : SlotsOnly s w2 := .launchWritten (h.apart fun h => (h.writeVa e).pokeVa.setQueue.pollReset)
          exact ih (.ite (hw2.apart fun h => h.msixTrigger) hw2)
        · exact h.apart fun h => h.askPage.setQueue
        · exact h
        · exact h.apart fun h => h.queueError

theorem SlotsOnly.putRecord {q : Nat} {r : Record} (h : SlotsOnly s u) : SlotsOnly s (putRecord u q r) := by
  unfold Machine.putRecord
  split
  · exact h
  · exact .ite h (.flushRecords (h.apart fun h => h.setQueue.haltFor))

theorem SlotsOnly.finishCmd {c code detail : Nat} {result : BitVec 128} {logged shuttered : Bool} (h : SlotsOnly s u) :
    SlotsOnly s (finishCmd u c code detail result logged shuttered) := by
  unfold Machine.finishCmd
  split
  · exact h
  · extract_lets cut dropped released told
    have hc : SlotsOnly s cut := .ite h (h.apart fun h => h.cutOffStore)
    clear_value cut
    have hd : SlotsOnly s dropped :=
      .apart (.releaseClaims (hc.endLaunch.apart fun h => .rest h.endGraphLaunch)) fun h => h.dropCmd
    clear_value dropped
    have ht : SlotsOnly s told := by
      refine hd.apart fun h => ?_
      dsimp only [told]
      split
      · exact h.releaseFlows.logOnQueue
      · exact h.releaseFlows
    clear_value told
    split
    · exact ht.apart fun h => h.nodeFinish
    · split
      · exact ht
      · exact ht.putRecord

theorem SlotsOnly.accReplay (h : SlotsOnly s t) {e : Nat} : (t.eng e).accReplay = (s.eng e).accReplay := by
  obtain ⟨slots, context, he⟩ := h e
  rw [he]

end

/-! ### Starting (R209 step 1, R233) -/

@[simp] theorem pausing_ok {α : Type} {s : State} {c : Nat} {q : Queue} {dests : List (Nat × Nat)} (a : α) (k : α → Done) :
    pausing s c q dests (.ok a) k = k a := rfl

section
variable {s : State} {c : Nat} {x : Cmd} {q : Queue}

/-- The job of a slot-naming command that starts, from its operands and its shape. -/
def startedJob (x : Cmd) (os : List Operand) (sh : Shape) : AccJob :=
  { records := os.map (·.t.raw), slot := dSlot x.desc, base := dScale x.desc, strict := dStrict x.desc, addTo := dAddTo x.desc,
    keep := dKeep x.desc, noWrite := dNoWrite x.desc, dims := sh.dims, kLen := sh.kLen, group := sh.group, fuse := x.fuse }

theorem startSlot_run {os : List Operand} {sh : Shape} {ls : List Loaded}
    (hdesc : needDesc x.desc 0x3033 (slotFields x.desc ++ (if dOpcode x.desc == 0x21 then convFields x.desc else [])) = .ok ())
    (hread : readOperands s q x.kept (slotOperands x.desc (sourcesOf (dOpcode x.desc))) = .ok os) (hcheck : check1 os = .ok ())
    (hshape : shapeOf x.desc os = .ok sh) (hdest : destShape os (sourcesOf (dOpcode x.desc)).length sh.dims = .ok ())
    (hstreams : slotStreams s q os (sourcesOf (dOpcode x.desc)).length (refusedSources x.desc os) = .ok ls)
    (hclaim : claimCheck s x.queue (dSlot x.desc) q.engines = .ok ()) (harray : arrayCheck s x q sh.dims = .ok ()) :
    startSlot c s x q =
      let v := markSlots s q.engines (dSlot x.desc) (.claimed x.queue)
      .run ({ v with jobs := tblPut v.jobs c (startedJob x os sh) }.modCmd c fun y =>
        { y with
          dests := if dKeep x.desc || dAddTo x.desc then []
            else ((operandOf os (sourcesOf (dOpcode x.desc)).length).map Tensor.destExtent).getD []
          kept := ((slotOperands x.desc (sourcesOf (dOpcode x.desc))).map fun (e : Nat × Nat × Bool × Bool) =>
            e.2.1).zip (startedJob x os sh).records }) := by
  simp only [startSlot, hdesc, hread, hcheck, hshape, hdest, hstreams, hclaim, harray, within_ok]
  cases operandOf os (sourcesOf (dOpcode x.desc)).length with
  | some t => rfl
  | none =>
    rw [Option.map_none, Option.getD_none, ite_self]
    rfl

theorem exec_matrixMultiply : exec (.matrixMultiply c) s =
    act true s fun s => takeCmd s c 0x20 [.started, .waiting] (startSlot c) := rfl

theorem exec_convolve : exec (.convolve c) s = act true s fun s => takeCmd s c 0x21 [.started, .waiting] (startSlot c) := rfl

theorem exec_sum : exec (.sum c) s = act true s fun s => takeCmd s c 0x30 [.started, .waiting] (startSlot c) := rfl

/-! ### Running slot-naming commands -/

/-- A running slot-naming command is taken further by its body. -/
theorem goOnSlot_run {stages : List Stage} {body : State → Cmd → Queue → Done} {ok : Bool} (hok : ok = true)
    (h : CommandAt s c (dOpcode x.desc) stages x q) (hop : dOpcode x.desc ∈ [0x20, 0x21, 0x30]) :
    act ok s (fun s => goOnSlot s c stages body) = nextKeeping s (settle s c q (body s x q)) := by
  have hx : s.cmd? c = some x := h.2.1
  have hslot : (dOpcode x.desc == 0x20 || dOpcode x.desc == 0x21 || dOpcode x.desc == 0x30) = true := by
    simpa [or_assoc] using hop
  have hgo : goOnSlot s c stages body = takeCmd s c (dOpcode x.desc) stages body := by
    simp only [goOnSlot, hx, hslot, if_true]
  rw [act_works h.1 hok, hgo, ← takeCmd_run h, act_works h.1 rfl]

section
variable {e elem elems lo len : Nat} {slips : List TagSlip}

theorem exec_groupSequence : exec (.groupSequence c e elem elems lo len slips) s =
    act (isEngine e) s fun s => goOnSlot s c [.running] (sequenceBody c e elem elems lo len slips) := rfl

theorem exec_partialCombine : exec (.partialCombine c) s =
    act true s fun s => goOnSlot s c [.running] (combineBody c) := rfl

theorem exec_accumulatorCommit : exec (.accumulatorCommit c slips) s =
    act true s fun s => goOnSlot s c [.running, .committing] (commitBody c slips) := rfl

/-! ### Group sequences (R202-R204, R399) -/

theorem accReplay_passTurn {turn : Bool} : ((passTurn s e turn).eng e).accReplay = (s.eng e).accReplay := by
  unfold passTurn
  split
  · rw [eng_modEng]
  · rfl

theorem accReplay_tileWork : ((tileWork s e c).eng e).accReplay = (s.eng e).accReplay := by
  unfold tileWork
  split
  · change ((issued s e true).eng e).accReplay = _
    unfold issued
    rw [eng_modEng]
  · rfl

/-- A sequence that escalates past the last depth has been replayed. -/
theorem runSequence_replayed {j : AccJob} {terms : List (List Rat)} {fuel d k : Nat} (hd : d + fuel = 3)
    (h : runSequence j terms fuel d = (k, fltOpen 0x3031)) : k ≠ 0 := by
  induction fuel generalizing d with
  | zero =>
    cases h
    omega
  | succ fuel ih =>
    unfold runSequence at h
    split at h
    · cases h
    · split at h
      · cases h
      · split at h
        · next hlast =>
          cases h
          exact fun hzero => by simp [hzero] at hlast
        · exact ih (by omega) h

variable {j : AccJob} {ls : List Loaded} {terms : List (List Rat)}

/-- The sources of a running command. -/
def jobSources (x : Cmd) (j : AccJob) : List Operand :=
  (jobOperands x.desc j).filter fun o => o.num < (sourcesOf (dOpcode x.desc)).length

/-- The state after a sequence has run, before its partials are kept. -/
def sequenced (s : State) (e c k : Nat) : State := tileWork (passTurn (countReplays s e k) e true) e c

/-- The job once a sequence has added its partials, of a depth. -/
def withPartials (j : AccJob) (elem lo len : Nat) (vals : List Int) (depth : Nat) : AccJob :=
  let ps := (vals.zip (List.range vals.length)).map fun v =>
    ({ elem := elem + v.2, lo := lo, len := len, value := v.1, depth := depth } : Partial)
  { j with partials := j.partials ++ ps, replays := j.replays + depth }

/-- Where a sequence could start on an engine (R162, R202). -/
structure SequenceMay (s : State) (q : Queue) (j : AccJob) (e elem elems lo len : Nat) : Prop where
  bound : e ∈ q.engines
  usable : s.engineUsable e = true
  unshut : (s.eng e).louvre ≠ 0
  fresh : freshRange j (pieceLimit q) elem elems lo len = true
  uncombined : j.combined = none
  turn : sequenceTurn s e = true

section
variable (hj : tblFind s.jobs c = some j) (hmay : SequenceMay s q j e elem elems lo len)
include hj hmay

theorem sequenceBody_of_may : sequenceBody c e elem elems lo len slips s x q =
    if mayIssue s e = false then .run (issued s e false)
    else paired s x q (slips.map fun l => { l with engine := e }) (jobSources x j) x.dests fun _ =>
      pausing s c q x.dests (loadOperands s q (jobSources x j)) fun ls =>
        pausing s c q x.dests (gatherTerms ((List.range elems).map fun i => (List.range len).map fun k =>
            termOf s q x.desc (ls.map fun l => { l with exact := true }) j.dims (elem + i) (lo + k))) fun terms =>
          let r := runSequence j terms 3 0
          pausing (sequenced s e c r.1) c q x.dests r.2 fun (vals, depth) =>
            .run { sequenced s e c r.1 with
              jobs := tblPut (sequenced s e c r.1).jobs c (withPartials j elem lo len vals depth) } := by
  obtain ⟨hbound, husable, hunshut, hfresh, huncombined, hturn⟩ := hmay
  have hall : (q.engines.contains e && s.engineUsable e && (s.eng e).louvre != 0 &&
      freshRange j (pieceLimit q) elem elems lo len && j.combined.isNone && sequenceTurn s e) = true := by
    simp [hbound, husable, hunshut, hfresh, huncombined, hturn]
  simp only [sequenceBody, hj, hall, Bool.not_true, Bool.false_eq_true, if_false, Bool.not_eq_true']
  rfl

/-- At an opportunity that the louvre does not leave, only the opportunity passes. -/
theorem sequenceBody_of_shut (hshut : (s.eng e).louvre ≤ ((s.eng e).issues.filter id).length) :
    sequenceBody c e elem elems lo len slips s x q = .run (issued s e false) := by
  rw [sequenceBody_of_may hj hmay, if_pos (by simpa [mayIssue] using hshut)]

variable (hopen : ((s.eng e).issues.filter id).length < (s.eng e).louvre)
  (hclean : (slips.map fun l => { l with engine := e }).filter (slipReal q (jobSources x j)) = [])
  (hload : loadOperands s q (jobSources x j) = .ok ls)
  (hterms : gatherTerms ((List.range elems).map fun i => (List.range len).map fun k =>
    termOf s q x.desc (ls.map fun l => { l with exact := true }) j.dims (elem + i) (lo + k)) = .ok terms)
include hopen hclean hload hterms

/-- The partials of a sequence that runs are kept with their depth. -/
theorem sequenceBody_run {vals : List Int} {depth : Nat} (hrun : runSequence j terms 3 0 = (depth, .ok (vals, depth))) :
    sequenceBody c e elem elems lo len slips s x q =
      .run { sequenced s e c depth with
        jobs := tblPut (sequenced s e c depth).jobs c (withPartials j elem lo len vals depth) } := by
  have hissue : mayIssue s e ≠ false := by simpa [mayIssue] using hopen
  rw [sequenceBody_of_may hj hmay, if_neg hissue, paired_of_clean hclean, hload, pausing_ok, hterms, pausing_ok, hrun]
  rfl

/-- A sequence that escalates past the last depth faults, its replays counted. -/
theorem sequenceBody_bad {k : Nat} (hrun : runSequence j terms 3 0 = (k, fltOpen 0x3031)) :
    ∃ u detail, sequenceBody c e elem elems lo len slips s x q = .bad u 0x3031 detail 0 (isHardwareFault 0x3031) ∧
      (u.eng e).accReplay = (statUp (s.eng e).accReplay k).1 := by
  have hissue : mayIssue s e ≠ false := by simpa [mayIssue] using hopen
  rw [sequenceBody_of_may hj hmay, if_neg hissue, paired_of_clean hclean, hload, pausing_ok, hterms, pausing_ok, hrun]
  refine ⟨_, _, rfl, ?_⟩
  have hcount : ((sequenced s e c k).eng e).accReplay = (statUp (s.eng e).accReplay k).1 := by
    unfold sequenced
    rw [accReplay_tileWork, accReplay_passTurn, countReplays, eng_countEngine (runSequence_replayed rfl hrun)]
  rw [← hcount]
  exact SlotsOnly.accReplay (.apart .refl fun h => .foldl h.rest fun _ _ hv => hv.scrambleVa)

end

/-! ### Combination (R205) -/

theorem combineBody_run {l : List (Int × Nat)} {k : Nat} (hj : tblFind s.jobs c = some j)
    (hcovered : covered j (pieceLimit q) = true) (hnone : j.combined = none)
    (hl : combineAll j (pieceLimit q) (tblFind s.arrays (arrayKey x.queue j.slot)) = (k, .ok l)) :
    combineBody c s x q =
      let v := countReplays s (q.engines.head?.getD 0) k
      .run { v with jobs := tblPut v.jobs c { j with combined := some l, replays := j.replays + k } } := by
  simp only [combineBody, hj, hcovered, hnone, hl, Bool.not_true, Option.isSome_none, Bool.or_self, Bool.false_eq_true, if_false,
    pausing_ok]

/-! ### Commit (R200, R206, R209 steps 4-7, R210) -/

/-- Whether a plan can be sent depends on the queue's port alone. -/
theorem sendable_congr {u : State} {y : WritePlan} (h : u.port q.port = s.port q.port) : sendable u q y = sendable s q y := by
  rw [sendable, sendable, h]

theorem carryOut_sent {y : WritePlan} {result : Tally → BitVec 128} {last : State → State} (h : sendable s q y = true) :
    carryOut c s q j y result last = .ok (last (y.1.foldl (fun u r => pokeVa u q.port q.pasid r.1 r.2) s)) (result y.2) :=
  if_pos h

theorem carryOut_held {y : WritePlan} {result : Tally → BitVec 128} {last : State → State} (h : sendable s q y = false) :
    carryOut c s q j y result last = .run ({ s with jobs := tblPut s.jobs c { j with plan := some y } }.modCmd c fun z =>
      { z with stage := .committing, dests := y.1.map fun (r : Nat × List Byte) => (r.1, r.2.length) }) :=
  if_neg (by simp [h])

theorem planned_ok {dests : List (Nat × Nat)} {y : WritePlan} {f : Option (List (List Val))} {n : Nat} {r : State × Tally}
    {k : State → WritePlan → Done} (hwrite : writePlan (s.sending q) q y = .ok r) :
    planned c s q dests (.ok (y, f, n)) k = k { s with draws := s.draws + n } y := by
  rw [planned, pausing_ok]
  dsimp only
  rw [hwrite, pausing_ok]

@[simp] theorem commitArray_port {l : List (Int × Nat)} {p : Port} : (commitArray s x j l).port p = s.port p := by
  unfold commitArray
  dsimp only
  split <;> cases p <;> rfl

section
variable {l0 : List (Int × Nat)} {y : WritePlan} {f : Option (List (List Val))} {k : Nat}
variable (hj : tblFind s.jobs c = some j) (hl0 : j.combined = some l0)
include hj hl0

/-- A plan that waits for its port is carried out. -/
theorem commitBody_of_plan (hplan : j.plan = some y) : commitBody c slips s x q =
    carryOut c s q j y (slotResult (j.base + 16 * topDepth (j.done ++ l0)) (topDepth (j.done ++ l0)) j.replays) id := by
  simp only [commitBody, hj, hl0, hplan]

variable (hplan : j.plan = none)
  (hclean : slips.filter (slipReal q
    ((jobOperands x.desc j).filter fun o => (sourcesOf (dOpcode x.desc)).length < o.num)) = [])
include hplan hclean

/-- A piece but the last is written, and the next begins. -/
theorem commitBody_of_piece {v : State} {tally : Tally} (hlen : (j.done ++ l0).length < elemCount j.dims)
    (hdest : destPlan s q (dFuse x.desc) (jobOperands x.desc j) (sourcesOf (dOpcode x.desc)).length j.base false j.fuse
      j.done.length (j.done ++ l0) = .ok (y, f, k))
    (hwrite : writePlan { s with draws := s.draws + k } q y = .ok (v, tally)) : commitBody c slips s x q =
      .run { v with jobs := tblPut v.jobs c { j with done := j.done ++ l0, partials := [], combined := none, fuse := f } } := by
  simp only [commitBody, hj, hl0, hplan, paired_of_clean hclean, hlen, if_true, pieceBody, hdest, pausing_ok, hwrite]

/-- The last piece's plan is found writable, the array kept or discarded, and the plan carried out. -/
theorem commitBody_of_last {r : State × Tally} (hlen : elemCount j.dims ≤ (j.done ++ l0).length)
    (hdest : destPlan s q (dFuse x.desc) (jobOperands x.desc j) (sourcesOf (dOpcode x.desc)).length j.base j.keep j.fuse
      j.done.length (j.done ++ l0) = .ok (y, f, k))
    (hwrite : writePlan (s.sending q) q y = .ok r) : commitBody c slips s x q =
      carryOut c (commitArray { s with draws := s.draws + k } x j (j.done ++ l0)) q j y
        (slotResult (j.base + 16 * topDepth (j.done ++ l0)) (topDepth (j.done ++ l0)) j.replays) id := by
  simp only [commitBody, hj, hl0, hplan, paired_of_clean hclean, if_neg (Nat.not_lt.2 hlen), hdest, planned_ok hwrite]

end

end

end

end Sys2Proof.Machine

namespace Sys2Proof
open Machine

/-- Settles O40: each body runs on, completes or faults as its case says, and its command with it. -/
theorem slotCommandsStartRunAndCommit : Obligations.SlotCommandsStartRunAndCommit := by
  refine ⟨fun s c x q os sh ls => ?_, fun s c x q j slips => ?_⟩
  · intro d srcs started hdesc hread hcheck hshape hdest hstreams hclaim harray
    have hrun := startSlot_run (c := c) hdesc hread hcheck hshape hdest hstreams hclaim harray
    exact ⟨fun h => exec_matrixMultiply.trans (takeCmd_goes h hrun), fun h => exec_convolve.trans (takeCmd_goes h hrun),
      fun h => exec_sum.trans (takeCmd_goes h hrun)⟩
  · intro n os first limit clean hop hj
    refine ⟨fun e elem elems lo len h he hbound husable hunshut hfresh hnone hturn => ?_,
      fun l k h hcovered hnone hl => ?_, fun l0 h hl0 => ?_⟩
    · have hmay : SequenceMay s q j e elem elems lo len := ⟨hbound, husable, hunshut, hfresh, hnone, hturn⟩
      refine ⟨fun hshut => ?_, fun ls terms hopen hclean hload hterms => ⟨fun vals depth hrun => ?_, fun k hrun => ?_⟩⟩
      · rw [exec_groupSequence, goOnSlot_run he h hop, sequenceBody_of_shut hj hmay hshut]
        rfl
      · rw [exec_groupSequence, goOnSlot_run he h hop, sequenceBody_run hj hmay hopen hclean hload hterms hrun]
        rfl
      · obtain ⟨u, detail, hbad, hu⟩ := sequenceBody_bad hj hmay hopen hclean hload hterms hrun
        refine ⟨finishCmd u c 0x3031 detail 0 (isHardwareFault 0x3031) false, ?_, ?_⟩
        · rw [exec_groupSequence, goOnSlot_run he h hop, hbad]
          rfl
        · exact (SlotsOnly.refl.finishCmd).accReplay.trans hu
    · rw [exec_partialCombine, goOnSlot_run rfl h hop, combineBody_run hj hcovered hnone hl]
      rfl
    · intro l wrote result
      refine ⟨fun hplan hclean => ⟨fun y f k v tally _ hlen hdest hwrite => ?_, fun y f k r hlen hdest hwrite => ?_⟩,
        fun y hplan hsend => ?_⟩
      · rw [exec_accumulatorCommit, goOnSlot_run rfl h hop, commitBody_of_piece hj hl0 hplan hclean hlen hdest hwrite]
        rfl
      · intro u
        have hport : u.port q.port = s.port q.port := commitArray_port
        rw [exec_accumulatorCommit, goOnSlot_run rfl h hop, commitBody_of_last hj hl0 hplan hclean hlen hdest hwrite]
        refine ⟨fun hsend => ?_, fun hsend => ?_⟩
        · rw [carryOut_sent ((sendable_congr hport).trans hsend)]
          rfl
        · rw [carryOut_held ((sendable_congr hport).trans hsend)]
          rfl
      · rw [exec_accumulatorCommit, goOnSlot_run rfl h hop, commitBody_of_plan hj hl0 hplan, carryOut_sent hsend]
        rfl

end Sys2Proof
end

section
/-! PROOFS. Write out, release, combine partials and top-k complete (R205, R209, R210, R219, R220, R223, R224). -/

namespace Sys2Proof.Machine

/-! ### Checks that pass -/

theorem needOpen_ok {ok : Bool} {code : Nat} (h : ok = true) : needOpen ok code = .ok () := by
  simp [needOpen, h]

/-- A command that stands at one of some stages stands at one of more. -/
theorem CommandAt.mono {s : State} {c opcode : Nat} {stages more : List Stage} {x : Cmd} {q : Queue}
    (h : CommandAt s c opcode stages x q) (hsub : stages ⊆ more) : CommandAt s c opcode more x q := by
  obtain ⟨hworks, hx, hq, hop, hstage, hmay⟩ := h
  exact ⟨hworks, hx, hq, hop, List.contains_iff_mem.2 (hsub (List.contains_iff_mem.1 hstage)), hmay⟩

/-- The operands read have the numbers they were asked under. -/
theorem readOperands_nums {s : State} {q : Queue} {kept : List (Nat × List Byte)} {l : List (Nat × Nat × Bool × Bool)}
    {os : List Operand} (h : readOperands s q kept l = .ok os) : os.map (·.num) = l.map (·.1) := by
  induction l generalizing os with
  | nil =>
    cases h
    rfl
  | cons e l ih =>
    unfold readOperands at h
    split at h
    · cases h
    · split at h
      · cases h
      · next hrest =>
        cases h
        exact congrArg (e.1 :: ·) (ih hrest)

section
variable {s : State} {c : Nat} {x : Cmd} {q : Queue} {slips : List TagSlip}

/-! ### Write out (R209, R210, R219) -/

/-- The state of a write-out that has claimed its slot, with its job. -/
def writeOutClaimed (c : Nat) (s : State) (x : Cmd) (q : Queue) (j : AccJob) : State :=
  let w := markSlots s q.engines (dSlot x.desc) (.claimed x.queue)
  { w with jobs := tblPut w.jobs c j }.modCmd c fun y =>
    { y with kept := ((slotOperands x.desc []).map fun (e : Nat × Nat × Bool × Bool) => e.2.1).zip j.records }

theorem touches_writeOutClaimed {j : AccJob} : Touches [.engines, .jobs, .cmds] s (writeOutClaimed c s x q j) := by
  unfold writeOutClaimed
  exact .modCmd (Touches.refl.markSlots.rest)

/-- The array of a write-out that completes is kept or discarded. -/
def writtenOut (x : Cmd) (j : AccJob) (s : State) : State :=
  if j.keep then s else { s with arrays := tblDel s.arrays (arrayKey x.queue j.slot) }

theorem writeOutBody_of_started {os : List Operand} {a : AccArray} {t : Tensor} {ls : List Loaded}
    (hnone : tblFind s.jobs c = none) (hdesc : needDesc x.desc 0x3033 (writeOutFields x.desc) = .ok ())
    (hread : readOperands s q x.kept (slotOperands x.desc []) = .ok os) (hcheck : check1 os = .ok ())
    (ht : operandOf os 0 = some t) (hdest : destShape os 0 t.dims4 = .ok ()) (hstreams : slotStreams s q os 0 [] = .ok ls)
    (hclaim : claimCheck s x.queue (dSlot x.desc) q.engines = .ok ())
    (ha : tblFind s.arrays (arrayKey x.queue (dSlot x.desc)) = some a) (hdims : a.dims = t.dims4) (hlost : a.lost = false) :
    writeOutBody c slips s x q = writeOutWrite c slips (writeOutClaimed c s x q (writeOutJob x.desc os a)) x q
      (writeOutJob x.desc os a) := by
  simp only [writeOutBody, hnone, hdesc, hread, hcheck, hstreams, hclaim, ha, ht, hdest, Option.map_some, Option.getD_some,
    within_ok, needOpen_ok (beq_iff_eq.2 hdims), needOpen_ok (show (!a.lost) = true by rw [hlost]; rfl)]
  rfl

section
variable {j : AccJob} {a : AccArray} {y : WritePlan} (ha : tblFind s.arrays (arrayKey x.queue j.slot) = some a)
include ha

/-- A plan that waits for its port is carried out. -/
theorem writeOutWrite_of_plan (hplan : j.plan = some y) : writeOutWrite c slips s x q j =
    carryOut c s q j y (slotResult (a.base + 16 * a.depth) a.depth 0) (writtenOut x j) := by
  simp only [writeOutWrite, ha, hplan]
  rfl

/-- The destination is found writable, then the plan carried out. -/
theorem writeOutWrite_of_clean {f : Option (List (List Val))} {n : Nat} {r : State × Tally} (hplan : j.plan = none)
    (hclean : slips.filter (slipReal q ((jobOperands x.desc j).filter fun o => 0 < o.num)) = [])
    (hdest : destPlan s q (dFuse x.desc) (jobOperands x.desc j) 0 a.base true none 0 (a.values.map fun v => (v, a.depth)) =
      .ok (y, f, n)) (hwrite : writePlan (s.sending q) q y = .ok r) : writeOutWrite c slips s x q j =
    carryOut c { s with draws := s.draws + n } q j y (slotResult (a.base + 16 * a.depth) a.depth 0) (writtenOut x j) := by
  simp only [writeOutWrite, ha, hplan, paired_of_clean hclean, hdest, planned_ok hwrite]
  rfl

end

/-! ### Combine partials (R205, R223) -/

/-- The stored integers of a source of combine partials, with their scale. -/
def scaledInts (s : State) (q : Queue) (l : Loaded) : Try (Int × List Int) :=
  match readInts s q l with
  | .ok v => .ok (l.scale, v)
  | .error e => .error e

theorem combinePartialsBody_of_combined {os : List Operand} {ls : List Loaded} {addrs : List Nat} {srcs : List (Int × List Int)}
    {t : Tensor} {l : List (Int × Nat)} {k : Nat}
    (hdesc : needDesc x.desc 0x3033
      ((0x33, dField x.desc 0x33 1 != 0 && dField x.desc 0x33 1 != 8) :: fuseFields x.desc) = .ok ())
    (hlist : combineList s q x.kept (dField x.desc 0x10 8) = .ok addrs)
    (hread : readOperands s q x.kept (combineRecords x.desc addrs) = .ok os) (hcheck : check1 os = .ok ())
    (hshape : combineShape os addrs.length = .ok ())
    (hstreams : slotStreams s q os addrs.length
      ((os.filter fun o => o.num < addrs.length && o.t.storage != .acc64).map (·.num)) = .ok ls)
    (hsrcs : tryMap (scaledInts s q) (ls.filter fun l => l.num < addrs.length) = .ok srcs)
    (ht : operandOf os addrs.length = some t) (hclean : slips.filter (slipReal q os) = [])
    (hl : combineSources (dStrict x.desc) srcs t.elems = (k, .ok l)) :
    combinePartialsBody slips s x q =
      let u := countReplays s (q.engines.head?.getD 0) k
      writing u q t.destExtent (writeDest u q (dFuse x.desc) os addrs.length (combineBase srcs) true l) fun (v, tally) =>
        .ok v (slotResult (combineBase srcs + 16 * topDepth l) (topDepth l) k tally) := by
  simp only [combinePartialsBody, hdesc, hlist, hread, hcheck, hshape, hstreams, within_ok]
  refine (congrArg (within · _) hsrcs).trans ?_
  simp only [within_ok, ht, paired_of_clean hclean, hl, writing_ok]

/-! ### Top-k (R224) -/

/-- The indices of a ranking's first places, as the values written. -/
def topIndices (smallest : Bool) (k : Nat) (rows : List (List Val)) : List (List Val) :=
  rows.map fun r => (topOf smallest k r).map fun e => .real (e.2 : Rat)

theorem topKBody_of_written {src i : Operand} {l : Loaded} {rows : List (List Val)} {v : State} {tally : Tally}
    (hdesc : needDesc x.desc 0x3033 [(0x30, dField x.desc 0x30 1 == 0 || 16 < dField x.desc 0x30 1),
      (0x31, 1 < dField x.desc 0x31 1)] = .ok ()) (hvalues : dField x.desc 0x20 8 = 0)
    (hread : readOperands s q x.kept [(0, dField x.desc 0x10 8, true, false), (1, dField x.desc 0x18 8, false, true)] =
      .ok [src, i]) (hcheck1 : check1 [src, i] = .ok ()) (hshape : topKShape x.desc [src, i] = .ok ())
    (hcheck2 : check2 [] [src, i] = .ok ()) (hcheck3 : check3 [src, i] = .ok ())
    (hover : overlapWith s q i.t [src] = .ok ()) (hload : loadOperands s q [src] = .ok [l])
    (hclean : slips.filter (slipReal q [src]) = []) (hrows : readValues s q l = .ok rows) (hnan : firstNan rows = none)
    (hwrite : writeTensor s q i.t (topIndices (dField x.desc 0x31 1 == 1) (dField x.desc 0x30 1) rows) = .ok (v, tally)) :
    topKBody slips s x q = .ok v 0 := by
  have hrefused : ([src, i].filter fun o => o.num == 2 && o.t.storage == .acc64).map (·.num) = [] := by
    have hnums : src.num = 0 ∧ i.num = 1 := by simpa using readOperands_nums hread
    simp [hnums]
  have hfields : [(0, dField x.desc 0x10 8, true, false), (1, dField x.desc 0x18 8, false, true)] ++
      (if dField x.desc 0x20 8 == 0 then [] else [(2, dField x.desc 0x20 8, false, true)]) =
        [(0, dField x.desc 0x10 8, true, false), (1, dField x.desc 0x18 8, false, true)] := by
    simp [hvalues]
  simp only [topKBody, hdesc, hfields, hread, hcheck1, hshape, hrefused, hcheck2, hcheck3, tryMap, hover, hload, hrows, hnan,
    paired_of_clean hclean, within_ok, writing_ok]
  rw [topIndices] at hwrite
  simp only [List.map_map, Function.comp_def, hwrite, writing_ok]

/-! ### The commands -/

theorem exec_writeOut : exec (.writeOut c slips) s =
    act true s fun s => takeCmd s c 0x22 [.started, .waiting, .running, .committing] (writeOutBody c slips) := rfl

theorem exec_release : exec (.release c) s = act true s fun s => takeCmd s c 0x23 [.started, .waiting] fun s x q =>
    within (needDesc x.desc 0x3033 [(0x32, 3 < dSlot x.desc)]) fun _ =>
      within (claimCheck s x.queue (dSlot x.desc) q.engines) fun _ =>
        .ok (discardArray s x.queue (dSlot x.desc) q.engines) 0 := rfl

theorem exec_combinePartials : exec (.combinePartials c slips) s =
    act true s fun s => takeCmd s c 0x31 [.started, .waiting] (combinePartialsBody slips) := rfl

theorem exec_topK : exec (.topK c slips) s = act true s fun s => takeCmd s c 0x32 [.started, .waiting] (topKBody slips) := rfl

end

end Sys2Proof.Machine

namespace Sys2Proof
open Machine

/-- Settles O41: each checked body completes, holds its plan or faults, and its command with it. -/
theorem arrayAndReductionCommandsComplete : Obligations.ArrayAndReductionCommandsComplete := by
  intro s c x q os ls slips d first clean
  refine ⟨fun a t y f n r h hnone hdesc hread hcheck ht hdest hstreams hclaim ha hdims hlost => ?_,
    fun a j y h hj hplan ha hsend => ?_, fun h hdesc hclaim => ?_,
    fun addrs srcs t l k h hdesc hlist hread hcheck hshape hstreams hsrcs ht hclean hl => ?_,
    fun src i l rows v tally h hdesc hvalues hread hcheck1 hshape hcheck2 hcheck3 hover hload hclean hrows hnan hwrite =>
      exec_topK.trans (takeCmd_ok h (topKBody_of_written hdesc hvalues hread hcheck1 hshape hcheck2 hcheck3 hover hload hclean
        hrows hnan hwrite))⟩
  · intro j w u1 hclean hplan hwrite u2 v
    have hclaimed : Touches [.engines, .jobs, .cmds] s u1 := touches_writeOutClaimed
    have harrays : u1.arrays = s.arrays := hclaimed.same .arrays (by decide)
    have hport : u2.port q.port = s.port q.port := by
      obtain ⟨hA, hB⟩ := hclaimed.same .ports (by decide)
      cases q.port
      · exact hA
      · exact hB
    have hbody : writeOutBody c slips s x q =
        carryOut c u2 q j y (slotResult (a.base + 16 * a.depth) a.depth 0) (writtenOut x j) :=
      (writeOutBody_of_started hnone hdesc hread hcheck ht hdest hstreams hclaim ha hdims hlost).trans
        (writeOutWrite_of_clean (harrays ▸ ha) rfl hclean hplan hwrite)
    have h' := h.mono (more := [.started, .waiting, .running, .committing]) (by decide)
    refine ⟨fun hsend => ?_, fun hsend => ?_⟩
    · exact exec_writeOut.trans (takeCmd_ok h' (hbody.trans (carryOut_sent ((sendable_congr hport).trans hsend))))
    · exact exec_writeOut.trans (takeCmd_goes h' (hbody.trans (carryOut_held ((sendable_congr hport).trans hsend))))
  · have hbody : writeOutBody c slips s x q = writeOutWrite c slips s x q j := by
      simp only [writeOutBody, hj]
    have h' := h.mono (more := [.started, .waiting, .running, .committing]) (by decide)
    exact exec_writeOut.trans (takeCmd_ok h' (hbody.trans ((writeOutWrite_of_plan ha hplan).trans (carryOut_sent hsend))))
  · refine exec_release.trans (takeCmd_ok h ?_)
    rw [hdesc, within_ok, hclaim, within_ok]
  · have hbody := combinePartialsBody_of_combined hdesc hlist hread hcheck hshape hstreams hsrcs ht hclean hl
    refine ⟨fun v tally hwrite => ?_, fun code detail logged hwrite => ?_⟩
    · refine exec_combinePartials.trans (takeCmd_ok h (hbody.trans ?_))
      dsimp only
      rw [hwrite, writing_ok]
    · refine exec_combinePartials.trans (takeCmd_bad h (hbody.trans ?_))
      dsimp only
      rw [hwrite]
      rfl

end Sys2Proof
end

section
/-! PROOFS. Top-k is the exact ranking by value, then index (R224). -/

namespace Sys2Proof.Machine

/-! ### Ranks are a strict order (R224) -/

/-- The place of a value among the values that are no NaN, the infinities at the ends. -/
def Val.place : Val → WithBot (WithTop Rat)
  | .fin x _ => ((x : WithTop Rat) : WithBot (WithTop Rat))
  | .inf true => ⊥
  | .inf false => ((⊤ : WithTop Rat) : WithBot (WithTop Rat))
  | .nan _ => ⊥

theorem vLe_iff : ∀ {a b : Val}, isNan a = false → isNan b = false → (vLe a b = true ↔ a.place ≤ b.place)
  | .fin .., .fin .., _, _ => by simp [vLe, Val.place]
  | .fin .., .inf n, _, _ => by cases n <;> simp [vLe, Val.place]
  | .inf n, .fin .., _, _ => by cases n <;> simp [vLe, Val.place]
  | .inf m, .inf n, _, _ => by cases m <;> cases n <;> simp [vLe, Val.place]
  | .nan _, _, ha, _ => nomatch ha
  | _, .nan _, _, hb => nomatch hb

section
variable {smallest : Bool} {a b c : Val × Nat}

/-- The rank of an element: by value, rising or falling, then by index. -/
theorem ranksBefore_iff (ha : isNan a.1 = false) (hb : isNan b.1 = false) : ranksBefore smallest a b = true ↔
    (if smallest then a.1.place < b.1.place else b.1.place < a.1.place) ∨ (a.1.place = b.1.place ∧ a.2 < b.2) := by
  simp only [ranksBefore, Bool.and_eq_true, vLe_iff ha hb, vLe_iff hb ha]
  split
  · next htie =>
    have := le_antisymm htie.1 htie.2
    cases smallest <;> simp [this]
  · next htie =>
    have hne : a.1.place ≠ b.1.place := fun h => htie ⟨h.le, h.ge⟩
    cases smallest
    · simp [vLe_iff hb ha, hne, lt_iff_le_and_ne, hne.symm]
    · simp [vLe_iff ha hb, hne, lt_iff_le_and_ne]

theorem ranksBefore_trans (ha : isNan a.1 = false) (hb : isNan b.1 = false) (hc : isNan c.1 = false)
    (hab : ranksBefore smallest a b = true) (hbc : ranksBefore smallest b c = true) : ranksBefore smallest a c = true := by
  rw [ranksBefore_iff ha hb] at hab
  rw [ranksBefore_iff hb hc] at hbc
  rw [ranksBefore_iff ha hc]
  cases smallest <;> grind

theorem ranksBefore_of_not (ha : isNan a.1 = false) (hb : isNan b.1 = false) (hne : a.2 ≠ b.2)
    (h : ¬ ranksBefore smallest a b = true) : ranksBefore smallest b a = true := by
  rw [ranksBefore_iff ha hb] at h
  rw [ranksBefore_iff hb ha]
  cases smallest <;> grind

end

/-! ### Inserting in rank order -/

section
variable {smallest : Bool} {x : Val × Nat} {l es : List (Val × Nat)}

theorem insertRank_eq_orderedInsert :
    insertRank smallest x l = l.orderedInsert (fun a b => ranksBefore smallest a b = true) x := by
  induction l with
  | nil => rfl
  | cons y l ih => simp only [insertRank, List.orderedInsert, ih]

theorem insertRank_perm : (insertRank smallest x l).Perm (x :: l) :=
  insertRank_eq_orderedInsert ▸ List.perm_orderedInsert ..

theorem pairwise_insertRank (hl : l.Pairwise fun a b => ranksBefore smallest a b = true)
    (hnan : ∀ y ∈ x :: l, isNan y.1 = false) (hne : ∀ y ∈ l, x.2 ≠ y.2) :
    (insertRank smallest x l).Pairwise fun a b => ranksBefore smallest a b = true := by
  induction l with
  | nil => exact List.pairwise_singleton ..
  | cons y l ih =>
    simp only [List.forall_mem_cons] at hnan hne
    obtain ⟨hx, hy, hrest⟩ := hnan
    obtain ⟨hylow, hl'⟩ := List.pairwise_cons.1 hl
    rw [insertRank]
    split
    · next hbefore =>
      refine List.pairwise_cons.2 ⟨List.forall_mem_cons.2 ⟨hbefore, fun z hz => ?_⟩, hl⟩
      exact ranksBefore_trans hx hy (hrest z hz) hbefore (hylow z hz)
    · next hbefore =>
      refine List.pairwise_cons.2 ⟨fun z hz => ?_, ih hl' (List.forall_mem_cons.2 ⟨hx, hrest⟩) hne.2⟩
      obtain rfl | hz := List.mem_cons.1 (insertRank_perm.mem_iff.1 hz)
      · exact ranksBefore_of_not hx hy hne.1 hbefore
      · exact hylow z hz

/-- The elements inserted one after the other. -/
theorem foldl_insertRank_perm : (es.foldl (fun l x => insertRank smallest x l) l).Perm (es ++ l) := by
  induction es generalizing l with
  | nil => exact .refl _
  | cons x es ih => exact ih.trans ((insertRank_perm.append_left es).trans List.perm_middle)

theorem pairwise_foldl_insertRank (hl : l.Pairwise fun a b => ranksBefore smallest a b = true)
    (hnan : ∀ y ∈ es ++ l, isNan y.1 = false) (hne : (es ++ l).Pairwise fun a b => a.2 ≠ b.2) :
    (es.foldl (fun l x => insertRank smallest x l) l).Pairwise fun a b => ranksBefore smallest a b = true := by
  induction es generalizing l with
  | nil => exact hl
  | cons x es ih =>
    have hperm : (es ++ insertRank smallest x l).Perm (x :: (es ++ l)) :=
      (insertRank_perm.append_left es).trans List.perm_middle
    have hx := (List.pairwise_cons.1 hne).1
    refine ih (pairwise_insertRank hl (fun y hy => hnan y ?_) fun y hy => hx y (List.mem_append_right _ hy))
      (fun y hy => hnan y (hperm.mem_iff.1 hy)) (hne.perm hperm.symm fun h => h.symm)
    exact hperm.mem_iff.1 (List.mem_append_right _ (insertRank_perm.mem_iff.2 hy))

end

/-! ### The ranking of a row -/

/-- A row's elements with their indices, in rank order. -/
def ranking (smallest : Bool) (row : List Val) : List (Val × Nat) :=
  (row.zip (List.range row.length)).foldl (fun l x => insertRank smallest x l) []

section
variable {smallest : Bool} {k : Nat} {row : List Val}

theorem topOf_eq_take : topOf smallest k row = (ranking smallest row).take k := rfl

theorem ranking_perm : (ranking smallest row).Perm row.zipIdx := by
  rw [List.zipIdx_eq_zip_range']
  simpa [ranking, List.range_eq_range'] using foldl_insertRank_perm (es := row.zip (List.range row.length)) (l := [])

theorem mem_ranking {e : Val × Nat} : e ∈ ranking smallest row ↔ row[e.2]? = some e.1 := by
  rw [ranking_perm.mem_iff, List.mem_zipIdx_iff_getElem?]

theorem pairwise_ranking (hnan : ∀ v ∈ row, isNan v = false) :
    (ranking smallest row).Pairwise fun a b => ranksBefore smallest a b = true := by
  refine pairwise_foldl_insertRank .nil (fun y hy => hnan y.1 ?_) ?_
  · rw [List.append_nil] at hy
    exact (List.of_mem_zip hy).1
  · rw [List.append_nil, ← List.pairwise_map (f := Prod.snd) (R := (· ≠ ·)), List.map_snd_zip (by simp)]
    exact List.nodup_range

end

end Sys2Proof.Machine

namespace Sys2Proof
open Machine

/-- Settles O42: the row's elements are inserted in rank order, a strict order on values that are no NaN, and the first are
taken. -/
theorem topKRanksByValueThenIndex : Obligations.TopKRanksByValueThenIndex := by
  intro smallest k row hnan
  have hsplit := (List.take_append_drop k (ranking smallest row)).symm ▸ pairwise_ranking (smallest := smallest) hnan
  obtain ⟨htop, -, hacross⟩ := List.pairwise_append.1 hsplit
  refine ⟨?_, fun e he => mem_ranking.1 (List.mem_of_mem_take he), htop, fun i v hv hout e he => hacross e he (v, i) ?_⟩
  · rw [topOf_eq_take, List.length_take, ranking_perm.length_eq, List.length_zipIdx]
  · have hmem : (v, i) ∈ ranking smallest row := mem_ranking.2 hv
    rw [← List.take_append_drop k (ranking smallest row)] at hmem
    exact (List.mem_append.1 hmem).resolve_left hout

end Sys2Proof
end

section
/-! PROOFS. Element-wise operations 0 to 9 are exact on finite values (R237). -/

namespace Sys2Proof.Machine

section
variable {free : Bool} {a b : Val} {x y : Rat}

theorem rat_eq_some : a.rat = some x ↔ ∃ z, a = .fin x z := by
  cases a <;> simp [Val.rat]

theorem rat_vAdd (ha : a.rat = some x) (hb : b.rat = some y) : (vAdd free a b).rat = some (x + y) := by
  obtain ⟨_, rfl⟩ := rat_eq_some.1 ha
  obtain ⟨_, rfl⟩ := rat_eq_some.1 hb
  rfl

theorem rat_vNeg (ha : a.rat = some x) : (vNeg a).rat = some (-x) := by
  obtain ⟨_, rfl⟩ := rat_eq_some.1 ha
  rfl

/-- A difference of values that are no NaN is a sum with the negation. -/
theorem rat_vSub (ha : a.rat = some x) (hb : b.rat = some y) : (vSub free a b).rat = some (x - y) := by
  have hsub : vSub free a b = vAdd free a (vNeg b) := by
    obtain ⟨_, rfl⟩ := rat_eq_some.1 ha
    obtain ⟨_, rfl⟩ := rat_eq_some.1 hb
    rfl
  rw [hsub, rat_vAdd ha (rat_vNeg hb), sub_eq_add_neg]

theorem rat_vMul (ha : a.rat = some x) (hb : b.rat = some y) : (vMul free a b).rat = some (x * y) := by
  obtain ⟨_, rfl⟩ := rat_eq_some.1 ha
  obtain ⟨_, rfl⟩ := rat_eq_some.1 hb
  rfl

theorem rat_vAbs (ha : a.rat = some x) : (vAbs a).rat = some |x| := by
  obtain ⟨_, rfl⟩ := rat_eq_some.1 ha
  refine congrArg some ?_
  rw [mag]
  split
  · next hneg => exact (abs_of_neg hneg).symm
  · next hneg => exact (abs_of_nonneg (not_lt.1 hneg)).symm

/-- Of equal values the sign decides which is taken, and the real is that of both. -/
theorem rat_vMax (ha : a.rat = some x) (hb : b.rat = some y) : (vMax a b).rat = some (max x y) := by
  obtain ⟨_, rfl⟩ := rat_eq_some.1 ha
  obtain ⟨_, rfl⟩ := rat_eq_some.1 hb
  obtain hlt | rfl | hlt := lt_trichotomy x y
  · simp [vMax, vLe, Val.rat, hlt.le, hlt.not_ge]
  · simp only [vMax, vLe, le_refl, decide_true, if_true, max_self]
    split <;> rfl
  · simp [vMax, vLe, Val.rat, hlt.le, hlt.not_ge]

theorem rat_vMin (ha : a.rat = some x) (hb : b.rat = some y) : (vMin a b).rat = some (min x y) := by
  obtain ⟨_, rfl⟩ := rat_eq_some.1 ha
  obtain ⟨_, rfl⟩ := rat_eq_some.1 hb
  obtain hlt | rfl | hlt := lt_trichotomy x y
  · simp [vMin, vLe, Val.rat, hlt.le, hlt.not_ge]
  · simp only [vMin, vLe, le_refl, decide_true, if_true, min_self]
    split <;> rfl
  · simp [vMin, vLe, Val.rat, hlt.le, hlt.not_ge]

end

end Sys2Proof.Machine

namespace Sys2Proof
open Machine

/-- Settles O44: each operation is one of the values' own, and each of those is exact on finite values. -/
theorem elementOperationsAreExact : Obligations.ElementOperationsAreExact := fun _ _ _ _ _ ha hb =>
  ⟨rat_vAdd ha hb, rat_vSub ha hb, rat_vMul ha hb, rat_vMax ha hb, rat_vMin ha hb, rat_vAbs ha, rat_vNeg ha,
    rat_vMax ha rfl, rat_vAdd ha hb, rat_vMul ha hb⟩

end Sys2Proof
end

section
/-! PROOFS. Element-wise, normalise, softmax and optimiser step complete (R237-R241). -/

namespace Sys2Proof.Machine

section
variable {s v : State} {c : Nat} {x : Cmd} {q : Queue} {os : List Operand} {ls : List Loaded} {w : Operand} {tally : Tally}
  {slips : List TagSlip}

/-! ### What a vector command writes -/

/-- The rows of a command with one destination are written, with nothing that pairing finds. -/
theorem finishRows_of_written {rows : Try (List (List Val))} {vals : List (List Val)}
    (hclean : slips.filter (slipReal q os) = []) (hdest : os.find? (·.writes) = some w) (hrows : rows = .ok vals)
    (hwrite : writeTensor { s with draws := s.draws + 1 } q w.t vals = .ok (v, tally)) :
    finishRows slips s x q os rows = .ok v tally.result := by
  simp only [finishRows, hdest, paired_of_clean hclean, hrows, hwrite, writing_ok]

section
variable {a : Operand} {va : List (List Val)} (hclean : slips.filter (slipReal q os) = [])
  (hdest : os.find? (·.writes) = some w) (hdesc : needDesc x.desc 0x303A [] = .ok ())
include hclean hdest hdesc

/-! ### Element-wise (R237) -/

section
variable (hhead : os.head? = some a) (ha : valuesOf s q ls 0 = .ok va)
include hhead ha

theorem elementBody_of_binary {vb : List (List Val)} {tb : Tensor} (hop : dField x.desc 0x2C 1 ≤ 4)
    (hread : vectorOperands s x q [(0, dField x.desc 0x10 8, true, false), (1, dField x.desc 0x18 8, true, false),
      (2, dField x.desc 0x20 8, false, true)] (elementDims true) (destApart s q) = .ok (os, ls))
    (hb : valuesOf s q ls 1 = .ok vb) (htb : operandOf os 1 = some tb)
    (hwrite : writeTensor { s with draws := s.draws + 1 } q w.t
      (elementRows s.draws (dField x.desc 0x2C 1) a.t va (some (tb, vb)) (.real 0)) = .ok (v, tally)) :
    elementBody slips s x q = .ok v tally.result := by
  have hbinary : isBinary (dField x.desc 0x2C 1) = true := decide_eq_true hop
  simp only [elementBody, hdesc, needOpen_ok (decide_eq_true (hop.trans (by decide : 4 ≤ 16))), hbinary, hread, hhead,
    within_ok, if_true]
  exact finishRows_of_written hclean hdest (by simp only [ha, hb, htb]) hwrite

theorem elementBody_of_unary (hop : dField x.desc 0x2C 1 ≤ 16) (hunary : 4 < dField x.desc 0x2C 1)
    (hread : vectorOperands s x q [(0, dField x.desc 0x10 8, true, false), (1, dField x.desc 0x20 8, false, true)]
      (elementDims false) (destApart s q) = .ok (os, ls))
    (hwrite : writeTensor { s with draws := s.draws + 1 } q w.t
      (elementRows s.draws (dField x.desc 0x2C 1) a.t va none (fp32 (dField x.desc 0x28 4))) = .ok (v, tally)) :
    elementBody slips s x q = .ok v tally.result := by
  have hbinary : isBinary (dField x.desc 0x2C 1) = false := decide_eq_false (Nat.not_le.2 hunary)
  simp only [elementBody, hdesc, needOpen_ok (decide_eq_true hop), hbinary, hread, hhead, within_ok, Bool.false_eq_true,
    if_false]
  exact finishRows_of_written hclean hdest (by simp only [ha]) hwrite

end

/-! ### Normalise and softmax (R238, R239) -/

/-- The rows of a command, each judged finite and then taken through a function of its index and elements. -/
def finiteRows (f : Nat → List Rat → Try (List Val)) (rows : List (List Val)) : Try (List (List Val)) :=
  tryMap (fun e => match finiteRow 0 (e.2 * e.1.length) 0 e.1 with
    | .error x => .error x
    | .ok xs => f (e.2 * e.1.length) xs) (rows.zip (List.range rows.length))

theorem normaliseBody_of_plain {rows r : List (List Val)} (hs1 : toSigned 16 (dField x.desc 0x30 2) ≤ 320)
    (hs1' : -320 ≤ toSigned 16 (dField x.desc 0x30 2)) (hs2 : toSigned 16 (dField x.desc 0x32 2) ≤ 320)
    (hs2' : -320 ≤ toSigned 16 (dField x.desc 0x32 2)) (heps : positiveFinite (dField x.desc 0x34 4) = true)
    (hmode : dField x.desc 0x38 1 ≤ 1) (hgamma : dField x.desc 0x20 8 = 0) (hbeta : dField x.desc 0x28 8 = 0)
    (hread : vectorOperands s x q [(0, dField x.desc 0x10 8, true, false), (1, dField x.desc 0x18 8, false, true)]
      normaliseDims (destApart s q) = .ok (os, ls)) (hnone : valuesOf s q ls 9 = .ok [])
    (hrows : valuesOf s q ls 0 = .ok rows)
    (hr : finiteRows (fun i xs => normaliseRow (toSigned 16 (dField x.desc 0x30 2)) (toSigned 16 (dField x.desc 0x32 2))
      ((fp32 (dField x.desc 0x34 4)).rat.getD 0) (dField x.desc 0x38 1 == 1) (fun k => Config.nanSign s.draws (i + k)) xs
      [] []) rows = .ok r)
    (hwrite : writeTensor { s with draws := s.draws + 1 } q w.t r = .ok (v, tally)) :
    normaliseBody slips s x q = .ok v tally.result := by
  have hrecs : normaliseRecs x.desc =
      [(0, dField x.desc 0x10 8, true, false), (1, dField x.desc 0x18 8, false, true)] := by
    simp [normaliseRecs, hgamma, hbeta]
  have hparams : (decide (-320 ≤ toSigned 16 (dField x.desc 0x30 2)) && decide (toSigned 16 (dField x.desc 0x30 2) ≤ 320) &&
      decide (-320 ≤ toSigned 16 (dField x.desc 0x32 2)) && decide (toSigned 16 (dField x.desc 0x32 2) ≤ 320) &&
      positiveFinite (dField x.desc 0x34 4) && decide (dField x.desc 0x38 1 ≤ 1)) = true := by
    simp [hs1, hs1', hs2, hs2', heps, hmode]
  simp only [normaliseBody, hdesc, needOpen_ok hparams, hrecs, hread, within_ok]
  refine finishRows_of_written hclean hdest ?_ hwrite
  simp only [hrows, hgamma, hbeta, hnone, beq_self_eq_true, if_true]
  exact hr

/-- Dims of softmax: source and destination equal, the rows short enough. -/
def softmaxDims : List Operand → Bool
  | [a, b] => sameDims a.t b.t && a.t.dim 0 ≤ 2 ^ 22
  | _ => false

theorem softmaxBody_of_written {rows r : List (List Val)}
    (hread : vectorOperands s x q [(0, dField x.desc 0x10 8, true, false), (1, dField x.desc 0x18 8, false, true)]
      softmaxDims (destApart s q) = .ok (os, ls)) (hrows : valuesOf s q ls 0 = .ok rows)
    (hr : finiteRows (fun _ xs => .ok (softmaxRow xs)) rows = .ok r)
    (hwrite : writeTensor { s with draws := s.draws + 1 } q w.t r = .ok (v, tally)) :
    softmaxBody slips s x q = .ok v tally.result := by
  rw [softmaxBody, hdesc, within_ok]
  refine (congrArg (within · _) hread).trans (finishRows_of_written hclean hdest ?_ hwrite)
  simp only [hrows]
  exact hr

end

/-! ### Optimiser step (R240) -/

theorem optimiserBody_of_adaptive {tw tg tm tv : Operand} {pb : List Byte} {p : OptParams} {wv gv mv nv : List (List Val)}
    {s1 s2 : State} {a2 a3 : Tally} (hclean : slips.filter (slipReal q [tw, tg, tm, tv]) = [])
    (hdesc : needDesc x.desc 0x303A [] = .ok ()) (hpb : readVa s q.port q.pasid (dField x.desc 0x30 8) 32 = .ok pb)
    (hp : optParams pb = some p) (hvariant : p.momentum = false)
    (hread : vectorOperands s x q [(0, dField x.desc 0x10 8, true, true), (1, dField x.desc 0x18 8, true, false),
      (2, dField x.desc 0x20 8, true, true), (3, dField x.desc 0x28 8, true, true)] equalDims (allApart s q) =
      .ok ([tw, tg, tm, tv], ls))
    (hw : valuesOf s q ls 0 = .ok wv) (hg : valuesOf s q ls 1 = .ok gv) (hm : valuesOf s q ls 2 = .ok mv)
    (hn : valuesOf s q ls 3 = .ok nv)
    (hwrite : writeTensor { s with draws := s.draws + 1 } q tw.t ((optRows p s.draws wv gv mv nv).map fun l => l.map (·.1)) =
      .ok (s1, tally))
    (hwrite2 : writeTensor s1 q tm.t ((optRows p s.draws wv gv mv nv).map fun l => l.map (·.2.1)) = .ok (s2, a2))
    (hwrite3 : writeTensor s2 q tv.t ((optRows p s.draws wv gv mv nv).map fun l => l.map (·.2.2)) = .ok (v, a3)) :
    optimiserBody slips s x q = .ok v tally.result := by
  simp only [optimiserBody, hdesc, hpb, hp, hvariant, Bool.false_eq_true, if_false, List.cons_append, List.nil_append, hread,
    paired_of_clean hclean, hw, hg, hm, hn, hwrite, hwrite2, hwrite3, within_ok, writing_ok]

/-! ### The commands -/

theorem exec_elementWise : exec (.elementWise c slips) s =
    act true s fun s => takeCmd s c 0x40 [.started, .waiting] (elementBody slips) := rfl

theorem exec_normalise : exec (.normalise c slips) s =
    act true s fun s => takeCmd s c 0x41 [.started, .waiting] (normaliseBody slips) := rfl

theorem exec_softmax : exec (.softmax c slips) s =
    act true s fun s => takeCmd s c 0x42 [.started, .waiting] (softmaxBody slips) := rfl

theorem exec_optimiserStep : exec (.optimiserStep c slips) s =
    act true s fun s => takeCmd s c 0x43 [.started, .waiting] (optimiserBody slips) := rfl

end

end Sys2Proof.Machine

namespace Sys2Proof
open Machine

/-- Settles O43: each checked body completes with what its writes counted, and its command with it. -/
theorem vectorCommandsComplete : Obligations.VectorCommandsComplete := by
  intro s c x q os ls w v tally slips d writes hclean
  refine ⟨fun hdest hdesc => ⟨fun a va vb h hop hhead ha =>
      ⟨fun tb hbinary hread hb htb hwrite => ?_, fun hunary hread hwrite => ?_⟩, ?_,
    fun rows r h hread hrows hr hwrite => ?_⟩, ?_⟩
  · exact exec_elementWise.trans (takeCmd_ok h (elementBody_of_binary hclean hdest hdesc hhead ha hbinary hread hb htb hwrite))
  · exact exec_elementWise.trans (takeCmd_ok h (elementBody_of_unary hclean hdest hdesc hhead ha hop hunary hread hwrite))
  · intro rows r h s1 s2 hs1 hs1' hs2 hs2' heps hmode hgamma hbeta hread hnone hrows hr hwrite
    exact exec_normalise.trans (takeCmd_ok h (normaliseBody_of_plain hclean hdest hdesc hs1 hs1' hs2 hs2' heps hmode hgamma
      hbeta hread hnone hrows hr hwrite))
  · exact exec_softmax.trans (takeCmd_ok h (softmaxBody_of_written hclean hdest hdesc hread hrows hr hwrite))
  · intro pb p tw tg tm tv wv gv mv nv s1 s2 a2 a3 h hdesc hpb hp hvariant hread hos hw hg hm hn r hwrite hwrite2 hwrite3
    subst hos
    exact exec_optimiserStep.trans (takeCmd_ok h (optimiserBody_of_adaptive hclean hdesc hpb hp hvariant hread hw hg hm hn
      hwrite hwrite2 hwrite3))

end Sys2Proof
end

section
/-! PROOFS. Task instructions on registers and branches (R243, R244). -/

namespace Sys2Proof.Machine

/-! ### A task's instruction runs -/

section
variable {s : State} {e op : Nat} {t : Task}

/-- An engine's task at an instruction of a row's opcode has its effect. -/
theorem exec_instr {isOp : Nat → Bool} (h : TaskAt s e op t) (hop : isOp op = true)
    (f : State → Task → Nat → State) : act (isEngine e) s (fun s => runInstr s e isOp f) =
    nextKeeping s (f s t (taskWord e t t.pc)) := by
  obtain ⟨hworks, hengine, htask, hwait, hword⟩ := h
  simp only [act_works hworks hengine, runInstr, htask, hwait, hword, hop, beq_self_eq_true, Bool.and_true, if_true]

/-- A task's state changes nothing but its engine, the queue of waiting commands least of all. -/
theorem nextKeeping_setTask (s : State) (e : Nat) (t : Task) : nextKeeping s (setTask s e t) = .next (setTask s e t) := rfl

theorem exec_regOp {f : DWord → DWord → DWord} (h : TaskAt s e op t) : act (isEngine e) s (fun s => regOp s e op f) =
    .next (setTask s e (nextPc (setReg t (dReg (taskWord e t t.pc))
      (f (getReg t (aReg (taskWord e t t.pc))) (getReg t (bReg (taskWord e t t.pc))))) 1)) :=
  exec_instr (isOp := (· == op)) h (beq_self_eq_true op) _

end

/-! ### Branches (R244) -/

section
variable {s : State} {e w : Nat} {t : Task} {taken : Bool}

theorem branchTo_of_not (h : taken = false) : branchTo s e t w taken = setTask s e (nextPc t 1) := by
  rw [branchTo, h]
  rfl

theorem branchTo_of_inside (h : taken = true) (hlow : 0 ≤ (t.pc : Int) + immField w)
    (hhigh : (t.pc : Int) + immField w ≤ 4095) :
    branchTo s e t w taken = setTask s e { t with pc := ((t.pc : Int) + immField w).toNat } := by
  simp [branchTo, h, hlow, hhigh]

theorem branchTo_of_outside (h : taken = true)
    (hout : (t.pc : Int) + immField w < 0 ∨ 4095 < (t.pc : Int) + immField w) :
    branchTo s e t w taken = endTask s e 0x3051 := by
  simp [branchTo, h, hout]

/-- What an instruction that branches answers in each of its three cases. -/
theorem branch_cases {o : Out} (ho : o = nextKeeping s (branchTo s e t w taken)) :
    (taken = false → o = .next (setTask s e (nextPc t 1))) ∧
    (taken = true → 0 ≤ (t.pc : Int) + immField w → (t.pc : Int) + immField w ≤ 4095 →
      o = .next (setTask s e { t with pc := ((t.pc : Int) + immField w).toNat })) ∧
    (taken = true → ((t.pc : Int) + immField w < 0 ∨ 4095 < (t.pc : Int) + immField w) →
      o = nextKeeping s (endTask s e 0x3051)) := by
  subst ho
  refine ⟨fun h => ?_, fun h hlow hhigh => ?_, fun h hout => ?_⟩
  · rw [branchTo_of_not h, nextKeeping_setTask]
  · rw [branchTo_of_inside h hlow hhigh, nextKeeping_setTask]
  · rw [branchTo_of_outside h hout]

end

end Sys2Proof.Machine

namespace Sys2Proof
open Machine

/-- Settles O4: each command's function is run at its instruction, and a branch has its three cases. -/
theorem taskInstructionsWriteRegistersAndPc : Obligations.TaskInstructionsWriteRegistersAndPc := by
  refine ⟨fun s e t => ?_, fun s e t => ?_⟩
  · exact ⟨exec_regOp, exec_regOp, exec_regOp, exec_regOp, exec_regOp, exec_regOp, exec_regOp, exec_regOp,
      fun h => exec_instr h rfl _, fun h => exec_instr h rfl _, fun h => exec_instr h rfl _⟩
  · exact ⟨fun h => branch_cases (exec_instr h rfl _), fun h => branch_cases (exec_instr h rfl _),
      fun h => branch_cases (exec_instr h rfl _), fun h => branch_cases (exec_instr h rfl _),
      fun h => branch_cases (t := setReg t _ _) (exec_instr h rfl _)⟩

end Sys2Proof
end

section
/-! PROOFS. Task loads, stores and atomics, and task instructions on queues and fences (R244, R245, R254, R285, R286). -/

namespace Sys2Proof.Machine

/-! ### Eight bytes of a window (R244, R254) -/

/-- A word stored in the window reads back; no other byte changes, and of the rest of the state only the engine's task. -/
theorem setTask_write (s : State) (e a v : Nat) (t : Task) :
    let u := setTask (s.write (.window e) a (natLe 8 v)) e t
    u.read (.window e) a 8 = natLe 8 v ∧
    (∀ m, (m < memKey (.window e) a ∨ memKey (.window e) a + 8 ≤ m) → memGet u.mem m = memGet s.mem m) ∧
    u.eng e = { s.eng e with task := some t } ∧ u = { s with mem := u.mem, engines := u.engines } := by
  refine ⟨?_, fun m hm => ?_, eng_modEng, rfl⟩
  · have h := memRead_write s.mem (memKey (.window e) a) (natLe 8 v)
    rwa [natLe_length] at h
  · exact memGet_write_out _ _ _ _ (by rwa [natLe_length])

section
variable {s : State} {e : Nat} {t : Task}

/-- An access out of the window ends the task. -/
theorem nextKeeping_ite_setTask {inside : Bool} {u : State} (hu : u.pending = s.pending) :
    nextKeeping s (if inside then setTask u e t else endTask s e 0x3052) =
      if inside then .next (setTask u e t) else nextKeeping s (endTask s e 0x3052) := by
  split
  · exact nextKeeping_eq hu
  · rfl

theorem execTaskLd_eq (h : TaskAt s e 0x18 t) : execTaskLd e s =
    let w := taskWord e t t.pc
    if windowOk t (dispAddr t w) 8 then .next (setTask s e (nextPc (setReg t (dReg w)
      (BitVec.ofNat 64 (s.readNat (.window e) (dispAddr t w).toNat 8))) 1))
    else nextKeeping s (endTask s e 0x3052) :=
  (exec_instr h rfl _).trans (nextKeeping_ite_setTask rfl)

theorem execTaskSt_eq (h : TaskAt s e 0x19 t) : execTaskSt e s =
    let w := taskWord e t t.pc
    if windowOk t (dispAddr t w) 8 then
      .next (setTask (s.write (.window e) (dispAddr t w).toNat (natLe 8 (getReg t (dReg w)).toNat)) e (nextPc t 1))
    else nextKeeping s (endTask s e 0x3052) :=
  (exec_instr h rfl _).trans (nextKeeping_ite_setTask rfl)

theorem exec_atomicOp {op : Nat} {f : DWord → DWord → DWord} (h : TaskAt s e op t) :
    act (isEngine e) s (fun s => atomicOp s e op f) =
      let w := taskWord e t t.pc
      let a := (getReg t (aReg w)).toNat
      let old : DWord := BitVec.ofNat 64 (s.readNat (.window e) a 8)
      if windowOk t a 8 then
        .next (setTask (s.write (.window e) a (natLe 8 (f old (getReg t (bReg w))).toNat)) e
          (nextPc (setReg t (dReg w) old) 1))
      else nextKeeping s (endTask s e 0x3052) :=
  (exec_instr (isOp := (· == op)) h (beq_self_eq_true op) _).trans (nextKeeping_ite_setTask rfl)

end

/-! ### A waiting task goes on -/

section
variable {s : State} {e i : Nat} {t : Task} (hworks : s.works = true) (hengine : isEngine e = true)
  (htask : (s.eng e).task = some t)
include hworks hengine htask

theorem execWaitqSatisfied_eq {addr reg : Nat} {q : Queue} (hwait : t.wait = .queue i addr reg) (hq : s.queue? i = some q) :
    execWaitqSatisfied e s = nextKeeping s (handOut s e t i q addr reg) := by
  rw [execWaitqSatisfied, act_works hworks hengine]
  simp only [htask, hwait, hq]

theorem execWaitfSatisfied_of_past {h : Nat} {v : DWord} {f : Fence} (hwait : t.wait = .fence h v)
    (hi : fenceIndex s h = some i) (hf : s.fence? i = some f) (hpast : atOrPast 64 f.value.toNat v.toNat = true) :
    execWaitfSatisfied e s = .next (setTask s e (nextPc { t with wait := .running } 1)) := by
  rw [execWaitfSatisfied, act_works hworks hengine]
  simp only [htask, hwait, hi, hf, hpast, if_true, nextKeeping_setTask]

end

/-! ### Queues (R245) -/

section
variable {s : State} {e i addr reg seq : Nat} {t : Task} {q : Queue} {d : Desc} {rest : List (Nat × Desc)}

theorem handOut_of_ready (hwaiting : q.waiting = (seq, d) :: rest) (hready : q.state = .ready) :
    handOut s e t i q addr reg = setTask ((s.setQueue i
      { q with waiting := rest, started := (q.started + 1) % 2 ^ 32 }).write (.window e) addr (descBytes d)) e
      (nextPc { setReg t reg (BitVec.ofNat 64 seq) with
        wait := .running, handed := t.handed ++ [{ queue := i, seq := seq, desc := d }] } 1) := by
  simp only [handOut, hwaiting, hready, beq_self_eq_true, if_true]

theorem handOut_of_empty (hwaiting : q.waiting = []) :
    handOut s e t i q addr reg = setTask s e { t with wait := .queue i addr reg } := by
  simp only [handOut, hwaiting]

theorem placeDesc_of_full {b : List Byte} (hfull : ringFull q = true) : placeDesc s i q b = .full := if_pos hfull

theorem placeDesc_of_room {b : List Byte} {u : State} (hroom : ringFull q = false)
    (hwrite : writeVa s q.port q.pasid (q.ring + 64 * (q.tail % 2 ^ q.ringLog2)) b = .ok u) :
    placeDesc s i q b = .placed (u.setQueue i { q with tail := (q.tail + 1) % 2 ^ 32 }) := by
  simp only [placeDesc, hroom, Bool.false_eq_true, if_false, hwrite]

end

/-! ### The instructions (R244, R245, R285, R286) -/

section
variable {s : State} {e i : Nat} {t : Task} {q : Queue} {f : Fence}

theorem execTaskWaitq_eq (h : TaskAt s e 0x28 t) (hq : servedQueue s e t (taskWord e t t.pc) = some (i, q)) :
    execTaskWaitq e s = nextKeeping s (if windowOk t (getReg t (aReg (taskWord e t t.pc))).toNat 64 then
      handOut s e t i q (getReg t (aReg (taskWord e t t.pc))).toNat (dReg (taskWord e t t.pc)) else endTask s e 0x3052) := by
  refine (exec_instr h rfl _).trans ?_
  simp only [hq]

section
variable (h : TaskAt s e 0x29 t) (hq : tableQueue s t (taskWord e t t.pc) 3 = some (i, q))
include h hq

theorem execTaskEnq_of_outside (hout : windowOk t (getReg t (aReg (taskWord e t t.pc))).toNat 64 = false) :
    execTaskEnq e s = nextKeeping s (endTask s e 0x3052) := by
  refine (exec_instr h rfl _).trans ?_
  simp only [hq, hout, Bool.not_false, if_true]

variable (hin : windowOk t (getReg t (aReg (taskWord e t t.pc))).toNat 64 = true)
include hin

theorem execTaskEnq_of_full (hplace : placeDesc s i q
    (s.read (.window e) (getReg t (aReg (taskWord e t t.pc))).toNat 64) = .full) :
    execTaskEnq e s = .next (setTask s e (nextPc (setReg t (dReg (taskWord e t t.pc)) 1) 1)) := by
  refine (exec_instr h rfl _).trans ?_
  simp only [hq, hin, hplace, Bool.not_true, Bool.false_eq_true, if_false, nextKeeping_setTask]

theorem execTaskEnq_of_placed {u : State} (hplace : placeDesc s i q
    (s.read (.window e) (getReg t (aReg (taskWord e t t.pc))).toNat 64) = .placed u) :
    execTaskEnq e s = nextKeeping s (setTask u e (nextPc (setReg t (dReg (taskWord e t t.pc)) 0) 1)) := by
  refine (exec_instr h rfl _).trans ?_
  simp only [hq, hin, hplace, Bool.not_true, Bool.false_eq_true, if_false]

end

theorem execTaskWaitf_eq (h : TaskAt s e 0x2A t) (hf : tableFence s t (taskWord e t t.pc) = .ok (i, f)) :
    execTaskWaitf e s =
      .next (if atOrPast 64 f.value.toNat (getReg t (aReg (taskWord e t t.pc))).toNat then setTask s e (nextPc t 1)
        else setTask s e { t with
          wait := .fence ((tableHandle t (taskWord e t t.pc)).getD 0) (getReg t (aReg (taskWord e t t.pc))) }) := by
  refine (exec_instr h rfl _).trans ?_
  simp only [hf]
  split <;> rfl

theorem execTaskSigf_of_mirrored {v : Nat} {u : State} (h : TaskAt s e 0x2B t)
    (hf : tableFence s t (taskWord e t t.pc) = .ok (i, f))
    (hv : fenceNext f.value.toNat (getReg t (aReg (taskWord e t t.pc))).toNat 0 = v)
    (hmirror : writeMirror (s.setFence i { f with value := BitVec.ofNat 64 v }) f v = .ok u) :
    execTaskSigf e s = nextKeeping s (setTask u e (nextPc t 1)) := by
  refine (exec_instr h rfl _).trans ?_
  simp only [hf, hv, hmirror]

theorem execTaskDone_of_written {k : Handed} {u : State} (h : TaskAt s e 0x2C t)
    (hq : servedQueue s e t (taskWord e t t.pc) = some (i, q))
    (hk : t.handed.find? (fun k => k.queue == i && k.seq == (getReg t (dReg (taskWord e t t.pc))).toNat) = some k)
    (hwrite : writeVa s q.port q.pasid (cplAddr q (getReg t (dReg (taskWord e t t.pc))).toNat + 8)
      (recordHigh (doneRecord q k (getReg t (aReg (taskWord e t t.pc))).toNat)) = .ok u) :
    execTaskDone e s = nextKeeping s (putRecord
      (setTask u e (nextPc { t with handed := t.handed.filter fun x => x != k } 1)) i
      (doneRecord q k (getReg t (aReg (taskWord e t t.pc))).toNat)) := by
  refine (exec_instr h rfl _).trans ?_
  simp only [hq, hk, hwrite]

end

end Sys2Proof.Machine

namespace Sys2Proof
open Machine

/-- Settles O5: an access checked in the window reads and writes its 8 bytes there, and each of the other instructions is the
equation of its case. -/
theorem taskInstructionsOnMemoryQueuesAndFences : Obligations.TaskInstructionsOnMemoryQueuesAndFences := by
  refine ⟨fun s e t => ?_, fun s e t i => ?_⟩
  · refine ⟨fun h hin => (execTaskLd_eq h).trans (if_pos hin), fun h hout => (execTaskLd_eq h).trans (if_neg ?_),
      fun h hout => (execTaskSt_eq h).trans (if_neg ?_),
      fun h hin => ⟨_, (execTaskSt_eq h).trans (if_pos hin), setTask_write ..⟩,
      fun hout => ⟨fun h => (exec_atomicOp h).trans (if_neg ?_), fun h => (exec_atomicOp h).trans (if_neg ?_)⟩,
      fun h hin => ⟨_, (exec_atomicOp h).trans (if_pos hin), setTask_write ..⟩,
      fun h hin => ⟨_, (exec_atomicOp h).trans (if_pos hin), setTask_write ..⟩⟩ <;>
      exact ne_true_of_eq_false hout
  · refine ⟨fun q seq d rest hwaiting hready => ⟨fun h hq hin => ?_, fun addr reg hworks hengine htask hwait hq => ?_⟩,
      fun q hout => ⟨fun h hq => ?_, fun h hq => execTaskEnq_of_outside h hq hout⟩, fun q h hq hin hempty => ?_,
      fun q h hq hin => ⟨fun hfull => execTaskEnq_of_full h hq hin (placeDesc_of_full hfull),
        fun u hroom hwrite => execTaskEnq_of_placed h hq hin (placeDesc_of_room hroom hwrite)⟩,
      fun f h hf => ⟨fun hpast => ?_, fun hbefore => ?_⟩,
      fun h v f hworks hengine htask hwait hi hf hpast =>
        execWaitfSatisfied_of_past hworks hengine htask hwait hi hf hpast,
      fun f u h hf hmirror => execTaskSigf_of_mirrored h hf rfl hmirror,
      fun q k u h hq hk hwrite => execTaskDone_of_written h hq hk hwrite⟩
    · refine (execTaskWaitq_eq h hq).trans ?_
      rw [if_pos hin, handOut_of_ready hwaiting hready]
      rfl
    · refine (execWaitqSatisfied_eq hworks hengine htask hwait hq).trans ?_
      rw [handOut_of_ready hwaiting hready]
      rfl
    · refine (execTaskWaitq_eq h hq).trans ?_
      rw [if_neg (ne_true_of_eq_false hout)]
    · refine (execTaskWaitq_eq h hq).trans ?_
      rw [if_pos hin, handOut_of_empty hempty]
      rfl
    · exact (execTaskWaitf_eq h hf).trans (congrArg _ (if_pos hpast))
    · exact (execTaskWaitf_eq h hf).trans (congrArg _ (if_neg (ne_true_of_eq_false hbefore)))

end Sys2Proof
end

section
/-! PROOFS. Tasks are launched, stopped and end; descriptors are enqueued (R244, R247-R251). -/

namespace Sys2Proof.Machine

/-! ### The task family (R249-R251) -/

section
variable {s u : State} {c i : Nat} {x : Cmd} {q k : Queue}

theorem taskEngine_ok {d : Desc} (h : dField d 0x3C 2 ∈ q.engines) : taskEngine d q = .ok (dField d 0x3C 2) :=
  if_pos (List.contains_iff_mem.2 h)

/-- The task a launch starts (R249). -/
def launchedTask (s : State) (x : Cmd) (q : Queue) (code : List Word) (hs : List DWord) : Task :=
  let d := x.desc
  { regs := [(1, BitVec.ofNat 64 (dField d 0x38 4))], pc := 0, code := code, handles := hs, windowBytes := dField d 0x38 4,
    windowBase := windowPlace s (dField d 0x3C 2) q.kind (dField d 0x38 4), queue := x.queue,
    endFence := BitVec.ofNat 64 (dField d 0x20 8), endValue := BitVec.ofNat 64 (dField d 0x28 8), endAddr := dField d 0x30 8 }

theorem launchTaskBody_of_accepted {code : List Word} {hs : List DWord} (hengine : dField x.desc 0x3C 2 ∈ q.engines)
    (hfree : (s.eng (dField x.desc 0x3C 2)).task = none)
    (hfence : dField x.desc 0x20 8 = 0 ∨ ∃ f, needFence s q.port (dField x.desc 0x20 8) 0x20 = .ok f)
    (hwindow : windowFree s (dField x.desc 0x3C 2) (dField x.desc 0x38 4) = true)
    (hcode : readImage s q (dField x.desc 0x10 8) = .ok code) (hhs : readHandles s q (dField x.desc 0x18 8) = .ok hs) :
    launchTaskBody s x q = .ok (setTask { s.clear (.window (dField x.desc 0x3C 2)) with draws := s.draws + 1 }
      (dField x.desc 0x3C 2) (launchedTask s x q code hs)) 0 := by
  have hend : (if dField x.desc 0x20 8 == 0 then .ok () else match needFence s q.port (dField x.desc 0x20 8) 0x20 with
      | .ok _ => .ok ()
      | .error z => .error z : Try Unit) = .ok () := by
    obtain hzero | ⟨f, hf⟩ := hfence
    · exact if_pos (beq_iff_eq.2 hzero)
    · rw [hf]
      exact ite_self _
  simp only [launchTaskBody, taskEngine_ok hengine, needOpen_ok (Option.isNone_iff_eq_none.2 hfree), needOpen_ok hwindow,
    hcode, hhs, within_ok]
  exact congrArg (within · _) hend

section
variable {b : List Byte} (hfed : fedQueue s x q = .ok (i, k))
  (hread : readVa s q.port q.pasid (dField x.desc 0x10 8) 64 = .ok b)
include hfed hread

theorem enqueueBody_of_full (hplace : placeDesc s i k b = .full) : enqueueBody s x q = .run s := by
  simp only [enqueueBody, hfed, hread, hplace, within_ok]

theorem enqueueBody_of_placed (hplace : placeDesc s i k b = .placed u) : enqueueBody s x q = .ok u 0 := by
  simp only [enqueueBody, hfed, hread, hplace, within_ok]

end

section
variable (hengine : dField x.desc 0x3C 2 ∈ q.engines)
include hengine

theorem stopTaskBody_of_none (htask : (s.eng (dField x.desc 0x3C 2)).task = none) : stopTaskBody s x q = .ok s 0 := by
  simp only [stopTaskBody, taskEngine_ok hengine, htask, within_ok]

theorem stopTaskBody_of_ended {t : Task} (htask : (s.eng (dField x.desc 0x3C 2)).task = some t) (hown : t.queue = x.queue)
    (hended : ((endTask s (dField x.desc 0x3C 2) 0).eng (dField x.desc 0x3C 2)).task = none) :
    stopTaskBody s x q = .ok (endTask s (dField x.desc 0x3C 2) 0) 0 := by
  simp only [stopTaskBody, taskEngine_ok hengine, htask, needOpen_ok (beq_iff_eq.2 hown), hended, within_ok,
    Option.isNone_none, if_true]

end

theorem exec_launchTask : exec (.launchTask c) s =
    act true s fun s => takeCmd s c 0xA0 [.started, .waiting] launchTaskBody := rfl

theorem exec_enqueue : exec (.enqueue c) s = act true s fun s => takeCmd s c 0xA1 [.started, .waiting] enqueueBody := rfl

theorem exec_deviceFedSpaceAvailable : exec (.deviceFedSpaceAvailable c) s =
    act true s fun s => takeCmd s c 0xA1 [.waiting, .running] enqueueBody := rfl

theorem exec_stopTask : exec (.stopTask c) s =
    act true s fun s => takeCmd s c 0xA2 [.started, .waiting, .running] stopTaskBody := rfl

end

/-! ### The end of a task (R250) -/

/-- Zero is no fence's handle: a handle carries its kind (R50). -/
theorem fenceIndex_zero (s : State) : fenceIndex s 0 = none := by
  unfold fenceIndex handleIndex
  dsimp only
  split
  · exact if_neg (by unfold mkHandle; omega)
  · rfl

section
variable {s : State} {e fault : Nat} {t : Task} {q : Queue}

/-- The state after a task's end with no descriptor handed out and no fence to signal: window zero, context free. -/
theorem closeTask_of_bare (hhanded : t.handed = []) (hfence : t.endFence = 0) :
    closeTask s e t = dropTask (s.clear (.window e)) e := by
  have hnone : fenceIndex (s.clear (.window e)) t.endFence.toNat = none := hfence ▸ fenceIndex_zero _
  simp only [closeTask, hhanded, undoneRecords, hnone]

section
variable (hq : s.queue? t.queue = some q)
include hq

theorem recordEnd_of_none (hnone : t.endAddr = 0) : recordEnd s e t fault = closeTask s e t := by
  simp [recordEnd, hq, hnone]

theorem recordEnd_of_written (hrecord : t.endAddr ≠ 0) (hcheck : checkVa s q.port q.pasid t.endAddr 16 true = .ok ()) :
    recordEnd s e t fault = closeTask (pokeVa s q.port q.pasid t.endAddr (endRecord s e t fault)) e t := by
  simp [recordEnd, hq, hrecord, writeVa, endRecord_length, hcheck]

end

theorem TaskAt.running {op : Nat} (h : TaskAt s e op t) : (s.eng e).task = some t ∧ t.wait = .running := by
  obtain ⟨-, -, htask, hwait, -⟩ := h
  exact ⟨htask, hwait⟩

theorem endTask_of_running (htask : (s.eng e).task = some t) (hwait : t.wait = .running) :
    endTask s e fault = recordEnd s e t fault := by
  simp only [endTask, htask, hwait]

/-- What a task's end leaves, with an end record and without. -/
theorem end_cases {o : Out} (hq : s.queue? t.queue = some q) (hhanded : t.handed = []) (hfence : t.endFence = 0)
    (htask : (s.eng e).task = some t) (hwait : t.wait = .running) (ho : o = nextKeeping s (endTask s e fault)) :
    (t.endAddr = 0 → o = .next (dropTask (s.clear (.window e)) e)) ∧
    (t.endAddr ≠ 0 → checkVa s q.port q.pasid t.endAddr 16 true = .ok () →
      o = nextKeeping s (dropTask ((pokeVa s q.port q.pasid t.endAddr (endRecord s e t fault)).clear (.window e)) e)) := by
  subst ho
  rw [endTask_of_running htask hwait]
  refine ⟨fun hnone => ?_, fun hrecord hcheck => ?_⟩
  · rw [recordEnd_of_none hq hnone, closeTask_of_bare hhanded hfence]
    rfl
  · rw [recordEnd_of_written hq hrecord hcheck, closeTask_of_bare hhanded hfence]

theorem execTaskRanWithoutWaiting_of_running (hworks : s.works = true) (hengine : isEngine e = true)
    (htask : (s.eng e).task = some t) (hwait : t.wait = .running) :
    execTaskRanWithoutWaiting e s = nextKeeping s (endTask s e 0x3053) := by
  rw [execTaskRanWithoutWaiting, act_works hworks hengine]
  simp only [htask, hwait, beq_self_eq_true, if_true]

end

end Sys2Proof.Machine

namespace Sys2Proof
open Machine

/-- Settles O6: a checked body completes or runs on, and its command with it; a task ends through its record and its window. -/
theorem tasksStartAndEnd : Obligations.TasksStartAndEnd := by
  refine ⟨fun s c x q => ?_, fun s e t q hq hhanded hfence => ?_⟩
  · refine ⟨fun code hs h hengine hfree hfence hwindow hcode hhs => exec_launchTask.trans
        (takeCmd_ok h (launchTaskBody_of_accepted hengine hfree hfence hwindow hcode hhs)),
      fun i k b hfed hread => ⟨fun h hfull => exec_enqueue.trans
        (takeCmd_goes h (enqueueBody_of_full hfed hread (placeDesc_of_full hfull))), fun v hroom hwrite => ?_⟩,
      fun h hengine htask => exec_stopTask.trans (takeCmd_ok (h.mono (by decide)) (stopTaskBody_of_none hengine htask)),
      fun t h hengine htask hown hended => exec_stopTask.trans
        (takeCmd_ok (h.mono (by decide)) (stopTaskBody_of_ended hengine htask hown hended))⟩
    have hbody := enqueueBody_of_placed hfed hread (placeDesc_of_room hroom hwrite)
    exact ⟨fun h => exec_enqueue.trans (takeCmd_ok h hbody), fun h => exec_deviceFedSpaceAvailable.trans (takeCmd_ok h hbody)⟩
  · refine ⟨fun h => ?_, fun op h hop => ?_, fun hworks hengine htask hwait => ?_⟩
    · obtain ⟨htask, hwait⟩ := h.running
      exact end_cases hq hhanded hfence htask hwait (exec_instr h rfl _)
    · obtain ⟨htask, hwait⟩ := h.running
      exact end_cases hq hhanded hfence htask hwait (exec_instr h (by simpa using hop) _)
    · exact end_cases hq hhanded hfence htask hwait (execTaskRanWithoutWaiting_of_running hworks hengine htask hwait)

end Sys2Proof
end

section
/-! PROOFS. A scratchpad serves one request, whatever the background test does there (R33-R35, R252-R257, R261). -/

namespace Sys2Proof.Machine

/-! ### Words as they are served (R256) -/

section
variable {x : Bank} {w k v : Nat}

theorem spdGet_put_same (x : Bank) (w v : Nat) : spdGet (spdPut x w v) w = v := by
  by_cases h : inBuffer x w = true
  · have hput : spdPut x w v = { x with buffer := tblSet 0 x.buffer (w % 256) v } := if_pos h
    rw [hput]
    exact (if_pos h).trans (tblGet_set_same ..)
  · have hput : spdPut x w v = { x with words := tblSet 0 x.words w v } := if_neg h
    rw [hput]
    exact (if_neg h).trans (tblGet_set_same ..)

/-- A word of the save buffer is one of the region under test. -/
theorem region_of_inBuffer (h : inBuffer x w = true) : w / 256 = x.region := by
  simp only [inBuffer, Bool.and_eq_true, beq_iff_eq] at h
  obtain ⟨⟨-, hregion⟩, -⟩ := h
  exact hregion

theorem spdGet_put_ne (v : Nat) (hk : k ≠ w) : spdGet (spdPut x w v) k = spdGet x k := by
  by_cases h : inBuffer x w = true
  · have hput : spdPut x w v = { x with buffer := tblSet 0 x.buffer (w % 256) v } := if_pos h
    rw [hput]
    by_cases hin : inBuffer x k = true
    · have hplace : k % 256 ≠ w % 256 := by
        have := region_of_inBuffer h
        have := region_of_inBuffer hin
        omega
      exact (if_pos hin).trans ((tblGet_set_ne _ _ _ hplace).trans (if_pos hin).symm)
    · exact (if_neg hin).trans (if_neg hin).symm
  · have hput : spdPut x w v = { x with words := tblSet 0 x.words w v } := if_neg h
    rw [hput]
    by_cases hin : inBuffer x k = true
    · exact (if_pos hin).trans (if_pos hin).symm
    · exact (if_neg hin).trans ((tblGet_set_ne _ _ _ hk).trans (if_neg hin).symm)

theorem spdPut_requests (x : Bank) (w v : Nat) : (spdPut x w v).waiting = x.waiting ∧ (spdPut x w v).ports = x.ports := by
  unfold spdPut
  split <;> exact ⟨rfl, rfl⟩

/-! ### A test access (R256, R257) -/

theorem inBuffer_copy (h : x.phase = .copy) : inBuffer x w = true ↔ w / 256 = x.region ∧ w % 256 < x.pointer := by
  simp [inBuffer, h]

theorem inBuffer_restore (h : x.phase = .restore) : inBuffer x w = true ↔ w / 256 = x.region ∧ x.pointer ≤ w % 256 := by
  simp [inBuffer, h]

/-- The copy of the word at the pointer to the save buffer. -/
def saveWord (x : Bank) : Bank :=
  { x with buffer := tblSet 0 x.buffer x.pointer (tblGet 0 x.words (256 * x.region + x.pointer)), pointer := x.pointer + 1 }

/-- The way back of the word at the pointer from the save buffer. -/
def restoreWord (x : Bank) : Bank :=
  { x with words := tblSet 0 x.words (256 * x.region + x.pointer) (tblGet 0 x.buffer x.pointer), pointer := x.pointer + 1 }

theorem spdGet_saveWord (hphase : x.phase = .copy) (hp : x.pointer < 256) (w : Nat) :
    spdGet (saveWord x) w = spdGet x w := by
  have hafter : inBuffer (saveWord x) w = true ↔ w / 256 = x.region ∧ w % 256 < x.pointer + 1 := inBuffer_copy hphase
  have hbefore : inBuffer x w = true ↔ w / 256 = x.region ∧ w % 256 < x.pointer := inBuffer_copy hphase
  by_cases hw : w = 256 * x.region + x.pointer
  · have hplace : w % 256 = x.pointer := by omega
    rw [spdGet, spdGet, if_pos (hafter.2 (by omega)), if_neg (mt hbefore.1 (by omega)), hplace, hw]
    exact tblGet_set_same ..
  · by_cases hin : inBuffer x w = true
    · have hplace := hbefore.1 hin
      rw [spdGet, spdGet, if_pos (hafter.2 (by omega)), if_pos hin]
      exact tblGet_set_ne _ _ _ (by omega)
    · rw [spdGet, spdGet, if_neg (mt hafter.1 fun h => hin (hbefore.2 (by omega))), if_neg hin]
      rfl

theorem spdGet_restoreWord (hphase : x.phase = .restore) (hp : x.pointer < 256) (w : Nat) :
    spdGet (restoreWord x) w = spdGet x w := by
  have hafter : inBuffer (restoreWord x) w = true ↔ w / 256 = x.region ∧ x.pointer + 1 ≤ w % 256 := inBuffer_restore hphase
  have hbefore : inBuffer x w = true ↔ w / 256 = x.region ∧ x.pointer ≤ w % 256 := inBuffer_restore hphase
  by_cases hw : w = 256 * x.region + x.pointer
  · have hplace : w % 256 = x.pointer := by omega
    rw [spdGet, spdGet, if_neg (mt hafter.1 (by omega)), if_pos (hbefore.2 (by omega)), hplace, hw]
    exact tblGet_set_same ..
  · by_cases hin : inBuffer x w = true
    · have hplace := hbefore.1 hin
      rw [spdGet, spdGet, if_pos (hafter.2 (by omega)), if_pos hin]
      rfl
    · rw [spdGet, spdGet, if_neg (mt hafter.1 fun h => hin (hbefore.2 (by omega))), if_neg hin]
      exact tblGet_set_ne _ _ _ hw

end

section
variable (granted : List SpdReq) (x : Bank)

/-- What a test access does: nothing, a count of the march, or the move of one word to or from the save buffer. -/
theorem testAccess_cases : testAccess granted x = x ∨
    (x.phase = .march ∧ ∃ accesses pointer, testAccess granted x = { x with accesses := accesses, pointer := pointer }) ∨
    (x.pointer < 256 ∧ ((x.phase = .copy ∧ testAccess granted x = saveWord x) ∨
      (x.phase = .restore ∧ testAccess granted x = restoreWord x))) := by
  unfold testAccess
  dsimp only
  split
  · exact .inl rfl
  · next hp =>
    have hp' : x.pointer < 256 := Nat.not_le.1 hp
    split
    · exact .inl rfl
    · next hphase =>
      split
      · exact .inl rfl
      · exact .inr (.inr ⟨hp', .inl ⟨hphase, rfl⟩⟩)
    · next hphase =>
      refine .inr (.inl ⟨hphase, ?_⟩)
      split
      · exact ⟨0, x.pointer + 1, rfl⟩
      · exact ⟨x.accesses + 1, x.pointer, rfl⟩
    · next hphase =>
      split
      · exact .inl rfl
      · exact .inr (.inr ⟨hp', .inr ⟨hphase, rfl⟩⟩)

/-- A word that the test moves to or from the save buffer reads as before, and so does every other. -/
theorem spdGet_testAccess (w : Nat) : spdGet (testAccess granted x) w = spdGet x w := by
  obtain h | ⟨hphase, accesses, pointer, h⟩ | ⟨hp, ⟨hphase, h⟩ | ⟨hphase, h⟩⟩ := testAccess_cases granted x
  · rw [h]
  · rw [h]
    simp [spdGet, inBuffer, hphase]
  · rw [h, spdGet_saveWord hphase hp]
  · rw [h, spdGet_restoreWord hphase hp]

theorem testAccess_requests :
    (testAccess granted x).waiting = x.waiting ∧ (testAccess granted x).ports = x.ports := by
  obtain h | ⟨-, accesses, pointer, h⟩ | ⟨-, ⟨-, h⟩ | ⟨-, h⟩⟩ := testAccess_cases granted x <;> rw [h] <;>
    exact ⟨rfl, rfl⟩

end

end Sys2Proof.Machine
end

section
/-! PROOFS. The one request at a scratchpad is presented and granted (R33-R35, R253). -/

namespace Sys2Proof.Machine

/-! ### Only one bank changes -/

/-- From `s` to `t` only bank `b` changes, to `x`. -/
structure OnBank (s : State) (b : Nat) (x : Bank) (t : State) : Prop where
  bank : t.bank b = x
  others : ∀ k, k ≠ b → t.bank k = s.bank k
  rest : t = { s with banks := t.banks }

section
variable {s u t : State} {b : Nat} {x y : Bank}

@[simp] theorem bank_setBank : (s.setBank b x).bank b = x := tblGet_set_same ..

theorem OnBank.refl (s : State) (b : Nat) : OnBank s b (s.bank b) s := ⟨rfl, fun _ _ => rfl, rfl⟩

theorem OnBank.setBank (h : OnBank s b x t) (y : Bank) : OnBank s b y (t.setBank b y) where
  bank := bank_setBank
  others k hk := (tblGet_set_ne _ _ _ hk).trans (h.others k hk)
  rest := by rw [h.rest]; rfl

theorem OnBank.modBank (h : OnBank s b x t) (f : Bank → Bank) : OnBank s b (f x) (t.modBank b f) :=
  h.bank ▸ h.setBank (f (t.bank b))

theorem OnBank.send (h : OnBank s b x t) (m : OutMsg) : OnBank (s.send m) b x (t.send m) where
  bank := h.bank
  others := h.others
  rest := by rw [h.rest]; rfl

/-- A change of no bank. -/
theorem OnBank.restart (h : OnBank s b x t) (hu : u.banks = t.banks) : OnBank u b x u where
  bank := by rw [State.bank, hu]; exact h.bank
  others _ _ := rfl
  rest := rfl

end

/-! ### A request is presented (R34, R35) -/

section
variable {s u : State} {b m : Nat} {r : SpdReq} {l : List Nat}

theorem groupBids_of_none {x : Bank} (h : ∀ r ∈ x.waiting, r.master ≠ m) : groupBids x m = [] := by
  refine List.filterMap_eq_nil_iff.2 fun g _ => List.find?_eq_none.2 fun r hr => ?_
  simp [h r hr]

/-- Of one request that waits a tile's row groups present that one. -/
theorem groupBids_of_one {x : Bank} (hx : x.waiting = [r]) (hgroup : r.group < 8) : groupBids x r.master = [r] := by
  have hpick : ∀ n < 8, ((List.range 8).filterMap fun g => if n = g then some r else none) = [r] := by
    intro n hn
    interval_cases n <;> rfl
  refine (List.filterMap_congr fun g _ => ?_).trans (hpick _ hgroup)
  simp only [hx, List.find?_singleton, beq_self_eq_true, Bool.true_and, beq_iff_eq]

theorem present_of_none (h : ∀ r ∈ (s.bank b).waiting, r.master ≠ m) : present b s m = s := by
  have hfind : ((s.bank b).waiting.find? fun r => r.master == m) = none :=
    List.find?_eq_none.2 fun r hr => by simp [h r hr]
  simp only [present, groupBids_of_none h, groupWinner, hfind]
  split
  · rfl
  · split <;> rfl

theorem foldl_present_of_none (h : ∀ r ∈ (s.bank b).waiting, r.master ∉ l) : l.foldl (present b) s = s := by
  induction l with
  | nil => rfl
  | cons m l ih =>
    rw [List.foldl_cons, present_of_none fun r hr => List.ne_of_not_mem_cons (h r hr)]
    exact ih fun r hr => List.not_mem_of_not_mem_cons (h r hr)

theorem countReqTops_nil : countReqTops s b [] = s := rfl

theorem present_of_one (hwaiting : (s.bank b).waiting = [r]) (hports : (s.bank b).ports = []) (hgroup : r.group < 8) :
    ∃ groups, present b s r.master =
      s.setBank b { s.bank b with waiting := [], ports := [(r.master, r)], groups := groups } := by
  by_cases htile : tileMaster b r.master = true
  · refine ⟨tblSet 0 (s.bank b).groups r.master ((r.group + 1) % 8), ?_⟩
    simp [present, hports, tblFind, htile, groupBids_of_one hwaiting hgroup, groupWinner, hwaiting, countReqTops_nil, tblPut]
  · refine ⟨(s.bank b).groups, ?_⟩
    simp [present, hports, tblFind, htile, hwaiting, tblPut]

/-- All masters' turns present the one request that waits. -/
theorem foldl_present_of_one {x : Bank} (h : OnBank s b x u) (hwaiting : x.waiting = [r]) (hports : x.ports = [])
    (hgroup : r.group < 8) (hmaster : r.master < 8) :
    ∃ groups, OnBank s b { x with waiting := [], ports := [(r.master, r)], groups := groups }
      ((List.range 8).foldl (present b) u) := by
  obtain ⟨before, after, hsplit, hbefore⟩ := List.eq_append_cons_of_mem (List.mem_range.2 hmaster)
  obtain ⟨groups, hone⟩ := present_of_one (s := u) (by rw [h.bank, hwaiting]) (by rw [h.bank, hports]) hgroup
  rw [hsplit, List.foldl_append, List.foldl_cons,
    foldl_present_of_none (s := u) (by simp [h.bank, hwaiting, hbefore]), hone, foldl_present_of_none (by simp), h.bank]
  exact ⟨groups, h.setBank _⟩

/-- A request enters with a loss count, and changes no word. -/
theorem enterReq_of_none {x : Bank} (hwaiting : x.waiting = []) :
    ∃ loss arrived, enterReq b x r = { x with waiting := [{ r with loss := loss }], arrived := arrived } := by
  unfold enterReq
  rw [hwaiting]
  split
  · exact ⟨_, _, rfl⟩
  · exact ⟨0, x.arrived, rfl⟩

/-- The state of a handshake once its one new request is presented. -/
def afterPresent (s : State) (b : Nat) (r : SpdReq) : State :=
  (List.range 8).foldl (present b) (s.modBank b fun x => [r].foldl (enterReq b) x)

theorem afterPresent_of_none (hwaiting : (s.bank b).waiting = []) (hports : (s.bank b).ports = []) (hmaster : r.master < 8)
    (hgroup : r.group < 8) : ∃ loss x, OnBank s b x (afterPresent s b r) ∧ x.waiting = [] ∧
      x.ports = [(r.master, { r with loss := loss })] ∧ spdGet x = spdGet (s.bank b) := by
  obtain ⟨loss, arrived, henter⟩ := enterReq_of_none (b := b) (r := r) hwaiting
  have hentered : OnBank s b (enterReq b (s.bank b) r) (s.modBank b fun x => [r].foldl (enterReq b) x) :=
    (OnBank.refl s b).modBank fun x => [r].foldl (enterReq b) x
  rw [henter] at hentered
  obtain ⟨groups, hpresented⟩ := foldl_present_of_one hentered rfl hports hgroup hmaster
  exact ⟨loss, _, hpresented, rfl, rfl, rfl⟩

end

/-! ### The request is granted (R253, R257) -/

/-- A bank after a handshake that granted one request. -/
def afterGrant (r : SpdReq) (x : Bank) : Bank :=
  testAccess [r] { x with handshakes := (x.handshakes + 1) % 16, lastMaster := r.master }

theorem grantSpd_one {x : Bank} {r : SpdReq} {room : Nat} (h : 0 < room) : grantSpd x room [] [r] = [r] := by
  simp [grantSpd, h]

/-- The one request presented is granted, answered and written, and the test may have its access. -/
theorem handshake_of_one {s : State} {b m : Nat} {r k : SpdReq} {x : Bank} (hx : (afterPresent s b r).bank b = x)
    (hports : x.ports = [(m, k)]) : handshake s b [r] =
      (writeReq x b (answerReq x b ((afterPresent s b r).modBank b fun y => { y with ports := [] }) k) k).modBank b
        (afterGrant k) := by
  have horder : [(m, k)].foldl (fun l e => spdInsert x.lastMaster e.2 l) [] = [k] := rfl
  have hroom : 0 < if reservedSlot x then 1 else 2 := by
    split <;> decide
  have hlost : ([k].filter fun y => !(List.contains [k] y)) = [] := by simp
  have harrays : ([k].filter fun g => !inBuffer x g.word).length < 2 :=
    (List.length_filter_le ..).trans_lt (by decide : 1 < 2)
  have hpresented : (List.range 8).foldl (present b) (s.modBank b fun x => [r].foldl (enterReq b) x) = afterPresent s b r := rfl
  simp only [handshake, hpresented, hx, hports, horder, grantSpd_one hroom, hlost, harrays, if_true]
  rfl

end Sys2Proof.Machine
end

section
/-! PROOFS. The answer and the write of the one request granted (R252-R254, R261). -/

namespace Sys2Proof.Machine

/-! ### A fault is in the log (R463) -/

/-- Merging keeps an entry of the fault's code. -/
theorem logMerge_code {code detail die now : Nat} {l es : List LogEntry} (h : logMerge code detail die now l = some es) :
    ∃ e ∈ es, e.code = code := by
  induction l generalizing es with
  | nil => cases h
  | cons x l ih =>
    unfold logMerge at h
    split at h
    · next hcode =>
      split at h
      · cases h
        exact ⟨_, List.mem_cons_self, beq_iff_eq.1 hcode⟩
      · cases h
    · obtain ⟨es', hes, rfl⟩ := Option.map_eq_some_iff.1 h
      obtain ⟨e, he, hcode⟩ := ih hes
      exact ⟨e, List.mem_cons_of_mem _ he, hcode⟩

section
variable (s : State) (code detail die engine : Nat) (portB : Bool) (who : Option (Nat × Nat × Nat))

theorem logFault_logged : ∃ e ∈ (logFault s code detail die engine portB who).flt.entries, e.code = code := by
  unfold logFault
  dsimp only
  split
  · next h => exact logMerge_code h
  · rw [State.fire_flt]
    exact ⟨_, List.mem_cons_self, rfl⟩

theorem logFault_bootStep : (logFault s code detail die engine portB who).flt.bootStep = s.flt.bootStep := by
  unfold logFault
  dsimp only
  split
  · rfl
  · rw [State.fire_flt]

theorem logFault_sec : (logFault s code detail die engine portB who).sec = s.sec :=
  (congrArg State.sec (logFault_eventless s code detail die engine portB who) :)

theorem logFault_banks : (logFault s code detail die engine portB who).banks = s.banks :=
  (congrArg State.banks (logFault_eventless s code detail die engine portB who) :)

end

/-! ### The request granted (R252-R254, R261) -/

/-- Messages put on a bus one after the other. -/
def State.sendAll (s : State) (l : List OutMsg) : State := { s with sent := s.sent ++ l }

theorem OnBank.sendAll {s t : State} {b : Nat} {x : Bank} (h : OnBank s b x t) (l : List OutMsg) :
    OnBank (s.sendAll l) b x (t.sendAll l) where
  bank := h.bank
  others := h.others
  rest := by rw [h.rest]; rfl

/-- A state in which one bank changes and messages were put on a bus. -/
theorem OnBank.of_sendAll {s t : State} {b : Nat} {x : Bank} {l : List OutMsg} (h : OnBank (s.sendAll l) b x t) :
    t.pending = s.pending ∧ t.sent = s.sent ++ l ∧ (∀ k, k ≠ b → t.bank k = s.bank k) ∧
      t = { s with sent := t.sent, banks := t.banks } := by
  have hsent : t.sent = s.sent ++ l := (congrArg State.sent h.rest :)
  refine ⟨(congrArg State.pending h.rest :), hsent, h.others, ?_⟩
  rw [hsent]
  exact h.rest

/-- A bank with what an operation on a word writes, if it writes. -/
def writtenBank (old : Nat) (r : SpdReq) (x : Bank) : Bank :=
  match spdWrites old r.op with
  | some v => spdPut x r.word v
  | none => x

section
variable {old w : Nat} {r : SpdReq} {x : Bank}

theorem spdGet_written_same : spdGet (writtenBank (spdGet x r.word) r x) r.word =
    (spdWrites (spdGet x r.word) r.op).getD (spdGet x r.word) := by
  unfold writtenBank
  split
  · next h => rw [spdGet_put_same, h, Option.getD_some]
  · next h => rw [h, Option.getD_none]

theorem spdGet_written_ne (hw : w ≠ r.word) : spdGet (writtenBank old r x) w = spdGet x w := by
  unfold writtenBank
  split
  · exact spdGet_put_ne _ hw
  · rfl

theorem writtenBank_requests : (writtenBank old r x).waiting = x.waiting ∧ (writtenBank old r x).ports = x.ports := by
  unfold writtenBank
  split
  · exact spdPut_requests ..
  · exact ⟨rfl, rfl⟩

theorem spdGet_afterGrant : spdGet (afterGrant r x) w = spdGet x w := spdGet_testAccess ..

theorem afterGrant_requests : (afterGrant r x).waiting = x.waiting ∧ (afterGrant r x).ports = x.ports :=
  testAccess_requests ..

end

section
variable {s t u : State} {b : Nat} {r : SpdReq} {x y : Bank}

theorem mayReach_congr (hboot : t.flt.bootStep = s.flt.bootStep) (hsec : t.sec = s.sec) :
    mayReach t b r = mayReach s b r := by
  simp only [mayReach, measured, hboot, hsec]

theorem OnBank.reach_eq (h : OnBank s b y t) : mayReach t b r = mayReach s b r :=
  mayReach_congr (congrArg (·.flt.bootStep) h.rest) (congrArg (·.sec) h.rest)

theorem answerReq_of_reach (hreach : mayReach s b r = true) (hflips : r.flips = 0) : answerReq x b s r =
    s.sendAll ((spdAnswer (spdGet x r.word) r.op).map (OutMsg.spdData b r.master)).toList := by
  simp only [answerReq, hreach, hflips, Bool.not_true, Bool.false_eq_true, if_false]
  cases spdAnswer (spdGet x r.word) r.op with
  | some v => simp [State.send, State.sendAll]
  | none => simp [State.sendAll]

theorem OnBank.writeReq (h : OnBank s b y t) (hreach : mayReach t b r = true) (hflips : r.flips = 0) :
    OnBank s b (writtenBank (spdGet x r.word) r y) (writeReq x b t r) := by
  have hwrite : (!mayReach t b r || (decodes r.op && decide (2 ≤ r.flips))) = false := by simp [hreach, hflips]
  rw [Machine.writeReq, hwrite, writtenBank]
  cases spdWrites (spdGet x r.word) r.op with
  | some v => exact h.modBank fun z => spdPut z r.word v
  | none => exact h

/-- A granted request that reaches its word is answered and written. -/
theorem OnBank.granted (h : OnBank s b y t) (hreach : mayReach t b r = true) (hflips : r.flips = 0) :
    OnBank (s.sendAll ((spdAnswer (spdGet x r.word) r.op).map (OutMsg.spdData b r.master)).toList) b
      (afterGrant r (writtenBank (spdGet x r.word) r y))
      ((Machine.writeReq x b (answerReq x b t r) r).modBank b (afterGrant r)) := by
  rw [answerReq_of_reach hreach hflips]
  have hsent : mayReach (t.sendAll ((spdAnswer (spdGet x r.word) r.op).map (OutMsg.spdData b r.master)).toList) b r = true :=
    (mayReach_congr rfl rfl).trans hreach
  exact ((h.sendAll _).writeReq hsent hflips).modBank _

/-! ### A request that may not reach its word (R261) -/

section
variable (hreach : mayReach s b r = false)
include hreach

theorem answerReq_of_sealed : answerReq x b s r =
    let u := logOnDie s 0x8030 (noDetail 0x8030) (b - 706)
    if decodes r.op then u.send (.spdData b r.master 0) else u := by
  simp [answerReq, hreach]

theorem writeReq_of_sealed : writeReq x b s r = s := by
  simp [Machine.writeReq, hreach]

/-- It is logged and answered zero, and may not reach the word after that either. -/
theorem answerReq_sealed : let t := answerReq x b s r
    t.banks = s.banks ∧ mayReach t b r = false ∧ (decodes r.op = true → OutMsg.spdData b r.master 0 ∈ t.sent) ∧
      ∃ l ∈ t.flt.entries, l.code = 0x8030 := by
  rw [answerReq_of_sealed hreach]
  have hsealed : mayReach (logOnDie s 0x8030 (noDetail 0x8030) (b - 706)) b r = false :=
    (mayReach_congr (logFault_bootStep ..) (logFault_sec ..)).trans hreach
  dsimp only
  split
  · exact ⟨logFault_banks .., hsealed, fun _ => List.mem_append_right _ List.mem_cons_self, logFault_logged ..⟩
  · next hop => exact ⟨logFault_banks .., hsealed, fun h => absurd h hop, logFault_logged ..⟩

end

end

/-! ### The handshake -/

section
variable {s : State} {b : Nat} {r : SpdReq}

theorem execScratchpadHandshake_one (hworks : s.works = true) (hbank : isBank b = true) (hwf : r.wf = true)
    (hword : b < 768 ∨ r.word < 16384) : execScratchpadHandshake b [r] s = nextKeeping s (handshake s b [r]) :=
  act_works hworks (by simpa [hbank, hwf] using hword)

section
variable (hwaiting : (s.bank b).waiting = []) (hports : (s.bank b).ports = []) (hmaster : r.master < 8)
  (hgroup : r.group < 8)
include hwaiting hports hmaster hgroup

theorem handshake_of_reach (hreach : mayReach s b r = true) (hflips : r.flips = 0) :
    ∃ x k, k.word = r.word ∧ k.op = r.op ∧ x.waiting = [] ∧ x.ports = [] ∧ spdGet x = spdGet (s.bank b) ∧
      OnBank (s.sendAll ((spdAnswer (spdGet (s.bank b) r.word) r.op).map (OutMsg.spdData b r.master)).toList) b
        (afterGrant k (writtenBank (spdGet x k.word) k x)) (handshake s b [r]) := by
  obtain ⟨loss, x, hx, hnone, hport, hget⟩ := afterPresent_of_none hwaiting hports hmaster hgroup
  have hu := hx.modBank fun y => { y with ports := [] }
  have hreach' : mayReach ((afterPresent s b r).modBank b fun y => { y with ports := [] }) b { r with loss := loss } = true :=
    hu.reach_eq.trans hreach
  refine ⟨{ x with ports := [] }, { r with loss := loss }, rfl, rfl, hnone, rfl, hget, ?_⟩
  rw [handshake_of_one hx.bank hport, ← hget]
  exact hu.granted hreach' hflips

theorem handshake_of_sealed (hsealed : mayReach s b r = false) : let t := handshake s b [r]
    (∀ w, spdGet (t.bank b) w = spdGet (s.bank b) w) ∧
      (decodes r.op = true → OutMsg.spdData b r.master 0 ∈ t.sent) ∧ ∃ l ∈ t.flt.entries, l.code = 0x8030 := by
  obtain ⟨loss, x, hx, hnone, hport, hget⟩ := afterPresent_of_none hwaiting hports hmaster hgroup
  have hu := hx.modBank fun y => { y with ports := [] }
  have hsealed' : mayReach ((afterPresent s b r).modBank b fun y => { y with ports := [] }) b { r with loss := loss } = false :=
    hu.reach_eq.trans hsealed
  obtain ⟨hbanks, hafter, hsent, hlogged⟩ := answerReq_sealed (x := x) hsealed'
  rw [handshake_of_one hx.bank hport, writeReq_of_sealed hafter]
  refine ⟨fun w => ?_, hsent, hlogged⟩
  rw [((hu.restart hbanks).modBank _).bank, spdGet_afterGrant]
  exact congrFun hget w

end

end

end Sys2Proof.Machine
end

section
/-! PROOFS. The background test of a scratchpad, and its control register (R256, R258, R259). -/

namespace Sys2Proof.Machine

/-! ### A pass starts (R259) -/

section
variable {s : State} {b : Nat} {x : Bank}

theorem next_setBank_congr {y : Bank} (h : x = y) : (.next (s.setBank b x) : Out) = .next (s.setBank b y) := by rw [h]

theorem bankRegions_pos : 0 < bankRegions b := by
  unfold bankRegions bankWords
  split <;> decide

theorem nextRegion_of_ahead {n r : Nat} {rest : List Nat} (h : x.ahead = r :: rest) :
    nextRegion n x = { x with phase := .copy, region := r, ahead := rest, pointer := 0, accesses := 0 } := by
  simp only [nextRegion, h]

theorem nextRegion_of_more {n : Nat} (h : x.ahead = []) (hpass : x.passRunning = true) (hmore : x.order < n) :
    nextRegion n x =
      { x with phase := .copy, region := x.order, order := x.order + 1, pointer := 0, accesses := 0 } := by
  simp [nextRegion, h, hpass, hmore]

theorem nextRegion_of_done {n : Nat} (h : x.ahead = []) (hdone : n ≤ x.order) :
    nextRegion n x = { x with phase := .idle, passRunning := false, pointer := 0, accesses := 0 } := by
  simp [nextRegion, h, Nat.not_lt.2 hdone]

theorem execBackgroundPassStart_eq (hworks : s.works = true) (hbank : isBank b = true)
    (hon : (s.die (bankDie b)).testEnable = true) (hidle : (s.bank b).passRunning = false)
    (husable : 768 ≤ b ∨ (s.eng b).usable = true) : execBackgroundPassStart b s =
      .next (s.setBank b (if (s.bank b).phase == .idle then
        nextRegion (bankRegions b) { s.bank b with passRunning := true, order := 0 }
      else { s.bank b with passRunning := true, order := 0 })) := by
  have hgoes : (!(s.die (bankDie b)).testEnable || (s.bank b).passRunning || (decide (b < 768) && !(s.eng b).usable)) =
      false := by
    simpa [hon, hidle, or_iff_not_imp_left] using husable
  rw [execBackgroundPassStart, act_works hworks hbank]
  simp only [hgoes, Bool.false_eq_true, if_false]
  exact nextKeeping_eq rfl

/-! ### A phase ends (R256, R258, R259) -/

/-- The pointer is at the end and no saved context holds the test there. -/
theorem phaseEnd_goes (hend : 256 ≤ x.pointer) (hfree : 768 ≤ b ∨ (s.eng b).context = none) :
    (decide (x.pointer < 256) || (decide (b < 768) && (s.eng b).context.isSome)) = false := by
  simpa [Nat.not_lt.2 hend, or_iff_not_imp_left] using hfree

section
variable (hworks : s.works = true) (hbank : isBank b = true) (hend : 256 ≤ (s.bank b).pointer)
  (hfree : 768 ≤ b ∨ (s.eng b).context = none) {rows : List Nat}
include hworks hbank hend hfree

theorem execRegionPhaseEnd_of_copy (hphase : (s.bank b).phase = .copy) : execRegionPhaseEnd b rows s =
    .next (s.setBank b { s.bank b with phase := .march, pointer := 0, accesses := 0 }) := by
  rw [execRegionPhaseEnd, act_works hworks hbank]
  simp only [phaseEnd_goes hend hfree, Bool.false_eq_true, if_false, hphase]
  exact nextKeeping_eq rfl

theorem execRegionPhaseEnd_of_march (hphase : (s.bank b).phase = .march) : execRegionPhaseEnd b rows s =
    nextKeeping s (((rows.filter fun r => r / 256 == (s.bank b).region).foldl (repairRow b) s).modBank b fun y =>
      { y with phase := .restore, pointer := 0, accesses := 0 }) := by
  rw [execRegionPhaseEnd, act_works hworks hbank]
  simp only [phaseEnd_goes hend hfree, Bool.false_eq_true, if_false, hphase]

theorem execRegionPhaseEnd_of_restore (hphase : (s.bank b).phase = .restore) : execRegionPhaseEnd b rows s =
    .next (s.setBank b (nextRegion (bankRegions b) { s.bank b with bufferOf := some (s.bank b).region })) := by
  rw [execRegionPhaseEnd, act_works hworks hbank]
  simp only [phaseEnd_goes hend hfree, Bool.false_eq_true, if_false, hphase]
  exact nextKeeping_eq rfl

end

theorem dieEvent_banks {d cause : Nat} : (dieEvent s d cause).banks = s.banks := by
  have h : Touches (Part.fires ++ [.dies]) s (dieEvent s d cause) := Touches.refl.dieEvent
  exact h.same .banks (by decide)

/-- A row that failed takes the next good spare. -/
theorem bank_repairRow {row n : Nat} (hspare : freeSpare (s.bank b) = some n) :
    (repairRow b s row).bank b = { s.bank b with repairs := tblPut (s.bank b).repairs row n } := by
  simp only [repairRow, hspare]
  rw [State.bank, dieEvent_banks, apply_ite State.banks, logOnEngine, logOnDie, logFault_banks, logFault_banks, ite_self]
  exact tblGet_set_same ..

/-- A march that found one row of its region bad ends with that row on its spare. -/
theorem bank_march_one {row n : Nat} (hregion : row / 256 = (s.bank b).region) (hspare : freeSpare (s.bank b) = some n) :
    ((([row].filter fun r => r / 256 == (s.bank b).region).foldl (repairRow b) s).modBank b fun y =>
      { y with phase := .restore, pointer := 0, accesses := 0 }).bank b =
      { s.bank b with
        phase := .restore, repairs := tblPut (s.bank b).repairs row n, pointer := 0, accesses := 0 } := by
  have hbad : ([row].filter fun r => r / 256 == (s.bank b).region) = [row] := by simp [hregion]
  rw [hbad, List.foldl_cons, List.foldl_nil, State.modBank, bank_setBank, bank_repairRow hspare]

/-! ### The control register (R259, R260, R492) -/

section
variable {d v : Nat}

theorem execSpdTestCtrlWrite_of_reached {p : Port} (h : Reached s p) (hdie : isDie d = true) (hv : isWord v = true) :
    execSpdTestCtrlWrite p d v s = nextKeeping s (testCtrlWrite s p d v) := by
  obtain ⟨hworks, hbar⟩ := h
  rw [execSpdTestCtrlWrite, act_works hworks (by rw [hdie, hv]; rfl), overBar_reached _ hbar]

theorem testCtrlWrite_A (hd : d < 48 ∨ 62 ≤ d) (hpowered : (s.die d).powered = true) : testCtrlWrite s .A d v =
    s.setDie d { s.die d with testEnable := v / 2 ^ 31 % 2 == 1, testInterval := max 1 (v % 2 ^ 16) } := by
  have hgoes : (d < 48 || 62 ≤ d) = true := by simpa using hd
  simp only [testCtrlWrite, hgoes, hpowered, beq_self_eq_true, Bool.and_self, if_true, State.modDie, bits, pow_zero,
    Nat.div_one]
  rfl

theorem testCtrlWrite_B : testCtrlWrite s .B d v = s := rfl

end

end

end Sys2Proof.Machine

namespace Sys2Proof
open Machine

/-- Settles O16: the one request is presented, granted and written, the test's access moves no word's value, and each command
of the background test is the equation of its case. -/
theorem scratchpadsServeAndTest : Obligations.ScratchpadsServeAndTest := by
  refine ⟨fun s b r hworks hbank hwf hword hwaiting hports => ?_, fun s b hworks hbank => ?_⟩
  · have hexec := execScratchpadHandshake_one hworks hbank hwf hword
    obtain ⟨hmaster, hgroup⟩ : r.master < 8 ∧ r.group < 8 := by
      simp only [SpdReq.wf, Bool.and_eq_true, decide_eq_true_eq] at hwf
      obtain ⟨⟨⟨hparts, -⟩, -⟩, -⟩ := hwf
      exact hparts
    refine ⟨fun hreach hflips => ?_, fun hsealed => ?_⟩
    · obtain ⟨x, k, hkword, hkop, hnone, hport, hget, ht⟩ :=
        handshake_of_reach hwaiting hports hmaster hgroup hreach hflips
      obtain ⟨hpending, hsent, hothers, hrest⟩ := ht.of_sendAll
      refine ⟨handshake s b [r], hexec.trans (nextKeeping_eq hpending), hsent, ?_, fun w hw => ?_, ?_, ?_, hothers, hrest⟩
      · rw [ht.bank, spdGet_afterGrant, ← hkword, spdGet_written_same, hkop, hget]
      · rw [ht.bank, spdGet_afterGrant, spdGet_written_ne (hkword ▸ hw), hget]
      · rw [ht.bank, afterGrant_requests.1, writtenBank_requests.1, hnone]
      · rw [ht.bank, afterGrant_requests.2, writtenBank_requests.2, hport]
    · have hserved := handshake_of_sealed hwaiting hports hmaster hgroup hsealed
      generalize handshake s b [r] = t at hexec hserved
      exact ⟨_, hexec, hserved⟩
  · intro x
    refine ⟨fun hon hidle husable => ?_, fun hend hfree rows => ?_, fun d v h hdie hv hd hpowered => ?_,
      fun d v h hdie hv => ?_⟩
    · have hexec := execBackgroundPassStart_eq hworks hbank hon hidle husable
      refine ⟨fun hphase hahead => hexec.trans (next_setBank_congr ?_),
        fun hphase n rest hahead => hexec.trans (next_setBank_congr ?_),
        fun hphase => hexec.trans (next_setBank_congr (if_neg (mt beq_iff_eq.1 hphase)))⟩
      · exact (if_pos (beq_iff_eq.2 hphase)).trans (nextRegion_of_more hahead rfl bankRegions_pos)
      · exact (if_pos (beq_iff_eq.2 hphase)).trans (nextRegion_of_ahead hahead)
    · refine ⟨execRegionPhaseEnd_of_copy hworks hbank hend hfree, fun hphase hrows => ?_,
        fun hphase r n hrows hregion hspare => ?_, fun hphase => ?_⟩
      · refine (execRegionPhaseEnd_of_march hworks hbank hend hfree hphase).trans ?_
        rw [List.filter_eq_nil_iff.2 fun r hr => mt beq_iff_eq.1 (hrows r hr)]
        rfl
      · subst hrows
        exact ⟨_, execRegionPhaseEnd_of_march hworks hbank hend hfree hphase, bank_march_one hregion hspare⟩
      · have hexec := execRegionPhaseEnd_of_restore (rows := rows) hworks hbank hend hfree hphase
        exact ⟨fun n rest hahead => hexec.trans (next_setBank_congr (nextRegion_of_ahead hahead)),
          fun hahead hpass hmore => hexec.trans (next_setBank_congr (nextRegion_of_more hahead hpass hmore)),
          fun hahead hdone => hexec.trans (next_setBank_congr (nextRegion_of_done hahead hdone))⟩
    · refine (execSpdTestCtrlWrite_of_reached h hdie hv).trans ?_
      rw [testCtrlWrite_A hd hpowered]
      rfl
    · exact (execSpdTestCtrlWrite_of_reached h hdie hv).trans (nextKeeping_eq rfl)

end Sys2Proof
end

section
/-! PROOFS. The control family completes: no-op, fence wait, fence signal, barrier and resume (R284-R287). -/

namespace Sys2Proof.Machine

section
variable {s u : State} {c i : Nat} {x : Cmd} {q : Queue} {f : Fence}

theorem signalMirror_of_written {v : Nat} (h : writeMirror s f v = .ok u) :
    signalMirror s c q f v = .ok u (BitVec.ofNat 128 v) := by
  rw [signalMirror, h]

/-- A signal that its queue's earlier commands let through moves its fence and answers the value after it (R285). -/
theorem fenceSignalBody_of_first {v : Nat} (hfirst : earlierRunning s x = false) (hstage : x.stage ≠ .running)
    (hi : fenceIndex s (dField x.desc 0x10 8) = some i) (hf : s.fence? i = some f) (hport : f.port = q.port)
    (hmode : dField x.desc 0x20 1 ≤ 1) (hv : v = fenceNext f.value.toNat (dField x.desc 0x18 8) (dField x.desc 0x20 1))
    (hwrite : writeMirror (s.setFence i { f with value := BitVec.ofNat 64 v }) f v = .ok u) :
    fenceSignalBody c s x q = .ok u (BitVec.ofNat 128 v) := by
  simp only [fenceSignalBody, hfirst, needFence_ok hi hf hport, within_ok, beq_eq_false_iff_ne.2 hstage,
    need_ok (decide_eq_true hmode), ← hv, signalMirror_of_written hwrite, Bool.false_eq_true, if_false]

/-- A command that has started, or waits for a page, does not run yet. -/
theorem CommandAt.stage_ne_running {opcode : Nat} (h : Runnable s c opcode x q) : x.stage ≠ .running := by
  obtain ⟨-, -, -, -, hstage, -⟩ := h
  intro hrunning
  simp [hrunning] at hstage

end

end Sys2Proof.Machine

namespace Sys2Proof
open Machine

/-- Settles O2: each command's body completes or runs on, and so does the command (`takeCmd_ok`, `takeCmd_goes`). -/
theorem controlCommandsComplete : Obligations.ControlCommandsComplete := by
  refine fun s c x q => ⟨fun hc => takeCmd_ok hc rfl, fun hc hfirst => takeCmd_ok hc (if_neg (ne_true_of_eq_false hfirst)),
    fun hc hhalted => takeCmd_ok hc ?_, fun hc hready => takeCmd_ok hc ?_, fun i f hi hf hport => ?_⟩
  · rw [if_pos (beq_iff_eq.2 hhalted)]
  · rw [hready]
    rfl
  · have hbody := fenceWaitBody_eq hi hf hport
    refine ⟨fun hc hpast => takeCmd_ok hc (hbody.trans (if_pos hpast)),
      fun hc hbefore => takeCmd_goes hc (hbody.trans (if_neg (ne_true_of_eq_false hbefore))),
      fun hc hpast => takeCmd_ok hc (hbody.trans (if_pos hpast)), fun hc hfirst hmode v u hv hwrite => ?_⟩
    exact takeCmd_ok (hc.mono (by simp))
      (fenceSignalBody_of_first hfirst hc.stage_ne_running hi hf hport hmode hv hwrite)

end Sys2Proof
end

section
/-! PROOFS. A write of a virtual range puts each byte at its own address (R268, R270, R327, R331). -/

namespace Sys2Proof.Machine

/-! ### The pieces of a range -/

/-- Pieces that lie one after the other over a range, each in one page. -/
inductive Tiled (size : Nat) : Nat → Nat → List (Nat × Nat) → Prop
  | nil (va : Nat) : Tiled size va 0 []
  | cons {va n len : Nat} {l : List (Nat × Nat)} (hpage : ∀ j < n, (va + j) / size = va / size)
      (hl : Tiled size (va + n) len l) : Tiled size va (n + len) ((va, n) :: l)

section
variable {size va len : Nat}

theorem pagesOf_of_within (hpos : 0 < len) (hin : va + len ≤ (va / size + 1) * size) : pagesOf size va len = [va / size] := by
  have hlast : (va + len - 1) / size = va / size :=
    Nat.div_eq_of_lt_le (by have := Nat.div_mul_le_self va size; omega) (by omega)
  simp [pagesOf, hpos.ne', hlast]

theorem piecesOf_of_within (hpos : 0 < len) (hin : va + len ≤ (va / size + 1) * size) :
    piecesOf size va len = [(va, len)] := by
  simp only [piecesOf, pagesOf_of_within hpos hin, List.map_cons, List.map_nil]
  rw [max_eq_left (Nat.div_mul_le_self va size), min_eq_left hin, Nat.add_sub_cancel_left]

theorem le_of_mem_pagesOf {k : Nat} (h : k ∈ pagesOf size va len) : va / size ≤ k := by
  unfold pagesOf at h
  split at h
  · cases h
  · obtain ⟨i, -, rfl⟩ := List.mem_map.1 h
    exact Nat.le_add_right _ _

variable (hsize : 0 < size)
include hsize

theorem lt_next_page : va < (va / size + 1) * size := Nat.lt_mul_of_div_lt (Nat.lt_succ_self _) hsize

theorem pagesOf_of_past {next rest : Nat} (hnext : next = (va / size + 1) * size) (hlen : va + len = next + rest)
    (hrest : 0 < rest) : pagesOf size va len = va / size :: pagesOf size next rest := by
  have hva : va < next := hnext ▸ lt_next_page hsize
  have hfirst : next / size = va / size + 1 := by rw [hnext, Nat.mul_div_cancel _ hsize]
  have hlast : next / size ≤ (next + rest - 1) / size := Nat.div_le_div_right (by omega)
  have hcount : (next + rest - 1) / size - va / size + 1 = (next + rest - 1) / size - next / size + 1 + 1 := by omega
  have hpos : len ≠ 0 := by omega
  simp only [pagesOf, beq_eq_false_iff_ne.2 hpos, beq_eq_false_iff_ne.2 hrest.ne', hlen, hcount, List.range_succ_eq_map,
    hfirst]
  simp [Nat.add_assoc, Nat.add_comm 1]

theorem piecesOf_of_past {next rest : Nat} (hnext : next = (va / size + 1) * size) (hlen : va + len = next + rest)
    (hrest : 0 < rest) : piecesOf size va len = (va, next - va) :: piecesOf size next rest := by
  have hva : va < next := hnext ▸ lt_next_page hsize
  rw [piecesOf, pagesOf_of_past hsize hnext hlen hrest, List.map_cons, piecesOf, ← hnext, hlen,
    max_eq_left (Nat.div_mul_le_self va size), min_eq_right (Nat.le_add_right _ _)]
  refine congrArg _ (List.map_congr_left fun k hk => ?_)
  have hpage : next ≤ k * size := calc
    next = next / size * size := (Nat.div_mul_cancel (Dvd.intro_left _ hnext.symm)).symm
    _ ≤ k * size := Nat.mul_le_mul_right _ (le_of_mem_pagesOf hk)
  rw [max_eq_right (hva.le.trans hpage), max_eq_right hpage]

theorem tiled_piecesOf : Tiled size va len (piecesOf size va len) := by
  induction len using Nat.strong_induction_on generalizing va with
  | _ len ih =>
    obtain ⟨next, hnext⟩ : ∃ next, next = (va / size + 1) * size := ⟨_, rfl⟩
    have hva : va < next := hnext ▸ lt_next_page hsize
    have hpage (j : Nat) (hj : va + j < next) : (va + j) / size = va / size :=
      Nat.div_eq_of_lt_le (by have := Nat.div_mul_le_self va size; omega) (by omega)
    rcases Nat.eq_zero_or_pos len with rfl | hpos
    · exact .nil va
    · rcases Nat.lt_or_ge next (va + len) with hpast | hin
      · obtain ⟨rest, hlen⟩ := Nat.exists_eq_add_of_lt hpast
        rw [Nat.add_assoc] at hlen
        rw [piecesOf_of_past hsize hnext hlen (Nat.succ_pos _), show len = next - va + (rest + 1) by omega]
        refine .cons (fun j hj => hpage j (by omega)) ?_
        rw [Nat.add_sub_cancel' hva.le]
        exact ih _ (by omega)
      · rw [piecesOf_of_within hpos (hnext ▸ hin)]
        exact .cons (len := 0) (fun j hj => hpage j (by omega)) (.nil _)

end

/-! ### Bytes put one by one -/

/-- Put bytes one by one at the keys of their addresses. -/
def putBytes (m : List Host.Cell) (key : Nat → Nat) (va : Nat) : List Byte → List Host.Cell
  | [] => m
  | b :: l => putBytes (memPut m (key va) b) key (va + 1) l

section
variable {m : List Host.Cell} {key : Nat → Nat} {va : Nat}

theorem putBytes_append {a b : List Byte} :
    putBytes m key va (a ++ b) = putBytes (putBytes m key va a) key (va + a.length) b := by
  induction a generalizing m va with
  | nil => rfl
  | cons x a ih => rw [List.cons_append, putBytes, ih, putBytes, List.length_cons, Nat.add_comm a.length, Nat.add_assoc]

/-- Where keys follow the addresses, that is one write. -/
theorem putBytes_eq_memWrite {l : List Byte} (h : ∀ j < l.length, key (va + j) = key va + j) :
    putBytes m key va l = memWrite m (key va) l := by
  induction l generalizing m va with
  | nil => rfl
  | cons b l ih =>
    cases l with
    | nil => rfl
    | cons c l =>
      have hnext : key (va + 1) = key va + 1 := h 1 (by simp)
      rw [putBytes, memWrite, ih fun j hj => ?_, hnext]
      rw [hnext, Nat.add_assoc, h (1 + j) (by simp at hj ⊢; omega), Nat.add_assoc]

theorem memGet_putBytes_of_ne {l : List Byte} {k : Nat} (h : ∀ i < l.length, k ≠ key (va + i)) :
    memGet (putBytes m key va l) k = memGet m k := by
  induction l generalizing m va with
  | nil => rfl
  | cons b l ih =>
    rw [putBytes, ih fun i hi => ?_, memGet_put, if_neg (by simpa using h 0)]
    rw [Nat.add_assoc]
    exact h (1 + i) (by simp; omega)

/-- A byte stays where it was put unless a later one shares its place. -/
theorem memGet_putBytes_of_last {l : List Byte} {i : Nat} {v : Byte} (hi : l[i]? = some v)
    (hlast : ∀ j, i < j → j < l.length → key (va + j) ≠ key (va + i)) :
    memGet (putBytes m key va l) (key (va + i)) = v := by
  induction l generalizing m va i with
  | nil => cases hi
  | cons b l ih =>
    cases i with
    | zero =>
      rw [putBytes, memGet_putBytes_of_ne fun j hj => ?_, memGet_put, if_pos (by rw [Nat.add_zero])]
      · simpa using hi
      · rw [Nat.add_assoc]
        exact (hlast (1 + j) (by omega) (by simp; omega)).symm
    | succ i =>
      rw [putBytes, Nat.add_comm i, ← Nat.add_assoc]
      refine ih (by simpa using hi) fun j hij hj => ?_
      rw [Nat.add_assoc, Nat.add_assoc, Nat.add_comm 1 i, Nat.add_comm 1 j]
      exact hlast (j + 1) (by omega) (by simpa using hj)

/-- Pieces over a range put its bytes at the keys of their addresses, where keys follow the addresses in a page. -/
theorem Tiled.pokePieces {size len : Nat} {l : List (Nat × Nat)} {b : List Byte} (h : Tiled size va len l)
    (hlen : b.length = len) (hkey : ∀ a j, (a + j) / size = a / size → key (a + j) = key a + j) :
    pokePieces m key l b = putBytes m key va b := by
  induction h generalizing m b with
  | nil va => rw [List.eq_nil_of_length_eq_zero hlen]; rfl
  | @cons va n len l hpage _ ih =>
    have hn : (b.take n).length = n := List.length_take_of_le (by omega)
    rw [Machine.pokePieces, ih (by rw [List.length_drop]; omega),
      ← putBytes_eq_memWrite fun j hj => hkey va j (hpage j (hn ▸ hj))]
    conv_rhs => rw [← List.take_append_drop n b, putBytes_append, hn]

/-- Where keys follow the addresses, one read gives the byte at the key of each. -/
theorem memRead_eq_map {n : Nat} (h : ∀ j < n, key (va + j) = key va + j) :
    memRead m (key va) n = (List.range' va n).map fun a => memGet m (key a) := by
  refine List.ext_getElem (by simp) fun j hj _ => ?_
  have hj : j < n := by simpa using hj
  rw [memRead_get _ _ _ _ hj]
  simp [h j hj]

theorem Tiled.flatMap_memRead {size len : Nat} {l : List (Nat × Nat)} (h : Tiled size va len l)
    (hkey : ∀ a j, (a + j) / size = a / size → key (a + j) = key a + j) :
    (l.flatMap fun e => memRead m (key e.1) e.2) = (List.range' va len).map fun a => memGet m (key a) := by
  induction h with
  | nil va => rfl
  | @cons va n len l hpage _ ih =>
    rw [List.flatMap_cons, ih, memRead_eq_map fun j hj => hkey va j (hpage j hj), ← List.range'_append_1, List.map_append]

end

/-! ### Virtual ranges -/

section
variable {s t : State} {p : Port} {pasid va : Nat} {b : List Byte}

theorem vaKey_of_host (h : va < deviceBase) : vaKey s p pasid va = memKey (.virt p pasid) va := if_neg (Nat.not_le.2 h)

theorem vaKey_add_of_host {i : Nat} (h : va + i < deviceBase) : vaKey s p pasid (va + i) = memKey (.virt p pasid) va + i := by
  rw [vaKey_of_host h, memKey, memKey, Nat.add_assoc]

theorem vaKey_of_page {m : PageMap} (hva : deviceBase ≤ va)
    (h : tblFind s.hbm.pages (deviceKey p pasid (devicePage va)) = some m) :
    vaKey s p pasid va = memKey (.page m.stack m.page) ((va - deviceBase) % 2 ^ 21) := by
  rw [vaKey, if_pos hva, h]

theorem pokeVa_mem : (pokeVa s p pasid va b).mem = putBytes s.mem (vaKey s p pasid) va b := by
  rw [pokeVa, unpoison_mem]
  exact (tiled_piecesOf (by decide)).pokePieces rfl fun _ _ => vaKey_add

/-- A read of a range gives the byte at each of its addresses. -/
theorem peekVa_eq_map {len : Nat} (hrange : va < deviceBase → va + len ≤ deviceBase) :
    peekVa s p pasid va len = (List.range' va len).map fun a => memGet s.mem (vaKey s p pasid a) := by
  unfold peekVa
  split
  · exact (tiled_piecesOf (by decide)).flatMap_memRead fun _ _ => vaKey_add
  · next hva =>
    have hhost := hrange (Nat.not_le.1 hva)
    rw [← vaKey_of_host (Nat.not_le.1 hva)]
    refine memRead_eq_map fun j hj => ?_
    rw [vaKey_add_of_host (by omega), vaKey_of_host (Nat.not_le.1 hva)]

theorem unpoison_eq {n : Nat} : unpoison s p pasid va n =
    { s with hbm := { s.hbm with poisoned := (unpoison s p pasid va n).hbm.poisoned } } := by
  unfold unpoison
  split <;> rfl

theorem poisoned_unpoison {n : Nat} : (unpoison s p pasid va n).hbm.poisoned ⊆ s.hbm.poisoned := by
  unfold unpoison
  split
  · exact List.filter_subset_self _
  · exact List.Subset.refl _

theorem unpoison_of_host {n : Nat} (h : va < deviceBase) : unpoison s p pasid va n = s := by
  simp [unpoison, Nat.not_le.2 h]

/-- A write that is not refused lies in one range. -/
theorem writeVa_ok (h : writeVa s p pasid va b = .ok t) :
    t = pokeVa s p pasid va b ∧ (va < deviceBase → va + b.length ≤ deviceBase) := by
  unfold writeVa at h
  split at h
  · next hok =>
    refine ⟨(Except.ok.inj h).symm, fun hva => ?_⟩
    unfold checkVa at hok
    split at hok
    · next hlen => rw [beq_iff_eq.1 hlen]; omega
    · split at hok
      · cases hok
      · next hin =>
        simp only [inOneRange, Bool.not_eq_true, Bool.not_eq_false', Bool.and_eq_true, Bool.or_eq_true,
          decide_eq_true_eq] at hin
        omega
  · cases h

/-- A write changes memory and the poison of units alone. -/
theorem pokeVa_eq : pokeVa s p pasid va b =
    { s with mem := (pokeVa s p pasid va b).mem, hbm := { s.hbm with poisoned := (pokeVa s p pasid va b).hbm.poisoned } } := by
  rw [pokeVa, unpoison_eq]

theorem poisoned_pokeVa : (pokeVa s p pasid va b).hbm.poisoned ⊆ s.hbm.poisoned := by
  rw [pokeVa]
  exact poisoned_unpoison

theorem pokeVa_pages : (pokeVa s p pasid va b).hbm.pages = s.hbm.pages := by rw [pokeVa_eq]

theorem memGet_pokeVa_of_ne {k : Nat} (h : ∀ i < b.length, k ≠ vaKey s p pasid (va + i)) :
    memGet (pokeVa s p pasid va b).mem k = memGet s.mem k := by
  rw [pokeVa_mem, memGet_putBytes_of_ne h]

theorem memGet_pokeVa_of_last {i : Nat} {v : Byte} (hi : b[i]? = some v)
    (hlast : ∀ j, i < j → j < b.length → vaKey s p pasid (va + j) ≠ vaKey s p pasid (va + i)) :
    memGet (pokeVa s p pasid va b).mem (vaKey s p pasid (va + i)) = v := by
  rw [pokeVa_mem, memGet_putBytes_of_last hi hlast]

/-- A read after a write gives the bytes written, where no two addresses share a place. -/
theorem peekVa_pokeVa (hrange : va < deviceBase → va + b.length ≤ deviceBase)
    (hkeys : ∀ i j, i < j → j < b.length → vaKey s p pasid (va + i) ≠ vaKey s p pasid (va + j)) :
    peekVa (pokeVa s p pasid va b) p pasid va b.length = b := by
  rw [peekVa_eq_map hrange]
  refine List.ext_getElem (by simp) fun i _ hi => ?_
  simp only [List.getElem_map, List.getElem_range', Nat.one_mul, vaKey_congr pokeVa_pages]
  exact memGet_pokeVa_of_last (List.getElem?_eq_getElem hi) fun j hij hj => (hkeys i j hij hj).symm

end

end Sys2Proof.Machine

namespace Sys2Proof
open Machine

/-- Settles O29: a write puts its bytes one by one (`pokeVa_mem`), and a read looks at the same places (`peekVa_eq_map`). -/
theorem virtualWritesLandWhereTheyPoint : Obligations.VirtualWritesLandWhereTheyPoint := by
  intro s t p pasid va b h
  obtain ⟨rfl, hrange⟩ := writeVa_ok h
  refine ⟨pokeVa_eq, fun _ hu => poisoned_pokeVa hu, fun hva => ?_, fun i => vaKey_add_of_host, fun i m => vaKey_of_page,
    fun k => memGet_pokeVa_of_ne, fun i v => memGet_pokeVa_of_last, peekVa_pokeVa hrange⟩
  have hkey (i : Nat) (hi : i < b.length) : vaKey s p pasid (va + i) = memKey (.virt p pasid) va + i :=
    vaKey_add_of_host (by have := hrange hva; omega)
  refine ⟨by rw [pokeVa, unpoison_of_host hva], peekVa_pokeVa hrange fun i j hij hj => ?_, fun k hk =>
    memGet_pokeVa_of_ne fun i hi => ?_⟩
  · rw [hkey i (by omega), hkey j hj]
    omega
  · rw [hkey i hi]
    omega

end Sys2Proof
end

section
/-! PROOFS. Queues poll, fetch, start commands and write their completion records (R272, R275, R277-R280, R282, R287, R290). -/

namespace Sys2Proof.Machine

/-! ### What a check of an access looks at (R268, R270, R331) -/

section
variable {s t : State} {p : Port} {pasid va n : Nat} {write : Bool}
variable (hhbm : t.hbm = s.hbm) (hport : t.port p = s.port p)
include hhbm hport

theorem checkVa_congr : checkVa t p pasid va n write = checkVa s p pasid va n write := by
  have hdevice (e : Nat × Nat) : checkDevice t p pasid e.1 e.2 write = checkDevice s p pasid e.1 e.2 write := by
    simp only [checkDevice, State.stack, hhbm]
  have hhost (e : Nat × Nat) : checkHost t p pasid e.1 write = checkHost s p pasid e.1 write := by
    simp only [checkHost, hport]
  simp only [checkVa, hdevice, hhost]

theorem readVa_congr (hmem : t.mem = s.mem) : readVa t p pasid va n = readVa s p pasid va n := by
  have hkey (a : Nat) : vaKey t p pasid a = vaKey s p pasid a := vaKey_congr (by rw [hhbm])
  simp only [readVa, checkVa_congr hhbm hport, peekVa, hmem, hkey]

end

section
variable {s : State} {p : Port}

theorem State.port_modEng {e : Nat} {f : Engine → Engine} : (s.modEng e f).port p = s.port p := by
  cases p <;> rfl

@[simp] theorem State.port_setQueue {i : Nat} {q : Queue} : (s.setQueue i q).port p = s.port p := by
  cases p <;> rfl

theorem checkVa_setQueue {i pasid va n : Nat} {q : Queue} {write : Bool} :
    checkVa (s.setQueue i q) p pasid va n write = checkVa s p pasid va n write :=
  checkVa_congr rfl State.port_setQueue

theorem readVa_modEng {e pasid va n : Nat} {f : Engine → Engine} :
    readVa (s.modEng e f) p pasid va n = readVa s p pasid va n :=
  readVa_congr rfl State.port_modEng rfl

end

/-! ### Polls and descriptor reads (R275, R279, R280) -/

section
variable {s : State} {i : Nat} {q : Queue} {b : List Byte}

theorem takeTail_of_ahead (hpast : atOrPast 32 (fieldOf b (8 * q.dbIndex) 4) q.fetched = true)
    (hroom : (fieldOf b (8 * q.dbIndex) 4 + 2 ^ 32 - q.fetched) % 2 ^ 32 ≤ 2 ^ q.ringLog2) :
    takeTail b s (i, q) = s.setQueue i { q with tail := fieldOf b (8 * q.dbIndex) 4 } := by
  unfold takeTail
  refine if_neg ?_
  rw [hpast, decide_eq_false (Nat.not_lt.2 hroom)]
  exact Bool.false_ne_true

/-- A poll of a page with the doorbell of one queue takes its tail. -/
theorem doorbellPoll_of_one {g : DoorbellPage}
    (hfind : s.qfe.pages.find? (fun d => d.engine == g.engine && d.pasid == g.pasid && d.page == g.page) = some g)
    (hpolled : polled s g = [(i, q)]) (hread : readVa s q.port g.pasid g.page 512 = .ok b) :
    doorbellPoll s g.engine g.pasid g.page = setPage (takeTail b s (i, q)) (nextInterval s q.port g (raised b (i, q))) := by
  unfold doorbellPoll
  rw [hfind]
  dsimp only
  rw [hpolled]
  dsimp only
  rw [hread]
  dsimp only
  rw [List.any_cons, List.any_nil, Bool.or_false, List.foldl_cons, List.foldl_nil]

theorem descriptorRead_of_next {slot : Nat} (hq : s.queue? i = some q)
    (hnext : nextRead s (q.engines.head?.getD 0) = some (slot, i))
    (hread : readVa s q.port q.pasid (readFrom q) (64 * readCount q) = .ok b) :
    descriptorRead s i = (s.modEng (q.engines.head?.getD 0) fun g => { g with readTurn := slot + 1 }).setQueue i { q with
      fetched := (q.fetched + readCount q) % 2 ^ 32, waiting := q.waiting ++ numbered q.fetched (readCount q) b } := by
  simp only [descriptorRead, hq, hnext, bne_self_eq_false, Bool.false_eq_true, if_false, readVa_modEng, hread]

/-! ### The start of a command (R282, R287) -/

section
variable {seq : Nat} {d : Desc} {rest : List (Nat × Desc)}
variable (hq : s.queue? i = some q) (hwaiting : q.waiting = (seq, d) :: rest)
include hq hwaiting

theorem commandStart_of_ready (hready : q.state = .ready) (hkind : q.kind ≠ 2) (horder : inOrder s i seq d = true)
    (hadmits : engineAdmits s i q d = true) : commandStart s i =
      startCmd (s.setQueue i { q with waiting := rest, started := (q.started + 1) % 2 ^ 32 }) i
        { q with waiting := rest, started := (q.started + 1) % 2 ^ 32 } { queue := i, seq := seq, desc := d } := by
  simp [commandStart, hq, hwaiting, hready, hkind, horder, hadmits]

/-- In a halted queue the head is cancelled with 0x4003. -/
theorem commandStart_of_halted (hhalted : q.state = .halted) (hresume : resuming s i = false) (hop : dOpcode d ≠ 4) :
    commandStart s i = putRecord (s.setQueue i { q with waiting := rest, started := (q.started + 1) % 2 ^ 32 }) i
      { seq := seq, fault := 0x4003, opcode := dOpcode d, status := phaseBit q seq, detail := q.faultSeq,
        tag := dField d 4 4, result := 0, irq := bit (dField d 1 1) 1 } := by
  simp [commandStart, hq, hwaiting, hhalted, hresume, hop]

end

theorem startCmd_of_checked {x : Cmd} (hcheck : startCheck x.desc = .ok ()) :
    startCmd s i q x = { s with qfe := { s.qfe with nextCmd := s.qfe.nextCmd + 1 } }.setCmd s.qfe.nextCmd x := by
  simp only [startCmd, hcheck]

end

/-! ### Preemption (R290) -/

section
variable {s : State} {l : List Nat} {f : Engine → Engine} {e : Nat}

theorem foldl_modEng_eq : l.foldl (fun s e => s.modEng e f) s =
    { s with engines := (l.foldl (fun s e => s.modEng e f) s).engines } := by
  induction l generalizing s with
  | nil => rfl
  | cons a l ih => rw [List.foldl_cons, ih]; rfl

theorem eng_modEng_ne {a : Nat} (h : e ≠ a) : (s.modEng a f).eng e = s.eng e := tblGet_set_ne _ _ _ h

theorem eng_foldl_modEng_of_notMem (h : e ∉ l) : (l.foldl (fun s e => s.modEng e f) s).eng e = s.eng e := by
  induction l generalizing s with
  | nil => rfl
  | cons a l ih =>
    rw [List.foldl_cons, ih (List.not_mem_of_not_mem_cons h), eng_modEng_ne (List.ne_of_not_mem_cons h)]

/-- A change that leaves what it has made changes each engine of the list once. -/
theorem eng_foldl_modEng_of_mem (hf : ∀ g, f (f g) = f g) (h : e ∈ l) :
    (l.foldl (fun s e => s.modEng e f) s).eng e = f (s.eng e) := by
  induction l generalizing s with
  | nil => cases h
  | cons a l ih =>
    rw [List.foldl_cons]
    by_cases hl : e ∈ l
    · rw [ih hl]
      by_cases ha : e = a
      · rw [ha, eng_modEng, hf]
      · rw [eng_modEng_ne ha]
    · obtain rfl : e = a := (List.mem_cons.1 h).resolve_right hl
      rw [eng_foldl_modEng_of_notMem hl, eng_modEng]

end

/-- An engine that a real-time queue asks to save normal work out. -/
def askSave (g : Engine) : Engine := { g with preempting := g.preempting || g.context.isNone }

theorem askSave_askSave (g : Engine) : askSave (askSave g) = askSave g := by
  simp only [askSave, Bool.or_assoc, Bool.or_self]

section
variable {s : State}

/-- Outside a reset, the front end works. -/
theorem exec_doorbellPoll {e pasid page : Nat} (hworks : s.works = true) (hreset : s.flt.resetStep = 0)
    (he : isEngine e = true) (hpasid : isPasid pasid = true) :
    exec (.doorbellPoll e pasid page) s = nextKeeping s (doorbellPoll s e pasid page) := by
  have hexec : exec (.doorbellPoll e pasid page) s = execDoorbellPoll e pasid page s := rfl
  rw [hexec, execDoorbellPoll, act_works hworks (by rw [he, hpasid]; rfl), if_pos (beq_iff_eq.2 hreset)]

theorem exec_descriptorRead {i : Nat} (hworks : s.works = true) (hreset : s.flt.resetStep = 0) :
    exec (.descriptorRead i) s = nextKeeping s (descriptorRead s i) := by
  have hexec : exec (.descriptorRead i) s = execDescriptorRead i s := rfl
  rw [hexec, execDescriptorRead, act_works hworks rfl, if_pos (beq_iff_eq.2 hreset)]

theorem exec_commandStart {i : Nat} (hworks : s.works = true) (hreset : s.flt.resetStep = 0) :
    exec (.commandStart i) s = nextKeeping s (commandStart s i) := by
  have hexec : exec (.commandStart i) s = execCommandStart i s := rfl
  rw [hexec, execCommandStart, act_works hworks rfl, if_pos (beq_iff_eq.2 hreset)]

end

theorem exec_realtimePreempt {s : State} {i : Nat} : exec (.realtimePreempt i) s = execRealtimePreempt i s := rfl

theorem exec_realtimePreempt_of_work {s : State} {i : Nat} {q : Queue} (hworks : s.works = true) (hq : s.queue? i = some q)
    (hkind : q.kind = 1) (hwork : realTimeWork s i q = true) :
    exec (.realtimePreempt i) s = .next (q.engines.foldl (fun s e => s.modEng e askSave) s) := by
  have hexec : exec (.realtimePreempt i) s = nextKeeping s (q.engines.foldl (fun s e => s.modEng e askSave) s) := by
    rw [exec_realtimePreempt, execRealtimePreempt, act_works hworks rfl]
    simp only [hq, hkind, hwork, beq_self_eq_true, Bool.and_self, if_true]
    rfl
  rw [hexec]
  exact nextKeeping_eq (by rw [foldl_modEng_eq])

/-! ### The completion record (R272, R277, R278) -/

theorem memRead_append {m : List Host.Cell} {k a b : Nat} : memRead m k (a + b) = memRead m k a ++ memRead m (k + a) b := by
  induction a generalizing k with
  | zero => simp [memRead]
  | succ a ih => rw [Nat.succ_add, memRead, memRead, ih, List.cons_append, Nat.add_assoc k 1 a, Nat.add_comm 1 a]

/-- In host memory a write of a virtual range is one write. -/
theorem pokeVa_mem_of_host {s : State} {p : Port} {pasid va : Nat} {b : List Byte} (h : va + b.length ≤ deviceBase)
    (hpos : va < deviceBase) : (pokeVa s p pasid va b).mem = memWrite s.mem (memKey (.virt p pasid) va) b := by
  rw [pokeVa_mem, putBytes_eq_memWrite fun j hj => ?_, vaKey_of_host hpos]
  rw [vaKey_add_of_host (by omega), vaKey_of_host hpos]

section
variable {s : State} {i : Nat} {q : Queue} {r : Record}

/-- A record written in its two halves stands in its slot. -/
theorem memRead_record {p : Port} {pasid va : Nat} (h : va + 32 < deviceBase) :
    memRead (pokeVa (pokeVa s p pasid (va + 8) (recordHigh r)) p pasid va (recordLow r)).mem (memKey (.virt p pasid) va) 32 =
      recordLow r ++ recordHigh r := by
  have hkey : memKey (.virt p pasid) (va + 8) = memKey (.virt p pasid) va + 8 := by rw [memKey, memKey, Nat.add_assoc]
  rw [pokeVa_mem_of_host (by rw [recordLow_length]; omega) (by omega),
    pokeVa_mem_of_host (by rw [recordHigh_length]; omega) (by omega), hkey, show 32 = 8 + 24 from rfl, memRead_append]
  congr 1
  · conv_lhs => rw [← recordLow_length r, memRead_write]
  · rw [memRead_write_out _ _ _ _ _ (.inr (by rw [recordLow_length])), ← recordHigh_length r, memRead_write]

/-- No launch waits for its record. -/
def NoneDue (s : State) : Prop :=
  (∀ l ∈ s.spin.launches, l.2.record = none) ∧ ∀ l ∈ s.grf.launches, l.2.record = none

theorem launchWritten_of_none {seq : Nat} (hdue : NoneDue s) : launchWritten s i seq = s := by
  obtain ⟨hspin, hgrf⟩ := hdue
  have hs : s.spin.launches.find? (fun e => e.2.queue == i && e.2.record == some seq) = none :=
    List.find?_eq_none.2 fun e he => by simp [hspin e he]
  have hg : s.grf.launches.find? (fun e => e.2.queue == i && e.2.record == some seq) = none :=
    List.find?_eq_none.2 fun e he => by simp [hgrf e he]
  simp only [launchWritten, hs, hg]

/-- A queue that holds a record for its turn. -/
def Queue.holding (q : Queue) (r : Record) : Queue := { q with held := tblPut q.held r.seq r }

/-- A queue whose next record has been written. -/
def Queue.advanced (q : Queue) : Queue := { q with held := tblDel q.held q.completed, completed := (q.completed + 1) % 2 ^ 32 }

/-- The state in which a record's two halves are in its slot. -/
def recorded (s : State) (q : Queue) (r : Record) : State :=
  pokeVa (pokeVa s q.port q.pasid (cplAddr q r.seq + 8) (recordHigh r)) q.port q.pasid (cplAddr q r.seq) (recordLow r)

theorem recorded_eq : recorded s q r = { s with mem := (recorded s q r).mem, hbm := (recorded s q r).hbm } := by
  rw [recorded, pokeVa_eq, pokeVa_eq]

theorem State.queue?_setQueue {k : Queue} : (s.setQueue i k).queue? i = some k := tblFind_put_same ..

/-- A record whose turn it is, and whose page may be written, is written. -/
theorem flushRecords_of_next {fuel : Nat} (hq : s.queue? i = some q) (hr : tblFind q.held q.completed = some r)
    (hirq : r.irq = false) (hdue : NoneDue s)
    (hcheck : checkVa s q.port q.pasid (cplAddr q r.seq + 8) 24 true = .ok ()) :
    flushRecords (fuel + 1) s i = flushRecords fuel (pollReset ((recorded s q r).setQueue i q.advanced) q.advanced) i := by
  have hwrite : writeVa s q.port q.pasid (cplAddr q r.seq + 8) (recordHigh r) =
      .ok (pokeVa s q.port q.pasid (cplAddr q r.seq + 8) (recordHigh r)) := by
    rw [writeVa, recordHigh_length, hcheck]
  have hlaunch : launchWritten (pollReset ((recorded s q r).setQueue i q.advanced) q.advanced) i r.seq =
      pollReset ((recorded s q r).setQueue i q.advanced) q.advanced := by
    rw [recorded_eq]
    exact launchWritten_of_none hdue
  rw [recorded, Queue.advanced] at hlaunch
  simp only [flushRecords, hq, hr, hwrite, hirq, Bool.false_eq_true, if_false, hlaunch]
  rfl

theorem putRecord_of_live (hq : s.queue? i = some q) (hlive : q.state ≠ .dead) (hsilent : q.silent = false) :
    putRecord s i r =
      flushRecords (q.held.length + 1) (haltFor (s.setQueue i (q.holding r)) i r.fault r.seq) i := by
  have hwrites : (q.state == .dead || q.silent) = false := by rw [beq_eq_false_iff_ne.2 hlive, hsilent]; rfl
  simp only [putRecord, hq, hwrites, Bool.false_eq_true, if_false]
  rfl

/-- A ready queue that holds no record back and whose next record is that of a sequence number. -/
structure Queue.Awaits (q : Queue) (seq : Nat) : Prop where
  ready : q.state = .ready
  silent : q.silent = false
  held : q.held = []
  next : q.completed = seq

/-- The record of a command without fault that its queue awaits is written. -/
theorem putRecord_of_next (hq : s.queue? i = some q) (hnext : q.Awaits r.seq) (hfault : r.fault = 0) (hirq : r.irq = false)
    (hdue : NoneDue s) (hcheck : checkVa s q.port q.pasid (cplAddr q r.seq + 8) 24 true = .ok ()) :
    putRecord s i r = pollReset ((recorded (s.setQueue i (q.holding r)) q r).setQueue i (q.holding r).advanced)
      (q.holding r).advanced := by
  have hhalt : haltFor (s.setQueue i (q.holding r)) i r.fault r.seq = s.setQueue i (q.holding r) := by
    simp only [haltFor, State.queue?_setQueue, hfault, bne_self_eq_false, Bool.and_false, Bool.false_and, Bool.false_eq_true,
      if_false]
  have hfound : tblFind (q.holding r).held (q.holding r).completed = some r := hnext.next ▸ tblFind_put_same ..
  rw [putRecord_of_live hq (by rw [hnext.ready]; exact QState.noConfusion) hnext.silent, hhalt,
    flushRecords_of_next State.queue?_setQueue hfound hirq hdue (checkVa_setQueue.trans hcheck), hnext.held]
  rfl

end

/-! ### The end of a command -/

section
variable {s : State} {c : Nat} {x : Cmd} {q : Queue}

/-- The record of a command that ends with fault 0 (R277). -/
def goodRecord (x : Cmd) (q : Queue) (r : BitVec 128) : Record :=
  { seq := x.seq, fault := 0, opcode := dOpcode x.desc, status := statusOf x false + phaseBit q x.seq, detail := 0,
    tag := dField x.desc 4 4, result := r, irq := bit (dField x.desc 1 1) 1 }

/-- A live ring command that holds no slot, flow or launch. -/
structure PlainCmd (s : State) (c : Nat) (x : Cmd) (q : Queue) : Prop where
  cmd : s.cmd? c = some x
  queue : s.queue? x.queue = some q
  node : x.node = none
  job : tblFind s.jobs c = none
  launch : tblFind s.spin.launches c = none
  graphLaunch : tblFind s.grf.launches c = none
  flows : ∀ f ∈ s.opx.flows, f.2.command ≠ some c

/-- The end of such a command gives up its place at a graph's element and puts its record. -/
theorem finishCmd_of_plain {r : BitVec 128} (h : PlainCmd s c x q) :
    finishCmd s c 0 0 r false false = putRecord ((releaseGraph s c).dropCmd c) x.queue (goodRecord x q r) := by
  obtain ⟨hx, hq, hnode, hjob, hspin, hgrf, hflows⟩ := h
  have hlaunch : endLaunch s c x 0 = s := by simp only [endLaunch, hspin]
  have hgraph : endGraphLaunch s c x = s := by simp only [endGraphLaunch, hgrf]
  have hclaims : releaseClaims (releaseGraph s c) c = releaseGraph s c := by
    have hjob : tblFind (releaseGraph s c).jobs c = none := hjob
    simp only [releaseClaims, hjob]
  have hmine : (((releaseGraph s c).dropCmd c).opx.flows.filter fun f => f.2.command == some c) = [] :=
    List.filter_eq_nil_iff.2 fun f hf => by simpa using hflows f hf
  have hrelease : releaseFlows ((releaseGraph s c).dropCmd c) c false = (releaseGraph s c).dropCmd c := by
    simp only [releaseFlows, hmine, List.map_nil, List.foldl_nil, Bool.false_eq_true, if_false]
  have hqueue : ((releaseGraph s c).dropCmd c).queue? x.queue = some q := hq
  simp only [finishCmd, hx, beq_self_eq_true, if_true, hlaunch, hgraph, hclaims, bne_self_eq_false, hrelease, hnode, hqueue]
  rfl

theorem port_releaseGraph {p : Port} : ((releaseGraph s c).dropCmd c).port p = s.port p := by
  cases p <;> rfl

/-- Such a command whose record its queue awaits is live no more and its record stands in its slot. -/
theorem finishCmd_record {r : BitVec 128} (h : PlainCmd s c x q) (hnext : q.Awaits x.seq)
    (hirq : bit (dField x.desc 1 1) 1 = false) (hdue : NoneDue s) (hhost : cplAddr q x.seq + 32 < deviceBase)
    (hcheck : checkVa s q.port q.pasid (cplAddr q x.seq + 8) 24 true = .ok ()) :
    (finishCmd s c 0 0 r false false).cmd? c = none ∧
      memRead (finishCmd s c 0 0 r false false).mem (memKey (.virt q.port q.pasid) (cplAddr q x.seq)) 32 =
        recordLow (goodRecord x q r) ++ recordHigh (goodRecord x q r) ∧
      (finishCmd s c 0 0 r false false).queue? x.queue = some (q.holding (goodRecord x q r)).advanced := by
  have hput := putRecord_of_next (s := (releaseGraph s c).dropCmd c) (i := x.queue) (r := goodRecord x q r) h.queue hnext rfl
    hirq hdue ((checkVa_congr rfl port_releaseGraph).trans hcheck)
  rw [finishCmd_of_plain h, hput]
  refine ⟨?_, memRead_record hhost, State.queue?_setQueue⟩
  rw [recorded_eq]
  exact tblFind_del_same ..

end

end Sys2Proof.Machine

namespace Sys2Proof
open Machine

/-- Settles O7: each command is the equation of its case, and a command that ends puts its record (`finishCmd_record`). -/
theorem queuesFetchStartAndComplete : Obligations.QueuesFetchStartAndComplete := by
  refine ⟨fun s i q hworks hreset => ⟨fun g b he hp hfind hpolled hread hpast hroom => ?_,
    fun b e slot hq he hnext hread => ?_, fun seq d rest hq hwaiting => ⟨fun hready hkind horder hadmits hcheck => ?_,
    fun hhalted hresume hop => ?_⟩, fun hq hkind hwork => ?_⟩,
    fun s c x q r hx hq hnode hready hsilent hheld hseq hirq hjob hspin hgrf _ hflows hspins hgrfs _ hhost _ hcheck => ?_⟩
  · rw [exec_doorbellPoll hworks hreset he hp, doorbellPoll_of_one hfind hpolled hread, takeTail_of_ahead hpast hroom]
    rfl
  · subst he
    rw [exec_descriptorRead hworks hreset, descriptorRead_of_next hq hnext hread]
    rfl
  · rw [exec_commandStart hworks hreset, commandStart_of_ready hq hwaiting hready hkind horder hadmits, startCmd_of_checked hcheck]
    rfl
  · rw [exec_commandStart hworks hreset, commandStart_of_halted hq hwaiting hhalted hresume hop]
  · exact ⟨_, exec_realtimePreempt_of_work hworks hq hkind hwork,
      fun e he => congrArg Engine.preempting (eng_foldl_modEng_of_mem askSave_askSave he),
      fun e he => eng_foldl_modEng_of_notMem he, foldl_modEng_eq⟩
  · obtain ⟨hgone, hmem, hqueue⟩ := finishCmd_record (r := r) ⟨hx, hq, hnode, hjob, hspin, hgrf, hflows⟩
      ⟨hready, hsilent, hheld, hseq⟩ hirq ⟨hspins, hgrfs⟩ hhost hcheck
    refine ⟨_, rfl, hgone, ?_, by rw [hqueue]; rfl⟩
    rw [hmem]
    simp [recordLow, recordHigh, goodRecord, statusOf, phaseBit, bit01]

end Sys2Proof
end

section
/-! PROOFS. Host accesses, ATS completions, page requests and invalidations (R269-R271). -/

namespace Sys2Proof.Machine

@[simp] theorem State.port_setPort {s : State} {p : Port} {x : PortState} : (s.setPort p x).port p = x := by
  cases p <;> rfl

theorem State.setPort_setPort {s : State} {p : Port} {x y : PortState} : (s.setPort p x).setPort p y = s.setPort p y := by
  cases p <;> rfl

/-- Two changes of a port are one. -/
theorem State.modPort_setPort {s : State} {p : Port} {x : PortState} {f : PortState → PortState} :
    (s.setPort p x).modPort p f = s.setPort p (f x) := by
  rw [State.modPort, State.port_setPort, State.setPort_setPort]

/-! ### Host accesses (R270) -/

section
variable {s : State} {c va len : Nat} {x : Cmd} {q : Queue} {write : Bool}
variable (hx : s.cmd? c = some x) (hq : s.queue? x.queue = some q) (hshut : x.shutter = none) (hstage : x.stage ≠ .committing)
  (hlen : len ≠ 0) (hrange : inOneRange va len = true) (hhost : va < deviceBase)
include hx hq hshut hstage hlen hrange hhost

/-- A read that its page's translation grants is outstanding under the lowest free tag. -/
theorem hostAccess_of_granted {k : Nat} (hcheck : checkVa s q.port q.pasid va len false = .ok ())
    (htag : lowestFree (fun t => ((s.port q.port).reads.any fun r => r.tag == t) || (s.port q.port).withheld.contains t)
      16384 0 = some k) : hostAccess s c va len false = s.modPort q.port fun o =>
        { o with reads := o.reads ++ [{ tag := k, command := c, pasid := q.pasid, page := va / 4096 }] } := by
  simp only [hostAccess, hx, hq, beq_eq_false_iff_ne.2 hlen, hshut, beq_eq_false_iff_ne.2 hstage, hrange, hcheck, htag,
    Nat.not_le.2 hhost, Option.isSome_none, Bool.or_self, Bool.not_true, Bool.false_eq_true, if_false, State.modPort]

theorem hostAccess_of_miss {a g : Nat} {w : Bool} (hcheck : checkVa s q.port q.pasid va len write = .error (.page a g w)) :
    hostAccess s c va len write = (askPage s q.port a g w).modCmd c fun y =>
      { y with page := some (a, g, w), stage := if y.stage == .started then .waiting else y.stage } := by
  simp only [hostAccess, hx, hq, beq_eq_false_iff_ne.2 hlen, hshut, beq_eq_false_iff_ne.2 hstage, hrange, hcheck,
    Nat.not_le.2 hhost, Option.isSome_none, Bool.or_self, Bool.not_true, Bool.false_eq_true, if_false]

end

/-! ### Translations and page requests (R270) -/

section
variable {s : State} {p : Port} {pasid page : Nat} {w : PageWait}

/-- The port after a translation that grants: its request is gone, and the page is in the cache. -/
def granted (s : State) (p : Port) (w : PageWait) (a : AtcEntry) : State :=
  s.modPort p fun y => cachePage { y with ats := y.ats.erase w } a

/-- The port after a translation that grants nothing: its request is gone. -/
def ungranted (s : State) (p : Port) (w : PageWait) : State := s.modPort p fun y => { y with ats := y.ats.erase w }

section
variable (hfind : (s.port p).ats.find? (fun w => w.pasid == pasid && w.page == page) = some w) (hlive : w.withdrawn = false)
include hfind hlive

/-- A completion that grants what its request asked for lets what waits for the page go on. -/
theorem atsCompletion_of_granted {r wr : Bool} (hany : (r || wr) = true) (hreads : w.reads = true → r = true)
    (hwrites : w.writes = true → wr = true) :
    let u := granted s p w { pasid := pasid, page := page, readable := r, writable := wr }
    let users := (if r then usersOf u p w false else []) ++ (if wr then usersOf u p w true else [])
    atsCompletion s p pasid page r wr = users.foldl (resumeUser p pasid page) u := by
  have hnone : (!r && !wr) = false := by rw [← Bool.not_or, hany]; rfl
  have hmet {a b : Bool} (h : a = true → b = true) : (a && !b) = false :=
    Bool.and_eq_false_imp.2 fun ha => by rw [h ha]; rfl
  simp only [atsCompletion, hfind, hlive, hnone, hmet hreads, hmet hwrites, Bool.false_eq_true, if_false, Bool.not_false,
    Bool.and_self, if_true, State.modPort_setPort]
  rfl

/-- One that grants nothing asks for the page once, and refuses what waits for it the second time. -/
theorem atsCompletion_of_refused (hasked : (w.reads || w.writes) = true) :
    let u := ungranted s p w
    let left := (if w.reads then usersOf u p w false else []) ++ (if w.writes then usersOf u p w true else [])
    atsCompletion s p pasid page false false = if w.again then refusePage u p pasid page (fun _ => 0x4040) left
      else askRequest u p { w with again := true, users := left } := by
  have hleft : (!w.reads && !w.writes) = false := by rw [← Bool.not_or, hasked]; rfl
  simp only [atsCompletion, hfind, hlive, hleft, Bool.false_eq_true, if_false, Bool.not_false, Bool.and_self, if_true,
    Bool.and_true, Bool.and_false, List.append_nil, List.foldl_nil]
  rfl

end

section
variable (hreq : requestFor s p pasid page = some w) (hlive : w.withdrawn = false)
include hreq hlive

theorem prgResponse_success : prgResponse s p pasid page .success =
    ((dropRequest s p w).modPort p fun x => { x with ats := x.ats ++ [w] }).request p (.atsRequest p pasid page) := by
  simp only [prgResponse, hreq, hlive, Bool.false_eq_true, if_false]

theorem prgResponse_invalidRequest : prgResponse s p pasid page .invalidRequest =
    refusePage (dropRequest s p w) p pasid page (fun _ => 0x4040) w.users := by
  simp only [prgResponse, hreq, hlive, Bool.false_eq_true, if_false]

theorem exec_pageRequestTimeout_of_live (hworks : s.works = true) (hpasid : isPasid pasid = true) :
    exec (.pageRequestTimeout p pasid page) s =
      nextKeeping s (refusePage (dropRequest s p w) p pasid page (fun _ => 0x4042) w.users) := by
  have hexec : exec (.pageRequestTimeout p pasid page) s = execPageRequestTimeout p pasid page s := rfl
  rw [hexec, execPageRequestTimeout, act_works hworks hpasid]
  simp only [hreq, hlive, Bool.false_eq_true, if_false]

end

/-! ### Invalidations (R269, R271) -/

theorem invalidate_of_full {n : Nat} (h : 32 ≤ (s.port p).invalidations.length) : invalidate s p pasid page n =
    s.modPort p fun x => { x with invalidationBacklog := x.invalidationBacklog ++ [(pasid, page, n)] } := if_pos h

/-- With room in the queue, the cache entries of the range leave, and no other. -/
theorem invalidate_of_room {n : Nat} (h : (s.port p).invalidations.length < 32) :
    (∀ a ∈ ((invalidate s p pasid page n).port p).atc, ¬ (a.pasid = pasid ∧ page ≤ a.page ∧ a.page < page + n)) ∧
      (∀ a ∈ (s.port p).atc, ¬ (a.pasid = pasid ∧ page ≤ a.page ∧ a.page < page + n) →
        a ∈ ((invalidate s p pasid page n).port p).atc) ∧
      ((invalidate s p pasid page n).port p).invalidations.length = (s.port p).invalidations.length + 1 := by
  have hroom : ¬ maxInvalidations ≤ (s.port p).invalidations.length := Nat.not_le.2 h
  rw [invalidate, if_neg hroom, State.port_setPort]
  have hhit (a : AtcEntry) : (!(a.pasid == pasid && decide (page ≤ a.page) && decide (a.page < page + n))) = true ↔
      ¬ (a.pasid = pasid ∧ page ≤ a.page ∧ a.page < page + n) := by
    rw [Bool.not_eq_true', ← Bool.not_eq_true, Bool.and_eq_true, Bool.and_eq_true, beq_iff_eq, decide_eq_true_eq,
      decide_eq_true_eq, and_assoc]
  exact ⟨fun a ha => (hhit a).1 (List.mem_filter.1 ha).2, fun a ha hout => List.mem_filter.2 ⟨ha, (hhit a).2 hout⟩,
    List.length_append⟩

theorem invalidate_pending {n : Nat} : (invalidate s p pasid page n).pending = s.pending := by
  unfold invalidate
  cases p <;> (dsimp only; split <;> rfl)

/-- An invalidation whose reads have all ended completes, and the next that waits takes its place. -/
theorem exec_invalidationDrainEnd_of_drained {v : Invalidation} {rest : List Invalidation} (hworks : s.works = true)
    (hv : (s.port p).invalidations = v :: rest) (hdrained : ∀ r ∈ (s.port p).reads, r.tag ∉ v.users) :
    exec (.invalidationDrainEnd p) s = nextKeeping s (nextInvalidation
      ((s.modPort p fun x => { x with invalidations := rest }).request p (.invalidationDone p v.pasid v.page)) p) := by
  have hlost : ((s.port p).reads.filter fun r => v.users.contains r.tag) = [] :=
    List.filter_eq_nil_iff.2 fun r hr => mt List.contains_iff_mem.1 (hdrained r hr)
  have hexec : exec (.invalidationDrainEnd p) s = execInvalidationDrainEnd p s := rfl
  rw [hexec, execInvalidationDrainEnd, act_works hworks rfl]
  simp only [hv, hlost, List.foldl_nil]

end

/-! ### The commands -/

section
variable {s : State} {p : Port} {pasid page : Nat}

theorem exec_hostAccess {c va len : Nat} {write : Bool} :
    exec (.hostAccess c va len write) s = act true s fun s => hostAccess s c va len write := rfl

theorem exec_atsTranslationCompletion {r wr : Bool} : exec (.atsTranslationCompletion p pasid page r wr) s =
    act (isPasid pasid) s fun s => atsCompletion s p pasid page r wr := rfl

theorem exec_prgResponse {code : PrgCode} : exec (.prgResponse p pasid page code) s =
    act (isPasid pasid) s fun s => prgResponse s p pasid page code := rfl

theorem exec_atsInvalidationRequest {n : Nat} : exec (.atsInvalidationRequest p pasid page n) s =
    act (isPasid pasid) s fun s => invalidate s p pasid page n := rfl

end

end Sys2Proof.Machine

namespace Sys2Proof
open Machine

/-- Settles O8: each command is the equation of its case; an invalidation with room leaves the cache as said
(`invalidate_of_room`). -/
theorem translationCommandsComplete : Obligations.TranslationCommandsComplete := by
  refine fun s p pasid page hworks hpasid => ⟨fun c x q va len hx hq hshut hstage hlen hrange hhost =>
      ⟨fun k hcheck htag => ?_, fun write a g w hcheck => ?_⟩,
    fun w hfind hlive => ⟨fun r wr hany hreads hwrites => ?_, fun hasked => ?_⟩, fun w hreq hlive => ⟨?_, ?_, ?_⟩,
    fun n hfull => ?_, fun n hroom => ?_, fun v rest hv hdrained => exec_invalidationDrainEnd_of_drained hworks hv hdrained⟩
  · rw [exec_hostAccess, act_works hworks rfl, hostAccess_of_granted hx hq hshut hstage hlen hrange hhost hcheck htag]
    exact nextKeeping_eq (State.modPort_pending ..)
  · rw [exec_hostAccess, act_works hworks rfl, hostAccess_of_miss hx hq hshut hstage hlen hrange hhost hcheck]
  · rw [exec_atsTranslationCompletion, act_works hworks hpasid, atsCompletion_of_granted hfind hlive hany hreads hwrites]
    rfl
  · rw [exec_atsTranslationCompletion, act_works hworks hpasid, atsCompletion_of_refused hfind hlive hasked]
    rfl
  · rw [exec_prgResponse, act_works hworks hpasid, prgResponse_success hreq hlive]
  · rw [exec_prgResponse, act_works hworks hpasid, prgResponse_invalidRequest hreq hlive]
  · exact exec_pageRequestTimeout_of_live hreq hlive hworks hpasid
  · rw [exec_atsInvalidationRequest, act_works hworks hpasid, invalidate_of_full hfull]
    exact nextKeeping_eq (State.modPort_pending ..)
  · refine ⟨_, ?_, invalidate_of_room hroom⟩
    rw [exec_atsInvalidationRequest, act_works hworks hpasid]
    exact nextKeeping_eq invalidate_pending

end Sys2Proof
end

section
/-! PROOFS. Set-up requests end with their result, and queues are torn down (R289, R293-R297). -/

namespace Sys2Proof.Machine

/-! ### What an event leaves of a port (R453-R456) -/

/-- A port without what an event can change. -/
def PortState.quiet (x : PortState) : PortState := { x with msix := [], hostCause := [] }

section
variable {s : State} {p : Port}

theorem quiet_setPort {a : Port} {x : PortState} (h : x.quiet = (s.port a).quiet) :
    ((s.setPort a x).port p).quiet = (s.port p).quiet := by
  cases a <;> cases p
  exacts [h, rfl, rfl, h]

@[simp] theorem State.port_send {m : OutMsg} : (s.send m).port p = s.port p := by
  cases p <;> rfl

theorem quiet_msixSend {a : Port} {v : Nat} : ((msixSend s a v).port p).quiet = (s.port p).quiet := by
  unfold msixSend
  dsimp only
  split
  · exact quiet_setPort rfl
  · split
    · exact quiet_setPort rfl
    · rw [State.port_send]
      exact quiet_setPort rfl

theorem quiet_msixTrigger {a : Port} {v : Nat} : ((msixTrigger s a v).port p).quiet = (s.port p).quiet := by
  unfold msixTrigger
  dsimp only
  split
  · rfl
  · split
    · exact quiet_msixSend
    · exact quiet_setPort rfl

theorem quiet_hostForward {a : Port} {n : Nat} : ((hostForward s a n).port p).quiet = (s.port p).quiet := by
  unfold hostForward
  dsimp only
  split
  · rfl
  · exact quiet_msixTrigger.trans (quiet_setPort rfl)

theorem quiet_fire {n : Nat} : ((s.fire n).port p).quiet = (s.port p).quiet := by
  unfold State.fire
  split
  · exact quiet_hostForward.trans (quiet_hostForward.trans (by cases p <;> rfl))
  · rfl

theorem setup_fire {n : Nat} : ((s.fire n).port p).setup = (s.port p).setup := (congrArg PortState.setup quiet_fire :)

theorem State.fire_qfe {n : Nat} : (s.fire n).qfe = s.qfe := (congrArg State.qfe (s.fire_eventless n) :)

theorem State.port_modPort {f : PortState → PortState} : (s.modPort p f).port p = f (s.port p) := State.port_setPort

/-! ### The end of a request (R293) -/

theorem setup_setupDone {code : Nat} :
    ((setupDone s p code).port p).setup = { (s.port p).setup with busy := false, result := code } := by
  rw [setupDone, setup_fire, State.port_modPort]
  cases p <;> rfl

theorem setupDone_qfe {code : Nat} :
    (setupDone s p code).qfe = { s.qfe with setupOrder := s.qfe.setupOrder.drop 1 } := by
  rw [setupDone, State.fire_qfe, State.modPort_qfe]

end

/-! ### Set-up requests (R294, R295) -/

section
variable {s u : State} {p : Port} {op i gen : Nat} {b : List Byte} {f : State → List Byte → Except Nat State}

/-- The op of a request that is accepted ends it with result 0. -/
theorem act_setupOp (h : SetupAt s p op b) (hf : f s b = .ok u) :
    act true s (fun s => setupOp s p op f) = nextKeeping s (setupDone u p 0) := by
  obtain ⟨hworks, hreq, hop⟩ := h
  rw [act_works hworks rfl]
  simp only [setupOp, hreq, hop, bne_self_eq_false, Bool.false_eq_true, if_false, hf]

theorem createQueue_ok {engines : List Nat} {q : Queue}
    (hengines : engines = mapEngines (s.read (.untranslated p) (fieldOf b 0x28 8) 96)) (hq : q = queueOf p gen b engines)
    (hgood : createBad b engines = false)
    (hfree : ∀ e ∈ engines, s.engineUsable e = true ∧ (s.eng e).portB = (p == .B) ∧ (freeQueueSlot (s.eng e)).isSome = true)
    (hsill : fieldOf b 1 1 = 1 → ∀ e ∈ engines, (s.eng e).sill = true)
    (hnew : newIndex 12288 (fun i => (s.queue? i).isSome) s.qfe.queueGens = some (i, gen))
    (hu : u = { s with qfe := { s.qfe with queueGens := tblPut s.qfe.queueGens i gen } }.setQueue i q) :
    createQueue s p b = .ok (writeHandle (usePage (engines.foldl (takeSlot i)
      (if q.kind == 1 then engines.foldl lowerWindow u else u)) q) p (mkHandle 6 gen i)) := by
  have husable : (engines.any fun e => !s.engineUsable e || (s.eng e).portB != (p == .B)) = false :=
    List.any_eq_false.2 fun e he => by
      obtain ⟨huse, hport, -⟩ := hfree e he
      simp [huse, hport]
  have hslots : (engines.any fun e => (freeQueueSlot (s.eng e)).isNone) = false :=
    List.any_eq_false.2 fun e he => by
      obtain ⟨-, -, hslot⟩ := hfree e he
      rw [Option.isNone_eq_false_iff.2 hslot]
      exact Bool.false_ne_true
  have hsills : (fieldOf b 1 1 == 1 && engines.any fun e => !(s.eng e).sill) = false := by
    rw [Bool.and_eq_false_imp]
    intro hkind
    exact List.any_eq_false.2 fun e he => by simp [hsill (beq_iff_eq.1 hkind) e he]
  subst hu hq
  simp only [createQueue, ← hengines, hgood, husable, hslots, hsills, hnew, Bool.false_eq_true, if_false]

theorem createFence_ok (hpasid : fieldOf b 4 4 < 2 ^ 20) (hmirror : fieldOf b 0x10 8 % 8 = 0)
    (hnew : newIndex 16384 (fun i => (s.fence? i).isSome) s.qfe.fenceGens = some (i, gen)) :
    createFence s p b = .ok (writeHandle
      ({ s with qfe := { s.qfe with fenceGens := tblPut s.qfe.fenceGens i gen } }.setFence i
        { gen := gen, port := p, pasid := fieldOf b 4 4, value := BitVec.ofNat 64 (fieldOf b 8 8),
          mirror := fieldOf b 0x10 8 }) p (mkHandle 5 gen i)) := by
  have hgood : (decide (2 ^ 20 ≤ fieldOf b 4 4) || fieldOf b 0x10 8 % 8 != 0) = false := by
    rw [decide_eq_false (Nat.not_le.2 hpasid), hmirror]
    rfl
  simp only [createFence, hgood, hnew, Bool.false_eq_true, if_false]

theorem destroyFence_ok {f : Fence} (hi : fenceIndex s (fieldOf b 8 8) = some i) (hf : s.fence? i = some f)
    (hport : f.port = p) :
    destroyFence s p b = .ok { s with qfe := { s.qfe with fences := tblDel s.qfe.fences i } } := by
  simp only [destroyFence, hi, hf, hport, bne_self_eq_false, Bool.false_eq_true, if_false]

theorem exec_setupCreateQueue : exec (.setupCreateQueue p) s =
    act true s fun s => setupOp s p 1 fun s b => createQueue s p b := rfl

theorem exec_setupCreateFence : exec (.setupCreateFence p) s =
    act true s fun s => setupOp s p 3 fun s b => createFence s p b := rfl

theorem exec_setupDestroyFence : exec (.setupDestroyFence p) s =
    act true s fun s => setupOp s p 4 fun s b => destroyFence s p b := rfl

theorem exec_setupRequestInvalid_of_bad (hworks : s.works = true) (hreq : setupRequest s p = some b)
    (hop : fieldOf b 0 1 = 0 ∨ 4 < fieldOf b 0 1) :
    exec (.setupRequestInvalid p) s = nextKeeping s (setupDone s p 0x4050) := by
  have hbad : (fieldOf b 0 1 == 0 || decide (4 < fieldOf b 0 1)) = true := by
    rwa [Bool.or_eq_true, beq_iff_eq, decide_eq_true_eq]
  have hexec : exec (.setupRequestInvalid p) s = execSetupRequestInvalid p s := rfl
  rw [hexec, execSetupRequestInvalid, act_works hworks rfl]
  simp only [hreq, hbad, if_true]

end

/-! ### Queue teardown (R296, R297) -/

section
variable {s : State} {p : Port} {i : Nat} {q : Queue} {b : List Byte}

theorem exec_setupDestroyQueue_of_own (h : SetupAt s p 2 b) (hi : queueIndex s (fieldOf b 8 8) = some i)
    (hq : s.queue? i = some q) (hport : q.port = p) :
    exec (.setupDestroyQueue p) s = nextKeeping s ((teardownTasks s i (BitVec.ofNat 64 (fieldOf b 8 8))).foldl
      (fun s e => endTask s e 0x3056) ((teardownCommands s i).foldl startShutter
        ({ s with qfe := { s.qfe with teardown := some (p,
            { queue := i, handle := BitVec.ofNat 64 (fieldOf b 8 8), discarded := q.waiting.length, startedAt := s.time,
              commands := teardownCommands s i }) } }.setQueue i
          { q with state := .dead, waiting := [], held := [], waits := [] }))) := by
  obtain ⟨hworks, hreq, hop⟩ := h
  have hexec : exec (.setupDestroyQueue p) s = execSetupDestroyQueue p s := rfl
  rw [hexec, execSetupDestroyQueue, act_works hworks rfl]
  simp only [hreq, hop, beq_self_eq_true, if_true, destroyQueue, hi, hq, hport, bne_self_eq_false, Bool.false_eq_true, if_false]

/-- The state in which a queue has left the table and its pages' polls have ended (R296). -/
def torn (s : State) (i : Nat) (p : Port) (pasid : Nat) : State :=
  prunePages (withdrawPages { s with qfe := { s.qfe with queues := tblDel s.qfe.queues i, teardown := none } } p pasid)

theorem torn_qfe {pasid : Nat} : (torn s i p pasid).qfe =
    { s.qfe with queues := tblDel s.qfe.queues i, teardown := none, pages := (torn s i p pasid).qfe.pages } := by
  have hwithdraw (u : State) : (withdrawPages u p pasid).qfe = u.qfe := State.modPort_qfe ..
  simp only [torn, prunePages, hwithdraw]

/-- A report, written or lost, leaves the queue torn down. -/
theorem torn_ite_write {up : Bool} {pasid a : Nat} {sp : Space} {r : List Byte} :
    (if up then (torn s i p pasid).write sp a r else torn s i p pasid).queue? i = none ∧
      (if up then (torn s i p pasid).write sp a r else torn s i p pasid).qfe.teardown = none := by
  have hqfe : (if up then (torn s i p pasid).write sp a r else torn s i p pasid).qfe = (torn s i p pasid).qfe := by
    split <;> rfl
  rw [State.queue?, hqfe, torn_qfe]
  exact ⟨tblFind_del_same .., rfl⟩

/-- A teardown that nothing holds up any more ends its port's request, and its queue is gone. -/
theorem teardownComplete_of_ended {t : Teardown} (ht : s.qfe.teardown = some (p, t)) (hq : s.queue? t.queue = some q)
    (hack : ∀ c ∈ t.commands, ∀ x, s.cmd? c = some x → acknowledged s c x = true)
    (htasks : teardownTasks s t.queue t.handle = []) (hlink : (s.port p).linkUp = true → (s.port p).mayRequest = true) :
    ∃ u, teardownComplete s p = setupDone u p 0 ∧ u.queue? t.queue = none ∧ u.qfe.teardown = none := by
  have hall : ((t.commands.filterMap fun c => (s.cmd? c).map fun x => (c, x)).all fun e => acknowledged s e.1 e.2) = true := by
    rw [List.all_eq_true]
    rintro ⟨c, x⟩ he
    obtain ⟨c', hc, hx⟩ := List.mem_filterMap.1 he
    obtain ⟨x', hx', heq⟩ := Option.map_eq_some_iff.1 hx
    cases heq
    exact hack c hc x hx'
  have hreport : ((s.port p).linkUp && !(s.port p).mayRequest) = false := by
    rw [Bool.and_eq_false_imp]
    exact fun hup => by rw [hlink hup]; rfl
  simp only [teardownComplete, ht, hq, bne_self_eq_false, hall, htasks, List.isEmpty_nil, hreport, Bool.not_true, Bool.or_self,
    Bool.false_eq_true, if_false]
  exact ⟨_, rfl, torn_ite_write⟩

end

end Sys2Proof.Machine

namespace Sys2Proof
open Machine

/-- Settles O10: an accepted op ends its request (`act_setupOp`, `setup_setupDone`), and so does the end of a teardown. -/
theorem setUpRequestsAndTeardown : Obligations.SetUpRequestsAndTeardown := by
  refine ⟨fun s p b => ⟨fun i gen h hgood hfree hsill hnew => ?_, fun i gen h hpasid hmirror hnew => ?_,
    fun i f h hi hf hport => ?_, fun hworks hreq hop => exec_setupRequestInvalid_of_bad hworks hreq hop,
    fun u code => ⟨setup_setupDone, setupDone_qfe⟩⟩,
    fun s p i q => ⟨fun b h hi hq hport => exec_setupDestroyQueue_of_own h hi hq hport,
      fun t hworks ht hq hack htasks hlink => ?_⟩⟩
  · exact exec_setupCreateQueue.trans (act_setupOp h (createQueue_ok rfl rfl hgood hfree hsill hnew rfl))
  · exact exec_setupCreateFence.trans (act_setupOp h (createFence_ok hpasid hmirror hnew))
  · exact exec_setupDestroyFence.trans (act_setupOp h (destroyFence_ok hi hf hport))
  · obtain ⟨u, hu, hqueue, hdone⟩ := teardownComplete_of_ended ht hq hack htasks hlink
    have hexec : exec (.queueTeardownComplete p) s = act true s fun s => teardownComplete s p := rfl
    refine ⟨_, hexec.trans (act_works hworks rfl), ?_⟩
    rw [hu]
    refine ⟨?_, ?_, congrArg Mailbox.busy setup_setupDone, congrArg Mailbox.result setup_setupDone⟩
    · exact (congrArg (tblFind · t.queue) (congrArg Qfe.queues setupDone_qfe)).trans hqueue
    · exact (congrArg Qfe.teardown setupDone_qfe).trans hdone

end Sys2Proof
end

section
/-! PROOFS. A write of a source's configuration, when the table of sources lists the source twice (R449, R451). -/

namespace Sys2Proof.Machine

/-- A write by a management core acts on its own controller. -/
theorem exec_registerWrite_of_core {s : State} {p : Port} {off v : Nat} (hoff : off < 2 ^ 26) (hv : isWord v = true) :
    exec (.registerWrite p true off v false) s = nextKeeping s (coreWrite s p off v) := by
  have hexec : exec (.registerWrite p true off v false) s = execRegisterWrite p true off v false s := rfl
  rw [hexec, execRegisterWrite, actAlways_ok (by rw [decide_eq_true hoff, if_neg Bool.false_ne_true, hv]; rfl)]
  rfl

/-- A module in reset state with port A up, where controller A's table lists source 0 twice, the second time as held back. -/
def listedTwice : State :=
  { portA := { linkUp := true, memEnable := true }, hostA := { sources := [(0, {}), (0, { held := true })] } }

theorem listedTwice_reached : Reached listedTwice .A := ⟨by decide, by decide⟩

/-- The offset of EVC_SRC_CFG_0 in the window of port A's host die. -/
def srcCfg0 : Nat := 0x1000000 + hostDieIdx .A * 0x80000 + 0x50000 + 4 * 0

/-- The write of EVC_SRC_CFG_0 with bit 31 set changes the first entry; core 0 does not coalesce, so what it holds back is released
(R451), and the release puts the second entry's configuration in place of what was written. -/
theorem listedTwice_compat : (getSrc ((coreWrite listedTwice .A srcCfg0 (2 ^ 31)).host .A) 0).compat = false := by
  decide +kernel

end Sys2Proof.Machine

namespace Sys2Proof
open Machine

/-- Refutes O11: its clause on EVC_SRC_CFG_n speaks of every state, and in `listedTwice` the bit 31 written does not read back
(`listedTwice_compat`). Its table of sources names a source twice, which the canonical form `tblWf` excludes and the statement does
not. -/
theorem not_registerWritesSetTheirField : ¬ Obligations.RegisterWritesSetTheirField := by
  rintro ⟨-, -, hwrites⟩
  obtain ⟨-, -, -, -, -, -, -, -, -, -, -, -, hconfig, -⟩ :=
    hwrites listedTwice .A (2 ^ 31) listedTwice_reached rfl (by decide)
  obtain ⟨t, ht, -, -, hcompat, -⟩ := hconfig 0 (by decide)
  obtain rfl := Host.Outcome.next.inj (ht.symm.trans (exec_registerWrite_of_core (off := srcCfg0) (by decide) (by decide)))
  exact Bool.false_ne_true (listedTwice_compat.symm.trans hcompat)

end Sys2Proof
end
